-- ==== Sys2Proof/Word.lean ====
section
/-! DEFINITION. The words of the package and the two plainest containers: a table keyed by a natural number, and a byte list.
Byte order is little-endian throughout (R70, R74). -/

namespace Sys2Proof

/-- A 64-bit word: a register of the package, a handle, an address, a descriptor word. -/
abbrev Word := BitVec 64

/-- A 32-bit word: a thread register, half of an instruction. -/
abbrev W32 := BitVec 32

/-- One byte of memory or of a message. -/
abbrev Byte := BitVec 8

/-- A table from natural-number keys to values: a list of pairs with strictly rising keys.
A key that is not listed reads as the default that the reader names. -/
abbrev Tab (α : Type) := List (Nat × α)

end Sys2Proof
end

