-- ==== Sys2Proof/Machine/Tab.lean ====
section
/-! DEFINITION. Reading and writing tables (`Tab`), ordered sets of numbers, and a few list helpers. -/

namespace Sys2Proof.Machine

/-- The value a table lists for a key, if it lists one. -/
def tget? {α : Type} (t : Tab α) (k : Nat) : Option α :=
  match t with
  | [] => none
  | (j, v) :: r => if j = k then some v else if k < j then none else tget? r k

/-- The value of a key, or the default where the table lists none. -/
def tgetD {α : Type} (t : Tab α) (k : Nat) (d : α) : α := (tget? t k).getD d

/-- Write a key, keeping the keys in rising order. -/
def tset {α : Type} (t : Tab α) (k : Nat) (v : α) : Tab α :=
  match t with
  | [] => [(k, v)]
  | (j, w) :: r => if j < k then (j, w) :: tset r k v else if j = k then (k, v) :: r else (k, v) :: (j, w) :: r

/-- Remove a key. -/
def tdel {α : Type} (t : Tab α) (k : Nat) : Tab α :=
  match t with
  | [] => []
  | (j, w) :: r => if j = k then r else if k < j then (j, w) :: r else (j, w) :: tdel r k

/-- Change the value of a key, starting from the default where it is not listed. -/
def tmod {α : Type} (t : Tab α) (k : Nat) (d : α) (f : α → α) : Tab α := tset t k (f (tgetD t k d))

/-- Change the value of a key only where the table lists it. -/
def tupd {α : Type} (t : Tab α) (k : Nat) (f : α → α) : Tab α :=
  match tget? t k with
  | some v => tset t k (f v)
  | none => t

/-- Change every listed value. -/
def tmapv {α : Type} (t : Tab α) (f : Nat → α → α) : Tab α := t.map (fun p => (p.1, f p.1 p.2))

/-- Keep the listed pairs that a test admits. -/
def tfilter {α : Type} (t : Tab α) (f : Nat → α → Bool) : Tab α := t.filter (fun p => f p.1 p.2)

/-- Two tables as one; the second wins where both list a key. -/
def tunion {α : Type} (fuel : Nat) (a b : Tab α) : Tab α :=
  match fuel with
  | 0 => a ++ b
  | f + 1 =>
    match a, b with
    | [], _ => b
    | _, [] => a
    | (j, v) :: r, (k, w) :: t =>
      if j < k then (j, v) :: tunion f r ((k, w) :: t)
      else if j = k then (k, w) :: tunion f r t
      else (k, w) :: tunion f ((j, v) :: r) t

/-- Write a table of rising keys over another. -/
def tover {α : Type} (a b : Tab α) : Tab α := tunion (a.length + b.length) a b

/-- Insert a number into a rising list without repeats. -/
def sinsert (l : List Nat) (k : Nat) : List Nat :=
  match l with
  | [] => [k]
  | j :: r => if j < k then j :: sinsert r k else if j = k then j :: r else k :: j :: r

/-- Remove a number from a list. -/
def sdel (l : List Nat) (k : Nat) : List Nat := l.filter (fun j => j != k)

/-- Set element `i` of a list that is filled up with a default where it is too short. -/
def lset {α : Type} (l : List α) (i : Nat) (d v : α) : List α :=
  match l, i with
  | [], 0 => [v]
  | [], i + 1 => d :: lset [] i d v
  | _ :: r, 0 => v :: r
  | x :: r, i + 1 => x :: lset r i d v

/-- Remove the first element that a test admits. -/
def removeFirst {α : Type} (l : List α) (p : α → Bool) : List α :=
  match l with
  | [] => []
  | x :: r => if p x then r else x :: removeFirst r p

/-- Change the first element that a test admits. -/
def updateFirst {α : Type} (l : List α) (p : α → Bool) (f : α → α) : List α :=
  match l with
  | [] => []
  | x :: r => if p x then f x :: r else x :: updateFirst r p f

/-- Change every element that a test admits. -/
def updateAll {α : Type} (l : List α) (p : α → Bool) (f : α → α) : List α := l.map (fun x => if p x then f x else x)

/-- Cut a list into pieces of `n` elements (at most `fuel` pieces). -/
def chunks {α : Type} (n fuel : Nat) (l : List α) : List (List α) :=
  match fuel with
  | 0 => []
  | f + 1 => if l.isEmpty then [] else l.take n :: chunks n f (l.drop n)

/-- Run a change for each number below `n`, in rising order. -/
def forN {σ : Type} (n : Nat) (f : Nat → σ → σ) (s : σ) : σ := (List.range n).foldl (fun s i => f i s) s

/-- Run a change for each element of a list, in order. -/
def forL {α σ : Type} (l : List α) (f : α → σ → σ) (s : σ) : σ := l.foldl (fun s x => f x s) s

end Sys2Proof.Machine
end

