-- ==== Sys2Proof/Machine/Bits.lean ====
section
/-! DEFINITION. Bit fields, bytes and integers: fields of a word, little-endian bytes, signed reading, saturating counters,
serial comparison (R30). -/

namespace Sys2Proof.Machine

/-- Bits `hi` to `lo` of a number. -/
def bits (w hi lo : Nat) : Nat := (w >>> lo) % 2 ^ (hi + 1 - lo)

/-- Bit `i` of a number. -/
def bit (w i : Nat) : Bool := (w >>> i) % 2 == 1

/-- Bits `hi` to `lo` of a number replaced by `v`. -/
def setBits (w hi lo v : Nat) : Nat :=
  let n := hi + 1 - lo
  (w >>> (hi + 1)) <<< (hi + 1) + (v % 2 ^ n) <<< lo + w % 2 ^ lo

/-- 1 for true, 0 for false. -/
def b2n (b : Bool) : Nat := if b then 1 else 0

/-- The two's-complement reading of a `w`-bit number. -/
def sext (w v : Nat) : Int := if v % 2 ^ w < 2 ^ (w - 1) then ((v % 2 ^ w : Nat) : Int) else ((v % 2 ^ w : Nat) : Int) - (2 ^ w : Nat)

/-- An integer taken modulo 2^w. -/
def wrap (w : Nat) (v : Int) : Nat := (v % ((2 ^ w : Nat) : Int)).toNat

/-- A number as `n` bytes, least significant first. -/
def toBytes (n v : Nat) : List Byte :=
  match n with
  | 0 => []
  | n + 1 => BitVec.ofNat 8 v :: toBytes n (v / 256)

/-- The number that bytes spell, least significant first. -/
def ofBytes (l : List Byte) : Nat :=
  match l with
  | [] => 0
  | b :: r => b.toNat + 256 * ofBytes r

/-- `n` bytes of a byte list from an offset, read as a number; bytes past the end read 0. -/
def bytesAt (l : List Byte) (off n : Nat) : Nat := ofBytes ((l.drop off).take n)

/-- Replace bytes of a byte list from an offset. -/
def putBytes (l : List Byte) (off : Nat) (v : List Byte) : List Byte := l.take off ++ v ++ l.drop (off + v.length)

/-- A byte list of zeros. -/
def zeros (n : Nat) : List Byte := List.replicate n 0

/-- A saturating 32-bit count. -/
def sat32 (v : Nat) : Nat := min v 0xFFFFFFFF

/-- Round down to a multiple. -/
def alignDown (a n : Nat) : Nat := a / n * n

/-- Quotient rounded up. -/
def divUp (a n : Nat) : Nat := (a + n - 1) / n

/-- Is `a` a multiple of `n`. -/
def aligned (a n : Nat) : Bool := a % n == 0

/-- The position of the highest set bit; 0 for 0 and 1. -/
def log2 (a : Nat) : Nat := Nat.log2 a

/-- How many of the low `n` bits are set. -/
def popcount (n v : Nat) : Nat := (List.range n).countP (fun i => bit v i)

/-- The numbers below `n` whose bit is set in a mask, rising. -/
def maskList (n m : Nat) : List Nat := (List.range n).filter (fun i => bit m i)

/-- The mask whose set bits are the listed numbers. -/
def listMask (l : List Nat) : Nat := l.foldl (fun m i => m ||| 2 ^ i) 0

/-- The outcome of serial comparison (R30): equal, newer, older, or the ambiguous distance that every engine treats as stale. -/
inductive Serial where
  | equal | newer | older | stale
  deriving DecidableEq, Repr

/-- Serial comparison of `a` and `b` of width `w` (R30). -/
def serialCmp (a b w : Nat) : Serial :=
  let d := (a + 2 ^ w - b % 2 ^ w) % 2 ^ w
  if d == 0 then .equal else if d < 2 ^ (w - 1) then .newer else if d == 2 ^ (w - 1) then .stale else .older

end Sys2Proof.Machine
end

