-- ==== Sys2Proof/Machine/FabricTypes.lean ====
section
/-! DEFINITION. Packets (R329 to R331), link windows (R346), link ports and bypass pairs (R326 to R353), and the requests that the
package has outstanding on the fabric (R124 to R126, R292, R332). -/

namespace Sys2Proof.Machine

/-- A packet: its header fields (R329), any reserved bits that were set, and the LEN bytes of extension and payload. -/
structure Packet where
  dest : Nat
  src : Nat
  op : Nat
  vc : Nat
  poison : Bool
  ack : Bool
  seq : Nat
  epoch : Nat
  roleEpoch : Nat
  hops : Nat
  check : Nat
  ctxGen : Nat
  ctxTag : Nat
  ctxSlot : Nat
  epHome : Nat
  epSlot : Nat
  epGen : Nat
  epTag : Nat
  reserved : Nat
  body : List Byte
  deriving DecidableEq, Repr

/-- The packet of a header and the body that follows it, where a command gives the two apart (SIL_ACK, JOIN_ACK, FILL_SEGMENT). -/
def carrying (head : Packet) (body : List Byte) : Packet := { head with body := body }

/-- A packet that waits for an output port, with the port and VC on which it arrived: it stays in that ingress buffer (R339). -/
structure TxEntry where
  src : Option (Nat × Nat)
  pkt : Packet
  deriving DecidableEq, Repr

/-- What an outbound link request asks for (R124, R290, R321). -/
inductive FabKind where
  | get | put | atom | red | msg | sil
  deriving DecidableEq, Repr

/-- Who issued an outbound request and where its answer goes. -/
inductive FabIssuer where
  /-- A thread's LCV instruction: the answer's bytes go to `regs` of the thread, read with the width code of R94. -/
  | thread (loom skein lcv thread : Nat) (regs : List Nat) (width : Nat)
  /-- A thread's put or RED: its failure is recorded against the thread (R126). -/
  | put (loom skein lcv thread : Nat)
  /-- A DMA entry of the channel with that key; `dst` is where a get's bytes are written. -/
  | dma (channel : Nat) (dst : Option Nat)
  /-- A Sillage segment of a group slot, sent to a member (R308). -/
  | sil (group member : Nat)
  /-- The JOIN of a group that is filled, sent to a member (R403). -/
  | join (group member : Nat)
  /-- QUE.SEND with ACK (R290). -/
  | send (loom skein lcv : Nat)
  /-- Nobody waits: a message without ACK. -/
  | nobody
  deriving DecidableEq, Repr

/-- An outstanding outbound request: tag, kind, the die and window slot it was issued through, the issuing context's handle and the
bytes it asks for (R126, R332). -/
structure FabReq where
  tag : Nat
  kind : FabKind
  die : Nat
  window : Nat
  ctx : Word
  len : Nat
  /-- Memory transactions that the request itself counts (R288): those of an engine. -/
  lines : Nat
  /-- The request's virtual address at the issuer, for fault records. -/
  va : Nat
  pc : Nat
  mask : Nat
  issuer : FabIssuer
  deriving DecidableEq, Repr

/-- A link window (R346). `inbound` windows let in remote access, outbound ones map R123. -/
structure Window where
  handle : Word
  ctx : Nat
  inbound : Bool
  perm : Nat
  position : Nat
  remoteWin : Word
  remoteCtx : Word
  base : Nat
  length : Nat
  errors : Nat
  deriving DecidableEq, Repr

/-- A link port (R326 to R350). -/
structure LinkPort where
  /-- Where bring-up stands (R348): 0 while the port does not train, or the phase 1 to 7. -/
  phase : Nat
  /-- The peer identity recorded for the port, and what HELLO told of the one met in this training: identity, position, recorded
  epoch, last in-order SEQ. -/
  peer : Option Nat
  met : Nat
  metPosition : Nat
  metEpoch : Nat
  metSeq : Nat
  /-- The peer met is the one that was recorded (R337). -/
  same : Bool
  /-- A resumption secret is recorded: the number of the draw that it comes from (R348). -/
  resume : Option Nat
  /-- The draw of this end's key and nonce in the handshake that runs. -/
  shake : Option Nat
  txSeq : Nat
  rxSeq : Nat
  nakSent : Bool
  /-- Frames under the current key in each direction, KEY_PHASE, data flits of the open frame, and flits of verified frames whose packets
  and control flits have still to be taken (R327). -/
  frameTx : Nat
  frameRx : Nat
  keyPhase : Nat
  openData : List Byte
  rxFlits : Nat
  /-- Transmit credits by VC, 512 where not listed, and credits to be returned to the peer (R339). -/
  credits : Tab Nat
  owed : Tab Nat
  /-- Unacknowledged packets, oldest first (R336). -/
  replay : List Packet
  /-- The SEQ last resent, and how often in a row (R336). -/
  resendSeq : Nat
  resends : Nat
  /-- Flights in 1/64 tick, newest first, at most 1,024, and exchanges since phase 7 began (R348, R350). -/
  flights : List Nat
  tsyncs : Nat
  /-- Stratum that the peer advertises (R350). -/
  peerStratum : Nat
  /-- Packets that wait for credits or for the replay buffer (R336, R339), and for how many flit slots each class has waited (R340). -/
  txq : List TxEntry
  waited : Tab Nat
  deriving DecidableEq, Repr

/-- A port that has never trained. -/
def LinkPort.fresh : LinkPort :=
  ⟨0, none, 0, 0, 0, 0, false, none, none, 0, 0, false, 0, 0, 0, [], 0, [], [], [], 0, 0, [], 0, 15, [], []⟩

/-- What the peer tells in bring-up: identity and position in HELLO, its recorded epoch, and its last in-order SEQ. -/
structure PeerHello where
  identity : Nat
  position : Nat
  epoch : Nat
  seq : Nat
  deriving DecidableEq, Repr

/-- The optical switch of a bypass pair (R351 to R353): whether it moves, and toward which position. -/
structure Switch where
  moving : Bool
  toOpen : Bool
  /-- An optical loopback of field test runs over the pair (R383). -/
  loopback : Bool
  deriving DecidableEq, Repr

/-- A switch at rest in bypass. -/
def Switch.rest : Switch := ⟨false, false, false⟩

end Sys2Proof.Machine
end

