-- ==== Sys2Proof/Machine/CtxTypes.lean ====
section
/-! DEFINITION. Handle slots (R22 to R28), contexts (R266 to R271), queues (R272 to R277), dispatches (R278, R279), DMA channels
(R280), endpoints (R289), conversion channels (R148, R153), and the records that wait to be written into queues. -/

namespace Sys2Proof.Machine

/-- The slot of a run-time object type and home (R23, R27): its generation, the handle of the context that owns its current or
last object (0: no object since it returned to service), whether an object lives in it, whether it is retired, and the contexts
(handles) with which its object is shared (R289). -/
structure Slot where
  gen : Nat
  owner : Word
  live : Bool
  retired : Bool
  shared : List Word
  deriving DecidableEq, Repr

/-- A slot that has held no object since power-up (R27). -/
def Slot.fresh : Slot := ⟨0, 0, false, false, []⟩

/-- The state of a context between admission and the end of its teardown (R297). HELD is a time (R26). -/
inductive CtxState where
  | active | draining | scrubbing
  deriving DecidableEq, Repr

/-- A tile op of the context that completed with a status other than ZS_OK that no WAIT or TEST has returned yet (R107): its
ticket, its loom and whether it ran on the east half. -/
structure TileErr where
  ticket : Nat
  loom : Nat
  east : Bool
  code : Nat
  deriving DecidableEq, Repr

/-- A context's share of one die (R285, R288, R292, R297). `vfrac` is the part of V below 1, in 1/SHARE. -/
structure CtxDie where
  tops : Nat
  memtx : Nat
  stray : Nat
  strayDrop : Nat
  dbDrop : Nat
  faultLost : Nat
  scrubLeft : Nat
  vtime : Nat
  vfrac : Nat
  /-- The context had work on the die at the last round. -/
  hadWork : Bool
  deriving DecidableEq, Repr

/-- An answer to OBJ_DESTROY that waits for the fabric requests still outstanding through the outbound window that it closed (R131): the
request, the context it named, and the tags of those requests. -/
structure Unmap where
  port : Nat
  reqId : Nat
  ctx : Word
  tags : List Nat
  deriving DecidableEq, Repr

/-- A context's share of a die at admission. -/
def CtxDie.zero : CtxDie := ⟨0, 0, 0, 0, 0, 0, 0, 0, 0, false⟩

/-- What a teardown has done (R293): the causes' request (port, request identifier) to answer when it finishes, when it began,
whether the writes are done, when the counters reached zero, and whether the quiet period is over. -/
structure Teardown where
  answer : List (Nat × Nat)
  since : Nat
  writesDone : Bool
  deriving DecidableEq, Repr

/-- One leaf of a context's tables (R128, R492): virtual and physical address, size, memory type, permissions (bit 0 R, bit 1 W,
bit 2 X), whether its frames are checked, and whether MEM_GRANT made it (the executive makes the others). -/
structure Leaf where
  va : Nat
  pa : Nat
  size : Nat
  mt : Nat
  perm : Nat
  chk : Bool
  granted : Bool
  deriving DecidableEq, Repr

/-- A context: its descriptor (R266) and what the package keeps for it. -/
structure Ctx where
  handle : Word
  xlatRoot : Word
  srKey : Nat
  step : Nat
  caps : Nat
  mode : Nat
  partition : Nat
  share : Nat
  secDomain : Nat
  topLimit : Nat
  halfLimit : Nat
  memtxLimit : Nat
  pinQuota : Nat
  memQuota : Nat
  queueQuota : Nat
  objQuota : Nat
  faultQ : Word
  strayQ : Word
  created : Nat
  state : CtxState
  teardown : Option Teardown
  /-- The leaves of its page tables. -/
  leaves : List Leaf
  /-- Runs of frames that hold the page tables (base, bytes), and the free rest of the last one (next address, end). -/
  tables : List (Nat × Nat)
  tableNext : Nat
  tableEnd : Nat
  /-- Frames of its loom save areas (base, bytes) (R66, R269). -/
  areas : List (Nat × Nat)
  /-- Fault records that wait for FAULT_Q (R283). -/
  faults : List (List Byte)
  /-- Last ticket issued (R107). -/
  ticket : Nat
  tileErrs : List TileErr
  /-- ZS_HANDLE_INVALID completions in the current window, and whether a hold is in force (R26). -/
  invalid : Nat
  held : Bool
  dies : Tab CtxDie
  /-- The code measurement CM (R437), as a number of 512 bits. -/
  cm : Nat
  /-- The partner identity that admitted it (R361). -/
  identity : Nat
  deriving DecidableEq, Repr

/-- The queue types of Table R274. -/
inductive QType where
  | compute | dma | msg | service | collective
  deriving DecidableEq, Repr

/-- A MSG queue's designation (R275). -/
inductive Designation where
  | none | fault | stray
  deriving DecidableEq, Repr

/-- A queue (R274 to R277). -/
structure Queue where
  handle : Word
  ctx : Nat
  home : Nat
  typ : QType
  depth : Nat
  ring : Nat
  dbIndex : Nat
  cplQ : Word
  channel : Word
  designation : Designation
  prod : Nat
  cons : Nat
  dbStatus : Nat
  entries : Nat
  /-- The head entry, once its consumer has taken it and while it waits at the head. -/
  head : Option (List Byte)
  /-- Of a DMA queue: the entries submitted and not yet taken, as runs of a count and the context's STEP at their submission (R139). -/
  steps : List (Nat × Nat)
  deriving DecidableEq, Repr

/-- A completion entry delayed until its MSG queue has room (R176, R277): the queue's handle and the 64 bytes. -/
structure Delayed where
  queue : Word
  entry : List Byte
  deriving DecidableEq, Repr

/-- A dispatch placed on a loom or half (R278, R279). -/
structure Dispatch where
  id : Nat
  ctx : Nat
  queue : Word
  cplQ : Word
  index : Nat
  loom : Nat
  east : Bool
  /-- The dispatch holds both halves of an unsplit loom. -/
  whole : Bool
  skeins : Nat
  gran : Nat
  halted : Nat
  left : Nat
  placedAt : Nat
  slots : Nat
  scratch : Nat
  deriving DecidableEq, Repr

/-- A DMA channel (R280): its owner, the queue slots bound to it in creation order, the round-robin position, and whether an
entry runs. -/
structure Channel where
  handle : Word
  ctx : Nat
  home : Nat
  next : Nat
  running : Bool
  deriving DecidableEq, Repr

/-- A request of a DMA entry through a link window that has still to be issued (R281, R288): the window, the offset in it and the
virtual address, the bytes that a get asks for and where they are written, or the bytes of a put and the check word it carries. -/
structure DmaMove where
  die : Nat
  slot : Nat
  off : Nat
  va : Nat
  get : Bool
  len : Nat
  dst : Nat
  data : List (Byte × Bool)
  check : Option Nat
  deriving DecidableEq, Repr

/-- A DMA entry that runs (R281): the channel's key, the queue and entry index, the engine, the requests still to be issued, the
tags of those outstanding, and the completion it will post. -/
structure DmaRun where
  channel : Nat
  queue : Word
  index : Nat
  ctx : Nat
  engine : Nat
  todo : List DmaMove
  tags : List Nat
  cplQ : Word
  status : Nat
  sub : Nat
  bytes : Nat
  deriving DecidableEq, Repr

/-- An endpoint (R289): a MSG queue or a Sillage endpoint that can hold a role. -/
structure Endpoint where
  handle : Word
  ctx : Nat
  home : Nat
  /-- The MSG queue that holds it, or 0 for a Sillage endpoint. -/
  queue : Word
  /-- The Sillage group that it serves, or 0. -/
  group : Word
  epoch : Nat
  advancedAt : Option Nat
  deriving DecidableEq, Repr

/-- A ROLE_ASSIGN held until the rate limit permits the advance (R31): the endpoint, and the request to answer. -/
structure HeldRole where
  endpoint : Word
  port : Nat
  reqId : Nat
  body : List Byte
  deriving DecidableEq, Repr

/-- A conversion channel (R148, R153): attribute word, history ring, count, next entry, last TENSOR scale, NONFIN count. -/
structure ConvChan where
  handle : Word
  ctx : Nat
  attr : Nat
  hist : List Nat
  count : Nat
  next : Nat
  lastE : Int
  nonfin : Nat
  deriving DecidableEq, Repr

end Sys2Proof.Machine
end

