-- ==== Sys2Proof/Machine/SvcTypes.lean ====
section
/-! DEFINITION. The Zartor Job Protocol (R362 to R364), bindings (R359), queue pairs and memory regions (R365), pending serving
requests (R367), outstanding SERVICE entries (R366), the operator policy, and the configuration record (R434). -/

namespace Sys2Proof.Machine

/-- How a frame reaches a port (R358): the VLAN ID of its tag, 0 where it has none, whether it is IPv6, and whether the network marked
congestion on it (ECN). -/
structure Frame where
  vlan : Nat
  v6 : Bool
  ce : Bool
  deriving DecidableEq, Repr

/-- How a RoCEv2 packet reaches a port (R358, R365): its frame, the queue pair that it names, and its sequence number. -/
structure RoceHead where
  frame : Frame
  qpn : Nat
  psn : Nat
  deriving DecidableEq, Repr

/-- A service link that comes up (R368): its port, and whether a management port's auto-negotiation chose the BASE-R FEC, not
RS(528,514). -/
structure PortUp where
  port : Nat
  baser : Bool
  deriving DecidableEq, Repr

/-- A request of R362: the port it arrives on (1 to 6 SP, 7 MP0, 8 MP1), REQ_ID, CONTEXT, its body, and its frame. -/
structure ZjpReq where
  port : Nat
  reqId : Nat
  ctx : Word
  body : List Byte
  frame : Frame
  deriving DecidableEq, Repr

/-- A response of R362. -/
structure ZjpResp where
  reqId : Nat
  opcode : Nat
  ctx : Word
  status : Nat
  sub : Nat
  incarnation : Nat
  body : List Byte
  deriving DecidableEq, Repr

/-- What a BIND_HELLO carries (R359, R435): the public key of the partner's certificate, the SHA-512 hash of the root its chain ends at,
the fresh P-521 key and the nonce, and whether the chain's own signatures, and the message's, verify. -/
structure BindCert where
  key : List Byte
  root : Nat
  ecdh : List Byte
  nonce : List Byte
  chainOk : Bool
  sigOk : Bool
  deriving DecidableEq, Repr

/-- A BIND_HELLO that has been answered (R359): the partner's identity, its fresh key and nonce, and the number of the draw that the
package's own key and nonce come from. -/
structure Hello where
  identity : Nat
  ecdh : List Byte
  nonce : List Byte
  draw : Nat
  deriving DecidableEq, Repr

/-- A pending SERVE (R367): REQ_ID, the CONTEXT of its header, the context slot of its endpoint, and its TIMEOUT in milliseconds. -/
structure Serve where
  reqId : Nat
  ctx : Word
  owner : Nat
  timeout : Nat
  deriving DecidableEq, Repr

/-- A queue pair (R365): local and partner QPN, the context (handle), the PSN each side sends next, whether it is in the error state,
the retries of its oldest unacknowledged packet, and how many packets of its oldest entry are acknowledged. -/
structure QueuePair where
  qpn : Nat
  peer : Nat
  ctx : Word
  psn : Nat
  peerPsn : Nat
  error : Bool
  retries : Nat
  acked : Nat
  deriving DecidableEq, Repr

/-- A registered region (R365): rkey, context (handle), range, permission (bit 0 read, bit 1 write). -/
structure MemRegion where
  rkey : Nat
  ctx : Word
  va : Nat
  len : Nat
  perm : Nat
  deriving DecidableEq, Repr

/-- A SERVICE entry whose data the partner has not acknowledged (R366). -/
structure SvcRun where
  queue : Word
  index : Nat
  ctx : Nat
  cplQ : Word
  op : Nat
  qpn : Nat
  len : Nat
  loc : Nat
  deriving DecidableEq, Repr

/-- What a service or management port keeps beyond its registers (R359 to R367). -/
structure SvcPort where
  /-- The bound identity. -/
  bound : Option Nat
  /-- Those whose BIND_HELLO has been answered and who have not finished. -/
  hellos : List Hello
  /-- The receive key, the transmit key and the two 12-byte XPN salts (R359). -/
  keys : List Byte
  /-- Base-note time at which the partner last sent something, and at which the link went down. -/
  lastHeard : Nat
  downSince : Option Nat
  serves : List Serve
  qps : List QueuePair
  mrs : List MemRegion
  runs : List SvcRun
  deriving DecidableEq, Repr

/-- A port that has never bound. -/
def SvcPort.empty : SvcPort := ⟨none, [], [], 0, none, [], [], [], []⟩

/-- The cache of R364 of a port (both management ports share one): REQ_IDs still being performed, and responses, oldest first. -/
structure ZjpCache where
  busy : List Nat
  answered : List ZjpResp
  deriving DecidableEq, Repr

/-- An empty cache. -/
def ZjpCache.empty : ZjpCache := ⟨[], []⟩

/-- The operator policy (POLICY_SET of R363, TLV 6 of R434): capability ceiling, ceilings of the limits and quotas of R266 (TOP_LIMIT,
HALF_LIMIT, MEMTX_LIMIT, PIN_QUOTA, MEM_QUOTA, QUEUE_QUOTA, OBJ_QUOTA; none: no ceiling), security domains. -/
structure Policy where
  caps : Nat
  top : Option Nat
  half : Option Nat
  memtx : Option Nat
  pin : Option Nat
  mem : Option Nat
  queue : Option Nat
  obj : Option Nat
  domains : List Nat
  deriving DecidableEq, Repr

/-- The default policy (R434): the capability ceiling is empty. -/
def Policy.default : Policy := ⟨0, none, none, none, none, none, none, none, []⟩

/-- The TLVs of a configuration record (R434). Addresses are those of port 1 to 8: MAC, IPv4, IPv6, VLAN. -/
inductive CfgTlv where
  | partnerRoot (hash : Nat)
  | managerRoot (hash : Nat)
  | address (port mac ipv4 ipv6 vlan : Nat)
  | twin (cfg : Nat)
  | policy (p : Policy)
  | deny (identity : Nat)
  | owner (hash : Nat)
  deriving DecidableEq, Repr

/-- A configuration record (R434): header fields, the signer's public key (65·2 + 1 bytes as in R429) and, for a vendor key, its
index, whether its SHA-512 signature verifies, its TLVs, and its bytes as they are measured (R436). -/
structure CfgRec where
  magic : Nat
  version : Nat
  device : Nat
  seq : Nat
  key : List Byte
  vendor : Option Nat
  sigOk : Bool
  tlvs : List CfgTlv
  bytes : List Byte
  deriving DecidableEq, Repr

/-- A debug authorisation (R439): DEVICE_ID, nonce, SCOPE, DURATION, vendor key index, and whether its signature verifies under that key. -/
structure DbgAuth where
  device : Nat
  nonce : Nat
  scope : Nat
  duration : Nat
  key : Nat
  sigOk : Bool
  deriving DecidableEq, Repr

/-- What a FABRIC_SET asks for (R363, R396): RVL_POSITION, routing entries (destination, entry), DATELINE bits (port), HOLD bits (pair),
and the FLEET_FAILURES count. -/
structure FabricSet where
  position : Option Nat
  routes : List (Nat × Nat)
  datelines : List (Nat × Bool)
  holds : List (Nat × Bool)
  failures : Nat
  deriving DecidableEq, Repr

/-- A descriptor of OBJ_CREATE (R363), by the type code of R23. -/
inductive ObjDesc where
  /-- 0x02 (R275): home, type code of Table R274, DEPTH, RING, DB_INDEX, CPL_Q, channel, DESIGNATION code (0 none, 1 FAULT, 2 STRAY). -/
  | queue (home typ depth ring dbIndex : Nat) (cplQ channel : Word) (designation : Nat)
  /-- 0x03 (R280). -/
  | channel (home : Nat)
  /-- 0x04 (R346): home and the 64 bytes. -/
  | window (home : Nat) (desc : List Byte)
  /-- 0x05 (R301): the 128 bytes. -/
  | group (desc : List Byte)
  /-- 0x06 (R148): home and attribute word. -/
  | conv (home attr : Nat)
  /-- 0x07 (R390): the 64 bytes. -/
  | stream (desc : List Byte)
  /-- 0x08 (R388): the 64 bytes. -/
  | cursor (desc : List Byte)
  /-- 0x09 (R289): home, and the MSG queue that holds it, null for a Sillage endpoint. -/
  | endpoint (home : Nat) (queue : Word)
  /-- A type code that Table R23 reserves, or that names no object a request creates. -/
  | other (typ : Nat)
  deriving DecidableEq, Repr

/-- The parameters of MEM_GRANT (R492): virtual address, bytes, page size, memory type, permissions (bit 0 R, 1 W, 2 X), and the
executive's choice to make the frames checked (R373). -/
structure MemGrant where
  va : Nat
  bytes : Nat
  page : Nat
  mt : Nat
  perm : Nat
  checked : Bool
  deriving DecidableEq, Repr

end Sys2Proof.Machine
end

