-- ==== Sys2Proof/Syntax.lean ====
section
/-! DEFINITION. The commands: one constructor of `Instr` for each row of the opcode table, with the operands that the block's
senders give it. -/

namespace Sys2Proof

open Machine

/-- The thread whose group issues a Grelopor instruction: package loom number, skein slot, thread index. -/
structure Who where
  loom : Nat
  skein : Nat
  thread : Nat
  deriving DecidableEq, Repr

/-- The commands, in the order of the opcode table; each meaning says what its operands are. -/
inductive Instr where
  | nop (w : Who)
  | ialu (w : Who)
  | ishf (w : Who)
  | imul (w : Who)
  | icmp (w : Who)
  | ibit (w : Who)
  | imov (w : Who)
  | plop (w : Who)
  | vote (w : Who)
  | lxch (w : Who)
  | fadd (w : Who)
  | fmul (w : Who)
  | ffma (w : Who)
  | fmnmx (w : Who)
  | fcmp (w : Who)
  | fcvt (w : Who)
  | amax (w : Who)
  | sfu (w : Who)
  | ld (w : Who)
  | st (w : Who)
  | atom (w : Who)
  | red (w : Who)
  | fence (w : Who)
  | fenceI (w : Who)
  | bra (w : Who)
  | brx (w : Who)
  | call (w : Who)
  | ret (w : Who)
  | join (w : Who)
  | exit (w : Who)
  | yield (w : Who)
  | barInit (w : Who)
  | barSync (w : Who)
  | barArv (w : Who)
  | skmMac (w : Who)
  | skmXpose (w : Who)
  | skmSum (w : Who)
  | skmMax (w : Who)
  | topk (w : Who)
  | tileSub (w : Who)
  | tileWait (w : Who)
  | tileTest (w : Who)
  | quePush (w : Who)
  | quePop (w : Who)
  | queWait (w : Who)
  | queSend (w : Who)
  | rngDraw (w : Who)
  | rngAdv (w : Who)
  | rngBase (w : Who)
  | chkCrc (w : Who)
  | chkCmb (w : Who)
  | chkVer (w : Who)
  | lcvCompletion (loom : Nat) (skein : Nat) (id : Nat)
  | joinRelease (loom : Nat) (skein : Nat) (addr : Nat)
  | yieldExpiry (loom : Nat) (skein : Nat) (thread : Nat)
  | barrierStall (loom : Nat) (east : Bool)
  | requestWest (loom : Nat)
  | requestEast (loom : Nat)
  | preemptSaveComplete (loom : Nat) (east : Bool)
  | loomCfgSplit (loom : Nat) (v : Bool)
  | tileOpAccept (loom : Nat) (east : Bool) (pick : Nat)
  | tbTimeout (loom : Nat) (east : Bool)
  | preloadBegin (loom : Nat) (east : Bool)
  | passStart (loom : Nat) (east : Bool)
  | tileOpComplete (loom : Nat) (east : Bool)
  | slotStoreStart (loom : Nat) (east : Bool)
  | slotLoadStart (loom : Nat) (east : Bool)
  | completionEntryPost
  | freezeAbandon (loom : Nat) (east : Bool) (late : Option Nat)
  | twlRepairWrite (loom : Nat) (v : Nat)
  | alignRewriteDone (loom : Nat)
  | inServiceWrite (loom : Nat) (v : Bool)
  | retiredSet (loom : Nat)
  | go (loom : Nat)
  | portOpDone (loom : Nat)
  | fillDelivery (die : Nat) (la : Nat)
  | dirReadRequest (die : Nat) (la : Nat)
  | dirMRequest (die : Nat) (la : Nat)
  | reductionRegistration (die : Nat) (la : Nat)
  | registrationAck (die : Nat) (la : Nat)
  | mergeWriteback (die : Nat) (la : Nat)
  | pin (die : Nat) (slot : Nat)
  | unpin (die : Nat) (slot : Nat)
  | dramReadDecode (die : Nat) (line : Nat) (inner : List Nat) (err0 : List (Nat × Nat)) (err1 : List (Nat × Nat))
  | pcFailMark (die : Nat) (stack : Nat) (pc : Nat)
  | memcPcFailedWrite (die : Nat) (stack : Nat) (v : Nat)
  | rebuildComplete (die : Nat) (stack : Nat)
  | patrolScrub (die : Nat) (inner : List Nat) (err0 : List (Nat × Nat)) (err1 : List (Nat × Nat))
  | clearScrubDone (c : Nat)
  | memcSurvWrite (die : Nat) (size : Bool) (v : Nat)
  | dramTempSample (die : Nat) (stack : Nat) (temp : Nat)
  | doorbellWrite (slot : Nat) (rec : Nat) (consumer : Bool) (v : Nat)
  | dispatch (die : Nat) (slot : Nat)
  | dispatchComplete (id : Nat)
  | copy (die : Nat) (slot : Nat)
  | fill (die : Nat) (slot : Nat)
  | dmaEntryDone (die : Nat) (slot : Nat)
  | schedulerRound (die : Nat) (prefer : List Nat)
  | schQuantum (die : Nat)
  | handleHold (c : Nat)
  | handleHoldEnd (c : Nat)
  | roleEpochAdvance (h : Word)
  | teardownWritesDone (c : Nat)
  | teardownQuietEnd (c : Nat)
  | teardownComplete (c : Nat)
  | contrib (die : Nat) (slot : Nat)
  | close (die : Nat) (slot : Nat)
  | openStep (die : Nat) (slot : Nat)
  | await (die : Nat) (slot : Nat)
  | awaitComplete (gs : Nat) (slice : Nat)
  | update (die : Nat) (slot : Nat)
  | commit (die : Nat) (slot : Nat)
  | commitComplete (gs : Nat)
  | retract (die : Nat) (slot : Nat)
  | digest (die : Nat) (slot : Nat)
  | silDeadline (gs : Nat)
  | silStallLimit (gs : Nat) (entry : Bool)
  | windowReduce (gs : Nat) (w : Nat)
  | clipFactor (gs : Nat) (slice : Nat)
  | readySend (gs : Nat)
  | commitTimeout (gs : Nat)
  | linkFrameRx (port : Nat) (flits : Nat) (corr : Nat) (uncorr : Nat) (tagOk : Bool)
  | frameCloseTimeout (port : Nat)
  | keyRollover (port : Nat)
  | controlFlitTimer (port : Nat)
  | ack (port : Nat) (seq : Nat)
  | nak (port : Nat) (seq : Nat)
  | credit (port : Nat) (counts : List Nat)
  | tsync (port : Nat) (t1 : Nat) (t2 : Option Nat) (t3 : Option Nat) (t4 : Nat) (stratum : Nat)
  | idle (port : Nat)
  | tsyncExchange (port : Nat)
  | replayTimeout (port : Nat)
  | put (port : Nat) (p : Packet)
  | get (port : Nat) (p : Packet)
  | atomPacket (port : Nat) (p : Packet)
  | redPacket (port : Nat) (p : Packet)
  | msg (port : Nat) (p : Packet)
  | sil (port : Nat) (p : Packet)
  | donePacket (port : Nat) (p : Packet)
  | dataPacket (port : Nat) (p : Packet)
  | nackPacket (port : Nat) (p : Packet)
  | msgAck (port : Nat) (p : Packet)
  | silAck (port : Nat) (head : Packet) (body : List Byte)
  | fabricTimeout (tag : Nat)
  | bringupPhaseComplete (port : Nat) (h : PeerHello)
  | trainLimitExpiry (port : Nat)
  | trainRetry (port : Nat)
  | lossOfSignal (port : Nat) (lane : Nat)
  | uncorrCodewordLimit (port : Nat)
  | tagFailureLimit (port : Nat)
  | rxSilence (port : Nat)
  | retrain (port : Nat)
  | openBypass (pair : Nat)
  | hold (pair : Nat) (v : Bool)
  | bypassSwitchSettled (pair : Nat)
  | routeHoldEnd
  | rvlRouteDataWrite (die : Nat) (v : Nat)
  | rvlPositionWrite (die : Nat) (v : Nat)
  | bindHello (z : ZjpReq) (b : BindCert)
  | bindFinish (z : ZjpReq) (identity : Nat) (sigOk : Bool)
  | unbind (z : ZjpReq)
  | ping (z : ZjpReq)
  | admitContext (z : ZjpReq)
  | contextDestroy (z : ZjpReq)
  | contextInfo (z : ZjpReq)
  | memGrant (z : ZjpReq) (g : MemGrant)
  | memRelease (z : ZjpReq) (va : Nat) (n : Nat)
  | codeLoad (z : ZjpReq) (va : Nat) (code : List Byte)
  | objCreate (z : ZjpReq) (d : ObjDesc)
  | roleAssign (z : ZjpReq) (h : Word)
  | shareEndpoint (z : ZjpReq) (h : Word) (peer : Word)
  | qpConnect (z : ZjpReq) (peer : Nat) (psn : Nat) (qpn : Nat)
  | qpClose (z : ZjpReq) (qpn : Nat)
  | mrRegister (z : ZjpReq) (va : Nat) (len : Nat) (perm : Nat)
  | mrDeregister (z : ZjpReq) (rkey : Nat)
  | serve (z : ZjpReq)
  | attest (z : ZjpReq)
  | testSuspect (z : ZjpReq)
  | mgmtStatus (z : ZjpReq)
  | drydownRead (z : ZjpReq)
  | policySet (z : ZjpReq) (p : Policy)
  | configWrite (z : ZjpReq) (r : CfgRec)
  | imageWrite (z : ZjpReq)
  | contextKill (z : ZjpReq)
  | fabricSet (z : ZjpReq) (f : FabricSet)
  | recoveryReset (z : ZjpReq)
  | powerSet (z : ZjpReq)
  | reply (die : Nat) (slot : Nat)
  | rdmaWrite (die : Nat) (slot : Nat)
  | rdmaRead (die : Nat) (slot : Nat)
  | send (die : Nat) (slot : Nat)
  | serviceEntryAcked (port : Nat) (h : RoceHead) (data : List Byte)
  | inboundRdmaWrite (port : Nat) (h : RoceHead) (rkey : Nat) (va : Nat) (data : List Byte)
  | inboundRdmaRead (port : Nat) (h : RoceHead) (rkey : Nat) (va : Nat) (len : Nat)
  | qpRetryExhausted (port : Nat) (qpn : Nat)
  | serveTimeout (port : Nat) (reqId : Nat)
  | partnerTimeout (port : Nat)
  | anomalyEvaluation (die : Nat)
  | chkFtStart (die : Nat) (mask : Nat)
  | fieldTestBegin (die : Nat)
  | ftDrainComplete (loom : Nat)
  | ftArrayScanComplete (loom : Nat) (found : Bool) (map : Option Nat)
  | ftSramMarchComplete (loom : Nat) (pass : Bool)
  | ftOutcome (loom : Nat) (verified : Bool)
  | secureSeal (gs : Nat)
  | secureNow
  | cadEventIn
  | claimWindowExpiry (store : Nat)
  | twinFail
  | cadTwinTakeover
  | joinSegment (port : Nat) (p : Packet)
  | joinAck (port : Nat) (head : Packet) (body : List Byte)
  | fillSegment (port : Nat) (head : Packet) (ext : List Byte) (payload : List Byte)
  | rollback (port : Nat) (p : Packet)
  | loomWdStage1 (loom : Nat) (east : Bool)
  | loomWdStage2 (loom : Nat) (east : Bool)
  | heartbeatTimeout (die : Nat)
  | coreWdTimeout (die : Nat) (core : Nat)
  | dryCoreKick (mask : Nat)
  | orrisWd (mismatch : Bool)
  | linkTxStall (port : Nat)
  | rstN
  | resetReq
  | recoveryPhaseComplete (bad : List Nat)
  | recoveryPhaseOverrun
  | resetLimitExpiry
  | dumpNoResponse (page : Nat) (off : Nat)
  | dumpCut (pages : Nat)
  | powerFail (mv : Nat)
  | powerUp (mv : Nat)
  | powerUpPhaseComplete (bad : List Nat)
  | pullFaultLimit
  | auth (a : DbgAuth)
  | debugDurationExpiry
  | bypass
  | idcode
  | trstN (low : Bool)
  | pllLockLoss
  | pllRelock
  | ppsEdge
  | slewEnd
  | discSourceLoss
  | bntDiscWrite (v : Nat)
  | thermalGateStep (die : Nat) (temp : Nat)
  | powerLimitGate (watts : Nat) (level : Nat)
  | vinLowGate (mv : Nat) (level : Nat)
  | dieIdleEntry (die : Nat)
  | dieIdleExit (die : Nat)
  | powerStateReached
  | wakeN (low : Bool)
  | comparatorFire (k : Nat) (v : Nat)
  | bntCmpCfgWrite (v : Nat)
  | bntPpsWrite (v : Nat)
  | vinOvervoltage (mv : Nat)
  | thermalTrip (dram : Bool) (die : Nat) (stack : Nat) (temp : Nat)
  | ptr (v : Nat)
  | smbData
  | smbStatus
  | alertResponseRead
  | convert (die : Nat) (slot : Nat)
  | measure (die : Nat) (slot : Nat)
  | histRead (die : Nat) (slot : Nat)
  | stashPack (die : Nat) (slot : Nat)
  | stashUnpack (die : Nat) (slot : Nat)
  | enable (who : Nat) (a : Nat) (quiesce : Bool)
  | quiesce (who : Nat) (a : Nat) (enable : Bool)
  | softReset (who : Nat) (a : Nat) (v : Nat)
  | intPendClear (who : Nat) (a : Nat) (mask : Nat)
  | intTest (who : Nat) (a : Nat) (mask : Nat)
  | interruptQueueEntry (page : Nat)
  | errFirstRearm (who : Nat) (a : Nat)
  | lock (who : Nat) (a : Nat)
  | lowWordRead (who : Nat) (n : Nat) (a : Nat)
  | highWordRead (who : Nat) (a : Nat)
  | lowWordWrite (who : Nat) (a : Nat) (v : Nat)
  | highWordWrite (who : Nat) (a : Nat) (v : Nat)
  | registerWrite (who : Nat) (n : Nat) (a : Nat) (v : Nat)
  | objDestroy (z : ZjpReq) (h : Word)
  | rstNRelease
  | illegalInstruction (w : Who)
  | zjpUnsupported (port : Nat) (f : Frame) (datagram : List Byte)
  | rebuildLine (die : Nat) (stack : Nat) (inner : List Nat) (err0 : List (Nat × Nat)) (err1 : List (Nat × Nat))
  | opticalLoopbackEnd (pair : Nat)
  | imageWriteComplete
  | configWriteComplete
  | serviceLinkDown (port : Nat)
  | serviceLinkUp (up : PortUp)
  | roceRetryTimeout (port : Nat) (qpn : Nat) (acked : Nat)
  | neighbourDiscovery (port : Nat) (f : Frame) (addr : Nat)
  | icmpEcho (port : Nat) (f : Frame) (addr : Nat) (data : List Byte)
  | unsupportedFrame (port : Nat) (macsec : Bool)
  | discoverTimer
  | offer (port : Nat) (session : Nat) (device : Nat) (header : List Byte)
  | pullData (port : Nat) (session : Nat) (off : Nat) (data : List Byte)
  | pullNak (port : Nat) (session : Nat)
  | readTimeout (off : Nat)
  | handleWindowEnd (c : Nat)
  | thrashWindowEnd (die : Nat)
  | memberSilent (gs : Nat) (member : Nat)
  | wvcConfigWrite (die : Nat) (dieCfg : Bool) (v : Nat)
  | memcPatrolWrite (die : Nat) (v : Nat)
  deriving DecidableEq, Repr

end Sys2Proof
end

