-- ==== Sys2Proof/Decode.lean ====
section
/-! DEFINITION. Commands from words. The opcode table gives no row bits of its own: the block takes commands, not words. -/

namespace Sys2Proof

/-- The command that a word spells by the table's bits: none, since no row has bits. (log 4: DESIGN CHOICE) -/
def decodeTableWord (_nbits _w : Nat) : Option Instr := none

end Sys2Proof
end

