-- ==== Sys2Proof/Machine/Num.lean ====
section
/-! DEFINITION. Exact numbers and the element formats: dyadic values, decoding a code (R133, R134, R136), rounding to a format
(R137, R138), overflow, infinity and NaN (R140), IEEE arithmetic with one rounding (R84, R85), E8M0 scales (R141, R142). -/

namespace Sys2Proof.Machine

/-- A value: NaN, an infinity, or exactly ±m·2^e. -/
inductive Val where
  | nan
  | inf (neg : Bool)
  | fin (neg : Bool) (m : Nat) (e : Int)
  deriving DecidableEq, Repr

/-- Positive zero. -/
def Val.zero : Val := .fin false 0 0

/-- An exact signed dyadic number m·2^e, used for sums. -/
structure Dy where
  m : Int
  e : Int
  deriving DecidableEq, Repr

/-- The sum of two exact numbers. -/
def dyAdd (a b : Dy) : Dy :=
  if a.m = 0 then b else if b.m = 0 then a else
  if a.e ≤ b.e then ⟨a.m + b.m * ((2 ^ (b.e - a.e).toNat : Nat) : Int), a.e⟩
  else ⟨a.m * ((2 ^ (a.e - b.e).toNat : Nat) : Int) + b.m, b.e⟩

/-- The product of two exact numbers. -/
def dyMul (a b : Dy) : Dy := ⟨a.m * b.m, a.e + b.e⟩

/-- The exact number of a finite value. -/
def valDy (v : Val) : Dy :=
  match v with
  | .fin n m e => ⟨if n then -(m : Int) else m, e⟩
  | _ => ⟨0, 0⟩

/-- The value of an exact number; zero is +0. -/
def dyVal (d : Dy) : Val := .fin (decide (d.m < 0)) d.m.natAbs d.e

/-- Is the value NaN. -/
def Val.isNan (v : Val) : Bool := match v with | .nan => true | _ => false

/-- Is the value an infinity. -/
def Val.isInf (v : Val) : Bool := match v with | .inf _ => true | _ => false

/-- Is the value a zero of either sign. -/
def Val.isZero (v : Val) : Bool := match v with | .fin _ 0 _ => true | _ => false

/-- The sign of a value (NaN counts as positive). -/
def Val.sign (v : Val) : Bool := match v with | .nan => false | .inf n => n | .fin n _ _ => n

/-- The value with its sign inverted. -/
def Val.neg (v : Val) : Val := match v with | .nan => .nan | .inf n => .inf (!n) | .fin n m e => .fin (!n) m e

/-- The magnitude of a value. -/
def Val.abs (v : Val) : Val := match v with | .nan => .nan | .inf _ => .inf false | .fin _ m e => .fin false m e

/-- The value times 2^k, exactly. -/
def Val.scale (v : Val) (k : Int) : Val := match v with | .fin n m e => .fin n m (e + k) | x => x

/-- Exact comparison of the magnitudes m·2^e < k·2^f; exponents far apart decide at once. -/
def magLt (m : Nat) (e : Int) (k : Nat) (f : Int) : Bool :=
  if k = 0 then false else if m = 0 then true else
  let a := (Nat.log2 m : Nat) + e
  let b := (Nat.log2 k : Nat) + f
  if a < b then true else if b < a then false else
  if e ≤ f then decide (m < k * 2 ^ (f - e).toNat) else decide (m * 2 ^ (e - f).toNat < k)

/-- Exact comparison a < b of two numbers that are not NaN; zeros are equal. -/
def valLt (a b : Val) : Bool :=
  match a, b with
  | .nan, _ => false
  | _, .nan => false
  | .inf n, .inf k => n && !k
  | .inf n, .fin _ _ _ => n
  | .fin _ _ _, .inf k => !k
  | .fin x m e, .fin y k f =>
    if x && !y then m != 0 || k != 0 else if !x && y then false
    else if x then magLt k f m e else magLt m e k f

/-- Exact equality of two numbers that are not NaN; zeros are equal. -/
def valEq (a b : Val) : Bool := !a.isNan && !b.isNan && !valLt a b && !valLt b a

/-- a ≤ b with −0 below +0, for numbers that are not NaN (R85). -/
def valLeTotal (a b : Val) : Bool := valLt a b || (valEq a b && (a.sign || !b.sign || !a.isZero))

/-- The minimum under R85: the other input where exactly one is NaN, −0 below +0. -/
def valMin (a b : Val) : Val := if a.isNan then b else if b.isNan then a else if valLeTotal a b then a else b

/-- The maximum under R85. -/
def valMax (a b : Val) : Val := if a.isNan then b else if b.isNan then a else if valLeTotal a b then b else a

/-- The maximum where any NaN gives NaN (R90, R105). -/
def valMaxN (a b : Val) : Val := if a.isNan || b.isNan then .nan else valMax a b

/-! ## Formats -/

/-- Parameters of a floating-point element format (R133): exponent bits, mantissa bits, bias, greatest finite F as m·2^e. -/
structure Fmt where
  ebits : Nat
  mbits : Nat
  bias : Nat
  fm : Nat
  fe : Int
  deriving DecidableEq, Repr

/-- The parameters of a format code of R86 (codes 0 to 8). -/
def fmtOf (code : Nat) : Fmt :=
  match code with
  | 0 => ⟨8, 23, 127, 2 ^ 24 - 1, 104⟩
  | 1 => ⟨8, 7, 127, 2 ^ 8 - 1, 120⟩
  | 2 => ⟨5, 10, 15, 2 ^ 11 - 1, 5⟩
  | 3 => ⟨4, 3, 7, 7, 6⟩
  | 4 => ⟨5, 2, 15, 7, 13⟩
  | 5 => ⟨3, 2, 3, 7, 2⟩
  | 6 => ⟨2, 3, 1, 15, -1⟩
  | 7 => ⟨2, 1, 1, 3, 1⟩
  | _ => ⟨1, 1, 1, 3, -1⟩

/-- The width in bits of a format code (R86). -/
def fmtWidth (code : Nat) : Nat :=
  match code with
  | 0 => 32 | 1 => 16 | 2 => 16 | 3 => 8 | 4 => 8 | 5 => 6 | 6 => 6 | 7 => 4 | 8 => 3 | 9 => 2
  | 10 => 32 | 11 => 32 | 12 => 8 | 13 => 8 | _ => 0

/-- The greatest finite value F of a format (R133), as a positive value. -/
def fmtMax (code : Nat) : Val := if code = 9 then .fin false 1 0 else let f := fmtOf code; .fin false f.fm f.fe

/-- The canonical NaN code of a format that has a NaN (R84, R136). -/
def fmtNan (code : Nat) : Nat :=
  match code with
  | 0 => 0x7FC00000 | 1 => 0x7FC0 | 2 => 0x7E00 | 3 => 0x7F | 4 => 0x7E | 9 => 2 | _ => 0

/-- The value of an element code (R133, R134, R136); integer formats decode to their integer (R86). -/
def decodeElem (code raw : Nat) : Val :=
  match code with
  | 9 => match raw % 4 with | 0 => .zero | 1 => .fin false 1 0 | 3 => .fin true 1 0 | _ => .nan
  | 10 => dyVal ⟨sext 32 raw, 0⟩
  | 11 => .fin false (raw % 2 ^ 32) 0
  | 12 => dyVal ⟨sext 8 raw, 0⟩
  | 13 => .fin false (raw % 256) 0
  | _ =>
    if code > 9 then .nan else
    let f := fmtOf code
    let s := bit raw (f.ebits + f.mbits)
    let ex := bits raw (f.ebits + f.mbits - 1) f.mbits
    let mt := bits raw (f.mbits - 1) 0
    let top := 2 ^ f.ebits - 1
    if (code == 0 || code == 1 || code == 2 || code == 4) && ex == top then (if mt == 0 then .inf s else .nan)
    else if code == 3 && ex == top && mt == 7 then .nan
    else if ex == 0 then .fin s mt (1 - (f.bias : Int) - f.mbits)
    else .fin s (2 ^ f.mbits + mt) ((ex : Int) - f.bias - f.mbits)

/-- Rounding modes: the four codes of R84 and SR with its 32 random bits (R138). -/
inductive Rnd where
  | rne | rtz | rdn | rup
  | sr (r : Nat)
  deriving DecidableEq, Repr

/-- Round the magnitude m·2^e to a whole number of units 2^q (R137, R138): the number of units. -/
def roundUnits (mode : Rnd) (neg : Bool) (m : Nat) (e q : Int) : Nat :=
  if q ≤ e then m * 2 ^ (e - q).toNat else
  let k := (q - e).toNat
  if k > Nat.log2 m + 64 then
    (if m = 0 then 0 else match mode with | .rdn => b2n neg | .rup => b2n (!neg) | _ => 0) else
  let n := m >>> k
  let rem := m % 2 ^ k
  if rem = 0 then n else
  match mode with
  | .rne => let half := 2 ^ (k - 1); if rem > half || (rem == half && n % 2 == 1) then n + 1 else n
  | .rtz => n
  | .rdn => if neg then n + 1 else n
  | .rup => if neg then n else n + 1
  | .sr r => if (rem * 2 ^ 32) / 2 ^ k + r % 2 ^ 32 ≥ 2 ^ 32 then n + 1 else n

/-- The exponent of the grid spacing of a format at the magnitude m·2^e (R137): subnormal spacing below the least normal
value, 1 for T2. -/
def gridExp (code m : Nat) (e : Int) : Int :=
  if code = 9 then 0 else
  let f := fmtOf code
  max ((Nat.log2 m : Nat) + e) (1 - (f.bias : Int)) - f.mbits

/-- The code of the magnitude n·2^q, which lies on the grid of the format and is at most F. -/
def encodeMag (code n : Nat) (q : Int) : Nat :=
  if code = 9 then n else
  let f := fmtOf code
  if n = 0 then 0 else
  let ex := (Nat.log2 n : Nat) + q
  let emin : Int := 1 - f.bias
  if ex < emin then n * 2 ^ (q - (emin - f.mbits)).toNat
  else
    let mant := if Nat.log2 n ≤ f.mbits then n * 2 ^ (f.mbits - Nat.log2 n) else n >>> (Nat.log2 n - f.mbits)
    (ex + f.bias).toNat * 2 ^ f.mbits + mant % 2 ^ f.mbits

/-- The code of a sign and a magnitude code; T2 has one zero and −1 is 0b11. -/
def withSign (code : Nat) (neg : Bool) (mag : Nat) : Nat :=
  if code = 9 then (if mag == 0 then 0 else if neg then 3 else 1)
  else let f := fmtOf code; mag + (if neg then 2 ^ (f.ebits + f.mbits) else 0)

/-- The signed greatest finite value of a format, as a code. -/
def maxCode (code : Nat) (neg : Bool) : Nat :=
  withSign code neg (if code = 9 then 1 else encodeMag code (fmtOf code).fm (fmtOf code).fe)

/-- The result of an element-level conversion for ±∞ or an overflow (R140), ordinary or saturating. -/
def overflowCode (code : Nat) (sat neg : Bool) : Nat :=
  if sat then maxCode code neg else
  match code with
  | 0 => if neg then 0xFF800000 else 0x7F800000
  | 1 => if neg then 0xFF80 else 0x7F80
  | 2 => if neg then 0xFC00 else 0x7C00
  | 3 => 0x7F
  | 4 => if neg then 0xFC else 0x7C
  | 9 => 2
  | _ => maxCode code neg

/-- Clamp an integer into a range. -/
def clampInt (lo hi v : Int) : Int := if v < lo then lo else if hi < v then hi else v

/-- The bits of an integer destination (R87, R140): clamped, NaN gives 0. -/
def encodeInt (code : Nat) (neg : Bool) (n : Nat) (inf : Bool) : Nat :=
  let v : Int := if neg then -(n : Int) else n
  let lo : Int := match code with | 10 => -2147483648 | 12 => -128 | _ => 0
  let hi : Int := match code with | 10 => 2147483647 | 11 => 4294967295 | 12 => 127 | _ => 255
  wrap (fmtWidth code) (if inf then (if neg then lo else hi) else clampInt lo hi v)

/-- The result of an element-level conversion: the code, and whether the Saturate column of Table R140 made it (R155). -/
structure Conv where
  code : Nat
  clamped : Bool
  deriving DecidableEq, Repr

/-- Element-level conversion of an exact value to a format with one rounding (R137 to R140). -/
def convert (dst : Nat) (sat : Bool) (mode : Rnd) (v : Val) : Conv :=
  if dst ≥ 10 then
    match v with
    | .nan => ⟨0, false⟩
    | .inf n => ⟨encodeInt dst n 0 true, false⟩
    | .fin n m e =>
      if m ≠ 0 && (Nat.log2 m : Nat) + e > 80 then ⟨encodeInt dst n 0 true, false⟩
      else ⟨encodeInt dst n (roundUnits mode n m e 0) false, false⟩
  else
  match v with
  | .nan => ⟨fmtNan dst, false⟩
  | .inf n => ⟨overflowCode dst sat n, sat⟩
  | .fin n m e =>
    if m = 0 then ⟨withSign dst n 0, false⟩ else
    let q := gridExp dst m e
    let u := roundUnits mode n m e q
    if valLt (fmtMax dst) (.fin false u q) then
      let never := match mode with | .rtz => true | .rdn => !n | .rup => n | _ => false
      if never then ⟨maxCode dst n, false⟩ else ⟨overflowCode dst sat n, sat⟩
    else ⟨withSign dst n (encodeMag dst u q), false⟩

/-- A value rounded to FP32 with RNE: its bits. Overflow gives ±∞, NaN the canonical NaN. -/
def toFp32 (v : Val) : Nat := (convert 0 false .rne v).code

/-- The value of FP32 bits. -/
def fp32 (raw : Nat) : Val := decodeElem 0 raw

/-- Is an FP32 code NaN. -/
def fp32IsNan (raw : Nat) : Bool := (fp32 raw).isNan

/-! ## Arithmetic -/

/-- The exact sum under IEEE 754: NaN for ∞ − ∞, and the sign of an exact zero by the rounding mode (R84). -/
def valAdd (mode : Rnd) (a b : Val) : Val :=
  match a, b with
  | .nan, _ => .nan
  | _, .nan => .nan
  | .inf x, .inf y => if x == y then .inf x else .nan
  | .inf x, _ => .inf x
  | _, .inf y => .inf y
  | x, y =>
    let d := dyAdd (valDy x) (valDy y)
    if d.m = 0 then
      if x.isZero && y.isZero && x.sign == y.sign then .fin x.sign 0 0 else .fin (mode == .rdn) 0 0
    else dyVal d

/-- The exact product: NaN for 0 × ∞. -/
def valMul (a b : Val) : Val :=
  match a, b with
  | .nan, _ => .nan
  | _, .nan => .nan
  | .inf x, y => if y.isZero then .nan else .inf (x != y.sign)
  | x, .inf y => if x.isZero then .nan else .inf (x.sign != y)
  | .fin x m e, .fin y k f => .fin (x != y) (m * k) (e + f)

/-- An exact running sum of many values: the finite part, and what NaN and infinite terms it has met. -/
structure ExactSum where
  dy : Dy
  nan : Bool
  pinf : Bool
  ninf : Bool
  /-- Every term so far was −0. -/
  allNegZero : Bool
  deriving DecidableEq, Repr

/-- The empty sum. -/
def ExactSum.empty : ExactSum := ⟨⟨0, 0⟩, false, false, false, true⟩

/-- Add a term to an exact sum. -/
def ExactSum.add (s : ExactSum) (v : Val) : ExactSum :=
  match v with
  | .nan => { s with nan := true }
  | .inf n => if n then { s with ninf := true } else { s with pinf := true }
  | .fin n m e => { s with dy := dyAdd s.dy (valDy (.fin n m e)), allNegZero := s.allNegZero && n && m == 0 }

/-- The value of an exact sum: NaN where a term was NaN or both infinities were met (R104). An exact sum of zero is +0. -/
def ExactSum.val (s : ExactSum) : Val :=
  if s.nan || (s.pinf && s.ninf) then .nan else if s.pinf then .inf false else if s.ninf then .inf true else dyVal s.dy

/-- The exact sum of a list of values. -/
def exactSum (l : List Val) : Val := (l.foldl ExactSum.add .empty).val

/-! ## Block scales -/

/-- The value of an element of a block under its E8M0 scale code (R142): NaN under 0xFF. -/
def scaled (scale : Nat) (v : Val) : Val := if scale % 256 = 0xFF then .nan else v.scale ((scale % 256 : Nat) - 127)

/-- The least integer X with a ≤ F·2^X, for a finite positive a (R143, R152); `none` for a = 0. -/
def leastExp (code : Nat) (a : Val) : Option Int :=
  match a, fmtMax code with
  | .fin _ m e, .fin _ fm fe =>
    if m = 0 then none else
    let x0 : Int := ((Nat.log2 m : Nat) + e) - ((Nat.log2 fm : Nat) + fe)
    some (if !valLt (.fin false fm (fe + (x0 - 1))) (.fin false m e) then x0 - 1
      else if !valLt (.fin false fm (fe + x0)) (.fin false m e) then x0 else x0 + 1)
  | _, _ => none

/-- The integer square root of a number below 4^fuel, by binary digits. -/
def isqrtAux (fuel n r : Nat) : Nat :=
  match fuel with
  | 0 => r
  | f + 1 => let c := r + 2 ^ f; isqrtAux f n (if c * c ≤ n then c else r)

/-- The integer square root. -/
def isqrt (n : Nat) : Nat := isqrtAux (Nat.log2 n / 2 + 1) n 0

/-- The quotient a/b of positive dyadic magnitudes with 64 fraction bits and a sticky bit: exact enough for one rounding. -/
def divSticky (ma : Nat) (ea : Int) (mb : Nat) (eb : Int) : Nat × Int :=
  let k := 80 + Nat.log2 mb
  let q := (ma * 2 ^ k) / mb
  let st := if (ma * 2 ^ k) % mb == 0 then 0 else 1
  (2 * q + st, ea - eb - k - 1)

/-- The square root of a positive dyadic magnitude with 64 or more fraction bits and a sticky bit. -/
def sqrtSticky (m : Nat) (e : Int) : Nat × Int :=
  let k : Nat := 160 + (if (e % 2) == 0 then 0 else 1)
  let n := m * 2 ^ k
  let r := isqrt n
  (2 * r + (if r * r == n then 0 else 1), (e - k) / 2 - 1)

end Sys2Proof.Machine
end

