-- ==== Sys2Proof/Machine/Flags.lean ====
section
/-! DEFINITION. The conditions that write predicates (R82, R85): integer and floating-point compares, predicate logic and votes. -/

namespace Sys2Proof.Machine

/-- An integer type code of R80: width in bits and signedness. -/
def intWidth (ty : Nat) : Nat := if ty < 2 then 32 else 64
def intSigned (ty : Nat) : Bool := ty % 2 == 1

/-- The value of an integer operand under its type. -/
def intVal (ty a : Nat) : Int := if intSigned ty then sext (intWidth ty) a else ((a % 2 ^ intWidth ty : Nat) : Int)

/-- ICMP's condition (R82): EQ, NE, LT, LE, GT, GE. -/
def icmpCond (cond : Nat) (a b : Int) : Bool :=
  match cond with
  | 0 => a == b
  | 1 => a != b
  | 2 => decide (a < b)
  | 3 => decide (a ≤ b)
  | 4 => decide (b < a)
  | _ => decide (b ≤ a)

/-- FCMP's condition (R85): false when an input is NaN, except NE and NAN. -/
def fcmpCond (cond : Nat) (a b : Val) : Bool :=
  let nan := a.isNan || b.isNan
  match cond with
  | 0 => valEq a b
  | 1 => nan || !valEq a b
  | 2 => valLt a b
  | 3 => !nan && !valLt b a
  | 4 => valLt b a
  | 5 => !nan && !valLt a b
  | 6 => !nan
  | _ => nan

/-- PLOP's lookup (R82): bit (a << 2) | (b << 1) | c of the 8-bit LUT. -/
def plopBit (lut : Nat) (a b c : Bool) : Bool := bit lut (b2n a * 4 + b2n b * 2 + b2n c)

/-- VOTE's result over the participating threads' predicate values (R82): ANY or ALL. -/
def voteResult (f : Nat) (vals : List Bool) : Bool := if f = 0 then vals.any (fun b => b) else vals.all (fun b => b)

end Sys2Proof.Machine
end

