-- ==== Sys2Proof/Machine/Crypto.lean ====
section
/-! DEFINITION. The keyed and check functions the manual names in full: SipHash-2-4 (R24, R139), CRC-32C (R110), Philox-4×32-10
(R109), GHASH (R322), the Reed-Solomon code of the DRAM (R248). -/

namespace Sys2Proof.Machine

/-- The four words of the SipHash state. -/
structure SipState where
  v0 : Word
  v1 : Word
  v2 : Word
  v3 : Word
  deriving DecidableEq, Repr

/-- One SipRound. -/
def sipRound (s : SipState) : SipState :=
  let v0 := s.v0 + s.v1
  let v1 := s.v1.rotateLeft 13 ^^^ v0
  let v0 := v0.rotateLeft 32
  let v2 := s.v2 + s.v3
  let v3 := s.v3.rotateLeft 16 ^^^ v2
  let v0 := v0 + v3
  let v3 := v3.rotateLeft 21 ^^^ v0
  let v2 := v2 + v1
  let v1 := v1.rotateLeft 17 ^^^ v2
  let v2 := v2.rotateLeft 32
  ⟨v0, v1, v2, v3⟩

/-- Absorb one 64-bit word with two rounds. -/
def sipAbsorb (s : SipState) (m : Word) : SipState :=
  let s := sipRound (sipRound { s with v3 := s.v3 ^^^ m })
  { s with v0 := s.v0 ^^^ m }

/-- Absorb a byte list; the last word carries the length in its top byte. -/
def sipBytes (fuel len : Nat) (l : List Byte) (s : SipState) : SipState :=
  match fuel with
  | 0 => s
  | f + 1 =>
    if l.length < 8 then sipAbsorb s (BitVec.ofNat 64 (ofBytes l + (len % 256) * 2 ^ 56))
    else sipBytes f len (l.drop 8) (sipAbsorb s (BitVec.ofNat 64 (ofBytes (l.take 8))))

/-- SipHash-2-4 of a byte string under a 128-bit key, key bytes 0 to 7 from `lo`. -/
def siphash24 (lo hi : Word) (l : List Byte) : Word :=
  let s : SipState := ⟨lo ^^^ 0x736f6d6570736575#64, hi ^^^ 0x646f72616e646f6d#64, lo ^^^ 0x6c7967656e657261#64, hi ^^^ 0x7465646279746573#64⟩
  let s := sipBytes (l.length / 8 + 1) l.length l s
  let s := { s with v2 := s.v2 ^^^ 0xff#64 }
  let s := sipRound (sipRound (sipRound (sipRound s)))
  s.v0 ^^^ s.v1 ^^^ s.v2 ^^^ s.v3

/-- SipHash-2-4 under a key held as one 128-bit number. -/
def sipKey (key : Nat) (l : List Byte) : Nat :=
  (siphash24 (BitVec.ofNat 64 key) (BitVec.ofNat 64 (key / 2 ^ 64)) l).toNat

/-- The keyed stochastic-rounding bits of R139. -/
def srBits (key step source seq row col : Nat) : Nat :=
  sipKey key (toBytes 8 step ++ toBytes 4 seq ++ toBytes 4 source ++ toBytes 8 row ++ toBytes 8 col) % 2 ^ 32

/-- One bit of the reflected CRC-32C register (R110). -/
def crcBit (c b : Nat) : Nat := if (c ^^^ b) % 2 == 1 then (c >>> 1) ^^^ 0x82F63B78 else c >>> 1

/-- Feed `n` bits of a word to the register, bit 0 first. -/
def crcBits (n c w : Nat) : Nat :=
  match n with
  | 0 => c
  | n + 1 => crcBits n (crcBit c w) (w >>> 1)

/-- Update the raw CRC-32C register with bytes (R110). -/
def crcBytes (c : Nat) (l : List Byte) : Nat := l.foldl (fun c b => crcBits 8 c b.toNat) c

/-- CRC-32C with initial value and final inversion of all ones. -/
def crc32c (l : List Byte) : Nat := crcBytes 0xFFFFFFFF l ^^^ 0xFFFFFFFF

/-- The product of two polynomials of degree below 32 in reflected form modulo the CRC-32C polynomial. -/
def crcMul (fuel a b acc : Nat) : Nat :=
  match fuel with
  | 0 => acc
  | f + 1 => crcMul f (a * 2 % 2 ^ 32) (crcBit b 0) (if bit a 31 then acc ^^^ b else acc)

/-- x^(8·n) modulo the polynomial in reflected form, by squaring. -/
def crcPow8 (fuel n base acc : Nat) : Nat :=
  match fuel with
  | 0 => acc
  | f + 1 => crcPow8 f (n / 2) (crcMul 32 base base 0) (if n % 2 == 1 then crcMul 32 acc base 0 else acc)

/-- CHK.CMB (R110): crc(X‖Y) from crc(X), crc(Y) and the byte length of Y. -/
def crcCombine (a b n : Nat) : Nat := crcMul 32 a (crcPow8 33 n 0x00800000 0x80000000) 0 ^^^ b

/-- One round of Philox-4×32. -/
def philoxRound (k0 k1 : Nat) (c : Nat × Nat × Nat × Nat) : Nat × Nat × Nat × Nat :=
  let (c0, c1, c2, c3) := c
  let p0 := 0xD2511F53 * c0
  let p1 := 0xCD9E8D57 * c2
  ((p1 / 2 ^ 32) ^^^ c1 ^^^ k0, p1 % 2 ^ 32, (p0 / 2 ^ 32) ^^^ c3 ^^^ k1, p0 % 2 ^ 32)

/-- Philox rounds with the Weyl key schedule. -/
def philoxRounds (n k0 k1 : Nat) (c : Nat × Nat × Nat × Nat) : Nat × Nat × Nat × Nat :=
  match n with
  | 0 => c
  | n + 1 => philoxRounds n ((k0 + 0x9E3779B9) % 2 ^ 32) ((k1 + 0xBB67AE85) % 2 ^ 32) (philoxRound k0 k1 c)

/-- Philox-4×32-10: the four output words for a 64-bit key and four counter words (R109). -/
def philox (key c0 c1 c2 c3 : Nat) : List Nat :=
  let (a, b, c, d) := philoxRounds 10 (key % 2 ^ 32) (key / 2 ^ 32 % 2 ^ 32) (c0, c1, c2, c3)
  [a, b, c, d]

/-- Multiplication in GF(2^128) of GHASH: blocks are numbers whose most significant bit is the first bit. -/
def gfMul (fuel x v z : Nat) : Nat :=
  match fuel with
  | 0 => z
  | f + 1 =>
    let z := if bit x f then z ^^^ v else z
    gfMul f x (if v % 2 == 1 then (v >>> 1) ^^^ (0xE1 * 2 ^ 120) else v >>> 1) z

/-- A 16-byte block as a number, first byte most significant; short blocks are padded with zeros. -/
def beBlock (l : List Byte) : Nat := ((l ++ zeros (16 - l.length)).take 16).foldl (fun a b => a * 256 + b.toNat) 0

/-- GHASH under the hash key `h` of a byte string cut into 16-byte blocks, the last padded with zeros (NIST SP 800-38D). -/
def ghash (h : Nat) (l : List Byte) : Nat :=
  (chunks 16 (l.length / 16 + 1) l).foldl (fun y b => gfMul 128 (y ^^^ beBlock b) h 0) 0

/-- Multiplication in GF(256) with the polynomial 0x11D (R248). -/
def gf256Mul (fuel a b acc : Nat) : Nat :=
  match fuel with
  | 0 => acc
  | f + 1 => gf256Mul f (if bit a 7 then (a * 2 % 256) ^^^ 0x1D else a * 2) (b / 2) (if b % 2 == 1 then acc ^^^ a else acc)

/-- α^n in GF(256), α = 2. -/
def gf256Pow (n : Nat) : Nat :=
  match n with
  | 0 => 1
  | n + 1 => gf256Mul 8 (gf256Pow n) 2 0

/-- Coefficients of the generator with roots α^0 to α^(n−1), least power first (R248). -/
def rsGen (n : Nat) : List Nat :=
  match n with
  | 0 => [1]
  | n + 1 =>
    let g := rsGen n
    let r := gf256Pow n
    List.zipWith (· ^^^ ·) (0 :: g) (g.map (fun c => gf256Mul 8 c r 0) ++ [0])

/-- Feed one message symbol to the Reed-Solomon remainder register (least power first). -/
def rsStep (g : List Nat) (reg : List Nat) (s : Nat) : List Nat :=
  let fb := s ^^^ reg.getLast?.getD 0
  List.zipWith (· ^^^ ·) (0 :: reg.dropLast) (g.map (fun c => gf256Mul 8 fb c 0))

/-- The check symbols of a message under a systematic Reed-Solomon code with `n` of them, highest power first. -/
def rsCheck (n : Nat) (msg : List Nat) : List Nat :=
  (msg.foldl (rsStep ((rsGen n).take n)) (List.replicate n 0)).reverse

end Sys2Proof.Machine
end

