-- ==== Sys2Proof/Config.lean ====
section
/-! DEFINITION. What the manual leaves open and what the package draws or is given at manufacture: every name here is a constant
without a value, so a statement about it holds whatever it is. -/

namespace Sys2Proof.Config

/-- The n-th 512-bit draw of Orris's random source (R24, R439): handle keys, nonces, resumption secrets. -/
opaque random : Nat → BitVec 512

/-- The SFU's result bits for a function code and an FP32 input, taken where the bounds of R91 hold (R92). (log 10: DESIGN CHOICE) -/
opaque sfu : Nat → BitVec 32 → BitVec 32

/-- The place of a reduction line's merge among those a recall performs, by die and line address (R97, R241). -/
opaque mergeKey : Nat → Nat → Nat

/-- The entry, by line address, that the home directory of a die drops to make room, by draw number, or none (R229).
(log 38: DESIGN CHOICE) -/
opaque dirVictim : Nat → Nat → Option Nat

/-- The outcome of an error pattern beyond the guaranteed range of the outer code (R250), by draw number: detected or not. -/
opaque eccDetects : Nat → Bool

/-- A byte that the manual leaves unspecified (R319, R394), by draw number and address. -/
opaque freeByte : Nat → Nat → BitVec 8

/-- Device identity, DEVICE_ID, fixed at manufacture (R435). -/
opaque deviceId : BitVec 512

/-- The context handle at a member package that a Sillage packet's CTX fields name (R329), by network position and endpoint handle:
recorded when the endpoint was bound, by a means that the manual does not give. (log 70: DESIGN CHOICE) -/
opaque memberCtx : Nat → BitVec 64 → BitVec 64

/-- The frequency term, in 2^(−32) tick a cycle and before its clamp, that the servo draws from the trend of its measurements, by draw
number: the manual does not say how (R446). -/
opaque servoTrend : Nat → Int

/-- The key hashes of the boot ROM (R430): SHA-512 of vendor key 0 to 3. (log 14: DESIGN CHOICE) -/
opaque romKeyHash : Nat → BitVec 512

/-- The package's fresh public key and its signature in a BIND_HELLO answer, by draw number (R359). (log 14: DESIGN CHOICE) -/
opaque bindKey : Nat → List (BitVec 8)
opaque bindSig : Nat → List (BitVec 8)

/-- What HKDF-SHA-512 yields over the ECDH secret and both nonces (R359): receive key, transmit key and two salts, by the draw number
of the package's key and nonce, the partner's fresh key and its nonce. (log 14: DESIGN CHOICE) -/
opaque bindKeys : Nat → List (BitVec 8) → List (BitVec 8) → List (BitVec 8)

/-- What AES-256-GCM yields for a link frame: the encrypted data flits and the tag, by the resumption secret's draw number, KEY_PHASE,
header flit and data flits (R327). (log 14: DESIGN CHOICE) -/
opaque linkSeal : Nat → Nat → List (BitVec 8) → List (BitVec 8) → List (BitVec 8)

/-- The 64-byte resumption secret of a handshake, by the draw number of this end's key and nonce (R348). (log 14: DESIGN CHOICE) -/
opaque linkSecret : Nat → BitVec 512

/-- The 64 bytes of a control flit, by its kind and what it carries: the manual gives them no layout (R328). (log 80: DESIGN CHOICE) -/
opaque controlFlit : Nat → List Nat → List (BitVec 8)

/-- The signature of a quote by its draw number (R438), and the certificates that follow it: of AK for M_FW, of the device, of the CA. -/
opaque quoteSig : Nat → BitVec 1056
opaque akCert : Nat → List (BitVec 8)
opaque deviceCerts : List (BitVec 8)

end Sys2Proof.Config
end

