-- ==== Sys2Proof/Machine/LoomTypes.lean ====
section
/-! DEFINITION. The state of a loom's thread side: threads, groups, skeins, barriers, scratch allocations and the operand reuse
cache (R41 to R68), and of its outstanding variable-latency instructions (R52, R53). -/

namespace Sys2Proof.Machine

/-- One register write that a completion will perform: thread, g register, value. -/
structure RegWrite where
  thread : Nat
  reg : Nat
  val : W32
  deriving DecidableEq, Repr

/-- What an outstanding variable-latency instruction is still waiting for. -/
inductive LcvWait where
  /-- The operation is performed; only its completion has still to be returned. -/
  | ready
  /-- A fabric-scope fence: every earlier fabric access of the participating threads must have been answered (R125). -/
  | fence (lanes : Nat)
  /-- TILE.WAIT up to a ticket (R107). -/
  | tile (ticket : Nat)
  /-- TILE.SUB holds its issue slot until the array queue accepts the descriptor (R107, R175). -/
  | submit (ticket : Nat)
  /-- QUE.WAIT on a queue, entry to the loom-scratch address (R108). -/
  | queue (handle : Word) (scratch : Nat)
  /-- QUE.SEND with ACK: the acknowledgement of the fabric request with that tag (R108, R290). -/
  | ack (tag : Nat)
  /-- Accesses held because their lines' fills or registrations are still open (R232, R240), or whose fabric responses are
  outstanding (R124, R126). -/
  | held (left : Nat)
  deriving DecidableEq, Repr

/-- One outstanding LCV instruction of a skein (R52, R53). -/
structure Lcv where
  id : Nat
  pc : Nat
  mask : Nat
  /-- Destination registers that the scoreboard tracks. -/
  dst : List Nat
  wait : LcvWait
  /-- Memory transactions that it counts (R288). -/
  tx : Nat
  /-- Values that the completion writes. -/
  writes : List RegWrite
  deriving DecidableEq, Repr

/-- Why a thread group is not ready (R55, R57, R61, R107, R108). -/
inductive GroupWait where
  | none
  /-- At a JOIN: its address, the group's expected mask, and whether another group of the skein, not waiting there, has issued
  since the wait began (R55, R56). -/
  | join (addr expected : Nat) (otherIssued : Bool)
  /-- At a named barrier (physical number), and the address of the instruction that arrived (R61). -/
  | bar (b addr : Nat)
  /-- Yielded for 64 issue cycles (R57). -/
  | yield
  /-- On an outstanding LCV instruction for which the group waits (TILE.WAIT, QUE.WAIT, TILE.SUB, a fabric fence). -/
  | lcv (id : Nat)
  deriving DecidableEq, Repr

/-- A thread group: the threads that share one program counter and issue together (R54). -/
structure Group where
  mask : Nat
  pc : Nat
  wait : GroupWait
  deriving DecidableEq, Repr

/-- A failed put or RED recorded against a thread until its next fabric-scope fence or release (R126). -/
structure PutFail where
  thread : Nat
  code : Nat
  deriving DecidableEq, Repr

/-- A resident skein (R41, R43, R54). Registers are keyed thread × 256 + register and read 0 where not listed (R271). -/
structure Skein where
  ctx : Nat
  /-- Register granules G of R43. -/
  gran : Nat
  /-- First register granule of the skein in its quadrant's 128 (R43). -/
  base : Nat
  dispatch : Nat
  groups : List Group
  /-- Threads that have exited or been halted. -/
  exited : Nat
  /-- The skein was halted by a fault (R68, R279). -/
  faulted : Bool
  regs : Tab W32
  uregs : Tab W32
  /-- Keyed thread × 8 + predicate; listed means 1. -/
  preds : List Nat
  lcvs : List Lcv
  nextLcv : Nat
  /-- Instruction words already fetched, by virtual address (R98). -/
  fetched : Tab Nat
  /-- Fabric requests outstanding, one entry a request: the thread that issued it (R125). -/
  fabricOut : List Nat
  putFails : List PutFail
  deriving DecidableEq, Repr

/-- A named barrier (R60): base count N, phase target E, arrived count A, enrolled skeins, and for the current phase the
threads (skein × 32 + thread) that have arrived (R62). -/
structure Barrier where
  n : Nat
  e : Nat
  a : Nat
  enrolled : Nat
  arrived : List Nat
  deriving DecidableEq, Repr

/-- One reuse-cache entry (R46): tag, valid lanes and the 32 lanes' values. -/
structure ReuseEntry where
  skein : Nat
  reg : Nat
  lanes : Nat
  vals : Tab W32
  deriving DecidableEq, Repr

/-- A scratch allocation of a dispatch, or (dispatch = none) the staging of token batching (R65): bytes in loom scratch. -/
structure ScratchAlloc where
  dispatch : Option Nat
  base : Nat
  size : Nat
  deriving DecidableEq, Repr

/-- A half of a loom, or the whole of an unsplit one under `west` (R42). -/
inductive Half where
  | west | east
  deriving DecidableEq, Repr

/-- Progress of a preemption request on a half (R66): none, or issue stopped until the state is saved. -/
inductive Preempt where
  | none | stopping
  deriving DecidableEq, Repr

end Sys2Proof.Machine
end

