-- ==== Sys2Proof/Machine/SilTypes.lean ====
section
/-! DEFINITION. The state of Sillage groups (R301 to R322), data cursors and RNG streams (R388 to R390), record stores (R391), captures
(R394), fills (R403) and the cadence unit (R396). -/

namespace Sys2Proof.Machine

/-- A member of a group (R302). -/
structure SilMember where
  position : Nat
  epoch : Nat
  endpoint : Word
  deriving DecidableEq, Repr

/-- A slice of a group (R303): first position, positions, owner, contribution format and scale mode, parameter offset and bytes,
LR_ROWS. -/
structure SilSlice where
  off : Nat
  elems : Nat
  owner : Nat
  fmt : Nat
  mode : Nat
  paramOff : Nat
  paramBytes : Nat
  lrRows : Nat
  deriving DecidableEq, Repr

/-- A segment (R305, R322): the fields of its digest prefix, its attempt and format, its payload. -/
structure SilSeg where
  step : Nat
  gid : Nat
  first : Nat
  slice : Nat
  sender : Nat
  kind : Nat
  count : Nat
  attempt : Nat
  fmt : Nat
  payload : List Byte
  deriving DecidableEq, Repr

/-- A landed data segment of a window that is not reduced. -/
structure SilPart where
  slice : Nat
  first : Nat
  count : Nat
  payload : List Byte
  deriving DecidableEq, Repr

/-- What an owner holds of one member in the step (R312): whether the member has arrived by the deadline, whether it is excluded,
whether segments of it were dropped late, its data segments received, its CLOSE (samples, segment count), and what has landed. -/
structure SilFrom where
  arrived : Bool
  excluded : Bool
  dropped : Bool
  got : Nat
  closed : Option (Nat × Nat)
  parts : List SilPart
  deriving DecidableEq, Repr

/-- A member of which nothing has come. -/
def SilFrom.none : SilFrom := ⟨false, false, false, 0, Option.none, []⟩

/-- The norm of a slice (R316): the exact sum of squares in units of 2^(−160), and whether an element was non-finite. -/
structure SilNorm where
  sum : Nat
  nonfin : Bool
  deriving DecidableEq, Repr

/-- An entry of the digest ring (R322). -/
structure SilDigest where
  step : Nat
  attempt : Nat
  sent : Nat
  recv : Nat
  deriving DecidableEq, Repr

/-- A segment that waits for window credit (R308): the owner it goes to, and the window in the owner's numbering. -/
structure SilWait where
  owner : Nat
  window : Nat
  seg : SilSeg
  deriving DecidableEq, Repr

/-- A COLLECTIVE entry that runs (R306): the queue and entry index, where it completes, its opcode and slice, the die of its engine,
the tags of its unanswered segments, the segments that wait, the outcome so far, and the step and attempt in which it was taken. -/
structure SilRun where
  id : Nat
  queue : Word
  index : Nat
  cplQ : Word
  op : Nat
  slice : Nat
  bytes : Nat
  die : Nat
  tags : List Nat
  waits : List SilWait
  status : Nat
  sub : Nat
  bitmap : Nat
  step : Nat
  attempt : Nat
  deriving DecidableEq, Repr

/-- How a group stands (R301, R397, R403). -/
inductive SilMode where
  | ordinary | restoring | joining | copying | image
  deriving DecidableEq, Repr

/-- A capture in progress (R394): the slot it writes (0 for A, 1 for B), when the commit completed, the CPL_Q of the queue that held
the COMMIT, and the step that it secures. -/
structure Capture where
  slot : Nat
  since : Nat
  cplQ : Word
  step : Nat
  deriving DecidableEq, Repr

/-- A fill (R403): the members that acknowledged, the source, bytes received, the LAG of the last fill, source changes,
and whether a fill has ended. -/
structure Fill where
  acked : List Nat
  source : Option Nat
  bytes : Nat
  lag : Nat
  switches : Nat
  ended : Bool
  deriving DecidableEq, Repr

/-- No fill. -/
def Fill.none : Fill := ⟨[], Option.none, 0, 0, 0, false⟩

/-- A Sillage group (R301): the copied descriptor and tables, and the state of its step. -/
structure SilGroup where
  handle : Word
  ctx : Nat
  desc : List Byte
  members : List SilMember
  slices : List SilSlice
  mode : SilMode
  attempt : Nat
  deadline : Nat
  final : Bool
  from_ : Tab SilFrom
  reduced : List Nat
  norm : Tab SilNorm
  norms : Tab Nat
  normSent : Bool
  clips : Tab (Nat × Nat)
  gradFail : Tab (Nat × Nat)
  sent : Tab Nat
  credit : Tab Nat
  paramGot : Tab Nat
  updated : Tab Nat
  /-- An UPDATE of the attempt ended with another status than ZS_OK (R318). -/
  updateBad : Bool
  /-- A RETRACT of the step has come that no COMMIT has reported (R319). -/
  retracted : Bool
  readySent : Bool
  ready : List Nat
  readySecure : Bool
  runs : List SilRun
  nextRun : Nat
  held : List Packet
  ring : Tab SilDigest
  capture : Option Capture
  /-- The step that a ROLLBACK names while the group restores (R404). -/
  restoreAt : Option Nat
  /-- The member whose JOIN came last and which has not contributed since (R403, R404). -/
  joined : Option Nat
  fill : Fill
  rollbacks : Nat
  /-- CPL_Q of the queue that held the last COMMIT, where notices go (R395). -/
  commitCpl : Word
  deriving DecidableEq, Repr

/-- A data cursor (R388); FORM 1 is SOURCE, 2 is STATE. -/
structure Cursor where
  handle : Word
  ctx : Nat
  form : Nat
  strict : Bool
  group : Word
  addr : Nat
  bytes : Nat
  restoreFrom : Word
  deriving DecidableEq, Repr

/-- An RNG stream (R390). -/
structure RngStream where
  handle : Word
  ctx : Nat
  key : Nat
  cursor : Word
  group : Word
  restoreFrom : Word
  base : Nat
  offset : Int
  deriving DecidableEq, Repr

/-- A record store (R391): GROUP_ID, SELF and identity of its group, the claiming group (null when lost), its context slot, when it
lost its group, and the 64 KiB frames of slots A and B in order. -/
structure RecStore where
  gid : Nat
  self : Nat
  identity : Nat
  group : Word
  ctx : Nat
  lostAt : Nat
  slotA : List Nat
  slotB : List Nat
  deriving DecidableEq, Repr

/-- The cadence unit beyond its registers (R396): the longest capture of the step so far, and when the last failure event came. -/
structure Cadence where
  longest : Nat
  lastEvent : Option Nat
  deriving DecidableEq, Repr

end Sys2Proof.Machine
end

