-- ==== Sys2Proof/Machine/ArrayTypes.lean ====
section
/-! DEFINITION. The state of a Twill array and its accumulator store (R158 to R224), and the whole loom. -/

namespace Sys2Proof.Machine

/-- One decoded operand element with the poison of what it was read from (R255), and its raw code and scale code (R222). -/
structure Elem where
  val : Val
  poisoned : Bool
  raw : Nat
  scale : Nat
  deriving DecidableEq, Repr

/-- The padding element +0 (R159). -/
def Elem.zero : Elem := ⟨.zero, false, 0, 0⟩

/-- An accumulator slot (R185 to R187): element [m][n] is keyed m × 128 + n and reads `dflt` where not listed; elements that are
poisoned (R255); tag TOPK. -/
structure AccSlot where
  dflt : Nat
  vals : Tab Nat
  poisoned : List Nat
  topk : Bool
  deriving DecidableEq, Repr

/-- A slot newly granted or cleared: +0.0 everywhere, tag SUM (R186, R187). -/
def AccSlot.clear : AccSlot := ⟨0, [], [], false⟩

/-- A slot filled with the canonical NaN, no element poisoned (R177). -/
def AccSlot.nan : AccSlot := ⟨0x7FC00000, [], [], false⟩

/-- A descriptor submitted by TILE.SUB that the array queue has not accepted (R107, R175): ticket, context, the 64 bytes, the
step number at submission, and the group that holds its issue slot. -/
structure TileSub where
  ticket : Nat
  ctx : Nat
  desc : List Byte
  step : Nat
  skein : Nat
  lcv : Nat
  deriving DecidableEq, Repr

/-- One request of a queued op: a single op has one, a token batch one for each request that joined (R180). `staged` are the rows
of A copied into staging. -/
structure TileReq where
  ticket : Nat
  desc : List Byte
  step : Nat
  staged : List (List Elem)
  /-- The checked blocks that its A read verified (R376). -/
  seen : List Nat
  deriving DecidableEq, Repr

/-- Where an accepted op stands (R167, R175 to R177). -/
inductive TileStage where
  | queued
  /-- B is loaded: column n as its elements along k; and the checked blocks that the op has verified (R376). -/
  | loaded (b : List (List Elem)) (seen : List Nat)
  /-- The pass streams: the partials of its rows with their poison, not yet added into a slot (R160, R255). -/
  | running (rows : List (List (Val × Bool)))
  /-- A slot store hands its tile to Sillage: the segments that wait for credit, those already handed, and the ARITH cycle up to which
  its waiting is counted (R199). -/
  | handing (waits handed : List SilWait) (since : Nat)
  /-- Finished with a status, a subcode and the first result word; it completes when every earlier op has (R176). -/
  | done (status sub result : Nat)
  /-- Refused at acceptance with a status and a subcode (R173); it touches no slot. -/
  | refused (status sub : Nat)
  deriving DecidableEq, Repr

/-- An accepted op of an array or half (R175). -/
structure TileOp where
  ctx : Nat
  batch : Bool
  reqs : List TileReq
  stage : TileStage
  deriving DecidableEq, Repr

/-- The open token batch (R180, R181): its requests in acceptance order. -/
structure TokenBatch where
  ctx : Nat
  reqs : List TileReq
  deriving DecidableEq, Repr

/-- The loaded weights and the fields of the op that loaded them (R169). -/
structure Weights where
  ctx : Nat
  fmtB : Nat
  scaleB : Nat
  addr : Nat
  stride : Nat
  scaleOff : Nat
  k : Nat
  n : Nat
  transB : Bool
  b : List (List Elem)
  deriving DecidableEq, Repr

/-- A whole array, or one half of a split one (R208). -/
structure ArrayHalf where
  subs : List TileSub
  ops : List TileOp
  batch : Option TokenBatch
  weights : Option Weights
  deriving DecidableEq, Repr

/-- An array half with nothing accepted. -/
def ArrayHalf.empty : ArrayHalf := ⟨[], [], none, none⟩

/-- A running firmware-port op (R220): the 64 descriptor bytes, none where the descriptor's address is outside R221. -/
structure PortOp where
  desc : Option (List Byte)
  deriving DecidableEq, Repr

/-- What a half of a loom (or a whole unsplit loom, under `west`) is lent to: the context, its held slot count (R186) and the
quanta that have ended while it was held (R286). -/
structure Lease where
  ctx : Nat
  slots : Nat
  quanta : Nat
  /-- Reference cycles at its start (R286). -/
  since : Nat
  deriving DecidableEq, Repr

/-- A skein saved by a preemption or a drain, with the elapsed cycles of its JOIN waits in place of their start (R66, R67). -/
structure SavedSkein where
  skein : Skein
  quad : Nat
  slot : Nat
  deriving DecidableEq, Repr

/-- What a preemption or a field-test drain saved of one context on one loom or half (R66, R382). -/
structure SavedLoom where
  ctx : Nat
  loom : Nat
  east : Bool
  whole : Bool
  skeins : List SavedSkein
  barriers : Tab Barrier
  scratch : Tab Byte
  allocs : List ScratchAlloc
  slots : Tab AccSlot
  held : Nat
  dispatches : List Nat
  /-- The frames of its save area (R66). -/
  area : Option (Nat × Nat)
  deriving DecidableEq, Repr

/-- A loom: its thread side, its array and its accumulator store. -/
structure Loom where
  skeins : Tab Skein
  barriers : Tab Barrier
  scratch : Tab Byte
  allocs : List ScratchAlloc
  /-- Reuse entries keyed quadrant × 3 + slot, least recently used first (R46). -/
  reuse : Tab (List ReuseEntry)
  preemptWest : Preempt
  preemptEast : Preempt
  leaseWest : Option Lease
  leaseEast : Option Lease
  slots : Tab AccSlot
  west : ArrayHalf
  east : ArrayHalf
  port : Option PortOp
  /-- Stage 1 of the progress watchdog has halted the half, or the whole under west (R410). -/
  wdWest : Bool
  wdEast : Bool
  /-- Issue is stopped for the whole loom: field test or recovery (R382, R413). -/
  stopped : Bool
  /-- A half (or the whole, under west) that a preemption freed for a waiting context (R286): its slot, and whether east. -/
  claim : Option (Nat × Bool)
  deriving DecidableEq, Repr

/-- A loom at reset. -/
def Loom.empty : Loom :=
  ⟨[], [], [], [], [], .none, .none, none, none, [], .empty, .empty, none, false, false, false, none⟩

end Sys2Proof.Machine
end

