-- ==== Sys2Proof/Machine/MemTypes.lean ====
section
/-! DEFINITION. The state of the Weave caches (R226 to R241), of the bonded DRAM controllers (R245 to R264) and of checked blocks
and field test (R372 to R386). Data live once, in the package's memory: a line's state says who may hold it, and reduction lines
hold their pending values. -/

namespace Sys2Proof.Machine

/-- The states of a line in a slice (R228). A pinned way whose line lost its data stays in I under its pin (R239). -/
inductive LineState where
  | i | s | e | m | rd | ro
  deriving DecidableEq, Repr

/-- A RED waiting in the slice for its line's registration (R240): byte offset in the line, operand bytes, whether the operand
was poisoned, and the instruction that waits for it (loom, skein, LCV), none for an engine or a link receiver. -/
structure RedWait where
  off : Nat
  op : Nat
  ty : Nat
  operand : Nat
  poisoned : Bool
  waiter : Option (Nat × Nat × Nat)
  deriving DecidableEq, Repr

/-- One way of a set. `la` is the line address, PA >> 7. -/
structure WLine where
  way : Nat
  la : Nat
  state : LineState
  part : Nat
  /-- Context slot that owns the pin (R238). -/
  pin : Option Nat
  /-- The stream that allocated it (R234). -/
  stream : Option Nat
  /-- Operation and type of a reduction line, its touched mask of 2-byte units, its 128 value bytes as a number, and the poison
  of its two granules (R241, R254). -/
  op : Nat
  ty : Nat
  touched : Nat
  vals : Nat
  redPoison : Nat
  /-- The home has recorded this slice as a reducer; the registration is acknowledged (R229, R240). -/
  registered : Bool
  acked : Bool
  waiting : List RedWait
  deriving DecidableEq, Repr

/-- One set of a slice: its ways in use, the 15 bits of the pseudo-LRU tree (R236), and the last four victims (line address,
partition) of R240-thrash. -/
structure WSet where
  ways : List WLine
  tree : Nat
  victims : List (Nat × Nat)
  deriving DecidableEq, Repr

/-- Who waits for a fill (R232, R233): a loom's LCV instruction, an engine, which is one source, or a RED of a source that acts on
the line as the fill leaves it, with the type of its page and its partition. -/
inductive Waiter where
  | lcv (loom skein lcv : Nat)
  | engine (src : Nat)
  | red (src part : Nat) (strm : Bool) (r : RedWait)
  deriving DecidableEq, Repr

/-- An open miss register (R232). -/
structure MissReg where
  la : Nat
  part : Nat
  /-- The fill is placed in the stream way alone (R235). -/
  streamWay : Bool
  /-- The detector's stream that the fill is allocated for. -/
  byStream : Option Nat
  /-- The access needs M. -/
  forM : Bool
  waiters : List Waiter
  deriving DecidableEq, Repr

/-- An access that waits in a slice's input queue (R232). -/
structure QAccess where
  la : Nat
  part : Nat
  strm : Bool
  forM : Bool
  waiter : Waiter
  deriving DecidableEq, Repr

/-- A tracked stream of a slice (R234): its direction once its successor has given it (`none` before, with the ascending line in
`next`); `age` orders advances. -/
structure StreamTrack where
  id : Nat
  part : Nat
  up : Option Bool
  next : Nat
  run : Nat
  age : Nat
  deriving DecidableEq, Repr

/-- One die's Weave cache: sets keyed slice × 2,048 + set; miss registers, input queues and streams keyed by slice; per partition the
configuration word (MIN_WAYS, ENABLE), thrash counts and the counts of the current window. -/
structure Weave where
  sets : Tab WSet
  miss : Tab (List MissReg)
  /-- Accesses held in the input queues, oldest first (R232). -/
  inputq : Tab (List QAccess)
  streams : Tab (List StreamTrack)
  clock : Nat
  partCfg : Tab Nat
  thrash : Tab Nat
  window : Tab Nat
  deriving DecidableEq, Repr

/-- The Weave cache with nothing in it. -/
def Weave.empty : Weave := ⟨[], [], [], [], 0, [], [], []⟩

/-- One memory controller (stack): failed pseudo-channels waiting for a rebuild in failure order, and by pseudo-channel the symbol
corrections of the current patrol pass and the times of its last 16 UNCORRECTED reads, newest first (R252). -/
structure Stack where
  waitRebuild : List Nat
  sym : Tab Nat
  uncorr : Tab (List Nat)
  deriving DecidableEq, Repr

/-- A controller at power-up. -/
def Stack.empty : Stack := ⟨[], [], []⟩

/-- Where a field test of a loom stands (R383). -/
inductive TestPhase where
  | drain | scan | march | repair | outcome
  deriving DecidableEq, Repr

/-- The outcome of a field test (R385). -/
inductive TestOutcome where
  | pass | repaired | retired
  deriving DecidableEq, Repr

/-- A queued test: loom index and trigger code of CHK_FT_LAST. -/
structure QueuedTest where
  loom : Nat
  trigger : Nat
  deriving DecidableEq, Repr

/-- A running test of a loom (R381 to R385). -/
structure RunningTest where
  loom : Nat
  trigger : Nat
  phase : TestPhase
  start : Nat
  /-- Repair map chosen for a coverable defect of the scan, and whether the defect is coverable. -/
  defect : Option Nat
  outcome : TestOutcome
  sram : Bool
  deriving DecidableEq, Repr

/-- One die's CHK_ block beyond its registers: anomaly counts of the current window, and field tests (R379 to R385). -/
structure CheckBlk where
  windowStart : Nat
  /-- ACS_NAN of each loom at the window's start. -/
  nanBase : Tab Nat
  amaxJumps : Nat
  fails : Nat
  /-- Contexts of the window's amax jumps and check failures. -/
  jumpCtxs : List Nat
  failCtxs : List Nat
  firedNan : List Nat
  firedJump : Bool
  firedFail : Bool
  queued : List QueuedTest
  running : List RunningTest
  /-- Base-note time of each loom's last passing test, by loom index. -/
  lastPass : Tab Nat
  /-- Contexts (handles) that held a half of each loom since it last passed. -/
  holders : Tab (List Word)
  /-- Contexts that held a half of each loom during the current window. -/
  windowHolders : Tab (List Nat)
  deriving DecidableEq, Repr

/-- A CHK_ block at power-up. -/
def CheckBlk.empty : CheckBlk := ⟨0, [], 0, 0, [], [], [], false, false, [], [], [], [], []⟩

/-- An outstanding TEST_SUSPECT request (R380, R381): who asked (context handle, 0 for the manager; port and request), the looms
it queued that have not finished, and the three counts of each die. -/
structure SuspectReq where
  ctx : Word
  port : Nat
  reqId : Nat
  left : List Nat
  tested : Tab Nat
  repaired : Tab Nat
  retired : Tab Nat
  deriving DecidableEq, Repr

end Sys2Proof.Machine
end

