-- ==== Sys2Proof/Machine/RegTable.lean ====
section
/-! DEFINITION. The registers of every page: name, offset, width, reset value and the bits of each access type, as the field
tables of the blocks' chapters give them (R21, R69, R156, R183, R206, R224, R242, R243, R263, R264, R297 to R299, R323, R355,
R356, R369, R370, R386, R405 to R407, R425, R441, R457 to R459, R466, R491), and the offset of each register by its name.
A bit in no access mask is RO. -/

namespace Sys2Proof.Machine

/-- The blocks of Table R487. The RVL_ die page (instance 0x40) is a block of its own here. -/
inductive Blk where
  | loom | twl | acs | wvc | memc | ctx | que | sch | cnv | dma | sil | rvl | rvlDie | svp | cad | rng | chk
  | pcd | bnt | ors | dry | clk | pwr | mgp
  deriving DecidableEq, Repr

/-- One register: its name, offset in the page, whether it is 64 bits wide, its reset value, and the masks of its access
types (R33). -/
structure RegRow where
  name : String
  off : Nat
  w64 : Bool
  reset : Nat
  rw : Nat
  w1c : Nat
  w1s : Nat
  wo : Nat
  rwl : Nat
  deriving DecidableEq, Repr

/-- Offset of PCD_DIE_MAP (R21). -/
def Reg.PCD_DIE_MAP : Nat := 0x040
/-- Offset of LOOM_CFG (R69). -/
def Reg.LOOM_CFG : Nat := 0x040
/-- Offset of LOOM_OCC (R69). -/
def Reg.LOOM_OCC : Nat := 0x044
/-- Offset of LOOM_ISSUE_CNT (R69). -/
def Reg.LOOM_ISSUE_CNT : Nat := 0x048
/-- Offset of LOOM_PAIR_CNT (R69). -/
def Reg.LOOM_PAIR_CNT : Nat := 0x050
/-- Offset of LOOM_REUSE_HIT (R69). -/
def Reg.LOOM_REUSE_HIT : Nat := 0x058
/-- Offset of LOOM_BANK_STALL (R69). -/
def Reg.LOOM_BANK_STALL : Nat := 0x060
/-- Offset of LOOM_JOIN_RELEASE (R69). -/
def Reg.LOOM_JOIN_RELEASE : Nat := 0x068
/-- Offset of LOOM_BAR_FAULT (R69). -/
def Reg.LOOM_BAR_FAULT : Nat := 0x06C
/-- Offset of LOOM_PREEMPT (R69). -/
def Reg.LOOM_PREEMPT : Nat := 0x070
/-- Offset of CNV_OPS (R156). -/
def Reg.CNV_OPS : Nat := 0x040
/-- Offset of CNV_NONFIN_BLK (R156). -/
def Reg.CNV_NONFIN_BLK : Nat := 0x048
/-- Offset of CNV_SAT (R156). -/
def Reg.CNV_SAT : Nat := 0x050
/-- Offset of CNV_ESC (R156). -/
def Reg.CNV_ESC : Nat := 0x058
/-- Offset of CNV_CH_SEL (R156). -/
def Reg.CNV_CH_SEL : Nat := 0x060
/-- Offset of CNV_CH_ATTR (R156). -/
def Reg.CNV_CH_ATTR : Nat := 0x064
/-- Offset of CNV_CH_STATE (R156). -/
def Reg.CNV_CH_STATE : Nat := 0x068
/-- Offset of CNV_CH_SCALE (R156). -/
def Reg.CNV_CH_SCALE : Nat := 0x06C
/-- Offset of CNV_CH_NONFIN (R156). -/
def Reg.CNV_CH_NONFIN : Nat := 0x070
/-- Offset of CNV_CH_HIST (R156). -/
def Reg.CNV_CH_HIST : Nat := 0x080
/-- Offset of TWL_CFG (R183). -/
def Reg.TWL_CFG : Nat := 0x040
/-- Offset of TWL_QSTAT (R183). -/
def Reg.TWL_QSTAT : Nat := 0x044
/-- Offset of TWL_PASSES (R183). -/
def Reg.TWL_PASSES : Nat := 0x048
/-- Offset of TWL_STREAM_CYC (R183). -/
def Reg.TWL_STREAM_CYC : Nat := 0x050
/-- Offset of TWL_FREEZE_A (R183). -/
def Reg.TWL_FREEZE_A : Nat := 0x058
/-- Offset of TWL_FREEZE_DRAIN (R183). -/
def Reg.TWL_FREEZE_DRAIN : Nat := 0x060
/-- Offset of TWL_PRELOAD_WAIT (R183). -/
def Reg.TWL_PRELOAD_WAIT : Nat := 0x068
/-- Offset of TWL_TB_BATCHES (R183). -/
def Reg.TWL_TB_BATCHES : Nat := 0x070
/-- Offset of TWL_TB_ROWS (R183). -/
def Reg.TWL_TB_ROWS : Nat := 0x078
/-- Offset of TWL_TB_TIMEOUTS (R183). -/
def Reg.TWL_TB_TIMEOUTS : Nat := 0x080
/-- Offset of TWL_B_KEPT (R183). -/
def Reg.TWL_B_KEPT : Nat := 0x084
/-- Offset of TWL_FAULT_TICKET (R183). -/
def Reg.TWL_FAULT_TICKET : Nat := 0x088
/-- Offset of ACS_HELD (R206). -/
def Reg.ACS_HELD : Nat := 0x040
/-- Offset of ACS_TOPK (R206). -/
def Reg.ACS_TOPK : Nat := 0x044
/-- Offset of ACS_OWNER (R206). -/
def Reg.ACS_OWNER : Nat := 0x048
/-- Offset of ACS_ADD_ROWS (R206). -/
def Reg.ACS_ADD_ROWS : Nat := 0x050
/-- Offset of ACS_SR_ROWS (R206). -/
def Reg.ACS_SR_ROWS : Nat := 0x058
/-- Offset of ACS_OVF (R206). -/
def Reg.ACS_OVF : Nat := 0x060
/-- Offset of ACS_NAN (R206). -/
def Reg.ACS_NAN : Nat := 0x068
/-- Offset of ACS_STORE_BYTES (R206). -/
def Reg.ACS_STORE_BYTES : Nat := 0x070
/-- Offset of ACS_SIL_WAIT (R206). -/
def Reg.ACS_SIL_WAIT : Nat := 0x078
/-- Offset of ACS_TOPK_ROWS (R206). -/
def Reg.ACS_TOPK_ROWS : Nat := 0x080
/-- Offset of TWL_REPAIR (R224). -/
def Reg.TWL_REPAIR : Nat := 0x040
/-- Offset of TWL_REPAIR_STAT (R224). -/
def Reg.TWL_REPAIR_STAT : Nat := 0x044
/-- Offset of TWL_CMP_DESC (R224). -/
def Reg.TWL_CMP_DESC : Nat := 0x048
/-- Offset of TWL_CMP_CTRL (R224). -/
def Reg.TWL_CMP_CTRL : Nat := 0x050
/-- Offset of TWL_CMP_RESULT (R224). -/
def Reg.TWL_CMP_RESULT : Nat := 0x054
/-- Offset of TWL_FREEZE_WEST (R224). -/
def Reg.TWL_FREEZE_WEST : Nat := 0x058
/-- Offset of TWL_FREEZE_EAST (R224). -/
def Reg.TWL_FREEZE_EAST : Nat := 0x060
/-- Offset of TWL_FREEZE_LIMIT (R224). -/
def Reg.TWL_FREEZE_LIMIT : Nat := 0x068
/-- Offset of TWL_FREEZE_ABANDON (R224). -/
def Reg.TWL_FREEZE_ABANDON : Nat := 0x06C
/-- Offset of TWL_REPAIRS (R224). -/
def Reg.TWL_REPAIRS : Nat := 0x070
/-- Offset of WVC_HITS (R242). -/
def Reg.WVC_HITS : Nat := 0x040
/-- Offset of WVC_MISSES (R242). -/
def Reg.WVC_MISSES : Nat := 0x048
/-- Offset of WVC_MCAST (R242). -/
def Reg.WVC_MCAST : Nat := 0x050
/-- Offset of WVC_STREAM_ALLOC (R242). -/
def Reg.WVC_STREAM_ALLOC : Nat := 0x058
/-- Offset of WVC_MERGES (R242). -/
def Reg.WVC_MERGES : Nat := 0x060
/-- Offset of WVC_RECALLS (R242). -/
def Reg.WVC_RECALLS : Nat := 0x068
/-- Offset of WVC_PIN_DENIED (R242). -/
def Reg.WVC_PIN_DENIED : Nat := 0x070
/-- Offset of WVC_MISS_FULL (R242). -/
def Reg.WVC_MISS_FULL : Nat := 0x078
/-- Offset of WVC_WAITER_FULL (R242). -/
def Reg.WVC_WAITER_FULL : Nat := 0x080
/-- Offset of WVC_NO_VICTIM (R242). -/
def Reg.WVC_NO_VICTIM : Nat := 0x084
/-- Offset of WVC_STREAM_ENTER (R242). -/
def Reg.WVC_STREAM_ENTER : Nat := 0x088
/-- Offset of WVC_OCC (R242). -/
def Reg.WVC_OCC : Nat := 0x08C
/-- Offset of WVC_MISS_OPEN (R242). -/
def Reg.WVC_MISS_OPEN : Nat := 0x090
/-- Offset of WVC_DIE_CFG (R243). -/
def Reg.WVC_DIE_CFG : Nat := 0x040
/-- Offset of WVC_PART_SEL (R243). -/
def Reg.WVC_PART_SEL : Nat := 0x044
/-- Offset of WVC_PART_CFG (R243). -/
def Reg.WVC_PART_CFG : Nat := 0x048
/-- Offset of WVC_PART_LINES (R243). -/
def Reg.WVC_PART_LINES : Nat := 0x04C
/-- Offset of WVC_PART_PINNED (R243). -/
def Reg.WVC_PART_PINNED : Nat := 0x050
/-- Offset of WVC_PART_THRASH (R243). -/
def Reg.WVC_PART_THRASH : Nat := 0x058
/-- Offset of WVC_THRASH_FLAG (R243). -/
def Reg.WVC_THRASH_FLAG : Nat := 0x060
/-- Offset of WVC_THRASH_WINDOW (R243). -/
def Reg.WVC_THRASH_WINDOW : Nat := 0x068
/-- Offset of WVC_THRASH_LIMIT (R243). -/
def Reg.WVC_THRASH_LIMIT : Nat := 0x06C
/-- Offset of WVC_CTX_SEL (R243). -/
def Reg.WVC_CTX_SEL : Nat := 0x070
/-- Offset of WVC_CTX_PINNED (R243). -/
def Reg.WVC_CTX_PINNED : Nat := 0x074
/-- Offset of WVC_DIR_EVICT (R243). -/
def Reg.WVC_DIR_EVICT : Nat := 0x078
/-- Offset of MEMC_TEMP (R263). -/
def Reg.MEMC_TEMP : Nat := 0x040
/-- Offset of MEMC_CE_INNER (R263). -/
def Reg.MEMC_CE_INNER : Nat := 0x048
/-- Offset of MEMC_CE_OUTER (R263). -/
def Reg.MEMC_CE_OUTER : Nat := 0x050
/-- Offset of MEMC_ERASURE (R263). -/
def Reg.MEMC_ERASURE : Nat := 0x058
/-- Offset of MEMC_UE (R263). -/
def Reg.MEMC_UE : Nat := 0x060
/-- Offset of MEMC_POISON_RD (R263). -/
def Reg.MEMC_POISON_RD : Nat := 0x064
/-- Offset of MEMC_PC_FAILED (R263). -/
def Reg.MEMC_PC_FAILED : Nat := 0x068
/-- Offset of MEMC_SPARE_MAP (R263). -/
def Reg.MEMC_SPARE_MAP : Nat := 0x070
/-- Offset of MEMC_REBUILD (R263). -/
def Reg.MEMC_REBUILD : Nat := 0x074
/-- Offset of MEMC_REBUILD_PTR (R263). -/
def Reg.MEMC_REBUILD_PTR : Nat := 0x078
/-- Offset of MEMC_LAST_UE (R263). -/
def Reg.MEMC_LAST_UE : Nat := 0x080
/-- Offset of MEMC_PC_SEL (R263). -/
def Reg.MEMC_PC_SEL : Nat := 0x088
/-- Offset of MEMC_PC_SYM (R263). -/
def Reg.MEMC_PC_SYM : Nat := 0x08C
/-- Offset of MEMC_PATROL (R264). -/
def Reg.MEMC_PATROL : Nat := 0x040
/-- Offset of MEMC_PATROL_POS (R264). -/
def Reg.MEMC_PATROL_POS : Nat := 0x048
/-- Offset of MEMC_PATROL_PASSES (R264). -/
def Reg.MEMC_PATROL_PASSES : Nat := 0x050
/-- Offset of MEMC_SPARE_THRESH (R264). -/
def Reg.MEMC_SPARE_THRESH : Nat := 0x054
/-- Offset of MEMC_SURV_SEL (R264). -/
def Reg.MEMC_SURV_SEL : Nat := 0x058
/-- Offset of MEMC_SURV_BASE (R264). -/
def Reg.MEMC_SURV_BASE : Nat := 0x060
/-- Offset of MEMC_SURV_SIZE (R264). -/
def Reg.MEMC_SURV_SIZE : Nat := 0x068
/-- Offset of MEMC_CLEAR_BYTES (R264). -/
def Reg.MEMC_CLEAR_BYTES : Nat := 0x070
/-- Offset of CTX_SEL (R297). -/
def Reg.CTX_SEL : Nat := 0x040
/-- Offset of CTX_STATE (R297). -/
def Reg.CTX_STATE : Nat := 0x044
/-- Offset of CTX_INFLIGHT (R297). -/
def Reg.CTX_INFLIGHT : Nat := 0x048
/-- Offset of CTX_TOPS (R297). -/
def Reg.CTX_TOPS : Nat := 0x04C
/-- Offset of CTX_MEMTX (R297). -/
def Reg.CTX_MEMTX : Nat := 0x050
/-- Offset of CTX_STRAY (R297). -/
def Reg.CTX_STRAY : Nat := 0x058
/-- Offset of CTX_STRAY_DROP (R297). -/
def Reg.CTX_STRAY_DROP : Nat := 0x060
/-- Offset of CTX_DB_DROP (R297). -/
def Reg.CTX_DB_DROP : Nat := 0x064
/-- Offset of CTX_FAULT_LOST (R297). -/
def Reg.CTX_FAULT_LOST : Nat := 0x068
/-- Offset of CTX_STALE_RX (R297). -/
def Reg.CTX_STALE_RX : Nat := 0x070
/-- Offset of CTX_TEARDOWN (R297). -/
def Reg.CTX_TEARDOWN : Nat := 0x078
/-- Offset of CTX_SCRUB_LEFT (R297). -/
def Reg.CTX_SCRUB_LEFT : Nat := 0x080
/-- Offset of SCH_CFG (R299). -/
def Reg.SCH_CFG : Nat := 0x040
/-- Offset of SCH_HEARTBEAT (R299). -/
def Reg.SCH_HEARTBEAT : Nat := 0x048
/-- Offset of SCH_DISPATCHED (R299). -/
def Reg.SCH_DISPATCHED : Nat := 0x050
/-- Offset of SCH_PREEMPTS (R299). -/
def Reg.SCH_PREEMPTS : Nat := 0x058
/-- Offset of SCH_TOPS (R299). -/
def Reg.SCH_TOPS : Nat := 0x060
/-- Offset of SCH_MEMTX (R299). -/
def Reg.SCH_MEMTX : Nat := 0x064
/-- Offset of SCH_HOLDS (R299). -/
def Reg.SCH_HOLDS : Nat := 0x068
/-- Offset of SCH_SEL (R299). -/
def Reg.SCH_SEL : Nat := 0x070
/-- Offset of SCH_VTIME (R299). -/
def Reg.SCH_VTIME : Nat := 0x078
/-- Offset of SCH_HALVES (R299). -/
def Reg.SCH_HALVES : Nat := 0x080
/-- Offset of QUE_SEL (R298). -/
def Reg.QUE_SEL : Nat := 0x040
/-- Offset of QUE_INFO (R298). -/
def Reg.QUE_INFO : Nat := 0x044
/-- Offset of QUE_PROD (R298). -/
def Reg.QUE_PROD : Nat := 0x048
/-- Offset of QUE_CONS (R298). -/
def Reg.QUE_CONS : Nat := 0x04C
/-- Offset of QUE_ENTRIES (R298). -/
def Reg.QUE_ENTRIES : Nat := 0x050
/-- Offset of QUE_DB_REJECT (R298). -/
def Reg.QUE_DB_REJECT : Nat := 0x058
/-- Offset of QUE_CPL_DROP (R298). -/
def Reg.QUE_CPL_DROP : Nat := 0x05C
/-- Offset of SIL_SEG_TX (R323). -/
def Reg.SIL_SEG_TX : Nat := 0x040
/-- Offset of SIL_SEG_RX (R323). -/
def Reg.SIL_SEG_RX : Nat := 0x048
/-- Offset of SIL_ADDENDS (R323). -/
def Reg.SIL_ADDENDS : Nat := 0x050
/-- Offset of SIL_COMMITS (R323). -/
def Reg.SIL_COMMITS : Nat := 0x058
/-- Offset of SIL_LATE (R323). -/
def Reg.SIL_LATE : Nat := 0x060
/-- Offset of SIL_STALE_ROLE (R323). -/
def Reg.SIL_STALE_ROLE : Nat := 0x064
/-- Offset of SIL_CHECK_FAIL (R323). -/
def Reg.SIL_CHECK_FAIL : Nat := 0x068
/-- Offset of SIL_RETRACT_TX (R323). -/
def Reg.SIL_RETRACT_TX : Nat := 0x06C
/-- Offset of SIL_RETRACT_RX (R323). -/
def Reg.SIL_RETRACT_RX : Nat := 0x070
/-- Offset of SIL_LATE_RETRACT (R323). -/
def Reg.SIL_LATE_RETRACT : Nat := 0x074
/-- Offset of SIL_OVF (R323). -/
def Reg.SIL_OVF : Nat := 0x078
/-- Offset of SIL_STEP_SKEW (R323). -/
def Reg.SIL_STEP_SKEW : Nat := 0x07C
/-- Offset of SIL_GRP_SEL (R323). -/
def Reg.SIL_GRP_SEL : Nat := 0x080
/-- Offset of SIL_GRP_STATE (R323). -/
def Reg.SIL_GRP_STATE : Nat := 0x084
/-- Offset of SIL_GRP_STEP (R323). -/
def Reg.SIL_GRP_STEP : Nat := 0x088
/-- Offset of SIL_DIG_SEL (R323). -/
def Reg.SIL_DIG_SEL : Nat := 0x090
/-- Offset of SIL_DIG_STEP (R323). -/
def Reg.SIL_DIG_STEP : Nat := 0x098
/-- Offset of SIL_DIG_SENT_LO (R323). -/
def Reg.SIL_DIG_SENT_LO : Nat := 0x0A0
/-- Offset of SIL_DIG_SENT_HI (R323). -/
def Reg.SIL_DIG_SENT_HI : Nat := 0x0A8
/-- Offset of SIL_DIG_RECV_LO (R323). -/
def Reg.SIL_DIG_RECV_LO : Nat := 0x0B0
/-- Offset of SIL_DIG_RECV_HI (R323). -/
def Reg.SIL_DIG_RECV_HI : Nat := 0x0B8
/-- Offset of SIL_DIG_ATTEMPT (R323). -/
def Reg.SIL_DIG_ATTEMPT : Nat := 0x0C0
/-- Offset of RVL_PORT_CFG (R355). -/
def Reg.RVL_PORT_CFG : Nat := 0x040
/-- Offset of RVL_PORT_STATE (R355). -/
def Reg.RVL_PORT_STATE : Nat := 0x044
/-- Offset of RVL_PEER (R355). -/
def Reg.RVL_PEER : Nat := 0x048
/-- Offset of RVL_FLIGHT (R355). -/
def Reg.RVL_FLIGHT : Nat := 0x04C
/-- Offset of RVL_BYPASS (R355). -/
def Reg.RVL_BYPASS : Nat := 0x050
/-- Offset of RVL_TRAIN_LIMIT (R355). -/
def Reg.RVL_TRAIN_LIMIT : Nat := 0x054
/-- Offset of RVL_FEC_CORR (R355). -/
def Reg.RVL_FEC_CORR : Nat := 0x058
/-- Offset of RVL_FEC_UNCORR (R355). -/
def Reg.RVL_FEC_UNCORR : Nat := 0x060
/-- Offset of RVL_RETX (R355). -/
def Reg.RVL_RETX : Nat := 0x068
/-- Offset of RVL_TX_FLITS (R355). -/
def Reg.RVL_TX_FLITS : Nat := 0x070
/-- Offset of RVL_RX_FLITS (R355). -/
def Reg.RVL_RX_FLITS : Nat := 0x078
/-- Offset of RVL_AUTH_FAIL (R355). -/
def Reg.RVL_AUTH_FAIL : Nat := 0x080
/-- Offset of RVL_EPOCH_DROP (R355). -/
def Reg.RVL_EPOCH_DROP : Nat := 0x084
/-- Offset of RVL_RETRAINS (R355). -/
def Reg.RVL_RETRAINS : Nat := 0x088
/-- Offset of RVL_REPLAY_LOST (R355). -/
def Reg.RVL_REPLAY_LOST : Nat := 0x08C
/-- Offset of RVL_POSITION (R356). -/
def Reg.RVL_POSITION : Nat := 0x040
/-- Offset of RVL_ROUTE_SEL (R356). -/
def Reg.RVL_ROUTE_SEL : Nat := 0x044
/-- Offset of RVL_ROUTE_DATA (R356). -/
def Reg.RVL_ROUTE_DATA : Nat := 0x048
/-- Offset of RVL_WIN_SEL (R356). -/
def Reg.RVL_WIN_SEL : Nat := 0x050
/-- Offset of RVL_WIN_ERR (R356). -/
def Reg.RVL_WIN_ERR : Nat := 0x054
/-- Offset of RVL_CHECK_FAIL (R356). -/
def Reg.RVL_CHECK_FAIL : Nat := 0x058
/-- Offset of RVL_UNREACH (R356). -/
def Reg.RVL_UNREACH : Nat := 0x05C
/-- Offset of RVL_TIME (R356). -/
def Reg.RVL_TIME : Nat := 0x060
/-- Offset of RVL_FWD (R356). -/
def Reg.RVL_FWD : Nat := 0x068
/-- Offset of SVP_CFG (R370). -/
def Reg.SVP_CFG : Nat := 0x040
/-- Offset of SVP_STATE (R370). -/
def Reg.SVP_STATE : Nat := 0x044
/-- Offset of SVP_MAC (R370). -/
def Reg.SVP_MAC : Nat := 0x048
/-- Offset of SVP_IPV4 (R370). -/
def Reg.SVP_IPV4 : Nat := 0x050
/-- Offset of SVP_IPV6 (R370). -/
def Reg.SVP_IPV6 : Nat := 0x054
/-- Offset of SVP_PARTNER (R370). -/
def Reg.SVP_PARTNER : Nat := 0x068
/-- Offset of SVP_RX_FRAMES (R370). -/
def Reg.SVP_RX_FRAMES : Nat := 0x070
/-- Offset of SVP_TX_FRAMES (R370). -/
def Reg.SVP_TX_FRAMES : Nat := 0x078
/-- Offset of SVP_RX_DROP (R370). -/
def Reg.SVP_RX_DROP : Nat := 0x080
/-- Offset of SVP_MACSEC_DROP (R370). -/
def Reg.SVP_MACSEC_DROP : Nat := 0x088
/-- Offset of SVP_ROCE_RETX (R370). -/
def Reg.SVP_ROCE_RETX : Nat := 0x090
/-- Offset of SVP_ZJP_REQ (R370). -/
def Reg.SVP_ZJP_REQ : Nat := 0x098
/-- Offset of SVP_ZJP_DUP (R370). -/
def Reg.SVP_ZJP_DUP : Nat := 0x09C
/-- Offset of SVP_AUTH_FAIL (R370). -/
def Reg.SVP_AUTH_FAIL : Nat := 0x0A0
/-- Offset of SVP_SERVE_PEND (R370). -/
def Reg.SVP_SERVE_PEND : Nat := 0x0A4
/-- Offset of MGP_CFG (R370). -/
def Reg.MGP_CFG : Nat := 0x040
/-- Offset of MGP_STATE (R370). -/
def Reg.MGP_STATE : Nat := 0x044
/-- Offset of MGP_MAC (R370). -/
def Reg.MGP_MAC : Nat := 0x048
/-- Offset of MGP_IPV4 (R370). -/
def Reg.MGP_IPV4 : Nat := 0x050
/-- Offset of MGP_IPV6 (R370). -/
def Reg.MGP_IPV6 : Nat := 0x054
/-- Offset of MGP_PARTNER (R370). -/
def Reg.MGP_PARTNER : Nat := 0x068
/-- Offset of MGP_RX_FRAMES (R370). -/
def Reg.MGP_RX_FRAMES : Nat := 0x070
/-- Offset of MGP_TX_FRAMES (R370). -/
def Reg.MGP_TX_FRAMES : Nat := 0x078
/-- Offset of MGP_ZJP_REQ (R370). -/
def Reg.MGP_ZJP_REQ : Nat := 0x080
/-- Offset of MGP_AUTH_FAIL (R370). -/
def Reg.MGP_AUTH_FAIL : Nat := 0x084
/-- Offset of CHK_BASE (R386). -/
def Reg.CHK_BASE : Nat := 0x040
/-- Offset of CHK_VERIFIED (R386). -/
def Reg.CHK_VERIFIED : Nat := 0x048
/-- Offset of CHK_PRODUCED (R386). -/
def Reg.CHK_PRODUCED : Nat := 0x050
/-- Offset of CHK_UPDATED (R386). -/
def Reg.CHK_UPDATED : Nat := 0x058
/-- Offset of CHK_FAILS (R386). -/
def Reg.CHK_FAILS : Nat := 0x060
/-- Offset of CHK_POISON_SKIP (R386). -/
def Reg.CHK_POISON_SKIP : Nat := 0x064
/-- Offset of CHK_LAST_FAIL (R386). -/
def Reg.CHK_LAST_FAIL : Nat := 0x068
/-- Offset of CHK_ANOM_WINDOW (R386). -/
def Reg.CHK_ANOM_WINDOW : Nat := 0x070
/-- Offset of CHK_NAN_LIMIT (R386). -/
def Reg.CHK_NAN_LIMIT : Nat := 0x074
/-- Offset of CHK_AMAX_CFG (R386). -/
def Reg.CHK_AMAX_CFG : Nat := 0x078
/-- Offset of CHK_JUMP_LIMIT (R386). -/
def Reg.CHK_JUMP_LIMIT : Nat := 0x07C
/-- Offset of CHK_FAIL_LIMIT (R386). -/
def Reg.CHK_FAIL_LIMIT : Nat := 0x080
/-- Offset of CHK_AMAX_JUMPS (R386). -/
def Reg.CHK_AMAX_JUMPS : Nat := 0x084
/-- Offset of CHK_FT_CFG (R386). -/
def Reg.CHK_FT_CFG : Nat := 0x088
/-- Offset of CHK_FT_STATE (R386). -/
def Reg.CHK_FT_STATE : Nat := 0x08C
/-- Offset of CHK_FT_ACTIVE (R386). -/
def Reg.CHK_FT_ACTIVE : Nat := 0x090
/-- Offset of CHK_FT_START (R386). -/
def Reg.CHK_FT_START : Nat := 0x094
/-- Offset of CHK_FT_RUNS (R386). -/
def Reg.CHK_FT_RUNS : Nat := 0x098
/-- Offset of CHK_FT_REPAIRED (R386). -/
def Reg.CHK_FT_REPAIRED : Nat := 0x09C
/-- Offset of CHK_FT_RETIRED (R386). -/
def Reg.CHK_FT_RETIRED : Nat := 0x0A0
/-- Offset of CHK_FT_LAST (R386). -/
def Reg.CHK_FT_LAST : Nat := 0x0A8
/-- Offset of CAD_T_MIN (R405). -/
def Reg.CAD_T_MIN : Nat := 0x040
/-- Offset of CAD_T_MAX (R405). -/
def Reg.CAD_T_MAX : Nat := 0x044
/-- Offset of CAD_C (R405). -/
def Reg.CAD_C : Nat := 0x048
/-- Offset of CAD_M (R405). -/
def Reg.CAD_M : Nat := 0x050
/-- Offset of CAD_T (R405). -/
def Reg.CAD_T : Nat := 0x058
/-- Offset of CAD_LAST_SEAL (R405). -/
def Reg.CAD_LAST_SEAL : Nat := 0x060
/-- Offset of CAD_STATUS (R405). -/
def Reg.CAD_STATUS : Nat := 0x068
/-- Offset of CAD_EVENT_IN (R405). -/
def Reg.CAD_EVENT_IN : Nat := 0x06C
/-- Offset of CAD_EVENTS (R405). -/
def Reg.CAD_EVENTS : Nat := 0x070
/-- Offset of CAD_SECURES (R405). -/
def Reg.CAD_SECURES : Nat := 0x074
/-- Offset of CAD_SECURE_FAIL (R405). -/
def Reg.CAD_SECURE_FAIL : Nat := 0x078
/-- Offset of CAD_CLAIM (R405). -/
def Reg.CAD_CLAIM : Nat := 0x07C
/-- Offset of CAD_TWIN_CFG (R406). -/
def Reg.CAD_TWIN_CFG : Nat := 0x040
/-- Offset of CAD_TWIN_STATE (R406). -/
def Reg.CAD_TWIN_STATE : Nat := 0x044
/-- Offset of CAD_TWIN_TAKEOVER (R406). -/
def Reg.CAD_TWIN_TAKEOVER : Nat := 0x048
/-- Offset of CAD_FILL_SEL (R406). -/
def Reg.CAD_FILL_SEL : Nat := 0x04C
/-- Offset of CAD_FILL_STATE (R406). -/
def Reg.CAD_FILL_STATE : Nat := 0x050
/-- Offset of CAD_FILL_SEG (R406). -/
def Reg.CAD_FILL_SEG : Nat := 0x054
/-- Offset of CAD_FILL_LAG (R406). -/
def Reg.CAD_FILL_LAG : Nat := 0x058
/-- Offset of CAD_FILL_SWITCHES (R406). -/
def Reg.CAD_FILL_SWITCHES : Nat := 0x060
/-- Offset of CAD_ROLLBACKS (R406). -/
def Reg.CAD_ROLLBACKS : Nat := 0x064
/-- Offset of RNG_SEL (R407). -/
def Reg.RNG_SEL : Nat := 0x040
/-- Offset of RNG_STEP (R407). -/
def Reg.RNG_STEP : Nat := 0x048
/-- Offset of RNG_DRAW_BASE (R407). -/
def Reg.RNG_DRAW_BASE : Nat := 0x050
/-- Offset of RNG_BIND (R407). -/
def Reg.RNG_BIND : Nat := 0x054
/-- Offset of RNG_SKEWS (R407). -/
def Reg.RNG_SKEWS : Nat := 0x058
/-- Offset of DRY_CTRL (R425). -/
def Reg.DRY_CTRL : Nat := 0x040
/-- Offset of DRY_STATUS (R425). -/
def Reg.DRY_STATUS : Nat := 0x044
/-- Offset of DRY_NEXT_SEQ (R425). -/
def Reg.DRY_NEXT_SEQ : Nat := 0x048
/-- Offset of DRY_COUNT (R425). -/
def Reg.DRY_COUNT : Nat := 0x04C
/-- Offset of DRY_RD_SEQ (R425). -/
def Reg.DRY_RD_SEQ : Nat := 0x050
/-- Offset of DRY_RD_STATUS (R425). -/
def Reg.DRY_RD_STATUS : Nat := 0x054
/-- Offset of DRY_RD_DATA (R425). -/
def Reg.DRY_RD_DATA : Nat := 0x060
/-- Offset of DRY_INCARNATION (R425). -/
def Reg.DRY_INCARNATION : Nat := 0x080
/-- Offset of DRY_RESET_MS (R425). -/
def Reg.DRY_RESET_MS : Nat := 0x084
/-- Offset of DRY_WD_LOOM (R425). -/
def Reg.DRY_WD_LOOM : Nat := 0x088
/-- Offset of DRY_WD_HB (R425). -/
def Reg.DRY_WD_HB : Nat := 0x08C
/-- Offset of DRY_WD_CORE (R425). -/
def Reg.DRY_WD_CORE : Nat := 0x090
/-- Offset of DRY_WD_EN (R425). -/
def Reg.DRY_WD_EN : Nat := 0x094
/-- Offset of DRY_CORE_KICK (R425). -/
def Reg.DRY_CORE_KICK : Nat := 0x098
/-- Offset of DRY_FLUSHES (R425). -/
def Reg.DRY_FLUSHES : Nat := 0x09C
/-- Offset of DRY_FLUSH_SLOT (R425). -/
def Reg.DRY_FLUSH_SLOT : Nat := 0x0A0
/-- Offset of DRY_DUMP_PAGES (R425). -/
def Reg.DRY_DUMP_PAGES : Nat := 0x0A4
/-- Offset of DRY_DUMP_NORESP (R425). -/
def Reg.DRY_DUMP_NORESP : Nat := 0x0A8
/-- Offset of DRY_STORM (R425). -/
def Reg.DRY_STORM : Nat := 0x0AC
/-- Offset of ORS_BOOT (R441). -/
def Reg.ORS_BOOT : Nat := 0x040
/-- Offset of ORS_SVN (R441). -/
def Reg.ORS_SVN : Nat := 0x044
/-- Offset of ORS_FLOORS (R441). -/
def Reg.ORS_FLOORS : Nat := 0x048
/-- Offset of ORS_REVOKED (R441). -/
def Reg.ORS_REVOKED : Nat := 0x050
/-- Offset of ORS_MEAS_SEL (R441). -/
def Reg.ORS_MEAS_SEL : Nat := 0x054
/-- Offset of ORS_MEAS_DATA (R441). -/
def Reg.ORS_MEAS_DATA : Nat := 0x060
/-- Offset of ORS_DBG_NONCE (R441). -/
def Reg.ORS_DBG_NONCE : Nat := 0x0A0
/-- Offset of ORS_DBG_STATE (R441). -/
def Reg.ORS_DBG_STATE : Nat := 0x0A8
/-- Offset of ORS_PULLS (R441). -/
def Reg.ORS_PULLS : Nat := 0x0AC
/-- Offset of ORS_LOCKSTEP (R441). -/
def Reg.ORS_LOCKSTEP : Nat := 0x0B0
/-- Offset of CLK_STATUS (R457). -/
def Reg.CLK_STATUS : Nat := 0x040
/-- Offset of CLK_REF_COUNT (R457). -/
def Reg.CLK_REF_COUNT : Nat := 0x048
/-- Offset of CLK_LOCK_LOSS (R457). -/
def Reg.CLK_LOCK_LOSS : Nat := 0x050
/-- Offset of BNT_TIME (R458). -/
def Reg.BNT_TIME : Nat := 0x040
/-- Offset of BNT_FRAC (R458). -/
def Reg.BNT_FRAC : Nat := 0x048
/-- Offset of BNT_DISC (R458). -/
def Reg.BNT_DISC : Nat := 0x04C
/-- Offset of BNT_RATE (R458). -/
def Reg.BNT_RATE : Nat := 0x050
/-- Offset of BNT_OFFSET (R458). -/
def Reg.BNT_OFFSET : Nat := 0x054
/-- Offset of BNT_STEP_MIN (R458). -/
def Reg.BNT_STEP_MIN : Nat := 0x058
/-- Offset of BNT_PPS (R458). -/
def Reg.BNT_PPS : Nat := 0x05C
/-- Offset of BNT_PPS_REJECT (R458). -/
def Reg.BNT_PPS_REJECT : Nat := 0x060
/-- Offset of BNT_STEPS (R458). -/
def Reg.BNT_STEPS : Nat := 0x064
/-- Offset of BNT_CMP_SEL (R458). -/
def Reg.BNT_CMP_SEL : Nat := 0x068
/-- Offset of BNT_CMP_CFG (R458). -/
def Reg.BNT_CMP_CFG : Nat := 0x06C
/-- Offset of BNT_CMP_VALUE (R458). -/
def Reg.BNT_CMP_VALUE : Nat := 0x070
/-- Offset of BNT_CMP_PERIOD (R458). -/
def Reg.BNT_CMP_PERIOD : Nat := 0x078
/-- Offset of PWR_STATE (R459). -/
def Reg.PWR_STATE : Nat := 0x040
/-- Offset of PWR_VIN (R459). -/
def Reg.PWR_VIN : Nat := 0x044
/-- Offset of PWR_IIN (R459). -/
def Reg.PWR_IIN : Nat := 0x048
/-- Offset of PWR_PIN (R459). -/
def Reg.PWR_PIN : Nat := 0x04C
/-- Offset of PWR_LIMIT (R459). -/
def Reg.PWR_LIMIT : Nat := 0x050
/-- Offset of PWR_THROT_TEMP (R459). -/
def Reg.PWR_THROT_TEMP : Nat := 0x054
/-- Offset of PWR_IDLE_DELAY (R459). -/
def Reg.PWR_IDLE_DELAY : Nat := 0x058
/-- Offset of PWR_GATE_SEL (R459). -/
def Reg.PWR_GATE_SEL : Nat := 0x05C
/-- Offset of PWR_GATE (R459). -/
def Reg.PWR_GATE : Nat := 0x060
/-- Offset of PWR_GATED (R459). -/
def Reg.PWR_GATED : Nat := 0x068
/-- Offset of PCD_GPIO (R466). -/
def Reg.PCD_GPIO : Nat := 0x044
/-- Offset of PCD_LANDS (R466). -/
def Reg.PCD_LANDS : Nat := 0x048
/-- Offset of DMA_CHAN (R491). -/
def Reg.DMA_CHAN : Nat := 0x040
/-- Offset of DMA_ENTRIES (R491). -/
def Reg.DMA_ENTRIES : Nat := 0x048
/-- Offset of DMA_BYTES (R491). -/
def Reg.DMA_BYTES : Nat := 0x050
/-- Offset of DMA_CHK_FAIL (R491). -/
def Reg.DMA_CHK_FAIL : Nat := 0x058

/-- Registers of page 0 of block pcd. -/
def regRowsPcd0 : List RegRow := [
  ⟨"PCD_DIE_MAP", 0x040, false, 0xF00000, 0, 0, 0, 0, 0⟩,
  ⟨"PCD_GPIO", 0x044, false, 0xFF, 0xFFFF00, 0, 0, 0, 0⟩,
  ⟨"PCD_LANDS", 0x048, false, 0x3, 0, 0, 0, 0, 0⟩]

/-- Registers of page 0 of block loom. -/
def regRowsLoom0 : List RegRow := [
  ⟨"LOOM_CFG", 0x040, false, 0, 0, 0, 0, 0, 0x1⟩,
  ⟨"LOOM_OCC", 0x044, false, 0, 0, 0, 0, 0, 0⟩,
  ⟨"LOOM_ISSUE_CNT", 0x048, true, 0, 0, 0, 0, 0, 0⟩,
  ⟨"LOOM_PAIR_CNT", 0x050, true, 0, 0, 0, 0, 0, 0⟩,
  ⟨"LOOM_REUSE_HIT", 0x058, true, 0, 0, 0, 0, 0, 0⟩,
  ⟨"LOOM_BANK_STALL", 0x060, true, 0, 0, 0, 0, 0, 0⟩,
  ⟨"LOOM_JOIN_RELEASE", 0x068, false, 0, 0, 0, 0, 0, 0⟩,
  ⟨"LOOM_BAR_FAULT", 0x06C, false, 0, 0, 0, 0, 0, 0⟩,
  ⟨"LOOM_PREEMPT", 0x070, false, 0, 0, 0, 0x3, 0, 0⟩]

/-- Registers of page 0 of block cnv, part 0. -/
def regRowsCnv0_0 : List RegRow := [
  ⟨"CNV_OPS", 0x040, true, 0, 0, 0, 0, 0, 0⟩,
  ⟨"CNV_NONFIN_BLK", 0x048, true, 0, 0, 0, 0, 0, 0⟩,
  ⟨"CNV_SAT", 0x050, true, 0, 0, 0, 0, 0, 0⟩,
  ⟨"CNV_ESC", 0x058, true, 0, 0, 0, 0, 0, 0⟩,
  ⟨"CNV_CH_SEL", 0x060, false, 0, 0xFF, 0, 0, 0, 0⟩,
  ⟨"CNV_CH_ATTR", 0x064, false, 0, 0, 0, 0, 0, 0⟩,
  ⟨"CNV_CH_STATE", 0x068, false, 0, 0, 0, 0, 0, 0⟩,
  ⟨"CNV_CH_SCALE", 0x06C, false, 0, 0, 0, 0, 0, 0⟩,
  ⟨"CNV_CH_NONFIN", 0x070, false, 0, 0, 0, 0, 0, 0⟩,
  ⟨"CNV_CH_HIST0", 0x080, false, 0, 0, 0, 0, 0, 0⟩,
  ⟨"CNV_CH_HIST1", 0x084, false, 0, 0, 0, 0, 0, 0⟩,
  ⟨"CNV_CH_HIST2", 0x088, false, 0, 0, 0, 0, 0, 0⟩]

/-- Registers of page 0 of block cnv, part 1. -/
def regRowsCnv0_1 : List RegRow := [
  ⟨"CNV_CH_HIST3", 0x08C, false, 0, 0, 0, 0, 0, 0⟩,
  ⟨"CNV_CH_HIST4", 0x090, false, 0, 0, 0, 0, 0, 0⟩,
  ⟨"CNV_CH_HIST5", 0x094, false, 0, 0, 0, 0, 0, 0⟩,
  ⟨"CNV_CH_HIST6", 0x098, false, 0, 0, 0, 0, 0, 0⟩,
  ⟨"CNV_CH_HIST7", 0x09C, false, 0, 0, 0, 0, 0, 0⟩,
  ⟨"CNV_CH_HIST8", 0x0A0, false, 0, 0, 0, 0, 0, 0⟩,
  ⟨"CNV_CH_HIST9", 0x0A4, false, 0, 0, 0, 0, 0, 0⟩,
  ⟨"CNV_CH_HIST10", 0x0A8, false, 0, 0, 0, 0, 0, 0⟩,
  ⟨"CNV_CH_HIST11", 0x0AC, false, 0, 0, 0, 0, 0, 0⟩,
  ⟨"CNV_CH_HIST12", 0x0B0, false, 0, 0, 0, 0, 0, 0⟩,
  ⟨"CNV_CH_HIST13", 0x0B4, false, 0, 0, 0, 0, 0, 0⟩,
  ⟨"CNV_CH_HIST14", 0x0B8, false, 0, 0, 0, 0, 0, 0⟩]

/-- Registers of page 0 of block cnv, part 2. -/
def regRowsCnv0_2 : List RegRow := [
  ⟨"CNV_CH_HIST15", 0x0BC, false, 0, 0, 0, 0, 0, 0⟩]

/-- Registers of page 0 of block cnv. -/
def regRowsCnv0 : List RegRow := regRowsCnv0_0 ++ regRowsCnv0_1 ++ regRowsCnv0_2

/-- Registers of page 0 of block twl. -/
def regRowsTwl0 : List RegRow := [
  ⟨"TWL_CFG", 0x040, false, 0x10080, 0x10FFF, 0, 0, 0, 0⟩,
  ⟨"TWL_QSTAT", 0x044, false, 0, 0, 0, 0, 0, 0⟩,
  ⟨"TWL_PASSES", 0x048, true, 0, 0, 0, 0, 0, 0⟩,
  ⟨"TWL_STREAM_CYC", 0x050, true, 0, 0, 0, 0, 0, 0⟩,
  ⟨"TWL_FREEZE_A", 0x058, true, 0, 0, 0, 0, 0, 0⟩,
  ⟨"TWL_FREEZE_DRAIN", 0x060, true, 0, 0, 0, 0, 0, 0⟩,
  ⟨"TWL_PRELOAD_WAIT", 0x068, true, 0, 0, 0, 0, 0, 0⟩,
  ⟨"TWL_TB_BATCHES", 0x070, true, 0, 0, 0, 0, 0, 0⟩,
  ⟨"TWL_TB_ROWS", 0x078, true, 0, 0, 0, 0, 0, 0⟩,
  ⟨"TWL_TB_TIMEOUTS", 0x080, false, 0, 0, 0, 0, 0, 0⟩,
  ⟨"TWL_B_KEPT", 0x084, false, 0, 0, 0, 0, 0, 0⟩,
  ⟨"TWL_FAULT_TICKET", 0x088, true, 0, 0, 0, 0, 0, 0⟩]

/-- Registers of page 0 of block acs. -/
def regRowsAcs0 : List RegRow := [
  ⟨"ACS_HELD", 0x040, false, 0, 0, 0, 0, 0, 0⟩,
  ⟨"ACS_TOPK", 0x044, false, 0, 0, 0, 0, 0, 0⟩,
  ⟨"ACS_OWNER", 0x048, false, 0xFFF0FFF, 0, 0, 0, 0, 0⟩,
  ⟨"ACS_ADD_ROWS", 0x050, true, 0, 0, 0, 0, 0, 0⟩,
  ⟨"ACS_SR_ROWS", 0x058, true, 0, 0, 0, 0, 0, 0⟩,
  ⟨"ACS_OVF", 0x060, true, 0, 0, 0, 0, 0, 0⟩,
  ⟨"ACS_NAN", 0x068, true, 0, 0, 0, 0, 0, 0⟩,
  ⟨"ACS_STORE_BYTES", 0x070, true, 0, 0, 0, 0, 0, 0⟩,
  ⟨"ACS_SIL_WAIT", 0x078, true, 0, 0, 0, 0, 0, 0⟩,
  ⟨"ACS_TOPK_ROWS", 0x080, true, 0, 0, 0, 0, 0, 0⟩]

/-- Registers of page 1 of block twl. -/
def regRowsTwl1 : List RegRow := [
  ⟨"TWL_REPAIR", 0x040, false, 0x7F7FFFFF, 0x7F7FFFFF, 0, 0, 0, 0⟩,
  ⟨"TWL_REPAIR_STAT", 0x044, false, 0, 0x100, 0, 0x200, 0, 0⟩,
  ⟨"TWL_CMP_DESC", 0x048, true, 0, 0xFFFFFFFFFFFFFFFF, 0, 0, 0, 0⟩,
  ⟨"TWL_CMP_CTRL", 0x050, false, 0, 0, 0, 0x1, 0, 0⟩,
  ⟨"TWL_CMP_RESULT", 0x054, false, 0, 0, 0, 0, 0, 0⟩,
  ⟨"TWL_FREEZE_WEST", 0x058, true, 0, 0, 0, 0, 0, 0⟩,
  ⟨"TWL_FREEZE_EAST", 0x060, true, 0, 0, 0, 0, 0, 0⟩,
  ⟨"TWL_FREEZE_LIMIT", 0x068, false, 0x100000, 0xFFFFFFFF, 0, 0, 0, 0⟩,
  ⟨"TWL_FREEZE_ABANDON", 0x06C, false, 0, 0, 0, 0, 0, 0⟩,
  ⟨"TWL_REPAIRS", 0x070, false, 0, 0, 0, 0, 0, 0⟩]

/-- Registers of page 0 of block wvc, part 0. -/
def regRowsWvc0_0 : List RegRow := [
  ⟨"WVC_HITS", 0x040, true, 0, 0, 0, 0, 0, 0⟩,
  ⟨"WVC_MISSES", 0x048, true, 0, 0, 0, 0, 0, 0⟩,
  ⟨"WVC_MCAST", 0x050, true, 0, 0, 0, 0, 0, 0⟩,
  ⟨"WVC_STREAM_ALLOC", 0x058, true, 0, 0, 0, 0, 0, 0⟩,
  ⟨"WVC_MERGES", 0x060, true, 0, 0, 0, 0, 0, 0⟩,
  ⟨"WVC_RECALLS", 0x068, true, 0, 0, 0, 0, 0, 0⟩,
  ⟨"WVC_PIN_DENIED", 0x070, true, 0, 0, 0, 0, 0, 0⟩,
  ⟨"WVC_MISS_FULL", 0x078, true, 0, 0, 0, 0, 0, 0⟩,
  ⟨"WVC_WAITER_FULL", 0x080, false, 0, 0, 0, 0, 0, 0⟩,
  ⟨"WVC_NO_VICTIM", 0x084, false, 0, 0, 0, 0, 0, 0⟩,
  ⟨"WVC_STREAM_ENTER", 0x088, false, 0, 0, 0, 0, 0, 0⟩,
  ⟨"WVC_OCC", 0x08C, false, 0, 0, 0, 0, 0, 0⟩]

/-- Registers of page 0 of block wvc, part 1. -/
def regRowsWvc0_1 : List RegRow := [
  ⟨"WVC_MISS_OPEN", 0x090, false, 0, 0, 0, 0, 0, 0⟩]

/-- Registers of page 0 of block wvc. -/
def regRowsWvc0 : List RegRow := regRowsWvc0_0 ++ regRowsWvc0_1

/-- Registers of page 1 of block wvc. -/
def regRowsWvc1 : List RegRow := [
  ⟨"WVC_DIE_CFG", 0x040, false, 0x8, 0xF, 0, 0, 0, 0⟩,
  ⟨"WVC_PART_SEL", 0x044, false, 0, 0x3F, 0, 0, 0, 0⟩,
  ⟨"WVC_PART_CFG", 0x048, false, 0, 0x1F, 0, 0, 0, 0⟩,
  ⟨"WVC_PART_LINES", 0x04C, false, 0, 0, 0, 0, 0, 0⟩,
  ⟨"WVC_PART_PINNED", 0x050, false, 0, 0, 0, 0, 0, 0⟩,
  ⟨"WVC_PART_THRASH", 0x058, true, 0, 0, 0, 0, 0, 0⟩,
  ⟨"WVC_THRASH_FLAG", 0x060, true, 0, 0, 0xFFFFFFFFFFFFFFFF, 0, 0, 0⟩,
  ⟨"WVC_THRASH_WINDOW", 0x068, false, 0x186A0, 0xFFFFFFFF, 0, 0, 0, 0⟩,
  ⟨"WVC_THRASH_LIMIT", 0x06C, false, 0x10000, 0xFFFFFFFF, 0, 0, 0, 0⟩,
  ⟨"WVC_CTX_SEL", 0x070, false, 0, 0xFFF, 0, 0, 0, 0⟩,
  ⟨"WVC_CTX_PINNED", 0x074, false, 0, 0, 0, 0, 0, 0⟩,
  ⟨"WVC_DIR_EVICT", 0x078, true, 0, 0, 0, 0, 0, 0⟩]

/-- Registers of page 0 of block memc, part 0. -/
def regRowsMemc0_0 : List RegRow := [
  ⟨"MEMC_TEMP", 0x040, false, 0, 0, 0, 0, 0, 0⟩,
  ⟨"MEMC_CE_INNER", 0x048, true, 0, 0, 0, 0, 0, 0⟩,
  ⟨"MEMC_CE_OUTER", 0x050, true, 0, 0, 0, 0, 0, 0⟩,
  ⟨"MEMC_ERASURE", 0x058, true, 0, 0, 0, 0, 0, 0⟩,
  ⟨"MEMC_UE", 0x060, false, 0, 0, 0, 0, 0, 0⟩,
  ⟨"MEMC_POISON_RD", 0x064, false, 0, 0, 0, 0, 0, 0⟩,
  ⟨"MEMC_PC_FAILED", 0x068, true, 0, 0, 0, 0xFFFFFFFFFFFFFFFF, 0, 0⟩,
  ⟨"MEMC_SPARE_MAP", 0x070, false, 0xFFFFFFFF, 0, 0, 0, 0, 0⟩,
  ⟨"MEMC_REBUILD", 0x074, false, 0, 0, 0, 0, 0, 0⟩,
  ⟨"MEMC_REBUILD_PTR", 0x078, false, 0, 0, 0, 0, 0, 0⟩,
  ⟨"MEMC_LAST_UE", 0x080, true, 0, 0, 0, 0, 0, 0⟩,
  ⟨"MEMC_PC_SEL", 0x088, false, 0, 0x3F, 0, 0, 0, 0⟩]

/-- Registers of page 0 of block memc, part 1. -/
def regRowsMemc0_1 : List RegRow := [
  ⟨"MEMC_PC_SYM", 0x08C, false, 0, 0, 0, 0, 0, 0⟩]

/-- Registers of page 0 of block memc. -/
def regRowsMemc0 : List RegRow := regRowsMemc0_0 ++ regRowsMemc0_1

/-- Registers of page 1 of block memc. -/
def regRowsMemc1 : List RegRow := [
  ⟨"MEMC_PATROL", 0x040, false, 0x80000018, 0x8000001F, 0, 0, 0, 0⟩,
  ⟨"MEMC_PATROL_POS", 0x048, true, 0, 0, 0, 0, 0, 0⟩,
  ⟨"MEMC_PATROL_PASSES", 0x050, false, 0, 0, 0, 0, 0, 0⟩,
  ⟨"MEMC_SPARE_THRESH", 0x054, false, 0x1000, 0xFFFFFFFF, 0, 0, 0, 0⟩,
  ⟨"MEMC_SURV_SEL", 0x058, false, 0, 0xF, 0, 0, 0, 0⟩,
  ⟨"MEMC_SURV_BASE", 0x060, true, 0, 0xFFFFFFFFFFFFFFFF, 0, 0, 0, 0⟩,
  ⟨"MEMC_SURV_SIZE", 0x068, false, 0, 0x8000FFFF, 0, 0, 0, 0⟩,
  ⟨"MEMC_CLEAR_BYTES", 0x070, true, 0, 0, 0, 0, 0, 0⟩]

/-- Registers of page 0 of block ctx. -/
def regRowsCtx0 : List RegRow := [
  ⟨"CTX_SEL", 0x040, false, 0, 0xFFF, 0, 0, 0, 0⟩,
  ⟨"CTX_STATE", 0x044, false, 0, 0, 0, 0, 0, 0⟩,
  ⟨"CTX_INFLIGHT", 0x048, false, 0, 0, 0, 0, 0, 0⟩,
  ⟨"CTX_TOPS", 0x04C, false, 0, 0, 0, 0, 0, 0⟩,
  ⟨"CTX_MEMTX", 0x050, false, 0, 0, 0, 0, 0, 0⟩,
  ⟨"CTX_STRAY", 0x058, true, 0, 0, 0, 0, 0, 0⟩,
  ⟨"CTX_STRAY_DROP", 0x060, false, 0, 0, 0, 0, 0, 0⟩,
  ⟨"CTX_DB_DROP", 0x064, false, 0, 0, 0, 0, 0, 0⟩,
  ⟨"CTX_FAULT_LOST", 0x068, false, 0, 0, 0, 0, 0, 0⟩,
  ⟨"CTX_STALE_RX", 0x070, true, 0, 0, 0, 0, 0, 0⟩,
  ⟨"CTX_TEARDOWN", 0x078, true, 0, 0, 0, 0, 0, 0⟩,
  ⟨"CTX_SCRUB_LEFT", 0x080, true, 0, 0, 0, 0, 0, 0⟩]

/-- Registers of page 0 of block sch. -/
def regRowsSch0 : List RegRow := [
  ⟨"SCH_CFG", 0x040, false, 0xC8, 0xFFFF, 0, 0, 0, 0⟩,
  ⟨"SCH_HEARTBEAT", 0x048, true, 0, 0, 0, 0, 0, 0⟩,
  ⟨"SCH_DISPATCHED", 0x050, true, 0, 0, 0, 0, 0, 0⟩,
  ⟨"SCH_PREEMPTS", 0x058, true, 0, 0, 0, 0, 0, 0⟩,
  ⟨"SCH_TOPS", 0x060, false, 0, 0, 0, 0, 0, 0⟩,
  ⟨"SCH_MEMTX", 0x064, false, 0, 0, 0, 0, 0, 0⟩,
  ⟨"SCH_HOLDS", 0x068, false, 0, 0, 0, 0, 0, 0⟩,
  ⟨"SCH_SEL", 0x070, false, 0, 0xFFF, 0, 0, 0, 0⟩,
  ⟨"SCH_VTIME", 0x078, true, 0, 0, 0, 0, 0, 0⟩,
  ⟨"SCH_HALVES", 0x080, false, 0, 0, 0, 0, 0, 0⟩]

/-- Registers of page 0 of block que. -/
def regRowsQue0 : List RegRow := [
  ⟨"QUE_SEL", 0x040, false, 0, 0x3FFF, 0, 0, 0, 0⟩,
  ⟨"QUE_INFO", 0x044, false, 0, 0, 0, 0, 0, 0⟩,
  ⟨"QUE_PROD", 0x048, false, 0, 0, 0, 0, 0, 0⟩,
  ⟨"QUE_CONS", 0x04C, false, 0, 0, 0, 0, 0, 0⟩,
  ⟨"QUE_ENTRIES", 0x050, true, 0, 0, 0, 0, 0, 0⟩,
  ⟨"QUE_DB_REJECT", 0x058, false, 0, 0, 0, 0, 0, 0⟩,
  ⟨"QUE_CPL_DROP", 0x05C, false, 0, 0, 0, 0, 0, 0⟩]

/-- Registers of page 0 of block sil, part 0. -/
def regRowsSil0_0 : List RegRow := [
  ⟨"SIL_SEG_TX", 0x040, true, 0, 0, 0, 0, 0, 0⟩,
  ⟨"SIL_SEG_RX", 0x048, true, 0, 0, 0, 0, 0, 0⟩,
  ⟨"SIL_ADDENDS", 0x050, true, 0, 0, 0, 0, 0, 0⟩,
  ⟨"SIL_COMMITS", 0x058, true, 0, 0, 0, 0, 0, 0⟩,
  ⟨"SIL_LATE", 0x060, false, 0, 0, 0, 0, 0, 0⟩,
  ⟨"SIL_STALE_ROLE", 0x064, false, 0, 0, 0, 0, 0, 0⟩,
  ⟨"SIL_CHECK_FAIL", 0x068, false, 0, 0, 0, 0, 0, 0⟩,
  ⟨"SIL_RETRACT_TX", 0x06C, false, 0, 0, 0, 0, 0, 0⟩,
  ⟨"SIL_RETRACT_RX", 0x070, false, 0, 0, 0, 0, 0, 0⟩,
  ⟨"SIL_LATE_RETRACT", 0x074, false, 0, 0, 0, 0, 0, 0⟩,
  ⟨"SIL_OVF", 0x078, false, 0, 0, 0, 0, 0, 0⟩,
  ⟨"SIL_STEP_SKEW", 0x07C, false, 0, 0, 0, 0, 0, 0⟩]

/-- Registers of page 0 of block sil, part 1. -/
def regRowsSil0_1 : List RegRow := [
  ⟨"SIL_GRP_SEL", 0x080, false, 0, 0x3FF, 0, 0, 0, 0⟩,
  ⟨"SIL_GRP_STATE", 0x084, false, 0, 0, 0, 0, 0, 0⟩,
  ⟨"SIL_GRP_STEP", 0x088, true, 0, 0, 0, 0, 0, 0⟩,
  ⟨"SIL_DIG_SEL", 0x090, false, 0, 0x3F, 0, 0, 0, 0⟩,
  ⟨"SIL_DIG_STEP", 0x098, true, 0, 0, 0, 0, 0, 0⟩,
  ⟨"SIL_DIG_SENT_LO", 0x0A0, true, 0, 0, 0, 0, 0, 0⟩,
  ⟨"SIL_DIG_SENT_HI", 0x0A8, true, 0, 0, 0, 0, 0, 0⟩,
  ⟨"SIL_DIG_RECV_LO", 0x0B0, true, 0, 0, 0, 0, 0, 0⟩,
  ⟨"SIL_DIG_RECV_HI", 0x0B8, true, 0, 0, 0, 0, 0, 0⟩,
  ⟨"SIL_DIG_ATTEMPT", 0x0C0, false, 0, 0, 0, 0, 0, 0⟩]

/-- Registers of page 0 of block sil. -/
def regRowsSil0 : List RegRow := regRowsSil0_0 ++ regRowsSil0_1

/-- Registers of page 0 of block rvl, part 0. -/
def regRowsRvl0_0 : List RegRow := [
  ⟨"RVL_PORT_CFG", 0x040, false, 0, 0x1, 0, 0x2, 0, 0⟩,
  ⟨"RVL_PORT_STATE", 0x044, false, 0x1, 0, 0, 0, 0, 0⟩,
  ⟨"RVL_PEER", 0x048, false, 0, 0, 0, 0, 0, 0⟩,
  ⟨"RVL_FLIGHT", 0x04C, false, 0, 0, 0, 0, 0, 0⟩,
  ⟨"RVL_BYPASS", 0x050, false, 0x4, 0x3, 0, 0, 0, 0⟩,
  ⟨"RVL_TRAIN_LIMIT", 0x054, false, 0x186A0, 0xFFFFFFFF, 0, 0, 0, 0⟩,
  ⟨"RVL_FEC_CORR", 0x058, true, 0, 0, 0, 0, 0, 0⟩,
  ⟨"RVL_FEC_UNCORR", 0x060, true, 0, 0, 0, 0, 0, 0⟩,
  ⟨"RVL_RETX", 0x068, true, 0, 0, 0, 0, 0, 0⟩,
  ⟨"RVL_TX_FLITS", 0x070, true, 0, 0, 0, 0, 0, 0⟩,
  ⟨"RVL_RX_FLITS", 0x078, true, 0, 0, 0, 0, 0, 0⟩,
  ⟨"RVL_AUTH_FAIL", 0x080, false, 0, 0, 0, 0, 0, 0⟩]

/-- Registers of page 0 of block rvl, part 1. -/
def regRowsRvl0_1 : List RegRow := [
  ⟨"RVL_EPOCH_DROP", 0x084, false, 0, 0, 0, 0, 0, 0⟩,
  ⟨"RVL_RETRAINS", 0x088, false, 0, 0, 0, 0, 0, 0⟩,
  ⟨"RVL_REPLAY_LOST", 0x08C, false, 0, 0, 0, 0, 0, 0⟩]

/-- Registers of page 0 of block rvl. -/
def regRowsRvl0 : List RegRow := regRowsRvl0_0 ++ regRowsRvl0_1

/-- Registers of page 0 of block rvlDie. -/
def regRowsRvlDie0 : List RegRow := [
  ⟨"RVL_POSITION", 0x040, false, 0x200000, 0xFFFFFF, 0, 0, 0, 0⟩,
  ⟨"RVL_ROUTE_SEL", 0x044, false, 0, 0xFFFF, 0, 0, 0, 0⟩,
  ⟨"RVL_ROUTE_DATA", 0x048, true, 0, 0xFFFFFFFFFFFFFFFF, 0, 0, 0, 0⟩,
  ⟨"RVL_WIN_SEL", 0x050, false, 0, 0xFFF, 0, 0, 0, 0⟩,
  ⟨"RVL_WIN_ERR", 0x054, false, 0, 0, 0, 0, 0, 0⟩,
  ⟨"RVL_CHECK_FAIL", 0x058, false, 0, 0, 0, 0, 0, 0⟩,
  ⟨"RVL_UNREACH", 0x05C, false, 0, 0, 0, 0, 0, 0⟩,
  ⟨"RVL_TIME", 0x060, false, 0x3FF, 0, 0, 0, 0, 0⟩,
  ⟨"RVL_FWD", 0x068, true, 0, 0, 0, 0, 0, 0⟩]

/-- Registers of page 0 of block svp, part 0. -/
def regRowsSvp0_0 : List RegRow := [
  ⟨"SVP_CFG", 0x040, false, 0x3E80000, 0xFFFF3FFF, 0, 0, 0, 0⟩,
  ⟨"SVP_STATE", 0x044, false, 0, 0, 0, 0, 0, 0⟩,
  ⟨"SVP_MAC", 0x048, true, 0, 0xFFFFFFFFFFFFFFFF, 0, 0, 0, 0⟩,
  ⟨"SVP_IPV4", 0x050, false, 0, 0xFFFFFFFF, 0, 0, 0, 0⟩,
  ⟨"SVP_IPV60", 0x054, false, 0, 0xFFFFFFFF, 0, 0, 0, 0⟩,
  ⟨"SVP_IPV61", 0x058, false, 0, 0xFFFFFFFF, 0, 0, 0, 0⟩,
  ⟨"SVP_IPV62", 0x05C, false, 0, 0xFFFFFFFF, 0, 0, 0, 0⟩,
  ⟨"SVP_IPV63", 0x060, false, 0, 0xFFFFFFFF, 0, 0, 0, 0⟩,
  ⟨"SVP_PARTNER", 0x068, true, 0, 0, 0, 0, 0, 0⟩,
  ⟨"SVP_RX_FRAMES", 0x070, true, 0, 0, 0, 0, 0, 0⟩,
  ⟨"SVP_TX_FRAMES", 0x078, true, 0, 0, 0, 0, 0, 0⟩,
  ⟨"SVP_RX_DROP", 0x080, true, 0, 0, 0, 0, 0, 0⟩]

/-- Registers of page 0 of block svp, part 1. -/
def regRowsSvp0_1 : List RegRow := [
  ⟨"SVP_MACSEC_DROP", 0x088, true, 0, 0, 0, 0, 0, 0⟩,
  ⟨"SVP_ROCE_RETX", 0x090, true, 0, 0, 0, 0, 0, 0⟩,
  ⟨"SVP_ZJP_REQ", 0x098, false, 0, 0, 0, 0, 0, 0⟩,
  ⟨"SVP_ZJP_DUP", 0x09C, false, 0, 0, 0, 0, 0, 0⟩,
  ⟨"SVP_AUTH_FAIL", 0x0A0, false, 0, 0, 0, 0, 0, 0⟩,
  ⟨"SVP_SERVE_PEND", 0x0A4, false, 0, 0, 0, 0, 0, 0⟩]

/-- Registers of page 0 of block svp. -/
def regRowsSvp0 : List RegRow := regRowsSvp0_0 ++ regRowsSvp0_1

/-- Registers of page 0 of block mgp, part 0. -/
def regRowsMgp0_0 : List RegRow := [
  ⟨"MGP_CFG", 0x040, false, 0x3E80002, 0xFFFF0003, 0, 0, 0, 0⟩,
  ⟨"MGP_STATE", 0x044, false, 0, 0, 0, 0, 0, 0⟩,
  ⟨"MGP_MAC", 0x048, true, 0, 0xFFFFFFFFFFFFFFFF, 0, 0, 0, 0⟩,
  ⟨"MGP_IPV4", 0x050, false, 0, 0xFFFFFFFF, 0, 0, 0, 0⟩,
  ⟨"MGP_IPV60", 0x054, false, 0, 0xFFFFFFFF, 0, 0, 0, 0⟩,
  ⟨"MGP_IPV61", 0x058, false, 0, 0xFFFFFFFF, 0, 0, 0, 0⟩,
  ⟨"MGP_IPV62", 0x05C, false, 0, 0xFFFFFFFF, 0, 0, 0, 0⟩,
  ⟨"MGP_IPV63", 0x060, false, 0, 0xFFFFFFFF, 0, 0, 0, 0⟩,
  ⟨"MGP_PARTNER", 0x068, true, 0, 0, 0, 0, 0, 0⟩,
  ⟨"MGP_RX_FRAMES", 0x070, true, 0, 0, 0, 0, 0, 0⟩,
  ⟨"MGP_TX_FRAMES", 0x078, true, 0, 0, 0, 0, 0, 0⟩,
  ⟨"MGP_ZJP_REQ", 0x080, false, 0, 0, 0, 0, 0, 0⟩]

/-- Registers of page 0 of block mgp, part 1. -/
def regRowsMgp0_1 : List RegRow := [
  ⟨"MGP_AUTH_FAIL", 0x084, false, 0, 0, 0, 0, 0, 0⟩]

/-- Registers of page 0 of block mgp. -/
def regRowsMgp0 : List RegRow := regRowsMgp0_0 ++ regRowsMgp0_1

/-- Registers of page 0 of block chk, part 0. -/
def regRowsChk0_0 : List RegRow := [
  ⟨"CHK_BASE", 0x040, true, 0, 0, 0, 0, 0, 0xFFFFFFFFFFFFFFFF⟩,
  ⟨"CHK_VERIFIED", 0x048, true, 0, 0, 0, 0, 0, 0⟩,
  ⟨"CHK_PRODUCED", 0x050, true, 0, 0, 0, 0, 0, 0⟩,
  ⟨"CHK_UPDATED", 0x058, true, 0, 0, 0, 0, 0, 0⟩,
  ⟨"CHK_FAILS", 0x060, false, 0, 0, 0, 0, 0, 0⟩,
  ⟨"CHK_POISON_SKIP", 0x064, false, 0, 0, 0, 0, 0, 0⟩,
  ⟨"CHK_LAST_FAIL", 0x068, true, 0, 0, 0, 0, 0, 0⟩,
  ⟨"CHK_ANOM_WINDOW", 0x070, false, 0x5F5E100, 0xFFFFFFFF, 0, 0, 0, 0⟩,
  ⟨"CHK_NAN_LIMIT", 0x074, false, 0x100000, 0xFFFFFFFF, 0, 0, 0, 0⟩,
  ⟨"CHK_AMAX_CFG", 0x078, false, 0x406, 0x1F0F, 0, 0, 0, 0⟩,
  ⟨"CHK_JUMP_LIMIT", 0x07C, false, 0x2, 0xFFFFFFFF, 0, 0, 0, 0⟩,
  ⟨"CHK_FAIL_LIMIT", 0x080, false, 0x4, 0xFFFFFFFF, 0, 0, 0, 0⟩]

/-- Registers of page 0 of block chk, part 1. -/
def regRowsChk0_1 : List RegRow := [
  ⟨"CHK_AMAX_JUMPS", 0x084, false, 0, 0, 0, 0, 0, 0⟩,
  ⟨"CHK_FT_CFG", 0x088, false, 0x640014, 0xFFFF001F, 0, 0, 0, 0⟩,
  ⟨"CHK_FT_STATE", 0x08C, false, 0, 0, 0, 0, 0, 0⟩,
  ⟨"CHK_FT_ACTIVE", 0x090, false, 0, 0, 0, 0, 0, 0⟩,
  ⟨"CHK_FT_START", 0x094, false, 0, 0, 0, 0xFFFFFFFF, 0, 0⟩,
  ⟨"CHK_FT_RUNS", 0x098, false, 0, 0, 0, 0, 0, 0⟩,
  ⟨"CHK_FT_REPAIRED", 0x09C, false, 0, 0, 0, 0, 0, 0⟩,
  ⟨"CHK_FT_RETIRED", 0x0A0, false, 0, 0, 0, 0, 0, 0⟩,
  ⟨"CHK_FT_LAST", 0x0A8, true, 0, 0, 0, 0, 0, 0⟩]

/-- Registers of page 0 of block chk. -/
def regRowsChk0 : List RegRow := regRowsChk0_0 ++ regRowsChk0_1

/-- Registers of page 0 of block cad. -/
def regRowsCad0 : List RegRow := [
  ⟨"CAD_T_MIN", 0x040, false, 0x3E8, 0xFFFFFFFF, 0, 0, 0, 0⟩,
  ⟨"CAD_T_MAX", 0x044, false, 0x36EE80, 0xFFFFFFFF, 0, 0, 0, 0⟩,
  ⟨"CAD_C", 0x048, true, 0, 0, 0, 0, 0, 0⟩,
  ⟨"CAD_M", 0x050, true, 0x53D1AC1000, 0xFFFFFFFFFFFFFFFF, 0, 0, 0, 0⟩,
  ⟨"CAD_T", 0x058, true, 0, 0, 0, 0, 0, 0⟩,
  ⟨"CAD_LAST_SEAL", 0x060, true, 0, 0, 0, 0, 0, 0⟩,
  ⟨"CAD_STATUS", 0x068, false, 0, 0, 0, 0, 0, 0⟩,
  ⟨"CAD_EVENT_IN", 0x06C, false, 0, 0, 0, 0x1, 0, 0⟩,
  ⟨"CAD_EVENTS", 0x070, false, 0, 0, 0, 0, 0, 0⟩,
  ⟨"CAD_SECURES", 0x074, false, 0, 0, 0, 0, 0, 0⟩,
  ⟨"CAD_SECURE_FAIL", 0x078, false, 0, 0, 0, 0, 0, 0⟩,
  ⟨"CAD_CLAIM", 0x07C, false, 0x258, 0xFFFFFFFF, 0, 0, 0, 0⟩]

/-- Registers of page 1 of block cad. -/
def regRowsCad1 : List RegRow := [
  ⟨"CAD_TWIN_CFG", 0x040, false, 0, 0, 0, 0, 0, 0xFFFF0003⟩,
  ⟨"CAD_TWIN_STATE", 0x044, false, 0, 0, 0, 0, 0, 0⟩,
  ⟨"CAD_TWIN_TAKEOVER", 0x048, false, 0, 0, 0, 0x1, 0, 0⟩,
  ⟨"CAD_FILL_SEL", 0x04C, false, 0, 0x3FF, 0, 0, 0, 0⟩,
  ⟨"CAD_FILL_STATE", 0x050, false, 0xFF00, 0, 0, 0, 0, 0⟩,
  ⟨"CAD_FILL_SEG", 0x054, false, 0, 0, 0, 0, 0, 0⟩,
  ⟨"CAD_FILL_LAG", 0x058, true, 0, 0, 0, 0, 0, 0⟩,
  ⟨"CAD_FILL_SWITCHES", 0x060, false, 0, 0, 0, 0, 0, 0⟩,
  ⟨"CAD_ROLLBACKS", 0x064, false, 0, 0, 0, 0, 0, 0⟩]

/-- Registers of page 0 of block rng. -/
def regRowsRng0 : List RegRow := [
  ⟨"RNG_SEL", 0x040, false, 0, 0xFFFF, 0, 0, 0, 0⟩,
  ⟨"RNG_STEP", 0x048, true, 0, 0, 0, 0, 0, 0⟩,
  ⟨"RNG_DRAW_BASE", 0x050, false, 0, 0, 0, 0, 0, 0⟩,
  ⟨"RNG_BIND", 0x054, false, 0, 0, 0, 0, 0, 0⟩,
  ⟨"RNG_SKEWS", 0x058, false, 0, 0, 0, 0, 0, 0⟩]

/-- Registers of page 0 of block dry, part 0. -/
def regRowsDry0_0 : List RegRow := [
  ⟨"DRY_CTRL", 0x040, false, 0, 0, 0, 0x1, 0, 0⟩,
  ⟨"DRY_STATUS", 0x044, false, 0, 0, 0, 0, 0, 0⟩,
  ⟨"DRY_NEXT_SEQ", 0x048, false, 0, 0, 0, 0, 0, 0⟩,
  ⟨"DRY_COUNT", 0x04C, false, 0, 0, 0, 0, 0, 0⟩,
  ⟨"DRY_RD_SEQ", 0x050, false, 0, 0xFFFFFFFF, 0, 0, 0, 0⟩,
  ⟨"DRY_RD_STATUS", 0x054, false, 0, 0, 0, 0, 0, 0⟩,
  ⟨"DRY_RD_DATA0", 0x060, false, 0, 0, 0, 0, 0, 0⟩,
  ⟨"DRY_RD_DATA1", 0x064, false, 0, 0, 0, 0, 0, 0⟩,
  ⟨"DRY_RD_DATA2", 0x068, false, 0, 0, 0, 0, 0, 0⟩,
  ⟨"DRY_RD_DATA3", 0x06C, false, 0, 0, 0, 0, 0, 0⟩,
  ⟨"DRY_RD_DATA4", 0x070, false, 0, 0, 0, 0, 0, 0⟩,
  ⟨"DRY_RD_DATA5", 0x074, false, 0, 0, 0, 0, 0, 0⟩]

/-- Registers of page 0 of block dry, part 1. -/
def regRowsDry0_1 : List RegRow := [
  ⟨"DRY_RD_DATA6", 0x078, false, 0, 0, 0, 0, 0, 0⟩,
  ⟨"DRY_RD_DATA7", 0x07C, false, 0, 0, 0, 0, 0, 0⟩,
  ⟨"DRY_INCARNATION", 0x080, false, 0, 0, 0, 0, 0, 0⟩,
  ⟨"DRY_RESET_MS", 0x084, false, 0, 0, 0, 0, 0, 0⟩,
  ⟨"DRY_WD_LOOM", 0x088, false, 0x5F5E100, 0xFFFFFFFF, 0, 0, 0, 0⟩,
  ⟨"DRY_WD_HB", 0x08C, false, 0xF4240, 0xFFFFFFFF, 0, 0, 0, 0⟩,
  ⟨"DRY_WD_CORE", 0x090, false, 0x4C4B40, 0xFFFFFFFF, 0, 0, 0, 0⟩,
  ⟨"DRY_WD_EN", 0x094, false, 0xF, 0xF, 0, 0, 0, 0⟩,
  ⟨"DRY_CORE_KICK", 0x098, false, 0, 0, 0, 0xFFFFFFFF, 0, 0⟩,
  ⟨"DRY_FLUSHES", 0x09C, false, 0, 0, 0, 0, 0, 0⟩,
  ⟨"DRY_FLUSH_SLOT", 0x0A0, false, 0, 0, 0, 0, 0, 0⟩,
  ⟨"DRY_DUMP_PAGES", 0x0A4, false, 0, 0, 0, 0, 0, 0⟩]

/-- Registers of page 0 of block dry, part 2. -/
def regRowsDry0_2 : List RegRow := [
  ⟨"DRY_DUMP_NORESP", 0x0A8, false, 0, 0, 0, 0, 0, 0⟩,
  ⟨"DRY_STORM", 0x0AC, false, 0x2580004, 0xFFFF000F, 0, 0, 0, 0⟩]

/-- Registers of page 0 of block dry. -/
def regRowsDry0 : List RegRow := regRowsDry0_0 ++ regRowsDry0_1 ++ regRowsDry0_2

/-- Registers of page 0 of block ors, part 0. -/
def regRowsOrs0_0 : List RegRow := [
  ⟨"ORS_BOOT", 0x040, false, 0, 0, 0, 0, 0, 0⟩,
  ⟨"ORS_SVN", 0x044, false, 0, 0, 0, 0, 0, 0⟩,
  ⟨"ORS_FLOORS", 0x048, true, 0, 0, 0, 0, 0, 0⟩,
  ⟨"ORS_REVOKED", 0x050, false, 0, 0, 0, 0, 0, 0⟩,
  ⟨"ORS_MEAS_SEL", 0x054, false, 0, 0x3, 0, 0, 0, 0⟩,
  ⟨"ORS_MEAS_DATA0", 0x060, false, 0, 0, 0, 0, 0, 0⟩,
  ⟨"ORS_MEAS_DATA1", 0x064, false, 0, 0, 0, 0, 0, 0⟩,
  ⟨"ORS_MEAS_DATA2", 0x068, false, 0, 0, 0, 0, 0, 0⟩,
  ⟨"ORS_MEAS_DATA3", 0x06C, false, 0, 0, 0, 0, 0, 0⟩,
  ⟨"ORS_MEAS_DATA4", 0x070, false, 0, 0, 0, 0, 0, 0⟩,
  ⟨"ORS_MEAS_DATA5", 0x074, false, 0, 0, 0, 0, 0, 0⟩,
  ⟨"ORS_MEAS_DATA6", 0x078, false, 0, 0, 0, 0, 0, 0⟩]

/-- Registers of page 0 of block ors, part 1. -/
def regRowsOrs0_1 : List RegRow := [
  ⟨"ORS_MEAS_DATA7", 0x07C, false, 0, 0, 0, 0, 0, 0⟩,
  ⟨"ORS_MEAS_DATA8", 0x080, false, 0, 0, 0, 0, 0, 0⟩,
  ⟨"ORS_MEAS_DATA9", 0x084, false, 0, 0, 0, 0, 0, 0⟩,
  ⟨"ORS_MEAS_DATA10", 0x088, false, 0, 0, 0, 0, 0, 0⟩,
  ⟨"ORS_MEAS_DATA11", 0x08C, false, 0, 0, 0, 0, 0, 0⟩,
  ⟨"ORS_MEAS_DATA12", 0x090, false, 0, 0, 0, 0, 0, 0⟩,
  ⟨"ORS_MEAS_DATA13", 0x094, false, 0, 0, 0, 0, 0, 0⟩,
  ⟨"ORS_MEAS_DATA14", 0x098, false, 0, 0, 0, 0, 0, 0⟩,
  ⟨"ORS_MEAS_DATA15", 0x09C, false, 0, 0, 0, 0, 0, 0⟩,
  ⟨"ORS_DBG_NONCE", 0x0A0, true, 0, 0, 0, 0, 0, 0⟩,
  ⟨"ORS_DBG_STATE", 0x0A8, false, 0, 0, 0, 0, 0, 0⟩,
  ⟨"ORS_PULLS", 0x0AC, false, 0, 0, 0, 0, 0, 0⟩]

/-- Registers of page 0 of block ors, part 2. -/
def regRowsOrs0_2 : List RegRow := [
  ⟨"ORS_LOCKSTEP", 0x0B0, false, 0, 0, 0, 0, 0, 0⟩]

/-- Registers of page 0 of block ors. -/
def regRowsOrs0 : List RegRow := regRowsOrs0_0 ++ regRowsOrs0_1 ++ regRowsOrs0_2

/-- Registers of page 0 of block clk. -/
def regRowsClk0 : List RegRow := [
  ⟨"CLK_STATUS", 0x040, false, 0, 0, 0, 0, 0, 0⟩,
  ⟨"CLK_REF_COUNT", 0x048, true, 0, 0, 0, 0, 0, 0⟩,
  ⟨"CLK_LOCK_LOSS", 0x050, false, 0, 0, 0, 0, 0, 0⟩]

/-- Registers of page 0 of block bnt, part 0. -/
def regRowsBnt0_0 : List RegRow := [
  ⟨"BNT_TIME", 0x040, true, 0, 0, 0, 0, 0, 0⟩,
  ⟨"BNT_FRAC", 0x048, false, 0, 0, 0, 0, 0, 0⟩,
  ⟨"BNT_DISC", 0x04C, false, 0, 0x3, 0, 0, 0, 0⟩,
  ⟨"BNT_RATE", 0x050, false, 0, 0, 0, 0, 0, 0⟩,
  ⟨"BNT_OFFSET", 0x054, false, 0, 0, 0, 0, 0, 0⟩,
  ⟨"BNT_STEP_MIN", 0x058, false, 0x186A0, 0xFFFFFFFF, 0, 0, 0, 0⟩,
  ⟨"BNT_PPS", 0x05C, false, 0, 0x87FFFFFF, 0, 0, 0, 0⟩,
  ⟨"BNT_PPS_REJECT", 0x060, false, 0, 0, 0, 0, 0, 0⟩,
  ⟨"BNT_STEPS", 0x064, false, 0, 0, 0, 0, 0, 0⟩,
  ⟨"BNT_CMP_SEL", 0x068, false, 0, 0x7, 0, 0, 0, 0⟩,
  ⟨"BNT_CMP_CFG", 0x06C, false, 0, 0xFFFFF, 0x800000, 0, 0, 0⟩,
  ⟨"BNT_CMP_VALUE", 0x070, true, 0, 0xFFFFFFFFFFFFFFFF, 0, 0, 0, 0⟩]

/-- Registers of page 0 of block bnt, part 1. -/
def regRowsBnt0_1 : List RegRow := [
  ⟨"BNT_CMP_PERIOD", 0x078, true, 0, 0xFFFFFFFFFFFFFFFF, 0, 0, 0, 0⟩]

/-- Registers of page 0 of block bnt. -/
def regRowsBnt0 : List RegRow := regRowsBnt0_0 ++ regRowsBnt0_1

/-- Registers of page 0 of block pwr. -/
def regRowsPwr0 : List RegRow := [
  ⟨"PWR_STATE", 0x040, false, 0, 0, 0, 0, 0, 0⟩,
  ⟨"PWR_VIN", 0x044, false, 0, 0, 0, 0, 0, 0⟩,
  ⟨"PWR_IIN", 0x048, false, 0, 0, 0, 0, 0, 0⟩,
  ⟨"PWR_PIN", 0x04C, false, 0, 0, 0, 0, 0, 0⟩,
  ⟨"PWR_LIMIT", 0x050, false, 0x1130, 0xFFFFFFFF, 0, 0, 0, 0⟩,
  ⟨"PWR_THROT_TEMP", 0x054, false, 0x64, 0xFF, 0, 0, 0, 0⟩,
  ⟨"PWR_IDLE_DELAY", 0x058, false, 0x2710, 0xFFFFFFFF, 0, 0, 0, 0⟩,
  ⟨"PWR_GATE_SEL", 0x05C, false, 0, 0x7, 0, 0, 0, 0⟩,
  ⟨"PWR_GATE", 0x060, false, 0, 0x3F0000, 0, 0, 0, 0⟩,
  ⟨"PWR_GATED", 0x068, true, 0, 0, 0, 0, 0, 0⟩]

/-- Registers of page 0 of block dma. -/
def regRowsDma0 : List RegRow := [
  ⟨"DMA_CHAN", 0x040, false, 0xFFF000, 0, 0, 0, 0, 0⟩,
  ⟨"DMA_ENTRIES", 0x048, true, 0, 0, 0, 0, 0, 0⟩,
  ⟨"DMA_BYTES", 0x050, true, 0, 0, 0, 0, 0, 0⟩,
  ⟨"DMA_CHK_FAIL", 0x058, false, 0, 0, 0, 0, 0, 0⟩]

/-- The block-specific registers of a page (Table R487 says which pages exist). -/
def regRows (b : Blk) (page : Nat) : List RegRow :=
  match b, page with
  | .pcd, 0 => regRowsPcd0
  | .loom, 0 => regRowsLoom0
  | .cnv, 0 => regRowsCnv0
  | .twl, 0 => regRowsTwl0
  | .acs, 0 => regRowsAcs0
  | .twl, 1 => regRowsTwl1
  | .wvc, 0 => regRowsWvc0
  | .wvc, 1 => regRowsWvc1
  | .memc, 0 => regRowsMemc0
  | .memc, 1 => regRowsMemc1
  | .ctx, 0 => regRowsCtx0
  | .sch, 0 => regRowsSch0
  | .que, 0 => regRowsQue0
  | .sil, 0 => regRowsSil0
  | .rvl, 0 => regRowsRvl0
  | .rvlDie, 0 => regRowsRvlDie0
  | .svp, 0 => regRowsSvp0
  | .mgp, 0 => regRowsMgp0
  | .chk, 0 => regRowsChk0
  | .cad, 0 => regRowsCad0
  | .cad, 1 => regRowsCad1
  | .rng, 0 => regRowsRng0
  | .dry, 0 => regRowsDry0
  | .ors, 0 => regRowsOrs0
  | .clk, 0 => regRowsClk0
  | .bnt, 0 => regRowsBnt0
  | .pwr, 0 => regRowsPwr0
  | .dma, 0 => regRowsDma0
  | _, _ => []

end Sys2Proof.Machine
end

