-- ==== Sys2Proof/Machine/SysTypes.lean ====
section
/-! DEFINITION. What the PCD keeps: power-up and reset phases (R413, R433, R450), image banks and the pull (R429, R434-pull), the
crash dump and the flush slots (R419, R423), comparators (R455), the time servo (R446), issue gating (R449), lands (R464 to R469). -/

namespace Sys2Proof.Machine

/-- A drydown record (R420); its SEQ and TIME are assigned on entry. -/
structure DryRec where
  time : Nat
  seq : Nat
  source : Nat
  flags : Nat
  code : Nat
  args : List Nat
  deriving DecidableEq, Repr

/-- Where the package stands: without power, in phase 1 to 3 of R450, in phase 1 to 4 of R433, raising the compute dies (R450 phase 5),
running (DRY_STATUS.PHASE tells whether in a phase of R413), DORMANT or STANDBY (R452). -/
inductive PowerPhase where
  | off
  | seq (n : Nat)
  | boot (n : Nat)
  | raise
  | on
  | dormant
  | standby
  deriving DecidableEq, Repr

/-- An image bank (R429): the 4 KiB header, the body, and BANK_GEN where the trailer holds one with a correct TRAILER_CRC. -/
structure Bank where
  header : List Byte
  body : List Byte
  gen : Option Nat
  deriving DecidableEq, Repr

/-- An erased bank. -/
def Bank.erased : Bank := ⟨[], [], none⟩

/-- An image pull (R434-pull): the management port in use, SESSION, the header of the server that was accepted, body offsets of the
1,024-byte pieces that have been written, and the outstanding READs with their resends. -/
structure Pull where
  port : Nat
  session : Nat
  header : Option (List Byte)
  got : List Nat
  reads : Tab Nat
  deriving DecidableEq, Repr

/-- An entry of the crash dump (R419). -/
structure DumpPage where
  page : Nat
  status : Nat
  words : Nat
  data : List Nat
  deriving DecidableEq, Repr

/-- A base-note comparator (R455); `armed` tells whether it may fire. -/
structure Cmp where
  mode : Nat
  sensor : Nat
  hyst : Nat
  actions : Nat
  owner : Nat
  fired : Bool
  value : Nat
  period : Nat
  armed : Bool
  deriving DecidableEq, Repr

/-- A comparator that nobody holds. -/
def Cmp.free : Cmp := ⟨0, 0, 0, 0, 0, false, 0, 0, true⟩

/-- The servo of R446 to R448: the frequency term in 2^(−32) tick a cycle, the offset that the running slew absorbs in 1/64 tick (0: no
slew runs), and good measurements in a row. -/
structure Servo where
  freq : Int
  slew : Int
  good : Nat
  deriving DecidableEq, Repr

/-- Issue gating of a die (R449): the level that each cause asks for, the firmware floor, and gated ARITH cycles × 64. -/
structure Gate where
  thermal : Nat
  power : Nat
  vin : Nat
  floor : Nat
  cycles : Nat
  deriving DecidableEq, Repr

/-- A die that is not gated. -/
def Gate.open : Gate := ⟨0, 0, 0, 0, 0⟩

/-- An entry to DORMANT or STANDBY in progress (R452, R453): the target, the request to answer, and a wake that came meanwhile. -/
structure PowerEntry where
  target : Nat
  port : Nat
  reqId : Nat
  wake : Bool
  deriving DecidableEq, Repr

/-- The PCD beyond its registers. -/
structure Sys where
  power : PowerPhase
  entering : Option PowerEntry
  /-- What the phases of R413 that run belong to: 0 a power-up, 1 a recovery reset, 2 a wake. -/
  startKind : Nat
  /-- The root PLL has lost lock and every clock is gated (R444). -/
  clocksOff : Bool
  /-- Base-note times of the trigger and of the phase in progress, and of the resets that have started, newest first (R418). -/
  resetAt : Nat
  phaseAt : Nat
  resets : List Nat
  /-- The orders of R419: pages whose read timed out, with the words read; the pages that the cut dump reached. -/
  noResp : Tab Nat
  cut : Option Nat
  dump : List DumpPage
  /-- Flash: banks, configuration record copies, the copy in use, floors, revoked keys, owner key, flush slots, and the slot that the
  next power-up takes (R427, R428, R423). -/
  banks : List Bank
  booted : Nat
  /-- The bank that an image pull last wrote (R441, PULLED). -/
  pulledBank : Option Nat
  cfgs : List (Option CfgRec)
  cfgUsed : Option Nat
  imageFloor : Nat
  cfgFloor : Nat
  revoked : Nat
  owner : Option Nat
  ownerGen : Nat
  flushes : Tab (List DryRec)
  /-- Repair maps that firmware has recorded for looms (R219). -/
  repairs : Tab Nat
  /-- Writes of flash in progress: the request to answer (R440). -/
  imageWrite : Option (Nat × Nat)
  cfgWrite : Option (Nat × Nat)
  pull : Option Pull
  /-- FAULT_N is asserted for a pull that has run 10 s (R433), and for the failed state (R418, R478). -/
  pullFault : Bool
  failed : Bool
  policy : Policy
  /-- Lands: RST_N and WAKE_N low, levels that the board drives on GPIO0 to GPIO7, SMB_ADDR straps, TWIN_ACT_N asserted, and whether
  VIN lies within 38 V to 62 V without a power failure (PGOOD). -/
  rstLow : Bool
  wakeLow : Bool
  gpioIn : Nat
  straps : Nat
  twinAct : Bool
  vinGood : Bool
  /-- SMBus: the pointer, whether the last DATA was refused, and the INT_PEND bits that an ARA read has released (R468). -/
  smbPtr : Nat
  smbRefused : Bool
  smbAcked : Nat
  /-- JTAG: the TAP is in Test-Logic-Reset, its instruction (0 BYPASS, 1 IDCODE, 2 AUTH), and when an authorisation ends (R439, R469). -/
  tapReset : Bool
  tapIr : Nat
  dbgEnds : Nat
  /-- The hottest junction of each die as last sampled, in °C. -/
  junction : Tab Nat
  cmps : Tab Cmp
  servo : Servo
  ppsLast : Option Nat
  gates : Tab Gate
  /-- Last kick of each control core, by die × 4 + core (R409). -/
  kicks : Tab Nat
  deriving DecidableEq, Repr

/-- The PCD of a package that has no power and whose flash is erased: pull-ups hold RST_N, WAKE_N and the GPIO lands high.
(log 5: DESIGN CHOICE) -/
def Sys.initial : Sys where
  power := .off
  entering := none
  startKind := 0
  clocksOff := false
  resetAt := 0
  phaseAt := 0
  resets := []
  noResp := []
  cut := none
  dump := []
  banks := [.erased, .erased]
  booted := 0
  pulledBank := none
  cfgs := [none, none]
  cfgUsed := none
  imageFloor := 0
  cfgFloor := 0
  revoked := 0
  owner := none
  ownerGen := 0
  flushes := []
  repairs := []
  imageWrite := none
  cfgWrite := none
  pull := none
  pullFault := false
  failed := false
  policy := .default
  rstLow := false
  wakeLow := false
  gpioIn := 0xFF
  straps := 0
  twinAct := false
  vinGood := false
  smbPtr := 0
  smbRefused := false
  smbAcked := 0
  tapReset := false
  tapIr := 1
  dbgEnds := 0
  junction := []
  cmps := []
  servo := ⟨0, 0, 0⟩
  ppsLast := none
  gates := []
  kicks := []

end Sys2Proof.Machine
end

