-- ==== Sys2Proof/Machine/State.lean ====
section
/-! DEFINITION. The state of the package, its two stop reasons, and the state before power-up. -/

namespace Sys2Proof.Machine

/-- Memory: bytes by physical address, addresses strictly rising, no listed byte zero; an unlisted byte reads zero. -/
abbrev Memory := List Host.Cell

/-- Something that leaves the package or answers a requester; the model's own record of it. -/
inductive Out where
  | read (value : Nat)
  | packet (port : Nat) (p : Packet)
  /-- A codeword on a link port (R326): its 20-bit header and ten flits. -/
  | codeword (port header : Nat) (flits : List Byte)
  /-- A message of a link port's bring-up (R348): 0 HELLO, 1 a full handshake, 2 a resumption, 3 the epoch exchange. -/
  | bringup (port kind : Nat) (args : List Nat) (data : List Byte)
  /-- A control flit (R328): 0 ACK, 1 NAK, 2 CREDIT, 3 TSYNC, 4 IDLE, and what it carries. -/
  | control (port kind : Nat) (args : List Nat)
  /-- A response datagram of the Zartor Job Protocol on a port (R362). -/
  | zjp (port : Nat) (datagram : List Byte)
  /-- A frame on a service or management port: 0 a reply to neighbour discovery, 1 an echo reply, 2 RoCEv2 data (R366), 3 a RoCEv2
  acknowledgement, 4 a remote-access NAK, 5 a remote-operation NAK, 6 a read response, 7 a sequence NAK, 8 a pull datagram, 9 a CNP. -/
  | frame (port kind : Nat) (args : List Nat) (data : List Byte)
  /-- A word shifted out of the TAP, or read over SMBus (R468, R469). -/
  | serial (value : Nat)
  deriving DecidableEq, Repr

/-- A captured high half, or a held low half, of a 64-bit register (R35): the requester (a context slot, or 4096 and up for a
firmware agent), the register's address, and the half. -/
structure Half64 where
  who : Nat
  addr : Nat
  val : Nat
  deriving DecidableEq, Repr

/-- The state of the package. -/
structure State where
  regs : Tab Word
  mem : Memory
  poison : List Nat
  slots : Tab Slot
  hkey : Nat
  draws : Nat
  intRaised : List Nat
  intQueue : Tab (List Nat)
  captures : List Half64
  heldLow : List Half64
  ctxs : Tab Ctx
  /-- The identity that owns the current or last context of each context slot (R361). -/
  ctxIdents : Tab Nat
  teardownTicks : Tab Nat
  /-- CTX_STALE_RX by context slot × 8 + die (R294, R297). -/
  staleRx : Tab Nat
  /-- Counters of a context's dies by context slot × 8 + die, from its removal until a context is created in the slot (R297). -/
  ctxKept : Tab CtxDie
  unmaps : List Unmap
  queues : Tab Queue
  endpoints : Tab Endpoint
  channels : Tab Channel
  dmaRuns : List DmaRun
  conv : Tab ConvChan
  dispatches : Tab Dispatch
  nextDispatch : Nat
  schedAt : Tab Nat
  delayed : List Delayed
  heldRoles : List HeldRole
  looms : Tab Loom
  saved : List SavedLoom
  weaves : Tab Weave
  drams : Tab Stack
  survivors : Tab (Nat × Nat × Bool)
  checked : List Nat
  chk : Tab CheckBlk
  suspects : List SuspectReq
  windows : Tab Window
  ports : Tab LinkPort
  switches : Tab Switch
  /-- The masks of UP ports before each change whose hold of 2F is not over, oldest first (R345). -/
  routeHolds : List Nat
  /-- Packets that a hold keeps, with the port on which they arrived, 36 for none (R345). -/
  heldPkts : List (Nat × Packet)
  /-- Packets of the package to its own position, oldest first (R341). -/
  loop : List Packet
  fabric : List FabReq
  nextTag : Nat
  routes : Tab Nat
  groups : Tab SilGroup
  cursors : Tab Cursor
  streams : Tab RngStream
  stores : List RecStore
  cadence : Cadence
  /-- Service and management ports by number 1 to 8, and their caches (7 stands for both management ports) (R359, R364). -/
  svc : Tab SvcPort
  zjp : Tab ZjpCache
  /-- When each context slot last issued TEST_SUSPECT (R380). -/
  suspectAt : Tab Nat
  sys : Sys
  dryRing : List DryRec
  time : Nat
  frac : Nat
  refCount : Nat
  outbox : List Out
  pending : List Instr
  deriving DecidableEq, Repr

/-- The machine right after reset: the package before power-up. Every register is at the reset value of its table (none is listed), no
die is live, nothing is in memory, and no command waits. (log 5: DESIGN CHOICE) -/
def State.reset : State where
  regs := []
  mem := []
  poison := []
  slots := []
  hkey := 0
  draws := 0
  intRaised := []
  intQueue := []
  captures := []
  heldLow := []
  ctxs := []
  ctxIdents := []
  teardownTicks := []
  staleRx := []
  ctxKept := []
  unmaps := []
  queues := []
  endpoints := []
  channels := []
  dmaRuns := []
  conv := []
  dispatches := []
  nextDispatch := 0
  schedAt := []
  delayed := []
  heldRoles := []
  looms := []
  saved := []
  weaves := []
  drams := []
  survivors := []
  checked := []
  chk := []
  suspects := []
  windows := []
  ports := []
  switches := []
  routeHolds := []
  heldPkts := []
  loop := []
  fabric := []
  nextTag := 0
  routes := []
  groups := []
  cursors := []
  streams := []
  stores := []
  cadence := ⟨0, none⟩
  svc := []
  zjp := []
  suspectAt := []
  sys := .initial
  dryRing := []
  time := 0
  frac := 0
  refCount := 0
  outbox := []
  pending := []

/-- Reasons for a fault. (log 1: DESIGN CHOICE) -/
inductive Fault where
  /-- Raised by no command. -/
  | none
  deriving DecidableEq, Repr

/-- Reasons for a refusal. -/
inductive Refusal where
  /-- The command has no meaning yet. Safe. -/
  | notModelled (mnemonic : String)
  deriving DecidableEq, Repr

end Sys2Proof.Machine
end

