-- ==== Sys2Proof/Machine/Regs.lean ====
section
/-! DEFINITION. Register pages: where a page lies (R486, R487), the common header (R32), the value of a register, errors (R34),
interrupt levels (R36), counters, and status codes (R40). -/

namespace Sys2Proof.Machine

/-! ## Status codes (R40 and the later chapters) -/

def zsOk : Nat := 0x00
def zsContended : Nat := 0x11
def zsDenied : Nat := 0x12
def zsPageFault : Nat := 0x13
def zsAuthFail : Nat := 0x14
def zsStaleContext : Nat := 0x21
def zsStaleRole : Nat := 0x22
def zsHandleInvalid : Nat := 0x23
def zsHandleStale : Nat := 0x24
def zsUnbound : Nat := 0x25
def zsPinDenied : Nat := 0x31
def zsQuota : Nat := 0x32
def zsQueueFull : Nat := 0x33
def zsQueueEmpty : Nat := 0x34
def zsRestoreSkew : Nat := 0x41
def zsLateDropped : Nat := 0x51
def zsRetracted : Nat := 0x52
def zsPoison : Nat := 0x61
def zsCheckFail : Nat := 0x62
def zsSuspectResult : Nat := 0x63
def zsDivergent : Nat := 0x71
def zsBarrierSplit : Nat := 0x72
def zsIllegal : Nat := 0x73
def zsMisaligned : Nat := 0x74
def zsBadFormat : Nat := 0x75
def zsBadDescriptor : Nat := 0x76
def zsUnsupported : Nat := 0x77
def zsNoResponse : Nat := 0x81
def zsTimeout : Nat := 0x82
def zsUnreachable : Nat := 0x83

/-! ## Pages -/

/-- The REGION of a block (Table R487). -/
def blkRegion (b : Blk) : Nat :=
  match b with
  | .loom => 0 | .twl => 1 | .acs => 2 | .wvc => 3 | .memc => 4 | .ctx => 5 | .que => 6 | .sch => 7 | .cnv => 8 | .dma => 9
  | .sil => 10 | .rvl => 11 | .rvlDie => 11 | .svp => 12 | .cad => 13 | .rng => 14 | .chk => 15
  | .pcd => 0 | .bnt => 1 | .ors => 2 | .dry => 3 | .clk => 4 | .pwr => 5 | .mgp => 6

/-- Does the block lie on the PCD. -/
def blkPcd (b : Blk) : Bool :=
  match b with
  | .pcd => true | .bnt => true | .ors => true | .dry => true | .clk => true | .pwr => true | .mgp => true | _ => false

/-- Control window of die d, or of the PCD for d = 15 (R37). -/
def ctlBase (d : Nat) : Nat := 0x0F0000000000 + d * 0x10000000

/-- Physical address of a register page (R486); the RVL_ die page is instance 0x40. -/
def pageAddr (b : Blk) (die inst page : Nat) : Nat :=
  ctlBase (if blkPcd b then 15 else die) + blkRegion b * 2 ^ 24 + (if b = .rvlDie then 0x40 else inst) * 2 ^ 16 + page * 2 ^ 12

/-- A page of the directory: its block, die (15 for the PCD), instance and page number. -/
structure PageRef where
  blk : Blk
  die : Nat
  inst : Nat
  page : Nat
  deriving DecidableEq, Repr

/-- The page's physical address. -/
def PageRef.addr (p : PageRef) : Nat := pageAddr p.blk p.die p.inst p.page

/-- The block that a die's region and instance name, with its pages (Table R487). -/
def dieBlock (die region inst : Nat) : Option (Blk × Nat) :=
  match region with
  | 0 => if inst < 32 then some (.loom, 1) else none
  | 1 => if inst < 32 then some (.twl, 2) else none
  | 2 => if inst < 32 then some (.acs, 1) else none
  | 3 => if inst < 32 then some (.wvc, if inst = 0 then 2 else 1) else none
  | 4 => if inst < 4 then some (.memc, if inst = 0 then 2 else 1) else none
  | 5 => if inst = 0 then some (.ctx, 1) else none
  | 6 => if inst = 0 then some (.que, 1) else none
  | 7 => if inst = 0 then some (.sch, 1) else none
  | 8 => if inst = 0 then some (.cnv, 1) else none
  | 9 => if inst < 16 then some (.dma, 1) else none
  | 10 => if inst = 0 then some (.sil, 1) else none
  | 11 => if inst < (if die = 0 || die = 7 then 6 else 4) then some (.rvl, 1) else if inst = 0x40 then some (.rvlDie, 1) else none
  | 12 => if inst = 0 && 1 ≤ die && die ≤ 6 then some (.svp, 1) else none
  | 13 => if inst = 0 then some (.cad, 2) else none
  | 14 => if inst = 0 then some (.rng, 1) else none
  | 15 => if inst = 0 then some (.chk, 1) else none
  | _ => none

/-- The block that a region and instance of the PCD window name. -/
def pcdBlock (region inst : Nat) : Option (Blk × Nat) :=
  match region with
  | 0 => if inst = 0 then some (.pcd, 1) else none
  | 1 => if inst = 0 then some (.bnt, 1) else none
  | 2 => if inst = 0 then some (.ors, 1) else none
  | 3 => if inst = 0 then some (.dry, 1) else none
  | 4 => if inst = 0 then some (.clk, 1) else none
  | 5 => if inst = 0 then some (.pwr, 1) else none
  | 6 => if inst < 2 then some (.mgp, 1) else none
  | _ => none

/-- Is the address in a control window (R37): of dies 0 to 7 or of the PCD. -/
def inControl (pa : Nat) : Bool :=
  0x0F0000000000 ≤ pa && pa < 0x0F0100000000 && ((pa - 0x0F0000000000) / 0x10000000 < 8 || (pa - 0x0F0000000000) / 0x10000000 == 15)

/-- The page that a control-window address lies in, if Table R487 assigns one (R488). -/
def pageOf (pa : Nat) : Option PageRef :=
  if !inControl pa then none else
  let w := pa - 0x0F0000000000
  let die := w / 0x10000000
  let region := bits w 27 24
  let inst := bits w 23 16
  let page := bits w 15 12
  match (if die = 15 then pcdBlock region inst else dieBlock die region inst) with
  | some (b, n) => if page < n then some ⟨b, die, inst, page⟩ else none
  | none => none

/-! ## The header (R32) -/

def hdrOwner : Nat := 0x00C
def hdrCtrl : Nat := 0x010
def hdrStatus : Nat := 0x014
def hdrPend : Nat := 0x018
def hdrMask : Nat := 0x01C
def hdrTest : Nat := 0x020
def hdrErrFirst : Nat := 0x024
def hdrErrCount : Nat := 0x028
def hdrLock : Nat := 0x02C

/-- The header's rows, in the form of the block tables. PAGE_ID, PAGE_REV and PAGE_CAPS are computed (R486, R490). -/
def headerRows : List RegRow := [
  ⟨"PAGE_ID", 0x000, false, 0, 0, 0, 0, 0, 0⟩,
  ⟨"PAGE_REV", 0x004, false, 0x000100A1, 0, 0, 0, 0, 0⟩,
  ⟨"PAGE_CAPS", 0x008, false, 0, 0, 0, 0, 0, 0⟩,
  ⟨"PAGE_OWNER", 0x00C, false, 0, 0, 0, 0, 0, 0x80000FFF⟩,
  ⟨"CTRL", 0x010, false, 0, 0x2, 0, 0x4, 0, 0x1⟩,
  ⟨"STATUS", 0x014, false, 0, 0, 0, 0, 0, 0⟩,
  ⟨"INT_PEND", 0x018, false, 0, 0, 0xFFFFFFFF, 0, 0, 0⟩,
  ⟨"INT_MASK", 0x01C, false, 0xFFFFFFFF, 0xFFFFFFFF, 0, 0, 0, 0⟩,
  ⟨"INT_TEST", 0x020, false, 0, 0, 0, 0, 0xFFFFFFFF, 0⟩,
  ⟨"ERR_FIRST", 0x024, false, 0x0FFF0000, 0, 0x80000000, 0, 0, 0⟩,
  ⟨"ERR_COUNT", 0x028, false, 0, 0, 0, 0, 0, 0⟩,
  ⟨"LOCK", 0x02C, false, 0, 0, 0, 0x1, 0, 0⟩]

/-- The row of a register by its page and the offset of its low word. -/
def rowAt (p : PageRef) (off : Nat) : Option RegRow :=
  ((if off < 0x40 then headerRows else regRows p.blk p.page)).find? (fun r => r.off == off)

/-- The row whose register covers an aligned word offset: its low word, or the high word of a 64-bit register. -/
def rowCovering (p : PageRef) (off : Nat) : Option RegRow :=
  ((if off < 0x40 then headerRows else regRows p.blk p.page)).find? (fun r => r.off == off || (r.w64 && r.off + 4 == off))

/-- The reset value of the register at an address (R32, R490 and the block tables); 0 where there is none. (log 111: DESIGN CHOICE) -/
def regReset (a : Nat) : Nat :=
  match pageOf a with
  | some p => (rowAt p (a % 4096)).elim 0 (fun r => r.reset)
  | none => 0

/-- The stored value of the register at a physical address. (log 111: DESIGN CHOICE) -/
def reg (s : State) (a : Nat) : Nat := match tget? s.regs a with | some v => v.toNat | none => regReset a

/-- Store a register. -/
def setReg (a v : Nat) (s : State) : State := { s with regs := tset s.regs a (BitVec.ofNat 64 v) }

/-- Replace a field of a register. -/
def setField (a hi lo v : Nat) (s : State) : State := setReg a (setBits (reg s a) hi lo v) s

/-- Add to a 64-bit counter; it wraps (R35 and the block tables). -/
def bump (a n : Nat) (s : State) : State := setReg a ((reg s a + n) % 2 ^ 64) s

/-- Add to a saturating 32-bit counter. -/
def bumpSat (a n : Nat) (s : State) : State := setReg a (sat32 (reg s a + n)) s

/-- The value PAGE_ID reads (R32, R486). -/
def pageId (p : PageRef) : Nat :=
  ((if blkPcd p.blk then 0x0200 else 0x0100) + blkRegion p.blk) * 2 ^ 16 + p.inst * 2 ^ 8 + p.die * 2 ^ 4 + p.page

/-! ## Interrupt levels (R36) and errors (R34) -/

/-- The level of a page's interrupt: INT_PEND AND NOT INT_MASK is non-zero. -/
def intLevel (s : State) (page : Nat) : Bool := (reg s (page + hdrPend)) &&& (0xFFFFFFFF - reg s (page + hdrMask)) != 0

/-- The agent that receives the page's interrupts: the die's control complex, or 15 for Orris. -/
def intAgent (page : Nat) : Nat := (page - 0x0F0000000000) / 0x10000000

/-- The page is in its agent's interrupt queue. -/
def intQueued (s : State) (page : Nat) : Bool := (tgetD s.intQueue (intAgent page) []).contains page

/-- Note a rise of the page's level: an entry is due unless one is queued (R36). -/
def intRise (page : Nat) (s : State) : State :=
  if intLevel s page && !intQueued s page then { s with intRaised := sinsert s.intRaised page } else s

/-- Set bits of INT_PEND. -/
def setPend (page mask : Nat) (s : State) : State :=
  let was := intLevel s page
  let s := setReg (page + hdrPend) (reg s (page + hdrPend) ||| mask) s
  if was then s else intRise page s

/-- Record an error on a page (R34): ERR_FIRST where armed, ERR_COUNT, INT_PEND bit 0. `ctx` is 0xFFF for firmware. -/
def recErr (page ctx sub code : Nat) (s : State) : State :=
  let s := bumpSat (page + hdrErrCount) 1 s
  if bit (reg s (page + hdrErrFirst)) 31 then s
  else setPend page 1 (setReg (page + hdrErrFirst) (0x80000000 + (ctx % 4096) * 2 ^ 16 + (sub % 256) * 2 ^ 8 + code % 256) s)

/-- Record a lost contention on a page (R480): STATUS.CONTENDED, INT_PEND bit 1. -/
def recContended (page : Nat) (s : State) : State := setPend page 2 (setField (page + hdrStatus) 4 4 1 s)

/-- The page's LOCK is set. -/
def pageLocked (s : State) (page : Nat) : Bool := bit (reg s (page + hdrLock)) 0

/-- The block accepts work: ENABLE set and QUIESCE clear (R32). (log 46: DEDUCED) -/
def pageEnabled (s : State) (page : Nat) : Bool := bits (reg s (page + hdrCtrl)) 1 0 == 1

/-! ## Live dies (R12, R20, R21) -/

/-- The address of PCD_DIE_MAP. -/
def dieMapAddr : Nat := pageAddr .pcd 15 0 0 + Reg.PCD_DIE_MAP

/-- Is a die live. -/
def dieLive (s : State) (d : Nat) : Bool := d < 8 && bit (reg s dieMapAddr) d

/-- Is a die fenced. -/
def dieFenced (s : State) (d : Nat) : Bool := d < 8 && bit (reg s dieMapAddr) (8 + d)

/-- The live dies in ascending order (R38). -/
def liveDies (s : State) : List Nat := (List.range 8).filter (dieLive s)

/-- The cadence unit that decides: that of the lowest-numbered live die (R396). -/
def cadPage (s : State) : Nat := pageAddr .cad ((liveDies s).headD 0) 0 0

/-- The home die of a package loom number. -/
def loomDie (loom : Nat) : Nat := loom / 32

/-- LOOM_ page 0 of a loom. -/
def loomPage (loom : Nat) : Nat := pageAddr .loom (loom / 32) (loom % 32) 0

/-- TWL_ page 0 and page 1 of a loom. -/
def twlPage (loom page : Nat) : Nat := pageAddr .twl (loom / 32) (loom % 32) page

/-- ACS_ page 0 of a loom. -/
def acsPage (loom : Nat) : Nat := pageAddr .acs (loom / 32) (loom % 32) 0

/-- The die and port index of link port k (Table R12). -/
def linkHome (k : Nat) : Nat × Nat :=
  if k < 6 then (0, k) else if k < 30 then (1 + (k - 6) / 4, (k - 6) % 4) else (7, k - 30)

/-- The RVL_ page of link port k. -/
def linkPage (k : Nat) : Nat := pageAddr .rvl (linkHome k).1 (linkHome k).2 0

/-- The RVL_ die page. -/
def rvlPage (die : Nat) : Nat := pageAddr .rvlDie die 0x40 0

end Sys2Proof.Machine
end

