-- ==== Sys2Proof/Machine/Ops.lean ====
section
/-! DEFINITION. The named operations over memory, poison, survivor regions and check words; the drydown log (R420); handles (R24 to
R28); contexts and their shares of a die. -/

namespace Sys2Proof.Machine

/-! ## Memory -/

/-- What an unlisted byte of memory reads as. (log 7: DESIGN CHOICE) -/
def memUnlisted : Byte := 0

/-- One byte of physical memory. (log 7: DESIGN CHOICE) -/
def memByte (m : Memory) (a : Nat) : Byte :=
  match m with
  | [] => memUnlisted
  | (b, v) :: r => if b < a then memByte r a else if b = a then v else memUnlisted

/-- Write one byte, keeping the canonical form: rising addresses, no byte listed that reads as an unlisted one.
(log 7: DESIGN CHOICE) -/
def memSet (m : Memory) (a : Nat) (v : Byte) : Memory :=
  match m with
  | [] => if v = memUnlisted then [] else [(a, v)]
  | (b, w) :: r =>
    if b < a then (b, w) :: memSet r a v
    else if b = a then (if v = memUnlisted then r else (a, v) :: r)
    else if v = memUnlisted then (b, w) :: r else (a, v) :: (b, w) :: r

/-- Write consecutive bytes. -/
def memPut (m : Memory) (a : Nat) (l : List Byte) : Memory :=
  match l with
  | [] => m
  | v :: r => memPut (memSet m a v) (a + 1) r

/-- Read `n` consecutive bytes. -/
def memGet (m : Memory) (a n : Nat) : List Byte := (List.range n).map (fun i => memByte m (a + i))

/-- Zero the bytes of a range. -/
def memClear (m : Memory) (a n : Nat) : Memory := m.filter (fun c => c.1 < a || a + n ≤ c.1)

/-- The keys of a list rise strictly from a bound. -/
def risingFrom (lo : Nat) (m : Memory) : Bool :=
  match m with
  | [] => true
  | (a, _) :: r => lo ≤ a && risingFrom (a + 1) r

/-- The canonical form of memory. -/
def Memory.wf (m : Memory) : Bool := risingFrom 0 m && m.all (fun c => c.2 != memUnlisted)

/-- A little-endian number of `n` bytes in physical memory. -/
def memNat (s : State) (a n : Nat) : Nat := ofBytes (memGet s.mem a n)

/-! ## Poison (R249, R254) -/

/-- Is the 64-byte granule that holds an address poisoned. -/
def poisonedAt (s : State) (a : Nat) : Bool := s.poison.contains (a / 64)

/-- Is any granule of a range poisoned. -/
def poisonedRange (s : State) (a n : Nat) : Bool := s.poison.any (fun g => a / 64 ≤ g && g ≤ (a + n - 1) / 64 && 0 < n)

/-- Set or clear the poison of a granule. -/
def setPoison (g : Nat) (p : Bool) (s : State) : State :=
  { s with poison := if p then sinsert s.poison g else sdel s.poison g }

/-! ## The physical map (R37, R38) -/

/-- Bytes of one die's DRAM. -/
def dieDram : Nat := 0x1800000000

/-- The home die of a per-die DRAM address. -/
def homeDie (pa : Nat) : Nat := pa / dieDram

/-- The per-die offset of a DRAM address. -/
def dieOff (pa : Nat) : Nat := pa % dieDram

/-- Is the address in the per-die DRAM range. -/
def inDram (pa : Nat) : Bool := pa < 8 * dieDram

/-- Map an alias-window address to per-die DRAM over the live dies (R38). -/
def aliasMap (s : State) (pa : Nat) : Option Nat :=
  let l := liveDies s
  let a := pa - 0x010000000000
  if l.isEmpty || a ≥ l.length * dieDram then none else
  let g := a / 4096
  some ((l.getD (g % l.length) 0) * dieDram + (g / l.length) * 4096 + a % 4096)

/-- What a physical address names (R37). -/
inductive Tgt where
  | dram (pa : Nat)
  | doorbell (slot off : Nat)
  | page (pa : Nat)
  | link (die slot off : Nat)
  | bad
  deriving DecidableEq, Repr

/-- Resolve a physical address (R37, R38, R123). DRAM of a die that is not live is not backed (R20). -/
def resolve (s : State) (pa : Nat) : Tgt :=
  if inDram pa then (if dieLive s (homeDie pa) then .dram pa else .bad)
  else if 0x010000000000 ≤ pa && pa < 0x01C000000000 then (match aliasMap s pa with | some a => .dram a | none => .bad)
  else if 0x0E0000000000 ≤ pa && pa < 0x0E0010000000 then .doorbell ((pa - 0x0E0000000000) / 65536) (pa % 65536)
  else if inControl pa then .page pa
  else if 0x100000000000 ≤ pa && pa < 0x100000000000 + 32768 * 2 ^ 36 then
    let w := (pa - 0x100000000000) / 2 ^ 36
    .link (w / 4096) (w % 4096) (pa % 2 ^ 36)
  else .bad

/-! ## The drydown recorder's log (R420, R421) -/

/-- DRY_ page 0. -/
def dryPage : Nat := pageAddr .dry 15 0 0

/-- Enter a record: the recorder assigns SEQ and TIME, and the oldest record leaves a full ring (R420). -/
def logDry (die cls code : Nat) (args : List Nat) (s : State) : State :=
  let seq := reg s (dryPage + Reg.DRY_NEXT_SEQ)
  let r : DryRec := ⟨s.time, seq, die * 16 + cls, 0, code, args⟩
  let ring := s.dryRing ++ [r]
  setReg (dryPage + Reg.DRY_NEXT_SEQ) ((seq + 1) % 2 ^ 32)
    { s with dryRing := if ring.length > 2048 then ring.drop 1 else ring }

/-! ## Survivor regions (R230, R260) -/

/-- The survivor regions of a die: base offset, bytes. -/
def survivorsOf (s : State) (die : Nat) : List (Nat × Nat) :=
  (s.survivors.filter (fun e => e.1 / 16 == die && e.2.2.2)).map (fun e => (e.2.1, e.2.2.1 * 2 ^ 21))

/-- Does the address lie in a survivor region. -/
def inSurvivor (s : State) (pa : Nat) : Bool :=
  (survivorsOf s (homeDie pa)).any (fun r => r.1 ≤ dieOff pa && dieOff pa < r.1 + r.2)

/-! ## Check words (R372 to R375) -/

/-- CHK_ page 0 of a die. -/
def chkPage (die : Nat) : Nat := pageAddr .chk die 0 0

/-- Is the 4 KiB block that holds the address checked (R373). -/
def isChecked (s : State) (pa : Nat) : Bool := s.checked.contains (pa / 65536)

/-- The physical address of a block's check word (R372). -/
def chkWordAddr (s : State) (pa : Nat) : Nat :=
  homeDie pa * dieDram + reg s (chkPage (homeDie pa) + Reg.CHK_BASE) + (dieOff pa / 4096) * 4

/-- The check word of a block as its 4,096 bytes stand. -/
def chkCompute (s : State) (pa : Nat) : Nat := crc32c (memGet s.mem (alignDown pa 4096) 4096)

/-- Write a block's check word and count a whole-block producer (R374). -/
def chkProduce (pa w : Nat) (s : State) : State :=
  bump (chkPage (homeDie pa) + Reg.CHK_PRODUCED) 1 { s with mem := memPut s.mem (chkWordAddr s pa) (toBytes 4 w) }

/-- The incremental update of a stored check word for one line (R374). -/
def chkLineUpdate (c : Nat) (old new : List Byte) (b : Nat) : Nat :=
  c ^^^ crcCombine (crcBytes 0 (List.zipWith (· ^^^ ·) old new)) 0 (4096 - b - 128)

/-- Write bytes within one line, with the check word of a checked block in step (R374): the word always is that of the present bytes. -/
def lineData (pa : Nat) (l : List Byte) (s : State) : State :=
  let mem' := memPut s.mem pa l
  if !isChecked s pa then { s with mem := mem' } else
  let la := alignDown pa 128
  let c := memNat s (chkWordAddr s pa) 4
  let c' := chkLineUpdate c (memGet s.mem la 128) (memGet mem' la 128) (la % 4096)
  { s with mem := memPut mem' (chkWordAddr s pa) (toBytes 4 c') }

/-- The home memory controller takes a line write: in a checked block it is one incremental update (R374, R386). -/
def countUpdate (pa : Nat) (s : State) : State :=
  if isChecked s pa then bump (chkPage (homeDie pa) + Reg.CHK_UPDATED) 1 s else s

/-- Write bytes within one line at the home memory controller, keeping the check word of a checked block in step (R374). -/
def lineWrite (pa : Nat) (l : List Byte) (s : State) : State := countUpdate pa (lineData pa l s)

/-! ## Handles (R22 to R28) -/

/-- The fields of a handle (R22). -/
def hType (h : Word) : Nat := bits h.toNat 63 58
def hHome (h : Word) : Nat := bits h.toNat 57 54
def hSlot (h : Word) : Nat := bits h.toNat 53 32
def hGen (h : Word) : Nat := bits h.toNat 31 8
def hTag (h : Word) : Nat := bits h.toNat 7 0

/-- The check tag over handle bits 63:8 (R24). -/
def handleTag (key body : Nat) : Nat := sipKey key (toBytes 7 body) % 256

/-- The handle of a type, home, slot and generation under the present handle key (R22). -/
def mkHandle (s : State) (typ home slot gen : Nat) : Word :=
  let body := typ * 2 ^ 50 + home * 2 ^ 46 + slot * 2 ^ 24 + gen
  BitVec.ofNat 64 (body * 256 + handleTag s.hkey body)

/-- The key of a slot in the slot table. -/
def slotKey (typ home slot : Nat) : Nat := typ * 2 ^ 28 + home * 2 ^ 24 + slot

/-- The slot that a handle names. -/
def slotOf (s : State) (h : Word) : Slot := tgetD s.slots (slotKey (hType h) (hHome h) (hSlot h)) .fresh

/-- The number of slots of a type, and whether its home is the package (Table R23). -/
def typeRange (typ : Nat) : Option (Nat × Bool) :=
  match typ with
  | 1 => some (4096, true) | 2 => some (16384, false) | 3 => some (4096, false) | 4 => some (4096, false)
  | 5 => some (1024, true) | 6 => some (256, false) | 7 => some (65536, true) | 8 => some (4096, true)
  | 9 => some (16384, false) | _ => none

/-- Judge a handle presented by the context with handle `who` for an operation that expects a type (R25): ZS_OK,
ZS_HANDLE_INVALID or ZS_HANDLE_STALE. -/
def judgeHandle (s : State) (who h : Word) (expect : Nat) : Nat :=
  if handleTag s.hkey (h.toNat / 256) != hTag h then zsHandleInvalid else
  if hType h != expect then zsHandleInvalid else
  match typeRange expect with
  | none => zsHandleInvalid
  | some (n, pkg) =>
    if !(if pkg then hHome h == 15 else dieLive s (hHome h)) then zsHandleInvalid else
    if hSlot h ≥ n then zsHandleInvalid else
    let sl := slotOf s h
    if !(sl.owner != 0 && (sl.owner == who || (sl.live && sl.shared.contains who))) then zsHandleInvalid else
    if !sl.live || sl.retired || sl.gen != hGen h then zsHandleStale else zsOk

/-- Create an object in a slot for a context: the slot becomes live with its current generation (R27). -/
def slotCreate (typ home slot : Nat) (owner : Word) (s : State) : State :=
  let k := slotKey typ home slot
  { s with slots := tset s.slots k { tgetD s.slots k .fresh with live := true, owner := owner, shared := [] } }

/-- Destroy the object of a slot: the generation advances, or the slot is retired (R27). -/
def slotDestroy (typ home slot : Nat) (s : State) : State :=
  let k := slotKey typ home slot
  let sl := tgetD s.slots k .fresh
  let sl' := if sl.gen + 1 = 0xFFFFFF then { sl with live := false, retired := true, shared := [] }
    else { sl with live := false, gen := sl.gen + 1, shared := [] }
  { s with slots := tset s.slots k sl' }

/-- The lowest slot of a type and home that is neither live nor retired, among the first `n`. (log 115: DESIGN CHOICE) -/
def freeSlot (s : State) (typ home n : Nat) : Option Nat :=
  (List.range n).find? (fun i => let sl := tgetD s.slots (slotKey typ home i) .fresh; !sl.live && !sl.retired)

/-! ## Contexts -/

/-- The context in a slot. -/
def ctxAt (s : State) (c : Nat) : Option Ctx := tget? s.ctxs c

/-- Change a context. -/
def modCtx (c : Nat) (f : Ctx → Ctx) (s : State) : State := { s with ctxs := tupd s.ctxs c f }

/-- Change a context's share of a die. -/
def modCtxDie (c die : Nat) (f : CtxDie → CtxDie) (s : State) : State :=
  modCtx c (fun x => { x with dies := tmod x.dies die .zero f }) s

/-- A context's share of a die. -/
def ctxDie (x : Ctx) (die : Nat) : CtxDie := tgetD x.dies die .zero

/-- The handle of the context in a slot, null if there is none. -/
def ctxHandle (s : State) (c : Nat) : Word := (ctxAt s c).elim 0 (fun x => x.handle)

/-- The context is held under R26. -/
def ctxHeld (s : State) (c : Nat) : Bool := (ctxAt s c).any (fun x => x.held)

/-- The phase of R413 in progress, 0 for none. -/
def resetPhase (s : State) : Nat := bits (reg s (dryPage + Reg.DRY_STATUS)) 3 0

/-- The package is in the failed state of R418: declared failed, and no reset runs. -/
def failedNow (s : State) : Bool := s.sys.failed && resetPhase s == 0

/-- Nothing starts: a phase of R413 before the executive serves again, the failed state (R418), or gated clocks (R444). -/
def inReset (s : State) : Bool := (1 ≤ resetPhase s && resetPhase s ≤ 7) || failedNow s || s.sys.clocksOff

/-- The context may start work: active and not held (R26, R293), and no reset has stopped it (R413). -/
def ctxMayStart (s : State) (c : Nat) : Bool :=
  match ctxAt s c with
  | some x => x.state == .active && !x.held && !inReset s
  | none => false

/-- A capability bit of the context (R268). -/
def ctxCap (s : State) (c i : Nat) : Bool := (ctxAt s c).any (fun x => bit x.caps i)

/-- The partition of the context that issues, 0 for firmware (R236). -/
def ctxPart (s : State) (c : Option Nat) : Nat :=
  match c with
  | some c => (ctxAt s c).elim 0 (fun x => x.partition)
  | none => 0

/-- The step number of a context. -/
def ctxStep (s : State) (c : Nat) : Nat := (ctxAt s c).elim 0 (fun x => x.step)

/-- Count a ZS_HANDLE_INVALID completion against its context (R26). -/
def countInvalid (c : Nat) (s : State) : State := modCtx c (fun x => { x with invalid := x.invalid + 1 }) s

/-- Judge a handle for a context and record a failure: in ERR_FIRST of the checking block's page, and in the count of R26. -/
def presentHandle (page c : Nat) (h : Word) (expect : Nat) (s : State) : Nat × State :=
  let st := judgeHandle s (ctxHandle s c) h expect
  if st = zsOk then (st, s) else
  let s := recErr page c 0 st s
  (st, if st = zsHandleInvalid then countInvalid c s else s)

/-- The base-note time as a number of ticks. -/
def now (s : State) : Nat := s.time

/-- The ARITH cycle count since power-up: 21 cycles a reference cycle (R78, R444). -/
def cycles (s : State) : Nat := 21 * s.refCount

/-- Take the next draw of Orris's random source. (log 6: DESIGN CHOICE; log 112: DESIGN CHOICE) -/
def draw (s : State) : Nat × State := (s.draws, { s with draws := s.draws + 1 })

/-- Record something that leaves the package. (log 112: DESIGN CHOICE) -/
def emit (o : Out) (s : State) : State := { s with outbox := s.outbox ++ [o] }

end Sys2Proof.Machine
end

