-- ==== Sys2Proof/Machine/Weave.lean ====
section
/-! DEFINITION. The Weave caches: placement (R226), the directory's actions (R229), misses (R232), streams (R234), replacement
(R236), pins (R239) and in-cache reductions (R240, R241). Bytes live once, in memory; a reduction line holds what is pending. -/

namespace Sys2Proof.Machine

/-! ## Atomic arithmetic (R96, R241) -/

/-- Bytes of an element of an atomic type code (R96). -/
def atomBytes (ty : Nat) : Nat := match ty with | 0 => 4 | 1 => 4 | 2 => 8 | 3 => 8 | 4 => 4 | _ => 2

/-- Is the atomic type floating point, and its format code. -/
def atomFmt (ty : Nat) : Option Nat := match ty with | 4 => some 0 | 5 => some 1 | _ => none

/-- The value memory takes from an atomic operation on old and operand (R96): ADD wraps or rounds RNE, MIN and MAX by type,
bitwise operations, EXCH. CAS is `atomCas`. -/
def atomNew (op ty old c : Nat) : Nat :=
  let w := 8 * atomBytes ty
  match atomFmt ty with
  | some f =>
    match op with
    | 0 => (convert f false .rne (valAdd .rne (decodeElem f old) (decodeElem f c))).code
    | 1 => (convert f false .rne (valMin (decodeElem f old) (decodeElem f c))).code
    | 2 => (convert f false .rne (valMax (decodeElem f old) (decodeElem f c))).code
    | _ => c % 2 ^ w
  | none =>
    let sgn := ty == 1 || ty == 3
    let lt (a b : Nat) : Bool := if sgn then decide (sext w a < sext w b) else decide (a % 2 ^ w < b % 2 ^ w)
    match op with
    | 0 => (old + c) % 2 ^ w
    | 1 => if lt c old then c % 2 ^ w else old
    | 2 => if lt old c then c % 2 ^ w else old
    | 3 => old &&& (c % 2 ^ w)
    | 4 => old ||| (c % 2 ^ w)
    | 5 => old ^^^ (c % 2 ^ w)
    | _ => c % 2 ^ w

/-- Compare-and-swap: new if old equals cmp bit for bit, else old (R96). -/
def atomCas (old cmp new : Nat) : Nat := if old == cmp then new else old

/-! ## Placement -/

/-- Slice of an address (R226). -/
def sliceOf (pa : Nat) : Nat := bits pa 11 7 ^^^ bits pa 27 23 ^^^ bits pa 32 28

/-- Set of an address (R226). -/
def setOf (pa : Nat) : Nat := bits pa 22 12

/-- WVC_ page of a slice. -/
def wvcPage (die slice page : Nat) : Nat := pageAddr .wvc die slice page

/-- The slice of a line address. -/
def laSlice (la : Nat) : Nat := sliceOf (la * 128)

/-- The key of a line's set. -/
def laKey (la : Nat) : Nat := laSlice la * 2048 + setOf (la * 128)

/-- A die's Weave cache. -/
def weaveOf (s : State) (die : Nat) : Weave := tgetD s.weaves die .empty

/-- Change a die's Weave cache. -/
def modWeave (die : Nat) (f : Weave → Weave) (s : State) : State := { s with weaves := tmod s.weaves die .empty f }

/-- A set with no line. -/
def emptySet : WSet := ⟨[], 0, []⟩

/-- The set of a line in a die's cache. -/
def setAt (s : State) (die la : Nat) : WSet := tgetD (weaveOf s die).sets (laKey la) emptySet

/-- Change the set of a line. -/
def modSet (die la : Nat) (f : WSet → WSet) (s : State) : State :=
  modWeave die (fun w => { w with sets := tmod w.sets (laKey la) emptySet f }) s

/-- The way that holds a line in a die's cache, whatever its state. -/
def lineAt (s : State) (die la : Nat) : Option WLine := (setAt s die la).ways.find? (fun l => l.la == la)

/-- The state of a line in a die's cache. -/
def lineState (s : State) (die la : Nat) : LineState := (lineAt s die la).elim .i (fun l => l.state)

/-- Is a line a reduction line there. -/
def isReduction (st : LineState) : Bool := st == .rd || st == .ro

/-- Change a line. -/
def modLine (die la : Nat) (f : WLine → WLine) (s : State) : State :=
  modSet die la (fun t => { t with ways := updateFirst t.ways (fun l => l.la == la) f }) s

/-- What is left of a line that loses its data: the way in I under its pin, or nothing (R239). -/
def dropData (l : WLine) : Option WLine :=
  if l.pin.isSome then some { l with state := .i, stream := none, touched := 0, vals := 0, redPoison := 0, waiting := [] } else none

/-- A line loses its data: it goes to I under its pin, or leaves the set (R239). -/
def invalidate (die la : Nat) (s : State) : State :=
  modSet die la (fun t => { t with ways := t.ways.filterMap (fun l =>
    if l.la == la then dropData l else some l) }) s

/-! ## Loom side of a wait -/

/-- Change a loom. -/
def modLoom (loom : Nat) (f : Loom → Loom) (s : State) : State := { s with looms := tmod s.looms loom .empty f }

/-- A loom. -/
def loomOf (s : State) (loom : Nat) : Loom := tgetD s.looms loom .empty

/-- Change a resident skein. -/
def modSkein (loom skein : Nat) (f : Skein → Skein) (s : State) : State :=
  modLoom loom (fun l => { l with skeins := tupd l.skeins skein f }) s

/-- One held access fewer. -/
def heldLess (w : LcvWait) : LcvWait :=
  match w with
  | .held n => if n ≤ 1 then .ready else .held (n - 1)
  | w => w

/-- A held access of an LCV instruction has been performed (R232, R240). -/
def lcvRelease (loom skein id : Nat) (s : State) : State :=
  modSkein loom skein (fun k =>
    { k with lcvs := updateFirst k.lcvs (fun l => l.id == id) (fun l => { l with wait := heldLess l.wait }) }) s

/-! ## Reduction lines -/

/-- Apply one operand to a reduction line (R241): the first to an untouched element stores it, later ones combine. -/
def redApply (off operand : Nat) (poisoned : Bool) (l : WLine) : WLine :=
  let n := atomBytes l.ty
  let units := (2 ^ (n / 2) - 1) * 2 ^ (off / 2)
  let old := (l.vals >>> (8 * off)) % 2 ^ (8 * n)
  let v := if l.touched &&& units == 0 then operand % 2 ^ (8 * n) else atomNew l.op l.ty old operand
  { l with touched := l.touched ||| units, vals := setBits l.vals (8 * (off + n) - 1) (8 * off) v,
           redPoison := if poisoned then l.redPoison ||| 2 ^ (off / 64) else l.redPoison }

/-- Combine a reduction line into the bytes of its line at the home (R241). -/
def mergeBytes (l : WLine) (old : List Byte) : List Byte :=
  let n := atomBytes l.ty
  (List.range (128 / n)).flatMap (fun i =>
    let o := bytesAt old (i * n) n
    let units := (2 ^ (n / 2) - 1) * 2 ^ (i * n / 2)
    toBytes n (if l.touched &&& units == 0 then o else atomNew l.op l.ty o ((l.vals >>> (8 * (i * n))) % 2 ^ (8 * n))))

/-- Merge-writeback of a reduction line: the home combines each touched element, poison is carried (R241, R254), and the line
leaves the slice. -/
def mergeOut (die la : Nat) (s : State) : State :=
  match lineAt s die la with
  | none => s
  | some l =>
    if !isReduction l.state then s else
    let s := if l.touched = 0 then s else lineWrite (la * 128) (mergeBytes l (memGet s.mem (la * 128) 128)) s
    let s := if bit l.redPoison 0 then setPoison (la * 2) true s else s
    let s := if bit l.redPoison 1 then setPoison (la * 2 + 1) true s else s
    invalidate die la (bump (wvcPage die (laSlice la) 0 + Reg.WVC_MERGES) 1 s)

/-- A die that holds a line in M writes it back to the home, which counts an update of a checked block (R229, R374).
(log 134: DESIGN CHOICE) -/
def writeBack (die la : Nat) (s : State) : State := if lineState s die la == .m then countUpdate (la * 128) s else s

/-- A reduction registration at the home: S copies are invalidated, an E or M holder gives the line up, and the slice is recorded
as a reducer (R229). -/
def registerLine (die la : Nat) (s : State) : State :=
  let s := forL (liveDies s) (fun d s =>
    match lineState s d la with
    | .s => invalidate d la s
    | .e => invalidate d la s
    | .m => invalidate d la (writeBack d la s)
    | _ => s) s
  modLine die la (fun l => if isReduction l.state then { l with registered := true } else l) s

/-- A registration is acknowledged: the waiting REDs apply (R240). -/
def ackLine (die la : Nat) (s : State) : State :=
  match lineAt s die la with
  | none => s
  | some l =>
    if !(isReduction l.state && l.registered) then s else
    let s := modLine die la (fun l => { (l.waiting.foldl (fun l w => redApply w.off w.operand w.poisoned l) l) with acked := true, waiting := [] }) s
    forL l.waiting (fun w s => match w.waiter with | some (a, b, c) => lcvRelease a b c s | none => s) s

/-- Complete a reduction line's registration, if it is still open. -/
def settleLine (die la : Nat) (s : State) : State :=
  match lineAt s die la with
  | some l => if isReduction l.state && !l.acked then ackLine die la (registerLine die la s) else s
  | none => s

/-- Insert a die into a list ordered by the open order of merges (R97, R241). -/
def insertByKey (la d : Nat) (l : List Nat) : List Nat :=
  match l with
  | [] => [d]
  | e :: r => if Config.mergeKey d la < Config.mergeKey e la then d :: e :: r else e :: insertByKey la d r

/-- The directory recalls every reduction line of an address; the order in which the merges arrive is open (R229, R241).
(log 9: DEDUCED) -/
def recallReductions (la : Nat) (s : State) : State :=
  let ds := (liveDies s).filter (fun d => isReduction (lineState s d la))
  let order := if ds.length ≤ 1 then ds else ds.foldl (fun acc d => insertByKey la d acc) []
  forL order (fun d s => bump (wvcPage d (laSlice la) 0 + Reg.WVC_RECALLS) 1 (mergeOut d la (settleLine d la s))) s

/-! ## The directory (R229) -/

/-- A read or fill for S or E by a die: reduction lines are recalled, an exclusive copy elsewhere becomes shared.
(log 38: DESIGN CHOICE) -/
def dirRead (die la : Nat) (s : State) : State :=
  forL ((liveDies s).filter (fun d => d != die)) (fun d s =>
    match lineState s d la with
    | .e => modLine d la (fun l => { l with state := .s }) s
    | .m => modLine d la (fun l => { l with state := .s }) (writeBack d la s)
    | _ => s) (recallReductions la s)

/-- A request for M by a die: reduction lines are recalled, every other copy is taken. -/
def dirM (die la : Nat) (s : State) : State :=
  forL ((liveDies s).filter (fun d => d != die)) (fun d s =>
    if lineState s d la == .i then s else invalidate d la s) (recallReductions la s)

/-- A write by the memory side itself (a scrub): a request for M that no slice holds afterwards (R229). -/
def memM (la : Nat) (s : State) : State :=
  forL (liveDies s) (fun d s => if lineState s d la == .i then s else invalidate d la (writeBack d la s)) (recallReductions la s)

/-- The directory drops its entry for a line to make room (R229): reduction lines are merged, every copy is invalidated, and the home
die counts it. -/
def dirEvict (la : Nat) (s : State) : State :=
  let page := wvcPage (homeDie (la * 128)) 0 1
  setPend page 8 (bump (page + Reg.WVC_DIR_EVICT) 1 (memM la s))

/-- Whether the home directory of a line must drop another entry to serve a request is open, and which (R229).
(log 38: DESIGN CHOICE) -/
def dirRoom (la : Nat) (s : State) : State :=
  let home := homeDie (la * 128)
  let (n, s) := draw s
  match Config.dirVictim home n with
  | none => s
  | some v => if v != la && homeDie (v * 128) == home && (liveDies s).any (fun d => lineState s d v != .i) then dirEvict v s else s

/-- No other die holds the line. -/
def soleHolder (s : State) (die la : Nat) : Bool := (liveDies s).all (fun d => d == die || lineState s d la == .i)

/-! ## Replacement (R235, R236) -/

/-- The state of a way's leaf in the pseudo-LRU tree after a touch: the bits on its path point away from it. (log 38: DESIGN CHOICE) -/
def treeTouch (tree way : Nat) : Nat :=
  let step (t node dir : Nat) : Nat := setBits t node node (1 - dir)
  let b3 := bit way 3; let b2 := bit way 2; let b1 := bit way 1; let b0 := bit way 0
  let n1 := 1; let n2 := 2 * n1 + b2n b3; let n3 := 2 * n2 + b2n b2; let n4 := 2 * n3 + b2n b1
  step (step (step (step tree n1 (b2n b3)) n2 (b2n b2)) n3 (b2n b1)) n4 (b2n b0)

/-- Walk the pseudo-LRU tree to a candidate way: the side a bit names, or the other where it has none. (log 38: DESIGN CHOICE) -/
def treeWalk (levels tree node lo : Nat) (cand : List Nat) : Option Nat :=
  match levels with
  | 0 => if cand.contains lo then some lo else none
  | n + 1 =>
    let half := 2 ^ n
    let first := if bit tree node then 1 else 0
    match treeWalk n tree (2 * node + first) (lo + first * half) cand with
    | some w => some w
    | none => treeWalk n tree (2 * node + (1 - first)) (lo + (1 - first) * half) cand

/-- The configuration word of a partition (WVC_PART_CFG): partition 0 resets to ENABLE. -/
def partCfg (w : Weave) (p : Nat) : Nat := tgetD w.partCfg p (if p = 0 then 0x10 else 0)

/-- Is a miss register open for the line on the die. -/
def missOpen (s : State) (die la : Nat) : Bool :=
  (tgetD (weaveOf s die).miss (laSlice la) []).any (fun m => m.la == la)

/-- The way in which a line would be placed (R235, R236); `none` where no candidate exists. (log 38: DESIGN CHOICE) -/
def chooseWay (s : State) (die la part : Nat) (streamWay pinning : Bool) : Option Nat :=
  let t := setAt s die la
  let w := weaveOf s die
  let blocked (l : WLine) : Bool := l.pin.isSome || (missOpen s die l.la && l.la != la)
  match t.ways.find? (fun l => l.la == la) with
  | some l => some l.way
  | none =>
    if !bit (partCfg w part) 4 then none else
    if streamWay then (if t.ways.any (fun l => l.way == 15 && blocked l) then none else some 15) else
    let top := if pinning then 15 else 16
    match (List.range top).find? (fun i => !t.ways.any (fun l => l.way == i)) with
    | some i => some i
    | none =>
      let unpinned (p : Nat) := t.ways.countP (fun l => l.part == p && l.pin.isNone)
      let cand := (t.ways.filter (fun l => l.way < top && !blocked l &&
        (l.part == part || unpinned l.part > bits (partCfg w l.part) 3 0))).map (fun l => l.way)
      treeWalk 4 t.tree 1 0 cand

/-- Give up the line in a way: merged or written back, and remembered among the set's last four victims (R236, R240-thrash). -/
def evictWay (die la way : Nat) (s : State) : State :=
  match (setAt s die la).ways.find? (fun l => l.way == way && l.la != la) with
  | none => s
  | some l =>
    let s := writeBack die l.la (mergeOut die l.la (settleLine die l.la s))
    modSet die la (fun t => { t with ways := t.ways.filter (fun x => x.way != way || x.la == la),
                                     victims := ((l.la, l.part) :: t.victims).take 4 }) s

/-- Place a line in the cache in a state (R235, R236, R239); counts the allocations of R236 that the cache could not make. -/
def allocLine (die la part : Nat) (streamWay : Bool) (byStream : Option Nat) (st : LineState) (s : State) : State :=
  let page := wvcPage die (laSlice la) 0
  match chooseWay s die la part streamWay false with
  | none => if streamWay then s else setPend page 4 (bumpSat (page + Reg.WVC_NO_VICTIM) 1 s)
  | some way =>
    let pin := (lineAt s die la).bind (fun l => l.pin)
    let s := evictWay die la way s
    let s := if streamWay then bump (page + Reg.WVC_STREAM_ALLOC) 1 s else s
    modSet die la (fun t => { t with
      ways := t.ways.filter (fun l => l.la != la) ++ [⟨way, la, st, part, pin, byStream, 0, 0, 0, 0, 0, false, false, []⟩],
      tree := treeTouch t.tree way }) s

/-! ## Streams (R234) -/

/-- The next line above or below that maps to the same slice; 4 KiB away within an aligned 8 MiB region. -/
def nextInSlice (la : Nat) (up : Bool) : Nat :=
  let cand := (List.range 64).map (fun i => if up then la + (i + 1) else la - (i + 1))
  (cand.find? (fun c => laSlice c == laSlice la)).getD (if up then la + 32 else la - 32)

/-- The line below the last one of a stream whose `next` is the line above it. -/
def prevInSlice (next : Nat) : Nat := nextInSlice (nextInSlice next false) false

/-- Does a miss on a line advance the stream: it is the next expected line, or, before the successor of its first line has given the
direction, the nearest line on either side (R234). -/
def streamTakes (t : StreamTrack) (part la : Nat) : Bool :=
  t.part == part && (t.next == la || (t.up.isNone && prevInSlice t.next == la))

/-- A stream after a matched miss. -/
def trackStep (t : StreamTrack) (la clk : Nat) : StreamTrack :=
  let up := t.up.getD (t.next == la)
  { t with up := some up, run := t.run + 1, next := nextInSlice la up, age := clk }

/-- Judge a miss by the stream detector: the stream it advances, or the new one it starts, with whether that stream is in stream mode
(R234). -/
def streamMiss (die la part : Nat) (s : State) : (Nat × Bool) × State :=
  let sl := laSlice la
  let w := weaveOf s die
  let l := tgetD w.streams sl []
  let clk := w.clock + 1
  let put (l : List StreamTrack) (s : State) : State := modWeave die (fun w => { w with streams := tset w.streams sl l, clock := clk }) s
  match l.find? (fun t => streamTakes t part la) with
  | some t =>
    let t' := trackStep t la clk
    let s := put (updateFirst l (fun x => x.id == t.id) (fun _ => t')) s
    let s := if t'.run = 33 then bumpSat (wvcPage die sl 0 + Reg.WVC_STREAM_ENTER) 1 s else s
    ((t.id, t'.run > 32), s)
  | none =>
    let t : StreamTrack := ⟨clk, part, none, nextInSlice la true, 0, clk⟩
    let oldest := l.foldl (fun m x => min m x.age) clk
    let l := if l.length < 64 then l else l.filter (fun x => x.age != oldest)
    ((clk, false), put (l ++ [t]) s)

/-- A hit on a line that a stream allocated resets the stream's run count (R234). -/
def streamHit (die la : Nat) (id : Nat) (s : State) : State :=
  modWeave die (fun w => { w with streams := tupd w.streams (laSlice la) (fun l => updateFirst l (fun t => t.id == id) (fun t => { t with run := 0 })) }) s

/-! ## Misses and accesses -/

/-- Count a thrash miss against a partition (R240-thrash). -/
def thrashMiss (die la part : Nat) (s : State) : State :=
  if !(setAt s die la).victims.any (fun v => v.1 == la) then s else
  let page := wvcPage die 0 1
  let n := tgetD (weaveOf s die).window part 0 + 1
  let s := modWeave die (fun w => { w with thrash := tmod w.thrash part 0 (· + 1), window := tset w.window part n }) s
  if n > reg s (page + Reg.WVC_THRASH_LIMIT) then
    let s := setPend page 4 (setReg (page + Reg.WVC_THRASH_FLAG) (reg s (page + Reg.WVC_THRASH_FLAG) ||| 2 ^ part) s)
    if n = reg s (page + Reg.WVC_THRASH_LIMIT) + 1 then logDry die 3 0x0031 [part] s else s
  else s

/-- Who accesses a line: the issuing die, its partition, whether the page is of type STREAM, and what waits for a fill: an LCV
instruction, or an engine, whose fill is delivered in the same step. -/
structure Acc where
  die : Nat
  part : Nat
  strm : Bool
  waiter : Waiter
  deriving DecidableEq, Repr

/-- An engine as the sources of R233 name it, and its die: 1 to 16 the DMA engines, 17 the conversion engine, 18 Sillage, 19 the array
shuttles, 20 the link receivers, 21 the service ports, 0 any other. -/
def engAt (die eng : Nat) : Nat := die + 16 * eng
def engDie (e : Nat) : Nat := e % 16

/-- The producers whose whole-granule writes from clean bytes clear poison: DMA, conversion, slot stores, link puts (R257), and service
ports, whose inbound writes are DMA writes (R365). -/
def clearsPoison (w : Waiter) : Bool :=
  match w with
  | .engine e => e / 16 != 0 && e / 16 != 18
  | _ => false

/-- The LCV instruction that a waiter names. -/
def Waiter.lcv? (w : Waiter) : Option (Nat × Nat × Nat) :=
  match w with
  | .lcv l k i => some (l, k, i)
  | .engine _ => none
  | .red _ _ _ r => r.waiter

/-- The source of a waiter: its loom, or its engine (R233). -/
def Waiter.source (w : Waiter) : Nat :=
  match w with
  | .lcv l _ _ => 1024 + l
  | .engine e => e
  | .red e _ _ _ => e

/-- A waiter's access has been performed. -/
def releaseWaiter (w : Waiter) (s : State) : State :=
  match w.lcv? with
  | some (a, b, c) => lcvRelease a b c s
  | none => s

/-- The state a line takes when its fill or grant arrives: M for a write, but never in a survivor region (R230). -/
def grantState (s : State) (die la : Nat) (forM : Bool) : LineState :=
  if forM && !inSurvivor s (la * 128) then .m else if soleHolder s die la then .e else .s

/-- The open miss registers of a slice. -/
def missRegs (s : State) (die sl : Nat) : List MissReg := tgetD (weaveOf s die).miss sl []

/-- The miss register that is open for a line. -/
def missReg (s : State) (die la : Nat) : Option MissReg := (missRegs s die (laSlice la)).find? (fun m => m.la == la)

/-- Change the miss register of a line. -/
def modMiss (die la : Nat) (f : MissReg → MissReg) (s : State) : State :=
  modWeave die (fun x => { x with miss := tupd x.miss (laSlice la) (fun l => updateFirst l (fun m => m.la == la) f) }) s

/-- An access waits in the input queue of its slice (R232). -/
def holdInput (a : Acc) (la : Nat) (forM : Bool) (s : State) : State :=
  modWeave a.die (fun x => { x with inputq := tmod x.inputq (laSlice la) [] (· ++ [⟨la, a.part, a.strm, forM, a.waiter⟩]) }) s

/-- An access to a line that has an open miss register joins its waiter list, or waits for room in it and is counted (R232). -/
def joinMiss (a : Acc) (la : Nat) (forM : Bool) (s : State) : State :=
  if (missReg s a.die la).any (fun m => m.waiters.length ≥ 64) then
    holdInput a la forM (bumpSat (wvcPage a.die (laSlice la) 0 + Reg.WVC_WAITER_FULL) 1 s)
  else modMiss a.die la (fun m => { m with waiters := m.waiters ++ [a.waiter], forM := m.forM || forM }) s

/-- Does the waiter wait for its fill: an engine's is delivered in the same step. -/
def waits (w : Waiter) : Bool := w.lcv?.isSome

/-- Write bytes of one line for a die (R374): a line that the die holds in M, or that waits to be placed in M, is updated at the home
when it is written back; any other is written through. -/
def cachedWrite (die pa : Nat) (l : List Byte) (s : State) : State :=
  let la := pa / 128
  if lineState s die la == .m || missOpen s die la || (tgetD (weaveOf s die).inputq (laSlice la) []).any (fun x => x.la == la) then lineData pa l s
  else lineWrite pa l s

/-- A RED on one line performed in memory at M. -/
def redInPlace (die la : Nat) (r : RedWait) (s : State) : State :=
  let n := atomBytes r.ty
  let a := la * 128 + r.off
  let s := cachedWrite die a (toBytes n (atomNew r.op r.ty (memNat s a n) r.operand)) s
  if r.poisoned then setPoison (a / 64) true s else s

/-- The REDs in a miss register's waiter list, in order. -/
def waitingReds (l : List Waiter) : List RedWait :=
  l.filterMap (fun w => match w with | .red _ _ _ r => some r | _ => none)

/-- Perform the REDs that wait for a line's fill before a later access of the die to the line is served: at M, in order. -/
def flushReds (die la : Nat) (s : State) : State :=
  match missReg s die la with
  | none => s
  | some m =>
    let rs := waitingReds m.waiters
    if rs.isEmpty then s else
    let s := modMiss die la (fun m => { m with waiters := m.waiters.filter (fun w => match w with | .red _ _ _ _ => false | _ => true) }) (dirM die la s)
    forL rs (fun r s =>
      let s := redInPlace die la r s
      match r.waiter with | some (a, b, c) => lcvRelease a b c s | none => s) s

/-- An access that opens a miss register (R232 to R236): an engine's fill is delivered, and the register closed, in the same step. -/
def openMiss (a : Acc) (la : Nat) (forM : Bool) (s : State) : State :=
  let s := thrashMiss a.die la a.part (bump (wvcPage a.die (laSlice la) 0 + Reg.WVC_MISSES) 1 s)
  let r : Option (Nat × Bool) × State := if a.strm then (none, s) else let x := streamMiss a.die la a.part s; (some x.1, x.2)
  let sw := a.strm || r.1.any (fun x => x.2)
  let by' := r.1.map (fun x => x.1)
  if waits a.waiter then
    modWeave a.die (fun x => { x with miss := tmod x.miss (laSlice la) [] (· ++ [⟨la, a.part, sw, by', forM, [a.waiter]⟩]) }) r.2
  else allocLine a.die la a.part sw by' (grantState r.2 a.die la forM) r.2

/-- A hit: counted, and a stream that allocated the line has its run count reset (R234, R242). -/
def countHit (die la : Nat) (s : State) : State :=
  let s := bump (wvcPage die (laSlice la) 0 + Reg.WVC_HITS) 1 s
  match (lineAt s die la).bind (fun l => l.stream) with
  | some id => streamHit die la id s
  | none => s

/-- Does the die hold the line's data. -/
def holdsData (s : State) (die la : Nat) : Bool :=
  match lineState s die la with
  | .s | .e | .m => true
  | _ => false

/-- An access to one line (R226 to R236). Answers whether the accessor must wait for a fill. -/
def accessLine (a : Acc) (la : Nat) (forM : Bool) (s : State) : Bool × State :=
  if holdsData s a.die la then
    let s := countHit a.die la s
    let s := if forM then dirM a.die la s else s
    let st := if forM then grantState s a.die la true else lineState s a.die la
    let way := (lineAt s a.die la).elim 0 (fun l => l.way)
    (false, modSet a.die la (fun t => { t with tree := treeTouch t.tree way }) (modLine a.die la (fun l => { l with state := st }) s))
  else
    let s := flushReds a.die la s
    let s := if forM then dirM a.die la s else dirRead a.die la s
    (waits a.waiter,
      if missOpen s a.die la then joinMiss a la forM s
      else if (missRegs s a.die (laSlice la)).length ≥ 256 then
        holdInput a la forM (bump (wvcPage a.die (laSlice la) 0 + Reg.WVC_MISS_FULL) 1 s)
      else openMiss a la forM s)

/-- A RED with ADD, MIN or MAX on a line outside survivor regions (R240); one whose line has an open miss register joins its waiter list
and acts on the line as the fill leaves it (R232). Answers whether the RED waits. -/
def reduceLine (a : Acc) (la : Nat) (r : RedWait) (s : State) : Bool × State :=
  let newRo (s : State) : Bool × State :=
    match chooseWay s a.die la a.part a.strm false with
    | none => (false, redInPlace a.die la r (dirM a.die la (if a.strm then s else setPend (wvcPage a.die (laSlice la) 0) 4
        (bumpSat (wvcPage a.die (laSlice la) 0 + Reg.WVC_NO_VICTIM) 1 s))))
    | some _ =>
      let s := allocLine a.die la a.part a.strm none .ro s
      (true, modLine a.die la (fun l => { l with op := r.op, ty := r.ty, waiting := [r] }) s)
  if inSurvivor s (la * 128) then (false, redInPlace a.die la r (dirM a.die la s)) else
  if missOpen s a.die la then (true, joinMiss { a with waiter := .red a.waiter.source a.part a.strm r } la true s) else
  match lineAt s a.die la with
  | none => newRo s
  | some l =>
    if l.pin.isSome then (false, redInPlace a.die la r (accessLine { a with waiter := .engine a.waiter.source } la true s).2) else
    match l.state with
    | .e | .m => (false, redInPlace a.die la r (modLine a.die la (fun l => { l with state := .m }) (countHit a.die la s)))
    | .s => (true, modLine a.die la (fun l => ⟨l.way, l.la, .rd, l.part, l.pin, l.stream, r.op, r.ty, 0, 0, 0, false, false, [r]⟩) (countHit a.die la s))
    | .i => newRo s
    | _ =>
      if l.op == r.op && l.ty == r.ty then
        let s := countHit a.die la s
        if l.acked then (false, modLine a.die la (redApply r.off r.operand r.poisoned) s)
        else (true, modLine a.die la (fun l => { l with waiting := l.waiting ++ [r] }) s)
      else newRo (mergeOut a.die la (settleLine a.die la s))

/-! ## Deliveries -/

/-- Serve an access of a waiter that is no longer held: one that is performed releases its LCV. -/
def serveWaiter (die : Nat) (x : QAccess) (s : State) : State :=
  let r : Bool × State := match x.waiter with
    | .red e part strm w => reduceLine ⟨die, part, strm, match w.waiter with | some (a, b, c) => .lcv a b c | none => .engine e⟩ x.la w s
    | w => accessLine ⟨die, x.part, x.strm, w⟩ x.la x.forM s
  if r.1 then r.2 else releaseWaiter x.waiter r.2

/-- May an access of the input queue go on: its line is held, or its miss register has room, or a register is free (R232). -/
def mayEnter (s : State) (die : Nat) (x : QAccess) : Bool :=
  holdsData s die x.la ||
  (match missReg s die x.la with
    | some m => m.waiters.length < 64
    | none => (missRegs s die (laSlice x.la)).length < 256)

/-- Serve the input queue of a slice in order; what may not go on yet stays (R232). -/
def drainInput (die sl : Nat) (s : State) : State :=
  let q := tgetD (weaveOf s die).inputq sl []
  forL q (fun x s =>
    if mayEnter s die x then serveWaiter die x s
    else modWeave die (fun w => { w with inputq := tmod w.inputq sl [] (· ++ [x]) }) s)
    (modWeave die (fun w => { w with inputq := tdel w.inputq sl }) s)

/-- Deliver a miss register's fill to its waiters (R232, R233): the register closes, the line is placed, each waiter's access is done in
order, and accesses that waited in the input queue go on. (log 40: DEDUCED) -/
def deliverFill (die la : Nat) (s : State) : State :=
  let sl := laSlice la
  match missReg s die la with
  | none => s
  | some m =>
    let s := modWeave die (fun x => { x with miss := tupd x.miss sl (fun l => l.filter (fun m => m.la != la)) }) s
    let s := if m.forM then dirM die la s else dirRead die la s
    let s := allocLine die la m.part m.streamWay m.byStream (grantState s die la m.forM) s
    let s := if m.forM && lineState s die la != .m && m.waiters.length != (waitingReds m.waiters).length then countUpdate (la * 128) s else s
    let sources := (m.waiters.map Waiter.source).eraseDups
    let s := if sources.length > 4 then bump (wvcPage die sl 0 + Reg.WVC_MCAST) 1 s else s
    drainInput die sl (forL m.waiters (fun w s => match w with
      | .red _ part strm _ => serveWaiter die ⟨la, part, strm, true, w⟩ s
      | w => releaseWaiter w s) s)

/-- Complete every registration on which an LCV of the skein waits: a release performs earlier REDs first (R118, R240).
(log 9: DEDUCED) -/
def settleSkein (die loom skein : Nat) (s : State) : State :=
  forL ((weaveOf s die).sets.flatMap (fun t => (t.2.ways.filter (fun l => l.waiting.any (fun w =>
    match w.waiter with | some (a, b, _) => a == loom && b == skein | none => false))).map (fun l => l.la)))
    (fun la s => settleLine die la s)
    (forL ((weaveOf s die).miss.flatMap (fun t => (t.2.filter (fun m => (waitingReds m.waiters).any (fun r =>
      match r.waiter with | some (a, b, _) => a == loom && b == skein | none => false))).map (fun m => m.la)))
      (fun la s => flushReds die la s) s)

/-- Perform what still waits of REDs to the lines of a range on every die (R131). -/
def settleFrames (pa n : Nat) (s : State) : State :=
  let isIn (la : Nat) : Bool := pa ≤ la * 128 && la * 128 < pa + n
  forL (liveDies s) (fun d s =>
    let w := weaveOf s d
    let s := forL (w.sets.flatMap (fun t => (t.2.ways.filter (fun l => isIn l.la && !l.waiting.isEmpty)).map (fun l => l.la)))
      (fun la s => settleLine d la s) s
    let s := forL (w.miss.flatMap (fun t => (t.2.filter (fun m => isIn m.la)).map (fun m => m.la))) (fun la s => flushReds d la s) s
    forL (w.inputq.flatMap (fun t => t.2.filter (fun x => isIn x.la))) (fun x s =>
      let s := modWeave d (fun w => { w with inputq := tupd w.inputq (laSlice x.la) (fun l => removeFirst l (fun y => y == x)) }) s
      releaseWaiter x.waiter (match x.waiter with
        | .red _ _ _ r => redInPlace d x.la r (dirM d x.la s)
        | _ => s)) s) s

/-- The line addresses that a byte range touches, rising. -/
def linesOf (pa n : Nat) : List Nat := if n = 0 then [] else (List.range ((pa + n - 1) / 128 - pa / 128 + 1)).map (fun i => pa / 128 + i)

/-- Read bytes coherently for an engine, whose fills are delivered in the step: the bytes with the poison of their granules. -/
def engRead (a : Acc) (pa n : Nat) (s : State) : List (Byte × Bool) × State :=
  let s := forL (linesOf pa n) (fun la s => (accessLine a la false s).2) s
  ((List.range n).map (fun i => (memByte s.mem (pa + i), poisonedAt s (pa + i))), s)

/-- Write a producer's bytes coherently (R254, R257, R374): granules that a producer of R257 writes whole from clean bytes lose their
poison, a poisoned byte poisons its granule, and a whole checked block, whose cached copies are recalled first, takes a new check word, the carried one
where given. (log 134: DESIGN CHOICE) -/
def engWrite (a : Acc) (pa : Nat) (l : List (Byte × Bool)) (carried : Nat → Option Nat) (s : State) : State :=
  let n := l.length
  let data := l.map (fun b => b.1)
  let whole (b : Nat) : Bool := pa ≤ b * 4096 && b * 4096 + 4096 ≤ pa + n && isChecked s (b * 4096)
  let s := forL (linesOf pa n) (fun la s => if whole (la / 32) then memM la s else (accessLine a la true s).2) s
  let s := if n = 0 then s else forL ((List.range ((pa + n - 1) / 64 - pa / 64 + 1)).map (fun i => pa / 64 + i)) (fun g s =>
    let lo := g * 64
    let part := (l.drop (lo - pa)).take (64 - (pa - lo))
    if part.any (fun b => b.2) then setPoison g true s
    else if clearsPoison a.waiter && pa ≤ lo && lo + 64 ≤ pa + n then setPoison g false s else s) s
  let blocks := if n = 0 then [] else (List.range ((pa + n - 1) / 4096 - pa / 4096 + 1)).map (fun i => pa / 4096 + i)
  forL blocks (fun b s =>
    let lo := max pa (b * 4096)
    let hi := min (pa + n) (b * 4096 + 4096)
    let bytes := (data.drop (lo - pa)).take (hi - lo)
    if whole b then
      let s := { s with mem := memPut s.mem lo bytes }
      chkProduce (b * 4096) ((carried b).getD (crc32c bytes)) s
    else forL (linesOf lo (hi - lo)) (fun la s =>
      let x := max lo (la * 128)
      let y := min hi (la * 128 + 128)
      cachedWrite a.die x ((data.drop (x - pa)).take (y - x)) s) s) s

end Sys2Proof.Machine
end

