-- ==== Sys2Proof/Machine/Access.lean ====
section
/-! DEFINITION. Address translation (R127 to R129), engine accesses to virtual memory, the start of a teardown (R291, R293), entries
written into MSG queues (R277, R282), fault records (R283) and poison kills (R256). -/

namespace Sys2Proof.Machine

/-! ## Pages of a die's engines -/

/-- CTX_ page 0 of a die. -/
def ctxPage (die : Nat) : Nat := pageAddr .ctx die 0 0
/-- QUE_ page 0 of a die. -/
def quePage (die : Nat) : Nat := pageAddr .que die 0 0
/-- SCH_ page 0 of a die. -/
def schPage (die : Nat) : Nat := pageAddr .sch die 0 0
/-- CNV_ page 0 of a die. -/
def cnvPage (die : Nat) : Nat := pageAddr .cnv die 0 0
/-- DMA_ page 0 of an engine. -/
def dmaPage (die eng : Nat) : Nat := pageAddr .dma die eng 0
/-- SIL_ page 0 of a die. -/
def silPage (die : Nat) : Nat := pageAddr .sil die 0 0

/-! ## Translation -/

/-- The kinds of access that a walk checks (R129). -/
inductive Kind where
  | read | write | atomic | fetch
  deriving DecidableEq, Repr

/-- The outcome of a walk: a physical address with its memory type and CHK bit, or a code and subcode; poison has code ZS_POISON
and SUBCODE 0x06 (R129, R256). -/
inductive Xl where
  | ok (pa mt : Nat) (chk : Bool)
  | fail (code sub : Nat)
  deriving DecidableEq, Repr

/-- Shift of the index of a level (R127). -/
def xlShift (l : Nat) : Nat := match l with | 0 => 43 | 1 => 30 | 2 => 21 | _ => 16

/-- Number of entries of a table of a level; L0 is limited by the root (R127). -/
def xlEntries (l : Nat) : Nat := match l with | 0 => 2097152 | 1 => 8192 | 2 => 512 | _ => 32

/-- Does a page of the memory type at the address with that size target what R128 asks. -/
def xlTarget (mt pa size : Nat) : Bool :=
  match mt with
  | 2 => (0x0E0000000000 ≤ pa && pa + size ≤ 0x0E0010000000) || (inControl pa && inControl (pa + size - 1))
  | 3 => 0x100000000000 ≤ pa && pa + size ≤ 0x100000000000 + 32768 * 2 ^ 36
  | _ => pa + size ≤ 8 * dieDram || (0x010000000000 ≤ pa && pa + size ≤ 0x01C000000000)

/-- Is a valid entry malformed at its level (R128). A non-zero reserved bit counts as malformed. (log 31: DEDUCED) -/
def xlMalformed (s : State) (e l : Nat) : Bool :=
  let a := bits e 51 8 * 256
  if bits e 55 52 != 0 then true else
  if bit e 1 then
    l == 0 || (bit e 3 && !bit e 2) || (bit e 4 && bits e 7 6 != 0) || (bit e 5 && bits e 7 6 ≥ 2) ||
      a % 2 ^ xlShift l != 0 || !xlTarget (bits e 7 6) a (2 ^ xlShift l)
  else
    let next := 8 * xlEntries (l + 1)
    l == 3 || bits e 7 2 != 0 || a % next != 0 || !(inDram a && dieLive s (homeDie a))

/-- The check at a leaf, in the order of Table R129: memory type, then permissions. (log 31: DEDUCED) -/
def xlCheck (e l : Nat) (kind : Kind) : Option (Nat × Nat) :=
  let mt := bits e 7 6
  match kind with
  | .atomic => if mt = 2 then some (zsPageFault, 0x40 + l) else if !bit e 3 then some (zsDenied, 0x43) else none
  | .fetch => if mt ≠ 0 then some (zsPageFault, 0x40 + l) else if !bit e 2 then some (zsDenied, 0x40) else if !bit e 4 then some (zsDenied, 0x42) else none
  | .read => if !bit e 2 then some (zsDenied, 0x40) else none
  | .write => if !bit e 3 then some (zsDenied, 0x41) else none

/-- The walk from a table (R129). (log 32: DEDUCED) -/
def xlWalk (s : State) (kind : Kind) (va : Nat) (fuel l tbl : Nat) : Xl :=
  match fuel with
  | 0 => .fail zsPageFault (0x20 + l)
  | f + 1 =>
    let a := tbl + ((va >>> xlShift l) % xlEntries l) * 8
    if poisonedAt s a then .fail zsPoison 0x06 else
    let e := memNat s a 8
    if !bit e 0 then .fail zsPageFault (0x10 + l) else
    if xlMalformed s e l then .fail zsPageFault (0x20 + l) else
    let next := bits e 51 8 * 256
    if bit e 1 then
      match xlCheck e l kind with
      | some (c, u) => .fail c u
      | none => .ok (next + va % 2 ^ xlShift l) (bits e 7 6) (bit e 5)
    else xlWalk s kind va f (l + 1) next

/-- Translate a virtual address of a context (R127 to R129). -/
def translate (s : State) (c va : Nat) (kind : Kind) : Xl :=
  let va := va % 2 ^ 64
  let root := (ctxAt s c).elim 0 (fun x => x.xlatRoot.toNat)
  if (va >>> 43) >>> (root % 32) != 0 then .fail zsPageFault 0x30 else xlWalk s kind va 4 0 (bits root 51 8 * 256)

/-- The level of the leaf that maps an address, from a table of a level on. -/
def leafFrom (s : State) (va fuel l tbl : Nat) : Nat :=
  match fuel with
  | 0 => l
  | f + 1 =>
    let e := memNat s (tbl + ((va >>> xlShift l) % xlEntries l) * 8) 8
    if bit e 1 then l else leafFrom s va f (l + 1) (bits e 51 8 * 256)

/-- The level of the leaf that maps a context's address: the L of SUBCODE 0x4L (R129, R177). -/
def leafLevel (s : State) (c va : Nat) : Nat :=
  leafFrom s va 3 0 (bits ((ctxAt s c).elim 0 (fun x => x.xlatRoot.toNat)) 51 8 * 256)

/-- A run of bytes within one 64 KiB page, translated: virtual and physical address, length, memory type, CHK. -/
structure Piece where
  va : Nat
  pa : Nat
  n : Nat
  mt : Nat
  chk : Bool
  deriving DecidableEq, Repr

/-- Translate a range page by page, in ascending order; the first failure gives its code, subcode and address. -/
def piecesFrom (s : State) (c : Nat) (kind : Kind) (fuel va n : Nat) : Except (Nat × Nat × Nat) (List Piece) :=
  match fuel with
  | 0 => .ok []
  | f + 1 =>
    if n = 0 then .ok [] else
    let k := min n (65536 - va % 65536)
    match translate s c va kind with
    | .fail code sub => .error (code, sub, va % 2 ^ 64)
    | .ok pa mt chk =>
      match piecesFrom s c kind f (va + k) (n - k) with
      | .error e => .error e
      | .ok l => .ok (⟨va % 2 ^ 64, pa, k, mt, chk⟩ :: l)

/-- The pieces of a range. -/
def pieces (s : State) (c : Nat) (kind : Kind) (va n : Nat) : Except (Nat × Nat × Nat) (List Piece) :=
  piecesFrom s c kind (n / 65536 + 2) va n

/-- The DRAM address of a piece; `none` where the address is not backed (R37). -/
def pieceDram (s : State) (p : Piece) : Option Nat :=
  match resolve s p.pa with
  | .dram a => some a
  | _ => none

/-- Split a piece of the alias window into runs within 4 KiB, each in one die's DRAM (R38). -/
def pieceRuns (s : State) (p : Piece) : List (Option Nat × Nat) :=
  if inDram p.pa then [(pieceDram s p, p.n)] else
  let first := min p.n (4096 - p.pa % 4096)
  let rest := (List.range ((p.n - first + 4095) / 4096)).map (fun i =>
    let off := first + i * 4096
    (off, min 4096 (p.n - off)))
  ((0, first) :: rest).filterMap (fun r => if r.2 = 0 then none else
    some ((match resolve s (p.pa + r.1) with | .dram a => some a | _ => none), r.2))

/-- An engine's reader or writer of NORMAL and STREAM memory for a context: its die, and the context's partition. -/
def engAcc (s : State) (eng c : Nat) (strm : Bool) : Acc := ⟨engDie eng, ctxPart s (some c), strm, .engine eng⟩

/-- Read a range of NORMAL and STREAM memory for an engine on a die in a context's virtual memory; DEVICE and LINK pages refuse with
ZS_PAGE_FAULT SUBCODE 0x4L (R177). What else reaches DEVICE pages goes through `gRead`, and link windows have their own requests. -/
def vRead (eng c va n : Nat) (s : State) : Except (Nat × Nat × Nat) (List (Byte × Bool)) × State :=
  match pieces s c .read va n with
  | .error e => (.error e, s)
  | .ok l =>
    match l.find? (fun p => p.mt ≥ 2) with
    | some p => (.error (zsPageFault, 0x40 + leafLevel s c p.va, p.va), s)
    | none =>
      match l.find? (fun p => (pieceRuns s p).any (fun r => r.1.isNone)) with
      | some p => (.error (zsDenied, 0, p.va), s)
      | none =>
        l.foldl (fun (acc : Except (Nat × Nat × Nat) (List (Byte × Bool)) × State) p =>
          (pieceRuns acc.2 p).foldl (fun acc r =>
            let (b, s) := engRead (engAcc acc.2 eng c (p.mt == 1)) (r.1.getD 0) r.2 acc.2
            ((match acc.1 with | .ok x => .ok (x ++ b) | .error e => .error e), s)) acc) (.ok [], s)

/-- Write a range for an engine on a die in a context's virtual memory, every write at package scope; nothing is written where a
page of the range refuses. `carried` gives, by virtual address, the check words that whole checked blocks bring along (R375). -/
def vWriteC (eng c va : Nat) (l : List (Byte × Bool)) (carried : List (Nat × Nat)) (s : State) : Option (Nat × Nat × Nat) × State :=
  match pieces s c .write va l.length with
  | .error e => (some e, s)
  | .ok ps =>
    match ps.find? (fun p => p.mt ≥ 2) with
    | some p => (some (zsPageFault, 0x40 + leafLevel s c p.va, p.va), s)
    | none =>
      match ps.find? (fun p => (pieceRuns s p).any (fun r => r.1.isNone)) with
      | some p => (some (zsDenied, 0, p.va), s)
      | none =>
        let r := ps.foldl (fun (acc : List (Byte × Bool) × State) p =>
          (pieceRuns acc.2 p).foldl (fun acc r =>
            let at' := va + (l.length - acc.1.length)
            let pa := r.1.getD 0
            let word (b : Nat) : Option Nat := (carried.find? (fun x => x.1 + pa == at' + b * 4096)).map (fun x => x.2)
            (acc.1.drop r.2, engWrite (engAcc acc.2 eng c (p.mt == 1)) pa (acc.1.take r.2) word acc.2)) acc) (l, s)
        (none, r.2)

/-- Write a range, every whole block with a check word of its own. -/
def vWrite (eng c va : Nat) (l : List (Byte × Bool)) (s : State) : Option (Nat × Nat × Nat) × State := vWriteC eng c va l [] s

/-- Clean bytes. -/
def clean (l : List Byte) : List (Byte × Bool) := l.map (fun b => (b, false))

/-- The bytes of a read, without their poison. -/
def bare (l : List (Byte × Bool)) : List Byte := l.map (fun b => b.1)

/-! ## The start of a teardown (R291, R293) -/

/-- Drop a context's accepted and submitted ops from an array half. -/
def halfAbandon (c : Nat) (h : ArrayHalf) : ArrayHalf :=
  { h with subs := h.subs.filter (fun x => x.ctx != c), ops := h.ops.filter (fun o => o.ctx != c),
           batch := h.batch.bind (fun b => if b.ctx == c then none else some b),
           weights := h.weights.bind (fun w => if w.ctx == c then none else some w) }

/-- Free a DMA engine's page after its entry ends. -/
def dmaIdle (die eng : Nat) (s : State) : State :=
  setReg (dmaPage die eng + Reg.DMA_CHAN) (setBits (setBits (reg s (dmaPage die eng + Reg.DMA_CHAN)) 31 31 0) 23 12 0xFFF) s

/-- Start or join a teardown (R291): state DRAINING, issue stops, arrays abandon the context's ops, channels issue no more for it,
a preemption save is abandoned (R295). `answer` is a request to answer at its end. -/
def startTeardown (c : Nat) (answer : List (Nat × Nat)) (s : State) : State :=
  match ctxAt s c with
  | none => s
  | some x =>
    match x.teardown with
    | some t => modCtx c (fun x => { x with teardown := some { t with answer := t.answer ++ answer } }) s
    | none =>
      let s := modCtx c (fun x => { x with state := .draining, teardown := some ⟨answer, s.time, false⟩,
                                           dies := tmapv x.dies (fun _ d => { d with tops := 0 }) }) s
      let s := { s with looms := tmapv s.looms (fun _ l => { l with west := halfAbandon c l.west, east := halfAbandon c l.east }) }
      let s := forL (s.dmaRuns.filter (fun r => r.ctx == c)) (fun r s => dmaIdle (r.channel / 4096) r.engine s) s
      { s with dmaRuns := s.dmaRuns.filter (fun r => r.ctx != c),
               channels := tmapv s.channels (fun _ ch => if ch.ctx == c then { ch with running := false } else ch),
               saved := s.saved.filter (fun v => v.ctx != c) }

/-- The drydown source of a block's page (R420): its die, 15 for the PCD, and its class. -/
def pageSource (page : Nat) : Nat × Nat :=
  match pageOf page with
  | none => (15, 12)
  | some p => (p.die, match p.blk with
    | .loom => 1 | .twl => 2 | .acs => 2 | .wvc => 3 | .memc => 4 | .ctx => 5 | .que => 5 | .sch => 5 | .cnv => 11 | .dma => 11
    | .sil => 6 | .rvl => 7 | .rvlDie => 7 | .svp => 8 | .mgp => 8 | .cad => 9 | .rng => 9 | .chk => 10 | .ors => 12 | .pcd => 12
    | .dry => 14 | .bnt => 13 | .clk => 13 | .pwr => 13)

/-- Log a record from the block of a page. -/
def logPage (page code : Nat) (args : List Nat) (s : State) : State :=
  let (die, cls) := pageSource page
  logDry die cls code args s

/-- The context consumed poison (R256): logged, then torn down; no further action during a teardown (R295). -/
def killForPoison (page c sub : Nat) (s : State) : State :=
  match ctxAt s c with
  | none => s
  | some x => if x.teardown.isSome then s else startTeardown c [] (logPage page 0x0033 [c, sub] s)

/-- The context consumed poison in a block that records it on its page (R256). -/
def poisonKill (page c sub : Nat) (s : State) : State := killForPoison page c sub (recErr page c sub zsPoison s)

/-! ## Queues the Zartor writes (R276, R277, R282, R283) -/

/-- Key of a queue in the queue table. -/
def queueKey (h : Word) : Nat := hHome h * 16384 + hSlot h

/-- The live queue that a handle names. -/
def queueOf (s : State) (h : Word) : Option Queue :=
  match tget? s.queues (queueKey h) with
  | some q => if q.handle == h && h != 0 then some q else none
  | none => none

/-- Change a queue. -/
def modQueue (h : Word) (f : Queue → Queue) (s : State) : State := { s with queues := tupd s.queues (queueKey h) f }

/-- A program submits entries to a queue: PROD becomes `p`, and a DMA queue notes the step (R139, R276). (log 64: DEDUCED) -/
def submitTo (p step : Nat) (q : Queue) : Queue :=
  let n := (p + 2 ^ 32 - q.prod) % 2 ^ 32
  { q with prod := p, steps := if q.typ == .dma && n != 0 then q.steps ++ [(n, step)] else q.steps }

/-- The step at which the head entry was submitted. (log 64: DEDUCED) -/
def headStep (q : Queue) : Nat := (q.steps.head?).elim 0 (fun r => r.2)

/-- The runs that are left when the head entry is taken. -/
def stepsLeft (l : List (Nat × Nat)) : List (Nat × Nat) :=
  match l with
  | [] => []
  | (n, st) :: r => if n ≤ 1 then r else (n - 1, st) :: r

/-- Occupancy (R29). -/
def occupancy (q : Queue) : Nat := (q.prod + 2 ^ 32 - q.cons % 2 ^ 32) % 2 ^ 32

/-- Virtual address of the entry at an index (R275). -/
def entryVa (q : Queue) (i : Nat) : Nat := q.ring + (i % q.depth) * 64

/-- Write a 64-byte entry into a MSG queue with room: ZS_OK, or the failure of its ring position, which drops the entry (R277). -/
def msgWrite (h : Word) (entry : List Byte) (s : State) : Nat × Nat × State :=
  match queueOf s h with
  | none => (zsHandleStale, 0, s)
  | some q =>
    match vWrite q.home q.ctx (entryVa q q.prod) (clean entry) s with
    | (none, s) => (zsOk, 0, modQueue h (fun q => { q with prod := (q.prod + 1) % 2 ^ 32 }) s)
    | (some (code, sub, _), s) =>
      let s := recErr (quePage q.home) q.ctx sub code s
      (code, sub, if code = zsPoison then killForPoison (quePage q.home) q.ctx sub s else s)

/-- Is there room in the queue. -/
def hasRoom (s : State) (h : Word) : Bool := (queueOf s h).any (fun q => occupancy q < q.depth)

/-- The 64 bytes of a completion entry (R282). -/
def completion (s : State) (status sub source : Nat) (queue : Word) (id : Nat) (results : List Nat) : List Byte :=
  toBytes 1 1 ++ toBytes 1 status ++ toBytes 1 sub ++ toBytes 1 source ++ zeros 4 ++ toBytes 8 queue.toNat ++ toBytes 8 id ++
    ((results ++ List.replicate (8 - results.length) 0).take 8).flatMap (toBytes 4) ++ toBytes 8 s.time

/-- Count an entry other than a fault record that was discarded. -/
def cplDrop (die : Nat) (s : State) : State := bumpSat (quePage die + Reg.QUE_CPL_DROP) 1 s

/-- Post an entry to the completion queue: discarded where the queue is destroyed (R278-destroy), delayed while it is full (R176,
R277). -/
def postEntry (h : Word) (entry : List Byte) (s : State) : State :=
  if h = 0 then s else
  match queueOf s h with
  | none => cplDrop (hHome h) s
  | some _ =>
    if hasRoom s h && !s.delayed.any (fun d => d.queue == h) then
      match msgWrite h entry s with
      | (st, _, s) => if st = zsOk then s else cplDrop (hHome h) s
    else { s with delayed := s.delayed ++ [⟨h, entry⟩] }

/-- Post a completion entry. -/
def postCompletion (cplQ : Word) (status sub source : Nat) (queue : Word) (id : Nat) (results : List Nat) (s : State) : State :=
  postEntry cplQ (completion s status sub source queue id results) s

/-- The 64 bytes of a fault record (R283). -/
def faultRecord (s : State) (code sub die loom skein pc va active thread : Nat) : List Byte :=
  toBytes 1 2 ++ toBytes 1 code ++ toBytes 1 sub ++ toBytes 1 die ++ toBytes 1 loom ++ toBytes 1 skein ++ zeros 2 ++ toBytes 8 pc ++
    toBytes 8 va ++ toBytes 4 active ++ toBytes 4 thread ++ zeros 24 ++ toBytes 8 s.time

/-- Deliver waiting fault records while FAULT_Q has room (R275, R283); a record whose ring position fails is lost (R277). -/
def deliverFaults (fuel c : Nat) (s : State) : State :=
  match fuel with
  | 0 => s
  | f + 1 =>
    match ctxAt s c with
    | none => s
    | some x =>
      match x.faults with
      | [] => s
      | r :: rest =>
        if x.faultQ = 0 || !hasRoom s x.faultQ then s else
        match msgWrite x.faultQ r s with
        | (st, _, s) =>
          let s := modCtx c (fun x => { x with faults := rest }) s
          deliverFaults f c (if st = zsOk then s else
            modCtxDie c (ofBytes ((r.drop 3).take 1)) (fun d => { d with faultLost := sat32 (d.faultLost + 1) }) s)

/-- Post a fault record to a context from a block of a die (R283). -/
def postFault (c die : Nat) (record : List Byte) (s : State) : State :=
  match ctxAt s c with
  | none => s
  | some x =>
    if x.faults.length ≥ 64 then modCtxDie c die (fun d => { d with faultLost := sat32 (d.faultLost + 1) }) s
    else deliverFaults 65 c (modCtx c (fun x => { x with faults := x.faults ++ [record] }) s)

/-- Post every delayed entry whose queue has room, in order (R176). -/
def postDelayed (s : State) : State :=
  match s.delayed.find? (fun d => hasRoom s d.queue || (queueOf s d.queue).isNone) with
  | none => s
  | some d =>
    let s := { s with delayed := removeFirst s.delayed (fun x => x.queue == d.queue) }
    match queueOf s d.queue with
    | none => cplDrop (hHome d.queue) s
    | some _ =>
      match msgWrite d.queue d.entry s with
      | (st, _, s) => if st = zsOk then s else cplDrop (hHome d.queue) s

end Sys2Proof.Machine
end

