-- ==== Sys2Proof/Machine/Fabric.lean ====
section
/-! DEFINITION. Packets and their way out: the check word (R333), routing (R341 to R345), transmission with credits and replay
(R334, R336, R338 to R340), and requests through outbound windows (R123, R124, R331, R346). -/

namespace Sys2Proof.Machine

/-! ## Operations (R330) -/

def opPut : Nat := 0x01
def opGet : Nat := 0x02
def opAtom : Nat := 0x03
def opRed : Nat := 0x04
def opMsg : Nat := 0x05
def opSil : Nat := 0x06
def opDone : Nat := 0x20
def opData : Nat := 0x21
def opNack : Nat := 0x22
def opMsgAck : Nat := 0x23
def opSilAck : Nat := 0x24

/-- Low virtual channel of an operation's class (R330, R338). -/
def opVc (op : Nat) : Nat := if op ≥ 0x20 then 2 else if op = 0x06 then 4 else if op = 0x05 then 6 else 0

/-- Flits of a packet (R329). -/
def pktFlits (p : Packet) : Nat := divUp (32 + p.body.length) 64

/-- RVL_ die page registers are one for the package; D's copy is read through the lowest live die (R341, R342). -/
def rvlDie (s : State) : Nat := rvlPage ((liveDies s).headD 0)

/-- The package's network position (R341). -/
def position (s : State) : Nat := bits (reg s (rvlDie s + Reg.RVL_POSITION)) 15 0

/-- HOPS set by this package as source (R344). -/
def hopLimit (s : State) : Nat := bits (reg s (rvlDie s + Reg.RVL_POSITION)) 23 16

/-! ## Ports -/

/-- A link port. -/
def portOf (s : State) (k : Nat) : LinkPort := tgetD s.ports k .fresh

/-- Change a link port. -/
def modPort (k : Nat) (f : LinkPort → LinkPort) (s : State) : State := { s with ports := tmod s.ports k .fresh f }

/-- STATE of a port: 0 DOWN, 1 BYPASS, 2 TRAINING, 3 HANDSHAKE, 4 UP (R355). -/
def portState (s : State) (k : Nat) : Nat := bits (reg s (linkPage k + Reg.RVL_PORT_STATE)) 2 0

/-- Is a port live (R343). -/
def portUp (s : State) (k : Nat) : Bool := portState s k == 4

/-- Mask of the ports that are UP. -/
def upMask (s : State) : Nat := listMask ((List.range 36).filter (portUp s))

/-- The link epoch of a port (R335). -/
def portEpoch (s : State) (k : Nat) : Nat := bits (reg s (linkPage k + Reg.RVL_PORT_STATE)) 31 16

/-- F of a port in ticks (R350). -/
def portF (s : State) (k : Nat) : Nat := bits (reg s (linkPage k + Reg.RVL_FLIGHT)) 12 0

/-- The greatest F among the live links (R293, R345). -/
def maxF (s : State) : Nat := ((List.range 36).filter (portUp s)).foldl (fun m k => max m (portF s k)) 0

/-- The port that R343 chooses among a mask of live ports for a source and destination; `none` where R344 stops the packet. -/
def choosePort (s : State) (up src dest : Nat) : Option Nat :=
  let e := tgetD s.routes dest 0
  if !bit e 36 then none else
  let l := (List.range 36).filter (fun k => bit e k && bit up k)
  if l.isEmpty then none else l[crc32c (toBytes 2 src ++ toBytes 2 dest) % l.length]?

/-- Free space of a port's replay buffer in bytes (R336): 2 MiB less the flits of unacknowledged packets. -/
def replayRoom (l : LinkPort) : Nat := 2097152 - (l.replay.foldl (fun n p => n + 64 * pktFlits p) 0)

/-- Credits held for a virtual channel (R339). -/
def creditOf (l : LinkPort) (vc : Nat) : Nat := tgetD l.credits vc 512

/-- The strict order of R340: response, Sillage, message, request; the high channel before the low one. -/
def vcOrder : List Nat := [3, 2, 5, 4, 7, 6, 1, 0]

/-! ## Headers, flits and frames (R326, R327, R329) -/

/-- The four header words of a packet (Table R329). -/
def pktWords (p : Packet) : List Nat :=
  [p.dest + p.src * 2 ^ 16 + p.op * 2 ^ 32 + p.vc * 2 ^ 40 + b2n p.poison * 2 ^ 43 + b2n p.ack * 2 ^ 44 + p.body.length * 2 ^ 45 + p.reserved % 64 * 2 ^ 58,
   p.seq + p.epoch * 2 ^ 24 + p.roleEpoch * 2 ^ 40 + p.hops * 2 ^ 56,
   p.check + p.ctxGen * 2 ^ 32 + p.ctxTag * 2 ^ 56,
   p.ctxSlot + p.epHome * 2 ^ 12 + p.epSlot * 2 ^ 16 + p.epGen * 2 ^ 30 + p.epTag * 2 ^ 54 + p.reserved / 64 * 2 ^ 62]

/-- A packet as bytes: header, body, and zeros to a whole number of flits (R329). -/
def pktBytes (p : Packet) : List Byte :=
  (pktWords p).flatMap (toBytes 8) ++ p.body ++ zeros (64 * pktFlits p - 32 - p.body.length)

/-- The packet that bytes spell (R329): none where LEN is out of range or more than what is there. -/
def pktOf (l : List Byte) : Option Packet :=
  let w0 := bytesAt l 0 8
  let w1 := bytesAt l 8 8
  let w2 := bytesAt l 16 8
  let w3 := bytesAt l 24 8
  let n := bits w0 57 45
  if n > 4144 || 32 + n > l.length then none else
  some ⟨bits w0 15 0, bits w0 31 16, bits w0 39 32, bits w0 42 40, bit w0 43, bit w0 44, bits w1 23 0, bits w1 39 24, bits w1 55 40, bits w1 63 56,
    bits w2 31 0, bits w2 55 32, bits w2 63 56, bits w3 11 0, bits w3 15 12, bits w3 29 16, bits w3 53 30, bits w3 61 54,
    bits w0 63 58 + bits w3 63 62 * 64, (l.drop 32).take n⟩

/-- The header flit of a frame (R327). -/
def frameHeader (ctr epoch phase n : Nat) : List Byte := toBytes 8 ctr ++ toBytes 2 epoch ++ toBytes 1 phase ++ toBytes 1 n ++ zeros 52

/-- The flits of a port's next frame with data flits (R327): header flit in plaintext, encrypted data flits, tag flit. -/
def frameFlits (s : State) (k : Nat) (data : List Byte) : List Byte :=
  let l := portOf s k
  let h := frameHeader l.frameTx (portEpoch s k) l.keyPhase (data.length / 64)
  let c := Config.linkSeal (l.resume.getD 0) l.keyPhase h data
  h ++ (c ++ zeros data.length).take data.length ++ (c.drop data.length ++ zeros 16).take 16 ++ zeros 48

/-- Emit flits in codewords of ten (R326): header bit i is set where flit i is idle, and the reserved bits are 0. -/
def sendCodewords (fuel k : Nat) (flits : List Byte) (s : State) : State :=
  match fuel with
  | 0 => s
  | f + 1 =>
    if flits.isEmpty then s else
    let n := min 10 (flits.length / 64)
    sendCodewords f k (flits.drop 640) (emit (.codeword k (2 ^ 10 - 2 ^ n) (flits.take 640 ++ zeros (64 * (10 - n)))) s)

/-- A frame leaves a port (R327). -/
def sendFrame (k : Nat) (data : List Byte) (s : State) : State :=
  modPort k (fun l => { l with frameTx := l.frameTx + 1 }) (sendCodewords 8 k (frameFlits s k data) s)

/-- Close the open frame while it has 64 data flits (R327). -/
def closeFull (fuel k : Nat) (s : State) : State :=
  match fuel with
  | 0 => s
  | f + 1 =>
    let d := (portOf s k).openData
    if d.length < 4096 then s else closeFull f k (modPort k (fun l => { l with openData := d.drop 4096 }) (sendFrame k (d.take 4096) s))

/-- Flits leave a port (R327): they fill the open frame, and a frame closes at 64. (log 80: DESIGN CHOICE) -/
def sendFlits (k : Nat) (flits : List Byte) (s : State) : State :=
  closeFull 2 k (modPort k (fun l => { l with openData := l.openData ++ flits }) (bump (linkPage k + Reg.RVL_TX_FLITS) (flits.length / 64) s))

/-- Send a control flit (R328). (log 80: DESIGN CHOICE) -/
def sendControl (k kind : Nat) (args : List Nat) (s : State) : State :=
  emit (.control k kind args) (sendFlits k ((Config.controlFlit kind args ++ zeros 64).take 64) s)

/-- Flits of an arrived packet leave the ingress buffer: their credits are owed to the peer (R339). -/
def freeFlits (src : Option (Nat × Nat)) (n : Nat) (s : State) : State :=
  match src with
  | some (k, v) => if k < 36 then modPort k (fun l => { l with owed := tmod l.owed v 0 (· + n) }) s else s
  | none => s

/-- Send a packet on a port now: number, epoch, credits, replay buffer (R334, R336); a packet in transit leaves its ingress buffer. -/
def putOnLink (k : Nat) (x : TxEntry) (s : State) : State :=
  let l := portOf s k
  let n := pktFlits x.pkt
  let p := { x.pkt with seq := l.txSeq, epoch := portEpoch s k }
  let s := modPort k (fun l => { l with txSeq := (l.txSeq + 1) % 2 ^ 24, replay := l.replay ++ [p],
                                        credits := tset l.credits p.vc (creditOf l p.vc - n) }) s
  emit (.packet k p) (sendFlits k (pktBytes p) (freeFlits x.src n s))

/-- The waits of the four classes once a packet of a class takes `n` flit slots (R340). (log 80: DESIGN CHOICE) -/
def waitedAfter (l : LinkPort) (cls n : Nat) : Tab Nat :=
  (List.range 4).filterMap (fun c =>
    if c != cls && l.txq.any (fun x => x.pkt.vc / 2 == c) then some (c, tgetD l.waited c 0 + n) else none)

/-- The packet that a port sends next (R336, R339, R340): a class that has waited for 64 flit slots goes first, then the strict order, of
what credits and the replay buffer allow. (log 80: DESIGN CHOICE) -/
def nextTx (l : LinkPort) : Option TxEntry :=
  (vcOrder.filter (fun v => 64 ≤ tgetD l.waited (v / 2) 0) ++ vcOrder).findSome? (fun v => match l.txq.find? (fun x => x.pkt.vc == v) with
    | some x => if pktFlits x.pkt ≤ creditOf l v && 64 * pktFlits x.pkt ≤ replayRoom l then some x else none
    | none => none)

/-- Send the waiting packets that may go, one after another. -/
def pump (fuel k : Nat) (s : State) : State :=
  match fuel with
  | 0 => s
  | f + 1 =>
    if !portUp s k then s else
    match nextTx (portOf s k) with
    | none => s
    | some x => pump f k (putOnLink k x (modPort k (fun l =>
        { l with txq := removeFirst l.txq (fun y => y == x), waited := waitedAfter l (x.pkt.vc / 2) (pktFlits x.pkt) }) s))

/-- Send what a port's queue may send. -/
def pumpPort (k : Nat) (s : State) : State := pump (portOf s k).txq.length k s

/-- Hand a packet to a port: a DATELINE port moves it to the high channel (R338). -/
def enqueueOn (k : Nat) (src : Option (Nat × Nat)) (p : Packet) (s : State) : State :=
  let p := if bit (reg s (linkPage k + Reg.RVL_PORT_CFG)) 0 && p.vc % 2 == 0 then { p with vc := p.vc + 1 } else p
  pumpPort k (modPort k (fun l => { l with txq := l.txq ++ [⟨src, p⟩] }) s)

/-- Is the flow of a packet held because its chosen port changed less than 2F ago (R345). -/
def flowHeld (s : State) (p : Packet) : Bool :=
  s.routeHolds.any (fun m => choosePort s m p.src p.dest != choosePort s (upMask s) p.src p.dest)

/-- Route a packet that leaves or crosses the package. Answers false where R344 stops it. A packet for the package's own position
waits for its local delivery (R341). -/
def routePkt (arrival : Option Nat) (p : Packet) (s : State) : Bool × State :=
  let src := arrival.map (fun a => (a, p.vc))
  if p.dest = position s then (true, { freeFlits src (pktFlits p) s with loop := s.loop ++ [p] }) else
  match choosePort s (upMask s) p.src p.dest with
  | none => (false, s)
  | some k =>
    if arrival = some k then (false, s)
    else if flowHeld s p then (true, { s with heldPkts := s.heldPkts ++ [(arrival.getD 36, p)] })
    else (true, enqueueOn k src p s)

/-- Count a packet stopped under R344 on a die's page. -/
def countUnreach (die : Nat) (s : State) : State := bumpSat (rvlPage die + Reg.RVL_UNREACH) 1 s

/-- The check word of a packet's body (R333). -/
def pktCheck (body : List Byte) : Nat := crc32c body

/-- A packet of this package (R329, R333, R344). `ctx` and `ep` are the handles whose fields the header carries. -/
def mkPacket (s : State) (dest op : Nat) (ctx ep : Word) (ack : Bool) (roleEpoch : Nat) (poison : Bool) (body : List Byte) : Packet :=
  ⟨dest, position s, op, opVc op, poison, ack, 0, 0, roleEpoch, hopLimit s, pktCheck body, hGen ctx, hTag ctx, hSlot ctx % 4096,
    hHome ep, hSlot ep % 16384, hGen ep, hTag ep, 0, body⟩

/-- The Memory extension (R331). (log 70: DESIGN CHOICE) -/
def memExt (offset : Nat) (issuer : Word) (tag count check atom flags poisonMask : Nat) : List Byte :=
  toBytes 8 offset ++ toBytes 8 issuer.toNat ++ toBytes 4 tag ++ toBytes 4 count ++ toBytes 4 check ++ toBytes 1 atom ++
    toBytes 1 flags ++ zeros 2 ++ toBytes 8 poisonMask

/-- The Response extension (R331). -/
def respExt (tag status sub poisonMask : Nat) : List Byte :=
  toBytes 4 tag ++ toBytes 1 status ++ toBytes 1 sub ++ zeros 2 ++ toBytes 8 poisonMask

/-- The Message extension (R331). -/
def msgExt (issuer : Word) (tag : Nat) : List Byte := toBytes 8 issuer.toNat ++ toBytes 4 tag ++ zeros 4

/-- The Sillage extension (R331). -/
def silExt (pfx : List Byte) (issuer : Word) (attempt fmt tag : Nat) : List Byte :=
  (pfx ++ zeros 32).take 32 ++ toBytes 8 issuer.toNat ++ toBytes 1 attempt ++ toBytes 1 fmt ++ zeros 2 ++ toBytes 4 tag

/-- Send a response to a position for an issuing context (R332): one that R344 stops is only counted. -/
def sendResponse (die dest op : Nat) (issuer : Word) (poison : Bool) (body : List Byte) (s : State) : State :=
  match routePkt none (mkPacket s dest op issuer 0 false 0 poison body) s with
  | (true, s) => s
  | (false, s) => countUnreach die s

/-- Answer a request (R332): a response to its source for its issuing context. -/
def respond (die : Nat) (req : Packet) (issuer : Word) (op tag status sub poisonMask : Nat) (payload : List Byte) (s : State) : State :=
  sendResponse die req.src op issuer (poisonMask != 0) (respExt tag status sub poisonMask ++ payload) s

/-- The issuing context and the request tag that a request, message or segment carries (R331). -/
def pktIssuer (p : Packet) : Word × Nat :=
  if p.op < 0x05 then (BitVec.ofNat 64 (bytesAt p.body 8 8), bytesAt p.body 0x10 4)
  else if p.op = 0x05 then (BitVec.ofNat 64 (bytesAt p.body 0 8), bytesAt p.body 8 4)
  else (BitVec.ofNat 64 (bytesAt p.body 0x20 8), bytesAt p.body 0x2C 4)

/-- Answer a request, message or segment with a failure (R332). -/
def nackPkt (die : Nat) (p : Packet) (status sub : Nat) (s : State) : State :=
  respond die p (pktIssuer p).1 opNack (pktIssuer p).2 status sub 0 [] s

/-- A packet that is stopped under R344: counted, and answered unless it is a response. -/
def unreachable (die : Nat) (p : Packet) (s : State) : State :=
  let s := countUnreach die s
  if p.op < 0x20 then nackPkt die p zsUnreachable 0 s else s

/-! ## Requests through outbound windows -/

/-- Key of a window in the window table. -/
def windowKey (die slot : Nat) : Nat := die * 4096 + slot

/-- The poison mask of payload bytes at an offset (R331): granules counted from the one that holds OFFSET. -/
def poisonMaskOf (offset : Nat) (l : List (Byte × Bool)) : Nat :=
  listMask ((List.range ((offset % 64 + l.length + 63) / 64)).filter (fun g =>
    ((l.drop (g * 64 - offset % 64)).take (if g = 0 then 64 - offset % 64 else 64)).any (fun b => b.2)))

/-- Issue an outbound request and record it (R292, R332). The request fails at once with ZS_UNREACHABLE where R344 stops it: the
answer is the tag and whether it was sent. -/
def fabIssue (req : FabReq) (p : Packet) (s : State) : Bool × State :=
  match routePkt none p s with
  | (true, s) => (true, { s with fabric := s.fabric ++ [req], nextTag := (s.nextTag + 1) % 2 ^ 32 })
  | (false, s) => (false, countUnreach req.die { s with fabric := s.fabric ++ [req], nextTag := (s.nextTag + 1) % 2 ^ 32 })

/-- The outbound window that a fabric-window address names (R123), if it is open and the access of `n` bytes lies in its length. -/
def outWindow (s : State) (die slot off n : Nat) : Except (Nat × Nat) Window :=
  match tget? s.windows (windowKey die slot) with
  | none => .error (zsDenied, 0)
  | some w => if w.inbound then .error (zsDenied, 0) else if off + n > w.length then .error (zsDenied, 0x44) else .ok w

/-- A memory request packet through a window (R331, R346). -/
def windowPacket (s : State) (w : Window) (op off count check atom flags : Nat) (issuer : Word) (payload : List (Byte × Bool)) : Packet :=
  let o := w.base + off
  let m := poisonMaskOf o payload
  mkPacket s w.position op w.remoteCtx w.remoteWin false 0 (m != 0) (memExt o issuer s.nextTag count check atom flags m ++ bare payload)

/-- Count a failure against a window (R126, R347). -/
def windowError (die slot : Nat) (s : State) : State :=
  { s with windows := tupd s.windows (windowKey die slot) (fun w => { w with errors := sat32 (w.errors + 1) }) }

end Sys2Proof.Machine
end

