-- ==== Sys2Proof/Machine/Operands.lean ====
section
/-! DEFINITION. Grelopor operand forms: the fields of an instruction word (R70, R71), what each slot and DST may hold for each
instruction (R72 to R75, R80 to R110), the encoding and alignment checks (R111), and the value of an operand in a thread (R72, R78). -/

namespace Sys2Proof.Machine

/-- A fetched instruction: its word, its literal word (0 where it has none) and its address. -/
structure Ins where
  w : Nat
  lit : Nat
  pc : Nat
  deriving DecidableEq, Repr

/-! ## Fields (R70, R71) -/

def fMajor (w : Nat) : Nat := bits w 63 58
def fDst (w : Nat) : Nat := bits w 57 50
/-- Field of source slot 0, 1 or 2. -/
def fSrc (w i : Nat) : Nat := bits w (49 - 8 * i) (42 - 8 * i)
/-- Kind of source slot 0, 1 or 2 (R71). -/
def fKind (w i : Nat) : Nat := bits w (12 - 2 * i) (11 - 2 * i)
/-- Reuse bit of source slot 0, 1 or 2. -/
def fReuse (w i : Nat) : Bool := bit w (21 - i)
def fPred (w : Nat) : Nat := bits w 25 23
def fPneg (w : Nat) : Bool := bit w 22
def fFunc (w : Nat) : Nat := bits w 18 13
def fMod (w : Nat) : Nat := bits w 6 0

/-- BRA and CALL use the branch layout (R99). -/
def isBranchForm (w : Nat) : Bool := fMajor w == 0x28 || fMajor w == 0x2A

/-- The instruction carries a literal word (R73). -/
def hasLit (w : Nat) : Bool := !isBranchForm w && (fKind w 0 == 2 || fKind w 1 == 2 || fKind w 2 == 2)

/-- Bytes of the instruction (R73). -/
def insLen (w : Nat) : Nat := if hasLit w then 16 else 8

/-! ## Rows of the opcode table -/

/-- The row an instruction word belongs to, MAJOR × 8 plus the sub-operation where FUNC tells rows apart; 0 where it belongs to
none: a reserved MAJOR, or a FUNC that no row of its MAJOR has. -/
def rowOf (w : Nat) : Nat :=
  let m := fMajor w
  let f := fFunc w
  let sub (n k : Nat) : Nat := if k < n then m * 8 + k else 0
  match m with
  | 0x24 => sub 2 f
  | 0x2F => sub 3 f
  | 0x30 => m * 8 + f / 16
  | 0x32 => sub 3 f
  | 0x33 => sub 4 f
  | 0x34 => sub 3 f
  | 0x35 => sub 3 f
  | _ =>
    if (0x01 ≤ m && m ≤ 0x0A) || (0x10 ≤ m && m ≤ 0x16) || m == 0x18 || (0x20 ≤ m && m ≤ 0x23) || (0x28 ≤ m && m ≤ 0x2E) || m == 0x31
    then m * 8 else 0

/-! ## Forms -/

/-- What a source slot takes. -/
inductive Use where
  | none
  | v32
  | v64
  | v128
  /-- CAS of 32 or 16 bits: a register and the next; CAS of 64 bits: a quad (R96). -/
  | cas32
  | cas64
  /-- A predicate, UNI 0x80 to 0x87. -/
  | pred
  /-- A u pair or LIT 0x02 (R101, R108, R109). -/
  | upair
  /-- JOIN's mask: UNI u0 to u63 or LIT 0x00 (R100). -/
  | joinMask
  /-- A fragment of `n` registers, REG only, with its scale register four above its base where `scale` (R103). -/
  | frag (n : Nat) (scale : Bool)
  /-- Eight registers, REG only, or g255 for none (R102, R106). -/
  | accum
  deriving DecidableEq, Repr

/-- What DST names. -/
inductive DstUse where
  | zero
  | g255
  | g (n : Nat)
  | u (n : Nat)
  | p
  deriving DecidableEq, Repr

/-- The form of an instruction word: its slots, DST, whether a FUNC or MOD value is reserved, whether it is uniform (R77), and
whether it is of class LCV (R79). -/
structure Form where
  a : Use
  b : Use
  c : Use
  d : DstUse
  bad : Bool
  uniform : Bool
  lcv : Bool
  deriving DecidableEq, Repr

/-- A form of fixed latency that is not uniform. -/
def mkForm (a b c : Use) (d : DstUse) (bad : Bool) : Form := ⟨a, b, c, d, bad, false, false⟩

/-- A form whose word is reserved. -/
def badForm : Form := mkForm .none .none .none .zero true

/-- Is an INT-class MOD legal (R80): SAT only where allowed, bits 5:3 zero. -/
def intModOk (sat : Bool) (md : Nat) : Bool := (sat || !bit md 2) && bits md 5 3 == 0

/-- Integer forms (R80 to R83). -/
def intForm (maj f md : Nat) : Form :=
  let wide := bit md 1
  let t : Use := if wide then .v64 else .v32
  let n := if wide then 2 else 1
  let d : DstUse := if bit md 6 then .u n else .g n
  let ok := intModOk false md
  match maj with
  | 0x01 => mkForm .none .none .none .zero (f != 0 || md != 0)
  | 0x02 =>
    match f with
    | 0 => mkForm t t .none d (!intModOk true md)
    | 1 => mkForm t t .none d (!intModOk true md)
    | 2 => mkForm t t t d (!intModOk true md)
    | 3 => mkForm t t .none d (!ok)
    | 4 => mkForm t t .none d (!ok)
    | 5 => mkForm t .none .none d (!intModOk true md)
    | 6 => mkForm t .none .none d (!intModOk true md)
    | 8 => mkForm t t .none d (!ok)
    | 9 => mkForm t t .none d (!ok)
    | 10 => mkForm t t .none d (!ok)
    | 11 => mkForm t t .none d (!ok)
    | 12 => mkForm t .none .none d (!ok)
    | _ => badForm
  | 0x03 =>
    if f < 5 then mkForm t .v32 .none d (!ok)
    else if f = 5 then mkForm .v32 .v32 .v32 d (!ok || wide) else badForm
  | 0x04 =>
    match f with
    | 0 => mkForm t t .none d (!ok)
    | 1 => mkForm t t .none d (!ok)
    | 2 => mkForm t t t d (!ok)
    | 3 => mkForm .v32 .v32 .v64 (if bit md 6 then .u 2 else .g 2) (!ok || wide)
    | _ => badForm
  | 0x05 => if f ≤ 5 then mkForm t t .none .p (!ok || bit md 6) else badForm
  | 0x06 =>
    match f with
    | 0 => mkForm t .none .none d (!ok)
    | 1 => mkForm t .none .none d (!ok)
    | 2 => mkForm t .none .none d (!ok)
    | 3 => mkForm t .v32 .v32 d (!ok)
    | 4 => mkForm t t .v32 d (!ok)
    | 5 => mkForm .v32 .v32 .v32 d (!ok || wide)
    | _ => badForm
  | 0x07 => if f = 0 then mkForm t .none .none d (!ok) else if f = 1 then mkForm t t .pred d (!ok) else badForm
  | 0x08 => mkForm .pred .pred .pred .p (bits f 5 2 != 0 || bit md 6)
  | 0x09 =>
    if f < 2 then mkForm .pred .none .none .p (md != 0)
    else if f = 2 then mkForm .pred .none .none (if bit md 6 then .u 1 else .g 1) (bits md 5 0 != 0) else badForm
  | _ =>
    let bad := bit md 2 || bits md 5 3 > 5
    if f = 2 then mkForm t .none .none d bad else if f < 4 then mkForm t .v32 .none d bad else badForm

/-- Floating-point forms (R84, R85, R87, R90, R91). -/
def fpForm (maj f md : Nat) : Form :=
  let bad := bits md 1 0 == 3 || bits md 4 2 > 3 || bit md 6
  let noRnd := bits md 4 2 != 0
  match maj with
  | 0x10 => if f < 2 then mkForm .v32 .v32 .none (.g 1) bad else badForm
  | 0x11 => if f = 0 then mkForm .v32 .v32 .none (.g 1) bad else badForm
  | 0x12 => if f < 3 then mkForm .v32 .v32 .v32 (.g 1) bad else badForm
  | 0x13 => if f < 2 then mkForm .v32 .v32 .none (.g 1) (bad || noRnd)
            else if f < 4 then mkForm .v32 .none .none (.g 1) (bad || noRnd || bit md 5) else badForm
  | 0x14 => if f < 8 then mkForm .v32 .v32 .none .p (bad || noRnd) else badForm
  | 0x15 =>
    let rnd := bits md 4 2
    mkForm .v32 .v32 (if rnd = 4 then .v32 else .none) (.g 1)
      (bits f 5 2 > 0xD || bits f 1 0 * 4 + bits md 6 5 > 0xD || rnd > 4 || bit md 1)
  | 0x16 => mkForm .v32 .none .v32 (.u 1) (f != 0 || bits md 1 0 == 3 || bits md 6 2 != 0)
  | _ => mkForm .v32 .none .none (.g 1) (f > 5 || md != 0)

/-- Words of a load or store width code (R94), and its bytes. -/
def ldWords (wd : Nat) : Nat := match wd with | 5 => 2 | 6 => 4 | _ => 1
def ldBytes (wd : Nat) : Nat := match wd with | 0 => 1 | 1 => 1 | 2 => 2 | 3 => 2 | 4 => 4 | 5 => 8 | _ => 16

/-- A value operand of `n` registers. -/
def valUse (n : Nat) : Use := match n with | 1 => .v32 | 2 => .v64 | _ => .v128

/-- Memory forms (R93 to R98). -/
def memForm (maj f md : Nat) : Form :=
  let space := bits md 6 5
  let order := bits md 4 3
  let scope := bits md 2 0
  let bad := space > 1 || scope > 5 || (space == 1 && scope > 2)
  let addr : Use := if space = 0 then .v64 else .v32
  let lcv (fm : Form) : Form := { fm with lcv := true }
  match maj with
  | 0x20 => let wd := f / 8
            lcv (mkForm addr .v32 .none (.g (ldWords wd)) (bad || f % 8 != 0 || wd > 6 || order > 1))
  | 0x21 => let wd := f / 8
            lcv (mkForm addr .v32 (valUse (ldWords wd)) .g255 (bad || f % 8 != 0 || wd > 6 || !(order == 0 || order == 2)))
  | 0x24 =>
    if f = 0 then lcv (mkForm .none .none .none .zero (bad || space != 0 || order == 0))
    else lcv (mkForm .none .none .none .zero (f != 1 || md != 0))
  | _ =>
    let ty := f / 8
    let op := f % 8
    let n := if ty = 2 || ty = 3 then 2 else 1
    let b := bad || ty > 5 || (3 ≤ op && op ≤ 5 && ty > 3)
    let c : Use := if op = 7 then (if n = 2 then .cas64 else .cas32) else valUse n
    if maj = 0x22 then lcv (mkForm addr .v32 c (.g n) b)
    else lcv (mkForm addr .v32 c .g255 (b || op > 5 || !(order == 0 || order == 2)))

/-- Control forms (R99 to R101). -/
def ctlForm (maj w f md : Nat) : Form :=
  let zeroFields := bits w 49 26 == 0 && bits w 21 19 == 0
  let uni (fm : Form) : Form := { fm with uniform := true }
  match maj with
  | 0x28 => mkForm .none .none .none .zero (!zeroFields)
  | 0x2A => mkForm .none .none .none (.g 2) (!zeroFields)
  | 0x29 => mkForm .v64 .none .none .zero (f != 0 || md != 0)
  | 0x2B => mkForm .v64 .none .none .zero (f != 0 || md != 0)
  | 0x2C => uni (mkForm .joinMask .none .none .zero (f != 0 || md != 0))
  | 0x2D => mkForm .none .none .none .zero (f != 0 || md != 0)
  | 0x2E => uni (mkForm .none .none .none .zero (f != 0 || md != 0))
  | _ => if f = 0 then uni (mkForm .v32 .v32 .upair .zero (md != 0))
         else uni (mkForm .v32 .none .none .zero (f > 2 || md != 0))

/-- Container width of an SKM.MAC format, 0 where it has none (R102). -/
def skmContainer (fmt : Nat) : Nat :=
  match fmt with | 1 => 16 | 2 => 16 | 3 => 8 | 4 => 8 | 5 => 8 | 6 => 8 | 7 => 4 | 8 => 4 | 9 => 2 | _ => 0

/-- Skein matrix forms (R102, R103, R105, R106). -/
def skmForm (maj f md : Nat) : Form :=
  if maj = 0x31 then mkForm (.frag 8 false) .v32 .accum (.g 8) (f != 0 || md != 0) else
  match f / 16 with
  | 0 =>
    let ca := skmContainer (bits md 3 0)
    let sm := bits md 5 4
    mkForm (.frag 4 (sm != 0)) (.frag 4 (sm != 0)) .accum (.g 8)
      (ca == 0 || ca != skmContainer (f % 16) || sm > 2 || bit md 6 || (ca == 16 && sm != 0))
  | 1 => mkForm (.frag 4 false) .none .none (.g 4) (!(f % 16 == 1 || f % 16 == 2) || md != 0)
  | _ => mkForm .v32 .none .none (.g 1) (f % 16 != 0 || md != 0)

/-- Tile, queue, random and check forms (R107 to R110). -/
def tqForm (maj f md : Nat) : Form :=
  let bad := md != 0
  match maj with
  | 0x32 => if f = 0 then ⟨.v32, .none, .none, .g 2, bad, true, true⟩ else ⟨.v64, .none, .none, .g 1, bad || f > 2, true, true⟩
  | 0x33 => ⟨.v32, .upair, if f = 3 then .v32 else .none, .g 1, bad || f > 3, true, true⟩
  | 0x34 =>
    if f = 0 then ⟨.upair, .v32, .none, .g 4, bad, false, true⟩
    else if f = 1 then ⟨.upair, .v32, .none, .zero, bad, true, true⟩
    else ⟨.upair, .none, .none, .g 1, bad || f > 2, true, true⟩
  | _ =>
    if f = 0 then mkForm .v32 .v32 .none (.g 1) bad
    else if f = 1 then mkForm .v32 .v32 .v32 (.g 1) bad
    else ⟨.v64, .none, .none, .g 1, bad || f > 2, true, true⟩

/-- The form of an instruction word (R79 and the chapter's rules). -/
def formOf (w : Nat) : Form :=
  let m := fMajor w
  let f := fFunc w
  let md := fMod w
  if rowOf w = 0 then badForm
  else if m ≤ 0x0A then intForm m f md
  else if m ≤ 0x18 then fpForm m f md
  else if m ≤ 0x24 then memForm m f md
  else if m ≤ 0x2F then ctlForm m w f md
  else if m ≤ 0x31 then skmForm m f md
  else tqForm m f md

/-- The use of a form's slot 0, 1 or 2. -/
def Form.slot (f : Form) (i : Nat) : Use := match i with | 0 => f.a | 1 => f.b | _ => f.c

/-! ## Checks -/

/-- Is a UNI field value that is no u register legal for a 32- or 64-bit operand (R72, R78). -/
def uniValueOk (f : Nat) : Bool := (0x40 ≤ f && f ≤ 0x4E) || (0x80 ≤ f && f ≤ 0x87)

/-- Is a slot's kind and field value legal for its use (R71, R72, R96, R100, R101, R103). (log 120: DESIGN CHOICE) -/
def slotOk (u : Use) (kind f : Nat) (reuse : Bool) : Bool :=
  match u with
  | .none => kind == 0 && f == 0 && !reuse
  | .v32 => (match kind with | 1 => f < 0x40 || uniValueOk f | 2 => f < 2 | _ => true)
  | .v64 => (match kind with | 1 => f < 0x40 || uniValueOk f | 2 => f < 3 | _ => true)
  | .v128 => kind == 0 || (kind == 1 && f < 0x40)
  | .cas32 => kind == 0 || (kind == 1 && (f < 0x40 || uniValueOk f))
  | .cas64 => kind == 0 || (kind == 1 && f < 0x40)
  | .pred => kind == 1 && 0x80 ≤ f && f ≤ 0x87
  | .upair => (kind == 1 && f < 0x40) || (kind == 2 && f == 2)
  | .joinMask => (kind == 1 && f < 0x40) || (kind == 2 && f == 0)
  | .frag _ _ => kind == 0
  | .accum => kind == 0

/-- Is DST legal for its use (R71, R75, R90, R94, R96). -/
def dstOk (d : DstUse) (f : Nat) : Bool :=
  match d with
  | .zero => f == 0
  | .g255 => f == 255
  | .g _ => true
  | .u _ => f < 64
  | .p => f < 8

/-- The encoding check (R111, R112 step 1): the SUBCODE of ZS_ILLEGAL_INSTRUCTION. (log 123: DESIGN CHOICE) -/
def encodingFault (w : Nat) : Option Nat :=
  let fm := formOf w
  if fm.bad || !dstOk fm.d (fDst w) then some 0x01
  else if !isBranchForm w && (List.range 3).any (fun i => !slotOk (fm.slot i) (fKind w i) (fSrc w i) (fReuse w i)) then some 0x01
  else if fm.uniform && (fPred w != 7 || fPneg w) then some 0x03
  else none

/-- A group of registers that an instruction names: uniform or thread registers, the first, how many, and their alignment. -/
structure RegGroup where
  uni : Bool
  base : Nat
  n : Nat
  align : Nat
  deriving DecidableEq, Repr

/-- Registers of a use: count and alignment (R74, R96, R103). -/
def useRegs (u : Use) : Nat × Nat :=
  match u with
  | .v64 => (2, 2) | .v128 => (4, 4) | .cas32 => (2, 1) | .cas64 => (4, 4) | .upair => (2, 2)
  | .frag n sc => (if sc then n + 1 else n, n)
  | .accum => (8, 8)
  | _ => (1, 1)

/-- The registers that a source slot names; none for a literal, an immediate, a system value, a predicate, or SRCC g255 that
means no accumulator input. -/
def slotGroup (w i : Nat) : Option RegGroup :=
  let u := (formOf w).slot i
  let f := fSrc w i
  if u = .none || isBranchForm w then none else
  match fKind w i with
  | 0 => if u = .accum && f = 255 then none else some ⟨false, f, (useRegs u).1, (useRegs u).2⟩
  | 1 => if f < 0x40 then some ⟨true, f, (useRegs u).1, (useRegs u).2⟩ else none
  | _ => none

/-- The registers that DST names. -/
def dstGroup (w : Nat) : Option RegGroup :=
  match (formOf w).d with
  | .g n => some ⟨false, fDst w, n, n⟩
  | .u n => some ⟨true, fDst w, n, n⟩
  | _ => none

/-- The source groups of an instruction. -/
def srcGroups (w : Nat) : List RegGroup := (List.range 3).filterMap (slotGroup w)

/-- Every group that an instruction names. -/
def allGroups (w : Nat) : List RegGroup := srcGroups w ++ (dstGroup w).toList

/-- Is a group aligned and inside its register file (R74, R96, R111). (log 125: DESIGN CHOICE) -/
def groupAligned (g : RegGroup) : Bool := g.base % g.align == 0 && g.base + g.n ≤ (if g.uni then 64 else 256)

/-- A CAS of 32 or 16 bits whose C is a system value or predicate has no register after it (R96). (log 121: DESIGN CHOICE) -/
def casNoNext (w : Nat) : Bool := (formOf w).c == .cas32 && fKind w 2 == 1 && fSrc w 2 ≥ 0x40

/-- The register alignment check (R112 step 2). -/
def alignFault (w : Nat) : Bool := casNoNext w || (allGroups w).any (fun g => !groupAligned g)

/-- Does an instruction name a register beyond the allocation of `gran` granules (R45). -/
def allocFault (w gran : Nat) : Bool :=
  (allGroups w).any (fun g => !g.uni && (List.range g.n).any (fun i => 8 * gran ≤ g.base + i && g.base + i ≤ 254))

/-! ## Values -/

/-- What an instruction's operands are read from. -/
structure Env where
  s : State
  loom : Nat
  skein : Nat
  k : Skein
  /-- The active mask of the issuing group. -/
  mask : Nat
  ins : Ins
  deriving DecidableEq, Repr

/-- A thread register; g255 reads zero (R43). -/
def rdG (k : Skein) (t n : Nat) : Nat := if n = 255 then 0 else (tgetD k.regs (t * 256 + n) 0).toNat

/-- A uniform register. -/
def rdU (k : Skein) (n : Nat) : Nat := (tgetD k.uregs n 0).toNat

/-- A predicate; p7 reads 1 (R75). -/
def rdP (k : Skein) (t p : Nat) : Bool := p == 7 || k.preds.contains (t * 8 + p)

/-- A loom is split (R42). -/
def loomSplit (s : State) (loom : Nat) : Bool := bit (reg s (loomPage loom + Reg.LOOM_CFG)) 0

/-- Is a skein slot of a loom on the east half of a split loom. -/
def onEast (s : State) (loom skein : Nat) : Bool := loomSplit s loom && skein ≥ 32

/-- A system value, 64 bits (R78). -/
def sysValue (e : Env) (t f : Nat) : Nat :=
  match f with
  | 0x40 => t
  | 0x41 => e.skein
  | 0x42 => e.loom
  | 0x43 => e.loom / 32
  | 0x44 => e.k.ctx
  | 0x45 => e.skein / 16
  | 0x46 => b2n (onEast e.s e.loom e.skein)
  | 0x47 => e.mask
  | 0x48 => ctxStep e.s e.k.ctx
  | 0x49 => ctxStep e.s e.k.ctx / 2 ^ 32
  | 0x4A => e.s.time
  | 0x4B => e.s.time / 2 ^ 32
  | 0x4C => cycles e.s
  | 0x4D => cycles e.s / 2 ^ 32
  | _ => 2 ^ t - 1

/-- Consecutive registers from a base as one number, the first least significant. -/
def rdRegs (rd : Nat → Nat) (base n : Nat) : Nat :=
  match n with
  | 0 => 0
  | n + 1 => rd base + 2 ^ 32 * rdRegs rd (base + 1) n

/-- An integer operand of `n` registers in a thread (R72): immediates are sign-extended, literals raw. (log 19: DEDUCED) -/
def src (e : Env) (i n t : Nat) : Nat :=
  let f := fSrc e.ins.w i
  match fKind e.ins.w i with
  | 0 => rdRegs (rdG e.k t) f n
  | 1 =>
    if f < 0x40 then rdRegs (rdU e.k) f n
    else if f < 0x80 then sysValue e t f % 2 ^ (32 * n)
    else b2n (rdP e.k t (f % 8))
  | 2 => (match f with | 0 => e.ins.lit % 2 ^ 32 | 1 => e.ins.lit / 2 ^ 32 % 2 ^ 32 | _ => e.ins.lit)
  | _ => wrap (32 * n) (sext 8 f)

/-- A predicate operand (R72). (log 19: DEDUCED) -/
def srcP (e : Env) (i t : Nat) : Bool := rdP e.k t (fSrc e.ins.w i % 8)

/-- A floating-point operand: an immediate is the integer in the format, in both halves of a packed type (R72). `fmt` is 0 FP32,
2 FP16, 1 BF16 by R86. -/
def srcF (e : Env) (i fmt t : Nat) : Nat :=
  if fKind e.ins.w i = 3 then
    let c := (convert fmt false .rne (dyVal ⟨sext 8 (fSrc e.ins.w i), 0⟩)).code
    if fmt = 0 then c else c * 65537
  else src e i 1 t

/-- The guard of a thread (R76). -/
def guardOf (k : Skein) (w t : Nat) : Bool := rdP k t (fPred w) != fPneg w

/-- The guard that is never true (R76). (log 21: DEDUCED) -/
def neverGuard (w : Nat) : Bool := fPred w == 7 && fPneg w

/-- The active threads whose guard is true, ascending. -/
def guarded (k : Skein) (mask w : Nat) : List Nat := (maskList 32 mask).filter (guardOf k w)

/-! ## Results -/

/-- Write a thread register; g255 discards (R75). -/
def wrG (t n v : Nat) (k : Skein) : Skein :=
  if n = 255 then k else { k with regs := tset k.regs (t * 256 + n) (BitVec.ofNat 32 v) }

/-- Write consecutive thread registers. -/
def wrGs (t base n v : Nat) (k : Skein) : Skein :=
  match n with
  | 0 => k
  | n + 1 => wrGs t (base + 1) n (v / 2 ^ 32) (wrG t base (v % 2 ^ 32) k)

/-- Write consecutive uniform registers. -/
def wrUs (base n v : Nat) (k : Skein) : Skein :=
  match n with
  | 0 => k
  | n + 1 => wrUs (base + 1) n (v / 2 ^ 32) { k with uregs := tset k.uregs base (BitVec.ofNat 32 v) }

/-- Write a predicate; p7 discards (R75). -/
def wrP (t p : Nat) (v : Bool) (k : Skein) : Skein :=
  if p = 7 then k else { k with preds := if v then sinsert k.preds (t * 8 + p) else sdel k.preds (t * 8 + p) }

/-- Write the results of the guarded threads to DST: g registers in each thread, or a uniform register from the lowest-numbered
thread (R75). -/
def wrDst (w n : Nat) (res : List (Nat × Nat)) (k : Skein) : Skein :=
  match (formOf w).d with
  | .u _ => (match res with | r :: _ => wrUs (fDst w) n r.2 k | [] => k)
  | _ => res.foldl (fun k r => wrGs r.1 (fDst w) n r.2 k) k

end Sys2Proof.Machine
end

