-- ==== Sys2Proof/Machine/Verify.lean ====
section
/-! DEFINITION. Verification of checked blocks by the consumers of Table R376 (R376 to R378), reads of several ranges by one
operation, and messages judged at an endpoint (R284, R290). -/

namespace Sys2Proof.Machine

/-! ## Verification -/

/-- A die's CHK_ block. -/
def chkOf (s : State) (die : Nat) : CheckBlk := tgetD s.chk die .empty

/-- Change a die's CHK_ block. -/
def modChk (die : Nat) (f : CheckBlk → CheckBlk) (s : State) : State := { s with chk := tmod s.chk die .empty f }

/-- ZS_CHECK_FAIL detected on a die (R378): counted there and logged; `block` is the failing block's address. ERR_FIRST of the
detecting block's page is left to the operation that fails. -/
def checkFailed (die page c sub : Nat) (block : Option Nat) (s : State) : State :=
  let s := setPend (chkPage die) 4 (bumpSat (chkPage die + Reg.CHK_FAILS) 1 s)
  let off := block.elim 0 (fun pa => dieOff (alignDown pa 4096) + homeDie pa * 2 ^ 60)
  let s := if block.isSome then setReg (chkPage die + Reg.CHK_LAST_FAIL) off s else s
  let s := modChk die (fun k => { k with fails := k.fails + 1, failCtxs := sinsert k.failCtxs c }) s
  let (d, cls) := pageSource page
  logDry d cls 0x0032 [off % 2 ^ 32, off / 2 ^ 32, sub] s

/-- A ZS_CHECK_FAIL that no completion reports stands in ERR_FIRST of the detecting block's page (R378). -/
def checkReported (die page c sub : Nat) (block : Option Nat) (s : State) : State :=
  recErr page c sub zsCheckFail (checkFailed die page c sub block s)

/-- Verify one checked block for an engine on a die (R376, R377): true where it passes or is not verified for poison.
(log 114: DESIGN CHOICE) -/
def verifyBlock (die page c pa : Nat) (s : State) : Bool × State :=
  let b := alignDown pa 4096
  let s := forN 32 (fun i s => dirRead die (b / 128 + i) s) s
  if poisonedRange s b 4096 then (true, bumpSat (chkPage die + Reg.CHK_POISON_SKIP) 1 s) else
  let s := bump (chkPage die + Reg.CHK_VERIFIED) 1 s
  if memNat s (chkWordAddr s b) 4 = chkCompute s b then (true, s) else (false, checkFailed die page c (if page = silPage die then 0 else 1) (some b) s)

/-- The checked blocks of a piece, as physical addresses. -/
def pieceBlocks (s : State) (p : Piece) : List Nat :=
  if p.n = 0 || p.mt ≥ 2 then [] else
  (List.range ((p.pa + p.n - 1) / 4096 - p.pa / 4096 + 1)).filterMap (fun i =>
    match resolve s ((p.pa / 4096 + i) * 4096) with
    | .dram a => if isChecked s a then some a else none
    | _ => none)

/-- Verify blocks in order until one fails. -/
def verifyAll (die page c : Nat) (l : List Nat) (s : State) : Bool × State :=
  l.foldl (fun acc b => if acc.1 then verifyBlock die page c b acc.2 else acc) (true, s)

/-- Translate several ranges in order; the first failure gives its code, subcode and address. -/
def piecesAll (s : State) (c : Nat) (kind : Kind) (rs : List (Nat × Nat)) : Except (Nat × Nat × Nat) (List Piece) :=
  match rs with
  | [] => .ok []
  | r :: rest =>
    match pieces s c kind r.1 r.2 with
    | .error e => .error e
    | .ok l =>
      match piecesAll s c kind rest with
      | .error e => .error e
      | .ok m => .ok (l ++ m)

/-- Read ranges one after another. -/
def vReadList (eng c : Nat) (rs : List (Nat × Nat)) (s : State) : Except (Nat × Nat × Nat) (List (List (Byte × Bool))) × State :=
  match rs with
  | [] => (.ok [], s)
  | r :: rest =>
    match vRead eng c r.1 r.2 s with
    | (.error e, s) => (.error e, s)
    | (.ok b, s) =>
      match vReadList eng c rest s with
      | (.error e, s) => (.error e, s)
      | (.ok l, s) => (.ok (b :: l), s)

/-- Read the source ranges of one operation of a verifying engine (R376): translated in order, each checked block verified once,
then read. -/
def opRead (eng page c : Nat) (rs : List (Nat × Nat)) (s : State) : Except (Nat × Nat × Nat) (List (List (Byte × Bool))) × State :=
  match piecesAll s c .read rs with
  | .error e => (.error e, s)
  | .ok ps =>
    match verifyAll (engDie eng) page c (ps.flatMap (pieceBlocks s)).eraseDups s with
    | (false, s) => (.error (zsCheckFail, 0x01, 0), s)
    | (true, s) => vReadList eng c rs s

/-- Read ranges of one operation that reads in several steps: blocks in `seen` are already verified (R376). -/
def opReadSeen (eng page c : Nat) (rs : List (Nat × Nat)) (seen : List Nat) (s : State) :
    Except (Nat × Nat × Nat) (List (List (Byte × Bool))) × List Nat × State :=
  match piecesAll s c .read rs with
  | .error e => (.error e, seen, s)
  | .ok ps =>
    let blocks := ((ps.flatMap (pieceBlocks s)).eraseDups).filter (fun b => !seen.contains b)
    match verifyAll (engDie eng) page c blocks s with
    | (false, s) => (.error (zsCheckFail, 0x01, 0), seen, s)
    | (true, s) =>
      let r := vReadList eng c rs s
      (r.1, seen ++ blocks, r.2)

/-! ## Messages at an endpoint (R284, R290) -/

/-- The endpoint that a handle names, if it lives. -/
def endpointOf (s : State) (h : Word) : Option Endpoint :=
  (s.endpoints.find? (fun x => x.2.handle == h && h != 0)).map (fun x => x.2)

/-- The entry that a message becomes (R284). -/
def msgEntry (kind epoch pos slot : Nat) (ack : Bool) (msg : List Byte) : List Byte :=
  toBytes 1 kind ++ toBytes 1 (b2n ack) ++ toBytes 2 epoch ++ toBytes 2 pos ++ toBytes 2 (slot % 4096) ++ (msg.drop 8).take 56

/-- Count a packet treated as stale on a die (R294). -/
def countStale (slot die : Nat) (s : State) : State := { s with staleRx := tmod s.staleRx (slot * 8 + die) 0 (fun n => (n + 1) % 2 ^ 64) }

/-- Judge at its endpoint an entry that is to be delivered, or to go to STRAY_Q where the epoch differs (R290): the status that an
acknowledgement carries. -/
def judgeEntry (h : Word) (epoch : Nat) (entry stray : List Byte) (s : State) : Nat × State :=
  match endpointOf s h with
  | none => (zsStaleContext, s)
  | some ep =>
    match ctxAt s ep.ctx with
    | none => (zsStaleContext, s)
    | some x =>
      if x.state != .active then (zsStaleContext, countStale ep.ctx ep.home s) else
      if epoch = ep.epoch then
        if !hasRoom s ep.queue then (zsQueueFull, s) else
        match msgWrite ep.queue entry s with
        | (st, _, s) => (st, if st = zsOk then s else cplDrop ep.home s)
      else if x.strayQ != 0 && hasRoom s x.strayQ then
        match msgWrite x.strayQ stray s with
        | (st, _, s) =>
          if st = zsOk then (zsStaleRole, modCtxDie ep.ctx ep.home (fun d => { d with stray := (d.stray + 1) % 2 ^ 64 }) s)
          else (st, cplDrop ep.home s)
      else (zsStaleRole, modCtxDie ep.ctx ep.home (fun d => { d with strayDrop := sat32 (d.strayDrop + 1) }) s)

/-- Judge a message at its endpoint (R284, R290). -/
def judgeMessage (h : Word) (epoch pos slot : Nat) (ack : Bool) (msg : List Byte) (s : State) : Nat × State :=
  judgeEntry h epoch (msgEntry 3 epoch pos slot ack msg) (msgEntry 4 epoch pos slot ack msg) s

end Sys2Proof.Machine
end

