-- ==== Sys2Proof/Machine/TileDesc.lean ====
section
/-! DEFINITION. Tile-op descriptors: their fields (R171, R172, R193, R194, R221), operand units, extents and addresses (R158, R162
to R165, R178, R179, R493), and the checks at acceptance (R173, R174, R195, R207). -/

namespace Sys2Proof.Machine

/-! ## Fields -/

def dOp (d : List Byte) : Nat := bytesAt d 0 1
def dFmtA (d : List Byte) : Nat := bytesAt d 1 1 % 16
def dFmtB (d : List Byte) : Nat := bytesAt d 1 1 / 16
def dScales (d : List Byte) : Nat := bytesAt d 2 1
/-- Scale modes of A and B, or of a slot store or load under `dModeA`. -/
def dModeA (d : List Byte) : Nat := dScales d % 4
def dModeB (d : List Byte) : Nat := dScales d / 4 % 4
def dSlot (d : List Byte) : Nat := bytesAt d 3 1 % 32
def dFlags (d : List Byte) : Nat := bytesAt d 4 2
def dFlag (d : List Byte) (i : Nat) : Bool := bit (dFlags d) i
/-- M and N. -/
def dM (d : List Byte) : Nat := bytesAt d 6 1 % 128 + 1
def dN (d : List Byte) : Nat := bytesAt d 7 1 % 128 + 1
def dK (d : List Byte) : Nat := bytesAt d 8 2
def dConvC (d : List Byte) : Nat := bytesAt d 0x0A 2
def dSrSeq (d : List Byte) : Nat := bytesAt d 0x0C 4
def dAAddr (d : List Byte) : Nat := bytesAt d 0x10 8
def dAStride (d : List Byte) : Nat := bytesAt d 0x18 4
def dAScale (d : List Byte) : Nat := bytesAt d 0x1C 4
def dBAddr (d : List Byte) : Nat := bytesAt d 0x20 8
def dBStride (d : List Byte) : Nat := bytesAt d 0x28 4
def dBScale (d : List Byte) : Nat := bytesAt d 0x2C 4
def dConvP0 (d : List Byte) : Nat := bytesAt d 0x30 4
def dConvKb (d : List Byte) : Nat := bytesAt d 0x34 4
def dCompletion (d : List Byte) : Word := BitVec.ofNat 64 (bytesAt d 0x38 8)
/-- AMAX_ADDR and SIL_TARGET of a slot store (R193). -/
def dAmax (d : List Byte) : Nat := bytesAt d 0x20 8
def dSil (d : List Byte) : Word := BitVec.ofNat 64 (bytesAt d 0x28 8)

/-- ADD, SR, TRANSPOSE_A or TRANSPOSE, TOPK, CONV, TOKEN_BATCH, SPLIT_HALF, B_KEEP (R172). -/
def dAdd (d : List Byte) : Bool := dFlag d 0
def dSr (d : List Byte) : Bool := dFlag d 1
def dTransA (d : List Byte) : Bool := dFlag d 2
def dTransB (d : List Byte) : Bool := dFlag d 3
def dConv (d : List Byte) : Bool := dFlag d 4
def dBatch (d : List Byte) : Bool := dFlag d 5
def dHalf (d : List Byte) : Bool := dFlag d 6
def dTopk (d : List Byte) : Bool := dFlag d 7
def dKeep (d : List Byte) : Bool := dFlag d 8
/-- TRANSPOSE, CLEAR, STASH, SILLAGE, ZRC of slot stores and loads (R194). -/
def dTrans (d : List Byte) : Bool := dFlag d 3
def dClear (d : List Byte) : Bool := dFlag d 8
def dStash (d : List Byte) : Bool := dFlag d 9
def dSillage (d : List Byte) : Bool := dFlag d 10
def dZrc (d : List Byte) : Bool := dFlag d 11
/-- SATURATE of a slot store (R193). -/
def dSat (d : List Byte) : Bool := bit (dScales d) 2

/-! ## Formats and units -/

/-- The container group of a format (Table R158), 0 outside it. -/
def fmtGroup (f : Nat) : Nat :=
  match f with
  | 1 => 1 | 2 => 1 | 3 => 2 | 4 => 2 | 5 => 2 | 6 => 2 | 7 => 3 | 8 => 4 | 9 => 4 | _ => 0

/-- Products per cell and cycle, p (Table R158). -/
def cellP (f : Nat) : Nat := match fmtGroup f with | 1 => 1 | 2 => 2 | 3 => 4 | 4 => 8 | _ => 1

/-- K_pass of a format. -/
def kPass (f : Nat) : Nat := 128 * cellP f

/-- The scale modes that Table R165 allows for a format. -/
def scaleAllowed (f mode : Nat) : Bool :=
  match f with
  | 1 => mode == 0 | 2 => mode == 0
  | 3 => mode ≤ 2 | 4 => mode ≤ 2
  | 7 => 1 ≤ mode && mode ≤ 3
  | 5 => mode == 1 || mode == 2 | 6 => mode == 1 || mode == 2 | 8 => mode == 1 || mode == 2 | 9 => mode == 1 || mode == 2
  | _ => false

/-- The block size S of a scale mode: 16, 32, or 32 for an FP4X container; 1 for none. -/
def blockSize (mode : Nat) : Nat := match mode with | 0 => 1 | 1 => 16 | _ => 32

/-- The unit U of an operand in bytes (R163). -/
def unitOf (f mode : Nat) : Nat := match mode with | 0 => fmtWidth f / 8 | 3 => 24 | _ => fmtWidth f * blockSize mode / 8

/-- Bytes of a stored row of an operand. -/
def rowBytes (f mode extent : Nat) : Nat := if mode = 3 then extent / 32 * 24 else divUp (extent * fmtWidth f) 8

/-- Is the extent along stored rows whole blocks or containers (R164). -/
def extentOk (mode extent : Nat) : Bool := extent % blockSize mode == 0

/-! ## Convolution (R178, R179) -/

/-- The geometry of a convolution. -/
structure Conv2 where
  ih : Nat
  iw : Nat
  c : Nat
  kh : Nat
  kw : Nat
  sh : Nat
  sw : Nat
  dh : Nat
  dw : Nat
  ph : Nat
  pw : Nat
  deriving DecidableEq, Repr

/-- The geometry that a descriptor gives. -/
def convOf (d : List Byte) : Conv2 :=
  let w := dAScale d
  ⟨bits (dAStride d) 31 16, bits (dAStride d) 15 0, dConvC d, bits w 3 0 + 1, bits w 7 4 + 1, bits w 9 8 + 1, bits w 11 10 + 1,
    bits w 13 12 + 1, bits w 15 14 + 1, bits w 19 16, bits w 23 20⟩

/-- The output height or width: OH or OW (R178), by division rounded down. -/
def convOut (n pad dil k stride : Nat) : Int := ((n : Int) + 2 * pad - dil * (k - 1) - 1) / stride + 1

def convOh (g : Conv2) : Int := convOut g.ih g.ph g.dh g.kh g.sh
def convOw (g : Conv2) : Int := convOut g.iw g.pw g.dw g.kw g.sw

/-- Is the geometry valid (R179). (log 54: DEDUCED) -/
def convValid (d : List Byte) : Bool :=
  let g := convOf d
  let f := dFmtA d
  let m := dModeA d
  let s := blockSize m
  g.ih != 0 && g.iw != 0 && 1 ≤ convOh g && 1 ≤ convOw g && g.c != 0 &&
    (if m = 0 then g.c * fmtWidth f % 16 == 0 else g.c % s == 0) &&
    (m == 0 || (dConvKb d % s == 0 && dK d % s == 0)) && dAAddr d % unitOf f m == 0

/-- The pixel (row, column) and channel of A[m][k], or none for padding (R178). (log 55: DEDUCED) -/
def convPixel (d : List Byte) (m k : Nat) : Option (Nat × Nat × Nat) :=
  let g := convOf d
  let p := (dConvP0 d + m) % 2 ^ 32
  let kk := (dConvKb d + k) % 2 ^ 32
  let c := kk % g.c
  let t := kk / g.c
  let ow := (convOw g).toNat
  if p ≥ (convOh g).toNat * ow || t ≥ g.kh * g.kw then none else
  let ih : Int := (p / ow * g.sh : Nat) - (g.ph : Int) + (t / g.kw * g.dh : Nat)
  let iw : Int := (p % ow * g.sw : Nat) - (g.pw : Int) + (t % g.kw * g.dw : Nat)
  if ih < 0 || ih ≥ g.ih || iw < 0 || iw ≥ g.iw then none else some (ih.toNat, iw.toNat, c)

/-- Bytes of one pixel. (log 55: DEDUCED) -/
def pixelBytes (d : List Byte) : Nat := rowBytes (dFmtA d) (dModeA d) (dConvC d)

/-! ## Slots -/

/-- The array half or whole array that a descriptor's context uses: the lease (R186, R208). -/
def leaseOf (s : State) (loom : Nat) (east : Bool) : Option Lease :=
  if east then (loomOf s loom).leaseEast else (loomOf s loom).leaseWest

/-- Loom halves that a context holds on a die (R285). -/
def halvesHeld (s : State) (die c : Nat) : Nat :=
  ((List.range 32).map (fun i => die * 32 + i)).foldl (fun n loom =>
    match tget? s.looms loom with
    | none => n
    | some l =>
      let w := b2n (l.leaseWest.any (fun x => x.ctx == c))
      n + (if loomSplit s loom then w else 2 * w) + b2n (l.leaseEast.any (fun x => x.ctx == c))) 0

/-- The contexts in slot order that a test admits. -/
def ctxsWhere (s : State) (f : Nat → Bool) : List Nat := (s.ctxs.map (fun x => x.1)).filter f

/-- The virtual times of a die rise for the microseconds since they last did, by the halves that are held (R285): at each evaluation, and
before what is held changes. (log 67: DESIGN CHOICE) -/
def chargeV (die : Nat) (s : State) : State :=
  let us := s.refCount / 100 - tgetD s.schedAt die 0
  let add (c : Nat) (s : State) : State :=
    let w := max 1 ((ctxAt s c).elim 1 (fun x => x.share))
    let h := halvesHeld s die c
    modCtxDie c die (fun d =>
      let n := h * 65536 * us + d.vfrac
      { d with vtime := (d.vtime + n / w) % 2 ^ 64, vfrac := n % w }) s
  let s := forL (ctxsWhere s (fun c => (ctxAt s c).any (fun x => (ctxDie x die).hadWork))) add s
  { s with schedAt := tset s.schedAt die (s.refCount / 100) }

/-- Physical number of a slot that the half's context names (R185). -/
def physSlot (east : Bool) (t : Nat) : Nat := if east then t + 16 else t

/-- A slot's contents. -/
def slotAt (s : State) (loom n : Nat) : AccSlot := tgetD (loomOf s loom).slots n .clear

/-- Change a slot. -/
def putSlot (loom n : Nat) (v : AccSlot) (s : State) : State := modLoom loom (fun l => { l with slots := tset l.slots n v }) s

/-- The context holds the slot on the loom or half (R185, R186). -/
def slotHeld (s : State) (loom : Nat) (east : Bool) (ctx t : Nat) : Bool :=
  (leaseOf s loom east).any (fun x => x.ctx == ctx && t < x.slots)

/-- The slots, as the context names them, that a request names. -/
def slotsNamed (d : List Byte) : List Nat := if dOp d = 1 && dTopk d then [dSlot d, dSlot d + 1] else [dSlot d]

/-- The tag of a slot after a descriptor's op, given the tag before (R187). -/
def tagAfter (d : List Byte) (t : Nat) (tag : Bool) : Bool :=
  if dOp d = 1 then
    if dTopk d then (if t = dSlot d + 1 then true else tag) else if t = dSlot d then false else tag
  else if t ≠ dSlot d then tag
  else if dOp d = 3 then false else if dClear d then false else tag

/-- The requests of the accepted ops of a half that will still act on slots, in acceptance order; a slot store or load that is done has
acted, or failed without acting (R187, R494). -/
def actingReqs (h : ArrayHalf) : List (List Byte) :=
  (h.ops.flatMap (fun o => match o.stage with
    | .refused _ _ => []
    | .done _ _ _ => (o.reqs.filter (fun r => dOp r.desc == 1)).map (fun r => r.desc)
    | _ => o.reqs.map (fun r => r.desc))) ++
    (h.batch.elim [] (fun b => b.reqs.map (fun r => r.desc)))

/-- An array half of a loom. -/
def halfOf (s : State) (loom : Nat) (east : Bool) : ArrayHalf := if east then (loomOf s loom).east else (loomOf s loom).west

/-- Change an array half. -/
def modHalf (loom : Nat) (east : Bool) (f : ArrayHalf → ArrayHalf) (s : State) : State :=
  modLoom loom (fun l => if east then { l with east := f l.east } else { l with west := f l.west }) s

/-- The tag that a slot will hold once every earlier accepted op has completed (R187). -/
def slotTag (s : State) (loom : Nat) (east : Bool) (t : Nat) : Bool :=
  (actingReqs (halfOf s loom east)).foldl (fun tag d => tagAfter d t tag) (slotAt s loom (physSlot east t)).topk

/-! ## Checks at acceptance (R173) -/

/-- The first of a list of conditions that holds, with its code and subcode. -/
def firstOf (l : List (Bool × Nat × Nat)) : Option (Nat × Nat) := (l.find? (fun c => c.1)).map (fun c => c.2)

/-- ZS_BAD_DESCRIPTOR with a subcode. -/
def badDesc (c : Bool) (sub : Nat) : Bool × Nat × Nat := (c, zsBadDescriptor, sub)

/-- Steps 1 to 4 for an MMA, with the reserved flag bits given: opcode, reserved fields, formats, M, N and K. -/
def mmaShape (d : List Byte) (flagBits : Nat) : List (Bool × Nat × Nat) :=
  let fa := dFmtA d
  let fb := dFmtB d
  [ badDesc (dScales d / 16 != 0 || bits (bytesAt d 3 1) 7 5 != 0 || dFlags d &&& (0xFFFF - flagBits) != 0 ||
      bit (bytesAt d 6 1) 7 || bit (bytesAt d 7 1) 7) 0x02,
    badDesc (fmtGroup fa == 0 || fmtGroup fa != fmtGroup fb || !scaleAllowed fa (dModeA d) || !scaleAllowed fb (dModeB d)) 0x03,
    badDesc (dK d == 0 || dK d > kPass fa) 0x04 ]

/-- Step 9 for the operands of an MMA or comparison: addresses and strides, then extents (R163, R164). -/
def mmaLayout (d : List Byte) (conv : Bool) : List (Bool × Nat × Nat) :=
  let ua := unitOf (dFmtA d) (dModeA d)
  let ub := unitOf (dFmtB d) (dModeB d)
  let ea := if dTransA d then dM d else dK d
  let eb := if dTransB d then dN d else dK d
  [ badDesc (!conv && (dAAddr d % ua != 0 || dAStride d % ua != 0 || (dModeA d == 3 && dAScale d != 0))) 0x05,
    badDesc (dBAddr d % ub != 0 || dBStride d % ub != 0 || (dModeB d == 3 && dBScale d != 0)) 0x05,
    badDesc ((!conv && !extentOk (dModeA d) ea) || !extentOk (dModeB d) eb) 0x04 ]

/-- Steps 7 and 8 that every opcode shares: SPLIT_HALF against the loom, and the slot. -/
def halfAndSlot (s : State) (loom : Nat) (east : Bool) (ctx : Nat) (d : List Byte) : List (Bool × Nat × Nat) :=
  [ badDesc (dHalf d != loomSplit s loom || (dHalf d && dN d > 64)) 0x09,
    badDesc (!slotHeld s loom east ctx (dSlot d)) 0x06 ]

/-- The checks of an MMA from step 2. (log 56: DEDUCED) -/
def mmaChecks (s : State) (loom : Nat) (east : Bool) (ctx : Nat) (d : List Byte) : Option (Nat × Nat) :=
  let conv := dConv d
  let t := dSlot d
  firstOf (
    (mmaShape d 0x01FF).take 1 ++
    [ badDesc (if conv then bits (dAScale d) 31 24 != 0 else dConvC d != 0 || dConvP0 d != 0 || dConvKb d != 0) 0x02 ] ++
    (mmaShape d 0x01FF).drop 1 ++
    [ badDesc ((conv && (dTransA d || dBatch d)) || (dBatch d && dTransA d)) 0x07,
      badDesc (dTopk d && (dSr d || t % 2 == 1)) 0x07,
      badDesc (conv && !convValid d) 0x08 ] ++
    halfAndSlot s loom east ctx d ++
    [ badDesc (dTopk d && !slotHeld s loom east ctx (t + 1)) 0x06,
      badDesc (!dTopk d && slotTag s loom east t) 0x06,
      badDesc (dTopk d && dAdd d && slotTag s loom east t) 0x06 ] ++
    mmaLayout d conv)

/-- Formats and scale modes of a slot store (R493, R200, R198) or load. -/
def moveFormatOk (d : List Byte) : Bool :=
  let f := dFmtA d
  let m := dModeA d
  (f == 0 && m == 0) || (scaleAllowed f m && (dOp d == 3 || m != 3))

/-- Frames of a stash segment that always suffice for `blocks` blocks (R202). -/
def stashFrames (blocks f s : Nat) (zrc : Bool) : Nat := divUp blocks (4080 / (s * fmtWidth f / 8 + (if zrc then 2 else 1)))

/-- Stored rows and their extent in a slot store or load (R194). -/
def moveRows (d : List Byte) : Nat := if dTrans d then dN d else dM d
def moveExtent (d : List Byte) : Nat := if dTrans d then dM d else dN d

/-- The checks of a slot store or load from step 2 (R193 to R195, R202, R207, R493). (log 56: DEDUCED) -/
def moveChecks (s : State) (loom : Nat) (east : Bool) (ctx : Nat) (d : List Byte) : Option (Nat × Nat) :=
  let store := dOp d == 2
  let f := dFmtA d
  let m := dModeA d
  let u := unitOf f m
  let topk := slotTag s loom east (dSlot d)
  let plain := !(dStash d) && !(dSillage d)
  firstOf (
    [ badDesc (bytesAt d 1 1 / 16 != 0 || dScales d / (if store then 8 else 4) != 0 || bits (bytesAt d 3 1) 7 5 != 0 ||
        dFlags d &&& 0xF0B4 != 0 || bit (bytesAt d 6 1) 7 || bit (bytesAt d 7 1) 7 || bytesAt d 8 4 != 0 || bytesAt d 0x30 8 != 0 ||
        (!store && (dAmax d != 0 || dSil d != 0)) || (store && !(dSillage d) && dSil d != 0) || (!plain && dAScale d != 0)) 0x02,
      badDesc (!moveFormatOk d) 0x03,
      badDesc (if store then dAdd d else dClear d || dStash d || dSillage d || dZrc d) 0x07,
      badDesc (store && ((dZrc d && !(dStash d)) || (dStash d && dSillage d))) 0x07,
      badDesc (dSillage d && !(((f == 0 || f == 1) && m == 0) || ((f == 4 || f == 5) && (m == 1 || m == 2)))) 0x07,
      badDesc (dStash d && !(3 ≤ f && f ≤ 9 && (m == 1 || m == 2))) 0x07,
      (store && dSat d && !ctxCap s ctx 0, zsDenied, 0x33) ] ++
    halfAndSlot s loom east ctx d ++
    [ badDesc (store && topk && !(f == 0 && m == 0 && dN d == 16 && !(dSr d) && !(dTrans d) && plain && dAmax d == 0)) 0x07,
      badDesc (!store && dAdd d && topk) 0x06,
      badDesc (plain && (dAAddr d % u != 0 || dAStride d % u != 0 || (m == 3 && dAScale d != 0))) 0x05,
      badDesc (store && dAmax d % 4 != 0) 0x05,
      badDesc (dStash d && (dAAddr d % 4096 != 0 || dAStride d < stashFrames (moveRows d * moveExtent d / blockSize m) f (blockSize m) (dZrc d))) 0x05,
      badDesc (!extentOk m (moveExtent d)) 0x04 ])

/-- The type of the queue that a judged queue handle names. -/
def queueTypeOf (s : State) (h : Word) : Option QType := (queueOf s h).map (fun q => q.typ)

/-- Judge a handle that must name a queue of one type: its status of R25, or ZS_DENIED with SUBCODE 0x81 (R173, R274). -/
def judgeQueue (s : State) (ctx : Nat) (h : Word) (t : QType) : Option (Nat × Nat) :=
  let st := judgeHandle s (ctxHandle s ctx) h 2
  if st ≠ zsOk then some (st, 0) else if queueTypeOf s h != some t then some (zsDenied, 0x81) else none

/-- Step 10: COMPLETION (R173). -/
def completionCheck (s : State) (ctx : Nat) (d : List Byte) : Option (Nat × Nat) :=
  if dCompletion d = 0 then none else judgeQueue s ctx (dCompletion d) .msg

/-- Steps 1 to 9 (R173), and SIL_TARGET (R199). (log 56: DEDUCED) -/
def acceptChecks (s : State) (loom : Nat) (east : Bool) (ctx : Nat) (d : List Byte) : Option (Nat × Nat) :=
  match dOp d with
  | 1 => mmaChecks s loom east ctx d
  | 2 =>
    (match moveChecks s loom east ctx d with
      | some e => some e
      | none => if dSillage d then judgeQueue s ctx (dSil d) .collective else none)
  | 3 => moveChecks s loom east ctx d
  | _ => some (zsBadDescriptor, 0x01)

/-- The descriptor as it is kept: without a COMPLETION that fails step 10, so that no entry is posted. -/
def keptDesc (s : State) (ctx : Nat) (d : List Byte) : List Byte :=
  if (completionCheck s ctx d).isSome then putBytes d 0x38 (zeros 8) else d

end Sys2Proof.Machine
end

