-- ==== Sys2Proof/Machine/Issue.lean ====
section
/-! DEFINITION. How a thread group issues: readiness (R52, R53, R57), fetch (R113, R129), the checks of R112, the reuse cache and
bank rule (R44 to R48), exits and barriers (R60 to R64), JOIN (R55, R56), and loom faults (R68, R270). -/

namespace Sys2Proof.Machine

/-! ## Groups -/

/-- The group that holds a thread. -/
def groupOf (k : Skein) (t : Nat) : Option Group := k.groups.find? (fun g => bit g.mask t)

/-- Change the group with a mask. -/
def modGroup (mask : Nat) (f : Group → Group) (k : Skein) : Skein :=
  { k with groups := updateFirst k.groups (fun g => g.mask == mask) f }

/-- Release every group of a skein that waits at a JOIN address as one group (R55). (log 22: DEDUCED) -/
def joinMerge (addr : Nat) (k : Skein) : Skein :=
  let atJoin (g : Group) : Bool := match g.wait with | .join a _ _ => a == addr | _ => false
  match k.groups.filter atJoin with
  | [] => k
  | g :: rest =>
    { k with groups := k.groups.filter (fun x => !atJoin x) ++ [⟨rest.foldl (fun m x => m ||| x.mask) g.mask, g.pc, .none⟩] }

/-- The threads waiting at a JOIN address. -/
def joinWaiting (addr : Nat) (k : Skein) : Nat :=
  k.groups.foldl (fun m g => match g.wait with | .join a _ _ => if a = addr then m ||| g.mask else m | _ => m) 0

/-- Merge at every JOIN where a waiting group's expected threads have all arrived or exited (R55). (log 22: DEDUCED) -/
def joinCheck (k : Skein) : Skein :=
  k.groups.foldl (fun k g =>
    match g.wait with
    | .join addr expected _ =>
      if expected &&& (joinWaiting addr k ||| k.exited) == expected then joinMerge addr k else k
    | _ => k) k

/-! ## Barriers -/

/-- The group waits at a barrier. -/
def waitsAt (b : Nat) (g : Group) : Bool := match g.wait with | .bar x _ => x == b | _ => false

/-- Release the groups that wait at a barrier (R61). -/
def barRelease (loom b : Nat) (s : State) : State :=
  modLoom loom (fun l => { l with skeins := tmapv l.skeins (fun _ k =>
    { k with groups := k.groups.map (fun g => if waitsAt b g then { g with wait := .none } else g) }) }) s

/-- The completion rule: A = E releases every waiting thread, A returns to 0 and E to N (R61). -/
def barCheck (loom b : Nat) (s : State) : State :=
  match tget? (loomOf s loom).barriers b with
  | none => s
  | some r =>
    if r.a = r.e then
      barRelease loom b (modLoom loom (fun l => { l with barriers := tset l.barriers b { r with a := 0, e := r.n, arrived := [] } }) s)
    else s

/-- A thread of a skein exits: each initialised barrier that enrols the skein is visited (R62). -/
def barExit (loom skein t : Nat) (s : State) : State :=
  forL (loomOf s loom).barriers (fun p s =>
    if !bit p.2.enrolled skein then s else
    let s := modLoom loom (fun l => { l with barriers := tupd l.barriers p.1 (fun r =>
      if r.arrived.contains (skein * 32 + t) then { r with n := r.n - 1 } else { r with n := r.n - 1, e := r.e - 1 }) }) s
    barCheck loom p.1 s) s

/-! ## Exit -/

/-- Drop the reuse entries of a skein (R48). -/
def reuseDrop (loom skein : Nat) (s : State) : State :=
  modLoom loom (fun l => { l with reuse := tmapv l.reuse (fun _ es => es.filter (fun e => e.skein != skein)) }) s

/-- A context's hold on a loom or half ends with its last skein and its last accepted op: the slots are released (R186). -/
def releaseLease (loom : Nat) (east : Bool) (s : State) : State :=
  let l := loomOf s loom
  let h := if east then l.east else l.west
  if l.skeins.any (fun x => onEast s loom x.1 == east) || !h.ops.isEmpty || !h.subs.isEmpty || h.batch.isSome then s else
  let mine (n : Nat) : Bool := if loomSplit s loom then (n ≥ 16) == east else true
  let s := chargeV (loom / 32) s
  modLoom loom (fun l => { l with slots := l.slots.filter (fun x => !mine x.1),
                                  leaseWest := if east then l.leaseWest else none, leaseEast := if east then none else l.leaseEast }) s

/-- A skein whose threads have all exited, with nothing outstanding, leaves its slot (R41, R279). -/
def skeinFinish (loom skein : Nat) (s : State) : State :=
  match tget? (loomOf s loom).skeins skein with
  | none => s
  | some k =>
    if k.exited != 0xFFFFFFFF || !k.lcvs.isEmpty then s else
    let s := reuseDrop loom skein (modLoom loom (fun l => { l with skeins := tdel l.skeins skein }) s)
    releaseLease loom (onEast s loom skein) { s with dispatches := tupd s.dispatches k.dispatch (fun d =>
        { d with left := d.left - 1, halted := if k.faulted then d.halted + 1 else d.halted }) }

/-- Threads end (R100, R62): they leave their groups, barriers and JOINs are evaluated, and failures recorded against them go to
the context (R126). -/
def exitThreads (loom skein mask : Nat) (s : State) : State :=
  match tget? (loomOf s loom).skeins skein with
  | none => s
  | some k =>
    let gone := maskList 32 (mask - (mask &&& k.exited))
    let s := modSkein loom skein (fun k =>
      { k with exited := k.exited ||| mask,
               groups := (k.groups.map (fun g => { g with mask := g.mask - (g.mask &&& mask) })).filter (fun g => g.mask != 0),
               putFails := k.putFails.filter (fun p => !gone.contains p.thread) }) s
    let s := forL (k.putFails.filter (fun p => gone.contains p.thread)) (fun p s =>
      postFault k.ctx (loom / 32) (faultRecord s p.code 0x11 (loom / 32) loom skein 0 0 (2 ^ p.thread) p.thread) s) s
    let s := forL gone (fun t s => barExit loom skein t s) s
    skeinFinish loom skein (modSkein loom skein joinCheck s)

/-! ## Loom faults (R68, R270) -/

/-- Whether an LCV instruction is a QUE.WAIT or a TILE.WAIT. (log 23: DEDUCED) -/
def isWait (l : Lcv) : Bool :=
  match l.wait with
  | .queue _ _ | .tile _ => true
  | _ => false

/-- Halt every thread of a skein. Its threads count as exited (R270), and its QUE.WAIT and TILE.WAIT instructions end with no entry
taken and no status returned, so that the dispatch can complete (R279). (log 23: DEDUCED) -/
def haltSkein (loom skein : Nat) (s : State) : State :=
  match tget? (loomOf s loom).skeins skein with
  | none => s
  | some k =>
    let tx := ((k.lcvs.filter isWait).map (fun l => l.tx)).sum
    let s := modCtxDie k.ctx (loom / 32) (fun d => { d with memtx := d.memtx - tx }) s
    exitThreads loom skein 0xFFFFFFFF
      (modSkein loom skein (fun k => { k with faulted := true, lcvs := k.lcvs.filter (fun l => !isWait l) }) s)

/-- Skeins of a loom that a test admits. -/
def skeinsWhere (s : State) (loom : Nat) (p : Nat → Skein → Bool) : List Nat :=
  ((loomOf s loom).skeins.filter (fun x => p x.1 x.2)).map (fun x => x.1)

/-- A loom fault (R68): recorded on the loom's page with the interrupt source bit, a fault record posted, and the threads halted
that the rule and the context's fault policy name. `domain` are the skeins that the fault itself halts. -/
def loomFault (loom skein : Nat) (domain : List Nat) (code sub src pc va active thread : Nat) (s : State) : State :=
  match tget? (loomOf s loom).skeins skein with
  | none => s
  | some k =>
    let die := loom / 32
    let s := setPend (loomPage loom) (2 ^ src) (recErr (loomPage loom) k.ctx sub code s)
    let s := postFault k.ctx die (faultRecord s code sub die loom skein pc va active thread) s
    let policy := bits ((ctxAt s k.ctx).elim 0 (fun x => x.mode)) 3 2
    let s := forL domain (fun x s => haltSkein loom x s) s
    match policy with
    | 1 => forL (skeinsWhere s loom (fun _ x => x.ctx == k.ctx && x.dispatch == k.dispatch)) (fun x s => haltSkein loom x s) s
    | 2 => startTeardown k.ctx [] s
    | _ => s

/-- A loom fault of one skein at an instruction (Table R111): INT_PEND source bit 4. -/
def insFault (e : Env) (code sub va thread : Nat) (s : State) : State :=
  loomFault e.loom e.skein [e.skein] code sub 4 e.ins.pc va e.mask thread s

/-- A request of a thread met poison (R256): a loom fault with ZS_POISON, and the context is torn down. -/
def poisonFault (e : Env) (sub va thread : Nat) (s : State) : State :=
  killForPoison (loomPage e.loom) e.k.ctx sub (insFault e zsPoison sub va thread s)

/-- A failed translation of a thread's access (R129): poison met by the walk is consumed by the context. -/
def xlFault (e : Env) (code sub va thread : Nat) (s : State) : State :=
  if code = zsPoison then poisonFault e sub va thread s else insFault e code sub va thread s

/-! ## Reuse cache and banks (R44 to R48) -/

/-- The register that a slot names, whose read the reuse cache may serve: a g register other than g255. Of a slot of several registers it
is the first. -/
def reuseReg (w i : Nat) : Option Nat :=
  match slotGroup w i with
  | some g => if !g.uni && g.base != 255 then some g.base else none
  | none => none

/-- The reuse entries of a quadrant's source slot. (log 26: DESIGN CHOICE) -/
def reuseOf (s : State) (loom quad i : Nat) : List ReuseEntry := tgetD (loomOf s loom).reuse (quad * 3 + i) []

/-- A slot's read hits (R47). (log 26: DESIGN CHOICE) -/
def reuseHit (s : State) (loom skein w mask i : Nat) : Bool :=
  match reuseReg w i with
  | none => false
  | some r => (reuseOf s loom (skein / 16) i).any (fun e => e.skein == skein && e.reg == r && mask &&& e.lanes == mask)

/-- Reads of a bank after hits (R44). -/
def bankReads (s : State) (loom skein w mask b : Nat) : Nat :=
  (List.range 3).countP (fun i => match slotGroup w i with
    | some g => !g.uni && g.base != 255 && g.base % 4 == b && !reuseHit s loom skein w mask i
    | none => false)

/-- The threads whose reuse values a read changes: the active ones, of an SKM instruction the participating ones (R46, R59). -/
def reuseThreads (e : Env) : List Nat := if fMajor e.ins.w / 2 = 0x18 then guarded e.k e.mask e.ins.w else maskList 32 e.mask

/-- The entry list of a slot after an instruction's read (R46): a hit or a fill makes its entry the most recently used. An SKM
instruction leaves the values of other threads in the entry as they are (R59). (log 26: DESIGN CHOICE) -/
def reuseAfter (e : Env) (i : Nat) (es : List ReuseEntry) : List ReuseEntry :=
  match reuseReg e.ins.w i with
  | none => es
  | some r =>
    let old := es.find? (fun x => x.skein == e.skein && x.reg == r)
    let others := es.filter (fun x => !(x.skein == e.skein && x.reg == r))
    let ts := reuseThreads e
    let kept := if fMajor e.ins.w / 2 = 0x18 then
      old.elim [] (fun x => x.vals.filter (fun v => bit x.lanes v.1 && !ts.contains v.1)) else []
    let fresh : ReuseEntry := ⟨e.skein, r, listMask (ts ++ kept.map (fun v => v.1)),
      ts.map (fun t => (t, BitVec.ofNat 32 (rdG e.k t r))) ++ kept⟩
    match old with
    | some x => if fReuse e.ins.w i then others ++ [fresh] else if e.mask &&& x.lanes == e.mask then others ++ [x] else es
    | none => if fReuse e.ins.w i then (if es.length < 2 then es else es.drop 1) ++ [fresh] else es

/-- Drop the entries of registers that an instruction or completion writes (R48). -/
def reuseWrite (loom skein : Nat) (regs : List Nat) (s : State) : State :=
  if regs.isEmpty then s else
  modLoom loom (fun l => { l with reuse := tmapv l.reuse (fun _ es => es.filter (fun x => !(x.skein == skein && regs.contains x.reg))) }) s

/-- The thread registers that an instruction's DST names. -/
def dstRegs (w : Nat) : List Nat :=
  match dstGroup w with
  | some g => if g.uni then [] else (List.range g.n).map (fun i => g.base + i)
  | none => []

/-- Reuse-cache and bank effects of an executing instruction. -/
def operandRead (e : Env) (s : State) : State :=
  let w := e.ins.w
  let hits := (List.range 3).countP (reuseHit s e.loom e.skein w e.mask)
  let s := if hits = 0 then s else bump (loomPage e.loom + Reg.LOOM_REUSE_HIT) hits s
  let stall := (List.range 4).any (fun b => bankReads e.s e.loom e.skein w e.mask b ≥ 3)
  let s := if stall then bump (loomPage e.loom + Reg.LOOM_BANK_STALL) 1 s else s
  let touched := (List.range 3).filter (fun i => (reuseReg w i).isSome)
  let s := forL touched (fun i s => modLoom e.loom (fun l => { l with reuse := tmod l.reuse (e.skein / 16 * 3 + i) [] (reuseAfter e i) }) s) s
  reuseWrite e.loom e.skein (dstRegs w) s

/-! ## Issue -/

/-- The preemption state of the half on which a skein runs (R66). -/
def preemptOf (s : State) (loom skein : Nat) : Preempt :=
  if onEast s loom skein then (loomOf s loom).preemptEast else (loomOf s loom).preemptWest

/-- May the loom issue for a skein at all (R57, R66, R210, R293, R382). (log 17: DESIGN CHOICE) -/
def mayIssue (s : State) (loom skein : Nat) (k : Skein) : Bool :=
  let l := loomOf s loom
  (ctxAt s k.ctx).any (fun x => x.state == .active) && !l.stopped && !inReset s && preemptOf s loom skein == .none

/-- Fetch one 8-byte word of a context's instructions (R113, R129): the word or a failure. -/
def fetchWord (s : State) (c va : Nat) : Except (Nat × Nat) Nat :=
  match translate s c va .fetch with
  | .fail code sub => .error (code, sub)
  | .ok pa _ _ =>
    match resolve s pa with
    | .dram a => if poisonedAt s a then .error (zsPoison, 0x02) else .ok (memNat s a 8)
    | _ => .error (zsDenied, 0)

/-- A word of a skein's instruction stream: one already fetched, or memory's (R98). (log 127: DESIGN CHOICE) -/
def insWord (s : State) (k : Skein) (va : Nat) : Except (Nat × Nat) Nat :=
  match tget? k.fetched va with
  | some w => .ok w
  | none => fetchWord s k.ctx va

/-- The instruction at an address, with its literal word (R73). (log 124: DESIGN CHOICE) -/
def fetchIns (s : State) (k : Skein) (pc : Nat) : Except (Nat × Nat × Nat) Ins :=
  match insWord s k pc with
  | .error (c, u) => .error (c, u, pc)
  | .ok w =>
    if !hasLit w then .ok ⟨w, 0, pc⟩ else
    match insWord s k ((pc + 8) % 2 ^ 64) with
    | .error (c, u) => .error (c, u, (pc + 8) % 2 ^ 64)
    | .ok lit => .ok ⟨w, lit, pc⟩

/-- Keep what was fetched (R98). -/
def keepFetched (ins : Ins) (k : Skein) : Skein :=
  let f := tset k.fetched ins.pc ins.w
  { k with fetched := if hasLit ins.w then tset f ((ins.pc + 8) % 2 ^ 64) ins.lit else f }

/-- Is the instruction held by an outstanding LCV instruction (R52, R53). (log 18: DESIGN CHOICE) -/
def scoreHeld (k : Skein) (mask w : Nat) : Bool :=
  let regs := (allGroups w).flatMap (fun g => if g.uni then [] else (List.range g.n).map (fun i => g.base + i))
  ((formOf w).lcv && k.lcvs.length ≥ 32) ||
    k.lcvs.any (fun l => l.mask &&& mask != 0 && l.dst.any (fun r => regs.contains r && r != 255))

/-- The instruction that a thread's group would issue now: none where the group is not ready; or the fetch failed; or the
environment of its issue. -/
inductive Fetched where
  | notReady
  | failed (e : Env) (code sub va : Nat)
  | ready (e : Env)
  deriving DecidableEq, Repr

/-- Find and fetch the next instruction of a thread's group (R54, R57). -/
def fetchFor (w : Who) (s : State) : Fetched :=
  match tget? (loomOf s w.loom).skeins w.skein with
  | none => .notReady
  | some k =>
    if !mayIssue s w.loom w.skein k then .notReady else
    match groupOf k w.thread with
    | none => .notReady
    | some g =>
      if g.wait ≠ .none then .notReady else
      match fetchIns s k g.pc with
      | .error (c, u, va) => .failed ⟨s, w.loom, w.skein, k, g.mask, ⟨0, 0, g.pc⟩⟩ c u va
      | .ok ins => if scoreHeld k g.mask ins.w then .notReady else .ready ⟨s, w.loom, w.skein, keepFetched ins k, g.mask, ins⟩

/-- Count an issue and let the JOIN waits of other groups see it (R56, R69). (log 18: DESIGN CHOICE) -/
def countIssue (e : Env) (s : State) : State :=
  bump (loomPage e.loom + Reg.LOOM_ISSUE_CNT) 1 (modSkein e.loom e.skein (fun k =>
    keepFetched e.ins { k with groups := k.groups.map (fun g =>
      match g.wait with
      | .join a x _ => { g with wait := .join a x true }
      | _ => g) }) s)

/-- The lowest active thread of the issuing group. -/
def lowThread (e : Env) : Nat := (maskList 32 e.mask).headD 0

/-- Checks 1 to 3 of R112: code and subcode. -/
def preludeFault (e : Env) : Option (Nat × Nat) :=
  match encodingFault e.ins.w with
  | some sub => some (zsIllegal, sub)
  | none =>
    if alignFault e.ins.w then some (zsIllegal, 0x02)
    else if allocFault e.ins.w e.k.gran then some (zsDenied, 0x31) else none

/-- Issue the next instruction of a thread's group where it belongs to a row and may issue, and perform it. (log 17: DESIGN CHOICE) -/
def issueRow (w : Who) (row : Nat) (may : Env → Bool) (body : Env → State → State) (s : State) : State :=
  match fetchFor w s with
  | .notReady => s
  | .failed e code sub va => xlFault e code sub va (lowThread e) s
  | .ready e =>
    if rowOf e.ins.w ≠ row then s else
    if (preludeFault e).isNone && !may e then s else
    let s' := countIssue e s
    match preludeFault e with
    | some (code, sub) => insFault e code sub 0 (lowThread e) s'
    | none => body e s'

/-- Address of the next instruction. -/
def nextPc (e : Env) : Nat := (e.ins.pc + insLen e.ins.w) % 2 ^ 64

/-- Finish an instruction: its operand reads, its register writes, and the group's move to the next instruction.
(log 18: DESIGN CHOICE) -/
def finish (e : Env) (f : Skein → Skein) (s : State) : State :=
  modSkein e.loom e.skein (fun k => modGroup e.mask (fun g => { g with pc := nextPc e }) (f k)) (operandRead e s)

/-- The threads that take part: active, guard true (R76). -/
def lanes (e : Env) : List Nat := guarded e.k e.mask e.ins.w

/-- Start an LCV instruction (R52): it counts its memory transactions, and its completion will write the values. -/
def startLcv (e : Env) (wait : LcvWait) (tx : Nat) (dst : List Nat) (writes : List RegWrite) (s : State) : State :=
  modCtxDie e.k.ctx (e.loom / 32) (fun d => { d with memtx := d.memtx + tx })
    (modSkein e.loom e.skein (fun k =>
      { k with lcvs := k.lcvs ++ [⟨k.nextLcv, e.ins.pc, e.mask, dst, wait, tx, writes⟩], nextLcv := k.nextLcv + 1 }) s)

/-- The register writes of per-thread results of `n` registers. -/
def regWrites (base n : Nat) (res : List (Nat × Nat)) : List RegWrite :=
  res.flatMap (fun r => (List.range n).filterMap (fun i =>
    if base + i = 255 then none else some ⟨r.1, base + i, BitVec.ofNat 32 (r.2 / 2 ^ (32 * i))⟩))

/-- An LCV instruction completes (R52): its values are written, its counts fall. -/
def completeLcv (loom skein id : Nat) (writes : List RegWrite) (s : State) : State :=
  match tget? (loomOf s loom).skeins skein with
  | none => s
  | some k =>
    match k.lcvs.find? (fun l => l.id == id) with
    | none => s
    | some l =>
      let s := modCtxDie k.ctx (loom / 32) (fun d => { d with memtx := d.memtx - l.tx }) s
      let ws := (l.writes ++ writes).filter (fun x => !bit k.exited x.thread)
      let s := modSkein loom skein (fun k =>
        { (ws.foldl (fun k x => wrG x.thread x.reg x.val.toNat k) k) with
          lcvs := k.lcvs.filter (fun l => l.id != id),
          groups := k.groups.map (fun g => if g.wait = .lcv id then { g with wait := .none } else g) }) s
      skeinFinish loom skein (reuseWrite loom skein (ws.map (fun x => x.reg)) s)

end Sys2Proof.Machine
end

