-- ==== Sys2Proof/Machine/Alu.lean ====
section
/-! DEFINITION. The integer instructions, predicate logic, votes and lane exchange (R79 to R83). -/

namespace Sys2Proof.Machine

/-- Write a result to each taking-part thread and go on. -/
def perThread (e : Env) (n : Nat) (f : Nat → Nat) (s : State) : State :=
  finish e (wrDst e.ins.w n ((lanes e).map (fun t => (t, f t)))) s

/-- Write a predicate in each taking-part thread and go on. -/
def perThreadP (e : Env) (f : Nat → Bool) (s : State) : State :=
  finish e (fun k => (lanes e).foldl (fun k t => wrP t (fDst e.ins.w) (f t) k) k) s

/-- The INT type code of an instruction (R80) and the words of that type. -/
def intType (w : Nat) : Nat := bits (fMod w) 1 0
def intWords (w : Nat) : Nat := if intType w < 2 then 1 else 2

/-- The range of an integer type. -/
def intMin (ty : Nat) : Int := if intSigned ty then -((2 ^ (intWidth ty - 1) : Nat) : Int) else 0
def intMax (ty : Nat) : Int := if intSigned ty then ((2 ^ (intWidth ty - 1) : Nat) : Int) - 1 else ((2 ^ intWidth ty : Nat) : Int) - 1

/-- An integer result: clamped to the type's range under SAT, else wrapped (R80). -/
def intResult (ty : Nat) (sat : Bool) (v : Int) : Nat :=
  wrap (intWidth ty) (if sat then clampInt (intMin ty) (intMax ty) v else v)

/-- IALU (Table R81). -/
def ialuResult (f ty : Nat) (sat : Bool) (a b c : Nat) : Nat :=
  let x := intVal ty a
  let y := intVal ty b
  let w := intWidth ty
  match f with
  | 0 => intResult ty sat (x + y)
  | 1 => intResult ty sat (x - y)
  | 2 => intResult ty sat (x + y + intVal ty c)
  | 3 => if y < x then b else a
  | 4 => if x < y then b else a
  | 5 => intResult ty sat (x.natAbs : Int)
  | 6 => intResult ty sat (-x)
  | 8 => a &&& b
  | 9 => a ||| b
  | 10 => a ^^^ b
  | 11 => a &&& (2 ^ w - 1 - b % 2 ^ w)
  | _ => 2 ^ w - 1 - a % 2 ^ w

/-- ISHF (Table R81); amounts are taken modulo the type width. -/
def ishfResult (f ty a b c : Nat) : Nat :=
  let w := intWidth ty
  let n := b % w
  match f with
  | 0 => (a <<< n) % 2 ^ w
  | 1 => a >>> n
  | 2 => wrap w (sext w a / ((2 ^ n : Nat) : Int))
  | 3 => ((a <<< n) ||| (a >>> (w - n))) % 2 ^ w
  | 4 => ((a >>> n) ||| (a <<< (w - n))) % 2 ^ w
  | _ => (((a * 2 ^ 32 + b) <<< (c % 32)) >>> 32) % 2 ^ 32

/-- IMUL (Table R81). -/
def imulResult (f ty a b c : Nat) : Nat :=
  let w := intWidth ty
  let p := intVal ty a * intVal ty b
  match f with
  | 0 => wrap w p
  | 1 => wrap w (p / ((2 ^ w : Nat) : Int))
  | 2 => wrap w (p + intVal ty c)
  | _ => wrap 64 (p + (c : Int))

/-- The length of a bit field at a position, cut at the top of the type (R81). -/
def fieldLen (w pos len : Nat) : Nat := min len (w - pos)

/-- Result byte of BSEL (R81). -/
def bselByte (a b c i : Nat) : Nat :=
  if bit c (12 + i) then 0 else (((b * 2 ^ 32 + a) >>> (8 * bits c (3 * i + 2) (3 * i))) % 256)

/-- IBIT (Table R81). -/
def ibitResult (f ty a b c : Nat) : Nat :=
  let w := intWidth ty
  match f with
  | 0 => popcount w a
  | 1 => if a % 2 ^ w = 0 then w else w - 1 - Nat.log2 (a % 2 ^ w)
  | 2 => (List.range w).foldl (fun r i => r * 2 + b2n (bit a i)) 0
  | 3 =>
    let pos := b % w
    let n := fieldLen w pos c
    if n = 0 then 0 else
    let v := (a >>> pos) % 2 ^ n
    if intSigned ty then wrap w (sext n v) else v
  | 4 =>
    let pos := bits c 6 0 % w
    let n := fieldLen w pos (bits c 14 8)
    if n = 0 then a else setBits a (pos + n - 1) pos b
  | _ => bselByte a b c 0 + 256 * bselByte a b c 1 + 65536 * bselByte a b c 2 + 16777216 * bselByte a b c 3

/-- NOP (R79). -/
def execNop (w : Who) (s : State) : Host.Outcome State Fault Refusal :=
  .next (issueRow w (0x01 * 8) (fun _ => true) (fun e s => finish e id s) s)

/-- IALU (R80, R81). -/
def execIalu (w : Who) (s : State) : Host.Outcome State Fault Refusal :=
  .next (issueRow w (0x02 * 8) (fun _ => true) (fun e s =>
    let n := intWords e.ins.w
    perThread e n (fun t => ialuResult (fFunc e.ins.w) (intType e.ins.w) (bit (fMod e.ins.w) 2) (src e 0 n t) (src e 1 n t) (src e 2 n t)) s) s)

/-- ISHF (R80, R81). The amount is a 32-bit operand. -/
def execIshf (w : Who) (s : State) : Host.Outcome State Fault Refusal :=
  .next (issueRow w (0x03 * 8) (fun _ => true) (fun e s =>
    let n := intWords e.ins.w
    perThread e n (fun t => ishfResult (fFunc e.ins.w) (intType e.ins.w) (src e 0 n t) (src e 1 1 t) (src e 2 1 t)) s) s)

/-- IMUL (R80, R81); MAD64 takes a pair in C and writes a pair. -/
def execImul (w : Who) (s : State) : Host.Outcome State Fault Refusal :=
  .next (issueRow w (0x04 * 8) (fun _ => true) (fun e s =>
    let n := intWords e.ins.w
    let m := if fFunc e.ins.w = 3 then 2 else n
    perThread e m (fun t => imulResult (fFunc e.ins.w) (intType e.ins.w) (src e 0 n t) (src e 1 n t) (src e 2 m t)) s) s)

/-- ICMP (R82). -/
def execIcmp (w : Who) (s : State) : Host.Outcome State Fault Refusal :=
  .next (issueRow w (0x05 * 8) (fun _ => true) (fun e s =>
    let n := intWords e.ins.w
    let ty := intType e.ins.w
    perThreadP e (fun t => icmpCond (fFunc e.ins.w) (intVal ty (src e 0 n t)) (intVal ty (src e 1 n t))) s) s)

/-- IBIT (R80, R81). -/
def execIbit (w : Who) (s : State) : Host.Outcome State Fault Refusal :=
  .next (issueRow w (0x06 * 8) (fun _ => true) (fun e s =>
    let n := intWords e.ins.w
    let f := fFunc e.ins.w
    perThread e n (fun t => ibitResult f (intType e.ins.w) (src e 0 n t) (src e 1 (if f = 4 then n else 1) t) (src e 2 1 t)) s) s)

/-- IMOV (R81): MOV and SEL. -/
def execImov (w : Who) (s : State) : Host.Outcome State Fault Refusal :=
  .next (issueRow w (0x07 * 8) (fun _ => true) (fun e s =>
    let n := intWords e.ins.w
    perThread e n (fun t => if fFunc e.ins.w = 0 || srcP e 2 t then src e 0 n t else src e 1 n t) s) s)

/-- PLOP (R82). -/
def execPlop (w : Who) (s : State) : Host.Outcome State Fault Refusal :=
  .next (issueRow w (0x08 * 8) (fun _ => true) (fun e s =>
    let lut := bits (fFunc e.ins.w) 1 0 * 64 + bits (fMod e.ins.w) 5 0
    perThreadP e (fun t => plopBit lut (srcP e 0 t) (srcP e 1 t) (srcP e 2 t)) s) s)

/-- VOTE (R82): ANY and ALL write a predicate, BALLOT the mask. -/
def execVote (w : Who) (s : State) : Host.Outcome State Fault Refusal :=
  .next (issueRow w (0x09 * 8) (fun _ => true) (fun e s =>
    let f := fFunc e.ins.w
    if f = 2 then perThread e 1 (fun _ => listMask ((lanes e).filter (srcP e 0))) s
    else perThreadP e (fun _ => voteResult f ((lanes e).map (srcP e 0))) s) s)

/-- The source lane of LXCH (R83). -/
def lxchLane (f segw t b : Nat) : Nat :=
  let w := 32 / 2 ^ segw
  let base := t / w * w
  let o := t % w
  match f with
  | 0 => base + b % w
  | 1 => base + (o + b) % w
  | 2 => base + (w - 1 - o)
  | _ => base + (o ^^^ (b % w))

/-- LXCH (R83): a lane outside the group or with a false guard gives the thread its own value. -/
def execLxch (w : Who) (s : State) : Host.Outcome State Fault Refusal :=
  .next (issueRow w (0x0A * 8) (fun _ => true) (fun e s =>
    let n := intWords e.ins.w
    perThread e n (fun t =>
      let l := lxchLane (fFunc e.ins.w) (bits (fMod e.ins.w) 5 3) t (src e 1 1 t)
      src e 0 n (if (lanes e).contains l then l else t)) s) s)

end Sys2Proof.Machine
end

