-- ==== Sys2Proof/Machine/Hash.lean ====
section
/-! DEFINITION. SHA-512 (FIPS 180-4) and ECDSA over P-521 with it (FIPS 186), as the image, the configuration and the measurements use
them (R429, R430, R434 to R439). -/

namespace Sys2Proof.Machine

/-- The 80 round constants of SHA-512. -/
def shaK : List Nat := [
  0x428A2F98D728AE22, 0x7137449123EF65CD, 0xB5C0FBCFEC4D3B2F, 0xE9B5DBA58189DBBC,
  0x3956C25BF348B538, 0x59F111F1B605D019, 0x923F82A4AF194F9B, 0xAB1C5ED5DA6D8118,
  0xD807AA98A3030242, 0x12835B0145706FBE, 0x243185BE4EE4B28C, 0x550C7DC3D5FFB4E2,
  0x72BE5D74F27B896F, 0x80DEB1FE3B1696B1, 0x9BDC06A725C71235, 0xC19BF174CF692694,
  0xE49B69C19EF14AD2, 0xEFBE4786384F25E3, 0x0FC19DC68B8CD5B5, 0x240CA1CC77AC9C65,
  0x2DE92C6F592B0275, 0x4A7484AA6EA6E483, 0x5CB0A9DCBD41FBD4, 0x76F988DA831153B5,
  0x983E5152EE66DFAB, 0xA831C66D2DB43210, 0xB00327C898FB213F, 0xBF597FC7BEEF0EE4,
  0xC6E00BF33DA88FC2, 0xD5A79147930AA725, 0x06CA6351E003826F, 0x142929670A0E6E70,
  0x27B70A8546D22FFC, 0x2E1B21385C26C926, 0x4D2C6DFC5AC42AED, 0x53380D139D95B3DF,
  0x650A73548BAF63DE, 0x766A0ABB3C77B2A8, 0x81C2C92E47EDAEE6, 0x92722C851482353B,
  0xA2BFE8A14CF10364, 0xA81A664BBC423001, 0xC24B8B70D0F89791, 0xC76C51A30654BE30,
  0xD192E819D6EF5218, 0xD69906245565A910, 0xF40E35855771202A, 0x106AA07032BBD1B8,
  0x19A4C116B8D2D0C8, 0x1E376C085141AB53, 0x2748774CDF8EEB99, 0x34B0BCB5E19B48A8,
  0x391C0CB3C5C95A63, 0x4ED8AA4AE3418ACB, 0x5B9CCA4F7763E373, 0x682E6FF3D6B2B8A3,
  0x748F82EE5DEFB2FC, 0x78A5636F43172F60, 0x84C87814A1F0AB72, 0x8CC702081A6439EC,
  0x90BEFFFA23631E28, 0xA4506CEBDE82BDE9, 0xBEF9A3F7B2C67915, 0xC67178F2E372532B,
  0xCA273ECEEA26619C, 0xD186B8C721C0C207, 0xEADA7DD6CDE0EB1E, 0xF57D4F7FEE6ED178,
  0x06F067AA72176FBA, 0x0A637DC5A2C898A6, 0x113F9804BEF90DAE, 0x1B710B35131C471B,
  0x28DB77F523047D84, 0x32CAAB7B40C72493, 0x3C9EBE0A15C9BEBC, 0x431D67C49C100D4C,
  0x4CC5D4BECB3E42B6, 0x597F299CFC657E2A, 0x5FCB6FAB3AD6FAEC, 0x6C44198C4A475817]

/-- The initial hash value of SHA-512. -/
def shaInit : List Nat := [0x6A09E667F3BCC908, 0xBB67AE8584CAA73B, 0x3C6EF372FE94F82B, 0xA54FF53A5F1D36F1, 0x510E527FADE682D1,
  0x9B05688C2B3E6C1F, 0x1F83D9ABFB41BD6B, 0x5BE0CD19137E2179]

/-- Rotate a 64-bit number right. -/
def rotr64 (n x : Nat) : Nat := (x >>> n) ||| (x <<< (64 - n)) % 2 ^ 64

/-- Extend 16 message words to 80: `w` holds the words so far, last first. -/
def shaSchedule (n : Nat) (w : List Nat) : List Nat :=
  match n with
  | 0 => w.reverse
  | n + 1 =>
    let a := w.getD 1 0
    let b := w.getD 14 0
    let s1 := rotr64 19 a ^^^ rotr64 61 a ^^^ (a >>> 6)
    let s0 := rotr64 1 b ^^^ rotr64 8 b ^^^ (b >>> 7)
    shaSchedule n (((s1 + w.getD 6 0 + s0 + w.getD 15 0) % 2 ^ 64) :: w)

/-- One round over the eight working variables. -/
def shaRound (v : List Nat) (kw : Nat × Nat) : List Nat :=
  match v with
  | [a, b, c, d, e, f, g, h] =>
    let t1 := h + (rotr64 14 e ^^^ rotr64 18 e ^^^ rotr64 41 e) + ((e &&& f) ^^^ ((2 ^ 64 - 1 - e) &&& g)) + kw.1 + kw.2
    let t2 := (rotr64 28 a ^^^ rotr64 34 a ^^^ rotr64 39 a) + ((a &&& b) ^^^ (a &&& c) ^^^ (b &&& c))
    [(t1 + t2) % 2 ^ 64, a, b, c, (d + t1) % 2 ^ 64, e, f, g]
  | v => v

/-- A big-endian number. -/
def beNat (l : List Byte) : Nat := l.foldl (fun a b => a * 256 + b.toNat) 0

/-- A number as `n` big-endian bytes. -/
def beBytes (n v : Nat) : List Byte := (toBytes n v).reverse

/-- Absorb one block of 128 bytes. -/
def shaBlock (h : List Nat) (b : List Byte) : List Nat :=
  let w := shaSchedule 64 ((chunks 8 16 b).map beNat).reverse
  List.zipWith (fun x y => (x + y) % 2 ^ 64) h ((List.zip shaK w).foldl shaRound h)

/-- SHA-512 of a byte string, as its 64 bytes. -/
def sha512 (l : List Byte) : List Byte :=
  let pad := l ++ [0x80] ++ zeros ((111 + 128 - l.length % 128) % 128) ++ beBytes 16 (8 * l.length)
  ((chunks 128 (pad.length / 128) pad).foldl shaBlock shaInit).flatMap (beBytes 8)

/-- SHA-512 as a number whose least significant byte is the first byte of the hash. -/
def sha512Nat (l : List Byte) : Nat := ofBytes (sha512 l)

/-! ## P-521 -/

def ecP : Nat := 2 ^ 521 - 1
def ecN : Nat := 0x1fffffffffffffffffffffffffffffffffffffffffffffffffffffffffffffffffa51868783bf2f966b7fcc0148f709a5d03bb5c9b8899c47aebb6fb71e91386409
def ecB : Nat := 0x0051953EB9618E1C9A1F929A21A0B68540EEA2DA725B99B315F3B8B489918EF109E156193951EC7E937B1652C0BD3BB1BF073573DF883D2C34F1EF451FD46B503F00
def ecGx : Nat := 0x00C6858E06B70404E9CD9E3ECB662395B4429C648139053FB521F828AF606B4D3DBAA14B5E77EFE75928FE1DC127A2FFA8DE3348B3C1856A429BF97E7E31C2E5BD66
def ecGy : Nat := 0x011839296A789A3BC0045C8A5FB42C7D1BD998F54449579B446817AFBD17273E662C97EE72995EF42640C550B9013FAD0761353C7086A272C24088BE94769FD16650

/-- A power modulo `m`, for exponents below 2^fuel. -/
def powMod (fuel b e m acc : Nat) : Nat :=
  match fuel with
  | 0 => acc
  | f + 1 => powMod f (b * b % m) (e / 2) m (if e % 2 == 1 then acc * b % m else acc)

/-- The inverse modulo a prime. -/
def invMod (a m : Nat) : Nat := powMod 521 (a % m) (m - 2) m 1

/-- A point in Jacobian coordinates; z = 0 is the point at infinity. -/
structure EcPt where
  x : Nat
  y : Nat
  z : Nat
  deriving DecidableEq, Repr

/-- a − b modulo p. -/
def subP (a b : Nat) : Nat := (a + ecP - b % ecP) % ecP

/-- Twice a point. -/
def ecDouble (a : EcPt) : EcPt :=
  let d := a.z * a.z % ecP
  let g := a.y * a.y % ecP
  let b := a.x * g % ecP
  let al := 3 * (subP a.x d * (a.x + d) % ecP) % ecP
  let x := subP (al * al % ecP) (8 * b % ecP)
  ⟨x, subP (al * subP (4 * b % ecP) x % ecP) (8 * (g * g % ecP) % ecP), 2 * a.y * a.z % ecP⟩

/-- The sum of two points. -/
def ecAdd (a b : EcPt) : EcPt :=
  if a.z = 0 then b else if b.z = 0 then a else
  let za := a.z * a.z % ecP
  let zb := b.z * b.z % ecP
  let u1 := a.x * zb % ecP
  let u2 := b.x * za % ecP
  let s1 := a.y * (b.z * zb % ecP) % ecP
  let s2 := b.y * (a.z * za % ecP) % ecP
  if u1 = u2 then (if s1 = s2 then ecDouble a else ⟨1, 1, 0⟩) else
  let h := subP u2 u1
  let r := subP s2 s1
  let h2 := h * h % ecP
  let h3 := h * h2 % ecP
  let v := u1 * h2 % ecP
  let x := subP (subP (r * r % ecP) h3) (2 * v % ecP)
  ⟨x, subP (r * subP v x % ecP) (s1 * h3 % ecP), h * (a.z * b.z % ecP) % ecP⟩

/-- A multiple of a point, for factors below 2^fuel. -/
def ecMul (fuel k : Nat) (a acc : EcPt) : EcPt :=
  match fuel with
  | 0 => acc
  | f + 1 => ecMul f (k / 2) (ecDouble a) (if k % 2 == 1 then ecAdd acc a else acc)

/-- Is an affine pair a point of the curve. -/
def ecOn (x y : Nat) : Bool := x < ecP && y < ecP && y * y % ecP == (x * x * x + (ecP - 3) * x + ecB) % ecP

/-- ECDSA P-521 with SHA-512: does (r, s) sign a message under an uncompressed public key of 133 bytes (R429). -/
def ecdsaVerify (key msg : List Byte) (r s : Nat) : Bool :=
  let x := beNat ((key.drop 1).take 66)
  let y := beNat ((key.drop 67).take 66)
  if bytesAt key 0 1 ≠ 4 || key.length ≠ 133 || !ecOn x y || r = 0 || ecN ≤ r || s = 0 || ecN ≤ s then false else
  let e := beNat (sha512 msg)
  let w := invMod s ecN
  let inf : EcPt := ⟨1, 1, 0⟩
  let q := ecAdd (ecMul 521 (e * w % ecN) ⟨ecGx, ecGy, 1⟩ inf) (ecMul 521 (r * w % ecN) ⟨x, y, 1⟩ inf)
  if q.z = 0 then false else
  let zi := invMod q.z ecP
  (q.x * (zi * zi % ecP) % ecP) % ecN == r

/-- HMAC-SHA-512 under a key of at most 128 bytes. -/
def hmac512 (key l : List Byte) : List Byte :=
  let k := key ++ zeros (128 - key.length)
  sha512 (k.map (fun b => b ^^^ 0x5C) ++ sha512 (k.map (fun b => b ^^^ 0x36) ++ l))

end Sys2Proof.Machine
end

