-- ==== Sys2Proof/Machine/Clock.lean ====
section
/-! DEFINITION. The base-note domain (R445 to R448, R455, R456, R481, R482): time and its servo, PPS_IN, and the comparators' claims. -/

namespace Sys2Proof.Machine

/-- BNT_, PWR_ and CLK_ page 0. -/
def bntPage : Nat := pageAddr .bnt 15 0 0
def pwrPage : Nat := pageAddr .pwr 15 0 0
def clkPage : Nat := pageAddr .clk 15 0 0

/-- Change the PCD's state. -/
def modSys (f : Sys → Sys) (s : State) : State := { s with sys := f s.sys }

/-! ## Time and the servo -/

/-- Units of 1/64 tick of base-note time: the six fraction bits that follow the binary point (R445). -/
def stamp (s : State) : Nat := s.time * 64 + s.frac / 2 ^ 26

/-- 500 ppm and 100 ppm in 2^(−32) tick a cycle. (log 13: DESIGN CHOICE) -/
def slewTerm : Int := 2147483
def freqMost : Int := 429496

/-- RATE (R445): the frequency term and the slew term. -/
def rateOf (v : Servo) : Int := v.freq + (if v.slew > 0 then slewTerm else if v.slew < 0 then -slewTerm else 0)

/-- Add an amount of 2^(−32) tick to base-note time. -/
def addTime (n : Int) (s : State) : State :=
  let t := (((s.time * 2 ^ 32 + s.frac : Nat) : Int) + n).toNat
  { s with time := t / 2 ^ 32, frac := t % 2 ^ 32 }

/-- Show the servo in BNT_RATE and BNT_DISC. -/
def showServo (locked : Bool) (s : State) : State :=
  setReg (bntPage + Reg.BNT_RATE) (wrap 32 (rateOf s.sys.servo))
    (setField (bntPage + Reg.BNT_DISC) 3 2 (b2n locked + 2 * b2n (s.sys.servo.slew != 0)) s)

/-- LOCKED. -/
def timeLocked (s : State) : Bool := bit (reg s (bntPage + Reg.BNT_DISC)) 2

/-- A number clamped into [−m, m]. -/
def clampAbs (m v : Int) : Int := if v > m then m else if v < -m then -m else v

/-- A measurement of the offset E in 1/64 tick (R446, R448): the frequency term follows the trend, which is a free value; E at or above
BNT_STEP_MIN steps time, any other E slews it. (log 13: DESIGN CHOICE; log 110: DESIGN CHOICE) -/
def servoMeasure (e : Int) (s : State) : State :=
  let v := s.sys.servo
  let small := decide (e.natAbs * 10 < 128) && v.slew == 0
  let good := if small then v.good + 1 else 0
  let locked := if 16 ≤ good then true else if 64 ≤ e.natAbs then false else timeLocked s
  let freq := clampAbs freqMost (Config.servoTrend s.draws)
  let s := setReg (bntPage + Reg.BNT_OFFSET) (wrap 32 (clampAbs (2 ^ 31 - 1) e)) { s with draws := s.draws + 1 }
  let jump := decide ((reg s (bntPage + Reg.BNT_STEP_MIN) : Int) * 64 ≤ e)
  let s := modSys (fun y => { y with servo := ⟨freq, if jump then 0 else e, good⟩ }) s
  let s := if jump then
      logDry 15 13 0x0062 [e.toNat / 64 % 2 ^ 32, e.toNat / 64 / 2 ^ 32] (bumpSat (bntPage + Reg.BNT_STEPS) 1 (addTime (e * 2 ^ 26) s))
    else s
  showServo locked s

/-- SLEW_END (R446): the accumulated slew equals the offset. (log 110: DESIGN CHOICE) -/
def execSlewEnd (s : State) : Host.Outcome State Fault Refusal :=
  .next (showServo (timeLocked s) (modSys (fun y => { y with servo := { y.servo with slew := 0 } }) s))

/-- DISC_SOURCE_LOSS (R446, R448): no measurement for 1 s clears LOCKED and holds the frequency term. (log 110: DESIGN CHOICE) -/
def execDiscSourceLoss (s : State) : Host.Outcome State Fault Refusal :=
  .next (if bits (reg s (bntPage + Reg.BNT_DISC)) 1 0 = 0 then s else
    showServo false (modSys (fun y => { y with servo := { y.servo with good := 0 } }) s))

/-! ## PPS_IN (R447, R467) -/

/-- PPS_IN is enabled. -/
def ppsOn (s : State) : Bool := bit (reg s (bntPage + Reg.BNT_PPS)) 31

/-- The signed distance from a local time in 1/64 tick to the nearest time congruent to PHASE modulo 1 s. -/
def ppsOffset (t phase : Nat) : Int :=
  let d := (phase * 64 + 6400000000 - t % 6400000000) % 6400000000
  if d ≤ 3200000000 then (d : Int) else (d : Int) - 6400000000

/-- PPS_EDGE (R447): a rising edge of PPS_IN is timestamped, and accepted 1 s ± 100 µs after the last accepted edge. -/
def execPpsEdge (s : State) : Host.Outcome State Fault Refusal :=
  .next (if !ppsOn s then s else
    let t := stamp s
    let ok := s.sys.ppsLast.all (fun l => l + 6400000000 - 640000 ≤ t && t ≤ l + 6400000000 + 640000)
    if !ok then bumpSat (bntPage + Reg.BNT_PPS_REJECT) 1 s else
    let s := modSys (fun y => { y with ppsLast := some t }) s
    if bits (reg s (bntPage + Reg.BNT_DISC)) 1 0 ≠ 2 then s
    else servoMeasure (ppsOffset t (bits (reg s (bntPage + Reg.BNT_PPS)) 26 0)) s)

/-! ## Comparators (R455, R456, R482) -/

/-- A comparator. -/
def cmpOf (s : State) (k : Nat) : Cmp := tgetD s.sys.cmps k .free

/-- Change a comparator. -/
def modCmp (k : Nat) (f : Cmp → Cmp) (s : State) : State := modSys (fun y => { y with cmps := tmod y.cmps k .free f }) s

/-- Does a comparator watch GPIO0 for a wake (R481). -/
def wakeOnGpio0 (c : Cmp) : Bool := c.mode != 0 && c.sensor == 16 && bit c.actions 0

/-- The lowest-numbered comparator that nobody holds. (log 101: DESIGN CHOICE) -/
def freeCmp (s : State) : Option Nat := (List.range 8).find? (fun k => (cmpOf s k).owner == 0)

/-- The comparator that a thermal, wake or firmware claim takes where none is free: of the cadence unit, else of the loom watchdog
(owners 2 and 3). (log 101: DESIGN CHOICE) -/
def displacedCmp (s : State) : Option Nat :=
  match (List.range 8).find? (fun k => (cmpOf s k).owner == 2) with
  | some k => some k
  | none => (List.range 8).find? (fun k => (cmpOf s k).owner == 3)

/-- The cadence unit shows on its page whether a comparator is armed for it (R405). -/
def showCadCmp (page : Nat) (s : State) : State :=
  setField (page + Reg.CAD_STATUS) 2 2 (b2n ((List.range 8).any (fun k => (cmpOf s k).owner == 2))) s

/-- The cadence unit arms its comparator for a moment (R396): the one that it holds, or the lowest free one, or none.
(log 101: DESIGN CHOICE) -/
def armCadence (page t : Nat) (s : State) : State :=
  let mine := (List.range 8).find? (fun k => (cmpOf s k).owner == 2)
  let s := match (match mine with | some k => some k | none => freeCmp s) with
    | none => s
    | some k => modCmp k (fun _ => ⟨1, 0, 0, 0, 2, false, t, 0, true⟩) s
  showCadCmp page s

/-- BNT_PPS_WRITE (R447, R481): ENABLE loses to a comparator that watches GPIO0 for a wake; a PHASE out of range is dropped.
(log 84: DESIGN CHOICE) -/
def execBntPpsWrite (v : Nat) (s : State) : Host.Outcome State Fault Refusal :=
  .next (
    if bits v 26 0 ≥ 100000000 then s
    else if bit v 31 && !ppsOn s && s.sys.cmps.any (fun c => wakeOnGpio0 c.2) then recContended bntPage s
    else
      let s := if bit v 31 && !ppsOn s then modSys (fun y => { y with ppsLast := none }) s else s
      setReg (bntPage + Reg.BNT_PPS) (v &&& 0x87FFFFFF) s)

/-- BNT_CMP_CFG of a comparator (R458). -/
def cmpCfg (c : Cmp) : Nat := c.mode + c.sensor * 2 ^ 2 + c.hyst * 2 ^ 8 + c.actions * 2 ^ 16 + c.owner * 2 ^ 20 + b2n c.fired * 2 ^ 23

/-- A comparator under a write of BNT_CMP_CFG by firmware. -/
def cmpWritten (v : Nat) (c : Cmp) : Cmp :=
  { c with mode := bits v 1 0, sensor := bits v 7 2, hyst := bits v 15 8, actions := bits v 19 16,
           owner := if bits v 1 0 = 0 then 0 else 1, fired := c.fired && !bit v 23, armed := true }

/-- BNT_CMP_CFG_WRITE (R458, R480 to R482): firmware claims, configures, releases or clears the selected comparator. -/
def execBntCmpCfgWrite (v : Nat) (s : State) : Host.Outcome State Fault Refusal :=
  .next (
    let k := bits (reg s (bntPage + Reg.BNT_CMP_SEL)) 2 0
    let c := cmpOf s k
    let takes := bits v 1 0 ≠ 0 && (freeCmp s).isNone && displacedCmp s == some k
    if 2 ≤ c.owner && !takes then recContended bntPage s
    else if ppsOn s && !wakeOnGpio0 c && wakeOnGpio0 (cmpWritten v c) then recContended bntPage s
    else
      let s := modCmp k (cmpWritten v) s
      if c.owner = 2 then forL (liveDies s) (fun d s => setField (pageAddr .cad d 0 0 + Reg.CAD_STATUS) 2 2 0 s) s else s)

/-! ## Issue gating (R449) -/

/-- A die's gating. -/
def gateOf (s : State) (die : Nat) : Gate := tgetD s.sys.gates die .open

/-- LEVEL of a die: the greatest that a cause asks for. (log 102: DEDUCED) -/
def gateLevel (g : Gate) : Nat := min 63 (max (max g.thermal g.power) (max g.vin g.floor))

/-- CAUSE of a die: the first in the table's order among those that ask for the level. (log 102: DEDUCED) -/
def gateCause (g : Gate) : Nat :=
  let l := gateLevel g
  if l = 0 then 0 else if g.thermal = l then 1 else if g.power = l then 2 else if g.vin = l then 3 else 4

end Sys2Proof.Machine
end

