-- ==== Sys2Proof/Machine/Link.lean ====
section
/-! DEFINITION. Link ports: frames, control flits and delivery (R326 to R328, R334 to R339), bring-up and retraining (R348, R349),
the bypass pairs (R351 to R353), routing (R341, R342, R345). -/

namespace Sys2Proof.Machine

/-! ## Port state -/

/-- The UP link whose peer advertises the lowest (stratum, position), among peers of a stratum below 15: its port. -/
def timePort (s : State) : Option Nat :=
  let key (k : Nat) : Nat := (portOf s k).peerStratum * 65536 + bits (reg s (linkPage k + Reg.RVL_PEER)) 15 0
  ((List.range 36).filter (fun k => portUp s k && decide ((portOf s k).peerStratum < 15))).foldl (fun b k => match b with
    | none => some k
    | some j => if key k < key j then some k else some j) none

/-- Show STRATUM and REF_PORT on every live die: 0 under PPS_IN, else one more than the followed peer's, else 15.
(log 84: DESIGN CHOICE) -/
def reStratum (s : State) : State :=
  let v := if bits (reg s (bntPage + Reg.BNT_DISC)) 1 0 = 2 then 0x3F * 16 else
    match timePort s with
    | none => 15 + 0x3F * 16
    | some k => (portOf s k).peerStratum + 1 + k * 16
  forL (liveDies s) (fun d s => setReg (rvlPage d + Reg.RVL_TIME) v s) s

/-- Change STATE of a port: its interrupt source, and the hold of moved flows where it goes to or from UP (R345, R355). -/
def setPortState (k st : Nat) (s : State) : State :=
  let was := portState s k
  if was = st then s else
  let old := upMask s
  let s := setPend (linkPage k) 4 (setField (linkPage k + Reg.RVL_PORT_STATE) 2 0 st s)
  if (was = 4) = (st = 4) then s else reStratum { s with routeHolds := s.routeHolds ++ [old] }

/-- Count a retrain or a failed bring-up (R348, R349, R355). -/
def countRetrain (k : Nat) (s : State) : State := setPend (linkPage k) 8 (bumpSat (linkPage k + Reg.RVL_RETRAINS) 1 s)

/-- Start training from phase 2. -/
def startTraining (k : Nat) (s : State) : State := setPortState k 2 (modPort k (fun l => { l with phase := 2 }) s)

/-- An UP port retrains (R349), and the cause, by its place in the list of R349, is logged (R409, R421). -/
def retrain (k cause : Nat) (s : State) : State :=
  if portUp s k then startTraining k (countRetrain k (logDry (linkHome k).1 7 0x0016 [k, cause] s)) else s

/-- The TLVs of the configuration record in use (R434). -/
def cfgTlvs (s : State) : List CfgTlv := (s.sys.cfgUsed.bind (fun i => (s.sys.cfgs.getD i none))).elim [] (fun r => r.tlvs)

/-- TLV 7 denies the DEVICE_ID (R435). -/
def deviceDenied (s : State) (identity : Nat) : Bool := (cfgTlvs s).any (fun t => match t with | .deny d => d == identity | _ => false)

/-! ## Frames (R326, R327) -/

/-- LINK_FRAME_RX (R326, R327): a frame of `flits` data flits ends, of which codewords were corrected or discarded, and whose tag
verified or not. Only the flits of a verified frame can become packets and control flits. (log 15: DESIGN CHOICE) -/
def execLinkFrameRx (port flits corr uncorr : Nat) (tagOk : Bool) (s : State) : Host.Outcome State Fault Refusal :=
  .next (
    if !(portUp s port || 4 ≤ (portOf s port).phase) then s else
    let s := bump (linkPage port + Reg.RVL_FEC_CORR) corr s
    let s := bump (linkPage port + Reg.RVL_FEC_UNCORR) uncorr s
    if uncorr ≠ 0 then s
    else if !tagOk then bumpSat (linkPage port + Reg.RVL_AUTH_FAIL) 1 s
    else modPort port (fun l => { l with frameRx := l.frameRx + 1, rxFlits := l.rxFlits + flits }) (bump (linkPage port + Reg.RVL_RX_FLITS) flits s))

/-- FRAME_CLOSE_TIMEOUT (R327): the transmitter closes its open frame. -/
def execFrameCloseTimeout (port : Nat) (s : State) : Host.Outcome State Fault Refusal :=
  .next (let d := (portOf s port).openData
    if d.isEmpty then s else modPort port (fun l => { l with openData := [] }) (sendFrame port d s))

/-- KEY_ROLLOVER (R327): after 2^32 frames under one key, the next key pair. -/
def execKeyRollover (port : Nat) (s : State) : Host.Outcome State Fault Refusal :=
  .next (let l := portOf s port
    if l.frameTx < 2 ^ 32 && l.frameRx < 2 ^ 32 then s
    else modPort port (fun l => { l with keyPhase := (l.keyPhase + 1) % 256, frameTx := 0, frameRx := 0 }) s)

/-! ## Control flits (R328, R336, R339) -/

/-- A control flit arrives at an UP port: one flit of its verified frames (R327, R328). -/
def onControl (port : Nat) (k : State → State) (s : State) : State :=
  if !portUp s port || (portOf s port).rxFlits = 0 then s else k (modPort port (fun l => { l with rxFlits := l.rxFlits - 1 }) s)

/-- CONTROL_FLIT_TIMER (R328): the last SEQ received in order is acknowledged, and freed credits return. -/
def execControlFlitTimer (port : Nat) (s : State) : Host.Outcome State Fault Refusal :=
  .next (if !portUp s port then s else
    let l := portOf s port
    let s := sendControl port 0 [(l.rxSeq + 2 ^ 24 - 1) % 2 ^ 24] s
    if l.owed.isEmpty then s
    else modPort port (fun l => { l with owed := [] }) (sendControl port 2 ((List.range 8).map (fun v => tgetD l.owed v 0)) s))

/-- The replay buffer without the packets up to an acknowledged SEQ; unchanged where it does not hold that SEQ. -/
def ackUpTo (seq : Nat) (l : List Packet) : List Packet :=
  if l.any (fun p => p.seq == seq) then (l.dropWhile (fun p => p.seq != seq)).drop 1 else l

/-- ACK (R336): acknowledged packets leave the replay buffer. -/
def execAck (port seq : Nat) (s : State) : Host.Outcome State Fault Refusal :=
  .next (onControl port (fun s =>
    let l := portOf s port
    let r := ackUpTo seq l.replay
    pumpPort port (modPort port (fun l => { l with replay := r, resends := if r.length = l.replay.length then l.resends else 0 }) s)) s)

/-- Resend the replay buffer in its order (R336, R337). -/
def resendAll (k : Nat) (s : State) : State :=
  let l := portOf s k
  let s := bump (linkPage k + Reg.RVL_RETX) l.replay.length s
  forL l.replay (fun p s => emit (.packet k p) (sendFlits k (pktBytes p) s)) s

/-- Resend from a SEQ; the eighth consecutive resend of one SEQ starts a retrain (R336, R349). -/
def resendFrom (k seq : Nat) (s : State) : State :=
  let l := portOf s k
  if !l.replay.any (fun p => p.seq == seq) then s else
  let n := if l.resends ≠ 0 && l.resendSeq = seq then l.resends + 1 else 1
  let s := modPort k (fun l => { l with replay := l.replay.dropWhile (fun p => p.seq != seq), resendSeq := seq, resends := n }) s
  let s := resendAll k s
  if n ≥ 8 then retrain k 4 (modPort k (fun l => { l with resends := 0 }) s) else s

/-- NAK (R336): what precedes the named SEQ has arrived; the rest is resent. -/
def execNak (port seq : Nat) (s : State) : Host.Outcome State Fault Refusal :=
  .next (onControl port (fun s =>
    resendFrom port seq (modPort port (fun l => { l with replay := ackUpTo ((seq + 2 ^ 24 - 1) % 2 ^ 24) l.replay }) s)) s)

/-- REPLAY_TIMEOUT (R336): the oldest unacknowledged packet is overdue; it and what follows are resent. -/
def execReplayTimeout (port : Nat) (s : State) : Host.Outcome State Fault Refusal :=
  .next (match (portOf s port).replay with
    | [] => s
    | p :: _ => if portUp s port then resendFrom port p.seq s else s)

/-- CREDIT (R339): credits return for each VC, to at most 512. -/
def execCredit (port : Nat) (counts : List Nat) (s : State) : Host.Outcome State Fault Refusal :=
  .next (onControl port (fun s =>
    pumpPort port (modPort port (fun l => { l with credits := (List.range 8).filterMap (fun v =>
      let c := min 512 (creditOf l v + counts.getD v 0)
      if c = 512 then none else some (v, c)) }) s)) s)

/-- IDLE (R328). -/
def execIdle (port : Nat) (s : State) : Host.Outcome State Fault Refusal :=
  .next (onControl port (fun s => s) s)

/-! ## TSYNC (R350) -/

/-- One exchange's flight in 1/64 tick, not below 0. -/
def tsyncFlight (t1 t2 t3 t4 : Nat) : Nat := ((((t4 : Int) - t1) - ((t3 : Int) - t2)) / 2).toNat

/-- One exchange's offset in 1/64 tick. -/
def tsyncOffset (t1 t2 t3 t4 : Nat) : Int := (((t2 : Int) - t1) - ((t4 : Int) - t3)) / 2

/-- Enter an exchange's flight: F is the greatest of the last 1,024, in ticks rounded up and at most 5,000. -/
def enterFlight (k f : Nat) (s : State) : State :=
  let s := modPort k (fun l => { l with flights := (f :: l.flights).take 1024, tsyncs := l.tsyncs + 1 }) s
  setField (linkPage k + Reg.RVL_FLIGHT) 12 0 (min 5000 (divUp ((portOf s k).flights.foldl max 0) 64)) s

/-- Does a port exchange TSYNC flits: it is UP, or in phase 7 of its bring-up (R348, R350). -/
def tsyncs (s : State) (port : Nat) : Bool := portUp s port || (portOf s port).phase == 7

/-- A TSYNC flit of this package: its timestamps, and the stratum and position that it advertises. -/
def sendTsync (port : Nat) (stamps : List Nat) (s : State) : State :=
  sendControl port 3 (stamps ++ [bits (reg s (rvlDie s + Reg.RVL_TIME)) 3 0, position s]) s

/-- TSYNC_EXCHANGE (R350): a link starts an exchange with its transmit timestamp. -/
def execTsyncExchange (port : Nat) (s : State) : Host.Outcome State Fault Refusal :=
  .next (if tsyncs s port then sendTsync port [stamp s] s else s)

/-- TSYNC (R350, R446): a TSYNC flit arrives with the peer's stratum. One that starts an exchange, with t1 alone, is answered with t1, t2
and t3. One that answers, with t2 and t3, ends an exchange at its receive timestamp t4; the link source measures its offset on the port
followed. (log 128: DESIGN CHOICE) -/
def execTsync (port t1 : Nat) (t2 t3 : Option Nat) (t4 stratum : Nat) (s : State) : Host.Outcome State Fault Refusal :=
  .next (if !tsyncs s port || (portOf s port).rxFlits = 0 then s else
    let s := modPort port (fun l => { l with rxFlits := l.rxFlits - 1, peerStratum := stratum % 16 }) s
    match t2, t3 with
    | some t2, some t3 =>
    let s := reStratum (enterFlight port (tsyncFlight t1 t2 t3 t4) s)
    if bits (reg s (bntPage + Reg.BNT_DISC)) 1 0 = 1 && bits (reg s (rvlDie s + Reg.RVL_TIME)) 9 4 = port then
      servoMeasure (tsyncOffset t1 t2 t3 t4) s
    else s
    | _, _ => sendTsync port [t1, stamp s, stamp s] (reStratum s))

/-- BNT_DISC_WRITE (R446): firmware selects the source; with 0 no slew runs and the frequency term holds. The reserved source is
dropped. (log 84: DESIGN CHOICE) -/
def execBntDiscWrite (v : Nat) (s : State) : Host.Outcome State Fault Refusal :=
  .next (let src := bits v 1 0
    if src = 3 then s else
    let same := decide (bits (reg s (bntPage + Reg.BNT_DISC)) 1 0 = src)
    let s := setField (bntPage + Reg.BNT_DISC) 1 0 src s
    let s := if same then s else modSys (fun y => { y with servo := { y.servo with good := 0, slew := if src = 0 then 0 else y.servo.slew } }) s
    reStratum (showServo (same && timeLocked s) s))

/-! ## Bring-up (R348) -/

/-- The later of the port's link epoch and the peer's, by the serial comparison of R29 and R30: a peer's at distance 2^15 is stale.
(log 81: DEDUCED) -/
def laterEpoch (own peer : Nat) : Nat := if serialCmp peer own 16 = .newer then peer else own

/-- The replay buffer is discarded and SEQ restarts (R337). -/
def dropReplay (k : Nat) (s : State) : State :=
  modPort k (fun l => { l with replay := [], txSeq := 0, rxSeq := 0 }) (bumpSat (linkPage k + Reg.RVL_REPLAY_LOST) (portOf s k).replay.length s)

/-- The epoch is agreed and the replay buffer handled (R337): kept for the same peer, discarded for another. (log 81: DEDUCED) -/
def agreeEpoch (k : Nat) (s : State) : State :=
  let l := portOf s k
  let s := setField (linkPage k + Reg.RVL_PORT_STATE) 31 16 ((1 + laterEpoch (portEpoch s k) l.metEpoch) % 2 ^ 16) s
  if l.same then
    modPort k (fun l => { l with replay := (ackUpTo l.metSeq l.replay).map (fun p => { p with epoch := portEpoch s k }) }) s
  else dropReplay k s

/-- CAD_ page 1 of the lowest live die, which shows the package's twin state (R406). -/
def twinPage (s : State) : Nat := pageAddr .cad ((liveDies s).headD 0) 0 1

/-- Twin state: 0 NONE, 1 PRIMARY, 2 STANDBY, 3 TAKING_OVER, 4 ACTIVE, 5 HELD. (log 100: DEDUCED) -/
def twinState (s : State) : Nat := bits (reg s (twinPage s + Reg.CAD_TWIN_STATE)) 2 0

/-- Change the twin state, which every live die shows (R406). -/
def setTwinState (v : Nat) (s : State) : State :=
  forL (liveDies s) (fun d s =>
    let p := pageAddr .cad d 0 1
    if bits (reg s (p + Reg.CAD_TWIN_STATE)) 2 0 = v then s else setPend p 4 (setField (p + Reg.CAD_TWIN_STATE) 2 0 v s)) s

/-- A takeover ends, the twin ACTIVE, when every port of the pairs that OPEN is written on is UP (R402). (log 100: DEDUCED) -/
def twinTaken (s : State) : State :=
  if twinState s = 3 && (List.range 36).all (fun k => !bit (reg s (linkPage k + Reg.RVL_BYPASS)) 0 || portUp s k) then setTwinState 4 s else s

/-- A port reaches UP: credits restored, the replay buffer resent. -/
def portComesUp (k : Nat) (s : State) : State :=
  let s := setPortState k 4 (modPort k (fun l => { l with phase := 0, credits := [], owed := [], nakSent := false, resends := 0 }) s)
  let s := if (portOf s k).replay.isEmpty then s else resendAll k s
  twinTaken (pumpPort k s)

/-- The fresh key and the nonce of this end in a handshake, by draw. -/
def shakeBytes (n : Nat) : List Byte := Config.bindKey n ++ toBytes 32 ((Config.random n).toNat % 2 ^ 256)

/-- This end's handshake message to a peer (R348): a resumption, under the recorded secret, where the peer presents the identity recorded
for the port; a full handshake otherwise. (log 15: DESIGN CHOICE) -/
def sendShake (k identity n : Nat) (s : State) : State :=
  let l := portOf s k
  let b := shakeBytes n
  match (if l.peer = some identity then l.resume else none) with
  | some d => emit (.bringup k 2 [] (b ++ hmac512 (toBytes 64 (Config.linkSecret d).toNat) b)) s
  | none => emit (.bringup k 1 [] (Config.deviceCerts ++ b ++ Config.bindSig n)) s

/-- HELLO of this end (R348): identity, position, capabilities. (log 15: DESIGN CHOICE) -/
def sendHello (k : Nat) (s : State) : State := emit (.bringup k 0 [position s] (toBytes 64 Config.deviceId.toNat)) s

/-- What this end tells in the epoch exchange: its recorded epoch, and the last SEQ it received in order (R337, R348).
(log 15: DESIGN CHOICE) -/
def sendEpoch (k : Nat) (s : State) : State := emit (.bringup k 3 [portEpoch s k, ((portOf s k).rxSeq + 2 ^ 24 - 1) % 2 ^ 24] []) s

/-- BRINGUP_PHASE_COMPLETE (R348): the phase that runs ends and the next begins. (log 15: DESIGN CHOICE; log 81: DEDUCED) -/
def execBringupPhaseComplete (port : Nat) (h : PeerHello) (s : State) : Host.Outcome State Fault Refusal :=
  let l := portOf s port
  let phase (n : Nat) (s : State) : State := modPort port (fun l => { l with phase := n }) s
  .next (match l.phase with
    | 1 => if bits (reg s (linkPage port + Reg.RVL_BYPASS)) 3 2 = 0 then startTraining port s else s
    | 2 => phase 3 s
    | 3 => sendHello port (setPortState port 3 (phase 4 s))
    | 4 =>
      let (n, s) := draw s
      sendShake port h.identity n (modPort port (fun l => { l with
        phase := 5, met := h.identity, metPosition := h.position, metEpoch := h.epoch, metSeq := h.seq, shake := some n }) s)
    | 5 => if deviceDenied s l.met then s else
      let s := setReg (linkPage port + Reg.RVL_PEER) (l.metPosition % 2 ^ 16 + 2 ^ 16) s
      modPort port (fun l => { l with phase := 6, same := l.peer == some l.met, peer := some l.met, resume := l.shake, shake := none,
                                      frameTx := 0, frameRx := 0, keyPhase := 0, openData := [], rxFlits := 0 }) s
        |> sendEpoch port
    | 6 => modPort port (fun l => { l with phase := 7, tsyncs := 0 }) (agreeEpoch port s)
    | 7 => if l.tsyncs ≥ 16 then portComesUp port s else s
    | _ => s)

/-- TRAIN_LIMIT_EXPIRY (R337, R348): a port that trains goes DOWN; one that met no peer, or another than the recorded one, loses its replay
buffer. -/
def execTrainLimitExpiry (port : Nat) (s : State) : Host.Outcome State Fault Refusal :=
  .next (let l := portOf s port
    if l.phase < 2 then s else
    let s := if 5 ≤ l.phase && (l.peer == some l.met) && (l.phase = 5 || l.same) then s else dropReplay port s
    setPortState port 0 (countRetrain port (modPort port (fun l => { l with phase := 0, shake := none }) s)))

/-- TRAIN_RETRY (R348): a DOWN port whose pair is open starts again from phase 2. -/
def execTrainRetry (port : Nat) (s : State) : Host.Outcome State Fault Refusal :=
  .next (if portState s port = 0 && bits (reg s (linkPage port + Reg.RVL_BYPASS)) 3 2 = 0 then startTraining port s else s)

/-- LOSS_OF_SIGNAL on a lane (R349). -/
def execLossOfSignal (port lane : Nat) (s : State) : Host.Outcome State Fault Refusal := .next (if lane < 8 then retrain port 1 s else s)

/-- UNCORR_CODEWORD_LIMIT (R349). -/
def execUncorrCodewordLimit (port : Nat) (s : State) : Host.Outcome State Fault Refusal := .next (retrain port 2 s)

/-- TAG_FAILURE_LIMIT (R349). -/
def execTagFailureLimit (port : Nat) (s : State) : Host.Outcome State Fault Refusal := .next (retrain port 3 s)

/-- RX_SILENCE (R349). -/
def execRxSilence (port : Nat) (s : State) : Host.Outcome State Fault Refusal := .next (retrain port 5 s)

/-- RETRAIN (R349): RVL_PORT_CFG.RETRAIN, which clears itself. -/
def execRetrain (port : Nat) (s : State) : Host.Outcome State Fault Refusal := .next (retrain port 6 s)

/-! ## Bypass pairs (R351 to R353) -/

/-- The switch of a pair. -/
def switchOf (s : State) (pair : Nat) : Switch := tgetD s.switches pair .rest

/-- Change a switch. -/
def modSwitch (pair : Nat) (f : Switch → Switch) (s : State) : State := { s with switches := tmod s.switches pair .rest f }

/-- Is the pair at rest in bypass. -/
def inBypass (s : State) (pair : Nat) : Bool := bit (reg s (linkPage (2 * pair) + Reg.RVL_BYPASS)) 2

/-- Show the switch on both port pages: IN_BYPASS and MOVING; OPEN on the even one. -/
def showSwitch (pair : Nat) (isIn moving openReq : Bool) (s : State) : State :=
  let a := linkPage (2 * pair) + Reg.RVL_BYPASS
  let s := setField a 3 2 (b2n isIn + 2 * b2n moving) (setField a 0 0 (b2n openReq) s)
  setField (linkPage (2 * pair + 1) + Reg.RVL_BYPASS) 3 2 (b2n isIn + 2 * b2n moving) s

/-- A pair moves to bypass, also out of a movement toward open (R352). (log 81: DEDUCED) -/
def toBypass (pair : Nat) (s : State) : State :=
  if inBypass s pair then s else
  let s := showSwitch pair false true false (modSwitch pair (fun w => { w with moving := true, toOpen := false }) s)
  forL [2 * pair, 2 * pair + 1] (fun k s => setPortState k 0 (modPort k (fun l => { l with phase := 0 }) s)) s

/-- Every pair moves to bypass (R352). -/
def allBypass (s : State) : State := forN 18 toBypass s

/-- A pair is in bypass at once: rest position without power (R351). -/
def restBypass (pair : Nat) (s : State) : State :=
  let s := showSwitch pair true false false (modSwitch pair (fun _ => .rest) s)
  forL [2 * pair, 2 * pair + 1] (fun k s => setPortState k 1 (modPort k (fun l => { l with phase := 0 }) s)) s

/-- ROLE of the twin configuration (R401). -/
def twinRole (s : State) : Nat := bits (reg s (twinPage s + Reg.CAD_TWIN_CFG)) 1 0

/-- Levels of the GPIO lands (R466, R467): an input's level, or what the package drives. PPS_IN and the twin inputs are never driven;
GPIO2 is low exactly while TWIN_ACT_N is asserted. (log 109: DESIGN CHOICE) -/
def gpioLevels (s : State) : Nat :=
  let r := reg s (pageAddr .pcd 15 0 0 + Reg.PCD_GPIO)
  listMask ((List.range 8).filter (fun i =>
    if twinRole s ≠ 0 && i = 2 then !s.sys.twinAct
    else if bit r (8 + i) && !(i = 0 && ppsOn s) && !(twinRole s ≠ 0 && (i = 1 || i = 3)) then bit r (16 + i)
    else bit s.sys.gpioIn i))

/-- TWIN_HOLD_N is low in a twin slot (R401). (log 100: DEDUCED) -/
def twinHeld (s : State) : Bool := twinRole s != 0 && !bit (gpioLevels s) 3

/-- HOLD of a pair. -/
def pairHeld (s : State) (pair : Nat) : Bool := bit (reg s (linkPage (2 * pair) + Reg.RVL_BYPASS)) 1

/-- A condition of Table R352 besides HOLD keeps a pair in bypass. -/
def bypassHeld (s : State) (pair : Nat) : Bool :=
  !dieLive s (linkHome (2 * pair)).1 || inReset s || s.sys.rstLow || s.sys.power != .on || s.sys.entering.isSome

/-- OPEN is written on a pair (R352, R357, R401, R481): HOLD refuses it, no package writes it under a low TWIN_HOLD_N, another condition
keeps the pair, a loopback gives way. (log 82: DEDUCED; log 100: DEDUCED) -/
def openPair (pair : Nat) (s : State) : State :=
  let page := linkPage (2 * pair)
  if pairHeld s pair then recErr page 0xFFF 0xA2 zsDenied s
  else if twinHeld s then s else
  let s := setField (page + Reg.RVL_BYPASS) 0 0 1 s
  if bypassHeld s pair then s
  else if !inBypass s pair && (switchOf s pair).toOpen then s
  else
    let s := if (switchOf s pair).loopback then recContended page s else s
    let s := showSwitch pair false true true (modSwitch pair (fun _ => ⟨true, true, false⟩) s)
    forL [2 * pair, 2 * pair + 1] (fun k s => modPort k (fun l => { l with phase := 1 }) s) s

/-- OPEN_BYPASS (R352): firmware writes OPEN. -/
def execOpenBypass (pair : Nat) (s : State) : Host.Outcome State Fault Refusal := .next (if pair < 18 then openPair pair s else s)

/-- Set HOLD of a pair on both port pages; a pair that is held moves to bypass. -/
def setHold (pair : Nat) (v : Bool) (s : State) : State :=
  let s := forL [2 * pair, 2 * pair + 1] (fun k s => setField (linkPage k + Reg.RVL_BYPASS) 1 1 (b2n v) s) s
  if v then toBypass pair s else s

/-- HOLD (R352): firmware sets or clears HOLD. -/
def execHold (pair : Nat) (v : Bool) (s : State) : Host.Outcome State Fault Refusal := .next (if pair < 18 then setHold pair v s else s)

/-- BYPASS_SWITCH_SETTLED (R353): the moving switch reaches its commanded position; an open pair's ports begin to train.
(log 81: DEDUCED) -/
def execBypassSwitchSettled (pair : Nat) (s : State) : Host.Outcome State Fault Refusal :=
  .next (let w := switchOf s pair
    if !w.moving then s
    else if w.toOpen then showSwitch pair false false true (modSwitch pair (fun w => { w with moving := false }) s)
    else restBypass pair s)

/-! ## Routing (R341, R342, R345) -/

/-- RVL_ROUTE_DATA_WRITE (R342): the entry that RVL_ROUTE_SEL names on the die; every copy takes it. -/
def execRvlRouteDataWrite (die v : Nat) (s : State) : Host.Outcome State Fault Refusal :=
  .next (let e := v % 2 ^ 37
    let d := bits (reg s (rvlPage die + Reg.RVL_ROUTE_SEL)) 15 0
    if !dieLive s die then s else { s with routes := if e = 0 then tdel s.routes d else tset s.routes d e })

/-- Set the package's position and hop limit on every live die (R341, R344). -/
def setPosition (v : Nat) (s : State) : State := forL (liveDies s) (fun d s => setReg (rvlPage d + Reg.RVL_POSITION) (v % 2 ^ 24) s) s

/-- RVL_POSITION_WRITE (R341, R344). -/
def execRvlPositionWrite (die v : Nat) (s : State) : Host.Outcome State Fault Refusal := .next (if dieLive s die then setPosition v s else s)

/-- ROUTE_HOLD_END (R345): the oldest hold is over, and the packets that no hold keeps are sent, in order. -/
def execRouteHoldEnd (s : State) : Host.Outcome State Fault Refusal :=
  .next (match s.routeHolds with
    | [] => s
    | _ :: r =>
      let l := s.heldPkts
      forL l (fun h s => match routePkt (if h.1 = 36 then none else some h.1) h.2 s with
        | (true, s) => s
        | (false, s) => unreachable (if h.1 = 36 then (liveDies s).headD 0 else (linkHome h.1).1) h.2 (freeFlits (some (h.1, h.2.vc)) (pktFlits h.2) s)) { s with routeHolds := r, heldPkts := [] })

end Sys2Proof.Machine
end

