-- ==== Sys2Proof/Machine/Boot.lean ====
section
/-! DEFINITION. Image banks and their verification (R429 to R432), the image pull (R433, R434-pull), the configuration record (R434), and
the package measurements (R436). -/

namespace Sys2Proof.Machine

/-- ORS_ page 0. -/
def orsPage : Nat := pageAddr .ors 15 0 0

/-! ## Images (R429, R430) -/

/-- Fields of an image header. -/
def hKeyIndex (h : List Byte) : Nat := bytesAt h 6 1
def hRevoke (h : List Byte) : Nat := bytesAt h 7 1
def hSvn (h : List Byte) : Nat := bytesAt h 8 4
def hFloor (h : List Byte) : Nat := bytesAt h 0x0C 4
def hLength (h : List Byte) : Nat := bytesAt h 0x10 4
def hPubkey (h : List Byte) : List Byte := (h.drop 0x20).take 133

/-- The byte range of a header is all zero. -/
def zeroRange (h : List Byte) (lo hi : Nat) : Bool := ((h.drop lo).take (hi - lo)).all (fun b => b == 0)

/-- Check 1 of R430: MAGIC, VERSION, reserved fields, FLOOR ≤ SVN; KEY_INDEX and LENGTH lie in their ranges. -/
def headerForm (h : List Byte) : Bool :=
  h.length == 4096 && bytesAt h 0 4 == 0x474B535A && bytesAt h 4 2 == 1 && hKeyIndex h < 4 && hRevoke h < 16 && 1 ≤ hLength h &&
    hLength h ≤ 0x17FE000 && zeroRange h 0x14 0x20 && zeroRange h 0xA5 0xB0 && zeroRange h 0x174 0x1000 && hFloor h ≤ hSvn h

/-- Checks 1 to 5 of R430 on a header: the status and subcode of the first that fails. -/
def headerFails (s : State) (h : List Byte) : Option (Nat × Nat) :=
  if !headerForm h then some (zsBadFormat, 0x09)
  else if sha512Nat (hPubkey h) != (Config.romKeyHash (hKeyIndex h)).toNat then some (zsAuthFail, 0x01)
  else if bit s.sys.revoked (hKeyIndex h) then some (zsAuthFail, 0x04)
  else if !ecdsaVerify (hPubkey h) (h.take 0xF0) (beNat ((h.drop 0xF0).take 66)) (beNat ((h.drop 0x132).take 66)) then some (zsAuthFail, 0x02)
  else if hSvn h < s.sys.imageFloor then some (zsAuthFail, 0x03)
  else none

/-- Check 6 of R430. -/
def bodyOk (h body : List Byte) : Bool := body.length == hLength h && sha512 body == (h.drop 0xB0).take 64

/-- The verification of an image (R430). (log 103: DEDUCED) -/
def imageFails (s : State) (h body : List Byte) : Option (Nat × Nat) :=
  match headerFails s h with
  | some f => some f
  | none => if bodyOk h body then none else some (zsAuthFail, 0x02)

/-- A bank. -/
def bankOf (s : State) (i : Nat) : Bank := s.sys.banks.getD i .erased

/-- Change a bank. -/
def setBank (i : Nat) (b : Bank) (s : State) : State := modSys (fun y => { y with banks := lset y.banks i .erased b }) s

/-- The bank that was not booted. -/
def spareBank (s : State) : Nat := 1 - s.sys.booted

/-- The candidate banks in descending BANK_GEN order (R431). -/
def candidates (s : State) : List Nat :=
  match (bankOf s 0).gen, (bankOf s 1).gen with
  | none, none => []
  | some _, none => [0]
  | none, some _ => [1]
  | some a, some b => if a ≥ b then [0, 1] else [1, 0]

/-- The bank that boots: the first candidate that verifies. -/
def bootBank (s : State) : Option Nat := (candidates s).find? (fun i => (imageFails s (bankOf s i).header (bankOf s i).body).isNone)

/-- Boot a bank (R431, R441): ORS_BOOT, ORS_SVN, and the other bank's verification. -/
def bootImage (i : Nat) (s : State) : State :=
  let other := bankOf s (1 - i)
  let reject := if other.gen.isNone then none else imageFails s other.header other.body
  let s := match reject with
    | some (st, sub) => recErr orsPage 0xFFF sub st s
    | none => s
  setReg (orsPage + Reg.ORS_SVN) (hSvn (bankOf s i).header)
    (setReg (orsPage + Reg.ORS_BOOT) (i % 2 + 2 * b2n (s.sys.pulledBank == some i) + (reject.elim 0 (fun r => r.1)) * 2 ^ 8)
      (modSys (fun y => { y with booted := i, pullFault := false }) s))

/-- Orris raises IMAGE_FLOOR and revokes keys (R432). -/
def settleFloors (s : State) : State :=
  let h := (bankOf s s.sys.booted).header
  modSys (fun y => { y with imageFloor := max y.imageFloor (hFloor h),
                            revoked := y.revoked ||| setBits (hRevoke h % 16) (hKeyIndex h) (hKeyIndex h) 0 }) s

/-- Draw a new nonce for authorisations (R439). (log 6: DESIGN CHOICE) -/
def newNonce (s : State) : State := setReg (orsPage + Reg.ORS_DBG_NONCE) ((Config.random s.draws).toNat % 2 ^ 64) { s with draws := s.draws + 1 }

/-- Draw a new handle key (R24). (log 6: DESIGN CHOICE) -/
def newHandleKey (s : State) : State := { s with hkey := (Config.random s.draws).toNat % 2 ^ 128, draws := s.draws + 1 }

/-! ## The image pull (R433, R434-pull) -/

/-- Start discovery on a management port with a new SESSION; what has been written stays. -/
def discover (port : Nat) (s : State) : State :=
  let n := (Config.random s.draws).toNat % 2 ^ 64
  modSys (fun y => { y with pull := some ⟨port, n, none, (y.pull.elim [] (fun p => p.got)), []⟩ }) { s with draws := s.draws + 1 }

/-- Discovery goes on, on the other management port. -/
def rediscover (s : State) : State := discover (if s.sys.pull.any (fun p => p.port == 7) then 8 else 7) s

/-- The first 8 bytes of DEVICE_ID. -/
def device8 : Nat := Config.deviceId.toNat % 2 ^ 64

/-- The 32-byte header of a pull datagram, and its payload. -/
def pullDatagram (op session off len : Nat) : List Byte :=
  toBytes 4 0x4C4C5550 ++ toBytes 1 op ++ zeros 3 ++ toBytes 8 session ++ toBytes 4 off ++ toBytes 4 len ++ toBytes 8 device8

/-- Send a pull datagram. -/
def sendPull (p : Pull) (op off len : Nat) (data : List Byte) (s : State) : State :=
  emit (.frame p.port 8 [] (pullDatagram op p.session off len ++ data)) s

/-- DISCOVER_TIMER (R434-pull): the ROM sends DISCOVER with IMAGE_FLOOR. -/
def execDiscoverTimer (s : State) : Host.Outcome State Fault Refusal :=
  .next (match s.sys.pull with
    | none => s
    | some p => if p.header.isSome then s else sendPull p 1 0 4 (toBytes 4 s.sys.imageFloor) s)

/-- Body offsets that are neither written nor asked for. -/
def unasked (p : Pull) : List Nat :=
  let n := divUp (p.header.elim 0 hLength) 1024
  ((List.range n).map (fun i => i * 1024)).filter (fun o => !p.got.contains o && (tget? p.reads o).isNone)

/-- Keep up to 32 READs outstanding. -/
def issueReads (s : State) : State :=
  match s.sys.pull with
  | none => s
  | some p =>
    forL ((unasked p).take (32 - p.reads.length)) (fun o s =>
      sendPull p 3 (4096 + o) (min 1024 (p.header.elim 0 hLength - o)) [] (modSys (fun y => { y with pull := y.pull.map (fun p => { p with reads := tset p.reads o 0 }) }) s)) s

/-- OFFER (R434-pull): the first whose SESSION and DEVICE match and whose image header passes checks 1 to 5 is accepted. -/
def execOffer (port session device : Nat) (header : List Byte) (s : State) : Host.Outcome State Fault Refusal :=
  .next (match s.sys.pull with
    | none => s
    | some p =>
      if p.header.isSome || p.port ≠ port || p.session ≠ session || device ≠ device8 || (headerFails s header).isSome then s else
      let i := spareBank s
      issueReads (modSys (fun y => { y with pull := y.pull.map (fun p => { p with header := some header }) })
        (setBank i { bankOf s i with header := header, gen := none } s)))

/-- Write bytes into a body that reads 0xFF where nothing is written. -/
def bodyPut (body : List Byte) (off : Nat) (data : List Byte) : List Byte :=
  let body := if body.length < off then body ++ List.replicate (off - body.length) 0xFF else body
  putBytes body off data

/-- The pull has its last byte: check 6, then the trailer (R431); a body that fails it is fetched again from another server.
(log 103: DEDUCED) -/
def pullEnds (h : List Byte) (s : State) : State :=
  let i := spareBank s
  let b := bankOf s i
  if !bodyOk h (b.body.take (hLength h)) then
    rediscover (modSys (fun y => { y with pull := y.pull.map (fun p => { p with got := [] }) }) (recErr orsPage 0xFFF 0x02 zsAuthFail s))
  else
    let gen := (max ((bankOf s 0).gen.getD 0) ((bankOf s 1).gen.getD 0)) + 1
    bumpSat (orsPage + Reg.ORS_PULLS) 1 (modSys (fun y => { y with pull := none, pulledBank := some i })
      (setBank i ⟨h, b.body.take (hLength h), some gen⟩ s))

/-- PULL_DATA (R434-pull): a DATA datagram is written into the spare bank. -/
def execPullData (port session off : Nat) (data : List Byte) (s : State) : Host.Outcome State Fault Refusal :=
  .next (match s.sys.pull with
    | none => s
    | some p =>
      match p.header with
      | none => s
      | some h =>
        let o := off - 4096
        if p.port ≠ port || p.session ≠ session || off < 4096 || (tget? p.reads o).isNone || data.length ≠ min 1024 (hLength h - o) then s else
        let i := spareBank s
        let s := setBank i { bankOf s i with body := bodyPut (bankOf s i).body o data } s
        let p' := { p with got := sinsert p.got o, reads := tdel p.reads o }
        let s := modSys (fun y => { y with pull := some p' }) s
        if (unasked p').isEmpty && p'.reads.isEmpty then pullEnds h s else issueReads s)

/-- PULL_NAK (R434-pull). -/
def execPullNak (port session : Nat) (s : State) : Host.Outcome State Fault Refusal :=
  .next (if s.sys.pull.any (fun p => p.port == port && p.session == session) then rediscover s else s)

/-- READ_TIMEOUT (R434-pull): the READ of an offset is resent, and after 20 resends discovery starts again. -/
def execReadTimeout (off : Nat) (s : State) : Host.Outcome State Fault Refusal :=
  .next (match s.sys.pull with
    | none => s
    | some p =>
      match tget? p.reads (off - 4096) with
      | none => s
      | some n =>
        if n ≥ 20 then rediscover s else
        sendPull p 3 off (min 1024 (p.header.elim 0 hLength - (off - 4096))) []
          (modSys (fun y => { y with pull := some { p with reads := tset p.reads (off - 4096) (n + 1) } }) s))

/-- PULL_FAULT_LIMIT (R433): a pull has run for 10 s and FAULT_N is asserted. -/
def execPullFaultLimit (s : State) : Host.Outcome State Fault Refusal :=
  .next (if s.sys.pull.isNone then s else modSys (fun y => { y with pullFault := true }) s)

/-! ## The configuration record (R434) -/

/-- The first condition of a record that fails: its status and subcode (R434, R442). (log 104: DEDUCED) -/
def cfgFails (s : State) (r : CfgRec) : Option (Nat × Nat) :=
  if r.magic ≠ 0x4643535A || r.version ≠ 1 then some (zsBadFormat, 0x09)
  else if r.device ≠ Config.deviceId.toNat then some (zsAuthFail, 0x05)
  else if r.seq < s.sys.cfgFloor then some (zsAuthFail, 0x03)
  else
    let bad := match s.sys.owner with
      | some h => if sha512Nat r.key = h then none else some 0x01
      | none => match r.vendor with
        | none => some 0x01
        | some k => if k ≥ 4 || sha512Nat r.key ≠ (Config.romKeyHash k).toNat then some 0x01 else if bit s.sys.revoked k then some 0x04 else none
    match bad with
    | some sub => some (zsAuthFail, sub)
    | none => if r.sigOk then none else some (zsAuthFail, 0x02)

/-- A copy of the record. -/
def cfgOf (s : State) (i : Nat) : Option CfgRec := s.sys.cfgs.getD i none

/-- The valid copy with the greater CFG_SEQ. -/
def cfgChoice (s : State) : Option (Nat × CfgRec) :=
  let ok (i : Nat) : Option (Nat × CfgRec) := (cfgOf s i).bind (fun r => if (cfgFails s r).isNone then some (i, r) else none)
  match ok 0, ok 1 with
  | none, none => none
  | some a, none => some a
  | none, some b => some b
  | some a, some b => if a.2.seq ≥ b.2.seq then some a else some b

/-- Select the record (R434): CFG_FLOOR rises, and a vendor-signed record may name a new owner key. -/
def selectCfg (s : State) : State :=
  match cfgChoice s with
  | none => modSys (fun y => { y with cfgUsed := none }) s
  | some (i, r) =>
    let s := modSys (fun y => { y with cfgUsed := some i, cfgFloor := max y.cfgFloor r.seq }) s
    match (if r.vendor.isSome then r.tlvs.findSome? (fun t => match t with | .owner h => some h | _ => none) else none) with
    | none => s
    | some h => if s.sys.owner = some h then s else modSys (fun y => { y with owner := some h, ownerGen := y.ownerGen + 1 }) s

/-- The IPv6 link-local address of a management port (R434-pull). (log 103: DEDUCED) -/
def linkLocal : Nat := 0xFE80 * 2 ^ 112 + (beNat (toBytes 8 device8) ^^^ 2 ^ 57)

/-- Load a port's addresses (R369, R370, R434): an address that is not zero is enabled. -/
def loadAddress (port mac v4 v6 vlan : Nat) (s : State) : State :=
  let page := if port ≤ 6 then pageAddr .svp port 0 0 else pageAddr .mgp 15 (port - 7) 0
  let mp := decide (7 ≤ port)
  let s := setReg (page + Reg.SVP_IPV4) (v4 % 2 ^ 32) (setReg (page + Reg.SVP_MAC) (mac % 2 ^ 48) s)
  let s := forN 4 (fun k s => setReg (page + Reg.SVP_IPV6 + 4 * k) (v6 / 2 ^ (32 * k) % 2 ^ 32) s) s
  let c := reg s (page + Reg.SVP_CFG)
  setReg (page + Reg.SVP_CFG) (if mp then setBits c 1 0 (b2n (v4 != 0) + 2 * b2n (v6 != 0))
    else setBits (setBits c 13 12 (b2n (v4 != 0) + 2 * b2n (v6 != 0))) 11 0 vlan) s

/-- The addresses of every port: those of the record, or the defaults. (log 103: DEDUCED) -/
def loadAddresses (s : State) : State :=
  let s := forL [7, 8] (loadAddress · 0 0 linkLocal 0) s
  forL (cfgTlvs s) (fun t s => match t with
    | .address p mac v4 v6 vlan => if (7 ≤ p && p ≤ 8) || (1 ≤ p && p ≤ 6 && dieLive s p) then loadAddress p mac v4 v6 vlan s else s
    | _ => s) s

/-- Load CAD_TWIN_CFG (R401, R434): a spare adopts its position and holds every pair. (log 100: DEDUCED) -/
def loadTwin (s : State) : State :=
  let cfg := ((cfgTlvs s).findSome? (fun t => match t with | .twin c => some c | _ => none)).getD 0 &&& 0xFFFF0003
  let s := forL (liveDies s) (fun d s => setReg (pageAddr .cad d 0 1 + Reg.CAD_TWIN_CFG) cfg s) s
  match cfg % 4 with
  | 1 => setTwinState (if twinHeld s then 5 else 1) s
  | 2 => setTwinState 2 (forN 18 (fun k s => setHold k true s) (setPosition (bits (reg s (rvlDie s + Reg.RVL_POSITION)) 23 16 * 65536 + cfg / 65536) s))
  | _ => setTwinState 0 s

/-- The executive loads the configuration (R413, phase 7): addresses, twin configuration and operator policy. -/
def loadCfg (s : State) : State :=
  let p := ((cfgTlvs s).findSome? (fun t => match t with | .policy p => some p | _ => none)).getD .default
  modSys (fun y => { y with policy := p }) (loadTwin (loadAddresses s))

/-! ## Measurements (R436) -/

/-- M_FW. -/
def mFw (s : State) : Nat := sha512Nat ((bankOf s s.sys.booted).header.take 0x174)

/-- M_CFG. -/
def mCfg (s : State) : Nat := ((s.sys.cfgUsed.bind (cfgOf s)).map (fun r => sha512Nat r.bytes)).getD 0

/-- The scope of an open JTAG gate: 0 closed, 1 OBSERVE, 2 FULL (R441). -/
def dbgScope (s : State) : Nat := bits (reg s (orsPage + Reg.ORS_DBG_STATE)) 1 0

/-- M_STATE. -/
def mState (s : State) : Nat :=
  sha512Nat (toBytes 4 s.sys.imageFloor ++ toBytes 4 s.sys.cfgFloor ++ toBytes 1 s.sys.revoked ++ toBytes 1 (dbgScope s) ++ toBytes 1 (bits (reg s dieMapAddr) 7 0))

end Sys2Proof.Machine
end

