-- ==== Sys2Proof/Machine/Control.lean ====
section
/-! DEFINITION. Branches, JOIN, EXIT, YIELD and the named barriers (R54 to R57, R60 to R64, R99 to R101), and the loom's own events
about them. -/

namespace Sys2Proof.Machine

/-- Give the taken threads of the issuing group their targets and the rest the next instruction: one group for each distinct
target (R54, R99). -/
def branchTo (e : Env) (targets : List (Nat × Nat)) (k : Skein) : Skein :=
  let taken := listMask (targets.map (fun p => p.1))
  let rest := e.mask - (e.mask &&& taken)
  let dests := (targets.map (fun p => p.2)).eraseDups
  let new := dests.map (fun d => (⟨listMask ((targets.filter (fun p => p.2 == d)).map (fun p => p.1)), d, .none⟩ : Group))
  { k with groups := k.groups.filter (fun g => g.mask != e.mask) ++ new ++ (if rest = 0 then [] else [⟨rest, nextPc e, .none⟩]) }

/-- The target of BRA and CALL (R99). -/
def relTarget (e : Env) : Nat := wrap 64 ((e.ins.pc : Int) + 8 + 8 * sext 19 (bits e.ins.w 18 0))

/-- BRA (R99). -/
def execBra (w : Who) (s : State) : Host.Outcome State Fault Refusal :=
  .next (issueRow w (0x28 * 8) (fun _ => true) (fun e s =>
    modSkein e.loom e.skein (branchTo e ((lanes e).map (fun t => (t, relTarget e)))) (operandRead e s)) s)

/-- CALL (R99): the threads that take the call receive the address of the next word. -/
def execCall (w : Who) (s : State) : Host.Outcome State Fault Refusal :=
  .next (issueRow w (0x2A * 8) (fun _ => true) (fun e s =>
    modSkein e.loom e.skein (fun k => branchTo e ((lanes e).map (fun t => (t, relTarget e)))
      (wrDst e.ins.w 2 ((lanes e).map (fun t => (t, nextPc e))) k)) (operandRead e s)) s)

/-- A branch through operand A (R99): a misaligned target faults. -/
def indirect (e : Env) (s : State) : State :=
  let targets := (lanes e).map (fun t => (t, src e 0 2 t))
  match targets.find? (fun p => p.2 % 8 != 0) with
  | some p => insFault e zsMisaligned 0x02 p.2 p.1 s
  | none => modSkein e.loom e.skein (branchTo e targets) (operandRead e s)

/-- BRX (R99). -/
def execBrx (w : Who) (s : State) : Host.Outcome State Fault Refusal :=
  .next (issueRow w (0x29 * 8) (fun _ => true) indirect s)

/-- RET (R99). -/
def execRet (w : Who) (s : State) : Host.Outcome State Fault Refusal :=
  .next (issueRow w (0x2B * 8) (fun _ => true) indirect s)

/-- JOIN (R55, R100): the group waits with its expected mask, and the waiting groups merge once it is met. -/
def execJoin (w : Who) (s : State) : Host.Outcome State Fault Refusal :=
  .next (issueRow w (0x2C * 8) (fun _ => true) (fun e s =>
    let expected := src e 0 1 (lowThread e)
    modSkein e.loom e.skein joinCheck
      (finish e (modGroup e.mask (fun g => { g with wait := .join e.ins.pc expected false })) s)) s)

/-- EXIT (R62, R100). -/
def execExit (w : Who) (s : State) : Host.Outcome State Fault Refusal :=
  .next (issueRow w (0x2D * 8) (fun _ => true) (fun e s => exitThreads e.loom e.skein (listMask (lanes e)) (finish e id s)) s)

/-- YIELD (R57). -/
def execYield (w : Who) (s : State) : Host.Outcome State Fault Refusal :=
  .next (issueRow w (0x2E * 8) (fun _ => true) (fun e s =>
    finish e (modGroup e.mask (fun g => { g with wait := .yield })) s) s)

/-! ## Named barriers -/

/-- The physical number of a barrier that an instruction names, if it is in range (R42, R101). -/
def barNumber (e : Env) : Option Nat :=
  let b := src e 0 1 (lowThread e)
  if loomSplit e.s e.loom then (if b < 8 then some (if onEast e.s e.loom e.skein then b + 8 else b) else none)
  else if b < 16 then some b else none

/-- A thread of the loom waits at a barrier. -/
def barWaiting (s : State) (loom b : Nat) : Bool := (loomOf s loom).skeins.any (fun k => k.2.groups.any (waitsAt b))

/-- The skein slots of a barrier domain of a loom: the west half or the whole loom, or the east half (R63). -/
def domainSkeins (s : State) (loom : Nat) (east : Bool) : List (Nat × Skein) :=
  (loomOf s loom).skeins.filter (fun x => onEast s loom x.1 == east)

/-- The barriers of a domain with a waiting thread, ascending. -/
def domainBarriers (s : State) (loom : Nat) (east : Bool) : List Nat :=
  (List.range 16).filter (fun b => (domainSkeins s loom east).any (fun x => x.2.groups.any (waitsAt b)))

/-- Raise ZS_BARRIER_SPLIT (R64, R68): LOOM_BAR_FAULT takes the waiting barriers, and every thread of the domain halts.
(log 24: DEDUCED) -/
def barrierSplit (loom skein : Nat) (east : Bool) (sub pc mask th : Nat) (s : State) : State :=
  let bars := domainBarriers s loom east
  let ks := (domainSkeins s loom east).filter (fun x => !x.2.groups.isEmpty)
  loomFault loom skein (ks.map (fun x => x.1)) zsBarrierSplit sub 3 pc 0 mask th
    (setReg (loomPage loom + Reg.LOOM_BAR_FAULT) (bars.headD 0 + bars.length * 16) s)

/-- The skein slots that a barrier may enrol: those of the issuer's half of a split loom (R42). (log 133: DESIGN CHOICE) -/
def enrolMask (e : Env) : Nat :=
  if loomSplit e.s e.loom then (if onEast e.s e.loom e.skein then 0xFFFFFFFF00000000 else 0xFFFFFFFF) else 0xFFFFFFFFFFFFFFFF

/-- BAR.INIT (R60, R101). (log 24: DEDUCED; log 133: DESIGN CHOICE) -/
def execBarInit (w : Who) (s : State) : Host.Outcome State Fault Refusal :=
  .next (issueRow w (0x2F * 8) (fun _ => true) (fun e s =>
    let n := src e 1 1 (lowThread e)
    match barNumber e with
    | none => insFault e zsDenied 0x34 0 (lowThread e) s
    | some b =>
      if n > (if loomSplit e.s e.loom then 1024 else 2048) then insFault e zsDenied 0x35 0 (lowThread e) s
      else if barWaiting s e.loom b then barrierSplit e.loom e.skein (onEast e.s e.loom e.skein) 0x03 e.ins.pc e.mask (lowThread e) s
      else finish e id (modLoom e.loom (fun l => { l with barriers := tset l.barriers b ⟨n, n, 0, src e 2 2 (lowThread e) &&& enrolMask e, []⟩ }) s)) s)

/-- Arrive with the threads of the issuing group (R61). (log 118: DESIGN CHOICE) -/
def barArrive (e : Env) (b : Nat) (s : State) : State :=
  let ts := maskList 32 e.mask
  modLoom e.loom (fun l => { l with barriers := tmod l.barriers b ⟨0, 0, 0, 0, []⟩ (fun r =>
    { r with a := r.a + ts.length, arrived := r.arrived ++ ts.map (fun t => e.skein * 32 + t) }) }) s

/-- BAR.SYNC (R61). -/
def execBarSync (w : Who) (s : State) : Host.Outcome State Fault Refusal :=
  .next (issueRow w (0x2F * 8 + 1) (fun _ => true) (fun e s =>
    match barNumber e with
    | none => insFault e zsDenied 0x34 0 (lowThread e) s
    | some b => barCheck e.loom b (barArrive e b (finish e (modGroup e.mask (fun g => { g with wait := .bar b e.ins.pc })) s))) s)

/-- BAR.ARV (R61). -/
def execBarArv (w : Who) (s : State) : Host.Outcome State Fault Refusal :=
  .next (issueRow w (0x2F * 8 + 2) (fun _ => true) (fun e s =>
    match barNumber e with
    | none => insFault e zsDenied 0x34 0 (lowThread e) s
    | some b => barCheck e.loom b (barArrive e b (finish e id s))) s)

/-! ## Events -/

/-- JOIN_RELEASE (R56): a group has waited 256 cycles at the JOIN while another group issued. -/
def execJoinRelease (loom skein addr : Nat) (s : State) : Host.Outcome State Fault Refusal :=
  .next (match tget? (loomOf s loom).skeins skein with
    | none => s
    | some k =>
      if k.groups.any (fun g => match g.wait with | .join a _ other => a == addr && other | _ => false) then
        bumpSat (loomPage loom + Reg.LOOM_JOIN_RELEASE) 1 (modSkein loom skein (joinMerge addr) s)
      else s)

/-- YIELD_EXPIRY (R57): a yielding group is ready again after 64 issue cycles. -/
def execYieldExpiry (loom skein thread : Nat) (s : State) : Host.Outcome State Fault Refusal :=
  .next (modSkein loom skein (fun k => { k with groups := k.groups.map (fun g =>
    match g.wait with
    | .yield => if bit g.mask thread then { g with wait := .none } else g
    | _ => g) }) s)

/-- A barrier stall exists in a domain (R63). -/
def barrierStall (s : State) (loom : Nat) (east : Bool) : Bool :=
  let ks := domainSkeins s loom east
  ks.any (fun x => !x.2.groups.isEmpty) &&
    ks.all (fun x => x.2.groups.all (fun g => match g.wait with | .bar _ _ => true | _ => false)) &&
    (domainBarriers s loom east).all (fun b => match tget? (loomOf s loom).barriers b with | some r => r.a != r.e | none => true)

/-- BARRIER_STALL (R63, R64): the domain halts with ZS_BARRIER_SPLIT. (log 24: DEDUCED) -/
def execBarrierStall (loom : Nat) (east : Bool) (s : State) : Host.Outcome State Fault Refusal :=
  .next (if !(barrierStall s loom east) then s else
    match (domainSkeins s loom east).filter (fun x => !x.2.groups.isEmpty) with
    | [] => s
    | k :: _ =>
      match k.2.groups with
      | [] => s
      | g :: _ =>
        barrierSplit loom k.1 east (if (domainBarriers s loom east).length > 1 then 0x01 else 0x02)
          (match g.wait with | .bar _ a => a | _ => g.pc) g.mask ((maskList 32 g.mask).headD 0) s)

end Sys2Proof.Machine
end

