-- ==== Sys2Proof/Machine/RegRead.lean ====
section
/-! DEFINITION. What a register reads: header registers (R32), the registers that show state kept elsewhere (R69, R156, R183, R206,
R242, R243, R263, R264, R297 to R299, R356), and the stored value of every other (R33). -/

namespace Sys2Proof.Machine

/-! ## Work in flight -/

/-- Accepted ops of an array half. -/
def halfOps (h : ArrayHalf) : Nat := h.ops.length

/-- CAD_FILL_STATE's STATE (R406). -/
def fillStateCode (g : SilGroup) : Nat :=
  match g.mode with
  | .joining => 1
  | .copying => 2
  | .image => 3
  | _ => if g.fill.ended then 4 else 0

/-- The bytes of a group's FILL segments (R403): 64 MiB each, slice by slice. (log 76: DESIGN CHOICE) -/
def fillSegments (g : SilGroup) : List Nat :=
  g.slices.flatMap (fun x => (List.range ((x.paramBytes + 2 ^ 26 - 1) / 2 ^ 26)).map (fun i => min (2 ^ 26) (x.paramBytes - i * 2 ^ 26)))

/-- Of segments that come in order, how many a number of bytes finishes, and their bytes. (log 76: DESIGN CHOICE) -/
def fillDone (bytes : Nat) (l : List Nat) : Nat × Nat :=
  match l with
  | [] => (0, 0)
  | n :: r => if n ≤ bytes then (let d := fillDone (bytes - n) r; (d.1 + 1, n + d.2)) else (0, 0)

/-- SELF of a group's descriptor (R301). -/
def gSelf (g : SilGroup) : Nat := bytesAt g.desc 0x0B 1

/-- This package's entry in the member table. -/
def gMe (g : SilGroup) : SilMember := g.members.getD (gSelf g) ⟨0, 0, 0⟩

/-- The die at which a group's segments are judged: the home of its own endpoint. -/
def gDie (g : SilGroup) : Nat := hHome (gMe g).endpoint

/-- The link port of an RVL_ port page. -/
def linkNumber (die inst : Nat) : Nat := if die = 0 then inst else if die = 7 then 30 + inst else 6 + 4 * (die - 1) + inst

/-- Is work in flight in a page's block (R32 STATUS.BUSY). -/
def blockBusy (s : State) (p : PageRef) : Bool :=
  let l := loomOf s (p.die * 32 + p.inst)
  match p.blk with
  | .loom => !l.skeins.isEmpty
  | .twl => halfOps l.west + halfOps l.east != 0 || l.port.isSome
  | .acs => halfOps l.west + halfOps l.east != 0
  | .wvc => !(tgetD (weaveOf s p.die).miss p.inst []).isEmpty
  | .memc => bit (reg s (pageAddr .memc p.die p.inst 0 + Reg.MEMC_REBUILD)) 6
  | .ctx => s.ctxs.any (fun x => x.2.teardown.isSome)
  | .que => s.delayed.any (fun d => hHome d.queue == p.die)
  | .sch => s.dispatches.any (fun x => x.2.loom / 32 == p.die)
  | .dma => bit (reg s (dmaPage p.die p.inst + Reg.DMA_CHAN)) 31
  | .chk => (tgetD s.chk p.die .empty).running != []
  | .sil => s.groups.any (fun g => gDie g.2 == p.die && !(g.2.runs.isEmpty && g.2.held.isEmpty))
  | .cad => s.groups.any (fun g => gDie g.2 == p.die && (g.2.capture.isSome || fillStateCode g.2 % 4 != 0))
  | .rvl =>
    let l := portOf s (linkNumber p.die p.inst)
    l.phase != 0 || !(l.replay.isEmpty && l.txq.isEmpty)
  | .rvlDie => s.fabric.any (fun r => r.die == p.die)
  | .svp =>
    let q := tgetD s.svc p.die .empty
    !(q.runs.isEmpty && q.serves.isEmpty && (tgetD s.zjp p.die .empty).busy.isEmpty)
  | .mgp => !(tgetD s.zjp 7 .empty).busy.isEmpty
  | .ors => s.sys.imageWrite.isSome || s.sys.cfgWrite.isSome || s.sys.pull.isSome
  | _ => false

/-- STATUS of a page (R32): READY while the block accepts work, BUSY, QUIESCED, ERROR, CONTENDED. (log 45: DEDUCED) -/
def statusOf (s : State) (p : PageRef) : Nat :=
  let a := p.addr
  let busy := blockBusy s p
  b2n (pageEnabled s a) + 2 * b2n busy + 4 * b2n (bit (reg s (a + hdrCtrl)) 1 && !busy) + 8 * b2n (bit (reg s (a + hdrErrFirst)) 31) +
    16 * bits (reg s (a + hdrStatus)) 4 4

/-! ## Registers that show other state -/

/-- Lines of a die's cache that a test admits. -/
def weaveCount (s : State) (die : Nat) (f : WLine → Bool) : Nat := (weaveOf s die).sets.foldl (fun n t => n + t.2.ways.countP f) 0

/-- Lines of one slice that a test admits. -/
def sliceCount (s : State) (die slice : Nat) (f : WLine → Bool) : Nat :=
  (weaveOf s die).sets.foldl (fun n t => if t.1 / 2048 = slice then n + t.2.ways.countP f else n) 0

/-- Skeins resident in a quadrant. -/
def quadSkeins (s : State) (loom q : Nat) : Nat := (loomOf s loom).skeins.countP (fun x => x.1 / 16 == q)

/-- Accepted, not-started ops of an array half. -/
def queuedOps (h : ArrayHalf) : Nat :=
  h.ops.countP (fun o => match o.stage with | .queued => true | .loaded _ _ => true | _ => false)

/-- Rows of the open batch. -/
def batchRows (h : ArrayHalf) : Nat := h.batch.elim 0 (fun b => b.reqs.foldl (fun n r => n + (bytesAt r.desc 6 1 + 1)) 0)

/-- ARITH cycles that the slot store of a half has waited for Sillage since its last attempt (R199). -/
def silWaiting (s : State) (h : ArrayHalf) : Nat :=
  h.ops.foldl (fun n o => match o.stage with | .handing _ _ t => n + (cycles s - t) | _ => n) 0

/-- Physical slot numbers that a loom lends out (R186). -/
def heldSlots (l : Loom) : Nat :=
  (l.leaseWest.elim 0 (fun x => 2 ^ x.slots - 1)) ||| (l.leaseEast.elim 0 (fun x => (2 ^ x.slots - 1) * 65536))

/-- INFLIGHT of a context on a die (R292): memory transactions, and outbound requests that are none. -/
def inflightOf (s : State) (c die : Nat) : Nat :=
  match ctxAt s c with
  | none => 0
  | some x => (ctxDie x die).memtx + s.fabric.countP (fun r => r.ctx == x.handle && r.die == die && (r.kind == .msg || r.kind == .sil))

/-- CTX_STATE's STATE field (R297). -/
def ctxStateCode (s : State) (c : Nat) : Nat :=
  match ctxAt s c with
  | none => if (tgetD s.slots (slotKey 1 15 c) .fresh).retired then 5 else 0
  | some x =>
    match x.state with
    | .active => if x.held then 2 else 1
    | .draining => 3
    | .scrubbing => 4

/-- Sum over the contexts of a die's count. -/
def ctxSum (s : State) (die : Nat) (f : CtxDie → Nat) : Nat := s.ctxs.foldl (fun n x => n + f (ctxDie x.2 die)) 0

/-- The survivor entry shown by MEMC_SURV_SEL: base, size, valid (R264). -/
def survShown (s : State) (die : Nat) : Nat × Nat × Bool :=
  tgetD s.survivors (die * 16 + bits (reg s (pageAddr .memc die 0 1 + Reg.MEMC_SURV_SEL)) 3 0) (0, 0, false)

/-- The 32 bytes of a drydown record (R420). -/
def recordBytes (r : DryRec) : List Byte :=
  toBytes 8 r.time ++ toBytes 4 r.seq ++ toBytes 1 r.source ++ toBytes 1 r.flags ++ toBytes 2 r.code ++
    (List.range 4).flatMap (fun i => toBytes 4 (r.args.getD i 0))

/-- FAULT_N is asserted: in the failed state, by a long image pull, or by a fired comparator with the action (R402, R433, R456). -/
def faultAsserted (s : State) : Bool := s.sys.failed || s.sys.pullFault || s.sys.cmps.any (fun c => c.2.fired && bit c.2.actions 3)

/-- SIL_GRP_STATE's STATE (R323): no group, between steps, in step once anything of the step has happened, waiting in COMMIT.
(log 79: DEDUCED) -/
def silStateCode (g : SilGroup) : Nat :=
  if g.runs.any (fun r => r.op == 6) then 3
  else if !(g.runs.isEmpty && g.from_.isEmpty && g.sent.isEmpty && g.paramGot.isEmpty && g.updated.isEmpty && g.ready.isEmpty) then 2
  else 1

/-- The record that DRY_RD_SEQ selects (R425). -/
def dryShown (s : State) : Option DryRec := s.dryRing.find? (fun r => r.seq == reg s (dryPage + Reg.DRY_RD_SEQ))

/-- Word `k` of a number, 32 bits each. -/
def word32 (v k : Nat) : Nat := v / 2 ^ (32 * k) % 2 ^ 32

/-- Field test of a die as CHK_FT_STATE shows it (R386): what the lowest loom under test does, and looms queued. -/
def testShown (k : CheckBlk) : Nat :=
  let low := (List.range 32).findSome? (fun i => k.running.find? (fun r => r.loom == i))
  (low.elim 0 (fun r => match r.phase with | .drain => 1 | .repair => 3 | _ => 2)) + k.queued.length * 2 ^ 8

/-- The value of a package-wide or PCD register whose state is kept elsewhere; `none` where the stored value is the register. -/
def derivedSys (s : State) (p : PageRef) (off : Nat) : Option Nat :=
  let a := p.addr
  match p.blk with
  | .sil =>
    match tget? s.groups (bits (reg s (a + Reg.SIL_GRP_SEL)) 9 0) with
    | none => if 0x84 ≤ off && off ≠ 0x90 then some 0 else none
    | some g =>
      let d := tget? g.ring (bits (reg s (a + Reg.SIL_DIG_SEL)) 5 0)
      if off = Reg.SIL_GRP_STATE then some (silStateCode g + g.attempt * 2 ^ 8)
      else if off = Reg.SIL_GRP_STEP then some (ctxStep s g.ctx)
      else if off = Reg.SIL_DIG_STEP then some (d.elim 0 (fun d => d.step))
      else if off = Reg.SIL_DIG_SENT_LO then some (d.elim 0 (fun d => d.sent % 2 ^ 64))
      else if off = Reg.SIL_DIG_SENT_HI then some (d.elim 0 (fun d => d.sent / 2 ^ 64))
      else if off = Reg.SIL_DIG_RECV_LO then some (d.elim 0 (fun d => d.recv % 2 ^ 64))
      else if off = Reg.SIL_DIG_RECV_HI then some (d.elim 0 (fun d => d.recv / 2 ^ 64))
      else if off = Reg.SIL_DIG_ATTEMPT then some (d.elim 0 (fun d => d.attempt))
      else none
  | .svp =>
    let q := tgetD s.svc p.die .empty
    if off = Reg.SVP_STATE then some (bits (reg s (a + Reg.SVP_STATE)) 1 0 + q.qps.length * 4)
    else if off = Reg.SVP_SERVE_PEND then some q.serves.length
    else none
  | .cad =>
    if p.page = 0 then none
    else if off = Reg.CAD_TWIN_STATE then
      let live := gpioLevels s
      some (bits (reg s (a + off)) 2 0 + (if twinRole s = 0 then 0 else 8 * b2n (!bit live 1) + 16 * b2n (!bit live 3)))
    else
      match tget? s.groups (bits (reg s (a + Reg.CAD_FILL_SEL)) 9 0) with
      | none => none
      | some g =>
        if off = Reg.CAD_FILL_STATE then some (fillStateCode g + g.fill.source.getD 0xFF * 2 ^ 8)
        else if off = Reg.CAD_FILL_SEG then some (fillDone g.fill.bytes (fillSegments g)).1
        else if off = Reg.CAD_FILL_LAG then some g.fill.lag
        else if off = Reg.CAD_FILL_SWITCHES then some g.fill.switches
        else if off = Reg.CAD_ROLLBACKS then some g.rollbacks
        else none
  | .rng =>
    match tget? s.streams (bits (reg s (a + Reg.RNG_SEL)) 15 0) with
    | none => none
    | some r =>
      if off = Reg.RNG_STEP then some (wrap 64 ((ctxStep s r.ctx : Int) + r.offset))
      else if off = Reg.RNG_DRAW_BASE then some r.base
      else if off = Reg.RNG_BIND then some (if r.cursor = 0 then 0 else hSlot r.cursor + 2 ^ 31)
      else none
  | .chk =>
    let k := tgetD s.chk p.die .empty
    if off = Reg.CHK_FT_STATE then some (testShown k)
    else if off = Reg.CHK_FT_ACTIVE then some (listMask (k.running.map (fun r => r.loom)))
    else none
  | .dry =>
    if off = Reg.DRY_COUNT then some s.dryRing.length
    else if off = Reg.DRY_RD_STATUS then some (b2n (dryShown s).isSome)
    else if 0x60 ≤ off && off < 0x80 then some ((dryShown s).elim 0 (fun r => bytesAt (recordBytes r) (off - 0x60) 4))
    else none
  | .ors =>
    if off = Reg.ORS_FLOORS then some (s.sys.imageFloor % 2 ^ 32 + s.sys.cfgFloor % 2 ^ 32 * 2 ^ 32)
    else if off = Reg.ORS_REVOKED then some (s.sys.revoked % 16)
    else if 0x60 ≤ off && off < 0xA0 then
      let k := (off - 0x60) / 4
      some (match bits (reg s (a + Reg.ORS_MEAS_SEL)) 1 0 with
        | 0 => word32 (mFw s) k
        | 1 => word32 (mCfg s) k
        | 2 => word32 Config.deviceId.toNat k
        | _ => 0)
    else none
  | .clk => if off = Reg.CLK_REF_COUNT then some s.refCount else none
  | .bnt =>
    let c := cmpOf s (bits (reg s (a + Reg.BNT_CMP_SEL)) 2 0)
    if off = Reg.BNT_TIME then some s.time
    else if off = Reg.BNT_FRAC then some s.frac
    else if off = Reg.BNT_CMP_CFG then some (cmpCfg c)
    else if off = Reg.BNT_CMP_VALUE then some c.value
    else if off = Reg.BNT_CMP_PERIOD then some c.period
    else none
  | .pwr =>
    let g := gateOf s (bits (reg s (a + Reg.PWR_GATE_SEL)) 2 0)
    if off = Reg.PWR_GATE then some (gateLevel g + gateCause g * 2 ^ 8 + g.floor * 2 ^ 16)
    else if off = Reg.PWR_GATED then some (g.cycles / 64)
    else none
  | .pcd =>
    if off = Reg.PCD_GPIO then some (setBits (reg s (a + off)) 7 0 (gpioLevels s))
    else if off = Reg.PCD_LANDS then
      some (b2n (!s.sys.wakeLow) + 2 * b2n (!s.sys.rstLow) + 4 * b2n (faultAsserted s) + 8 * b2n s.sys.vinGood + bits (reg s (a + off)) 5 4 * 16)
    else none
  | _ => none

/-- The skeins of a half, or of the whole of an unsplit loom. -/
def halfSkeins (s : State) (loom : Nat) (east : Bool) : List (Nat × Skein) := (loomOf s loom).skeins.filter (fun x => onEast s loom x.1 == east)

/-- Every accepted or submitted op of the half has completed, and every LCV instruction but a QUE.WAIT that finds no entry (R66).
(log 62: DESIGN CHOICE) -/
def drained (s : State) (loom : Nat) (east : Bool) : Bool :=
  let h := halfOf s loom east
  h.subs.isEmpty && h.ops.isEmpty && h.batch.isNone &&
    (halfSkeins s loom east).all (fun x => x.2.lcvs.all (fun l => match l.wait with | .queue _ _ => true | _ => false))

/-- A preempted half has drained, and its save is in progress (R66, R69). -/
def savingHalf (s : State) (loom : Nat) (east : Bool) : Bool :=
  (if east then (loomOf s loom).preemptEast else (loomOf s loom).preemptWest) == .stopping && drained s loom east

/-- An engine is among the four that serve a capture of their die first (R485, R491): engines 0 to 3. (log 66: DESIGN CHOICE) -/
def servesCapture (s : State) (die engine : Nat) : Bool := engine < 4 && s.groups.any (fun g => gDie g.2 == die && g.2.capture.isSome)

/-- The value of a register whose state is kept elsewhere; `none` where the stored value is the register. -/
def derived (s : State) (p : PageRef) (off : Nat) : Option Nat :=
  let a := p.addr
  let loom := p.die * 32 + p.inst
  let l := loomOf s loom
  match p.blk with
  | .loom =>
    if off = Reg.LOOM_PREEMPT then some (setBits (reg s (a + off)) 2 2 (b2n (savingHalf s loom false || savingHalf s loom true)))
    else if off = Reg.LOOM_OCC then some (quadSkeins s loom 0 + quadSkeins s loom 1 * 2 ^ 8 + quadSkeins s loom 2 * 2 ^ 16 + quadSkeins s loom 3 * 2 ^ 24)
    else none
  | .twl =>
    if p.page = 0 && off = Reg.TWL_QSTAT then some (queuedOps l.west + queuedOps l.east * 2 ^ 8 + (batchRows l.west + batchRows l.east) * 2 ^ 16)
    else none
  | .acs =>
    if off = Reg.ACS_SIL_WAIT then some (reg s (p.addr + Reg.ACS_SIL_WAIT) + silWaiting s l.west + silWaiting s l.east)
    else if off = Reg.ACS_HELD then some (heldSlots l)
    else if off = Reg.ACS_TOPK then some (listMask ((l.slots.filter (fun x => x.2.topk)).map (fun x => x.1)))
    else if off = Reg.ACS_OWNER then some (l.leaseWest.elim 0xFFF (fun x => x.ctx) + (l.leaseEast.elim 0xFFF (fun x => x.ctx)) * 2 ^ 16)
    else none
  | .wvc =>
    if p.page = 0 then
      if off = Reg.WVC_OCC then some (sliceCount s p.die p.inst (fun x => x.pin.isSome) % 2 ^ 16 +
        sliceCount s p.die p.inst (fun x => isReduction x.state) % 2 ^ 16 * 2 ^ 16)
      else if off = Reg.WVC_MISS_OPEN then some (tgetD (weaveOf s p.die).miss p.inst []).length
      else none
    else
      let part := bits (reg s (a + Reg.WVC_PART_SEL)) 5 0
      let c := bits (reg s (a + Reg.WVC_CTX_SEL)) 11 0
      if off = Reg.WVC_PART_CFG then some (partCfg (weaveOf s p.die) part)
      else if off = Reg.WVC_PART_LINES then some (weaveCount s p.die (fun x => x.part == part))
      else if off = Reg.WVC_PART_PINNED then some (weaveCount s p.die (fun x => x.part == part && x.pin.isSome))
      else if off = Reg.WVC_PART_THRASH then some (tgetD (weaveOf s p.die).thrash part 0)
      else if off = Reg.WVC_CTX_PINNED then some (weaveCount s p.die (fun x => x.pin == some c))
      else none
  | .memc =>
    if p.page = 0 then
      if off = Reg.MEMC_PC_SYM then some (tgetD (tgetD s.drams (p.die * 4 + p.inst) .empty).sym (bits (reg s (a + Reg.MEMC_PC_SEL)) 5 0) 0) else none
    else
      if off = Reg.MEMC_SURV_BASE then some (survShown s p.die).1
      else if off = Reg.MEMC_SURV_SIZE then some ((survShown s p.die).2.1 + b2n (survShown s p.die).2.2 * 2 ^ 31)
      else none
  | .ctx =>
    let c := bits (reg s (a + Reg.CTX_SEL)) 11 0
    let d := (ctxAt s c).elim (tgetD s.ctxKept (c * 8 + p.die) .zero) (fun x => ctxDie x p.die)
    if off = Reg.CTX_STATE then some (ctxStateCode s c + (tgetD s.slots (slotKey 1 15 c) .fresh).gen * 2 ^ 8)
    else if off = Reg.CTX_INFLIGHT then some (inflightOf s c p.die)
    else if off = Reg.CTX_TOPS then some d.tops
    else if off = Reg.CTX_MEMTX then some d.memtx
    else if off = Reg.CTX_STRAY then some d.stray
    else if off = Reg.CTX_STRAY_DROP then some d.strayDrop
    else if off = Reg.CTX_DB_DROP then some d.dbDrop
    else if off = Reg.CTX_FAULT_LOST then some d.faultLost
    else if off = Reg.CTX_STALE_RX then some (tgetD s.staleRx (c * 8 + p.die) 0)
    else if off = Reg.CTX_TEARDOWN then some (tgetD s.teardownTicks c 0)
    else if off = Reg.CTX_SCRUB_LEFT then some d.scrubLeft
    else none
  | .dma => if off = Reg.DMA_CHAN then some (setBits (reg s (a + off)) 30 30 (b2n (servesCapture s p.die p.inst))) else none
  | .que =>
    let q := tget? s.queues (p.die * 16384 + bits (reg s (a + Reg.QUE_SEL)) 13 0)
    if off = Reg.QUE_INFO then some (q.elim 0 (fun q =>
      (match q.typ with | .compute => 1 | .dma => 2 | .msg => 3 | .service => 4 | .collective => 5) + Nat.log2 q.depth * 2 ^ 3 + q.ctx * 2 ^ 8 + q.dbIndex * 2 ^ 20))
    else if off = Reg.QUE_PROD then some (q.elim 0 (fun q => q.prod))
    else if off = Reg.QUE_CONS then some (q.elim 0 (fun q => q.cons))
    else if off = Reg.QUE_ENTRIES then some (q.elim 0 (fun q => q.entries))
    else none
  | .sch =>
    let c := bits (reg s (a + Reg.SCH_SEL)) 11 0
    if off = Reg.SCH_TOPS then some (ctxSum s p.die (fun d => d.tops))
    else if off = Reg.SCH_MEMTX then some (ctxSum s p.die (fun d => d.memtx))
    else if off = Reg.SCH_VTIME then some ((ctxAt s c).elim 0 (fun x => (ctxDie x p.die).vtime))
    else if off = Reg.SCH_HALVES then some (halvesHeld s p.die c)
    else none
  | .cnv =>
    match tget? s.conv (p.die * 256 + bits (reg s (a + Reg.CNV_CH_SEL)) 7 0) with
    | none => if off = Reg.CNV_CH_ATTR || off = Reg.CNV_CH_STATE || off = Reg.CNV_CH_SCALE || off = Reg.CNV_CH_NONFIN || (0x80 ≤ off && off < 0xC0) then some 0 else none
    | some ch =>
      if off = Reg.CNV_CH_ATTR then some ch.attr
      else if off = Reg.CNV_CH_STATE then some (ch.count + ch.next * 2 ^ 8)
      else if off = Reg.CNV_CH_SCALE then some (wrap 32 ch.lastE)
      else if off = Reg.CNV_CH_NONFIN then some ch.nonfin
      else if 0x80 ≤ off && off < 0xC0 then some (ch.hist.getD ((off - 0x80) / 4) 0)
      else none
  | .rvlDie =>
    if off = Reg.RVL_POSITION then some (reg s (rvlDie s + Reg.RVL_POSITION))
    else if off = Reg.RVL_ROUTE_DATA then some (tgetD s.routes (bits (reg s (a + Reg.RVL_ROUTE_SEL)) 15 0) 0)
    else if off = Reg.RVL_WIN_ERR then some ((tget? s.windows (windowKey p.die (bits (reg s (a + Reg.RVL_WIN_SEL)) 11 0))).elim 0 (fun w => w.errors))
    else none
  | _ => derivedSys s p off

/-- The whole value of the register at an offset of a page. -/
def regValue (s : State) (p : PageRef) (off : Nat) : Nat :=
  if off = 0 then pageId p else if off = hdrStatus then statusOf s p else
  match derived s p off with
  | some v => v
  | none =>
    match rowAt p off with
    | some r => reg s (p.addr + off) &&& (2 ^ 64 - 1 - r.wo)
    | none => 0

/-- A read of an aligned word by a requester (R33, R35): the value, and the captures after it. -/
def readWord (who : Nat) (p : PageRef) (off : Nat) (s : State) : Nat × State :=
  match rowCovering p off with
  | none => (0, s)
  | some r =>
    let v := regValue s p r.off
    if !r.w64 then (v % 2 ^ 32, s) else
    let key := p.addr + r.off
    let mine (h : Half64) : Bool := h.who == who && h.addr == key
    if off = r.off then
      (v % 2 ^ 32, { s with captures := s.captures.filter (fun h => !mine h) ++ [⟨who, key, v / 2 ^ 32⟩] })
    else
      match s.captures.find? mine with
      | some h => (h.val, { s with captures := removeFirst s.captures mine })
      | none => (v / 2 ^ 32 % 2 ^ 32, s)

end Sys2Proof.Machine
end

