-- ==== Sys2Proof/Machine/Device.lean ====
section
/-! DEFINITION. Doorbell records (R272, R273), a context's accesses to its DEVICE pages (R489), and the answers to outbound requests
at their issuer (R126, R292, R332). -/

namespace Sys2Proof.Machine

/-! ## Doorbells -/

/-- The queue of a context slot whose descriptor names a doorbell record. -/
def dbQueue (s : State) (slot rec : Nat) : Option Queue :=
  (s.queues.find? (fun q => q.2.ctx == slot && q.2.dbIndex == rec)).map (fun q => q.2)

/-- A read of a doorbell page (R272). -/
def doorbellRead (s : State) (slot off : Nat) : Nat :=
  match dbQueue s slot (off / 16) with
  | none => 0
  | some q => match off % 16 with | 0 => q.prod | 4 => q.cons | 8 => q.dbStatus | _ => 0

/-- A write of a doorbell register (R272, R273, R293): dropped while the context is torn down, without effect where the tenant may not
write, rejected where it would move the index backward or past the other. (log 29: DESIGN CHOICE) -/
def doorbellWrite (slot off v : Nat) (s : State) : State :=
  match dbQueue s slot (off / 16) with
  | none => s
  | some q =>
    if (ctxAt s slot).any (fun x => x.state != .active) then modCtxDie slot q.home (fun d => { d with dbDrop := sat32 (d.dbDrop + 1) }) s else
    let v := v % 2 ^ 32
    let reject (s : State) : State :=
      setPend (quePage q.home) 4 (bumpSat (quePage q.home + Reg.QUE_DB_REJECT) 1 (modQueue q.handle (fun q => { q with dbStatus := zsDenied }) s))
    if q.typ = .msg then
      if off % 16 ≠ 4 then s else
      if (v + 2 ^ 32 - q.cons) % 2 ^ 32 ≤ occupancy q then
        deliverFaults 65 slot (modQueue q.handle (fun q => { q with cons := v, entries := q.entries + (v + 2 ^ 32 - q.cons) % 2 ^ 32 }) s)
      else reject s
    else
      if off % 16 ≠ 0 then s else
      if (v + 2 ^ 32 - q.prod) % 2 ^ 32 ≤ q.depth - occupancy q then modQueue q.handle (submitTo v (ctxStep s slot)) s
      else reject s

/-! ## DEVICE pages of a context (R489) -/

/-- The offsets that a page grants its owning context to read (R69, R183, R206). -/
def tenantReadable (b : Blk) (off : Nat) : Bool :=
  match b with
  | .loom => 0x048 ≤ off && off < 0x06C
  | .twl => 0x044 ≤ off && off < 0x090
  | .acs => 0x050 ≤ off && off < 0x088
  | _ => false

/-- What a context's access to a DEVICE address meets: a doorbell, a mapped page, no page (R488), or a refusal with a code and
subcode. -/
inductive DevTgt where
  | doorbell (slot off : Nat)
  | page (p : PageRef) (off : Nat)
  | nothing
  | refused (code sub : Nat)
  deriving DecidableEq, Repr

/-- Judge a context's DEVICE access (R129, R488, R489). -/
def devTarget (s : State) (c pa : Nat) : DevTgt :=
  match resolve s pa with
  | .doorbell slot off => if slot = c then .doorbell slot off else .refused zsDenied 0x12
  | .page a =>
    match pageOf a with
    | none => .nothing
    | some p =>
      let o := reg s (p.addr + hdrOwner)
      if bit o 31 && o % 4096 == c then .page p (a % 4096) else .refused zsDenied 0x12
  | _ => .refused zsDenied 0

/-- An access to a doorbell page that R34 admits: an aligned word of a register of a record (R272). -/
def doorbellOk (n off : Nat) : Bool := n == 4 && off % 4 == 0 && off % 16 != 12

/-- A context's read of `n` bytes at a judged DEVICE target: aligned words only (R34). A doorbell page has no header, so the page of
the block that issues the access records what R34 refuses there, as it records an access to no page (R37, R488).
(log 29: DESIGN CHOICE) -/
def devRead (page c n : Nat) (d : DevTgt) (s : State) : Nat × State :=
  match d with
  | .doorbell slot off => if doorbellOk n off then (doorbellRead s slot off, s) else (0, recErr page c 0 zsDenied s)
  | .page p off =>
    if n = 4 && off % 4 = 0 && tenantReadable p.blk off && p.page = 0 then readWord c p off s else (0, recErr p.addr c 0x12 zsDenied s)
  | .nothing => (0, recErr page c 0 zsDenied s)
  | .refused _ _ => (0, s)

/-- A context's write at a judged DEVICE target: doorbells, and nothing on a register page (R489). (log 29: DESIGN CHOICE) -/
def devWrite (page c n v : Nat) (d : DevTgt) (s : State) : State :=
  match d with
  | .doorbell slot off => if doorbellOk n off then doorbellWrite slot off v s else recErr page c 0 zsDenied s
  | .page p _ => recErr p.addr c 0x12 zsDenied s
  | .nothing => recErr page c 0 zsDenied s
  | .refused _ _ => s

/-! ## Engines and ports at DEVICE pages (R34, R129) -/

/-- The register accesses that make up a range of a DEVICE page, as offset and length: whole aligned words, and the parts of words at
either end, which R34 refuses. (log 28: DESIGN CHOICE) -/
def devRuns (pa n : Nat) : List (Nat × Nat) :=
  let head := min n ((4 - pa % 4) % 4)
  let whole := (n - head) / 4
  let tail := n - head - 4 * whole
  ((0, head) :: (List.range whole).map (fun i => (head + 4 * i, 4)) ++ [(head + 4 * whole, tail)]).filter (fun r => r.2 != 0)

/-- The page of an engine that reads and writes DEVICE pages: a DMA engine, the link receiver, a service port. -/
def engPage (eng : Nat) : Nat :=
  let die := engDie eng
  match eng / 16 with
  | 20 => rvlPage die
  | 21 => pageAddr .svp die 0 0
  | e => dmaPage die (e - 1)

/-- Read a piece of a DEVICE page for an engine that works for a context. (log 28: DESIGN CHOICE) -/
def devPieceRead (eng c : Nat) (p : Piece) (s : State) : Except (Nat × Nat × Nat) (List (Byte × Bool)) × State :=
  (devRuns p.pa p.n).foldl (fun acc r =>
    match acc.1 with
    | .error _ => acc
    | .ok l =>
      match devTarget acc.2 c (p.pa + r.1) with
      | .refused code sub => (.error (code, sub, p.va + r.1), acc.2)
      | d => let (v, s) := devRead (engPage eng) c r.2 d acc.2; (.ok (l ++ clean (toBytes r.2 v)), s)) (.ok [], s)

/-- Write a piece of a DEVICE page for an engine that works for a context; what was poisoned arrives as it stands (R257).
(log 28: DESIGN CHOICE) -/
def devPieceWrite (eng c : Nat) (p : Piece) (l : List (Byte × Bool)) (s : State) : Option (Nat × Nat × Nat) × State :=
  (devRuns p.pa p.n).foldl (fun acc r =>
    match acc.1 with
    | some _ => acc
    | none =>
      match devTarget acc.2 c (p.pa + r.1) with
      | .refused code sub => (some (code, sub, p.va + r.1), acc.2)
      | d => (none, devWrite (engPage eng) c r.2 (ofBytes (bare ((l.drop r.1).take r.2))) d acc.2)) (none, s)

/-- Read a range of NORMAL, STREAM and DEVICE memory under R129, page by page in ascending order.
(log 27: DEDUCED; log 28: DESIGN CHOICE) -/
def gRead (eng c va n : Nat) (s : State) : Except (Nat × Nat × Nat) (List (Byte × Bool)) × State :=
  match pieces s c .read va n with
  | .error e => (.error e, s)
  | .ok ps =>
    if !ps.any (fun p => p.mt == 2) then vRead eng c va n s else
    ps.foldl (fun acc p =>
      match acc.1 with
      | .error _ => acc
      | .ok l =>
        let r := if p.mt = 2 then devPieceRead eng c p acc.2 else vRead eng c p.va p.n acc.2
        ((match r.1 with | .ok b => .ok (l ++ b) | .error e => .error e), r.2)) (.ok [], s)

/-- Write a range of NORMAL, STREAM and DEVICE memory under R129, page by page in ascending order. (log 28: DESIGN CHOICE) -/
def gWriteC (eng c va : Nat) (l : List (Byte × Bool)) (carried : List (Nat × Nat)) (s : State) : Option (Nat × Nat × Nat) × State :=
  match pieces s c .write va l.length with
  | .error e => (some e, s)
  | .ok ps =>
    if !ps.any (fun p => p.mt == 2) then vWriteC eng c va l carried s else
    let r := ps.foldl (fun (acc : List (Byte × Bool) × Option (Nat × Nat × Nat) × State) p =>
      (acc.1.drop p.n,
        match acc.2.1 with
        | some _ => acc.2
        | none =>
          if p.mt = 2 then devPieceWrite eng c p (acc.1.take p.n) acc.2.2 else vWriteC eng c p.va (acc.1.take p.n) carried acc.2.2)) (l, none, s)
    r.2

/-! ## Answers to outbound requests -/

/-- The outstanding request with a tag (R332). -/
def fabFind (s : State) (tag : Nat) : Option FabReq := s.fabric.find? (fun r => r.tag == tag)

/-- Forget an answered request. -/
def fabDrop (tag : Nat) (s : State) : State := { s with fabric := removeFirst s.fabric (fun r => r.tag == tag) }

/-- A thread's fabric request has been answered: the LCV instruction waits for one less, and the thread has one less outstanding. -/
def fabThreadDone (loom skein lcv thread : Nat) (s : State) : State :=
  lcvRelease loom skein lcv (modSkein loom skein (fun k => { k with fabricOut := removeFirst k.fabricOut (fun t => t == thread) }) s)

/-- Add values to what an LCV's completion writes. -/
def lcvAddWrites (loom skein lcv : Nat) (ws : List RegWrite) (s : State) : State :=
  modSkein loom skein (fun k => { k with lcvs := updateFirst k.lcvs (fun l => l.id == lcv) (fun l => { l with writes := l.writes ++ ws }) }) s

/-- The environment of a fault raised after an instruction issued. -/
def lateEnv (s : State) (loom skein pc mask : Nat) : Option Env :=
  (tget? (loomOf s loom).skeins skein).map (fun k => ⟨s, loom, skein, k, mask, ⟨0, 0, pc⟩⟩)

/-- Change a DMA entry that waits for a tag. -/
def dmaTagDone (tag status sub : Nat) (s : State) : State :=
  { s with dmaRuns := s.dmaRuns.map (fun r => if r.tags.contains tag then
      { r with tags := sdel r.tags tag, status := if r.status = zsOk then status else r.status, sub := if r.status = zsOk then sub else r.sub } else r) }

/-- The die whose limits a request counts against (R288): the issuing engine's, which need not be its window's home. -/
def fabDie (r : FabReq) : Nat := match r.issuer with | .dma ch _ => ch / 4096 | _ => r.die

/-- The memory transactions that a request counted are over (R288). -/
def fabUncount (r : FabReq) (s : State) : State :=
  if r.lines = 0 then s else
  { s with ctxs := s.ctxs.map (fun x => if x.2.handle == r.ctx then
      (x.1, { x.2 with dies := tupd x.2.dies (fabDie r) (fun d => { d with memtx := d.memtx - r.lines }) }) else x) }

/-- A request whose answer is stale is over (R294): its counts fall, and a thread's instruction waits for one less. -/
def fabStale (r : FabReq) (s : State) : State :=
  let s := fabUncount r (fabDrop r.tag s)
  match r.issuer with
  | .thread loom skein lcv thread _ _ => fabThreadDone loom skein lcv thread s
  | .put loom skein lcv thread => fabThreadDone loom skein lcv thread s
  | _ => s

/-- Write the status of a QUE.SEND with ACK. -/
def sendAnswered (loom skein lcv status : Nat) (s : State) : State :=
  modSkein loom skein (fun k => { k with lcvs := updateFirst k.lcvs (fun l => l.id == lcv) (fun l =>
    { l with wait := .ready, writes := l.dst.flatMap (fun d => (maskList 32 l.mask).map (fun t => ⟨t, d, BitVec.ofNat 32 status⟩)) }) }) s

/-- A fabric access fails with a code (R126, R332, R344): a get or ATOM faults its thread's skein, a put or RED is recorded against
its thread, an engine's entry takes the code. The window counts it. -/
def fabFail (tag code sub : Nat) (s : State) : State :=
  match fabFind s tag with
  | none => s
  | some r =>
    let s := fabDrop tag s
    let s := fabUncount r (if r.kind == .sil then s else windowError r.die r.window s)
    match r.issuer with
    | .thread loom skein lcv thread _ _ =>
      let s := fabThreadDone loom skein lcv thread s
      (match lateEnv s loom skein r.pc r.mask with
        | none => s
        | some e => insFault e code 0x10 r.va thread s)
    | .put loom skein lcv thread =>
      let s := fabThreadDone loom skein lcv thread s
      (match tget? (loomOf s loom).skeins skein with
        | none => s
        | some k =>
          if bit k.exited thread then
            postFault k.ctx (loom / 32) (faultRecord s code 0x11 (loom / 32) loom skein r.pc r.va r.mask thread) s
          else modSkein loom skein (fun k => { k with putFails := k.putFails ++ [⟨thread, code⟩] }) s)
    | .dma _ _ => dmaTagDone tag code sub s
    | .send loom skein lcv => sendAnswered loom skein lcv code s
    | .sil _ _ => s
    | .join _ _ => s
    | .nobody => s

/-- The narrow or wide value that a load writes (R94): extension by width code. -/
def loadExtend (wd v : Nat) : Nat :=
  match wd with
  | 1 => wrap 32 (sext 8 v)
  | 3 => wrap 32 (sext 16 v)
  | _ => v

end Sys2Proof.Machine
end

