-- ==== Sys2Proof/Machine/Memory.lean ====
section
/-! DEFINITION. LD, ST, ATOM, RED, FENCE and FENCE.I (R93 to R98, R113 to R126, R240, R256, R288). -/

namespace Sys2Proof.Machine

/-- Fields of MOD (R93). -/
def mSpace (w : Nat) : Nat := bits (fMod w) 6 5
def mOrder (w : Nat) : Nat := bits (fMod w) 4 3
def mScope (w : Nat) : Nat := bits (fMod w) 2 0
/-- The order includes release, or acquire. -/
def mRelease (w : Nat) : Bool := bit (mOrder w) 1
def mAcquire (w : Nat) : Bool := bit (mOrder w) 0

/-- Access bytes of a memory instruction (R94, R96). -/
def memBytes (w : Nat) : Nat := if fMajor w < 0x22 then ldBytes (fFunc w / 8) else atomBytes (fFunc w / 8)

/-- The byte offset that slot B supplies (R94): an immediate counts accesses. -/
def memOffset (e : Env) (t : Nat) : Int :=
  let b := sext 32 (src e 1 1 t)
  if fKind e.ins.w 1 = 3 then b * memBytes e.ins.w else b

/-- The effective address of a thread (R94). -/
def memAddr (e : Env) (t : Nat) : Nat :=
  if mSpace e.ins.w = 0 then wrap 64 ((src e 0 2 t : Int) + memOffset e t) else wrap 32 ((src e 0 1 t : Int) + memOffset e t)

/-- Where a thread's access goes, or the fault it meets (R95, R65, R129): code, subcode. -/
inductive Loc where
  | scratch (off : Nat)
  | dram (pa : Nat) (strm : Bool)
  | device (pa : Nat) (d : DevTgt)
  | link (die slot off pa : Nat)
  | fail (code sub : Nat)
  deriving DecidableEq, Repr

/-- The dispatch's scratch allocation on the loom (R65). -/
def scratchOf (s : State) (loom dispatch : Nat) : Option ScratchAlloc := (loomOf s loom).allocs.find? (fun a => a.dispatch == some dispatch)

/-- Locate a thread's access of a kind (R112 step 7: alignment, then translation and scratch bounds). (log 30: DESIGN CHOICE) -/
def locate (e : Env) (kind : Kind) (t : Nat) : Loc :=
  let a := memAddr e t
  let n := memBytes e.ins.w
  if a % n ≠ 0 then .fail zsMisaligned 0x01 else
  if mSpace e.ins.w = 1 then
    match scratchOf e.s e.loom e.k.dispatch with
    | none => .fail zsDenied 0x32
    | some al => if a + n > al.size then .fail zsDenied 0x32 else .scratch (al.base + a)
  else
    match translate e.s e.k.ctx a kind with
    | .fail c u => .fail c u
    | .ok pa mt _ =>
      match mt with
      | 2 => (match devTarget e.s e.k.ctx pa with | .refused c u => .fail c u | d => .device pa d)
      | 3 =>
        (match resolve e.s pa with
          | .link die slot off => (match outWindow e.s die slot off n with | .ok _ => .link die slot off pa | .error (c, u) => .fail c u)
          | _ => .fail zsDenied 0)
      | _ => (match resolve e.s pa with | .dram x => .dram x (mt == 1) | _ => .fail zsDenied 0)

/-- The 128-byte line that an access counts (R288); scratch counts none. -/
def locLine (l : Loc) : Option Nat :=
  match l with
  | .dram pa _ => some (pa / 128)
  | .device pa _ => some (pa / 128)
  | .link _ _ _ pa => some (pa / 128)
  | _ => none

/-- Memory transactions of an instruction: distinct lines (R288). (log 27: DEDUCED) -/
def txCount (ls : List Loc) : Nat := (ls.filterMap locLine).eraseDups.length

/-- Do `n` more transactions fit the die's and the context's limits (R288). (log 27: DEDUCED) -/
def txFits (s : State) (c die n : Nat) : Bool :=
  match ctxAt s c with
  | none => false
  | some x =>
    let mine := (ctxDie x die).memtx
    n = 0 || (ctxSum s die (fun d => d.memtx) + n ≤ 16384 && (mine + n ≤ x.memtxLimit || (n > x.memtxLimit && mine == 0)))

/-- The first failure among threads in ascending order (R112). (log 30: DESIGN CHOICE) -/
def firstFail (ls : List (Nat × Loc)) : Option (Nat × Nat × Nat) :=
  ls.findSome? (fun p => match p.2 with | .fail c u => some (p.1, c, u) | _ => none)

/-- The participating threads have fabric requests outstanding (R76, R126). -/
def fabricBusy (e : Env) : Bool := e.k.fabricOut.any (fun t => (lanes e).contains t)

/-- May a memory instruction issue: its transactions fit (R288), and a fabric-scope release has nothing left to wait for (R125). -/
def memMay (kind : Kind) (e : Env) : Bool :=
  let ls := (lanes e).map (fun t => (t, locate e kind t))
  if (firstFail ls).isSome then true else
  txFits e.s e.k.ctx (e.loom / 32) (txCount (ls.map (fun p => p.2))) &&
    !(mScope e.ins.w == 5 && mRelease e.ins.w && fabricBusy e)

/-- The failure recorded first against a thread of a set (R126). -/
def putFailure (k : Skein) (lanes : Nat) : Option PutFail := k.putFails.find? (fun p => bit lanes p.thread)

/-- The release side of an operation (R118, R125): earlier reductions are registered and applied; a fabric-scope release raises a
failure recorded against its threads. -/
def releaseFail (e : Env) : Option PutFail :=
  if mScope e.ins.w = 5 && mRelease e.ins.w then putFailure e.k (listMask (lanes e)) else none

/-- Perform earlier reductions of the skein before a release at loom scope or wider (R118, R240). -/
def releaseEarlier (e : Env) (s : State) : State :=
  if mRelease e.ins.w && !(lanes e).isEmpty then settleSkein (e.loom / 32) e.loom e.skein s else s

/-- The identity of the LCV instruction that is about to start. -/
def nextLcvId (s : State) (loom skein : Nat) : Nat := (tget? (loomOf s loom).skeins skein).elim 0 (fun k => k.nextLcv)

/-- Access the distinct lines of the threads' DRAM locations once each; answers how many must wait for a fill (R232).
(log 27: DEDUCED) -/
def touchLines (e : Env) (ls : List Loc) (forM : Bool) (id : Nat) (s : State) : Nat × State :=
  let lines := (ls.filterMap (fun l => match l with | .dram pa st => some (pa / 128, st) | _ => none)).eraseDups
  lines.foldl (fun (acc : Nat × State) p =>
    let a : Acc := ⟨e.loom / 32, ctxPart acc.2 (some e.k.ctx), p.2, .lcv e.loom e.skein id⟩
    let (w, s) := accessLine a p.1 forM acc.2
    (acc.1 + b2n w, s)) (0, s)

/-- The wait of an instruction with `n` accesses outstanding. -/
def heldWait (n : Nat) : LcvWait := if n = 0 then .ready else .held n

/-- Start the LCV of a memory instruction and finish its issue; an acquire at fabric scope with requests outstanding holds the
group until it returns (R125). (log 8: DEDUCED) -/
def memStart (e : Env) (id held links tx n : Nat) (writes : List RegWrite) (s : State) : State :=
  let s := startLcv e (heldWait (held + links)) tx (if n = 0 then [] else dstRegs e.ins.w) writes s
  let hold := mScope e.ins.w = 5 && mAcquire e.ins.w && links != 0
  finish e (fun k => if hold then modGroup e.mask (fun g => { g with wait := .lcv id }) k else k) s

/-- One thread's request through a link window (R124, R331); one that cannot leave fails at once (R344). -/
def linkRequest (e : Env) (t va : Nat) (die slot off : Nat) (op : Nat) (kind : FabKind) (issuer : FabIssuer) (len atom : Nat)
    (payload : List Byte) (s : State) : State :=
  match outWindow s die slot off len with
  | .error _ => s
  | .ok w =>
    let tag := s.nextTag
    let p := windowPacket s w op off (if op = opGet then len else 0) 0 atom 0 (ctxHandle s e.k.ctx) (clean payload)
    let s := modSkein e.loom e.skein (fun k => { k with fabricOut := k.fabricOut ++ [t] }) s
    let (sent, s) := fabIssue ⟨tag, kind, die, slot, ctxHandle s e.k.ctx, len, 0, va, e.ins.pc, e.mask, issuer⟩ p s
    if sent then s else fabFail tag zsUnreachable 0 s

/-- How many of the locations are link requests. -/
def linkCount (ls : List (Nat × Loc)) : Nat := ls.countP (fun p => match p.2 with | .link _ _ _ _ => true | _ => false)

/-- A thread whose DRAM location is poisoned (R256). -/
def poisonedThread (s : State) (ls : List (Nat × Loc)) : Option Nat :=
  ls.findSome? (fun p => match p.2 with | .dram pa _ => if poisonedAt s pa then some p.1 else none | _ => none)

/-- The bytes of loom scratch at a physical scratch offset. -/
def scratchNat (s : State) (loom off n : Nat) : Nat :=
  ofBytes ((List.range n).map (fun i => tgetD (loomOf s loom).scratch (off + i) 0))

/-- Write loom scratch. -/
def scratchPut (loom off : Nat) (l : List Byte) (s : State) : State :=
  modLoom loom (fun x => { x with scratch := (l.foldl (fun (a : Nat × Tab Byte) b => (a.1 + 1, tset a.2 a.1 b)) (off, x.scratch)).2 }) s

/-- Read loom scratch as bytes. -/
def scratchGet (s : State) (loom off n : Nat) : List Byte := (List.range n).map (fun i => tgetD (loomOf s loom).scratch (off + i) 0)

/-- What the locations of a load hold, thread by thread, extended to registers (R94); a DEVICE read has its effect. -/
def loadLanes (e : Env) (ls : List (Nat × Loc)) (s : State) : List (Nat × Nat) × State :=
  let wd := fFunc e.ins.w / 8
  let n := ldBytes wd
  ls.foldl (fun (acc : List (Nat × Nat) × State) p =>
    match p.2 with
    | .scratch o => (acc.1 ++ [(p.1, loadExtend wd (scratchNat acc.2 e.loom o n))], acc.2)
    | .dram pa _ => (acc.1 ++ [(p.1, loadExtend wd (memNat acc.2 pa n))], acc.2)
    | .device _ d => let (v, s) := devRead (loomPage e.loom) e.k.ctx n d acc.2; (acc.1 ++ [(p.1, loadExtend wd v)], s)
    | _ => acc) ([], s)

/-- The gets of a load leave (R124). -/
def loadSend (e : Env) (id : Nat) (ls : List (Nat × Loc)) (s : State) : State :=
  let wd := fFunc e.ins.w / 8
  forL ls (fun p s => match p.2 with
    | .link die slot off _ =>
      linkRequest e p.1 (memAddr e p.1) die slot off opGet .get (.thread e.loom e.skein id p.1 (dstRegs e.ins.w) wd) (ldBytes wd) 0 [] s
    | _ => s) s

/-- LD (R93 to R95, R118, R124, R256). (log 8: DEDUCED) -/
def execLd (w : Who) (s : State) : Host.Outcome State Fault Refusal :=
  .next (issueRow w (0x20 * 8) (memMay .read) (fun e s =>
    let ls := (lanes e).map (fun t => (t, locate e .read t))
    match firstFail ls with
    | some (t, c, u) => xlFault e c u (memAddr e t) t s
    | none =>
      let id := nextLcvId s e.loom e.skein
      let (held, s) := touchLines e (ls.map (fun p => p.2)) false id s
      match poisonedThread s ls with
      | some t => poisonFault e 0x01 (memAddr e t) t s
      | none =>
        let r := loadLanes e ls s
        loadSend e id ls (memStart e id held (linkCount ls) (txCount (ls.map (fun p => p.2))) 1
          (regWrites (fDst e.ins.w) (ldWords (fFunc e.ins.w / 8)) r.1) r.2)) s)

/-- The bytes that a thread stores (R94). -/
def storeData (e : Env) (t : Nat) : List Byte := toBytes (ldBytes (fFunc e.ins.w / 8)) (src e 2 (ldWords (fFunc e.ins.w / 8)) t)

/-- The stores of the threads, in ascending order (R94): a higher-numbered thread's byte wins. -/
def storeLanes (e : Env) (ls : List (Nat × Loc)) (s : State) : State :=
  forL ls (fun p s => match p.2 with
    | .scratch o => scratchPut e.loom o (storeData e p.1) s
    | .dram pa _ => cachedWrite (e.loom / 32) pa (storeData e p.1) s
    | .device _ d => devWrite (loomPage e.loom) e.k.ctx (ldBytes (fFunc e.ins.w / 8)) (src e 2 1 p.1) d s
    | _ => s) s

/-- The puts of a store leave (R124). -/
def storeSend (e : Env) (id : Nat) (ls : List (Nat × Loc)) (s : State) : State :=
  forL ls (fun p s => match p.2 with
    | .link die slot off _ =>
      linkRequest e p.1 (memAddr e p.1) die slot off opPut .put (.put e.loom e.skein id p.1) (ldBytes (fFunc e.ins.w / 8)) 0 (storeData e p.1) s
    | _ => s) s

/-- ST (R93 to R95, R118, R124). (log 8: DEDUCED; log 30: DESIGN CHOICE) -/
def execSt (w : Who) (s : State) : Host.Outcome State Fault Refusal :=
  .next (issueRow w (0x21 * 8) (memMay .write) (fun e s =>
    let ls := (lanes e).map (fun t => (t, locate e .write t))
    match firstFail ls with
    | some (t, c, u) => xlFault e c u (memAddr e t) t s
    | none =>
    match releaseFail e with
    | some f => insFault e f.code 0x11 0 f.thread (modSkein e.loom e.skein (fun k => { k with putFails := removeFirst k.putFails (fun x => x == f) }) s)
    | none =>
      let id := nextLcvId s e.loom e.skein
      let (held, s) := touchLines e (ls.map (fun p => p.2)) true id (releaseEarlier e s)
      storeSend e id ls (memStart e id held (linkCount ls) (txCount (ls.map (fun p => p.2))) 0 [] (storeLanes e ls s))) s)

/-- The operand words of a thread's atomic (R96): operand, or cmp and new for CAS. (log 122: DESIGN CHOICE) -/
def atomOperands (e : Env) (t : Nat) : Nat × Nat :=
  let ty := fFunc e.ins.w / 8
  let n := atomBytes ty
  if fFunc e.ins.w % 8 = 7 then
    if n = 8 then let q := src e 2 4 t; (q % 2 ^ 64, q / 2 ^ 64)
    else let q := src e 2 2 t; (q % 2 ^ (8 * n), q / 2 ^ 32 % 2 ^ (8 * n))
  else (src e 2 (if n = 8 then 2 else 1) t % 2 ^ (8 * n), 0)

/-- The value memory takes (R96). -/
def atomResult (op ty old : Nat) (c : Nat × Nat) : Nat := if op = 7 then atomCas old c.1 c.2 else atomNew op ty old c.1

/-- The operand bytes of an ATOM or RED packet (R330): operand, or cmp and new. -/
def atomPayload (op ty : Nat) (c : Nat × Nat) : List Byte :=
  toBytes (atomBytes ty) c.1 ++ (if op = 7 then toBytes (atomBytes ty) c.2 else [])

/-- The atomics of the threads, in ascending order (R96): the old values, and the state they leave. -/
def atomLanes (e : Env) (ls : List (Nat × Loc)) (s : State) : List (Nat × Nat) × State :=
  let ty := fFunc e.ins.w / 8
  let op := fFunc e.ins.w % 8
  let n := atomBytes ty
  ls.foldl (fun (acc : List (Nat × Nat) × State) p =>
    let c := atomOperands e p.1
    match p.2 with
    | .scratch o =>
      let old := scratchNat acc.2 e.loom o n
      (acc.1 ++ [(p.1, old)], scratchPut e.loom o (toBytes n (atomResult op ty old c)) acc.2)
    | .dram pa _ =>
      let old := memNat acc.2 pa n
      (acc.1 ++ [(p.1, old)], cachedWrite (e.loom / 32) pa (toBytes n (atomResult op ty old c)) acc.2)
    | _ => acc) ([], s)

/-- The ATOM packets leave (R124). -/
def atomSend (e : Env) (id : Nat) (ls : List (Nat × Loc)) (s : State) : State :=
  let ty := fFunc e.ins.w / 8
  let op := fFunc e.ins.w % 8
  forL ls (fun p s => match p.2 with
    | .link die slot off _ =>
      linkRequest e p.1 (memAddr e p.1) die slot off opAtom .atom (.thread e.loom e.skein id p.1 (dstRegs e.ins.w) 4) (atomBytes ty)
        (op + 8 * ty) (atomPayload op ty (atomOperands e p.1)) s
    | _ => s) s

/-- ATOM (R96, R97, R118, R124). -/
def execAtom (w : Who) (s : State) : Host.Outcome State Fault Refusal :=
  .next (issueRow w (0x22 * 8) (memMay .atomic) (fun e s =>
    let ls := (lanes e).map (fun t => (t, locate e .atomic t))
    match firstFail ls with
    | some (t, c, u) => xlFault e c u (memAddr e t) t s
    | none =>
    match releaseFail e with
    | some f => insFault e f.code 0x11 0 f.thread (modSkein e.loom e.skein (fun k => { k with putFails := removeFirst k.putFails (fun x => x == f) }) s)
    | none =>
      let id := nextLcvId s e.loom e.skein
      let (held, s) := touchLines e (ls.map (fun p => p.2)) true id (releaseEarlier e s)
      match poisonedThread s ls with
      | some t => poisonFault e 0x01 (memAddr e t) t s
      | none =>
        let r := atomLanes e ls s
        atomSend e id ls (memStart e id held (linkCount ls) (txCount (ls.map (fun p => p.2))) 1
          (regWrites (fDst e.ins.w) (if atomBytes (fFunc e.ins.w / 8) = 8 then 2 else 1) r.1) r.2)) s)

/-- The reductions of the threads, in ascending order (R96, R97, R240): how many wait, and the state they leave. -/
def redLanes (e : Env) (id held : Nat) (ls : List (Nat × Loc)) (s : State) : Nat × State :=
  let ty := fFunc e.ins.w / 8
  let op := fFunc e.ins.w % 8
  let n := atomBytes ty
  ls.foldl (fun (acc : Nat × State) p =>
    let c := atomOperands e p.1
    match p.2 with
    | .scratch o =>
      (acc.1, scratchPut e.loom o (toBytes n (atomResult op ty (scratchNat acc.2 e.loom o n) c)) acc.2)
    | .dram pa st =>
      if op < 3 then
        let a : Acc := ⟨e.loom / 32, ctxPart acc.2 (some e.k.ctx), st, .lcv e.loom e.skein id⟩
        let (wt, s) := reduceLine a (pa / 128) ⟨pa % 128, op, ty, c.1, false, some (e.loom, e.skein, id)⟩ acc.2
        (acc.1 + b2n wt, s)
      else (acc.1, cachedWrite (e.loom / 32) pa (toBytes n (atomResult op ty (memNat acc.2 pa n) c)) acc.2)
    | _ => acc) (held, s)

/-- The RED packets leave (R124). -/
def redSend (e : Env) (id : Nat) (ls : List (Nat × Loc)) (s : State) : State :=
  let ty := fFunc e.ins.w / 8
  let op := fFunc e.ins.w % 8
  forL ls (fun p s => match p.2 with
    | .link die slot off _ =>
      linkRequest e p.1 (memAddr e p.1) die slot off opRed .red (.put e.loom e.skein id p.1) (atomBytes ty) (op + 8 * ty)
        (atomPayload op ty (atomOperands e p.1)) s
    | _ => s) s

/-- RED (R96, R97, R118, R124, R240): ADD, MIN and MAX reduce in the cache, the bitwise operations at M. -/
def execRed (w : Who) (s : State) : Host.Outcome State Fault Refusal :=
  .next (issueRow w (0x23 * 8) (memMay .atomic) (fun e s =>
    let ls := (lanes e).map (fun t => (t, locate e .atomic t))
    match firstFail ls with
    | some (t, c, u) => xlFault e c u (memAddr e t) t s
    | none =>
    match releaseFail e with
    | some f => insFault e f.code 0x11 0 f.thread (modSkein e.loom e.skein (fun k => { k with putFails := removeFirst k.putFails (fun x => x == f) }) s)
    | none =>
      let id := nextLcvId s e.loom e.skein
      let s := releaseEarlier e s
      let (held, s) := if fFunc e.ins.w % 8 < 3 then (0, s) else touchLines e (ls.map (fun p => p.2)) true id s
      let r := redLanes e id held ls s
      redSend e id ls (memStart e id r.1 (linkCount ls) (txCount (ls.map (fun p => p.2))) 0 [] r.2)) s)

/-- FENCE (R98, R118, R125): earlier reductions are performed; at fabric scope the group waits for every earlier fabric access of its
participating threads. Where no thread takes part it has no effect (R76). -/
def execFence (w : Who) (s : State) : Host.Outcome State Fault Refusal :=
  .next (issueRow w (0x24 * 8) (fun _ => true) (fun e s =>
    if (lanes e).isEmpty then finish e id s else
    let id := nextLcvId s e.loom e.skein
    let fab := mScope e.ins.w = 5
    let s := if fab || mRelease e.ins.w then settleSkein (e.loom / 32) e.loom e.skein s else s
    let s := startLcv e (if fab then .fence (listMask (lanes e)) else .ready) 0 [] [] s
    finish e (fun k => if fab then modGroup e.mask (fun g => { g with wait := .lcv id }) k else k) s) s)

/-- FENCE.I (R98): the skein's fetched instructions are discarded, where a thread takes part (R76). -/
def execFenceI (w : Who) (s : State) : Host.Outcome State Fault Refusal :=
  .next (issueRow w (0x24 * 8 + 1) (fun _ => true) (fun e s =>
    if (lanes e).isEmpty then finish e id s else
    let s := startLcv e .ready 0 [] [] s
    finish e (fun k => { k with fetched := [] }) s) s)

end Sys2Proof.Machine
end

