-- ==== Sys2Proof/Machine/Elements.lean ====
section
/-! DEFINITION. Rows of elements in memory: packing (R135), FP4X containers (R144 to R147), block scales (R143), reading operands
and images (R162, R163, R178), and encoding rows for a store (R195). -/

namespace Sys2Proof.Machine

/-! ## Packed rows (R135) -/

/-- The code of element `j` of a packed row. -/
def rowCode (l : List Byte) (w j : Nat) : Nat := (bytesAt l (j * w / 8) 5 >>> (j * w % 8)) % 2 ^ w

/-- Is a byte of element `j` of a packed row poisoned. -/
def rowPoison (l : List (Byte × Bool)) (w j : Nat) : Bool :=
  ((l.drop (j * w / 8)).take ((j * w + w - 1) / 8 - j * w / 8 + 1)).any (fun b => b.2)

/-- Pack codes of width `w` with their poison into bytes. -/
def packCodes (w : Nat) (l : List (Nat × Bool)) : List (Byte × Bool) :=
  let v := l.foldr (fun c a => c.1 % 2 ^ w + 2 ^ w * a) 0
  let n := divUp (l.length * w) 8
  (toBytes n v).zipIdx.map (fun b => (b.1, ((l.drop (8 * b.2 / w)).take ((8 * b.2 + 7) / w - 8 * b.2 / w + 1)).any (fun c => c.2)))

/-! ## FP4X containers (R144, R145) -/

/-- ESC_COUNT, and slot `i`'s word. -/
def fxCount (c : List Byte) : Nat := bytesAt c 17 1 % 4
def fxSlot (c : List Byte) (i : Nat) : Nat := bytesAt c (18 + 3 * i) 3
def fxIndex (c : List Byte) (i : Nat) : Nat := fxSlot c i % 32
/-- The DATA code of element `j`. -/
def fxData (c : List Byte) (j : Nat) : Nat := rowCode (c.take 16) 4 j

/-- Is a container well formed (R145). -/
def fxOk (c : List Byte) : Bool :=
  let n := fxCount c
  n ≤ 2 && bytesAt c 17 1 / 4 == 0 &&
    (List.range 2).all (fun i => if i < n then bits (fxSlot c i) 7 5 == 0 && fxData c (fxIndex c i) == 0 else fxSlot c i == 0) &&
    (n < 2 || fxIndex c 0 != fxIndex c 1)

/-- The value of element `j` of a well-formed container (R145). -/
def fxVal (c : List Byte) (j : Nat) : Val :=
  if bytesAt c 16 1 = 0xFF then .nan else
  match (List.range (fxCount c)).find? (fun i => fxIndex c i == j) with
  | some i => decodeElem 1 (fxSlot c i / 256)
  | none => scaled (bytesAt c 16 1) (decodeElem 7 (fxData c j))

/-- An element of a container; poison of any of its bytes that the element is read from, or of the scale. -/
def fxElem (c : List (Byte × Bool)) (j : Nat) : Elem :=
  let b := bare c
  ⟨fxVal b j, rowPoison (c.take 16) 4 j || ((c.drop 16).any (fun x => x.2)), fxData b j, bytesAt b 16 1⟩

/-- The containers of a stored row. (log 55: DEDUCED) -/
def fxRow (l : List (Byte × Bool)) : List (List (Byte × Bool)) := chunks 24 (l.length / 24 + 1) l

/-! ## Reading stored rows -/

/-- An operand in memory: stored rows and their extent, format and scale mode, address, stride and signed scale offset. -/
structure Opnd where
  rows : Nat
  extent : Nat
  fmt : Nat
  mode : Nat
  addr : Nat
  stride : Nat
  scaleOff : Nat
  deriving DecidableEq, Repr

/-- The scale plane's address and stride (R163). -/
def Opnd.plane (o : Opnd) : Nat × Nat := (wrap 64 ((o.addr : Int) + sext 32 o.scaleOff), o.stride / unitOf o.fmt o.mode)

/-- Does the operand have a scale plane. -/
def Opnd.hasPlane (o : Opnd) : Bool := o.mode == 1 || o.mode == 2

/-- The ranges that an operand's rows, then its scales, occupy. -/
def Opnd.ranges (o : Opnd) : List (Nat × Nat) :=
  let data := (List.range o.rows).map (fun i => ((o.addr + i * o.stride) % 2 ^ 64, rowBytes o.fmt o.mode o.extent))
  let sc := if o.hasPlane then (List.range o.rows).map (fun i => ((o.plane.1 + i * o.plane.2) % 2 ^ 64, o.extent / blockSize o.mode)) else []
  data ++ sc

/-- Decode one element of a packed row under its block's scale byte; 256 stands for no scale. -/
def packedElem (fmt : Nat) (l : List (Byte × Bool)) (j : Nat) (scale : Option (Byte × Bool)) : Elem :=
  let w := fmtWidth fmt
  let c := rowCode (bare l) w j
  let v := decodeElem fmt c
  match scale with
  | none => ⟨v, rowPoison l w j, c, 256⟩
  | some b => ⟨scaled b.1.toNat v, rowPoison l w j || b.2, c, b.1.toNat⟩

/-- Decode the bytes of an operand's ranges into its stored rows: ZS_BAD_FORMAT with SUBCODE 0x01 where escapes are not allowed
and a container has one, 0x02 where a container is malformed (R146). -/
def Opnd.decode (o : Opnd) (esc : Bool) (bs : List (List (Byte × Bool))) : Except (Nat × Nat) (List (List Elem)) :=
  if o.mode = 3 then
    let cs := (bs.take o.rows).map fxRow
    if !esc && cs.any (fun r => r.any (fun c => fxCount (bare c) != 0)) then .error (zsBadFormat, 0x01)
    else if cs.any (fun r => r.any (fun c => !fxOk (bare c))) then .error (zsBadFormat, 0x02)
    else .ok (cs.map (fun r => r.flatMap (fun c => (List.range 32).map (fxElem c))))
  else
    .ok ((List.range o.rows).map (fun i =>
      let data := bs.getD i []
      let sc := bs.getD (o.rows + i) []
      (List.range o.extent).map (fun j => packedElem o.fmt data j (if o.hasPlane then some (sc.getD (j / blockSize o.mode) (0, false)) else none))))

/-- What a reading operation carries: the checked blocks that it has verified (R376), and the state. -/
abbrev Reading := List Nat × State

/-- A reader of ranges: virtual for a context, physical for the firmware port. -/
abbrev Reader := List (Nat × Nat) → Reading → Except (Nat × Nat × Nat) (List (List (Byte × Bool))) × Reading

/-- Read and decode an operand's stored rows. -/
def Opnd.fetch (rd : Reader) (o : Opnd) (esc : Bool) (s : Reading) : Except (Nat × Nat) (List (List Elem)) × Reading :=
  match rd o.ranges s with
  | (.error (c, u, _), s) => (.error (c, u), s)
  | (.ok bs, s) => (o.decode esc bs, s)

/-- Element [i][j] of a matrix held as rows. -/
def elemAt (l : List (List Elem)) (i j : Nat) : Elem := (l.getD i []).getD j .zero

/-- The transpose of `n` columns. -/
def transposeRows (n : Nat) (l : List (List Elem)) : List (List Elem) := (List.range n).map (fun j => l.map (fun r => r.getD j .zero))

/-! ## Operands of a pass -/

/-- Operand A outside CONV, and operand B (R162). -/
def opndA (d : List Byte) : Opnd :=
  if dTransA d then ⟨dK d, dM d, dFmtA d, dModeA d, dAAddr d, dAStride d, dAScale d⟩
  else ⟨dM d, dK d, dFmtA d, dModeA d, dAAddr d, dAStride d, dAScale d⟩
def opndB (d : List Byte) : Opnd :=
  if dTransB d then ⟨dK d, dN d, dFmtB d, dModeB d, dBAddr d, dBStride d, dBScale d⟩
  else ⟨dN d, dK d, dFmtB d, dModeB d, dBAddr d, dBStride d, dBScale d⟩

/-- Where element A[m][k] of a convolution lies: the bytes of its element or container, its position there, its scale's address. -/
structure ConvLoc where
  addr : Nat
  n : Nat
  pos : Nat
  scale : Option Nat
  deriving DecidableEq, Repr

/-- The location of A[m][k] of a convolution; none for padding (R178). -/
def convLoc (d : List Byte) (m k : Nat) : Option ConvLoc :=
  match convPixel d m k with
  | none => none
  | some (ih, iw, c) =>
    let g := convOf d
    let f := dFmtA d
    let w := fmtWidth f
    let px := ih * g.iw + iw
    let base := dAAddr d + px * pixelBytes d
    if dModeA d = 3 then some ⟨(base + c / 32 * 24) % 2 ^ 64, 24, c % 32, none⟩ else
    let lo := c * w / 8
    let hi := (c * w + w - 1) / 8
    let s := blockSize (dModeA d)
    some ⟨(base + lo) % 2 ^ 64, hi - lo + 1, c * w % 8,
      if dModeA d = 0 then none else some ((dAAddr d + g.ih * g.iw * pixelBytes d + px * (g.c / s) + c / s) % 2 ^ 64)⟩

/-- The element at a convolution location, from its bytes and its scale's. -/
def convElem (d : List Byte) (l : ConvLoc) (b : List (Byte × Bool)) (sc : List (Byte × Bool)) : Elem :=
  if dModeA d = 3 then fxElem b l.pos else
  let c := (ofBytes (bare b) >>> l.pos) % 2 ^ fmtWidth (dFmtA d)
  let v := decodeElem (dFmtA d) c
  let p := b.any (fun x => x.2)
  match l.scale with
  | none => ⟨v, p, c, 256⟩
  | some _ => ⟨scaled (ofBytes (bare sc)) v, p || sc.any (fun x => x.2), c, ofBytes (bare sc)⟩

/-- Read A of a convolution: its M rows of K elements. -/
def convFetch (rd : Reader) (d : List Byte) (s : Reading) : Except (Nat × Nat) (List (List Elem)) × Reading :=
  let locs := (List.range (dM d)).map (fun m => (List.range (dK d)).map (convLoc d m))
  let flat := locs.flatMap (fun r => r.filterMap id)
  let ranges := flat.flatMap (fun l => (l.addr, l.n) :: (l.scale.elim [] (fun a => [(a, 1)])))
  match rd ranges s with
  | (.error (c, u, _), s) => (.error (c, u), s)
  | (.ok bs, s) =>
    let take (n : Nat) (acc : List (List (Byte × Bool))) : List (List (Byte × Bool)) × List (List (Byte × Bool)) := (acc.take n, acc.drop n)
    let r := locs.foldl (fun (acc : List (List Elem) × List (List (Byte × Bool))) row =>
      let x := row.foldl (fun (a : List Elem × List (List (Byte × Bool))) l =>
        match l with
        | none => (a.1 ++ [Elem.zero], a.2)
        | some l =>
          let (h, t) := take (if l.scale.isSome then 2 else 1) a.2
          (a.1 ++ [convElem d l (h.getD 0 []) (h.getD 1 [])], t)) ([], acc.2)
      (acc.1 ++ [x.1], x.2)) ([], bs)
    let fx := dModeA d = 3
    let cs := if fx then bs.map bare else []
    (if cs.any (fun c => fxCount c != 0) then .error (zsBadFormat, 0x01) else if cs.any (fun c => !fxOk c) then .error (zsBadFormat, 0x02)
      else .ok r.1, s)

/-- Read operand A of an MMA: M rows of K elements. -/
def fetchA (rd : Reader) (d : List Byte) (s : Reading) : Except (Nat × Nat) (List (List Elem)) × Reading :=
  if dConv d then convFetch rd d s else
  match (opndA d).fetch rd false s with
  | (.error e, s) => (.error e, s)
  | (.ok l, s) => (.ok (if dTransA d then transposeRows (dM d) l else l), s)

/-- Read operand B of an MMA: for each column n its K elements. -/
def fetchB (rd : Reader) (d : List Byte) (s : Reading) : Except (Nat × Nat) (List (List Elem)) × Reading :=
  match (opndB d).fetch rd true s with
  | (.error e, s) => (.error e, s)
  | (.ok l, s) => (.ok (if dTransB d then transposeRows (dN d) l else l), s)

/-! ## Encoding (R137, R140, R143, R147) -/

/-- A block's exponent X for a greatest magnitude, or none where the block is non-finite (R143 steps 2 to 4). -/
def blockExp (fmt : Nat) (sat : Bool) (a : Val) : Option Int :=
  match leastExp fmt a with
  | none => some (-127)
  | some x => if x < -127 then some (-127) else if x ≤ 127 then some x else if sat then some 127 else none

/-- Does a source value make its block non-finite (R143 step 1). -/
def blockPoisons (sat : Bool) (v : Val) : Bool := v.isNan || (v.isInf && !sat)

/-- The greatest finite magnitude of values. -/
def maxFinite (l : List Val) : Val := l.foldl (fun a v => if v.isNan || v.isInf then a else if valLt a v.abs then v.abs else a) .zero

/-- An encoded block: its scale, element codes, whether it is non-finite, and how many elements were clamped. -/
structure Block where
  scale : Nat
  codes : List Nat
  nonfin : Bool
  clamped : Nat
  deriving DecidableEq, Repr

/-- A non-finite block. -/
def Block.bad (n : Nat) : Block := ⟨0xFF, List.replicate n 0, true, 0⟩

/-- Encode a block of values, each with its rounding (R143). -/
def encodeBlock (fmt : Nat) (sat : Bool) (l : List (Val × Rnd)) : Block :=
  if l.any (fun x => blockPoisons sat x.1) then .bad l.length else
  match blockExp fmt sat (maxFinite (l.map (fun x => x.1))) with
  | none => .bad l.length
  | some x =>
    let cs := l.map (fun v => convert fmt sat v.2 (v.1.scale (-x)))
    ⟨(x + 127).toNat, cs.map (fun c => c.code), false, cs.countP (fun c => c.clamped)⟩

/-- An encoded row: its bytes, its scale bytes, non-finite blocks, escapes and clamped elements. -/
structure EncRow where
  data : List (Byte × Bool)
  scales : List (Byte × Bool)
  nonfin : Nat
  escapes : Nat
  clamped : Nat
  deriving DecidableEq, Repr

/-- A source element of an encoded row: value, poison, rounding. -/
structure SrcElem where
  val : Val
  poisoned : Bool
  rnd : Rnd
  deriving DecidableEq, Repr

/-- Encode a row without block scales, every value first multiplied by 2^(−e) (R137, R140, R151). -/
def encodePlain (fmt : Nat) (sat : Bool) (e : Int) (l : List SrcElem) : EncRow :=
  let cs := l.map (fun x => (convert fmt sat x.rnd (x.val.scale (-e)), x.poisoned))
  ⟨packCodes (fmtWidth fmt) (cs.map (fun c => (c.1.code, c.2))), [], 0, 0, cs.countP (fun c => c.1.clamped)⟩

/-- Encode a row in blocks of 16 or 32. -/
def encodeBlocks (fmt mode : Nat) (sat : Bool) (l : List SrcElem) : EncRow :=
  let s := blockSize mode
  let bs := (chunks s (l.length / s + 1) l).map (fun b => (encodeBlock fmt sat (b.map (fun x => (x.val, x.rnd))), b))
  ⟨packCodes (fmtWidth fmt) (bs.flatMap (fun b => List.zipWith (fun c x => (c, x.poisoned)) b.1.codes b.2)),
    bs.map (fun b => (BitVec.ofNat 8 b.1.scale, b.2.any (fun x => x.poisoned))),
    bs.countP (fun b => b.1.nonfin), 0, bs.foldl (fun n b => n + b.1.clamped) 0⟩

/-- Insert an index into a list ranked by magnitude, the lower index first among equals (R147). -/
def rankInsert (vs : List Val) (i : Nat) (l : List Nat) : List Nat :=
  match l with
  | [] => [i]
  | j :: r => if valLt (vs.getD j .zero).abs (vs.getD i .zero).abs then i :: j :: r else j :: rankInsert vs i r

/-- Encode one FP4X container (R147): bytes, whether non-finite, escapes, clamped elements. -/
def encodeFx (sat : Bool) (escMax : Nat) (l : List SrcElem) : List (Byte × Bool) × Bool × Nat × Nat :=
  let vs := l.map (fun x => x.val)
  let p := l.any (fun x => x.poisoned)
  let close (data : List Nat) (scale n : Nat) (esc : List (Nat × Nat)) : List (Byte × Bool) :=
    packCodes 4 (List.zipWith (fun c x => (c, x.poisoned)) data l) ++
      ((toBytes 1 scale ++ toBytes 1 n ++ ((esc.map (fun (x : Nat × Nat) => x.1 + x.2 * 256) ++ [0, 0]).take 2).flatMap (toBytes 3)).map (fun b => (b, p)))
  if vs.any (blockPoisons sat) then (close (List.replicate 32 0) 0xFF 0 [], true, 0, 0) else
  let ranked := ((List.range 32).foldl (fun r i => rankInsert vs i r) [])
  let top := ranked.take escMax
  let a := maxFinite (((List.range 32).filter (fun i => !top.contains i)).map (fun i => vs.getD i .zero))
  match blockExp 7 sat a with
  | none => (close (List.replicate 32 0) 0xFF 0 [], true, 0, 0)
  | some x =>
    let esc := top.filter (fun i => valLt ((fmtMax 7).scale x) (vs.getD i .zero).abs)
    let ev := esc.map (fun i => (i, convert 1 sat .rne (vs.getD i .zero)))
    let cs := (List.range 32).map (fun i => if esc.contains i then (⟨0, false⟩ : Conv) else
      convert 7 sat ((l[i]?).elim .rne (fun x => x.rnd)) ((vs.getD i .zero).scale (-x)))
    (close (cs.map (fun c => c.code)) (x + 127).toNat esc.length (ev.map (fun e => (e.1, e.2.code))), false, esc.length,
      cs.countP (fun c => c.clamped) + ev.countP (fun e => e.2.clamped))

/-- Encode a row of FP4X containers. -/
def encodeFxRow (sat : Bool) (escMax : Nat) (l : List SrcElem) : EncRow :=
  let cs := (chunks 32 (l.length / 32 + 1) l).map (encodeFx sat escMax)
  ⟨cs.flatMap (fun c => c.1), [], cs.countP (fun c => c.2.1), cs.foldl (fun n c => n + c.2.2.1) 0, cs.foldl (fun n c => n + c.2.2.2) 0⟩

/-- Encode a row in a format and scale mode: 0 NONE, 1 BLOCK16, 2 BLOCK32, 3 FP4X, 4 TENSOR with exponent `e`. -/
def encodeRow (fmt mode escMax : Nat) (sat : Bool) (e : Int) (l : List SrcElem) : EncRow :=
  match mode with
  | 1 => encodeBlocks fmt 1 sat l
  | 2 => encodeBlocks fmt 2 sat l
  | 3 => encodeFxRow sat escMax l
  | _ => encodePlain fmt sat e l

/-- Join writes whose ranges follow each other. -/
def coalesce (l : List (Nat × List (Byte × Bool))) : List (Nat × List (Byte × Bool)) :=
  (l.foldl (fun (acc : List (Nat × List (Byte × Bool))) w =>
    match acc with
    | (a, b) :: r => if a + b.length = w.1 then (a, b ++ w.2) :: r else w :: acc
    | [] => [w]) []).reverse

/-- Perform the writes of one operation for a context, in order, until one fails; answers the failure and the bytes written.
(log 63: DESIGN CHOICE) -/
def opWrite (eng c : Nat) (l : List (Nat × List (Byte × Bool))) (s : State) : (Option (Nat × Nat × Nat) × Nat) × State :=
  match l with
  | [] => ((none, 0), s)
  | w :: r =>
    match vWrite eng c w.1 w.2 s with
    | (some e, s) => ((some e, 0), s)
    | (none, s) => let x := opWrite eng c r s; ((x.1.1, x.1.2 + w.2.length), x.2)

end Sys2Proof.Machine
end

