-- ==== Sys2Proof/Machine/Skm.lean ====
section
/-! DEFINITION. The skein matrix instructions and TOPK (R58, R59, R102 to R106). -/

namespace Sys2Proof.Machine

/-- SKM_MASKED_ZERO of the context (R266). -/
def maskedZero (s : State) (c : Nat) : Bool := (ctxAt s c).any (fun x => bit x.mode 0)

/-- The convergence rule (R58, R59): run an SKM body, or fault the skein under a partial mask. -/
def skmRun (e : Env) (body : State → State) (s : State) : State :=
  if (lanes e).length < 32 && !maskedZero s e.k.ctx then
    loomFault e.loom e.skein [e.skein] zsDivergent 0x01 2 e.ins.pc 0 e.mask (lowThread e) s
  else body s

/-- A register of a thread that takes part; 0 in any other thread (R59). -/
def partG (e : Env) (t n : Nat) : Nat := if (lanes e).contains t then rdG e.k t n else 0

/-- The code of element `j` of a thread's share of a fragment with container width `cw` (R103). -/
def fragCode (e : Env) (base cw fmt t j : Nat) : Nat :=
  (partG e t (base + j * cw / 32) >>> (j * cw % 32)) % 2 ^ fmtWidth fmt

/-- The scale code of element `j` of a thread's share (R103): blocks of `sz` elements, `h` elements a share. -/
def fragScale (e : Env) (base sz h t j : Nat) : Nat :=
  if sz ≤ h then bits (partG e t (base + 4)) (8 * (j / sz) + 7) (8 * (j / sz))
  else bits (partG e (t / 2 * 2) (base + 4)) 7 0

/-- Element k of row (or column) i of a fragment, with its block scale (R103, R142). -/
def fragElem (e : Env) (base fmt sm i k : Nat) : Val :=
  let cw := skmContainer fmt
  let kk := 256 / cw
  let h := kk / 2
  let t := 2 * i + k / h
  let v := decodeElem fmt (fragCode e base cw fmt t (k % h))
  if sm = 0 then v else scaled (fragScale e base (16 * sm) h t (k % h)) v

/-- The accumulator input element [i][n] (R102, R103). -/
def accumIn (e : Env) (i n : Nat) : Val :=
  if fSrc e.ins.w 2 = 255 then .zero else fp32 (partG e (2 * i + n / 8) (fSrc e.ins.w 2 + n % 8))

/-- Element [i][n] of D (R102, R104). -/
def macElem (e : Env) (i n : Nat) : Nat :=
  let fa := bits (fMod e.ins.w) 3 0
  let fb := fFunc e.ins.w % 16
  let sm := bits (fMod e.ins.w) 5 4
  let kk := 256 / skmContainer fa
  toFp32 (exactSum ((List.range kk).map (fun k => valMul (fragElem e (fSrc e.ins.w 0) fa sm i k) (fragElem e (fSrc e.ins.w 1) fb sm n k))
    ++ [accumIn e i n]))

/-- Pack eight 32-bit words, the first least significant. -/
def pack32 (l : List Nat) : Nat := l.foldr (fun x a => x % 2 ^ 32 + 2 ^ 32 * a) 0

/-- SKM.MAC (R102 to R104). -/
def execSkmMac (w : Who) (s : State) : Host.Outcome State Fault Refusal :=
  .next (issueRow w (0x30 * 8) (fun _ => true) (fun e s => skmRun e (fun s =>
    perThread e 8 (fun t => pack32 ((List.range 8).map (fun j => macElem e (t / 2) (t % 2 * 8 + j)))) s) s) s)

/-- SKM.XPOSE (R105). -/
def execSkmXpose (w : Who) (s : State) : Host.Outcome State Fault Refusal :=
  .next (issueRow w (0x30 * 8 + 1) (fun _ => true) (fun e s => skmRun e (fun s =>
    let base := fSrc e.ins.w 0
    perThread e 4 (fun t => (List.range 8).foldr (fun j a =>
      let k := t % 2 * 8 + j
      fragCode e base 16 1 (2 * k + t / 2 / 8) (t / 2 % 8) + 2 ^ 16 * a) 0) s) s) s)

/-- Operand A of SKM.SUM and SKM.MAX in a thread; +0.0 in one that does not take part (R59). -/
def skmScalar (e : Env) (t : Nat) : Val := if (lanes e).contains t then fp32 (srcF e 0 0 t) else .zero

/-- SKM.SUM (R105). -/
def execSkmSum (w : Who) (s : State) : Host.Outcome State Fault Refusal :=
  .next (issueRow w (0x30 * 8 + 2) (fun _ => true) (fun e s => skmRun e (fun s =>
    let r := toFp32 (exactSum ((List.range 32).map (skmScalar e)))
    perThread e 1 (fun _ => r) s) s) s)

/-- SKM.MAX (R105). -/
def execSkmMax (w : Who) (s : State) : Host.Outcome State Fault Refusal :=
  .next (issueRow w (0x30 * 8 + 3) (fun _ => true) (fun e s => skmRun e (fun s =>
    let r := toFp32 ((List.range 31).foldl (fun m t => valMaxN m (skmScalar e (t + 1))) (skmScalar e 0))
    perThread e 1 (fun _ => r) s) s) s)

/-- The order of top-k selection (R106, R189): greater value first, then lower index; NaN below −∞, −0 equal to +0. -/
def topkBefore (a b : Nat × Nat) : Bool :=
  let x := fp32 a.1
  let y := fp32 b.1
  if x.isNan then y.isNan && a.2 < b.2 else if y.isNan then true
  else valLt y x || (valEq x y && a.2 < b.2)

/-- Insert an entry into an ordered list. -/
def topkInsert (a : Nat × Nat) (l : List (Nat × Nat)) : List (Nat × Nat) :=
  match l with
  | [] => [a]
  | b :: r => if topkBefore a b then a :: b :: r else b :: topkInsert a r

/-- The 8 entries of row i (R106). -/
def topkRow (e : Env) (i : Nat) : List (Nat × Nat) :=
  let b (t : Nat) : Nat := if (lanes e).contains t then src e 1 1 t else 0
  let xs := (List.range 16).map (fun c => let t := 2 * i + c / 8; (partG e t (fSrc e.ins.w 0 + c % 8), (b t + c) % 2 ^ 32))
  let ys := if fSrc e.ins.w 2 = 255 then [] else
    (List.range 8).map (fun j => (partG e (2 * i) (fSrc e.ins.w 2 + j), partG e (2 * i + 1) (fSrc e.ins.w 2 + j)))
  ((ys ++ xs).foldl (fun l a => topkInsert a l) []).take 8

/-- TOPK (R106). -/
def execTopk (w : Who) (s : State) : Host.Outcome State Fault Refusal :=
  .next (issueRow w (0x31 * 8) (fun _ => true) (fun e s => skmRun e (fun s =>
    perThread e 8 (fun t => pack32 ((topkRow e (t / 2)).map (fun p => if t % 2 = 0 then p.1 else p.2))) s) s) s)

end Sys2Proof.Machine
end

