-- ==== Sys2Proof/Machine/TileMath.lean ====
section
/-! DEFINITION. The arithmetic of a pass (R160, R222), adding into accumulator slots (R188, R196), TOPK mode (R190 to R192) and the
NaN fill of a failed op (R177, R494). -/

namespace Sys2Proof.Machine

/-! ## FP32G (R160) -/

/-- Round an exact value once to the FP32G grid with RNE. -/
def roundG (v : Val) : Val :=
  match v with
  | .fin n m e =>
    if m = 0 then v else
    let q := max ((Nat.log2 m : Nat) + e) (-126) - 31
    let u := roundUnits .rne n m e q
    if valLt (.fin false (2 ^ 32 - 1) 96) (.fin false u q) then .inf n else .fin n u q
  | v => v

/-- The value of an exact sum under R160: a zero sum is −0 where every addend is −0. -/
def sumVal (x : ExactSum) : Val :=
  match x.val with
  | .fin n m e => if m = 0 then .fin x.allNegZero 0 0 else .fin n m e
  | v => v

/-- One cell: the incoming partial plus the exact products of its p positions, rounded once. -/
def cellStep (s : Val) (ps : List (Elem × Elem)) : Val :=
  roundG (sumVal (ps.foldl (fun x p => x.add (valMul p.1.val p.2.val)) (ExactSum.empty.add s)))

/-- The partial that leaves cell row 127 for a row of A and a column of B (R159, R160): positions beyond K are +0. -/
def partialOf (p : Nat) (a b : List Elem) : Val :=
  let pairs := List.zip a b
  let pad := List.replicate ((p - pairs.length % p) % p) (Elem.zero, Elem.zero)
  let v := (chunks p (pairs.length / p + 1) (pairs ++ pad)).foldl cellStep Val.zero
  if pairs.length < 128 * p then roundG (sumVal ((ExactSum.empty.add v).add Val.zero)) else v

/-- Is any element of a list poisoned. -/
def anyPoison (l : List Elem) : Bool := l.any (fun x => x.poisoned)

/-- The drained rows of a pass (R160, R255). -/
def passRows (p : Nat) (a b : List (List Elem)) : List (List (Val × Bool)) :=
  let bp := b.map (fun c => (c, anyPoison c))
  a.map (fun r => let rp := anyPoison r; bp.map (fun c => (partialOf p r c.1, rp || c.2)))

/-! ## Writing slot elements -/

/-- Key of element [m][n] of a slot. -/
def slotKeyOf (m n : Nat) : Nat := m * 128 + n

/-- Element [m][n] of a slot, and its poison. -/
def slotElem (v : AccSlot) (m n : Nat) : Nat := tgetD v.vals (slotKeyOf m n) v.dflt
def slotPoison (v : AccSlot) (m n : Nat) : Bool := v.poisoned.contains (slotKeyOf m n)

/-- A write of slot elements: key, new bits, poison, in rising key order. -/
structure SlotWrite where
  key : Nat
  val : Nat
  poisoned : Bool
  deriving DecidableEq, Repr

/-- Count writes that turn a finite value to ±∞, or a value that is not NaN to NaN (R206). -/
def ovfCount (v : AccSlot) (l : List SlotWrite) : Nat :=
  l.countP (fun w => (fp32 w.val).isInf && !(fp32 (tgetD v.vals w.key v.dflt)).isInf && !(fp32 (tgetD v.vals w.key v.dflt)).isNan)
def nanCount (v : AccSlot) (l : List SlotWrite) : Nat := l.countP (fun w => fp32IsNan w.val && !fp32IsNan (tgetD v.vals w.key v.dflt))

/-- The slot after writes. -/
def slotPut (v : AccSlot) (l : List SlotWrite) : AccSlot :=
  let keys := l.map (fun w => w.key)
  let lo := keys.headD 0
  { v with vals := tover v.vals (l.map (fun w => (w.key, w.val))),
           poisoned := if v.poisoned.isEmpty && l.all (fun w => !w.poisoned) then [] else
             (v.poisoned.filter (fun k => k < lo || !keys.contains k)) ++ (l.filter (fun w => w.poisoned)).map (fun w => w.key) }

/-- Count overflows and NaNs of a loom's accumulator store, raising its interrupt sources (R206). -/
def accCount (loom ovf nan : Nat) (s : State) : State :=
  let p := acsPage loom
  let s := if ovf = 0 then s else setPend p 4 (bump (p + Reg.ACS_OVF) ovf s)
  if nan = 0 then s else setPend p 8 (bump (p + Reg.ACS_NAN) nan s)

/-- Write elements of a slot tagged SUM, counted (R188, R196, R206). -/
def writeSlot (loom n : Nat) (l : List SlotWrite) (s : State) : State :=
  let v := slotAt s loom n
  let s := if v.topk then s else accCount loom (ovfCount v l) (nanCount v l) s
  putSlot loom n (slotPut v l) s

/-- Fill a slot with the canonical NaN, no element poisoned (R177, R494); its tag stays unless given. -/
def nanFill (loom n : Nat) (topk : Bool) (s : State) : State :=
  let v := slotAt s loom n
  let s := if v.topk then s else
    accCount loom 0 (16384 - (if fp32IsNan v.dflt then 16384 - v.vals.length else 0) - v.vals.countP (fun x => fp32IsNan x.2)) s
  putSlot loom n { AccSlot.nan with topk := topk } s

/-! ## Adding a drained row (R188) -/

/-- The rounding of a slot add or store: keyed SR under the context's key (R139), or RNE. -/
def slotRnd (s : State) (ctx step : Nat) (sr : Bool) (seq m n : Nat) : Rnd :=
  if sr then .sr (srBits ((ctxAt s ctx).elim 0 (fun x => x.srKey)) step 1 seq m n) else .rne

/-- c + s exactly, or s alone, rounded once to FP32 (R188): an exact zero sum is +0 unless both addends are −0. -/
def addRound (mode : Rnd) (c : Option Nat) (v : Val) : Nat :=
  match c with
  | none => (convert 0 false mode v).code
  | some c => (convert 0 false mode (sumVal ((ExactSum.empty.add (fp32 c)).add v))).code

/-- The writes of an MMA's rows into its slot. -/
def mmaWrites (s : State) (loom slot ctx step : Nat) (d : List Byte) (rows : List (List (Val × Bool))) : List SlotWrite :=
  let v := slotAt s loom slot
  rows.zipIdx.flatMap (fun r => r.1.zipIdx.map (fun x =>
    let old := if dAdd d then some (slotElem v r.2 x.2) else none
    ⟨slotKeyOf r.2 x.2, addRound (slotRnd s ctx step (dSr d) (dSrSeq d) r.2 x.2) old x.1.1,
      x.1.2 || (dAdd d && slotPoison v r.2 x.2)⟩))

/-! ## TOPK mode (R190 to R192) -/

/-- A list slot with eight empty entries in every row (R191). -/
def emptyList : AccSlot :=
  ⟨0, (List.range 128).flatMap (fun m => (List.range 16).map (fun i => (slotKeyOf m i, if i < 8 then 0x7FC00000 else 0xFFFFFFFF))), [], true⟩

/-- The eight entries of a list row. -/
def listRow (v : AccSlot) (m : Nat) : List (Nat × Nat) := (List.range 8).map (fun i => (slotElem v m i, slotElem v m (8 + i)))

/-- The writes that put eight entries into a list row. -/
def listWrites (m : Nat) (l : List (Nat × Nat)) (poisoned : Bool) : List SlotWrite :=
  (l.zipIdx.map (fun e => ⟨slotKeyOf m e.2, e.1.1, poisoned⟩)) ++ (l.zipIdx.map (fun e => ⟨slotKeyOf m (8 + e.2), e.1.2, poisoned⟩))

/-- Merge a pass's rows into the list slot (R190, R191): COL_BASE lies where SR_SEQ does. -/
def topkWrites (v cand : AccSlot) (d : List Byte) (rows : List (List (Val × Bool))) : List SlotWrite :=
  rows.zipIdx.flatMap (fun r =>
    let m := r.2
    let cs := r.1.zipIdx.map (fun x =>
      (addRound .rne (if dAdd d then some (slotElem cand m x.2) else none) x.1.1, (dSrSeq d + x.2) % 2 ^ 32,
        x.1.2 || (dAdd d && slotPoison cand m x.2)))
    let p := cs.any (fun c => c.2.2) || (List.range 16).any (fun i => slotPoison v m i)
    listWrites m (((listRow v m ++ cs.map (fun c => (c.1, c.2.1))).foldl (fun l a => topkInsert a l) []).take 8) p)

/-- The list slot as it stands when a TOPK op reaches it: turned from SUM where needed (R191). -/
def listSlot (s : State) (loom n : Nat) : AccSlot := let v := slotAt s loom n; if v.topk then v else emptyList

/-! ## Draining a request (R182, R188, R192) -/

/-- Drain a request's rows into its slot. -/
def drainReq (loom : Nat) (east : Bool) (ctx : Nat) (r : TileReq) (rows : List (List (Val × Bool))) (s : State) : State :=
  let d := r.desc
  let slot := physSlot east (dSlot d)
  if dTopk d then
    let v := listSlot s loom (slot + 1)
    bump (acsPage loom + Reg.ACS_TOPK_ROWS) rows.length
      (putSlot loom (slot + 1) (slotPut v (topkWrites v (slotAt s loom slot) d rows)) s)
  else
    let s := writeSlot loom slot (mmaWrites s loom slot ctx r.step d rows) s
    let s := putSlot loom slot { slotAt s loom slot with topk := false } s
    let s := bump (acsPage loom + Reg.ACS_ADD_ROWS) rows.length s
    if dSr d then bump (acsPage loom + Reg.ACS_SR_ROWS) rows.length s else s

/-- A request failed after acceptance: its slot is filled with NaN, and a TOPK list takes empty entries (R177, R192). -/
def failReq (loom : Nat) (east : Bool) (r : TileReq) (s : State) : State :=
  let d := r.desc
  let slot := physSlot east (dSlot d)
  let s := nanFill loom slot (dTopk d && (slotAt s loom slot).topk) s
  if !dTopk d then s else
  let v := listSlot s loom (slot + 1)
  putSlot loom (slot + 1) (slotPut v ((List.range (dM d)).flatMap (fun m => listWrites m (List.replicate 8 (0x7FC00000, 0xFFFFFFFF)) false))) s

/-! ## Comparison cells (R222) -/

/-- d = a − b exactly. -/
def cmpDiff (a b : Elem) : Val := valAdd .rne a.val b.val.neg

/-- One comparison cell: 0 ABSDIFF, 1 EQCOUNT, 2 MIN, 3 MAX. -/
def cmpStep (op : Nat) (s : Val) (ps : List (Elem × Elem)) : Val :=
  match op with
  | 0 => roundG (sumVal (ps.foldl (fun x p => x.add (cmpDiff p.1 p.2).abs) (ExactSum.empty.add s)))
  | 1 => roundG (valAdd .rne s (.fin false (ps.countP (fun p => p.1.raw == p.2.raw && p.1.scale == p.2.scale)) 0))
  | 2 => roundG (ps.foldl (fun x p => let d := cmpDiff p.1 p.2; if x.isNan || d.isNan then .nan else valMin x d) s)
  | _ => roundG (ps.foldl (fun x p => valMaxN x (cmpDiff p.1 p.2)) s)

/-- Element [m][n] of a comparison op. -/
def cmpElem (op p : Nat) (a b : List Elem) : Nat :=
  let start : Val := match op with | 2 => .inf false | 3 => .inf true | _ => .zero
  let pairs := List.zip a b
  toFp32 ((chunks p (pairs.length / p + 1) pairs).foldl (cmpStep op) start)

/-- The reduction that TWL_CMP_RESULT receives (R223): the minimum or maximum of the covered elements, NaN if any is NaN. -/
def cmpReduce (least : Bool) (l : List Nat) : Nat :=
  match l with
  | [] => 0
  | x :: r => toFp32 (r.foldl (fun v y =>
      let w := fp32 y
      if v.isNan || w.isNan then .nan else if least then valMin v w else valMax v w) (fp32 x))

end Sys2Proof.Machine
end

