-- ==== Sys2Proof/Machine/TileQueue.lean ====
section
/-! DEFINITION. TILE, QUE and the CHK instructions (R107, R108, R110, R274, R276, R284, R290, R376). -/

namespace Sys2Proof.Machine

/-! ## Shared operations -/

/-- The same value to every thread of the group, as writes of `n` registers at DST. -/
def toAll (e : Env) (n v : Nat) : List RegWrite := regWrites (fDst e.ins.w) n ((lanes e).map (fun t => (t, v)))

/-- Start an LCV instruction with a wait and the same result for every thread, and finish its issue; the group waits on it where
`hold` is set. -/
def uniStart (e : Env) (wait : LcvWait) (hold : Bool) (n v : Nat) (s : State) : State :=
  let id := nextLcvId s e.loom e.skein
  let s := startLcv e wait 0 (dstRegs e.ins.w) (toAll e n v) s
  finish e (fun k => if hold then modGroup e.mask (fun g => { g with wait := .lcv id }) k else k) s

/-- The physical scratch address of a 64-byte item at a scratch offset, or the fault it meets (R65, R107, R108). -/
def scratch64 (e : Env) (off : Nat) : Except (Nat × Nat) Nat :=
  if off % 64 ≠ 0 then .error (zsMisaligned, 0x03) else
  match scratchOf e.s e.loom e.k.dispatch with
  | none => .error (zsDenied, 0x32)
  | some a => if off + 64 > a.size then .error (zsDenied, 0x32) else .ok (a.base + off)

/-! ## TILE (R107) -/

/-- The half of the array on which a skein's ops run. -/
def envEast (e : Env) : Bool := onEast e.s e.loom e.skein

/-- A tile op of the context with a ticket up to `t` is pending on the half: held, batched, queued or running. -/
def tilePending (s : State) (loom : Nat) (east : Bool) (ctx t : Nat) : Bool :=
  let h := halfOf s loom east
  h.subs.any (fun x => x.ctx == ctx && x.ticket ≤ t) ||
    h.ops.any (fun o => o.ctx == ctx && o.reqs.any (fun r => r.ticket ≤ t)) ||
    h.batch.any (fun b => b.ctx == ctx && b.reqs.any (fun r => r.ticket ≤ t))

/-- Is a recorded status covered by a WAIT or TEST. -/
def errCovered (loom : Nat) (east : Bool) (t : Nat) (x : TileErr) : Bool := x.loom == loom && x.east == east && x.ticket ≤ t

/-- Take the first status other than ZS_OK that no WAIT or TEST has returned (R107). -/
def takeTileStatus (loom : Nat) (east : Bool) (ctx t : Nat) (s : State) : Nat × State :=
  match ctxAt s ctx with
  | none => (zsOk, s)
  | some x =>
    match x.tileErrs.find? (errCovered loom east t) with
    | none => (zsOk, s)
    | some r => (r.code, modCtx ctx (fun x => { x with tileErrs := removeFirst x.tileErrs (errCovered loom east t) }) s)

/-- TILE.SUB (R107, R175): the descriptor is copied and waits for the array queue. -/
def execTileSub (w : Who) (s : State) : Host.Outcome State Fault Refusal :=
  .next (issueRow w (0x32 * 8) (fun _ => true) (fun e s =>
    match scratch64 e (src e 0 1 (lowThread e)) with
    | .error (c, u) => insFault e c u 0 (lowThread e) s
    | .ok a =>
      let ticket := ((ctxAt s e.k.ctx).elim 0 (fun x => x.ticket)) + 1
      let id := nextLcvId s e.loom e.skein
      let sub : TileSub := ⟨ticket, e.k.ctx, scratchGet s e.loom a 64, ctxStep s e.k.ctx, e.skein, id⟩
      let s := modCtx e.k.ctx (fun x => { x with ticket := ticket }) (settleSkein (e.loom / 32) e.loom e.skein s)
      uniStart e (.submit ticket) true 2 ticket (modHalf e.loom (envEast e) (fun h => { h with subs := h.subs ++ [sub] }) s)) s)

/-- TILE.WAIT (R107). -/
def execTileWait (w : Who) (s : State) : Host.Outcome State Fault Refusal :=
  .next (issueRow w (0x32 * 8 + 1) (fun _ => true) (fun e s =>
    let t := src e 0 2 (lowThread e)
    if t > (ctxAt s e.k.ctx).elim 0 (fun x => x.ticket) then uniStart e .ready false 1 zsHandleInvalid (countInvalid e.k.ctx s)
    else if tilePending s e.loom (envEast e) e.k.ctx t then uniStart e (.tile t) true 1 0 s
    else let (st, s) := takeTileStatus e.loom (envEast e) e.k.ctx t s; uniStart e .ready false 1 st s) s)

/-- TILE.TEST (R107). -/
def execTileTest (w : Who) (s : State) : Host.Outcome State Fault Refusal :=
  .next (issueRow w (0x32 * 8 + 2) (fun _ => true) (fun e s =>
    let t := src e 0 2 (lowThread e)
    if t > (ctxAt s e.k.ctx).elim 0 (fun x => x.ticket) then uniStart e .ready false 1 zsHandleInvalid (countInvalid e.k.ctx s)
    else if tilePending s e.loom (envEast e) e.k.ctx t then uniStart e .ready false 1 0x100 s
    else let (st, s) := takeTileStatus e.loom (envEast e) e.k.ctx t s; uniStart e .ready false 1 st s) s)

/-! ## QUE (R108, R274, R276) -/

/-- Judge the queue handle of a QUE instruction that a set of queue types allows: a status, with a handle failure recorded on the
QUE_ page and counted (R25, R26, R274). (log 20: DEDUCED) -/
def queHandle (e : Env) (h : Word) (allowed : QType → Bool) (s : State) : Nat × State :=
  let (st, s) := presentHandle (quePage (e.loom / 32)) e.k.ctx h 2 s
  if st ≠ zsOk then (st, s) else
  if (queueTypeOf s h).any allowed then (zsOk, s) else (zsDenied, s)

/-- Pop the head entry of a queue into loom scratch (R276): ZS_OK, or the fault of its ring position. -/
def popInto (loom ctx : Nat) (h : Word) (a : Nat) (s : State) : Except (Nat × Nat × Nat) Unit × State :=
  match queueOf s h with
  | none => (.ok (), s)
  | some q =>
    match vRead (loom / 32) ctx (entryVa q q.cons) 64 s with
    | (.error e, s) => (.error e, s)
    | (.ok l, s) =>
      if l.any (fun b => b.2) then (.error (zsPoison, 0x01, entryVa q q.cons), s) else
      let s := modQueue h (fun q => { q with cons := (q.cons + 1) % 2 ^ 32, entries := q.entries + 1 }) (scratchPut loom a (bare l) s)
      (.ok (), deliverFaults 65 ctx s)

/-- QUE.PUSH (R108, R276): the handle is judged before the scratch offset (R112). (log 20: DEDUCED) -/
def execQuePush (w : Who) (s : State) : Host.Outcome State Fault Refusal :=
  .next (issueRow w (0x33 * 8) (fun _ => true) (fun e s =>
    let h : Word := BitVec.ofNat 64 (src e 1 2 (lowThread e))
    let (st, s) := queHandle e h (fun t => t != .msg) (settleSkein (e.loom / 32) e.loom e.skein s)
    if st ≠ zsOk then uniStart e .ready false 1 st s else
    match scratch64 e (src e 0 1 (lowThread e)) with
    | .error (c, u) => insFault e c u 0 (lowThread e) s
    | .ok a =>
      match queueOf s h with
      | none => uniStart e .ready false 1 zsHandleStale s
      | some q =>
        if occupancy q ≥ q.depth then uniStart e .ready false 1 zsQueueFull s else
        match vWrite (e.loom / 32) e.k.ctx (entryVa q q.prod) (clean (scratchGet s e.loom a 64)) s with
        | (some (c, u, va), s) => xlFault e c u va (lowThread e) s
        | (none, s) => uniStart e .ready false 1 zsOk (modQueue h (submitTo ((q.prod + 1) % 2 ^ 32) (ctxStep s e.k.ctx)) s)) s)

/-- QUE.POP or QUE.WAIT; `wait` says which. (log 20: DEDUCED) -/
def queTake (e : Env) (wait : Bool) (s : State) : State :=
  let h : Word := BitVec.ofNat 64 (src e 1 2 (lowThread e))
  let (st, s) := queHandle e h (fun t => t == .msg) s
  if st ≠ zsOk then uniStart e .ready false 1 st s else
  match scratch64 e (src e 0 1 (lowThread e)) with
  | .error (c, u) => insFault e c u 0 (lowThread e) s
  | .ok a =>
    if (queueOf s h).all (fun q => occupancy q == 0) then
      if wait then uniStart e (.queue h a) true 1 zsOk s else uniStart e .ready false 1 zsQueueEmpty s
    else
      match popInto e.loom e.k.ctx h a s with
      | (.error (c, u, va), s) => xlFault e c u va (lowThread e) s
      | (.ok _, s) => uniStart e .ready false 1 zsOk s

/-- QUE.POP (R108, R276). -/
def execQuePop (w : Who) (s : State) : Host.Outcome State Fault Refusal :=
  .next (issueRow w (0x33 * 8 + 1) (fun _ => true) (fun e s => queTake e false s) s)

/-- QUE.WAIT (R108, R276). -/
def execQueWait (w : Who) (s : State) : Host.Outcome State Fault Refusal :=
  .next (issueRow w (0x33 * 8 + 2) (fun _ => true) (fun e s => queTake e true s) s)

/-- QUE.SEND through an outbound link window (R124, R284, R290, R331): the window's REMOTE_WIN is the remote endpoint. -/
def sendRemote (e : Env) (h : Word) (epoch : Nat) (ack : Bool) (msg : List Byte) (s : State) : State :=
  match outWindow s (hHome h) (hSlot h) 0 0 with
  | .error _ => uniStart e .ready false 1 zsDenied s
  | .ok w =>
    let id := nextLcvId s e.loom e.skein
    let me := ctxHandle s e.k.ctx
    let tag := s.nextTag
    let p := mkPacket s w.position opMsg w.remoteCtx w.remoteWin ack epoch false (msgExt me tag ++ msg)
    let issuer : FabIssuer := if ack then .send e.loom e.skein id else .nobody
    let req : FabReq := ⟨tag, .msg, hHome h, hSlot h, me, 0, 0, 0, e.ins.pc, e.mask, issuer⟩
    let (sent, s) := fabIssue req p s
    if !sent then uniStart e .ready false 1 zsUnreachable (windowError (hHome h) (hSlot h) (fabDrop tag s))
    else uniStart e (if ack then .ack tag else .ready) false 1 zsOk s

/-- QUE.SEND (R108, R284, R290): an endpoint of this package is judged at once, with the acknowledgement's status where ACK is set.
(log 69: DEDUCED) -/
def execQueSend (w : Who) (s : State) : Host.Outcome State Fault Refusal :=
  .next (issueRow w (0x33 * 8 + 3) (fun _ => true) (fun e s =>
    let h : Word := BitVec.ofNat 64 (src e 1 2 (lowThread e))
    let c := src e 2 1 (lowThread e)
    let epoch := c % 65536
    let ack := bit c 16
    let s := settleSkein (e.loom / 32) e.loom e.skein s
    let remote := hType h = 4
    let (st, s) := presentHandle (if remote then rvlPage (e.loom / 32) else ctxPage (e.loom / 32)) e.k.ctx h (if remote then 4 else 9) s
    if st ≠ zsOk then uniStart e .ready false 1 st s else
    match scratch64 e (src e 0 1 (lowThread e)) with
    | .error (c, u) => insFault e c u 0 (lowThread e) s
    | .ok a =>
      let msg := scratchGet s e.loom a 64
      if remote then sendRemote e h epoch ack msg s else
      if (endpointOf s h).all (fun ep => ep.queue == 0) then uniStart e .ready false 1 zsDenied s else
      let (r, s) := judgeMessage h epoch (position s) e.k.ctx ack msg s
      uniStart e .ready false 1 (if ack then r else zsOk) s) s)

/-! ## CHK (R110, R376) -/

/-- CHK.CRC (R110). -/
def execChkCrc (w : Who) (s : State) : Host.Outcome State Fault Refusal :=
  .next (issueRow w (0x35 * 8) (fun _ => true) (fun e s => perThread e 1 (fun t => crcBits 32 (src e 0 1 t) (src e 1 1 t)) s) s)

/-- CHK.CMB (R110). -/
def execChkCmb (w : Who) (s : State) : Host.Outcome State Fault Refusal :=
  .next (issueRow w (0x35 * 8 + 1) (fun _ => true) (fun e s =>
    perThread e 1 (fun t => crcCombine (src e 0 1 t) (src e 1 1 t) (src e 2 1 t)) s) s)

/-- CHK.VER (R110, R376). (log 114: DESIGN CHOICE) -/
def execChkVer (w : Who) (s : State) : Host.Outcome State Fault Refusal :=
  .next (issueRow w (0x35 * 8 + 2) (fun _ => true) (fun e s =>
    let va := src e 0 2 (lowThread e)
    match translate s e.k.ctx va .read with
    | .fail c u => xlFault e c u va (lowThread e) s
    | .ok pa mt _ =>
      match (if mt < 2 then resolve s pa else .bad) with
      | .dram a =>
        if !isChecked s a then uniStart e .ready false 1 zsDenied s else
        let (ok, s) := verifyBlock (e.loom / 32) (loomPage e.loom) e.k.ctx a s
        let s := if ok then s else recErr (loomPage e.loom) e.k.ctx 0x01 zsCheckFail s
        uniStart e .ready false 1 (if ok then zsOk else zsCheckFail) s
      | _ => uniStart e .ready false 1 zsDenied s) s)

end Sys2Proof.Machine
end

