-- ==== Sys2Proof/Machine/Tile.lean ====
section
/-! DEFINITION. The array queue, token batching, passes and completions (R167 to R182, R213), repair and service (R215 to R219), and
the posting of delayed completion entries (R176). -/

namespace Sys2Proof.Machine

/-! ## The array queue (R175) -/

/-- Descriptors that hold a place in a half's queue: accepted ops that have not started, and the pass that the open batch will be. -/
def queueUsed (h : ArrayHalf) : Nat := h.ops.countP (fun o => match o.stage with | .queued => true | _ => false) + b2n h.batch.isSome

/-- Places in the queue of a whole array or a half. -/
def queueSize (s : State) (loom : Nat) : Nat := if loomSplit s loom then 8 else 16

/-- IN_SERVICE and RETIRED of an array (R218, R219). -/
def inService (s : State) (loom : Nat) : Bool := bit (reg s (twlPage loom 1 + Reg.TWL_REPAIR_STAT)) 8
def loomRetired (s : State) (loom : Nat) : Bool := bit (reg s (twlPage loom 1 + Reg.TWL_REPAIR_STAT)) 9

/-- The die and the context have room for one more tensor operation (R175, R288). -/
def topsRoom (s : State) (ctx die : Nat) : Bool :=
  match ctxAt s ctx with
  | none => false
  | some x => ctxSum s die (fun d => d.tops) < 4096 && (ctxDie x die).tops < x.topLimit

/-- TWL_CFG.TB_TIMEOUT and TB_ENABLE (R183). -/
def tbTimeout (s : State) (loom : Nat) : Nat := bits (reg s (twlPage loom 0 + Reg.TWL_CFG)) 11 0
def tbEnable (s : State) (loom : Nat) : Bool := bit (reg s (twlPage loom 0 + Reg.TWL_CFG)) 16

/-! ## Token batching (R180, R181) -/

/-- Rows of an open batch. -/
def openRows (b : TokenBatch) : Nat := b.reqs.foldl (fun n r => n + dM r.desc) 0

/-- The fields in which a request must match the batch's first (R180). -/
def batchKey (d : List Byte) : List Byte :=
  (d.drop 1).take 2 ++ [(d.getD 7 0)] ++ (d.drop 8).take 2 ++ (d.drop 0x20).take 16 ++
    toBytes 1 (b2n (dTransB d) + 2 * b2n (dTopk d) + 4 * b2n (dHalf d))

/-- May a request join the open batch (R180). -/
def mayJoin (b : TokenBatch) (ctx : Nat) (d : List Byte) : Bool :=
  b.ctx == ctx && (b.reqs.head?.any (fun r => batchKey r.desc == batchKey d)) && openRows b + dM d ≤ 128 &&
    !b.reqs.any (fun r => (slotsNamed r.desc).any (fun t => (slotsNamed d).contains t))

/-- Issue the open batch as one pass (R181). (log 58: DEDUCED) -/
def issueBatch (loom : Nat) (east : Bool) (s : State) : State :=
  match (halfOf s loom east).batch with
  | none => s
  | some b =>
    bump (twlPage loom 0 + Reg.TWL_TB_BATCHES) 1
      (modHalf loom east (fun h => { h with batch := none, ops := h.ops ++ [⟨b.ctx, true, b.reqs, .queued⟩] }) s)

/-- Batches issued and not complete: each holds a staging buffer. -/
def stagingUsed (h : ArrayHalf) : Nat := h.ops.countP (fun o => o.batch) + b2n h.batch.isSome

/-- Is the op a token-batching request on this array. -/
def isRequest (s : State) (loom : Nat) (d : List Byte) : Bool := dOp d == 1 && dBatch d && tbEnable s loom

/-! ## Failures and completions -/

/-- Record a completed op's failure on TWL_ page 0 (R177, R183, R184, R225): a rejected descriptor or format sets source bit 2, an
op failed after acceptance source bit 3. -/
def tileError (loom ctx code sub ticket : Nat) (after : Bool) (s : State) : State :=
  let p := twlPage loom 0
  let armed := !bit (reg s (p + hdrErrFirst)) 31
  let s := recErr p ctx sub code s
  let s := if armed then setReg (p + Reg.TWL_FAULT_TICKET) ticket s else s
  let s := if code = zsBadDescriptor || code = zsBadFormat then setPend p 4 s else s
  let s := if after then setPend p 8 s else s
  if code = zsHandleInvalid then countInvalid ctx s else s

/-- A request completes (R107, R176): its status is kept for WAIT and TEST, its entry is posted, its count falls. -/
def completeReq (loom : Nat) (east : Bool) (ctx : Nat) (r : TileReq) (status sub result : Nat) (after : Bool) (s : State) : State :=
  let s := if status = zsOk then s else
    modCtx ctx (fun x => { x with tileErrs := x.tileErrs ++ [⟨r.ticket, loom, east, status⟩] }) (tileError loom ctx status sub r.ticket after s)
  let s := modCtxDie ctx (loom / 32) (fun d => { d with tops := d.tops - 1 }) s
  postCompletion (dCompletion r.desc) status sub 1 0 r.ticket (if result = 0 then [] else [result]) s

/-- Cut the rows of a pass into the rows of its requests (R182). -/
def reqRows (reqs : List TileReq) (rows : List (List (Val × Bool))) : List (TileReq × List (List (Val × Bool))) :=
  match reqs with
  | [] => []
  | r :: rest => (r, rows.take (dM r.desc)) :: reqRows rest (rows.drop (dM r.desc))

/-- TILE_OP_COMPLETE (R167, R176, R177, R182): the oldest accepted op of the half completes. (log 57: DEDUCED) -/
def execTileOpComplete (loom : Nat) (east : Bool) (s : State) : Host.Outcome State Fault Refusal :=
  .next (match (halfOf s loom east).ops with
    | [] => s
    | o :: rest =>
      let pop (s : State) : State := releaseLease loom east (modHalf loom east (fun h => { h with ops := rest }) s)
      match o.stage with
      | .running rows =>
        let s := forL (reqRows o.reqs rows) (fun r s => drainReq loom east o.ctx r.1 r.2 s) s
        let s := bump (twlPage loom 0 + Reg.TWL_PASSES) 1 s
        pop (forL o.reqs (fun r s => completeReq loom east o.ctx r zsOk 0 0 false s) s)
      | .done status sub result =>
        let mma := o.reqs.any (fun r => dOp r.desc == 1)
        let s := if status ≠ zsOk && mma then forL o.reqs (fun r s => failReq loom east r s) s else s
        pop (forL o.reqs (fun r s => completeReq loom east o.ctx r status sub result true s) s)
      | .refused status sub => pop (forL o.reqs (fun r s => completeReq loom east o.ctx r status sub 0 false s) s)
      | _ => s)

/-- COMPLETION_ENTRY_POST (R176): a delayed entry whose queue has room is pushed. -/
def execCompletionEntryPost (s : State) : Host.Outcome State Fault Refusal := .next (postDelayed s)

/-! ## Acceptance (R173, R175, R180) -/

/-- Release the TILE.SUB that held its issue slot. -/
def subAccepted (loom : Nat) (x : TileSub) (s : State) : State :=
  modSkein loom x.skein (fun k =>
    { k with lcvs := updateFirst k.lcvs (fun l => l.id == x.lcv) (fun l => { l with wait := .ready }),
             groups := k.groups.map (fun g => if g.wait = .lcv x.lcv then { g with wait := .none } else g) }) s

/-- Append an op to a half. -/
def addOp (loom : Nat) (east : Bool) (o : TileOp) (s : State) : State := modHalf loom east (fun h => { h with ops := h.ops ++ [o] }) s

/-- The reader of an array for a context: every checked block once in one op (R376). -/
def tileReader (loom ctx : Nat) : Reader := fun rs s =>
  let r := opReadSeen (engAt (loom / 32) 19) (twlPage loom 0) ctx rs s.1 s.2
  (r.1, r.2.1, r.2.2)

/-- A read failure that met poison in the walk: the op completes, and the context consumes the poison (R256). -/
def tileWalkPoison (loom : Nat) (east : Bool) (ctx : Nat) (reqs : List TileReq) (code : Nat) (s : State) : State :=
  if code ≠ zsPoison then s else
  killForPoison (twlPage loom 0) ctx 0x06 (forL reqs (fun r s => completeReq loom east ctx r zsPoison 0x06 0 true s) s)

/-- Accept a token-batching request that passed the checks: its rows of A are staged, it joins the open batch or opens the next
(R180, R181). (log 58: DEDUCED; log 119: DESIGN CHOICE) -/
def acceptRequest (loom : Nat) (east : Bool) (ctx : Nat) (r : TileReq) (s : State) : State :=
  match fetchA (tileReader loom ctx) r.desc ([], s) with
  | (.error (c, u), _, s) => tileWalkPoison loom east ctx [r] c (addOp loom east ⟨ctx, false, [r], .done c u 0⟩ (issueBatch loom east s))
  | (.ok a, seen, s) =>
    let r := { r with staged := a, seen := seen }
    let s := if (halfOf s loom east).batch.any (fun b => mayJoin b ctx r.desc) then s else issueBatch loom east s
    let s := modHalf loom east (fun h => { h with batch := some (match h.batch with
      | some b => { b with reqs := b.reqs ++ [r] }
      | none => ⟨ctx, [r]⟩) }) s
    if tbTimeout s loom = 0 || (halfOf s loom east).batch.any (fun b => openRows b == 128) then issueBatch loom east s else s

/-- TILE_OP_ACCEPT (R173, R175, R180, R218): the array queue accepts the submission with index `pick` among those that wait. -/
def execTileOpAccept (loom : Nat) (east : Bool) (pick : Nat) (s : State) : Host.Outcome State Fault Refusal :=
  .next (match (halfOf s loom east).subs[pick]? with
    | none => s
    | some x =>
      let h := halfOf s loom east
      let d := keptDesc s x.ctx x.desc
      let fail := (acceptChecks s loom east x.ctx x.desc).or (completionCheck s x.ctx x.desc)
      let request := isRequest s loom d && fail.isNone
      if !(ctxMayStart s x.ctx && topsRoom s x.ctx (loom / 32) && inService s loom && pageEnabled s (twlPage loom 0) &&
          queueUsed h < queueSize s loom && (!request || (stagingUsed h < 2 && txFits s x.ctx (loom / 32) 1))) then s else
      let s := modHalf loom east (fun h => { h with subs := h.subs.eraseIdx pick }) s
      let s := modCtxDie x.ctx (loom / 32) (fun c => { c with tops := c.tops + 1 }) (subAccepted loom x s)
      let r : TileReq := ⟨x.ticket, d, x.step, [], []⟩
      match fail with
      | some (c, u) => addOp loom east ⟨x.ctx, false, [r], .refused c u⟩ (issueBatch loom east s)
      | none =>
        if request then acceptRequest loom east x.ctx r s
        else addOp loom east ⟨x.ctx, false, [r], .queued⟩ (issueBatch loom east s))

/-- TB_TIMEOUT (R181): the open batch has been open for its time and is issued. (log 3: DESIGN CHOICE) -/
def execTbTimeout (loom : Nat) (east : Bool) (s : State) : Host.Outcome State Fault Refusal :=
  .next (if (halfOf s loom east).batch.isNone then s
    else issueBatch loom east (bumpSat (twlPage loom 0 + Reg.TWL_TB_TIMEOUTS) 1 s))

/-! ## Passes (R167 to R169) -/

/-- The descriptor that governs an op's weights: its first request's. -/
def opDesc (o : TileOp) : List Byte := (o.reqs.head?).elim [] (fun r => r.desc)

/-- Is the op an MMA. -/
def isMma (o : TileOp) : Bool := dOp (opDesc o) == 1

/-- The op has started its pass, or needs none. -/
def passStarted (o : TileOp) : Bool := match o.stage with | .running _ => true | .done _ _ _ => true | .refused _ _ => true | _ => false

/-- The first MMA of a half whose pass has not started: its index and the op. Every earlier MMA's pass has started (R168). -/
def nextPass (h : ArrayHalf) : Option (Nat × TileOp) := (h.ops.zipIdx.find? (fun o => isMma o.1 && !passStarted o.1)).map (fun o => (o.2, o.1))

/-- Does the op skip its preload (R169). -/
def keepsB (h : ArrayHalf) (o : TileOp) : Bool :=
  let d := opDesc o
  dKeep d && h.weights.any (fun w => w.ctx == o.ctx && w.fmtB == dFmtB d && w.scaleB == dModeB d && w.addr == dBAddr d &&
    w.stride == dBStride d && w.scaleOff == dBScale d && w.k == dK d && w.n == dN d && w.transB == dTransB d)

/-- Set the stage of the op with an index. -/
def setStage (loom : Nat) (east : Bool) (i : Nat) (st : TileStage) (s : State) : State :=
  modHalf loom east (fun h => { h with ops := h.ops.zipIdx.map (fun o => if o.2 = i then { o.1 with stage := st } else o.1) }) s

/-- PRELOAD_BEGIN (R168, R169, R177): B reaches the column shuttles and is loaded. -/
def execPreloadBegin (loom : Nat) (east : Bool) (s : State) : Host.Outcome State Fault Refusal :=
  .next (match nextPass (halfOf s loom east) with
    | none => s
    | some (i, o) =>
      if o.stage ≠ .queued || keepsB (halfOf s loom east) o || !txFits s o.ctx (loom / 32) 1 then s else
      let d := opDesc o
      match fetchB (tileReader loom o.ctx) d (o.reqs.flatMap (fun r => r.seen), s) with
      | (.error (c, u), _, s) =>
        tileWalkPoison loom east o.ctx o.reqs c (setStage loom east i (.done c u 0) (modHalf loom east (fun h => { h with weights := none }) s))
      | (.ok b, seen, s) =>
        let w : Weights := ⟨o.ctx, dFmtB d, dModeB d, dBAddr d, dBStride d, dBScale d, dK d, dN d, dTransB d, b⟩
        setStage loom east i (.loaded b seen) (modHalf loom east (fun h => { h with weights := some w }) s))

/-- No earlier slot store or load names a slot of the op (R197). -/
def slotsFree (h : ArrayHalf) (i : Nat) (o : TileOp) : Bool :=
  (h.ops.take i).all (fun p => isMma p || (match p.stage with | .done _ _ _ => true | .refused _ _ => true | _ => false) ||
    !(slotsNamed (opDesc p)).any (fun t => o.reqs.any (fun r => (slotsNamed r.desc).contains t)))

/-- The rows of A of an op: staged for a batch, read now for a single op. -/
def opRows (loom : Nat) (o : TileOp) (s : State) : Except (Nat × Nat) (List (List Elem)) × State :=
  if o.batch then (.ok (o.reqs.flatMap (fun r => r.staged)), s) else
  let r := fetchA (tileReader loom o.ctx) (opDesc o) ((match o.stage with | .loaded _ l => l | _ => []), s)
  (r.1, r.2.2)

/-- PASS_START (R160, R168, R169, R177): row shuttle 0 delivers row 0; the pass's partials are computed. -/
def execPassStart (loom : Nat) (east : Bool) (s : State) : Host.Outcome State Fault Refusal :=
  .next (match nextPass (halfOf s loom east) with
    | none => s
    | some (i, o) =>
      let h := halfOf s loom east
      let kept := o.stage == .queued && keepsB h o
      let b : Option (List (List Elem)) := match o.stage with
        | .loaded b _ => some b
        | _ => if kept then h.weights.map (fun w => w.b) else none
      match b with
      | none => s
      | some b =>
        if !slotsFree h i o || (!o.batch && !txFits s o.ctx (loom / 32) 1) then s else
        let s := if kept then bumpSat (twlPage loom 0 + Reg.TWL_B_KEPT) 1 s else s
        match opRows loom o s with
        | (.error (c, u), s) => tileWalkPoison loom east o.ctx o.reqs c (setStage loom east i (.done c u 0) s)
        | (.ok a, s) =>
          let s := bump (twlPage loom 0 + Reg.TWL_STREAM_CYC) a.length s
          let s := if o.batch then bump (twlPage loom 0 + Reg.TWL_TB_ROWS) a.length s else s
          setStage loom east i (.running (passRows (cellP (dFmtA (opDesc o))) a b)) s)

/-- May a row of A of an accepted op be late (R213): its pass streams, or waits for row 0 with its weights loaded or kept. -/
def rowsDue (h : ArrayHalf) (o : TileOp) : Bool :=
  match o.stage with
  | .running _ => true
  | .loaded _ _ => true
  | .queued => isMma o && keepsB h o && (nextPass h).any (fun p => p.2 == o)
  | _ => false

/-- The op responsible for a freeze run (R213): for a starved shuttle the accepted op whose row is late, which `late` names, for a
blocked drain (none late) the oldest pass that runs. (log 60: DESIGN CHOICE) -/
def freezeOp (h : ArrayHalf) (late : Option Nat) : Option Nat :=
  match late with
  | none => (h.ops.zipIdx.find? (fun o => match o.1.stage with | .running _ => true | _ => false)).map (fun o => o.2)
  | some i => if (h.ops[i]?).any (rowsDue h) then some i else none

/-- FREEZE_ABANDON (R213): a freeze run of TWL_FREEZE_LIMIT cycles ends with the op responsible. (log 60: DESIGN CHOICE) -/
def execFreezeAbandon (loom : Nat) (east : Bool) (late : Option Nat) (s : State) : Host.Outcome State Fault Refusal :=
  .next (match freezeOp (halfOf s loom east) late with
    | none => s
    | some i =>
      let limit := max 1 (reg s (twlPage loom 1 + Reg.TWL_FREEZE_LIMIT))
      let s := setStage loom east i (.done zsTimeout 0x20 0) s
      let s := bump (twlPage loom 0 + (if late.isNone then Reg.TWL_FREEZE_DRAIN else Reg.TWL_FREEZE_A)) limit s
      let s := bump (twlPage loom 1 + (if east then Reg.TWL_FREEZE_EAST else Reg.TWL_FREEZE_WEST)) limit s
      setPend (twlPage loom 1) 8 (bumpSat (twlPage loom 1 + Reg.TWL_FREEZE_ABANDON) 1 s))

/-! ## Repair and service (R215 to R219) -/

/-- No op is accepted and incomplete on the array. -/
def arrayIdle (l : Loom) : Bool := l.west.ops.isEmpty && l.west.batch.isNone && l.east.ops.isEmpty && l.east.batch.isNone

/-- The physical rows that a repair map takes out, and the delay that they add: one for each row with a row in use beyond it. -/
def rowsOut (v : Nat) : List Nat := ([bits v 7 0, bits v 15 8].filter (fun r => r < 130)).eraseDups
def rowDelay (v : Nat) : Nat :=
  let out := rowsOut v
  let used := ((List.range 130).filter (fun r => !out.contains r)).take 128
  out.countP (fun r => used.any (fun u => r < u))

/-- The delay of a half's columns (R216). -/
def colDelay (c : Nat) : Nat := b2n (c < 64)

/-- Forget the loaded weights of both halves. -/
def dropWeights (l : Loom) : Loom := { l with west := { l.west with weights := none }, east := { l.east with weights := none } }

/-- Firmware records a loom's repair map (R219). (log 95: DEDUCED) -/
def recordRepair (loom v : Nat) (s : State) : State :=
  { s with sys := { s.sys with repairs := tset s.sys.repairs loom v } }

/-- TWL_REPAIR_WRITE (R216, R217, R224). (log 95: DEDUCED) -/
def execTwlRepairWrite (loom v : Nat) (s : State) : Host.Outcome State Fault Refusal :=
  let p := twlPage loom 1
  let l := loomOf s loom
  .next (if !bit (reg s (twlPage loom 0 + hdrCtrl)) 1 || !arrayIdle l || l.port.isSome then recErr p 0xFFF 0x50 zsDenied s else
    let v := v &&& 0x7F7FFFFF
    let st := reg s (p + Reg.TWL_REPAIR_STAT)
    let st' := setBits (setBits st 8 8 0) 4 0 (rowDelay v + 4 * colDelay (bits v 22 16) + 8 * colDelay (bits v 30 24) + 16)
    bumpSat (p + Reg.TWL_REPAIRS) 1 (setReg (p + Reg.TWL_REPAIR_STAT) st' (setReg (p + Reg.TWL_REPAIR) v (recordRepair loom v (modLoom loom dropWeights s)))))

/-- ALIGN_REWRITE_DONE (R217). -/
def execAlignRewriteDone (loom : Nat) (s : State) : Host.Outcome State Fault Refusal :=
  .next (setField (twlPage loom 1 + Reg.TWL_REPAIR_STAT) 4 4 0 s)

/-- IN_SERVICE_WRITE (R218). -/
def execInServiceWrite (loom : Nat) (v : Bool) (s : State) : Host.Outcome State Fault Refusal :=
  .next (setField (twlPage loom 1 + Reg.TWL_REPAIR_STAT) 8 8 (b2n v) s)

/-- RETIRED_SET (R219). -/
def execRetiredSet (loom : Nat) (s : State) : Host.Outcome State Fault Refusal :=
  .next (setField (twlPage loom 1 + Reg.TWL_REPAIR_STAT) 9 9 1 s)

end Sys2Proof.Machine
end

