-- ==== Sys2Proof/Machine/DmaOps.lean ====
section
/-! DEFINITION. DMA channels and their entries (R277, R280, R281, R288, R375, R491): taking the head entry, moving bytes between
memory and link windows, and completing; COPY, FILL and the end of an entry. -/

namespace Sys2Proof.Machine

/-! ## Channels and engines -/

/-- Key of a channel in the channel table. -/
def channelKey (die slot : Nat) : Nat := die * 4096 + slot

/-- The queues bound to a channel that hold an entry, by slot. -/
def channelQueues (s : State) (die : Nat) (ch : Channel) : List Queue :=
  (s.queues.filter (fun x => x.2.home == die && x.2.typ == .dma && x.2.channel == ch.handle && 0 < occupancy x.2)).map (fun x => x.2)

/-- The queue whose head entry is next in round-robin order (R280). (log 66: DESIGN CHOICE) -/
def nextQueue (s : State) (die : Nat) (ch : Channel) : Option Queue :=
  let l := channelQueues s die ch
  match l.find? (fun q => ch.next ≤ hSlot q.handle) with
  | some q => some q
  | none => l.head?

/-- The lowest engine of a die that accepts work and serves no entry. (log 66: DESIGN CHOICE) -/
def freeEngine (s : State) (die : Nat) : Option Nat :=
  (List.range 16).find? (fun e => pageEnabled s (dmaPage die e) && !bit (reg s (dmaPage die e + Reg.DMA_CHAN)) 31)

/-- An entry that has been taken: where it came from, what serves it, and its bytes. -/
structure DmaJob where
  die : Nat
  channel : Nat
  ctx : Nat
  queue : Word
  cplQ : Word
  index : Nat
  engine : Nat
  entry : List Byte
  /-- The context's STEP when the entry was submitted (R139). -/
  step : Nat
  deriving DecidableEq, Repr

/-- The page of the engine that serves an entry. -/
def DmaJob.page (j : DmaJob) : Nat := dmaPage j.die j.engine

/-- The entry ends: the channel and the engine are free, the counters of R491 rise, and the completion is posted (R277, R282). -/
def dmaFinish (j : DmaJob) (status sub : Nat) (results : List Nat) (s : State) : State :=
  let page := j.page
  let s := dmaIdle j.die j.engine (modCtxDie j.ctx j.die (fun d => { d with tops := d.tops - 1 }) s)
  let s := { s with channels := tupd s.channels j.channel (fun ch => { ch with running := false }) }
  let s := bump (page + Reg.DMA_ENTRIES) 1 s
  let s := if status = zsCheckFail then bumpSat (page + Reg.DMA_CHK_FAIL) 1 s else s
  let s := if status = zsOk then s else if status = zsBadDescriptor then setPend page 4 s else setPend page 8 s
  postCompletion j.cplQ status sub 2 j.queue j.index results s

/-- An error of an entry on a page, and what consuming poison does (R244, R256, R300). -/
def dmaError (page : Nat) (j : DmaJob) (status sub : Nat) (s : State) : State :=
  let s := recErr page j.ctx sub status s
  if status = zsPoison then killForPoison page j.ctx sub s else s

/-- End an entry that failed. -/
def dmaFail (page : Nat) (j : DmaJob) (status sub : Nat) (results : List Nat) (s : State) : State :=
  dmaFinish j status sub results (dmaError page j status sub s)

/-- A channel takes the head entry of a queue for an engine (R277, R280, R491): the channel is running, the entry is consumed, and the
engine shows the channel. (log 66: DESIGN CHOICE) -/
def dmaTake (die slot : Nat) (ch : Channel) (q : Queue) (e : Nat) (s : State) : State :=
  let s := { s with channels := tset s.channels (channelKey die slot) { ch with next := hSlot q.handle + 1, running := true } }
  let s := modQueue q.handle (fun q => { q with cons := (q.cons + 1) % 2 ^ 32, entries := (q.entries + 1) % 2 ^ 64, steps := stepsLeft q.steps }) s
  let s := modCtxDie ch.ctx die (fun d => { d with tops := d.tops + 1 }) s
  let a := dmaPage die e + Reg.DMA_CHAN
  setReg a (slot + ch.ctx * 2 ^ 12 + bits (reg s a) 30 30 * 2 ^ 30 + 2 ^ 31) s

/-- Start the head entry of a channel (R277, R280): the channel is idle and its context may start work within its limits, an engine
is free, and the entry is one that `mine` takes. An entry whose ring position does not translate ends with that failure.
(log 46: DEDUCED) -/
def dmaStart (die slot : Nat) (mine : List Byte → Bool) (body : DmaJob → State → State) (s : State) : State :=
  match tget? s.channels (channelKey die slot) with
  | none => s
  | some ch =>
    match nextQueue s die ch, freeEngine s die with
    | some q, some e =>
      if ch.running || !ctxMayStart s ch.ctx || !topsRoom s ch.ctx die || !txFits s ch.ctx die 1 then s else
      let j (l : List Byte) : DmaJob := ⟨die, channelKey die slot, ch.ctx, q.handle, q.cplQ, q.cons, e, l, headStep q⟩
      match vRead (engAt die (e + 1)) ch.ctx (entryVa q q.cons) 64 s with
      | (.error (c, u, _), s') => dmaFail (j []).page (j []) c u [] (dmaTake die slot ch q e s')
      | (.ok b, s') => if !mine (bare b) then s else body (j (bare b)) (dmaTake die slot ch q e s')
    | _, _ => s

/-! ## Running entries with link windows -/

/-- The running entry of a channel. -/
def dmaRunOf (s : State) (channel : Nat) : Option DmaRun := s.dmaRuns.find? (fun r => r.channel == channel)

/-- Change the running entry of a channel. -/
def modRun (channel : Nat) (f : DmaRun → DmaRun) (s : State) : State :=
  { s with dmaRuns := updateFirst s.dmaRuns (fun r => r.channel == channel) f }

/-- Count bytes that an entry wrote (R281, R491). -/
def dmaWrote (channel n : Nat) (s : State) : State :=
  match dmaRunOf s channel with
  | none => s
  | some r => bump (dmaPage (channel / 4096) r.engine + Reg.DMA_BYTES) n (modRun channel (fun r => { r with bytes := r.bytes + n }) s)

/-- A failure of an entry: the first one is its status, and it issues no more. -/
def dmaStop (channel status sub : Nat) (s : State) : State :=
  modRun channel (fun r => if r.status = zsOk then { r with status := status, sub := sub, todo := [] } else { r with todo := [] }) s

/-- Issue the requests of an entry that the limits on memory transactions allow (R288), in order. -/
def dmaIssue (fuel channel : Nat) (s : State) : State :=
  match fuel with
  | 0 => s
  | f + 1 =>
    match dmaRunOf s channel with
    | none => s
    | some r =>
      match r.todo with
      | [] => s
      | m :: rest =>
        let die := channel / 4096
        let lines := (linesOf m.off m.len).length
        if !txFits s r.ctx die lines then s else
        match outWindow s m.die m.slot m.off m.len with
        | .error (c, u) => dmaStop channel c u s
        | .ok w =>
          let tag := s.nextTag
          let p := windowPacket s w (if m.get then opGet else opPut) m.off (if m.get then m.len else 0) (m.check.getD 0) 0
            (b2n m.check.isSome) (ctxHandle s r.ctx) m.data
          let s := modRun channel (fun r => { r with todo := rest, tags := sinsert r.tags tag }) s
          let s := modCtxDie r.ctx die (fun d => { d with memtx := d.memtx + lines }) s
          let (sent, s) := fabIssue ⟨tag, if m.get then .get else .put, m.die, m.slot, ctxHandle s r.ctx, m.len, lines, m.va, 0, 0,
            .dma channel (if m.get then some m.dst else none)⟩ p s
          if sent then dmaIssue f channel s else dmaStop channel zsUnreachable 0 (fabFail tag zsUnreachable 0 s)

/-- Issue what every running entry may issue. -/
def dmaPump (s : State) : State :=
  forL s.dmaRuns (fun r s => dmaIssue (r.todo.length + 1) r.channel
    (if r.status = zsOk then s else modRun r.channel (fun r => { r with todo := [] }) s)) s

/-- Cut a range within a link window at the 4 KiB boundaries of the target offset (R330): offset from the start, length. -/
def cutAt (fuel base n : Nat) (at' : Nat) : List (Nat × Nat) :=
  match fuel with
  | 0 => []
  | f + 1 =>
    if n = 0 then [] else
    let k := min n (4096 - base % 4096)
    (at', k) :: cutAt f (base + k) (n - k) (at' + k)

/-- The requests that a link piece of a range becomes; `mk` makes one from its window, offset, start within the piece and length. -/
def linkMoves (s : State) (p : Piece) (mk : Nat → Nat → Nat → Nat → Nat → DmaMove) : Except (Nat × Nat) (List DmaMove) :=
  match resolve s p.pa with
  | .link die slot off =>
    (match outWindow s die slot off p.n with
      | .error e => .error e
      | .ok w => .ok ((cutAt (p.n / 4096 + 2) (w.base + off) p.n 0).map (fun c => mk die slot (off + c.1) c.1 c.2)))
  | _ => .error (zsDenied, 0)

/-- The check word that a put of a whole block carries, by its virtual address. -/
def carriedFor (carried : List (Nat × Nat)) (va n : Nat) : Option Nat :=
  if n = 4096 then (carried.find? (fun x => x.1 == va)).map (fun x => x.2) else none

/-- Write bytes of an entry at its destination: at once in memory, as puts in link windows (R281). -/
def dmaWrite (channel ctx va : Nat) (l : List (Byte × Bool)) (carried : List (Nat × Nat)) (s : State) : State :=
  let eng := engAt (channel / 4096) ((dmaRunOf s channel).elim 0 (fun r => r.engine + 1))
  match pieces s ctx .write va l.length with
  | .error (c, u, _) => dmaStop channel c u s
  | .ok ps =>
    if !ps.any (fun p => p.mt == 3) then
      match gWriteC eng ctx va l carried s with
      | (some (c, u, _), s) => dmaStop channel c u s
      | (none, s) => dmaWrote channel l.length s
    else
      (ps.foldl (fun (acc : List (Byte × Bool) × State) p =>
        let data := acc.1.take p.n
        let s := acc.2
        let s := if (dmaRunOf s channel).any (fun r => r.status != zsOk) then s else
          if p.mt = 3 then
            (match linkMoves s p (fun die slot off i n => ⟨die, slot, off, (p.va + i) % 2 ^ 64, false, n, 0, (data.drop i).take n, carriedFor carried (p.va + i) n⟩) with
              | .error (c, u) => dmaStop channel c u s
              | .ok ms => modRun channel (fun r => { r with todo := r.todo ++ ms }) s)
          else
            (match gWriteC eng ctx p.va data carried s with
              | (some (c, u, _), s) => dmaStop channel c u s
              | (none, s) => dmaWrote channel p.n s)
        (acc.1.drop p.n, s)) (l, s)).2

/-- The whole checked blocks of a source piece, with their check words, at the destination addresses they are copied to (R375). -/
def carriedWords (s : State) (p : Piece) (dst : Nat) : List (Nat × Nat) :=
  (cutAt (p.n / 4096 + 2) p.pa p.n 0).filterMap (fun c =>
    if c.2 = 4096 && (dst + c.1) % 4096 = 0 then
      match resolve s (p.pa + c.1) with
      | .dram a => if isChecked s a then some (dst + c.1, memNat s (chkWordAddr s a) 4) else none
      | _ => none
    else none)

/-- Read one row outside link windows (R281, R375, R376): its bytes and the check words they bring, or the failure. -/
def dmaReadRow (die eng ctx src dst n : Nat) (seen : List Nat) (s : State) :
    Except (Nat × Nat) (List (Byte × Bool) × List (Nat × Nat)) × List Nat × State :=
  match pieces s ctx .read src n with
  | .error (c, u, _) => (.error (c, u), seen, s)
  | .ok ps =>
    let blocks := ((ps.flatMap (pieceBlocks s)).eraseDups).filter (fun b => !seen.contains b)
    match verifyAll die (dmaPage die eng) ctx blocks s with
    | (false, s) => (.error (zsCheckFail, 0x01), seen, s)
    | (true, s) =>
      match gRead (engAt die (eng + 1)) ctx src n s with
      | (.error (c, u, _), s) => (.error (c, u), seen, s)
      | (.ok l, s) => (.ok (l, ps.flatMap (fun p => carriedWords s p (dst + (p.va - src)))), seen ++ blocks, s)

/-- Copy one row (R281): the source is translated, verified and read, then written; gets are issued for what lies in link windows.
`seen` are the blocks that the entry has verified (R376). (log 63: DESIGN CHOICE) -/
def dmaCopyRow (die eng channel ctx src dst n : Nat) (seen : List Nat) (s : State) : List Nat × State :=
  match pieces s ctx .read src n with
  | .error (c, u, _) => (seen, dmaStop channel c u s)
  | .ok ps =>
    if !ps.any (fun p => p.mt == 3) then
      match dmaReadRow die eng ctx src dst n seen s with
      | (.error (c, u), seen, s) => (seen, dmaStop channel c u s)
      | (.ok l, seen, s) => (seen, dmaWrite channel ctx dst l.1 l.2 s)
    else
      ps.foldl (fun (acc : List Nat × State) p =>
        let s := acc.2
        let dest := dst + (p.va - src)
        if (dmaRunOf s channel).any (fun r => r.status != zsOk) then acc else
        if p.mt = 3 then
          match linkMoves s p (fun die slot off i n => ⟨die, slot, off, p.va + i, true, n, dest + i, [], none⟩) with
          | .error (c, u) => (acc.1, dmaStop channel c u s)
          | .ok ms => (acc.1, modRun channel (fun r => { r with todo := r.todo ++ ms }) s)
        else
          let blocks := ((pieceBlocks s p).eraseDups).filter (fun b => !acc.1.contains b)
          match verifyAll die (dmaPage die eng) ctx blocks s with
          | (false, s) => (acc.1, dmaStop channel zsCheckFail 0x01 s)
          | (true, s) =>
            match gRead (engAt die (eng + 1)) ctx p.va p.n s with
            | (.error (c, u, _), s) => (acc.1, dmaStop channel c u s)
            | (.ok l, s) => (acc.1 ++ blocks, dmaWrite channel ctx dest l (carriedWords s p dest) s)) (seen, s)

/-- Begin a COPY or FILL: the entry runs until its writes are acknowledged. -/
def dmaBegin (j : DmaJob) (s : State) : State :=
  { s with dmaRuns := s.dmaRuns ++ [⟨j.channel, j.queue, j.index, j.ctx, j.engine, [], [], j.cplQ, zsOk, 0, 0⟩] }

/-- An entry goes on only while it has not failed and its context is not torn down. -/
def dmaGoing (s : State) (channel : Nat) : Bool := (dmaRunOf s channel).any (fun r => r.status == zsOk)

/-! ## COPY and FILL (R281) -/

def cRowBytes (e : List Byte) : Nat := bytesAt e 0x18 4
def cRows (e : List Byte) : Nat := bytesAt e 0x1C 4

/-- The range that rows cover: its address and length. -/
def rowSpan (base stride rows n : Nat) : Nat × Nat := (base, (rows - 1) * stride + n)

/-- Two ranges below 2^64 that do not meet. -/
def spansApart (a b : Nat × Nat) : Bool := a.1 + a.2 ≤ 2 ^ 64 && b.1 + b.2 ≤ 2 ^ 64 && (a.1 + a.2 ≤ b.1 || b.1 + b.2 ≤ a.1)

/-- Perform writes of an entry, joined where they follow each other, so that a block they fill is written whole (R374). -/
def dmaFlush (channel ctx : Nat) (l : List (Nat × List (Byte × Bool))) (carried : List (Nat × Nat)) (s : State) : State :=
  forL (coalesce l) (fun w s => if dmaGoing s channel then dmaWrite channel ctx w.1 w.2 carried s else s) s

/-- Does a row touch a link window. -/
def rowLinked (s : State) (ctx src n : Nat) : Bool :=
  match pieces s ctx .read src n with
  | .ok ps => ps.any (fun p => p.mt == 3)
  | .error _ => false

/-- Copy rows in order (R281). With `joined`, what rows outside link windows give is written together (R374, R375). -/
def copyRows (die eng channel ctx n : Nat) (joined : Bool) (rows : List (Nat × Nat)) (pend : List (Nat × List (Byte × Bool)))
    (carried : List (Nat × Nat)) (seen : List Nat) (s : State) : State :=
  match rows with
  | [] => dmaFlush channel ctx pend carried s
  | (src, dst) :: rest =>
    if !dmaGoing s channel then s else
    if !joined || rowLinked s ctx src n then
      let r := dmaCopyRow die eng channel ctx src dst n seen (dmaFlush channel ctx pend carried s)
      copyRows die eng channel ctx n joined rest [] [] r.1 r.2
    else
      match dmaReadRow die eng ctx src dst n seen s with
      | (.error (c, u), _, s) => dmaStop channel c u (dmaFlush channel ctx pend carried s)
      | (.ok l, seen, s) => copyRows die eng channel ctx n joined rest (pend ++ [(dst, l.1)]) (carried ++ l.2) seen s

/-- Is a COPY or FILL entry malformed (R281). -/
def copyMalformed (e : List Byte) : Bool :=
  bytesAt e 1 7 != 0 || bytesAt e 0x28 24 != 0 || cRowBytes e == 0 || cRows e == 0 || (bytesAt e 0 1 == 2 && bytesAt e 0x20 4 != 0)

/-- The opcodes that an entry of a DMA queue may have. -/
def dmaOpcodes : List Nat := [0x01, 0x02, 0x20, 0x21, 0x22, 0x30, 0x31]

/-- COPY (R281), from the head of a channel of a die: rows in ascending order, joined where source and destination lie apart. An opcode
that no rule gives ends here. -/
def execCopy (die slot : Nat) (s : State) : Host.Outcome State Fault Refusal :=
  .next (dmaStart die slot (fun e => bytesAt e 0 1 == 1 || !dmaOpcodes.contains (bytesAt e 0 1)) (fun j s =>
    let e := j.entry
    if bytesAt e 0 1 ≠ 1 || copyMalformed e then dmaFail j.page j zsBadDescriptor 0x0A [] s else
    let src := bytesAt e 8 8
    let dst := bytesAt e 0x10 8
    let n := cRowBytes e
    let joined := spansApart (rowSpan src (bytesAt e 0x20 4) (cRows e) n) (rowSpan dst (bytesAt e 0x24 4) (cRows e) n)
    let go (n : Nat) (rows : List (Nat × Nat)) (s : State) : State := dmaPump (copyRows die j.engine j.channel j.ctx n joined rows [] [] [] s)
    if joined && bytesAt e 0x20 4 == n && bytesAt e 0x24 4 == n then go (n * cRows e) [(src, dst)] (dmaBegin j s)
    else go n ((List.range (cRows e)).map (fun i => ((src + i * bytesAt e 0x20 4) % 2 ^ 64, (dst + i * bytesAt e 0x24 4) % 2 ^ 64))) (dmaBegin j s)) s)

/-- FILL (R281): the pattern is repeated from byte 0 of each row. -/
def execFill (die slot : Nat) (s : State) : Host.Outcome State Fault Refusal :=
  .next (dmaStart die slot (fun e => bytesAt e 0 1 == 2) (fun j s =>
    let e := j.entry
    if copyMalformed e then dmaFail j.page j zsBadDescriptor 0x0A [] s else
    let row := clean ((List.range (cRowBytes e)).map (fun i => BitVec.ofNat 8 (bytesAt e (8 + i % 8) 1)))
    let ws := (List.range (cRows e)).map (fun i => ((bytesAt e 0x10 8 + i * bytesAt e 0x24 4) % 2 ^ 64, row))
    dmaPump (dmaFlush j.channel j.ctx ws [] (dmaBegin j s))) s)

/-- DMA_ENTRY_DONE (R281): every write of a channel's COPY or FILL is performed or has failed, and the completion is posted. -/
def execDmaEntryDone (die slot : Nat) (s : State) : Host.Outcome State Fault Refusal :=
  .next (match dmaRunOf s (channelKey die slot) with
    | none => s
    | some r =>
      if !r.tags.isEmpty || !r.todo.isEmpty then s else
      let j : DmaJob := ⟨die, r.channel, r.ctx, r.queue, r.cplQ, r.index, r.engine, [], 0⟩
      let s := { s with dmaRuns := removeFirst s.dmaRuns (fun x => x.channel == r.channel) }
      if r.status = zsOk then dmaFinish j zsOk 0 [r.bytes % 2 ^ 32, r.bytes / 2 ^ 32] s
      else
        dmaFinish j r.status r.sub [r.bytes % 2 ^ 32, r.bytes / 2 ^ 32] (dmaError j.page j r.status r.sub s))

end Sys2Proof.Machine
end

