-- ==== Sys2Proof/Machine/Stash.lean ====
section
/-! DEFINITION. Stash segments (R200 to R204): blocks, records, frames, and reading them back. -/

namespace Sys2Proof.Machine

/-- One block of a segment: its scale byte and its code bytes, with their poison. -/
structure StashBlk where
  scale : Byte × Bool
  codes : List (Byte × Bool)
  deriving DecidableEq, Repr

/-- Code bytes of a block of `n` elements. -/
def stashCodeBytes (fmt n : Nat) : Nat := n * fmtWidth fmt / 8

/-- Is a block a zero block (R201). -/
def StashBlk.isZero (fmt n : Nat) (b : StashBlk) : Bool :=
  b.scale.1.toNat != 0xFF && (List.range n).all (fun j => (decodeElem fmt (rowCode (bare b.codes) (fmtWidth fmt) j)).isZero)

/-- A record: its bytes and the blocks it stands for. -/
structure StashRec where
  data : List (Byte × Bool)
  blocks : Nat
  deriving DecidableEq, Repr

/-- Is a block poisoned: an element's bytes or its scale. -/
def StashBlk.bad (b : StashBlk) : Bool := (b.scale :: b.codes).any (fun x => x.2)

/-- The records of a run of zero blocks (R202), each with the poison of the blocks that its byte stands for (R255). -/
def zeroRecords (fuel : Nat) (run : List Bool) : List StashRec :=
  match fuel with
  | 0 => []
  | f + 1 => if run.isEmpty then [] else
    let l := run.take 128
    ⟨[(BitVec.ofNat 8 (0x80 + (l.length - 1)), l.any id)], l.length⟩ :: zeroRecords f (run.drop 128)

/-- The records of blocks in order (R201, R202); `run` gives the poison of the zero blocks that precede them. -/
def stashRecords (fmt n : Nat) (zrc : Bool) (run : List Bool) (l : List StashBlk) : List StashRec :=
  match l with
  | [] => zeroRecords (run.length + 1) run
  | b :: r =>
    if zrc && b.isZero fmt n then stashRecords fmt n zrc (run ++ [b.bad]) r
    else zeroRecords (run.length + 1) run ++ ⟨(if zrc then [(0, false)] else []) ++ b.scale :: b.codes, 1⟩ :: stashRecords fmt n zrc [] r

/-- A frame being filled: payload, blocks, and its first block. -/
structure StashFrame where
  payload : List (Byte × Bool)
  blocks : Nat
  first : Nat
  deriving DecidableEq, Repr

/-- Fill frames with records; a record that does not fit starts a new frame (R202). -/
def stashFill (cur : StashFrame) (l : List StashRec) : List StashFrame :=
  match l with
  | [] => if cur.blocks = 0 then [] else [cur]
  | r :: rest =>
    if cur.payload.length + r.data.length ≤ 4080 then stashFill { cur with payload := cur.payload ++ r.data, blocks := cur.blocks + r.blocks } rest
    else cur :: stashFill ⟨r.data, r.blocks, cur.first + cur.blocks⟩ rest

/-- The 4,096 bytes of a frame (R200). -/
def frameBytes (fmt bs : Nat) (zrc : Bool) (amax : Nat) (f : StashFrame) : List (Byte × Bool) :=
  clean (toBytes 2 f.payload.length ++ toBytes 2 f.blocks ++ toBytes 1 fmt ++ toBytes 1 (b2n zrc + 2 * bs) ++ zeros 2 ++
    toBytes 4 f.first ++ toBytes 4 amax) ++ f.payload ++ clean (zeros (4080 - f.payload.length))

/-- The frames of a segment: `bs` is the block size code, 1 for 16 and 2 for 32 elements. -/
def stashSegment (fmt bs : Nat) (zrc : Bool) (amax : Nat) (l : List StashBlk) : List (List (Byte × Bool)) :=
  (stashFill ⟨[], 0, 0⟩ (stashRecords fmt (blockSize bs) zrc [] l)).map (frameBytes fmt bs zrc amax)

/-- The blocks of a stored row and its scale bytes. -/
def rowBlocks (fmt bs : Nat) (data scales : List (Byte × Bool)) : List StashBlk :=
  let n := stashCodeBytes fmt (blockSize bs)
  scales.zipIdx.map (fun x => ⟨x.1, (data.drop (x.2 * n)).take n⟩)

/-- Read the records of a payload: none where one runs past it or has no such tag (R201, R204). -/
def readRecords (fuel fmt n : Nat) (zrc : Bool) (l : List (Byte × Bool)) : Option (List StashBlk) :=
  match fuel with
  | 0 => some []
  | f + 1 =>
    let c := stashCodeBytes fmt n
    let literal (l : List (Byte × Bool)) : Option (List StashBlk) :=
      match l with
      | [] => none
      | sc :: r => if r.length < c then none else (readRecords f fmt n zrc (r.drop c)).map (fun t => ⟨sc, r.take c⟩ :: t)
    match l with
    | [] => some []
    | t :: r =>
      if !zrc then literal l
      else if t.1 = 0 then literal r
      else if t.1.toNat ≥ 0x80 then
        (readRecords f fmt n zrc r).map (fun x => List.replicate (t.1.toNat - 0x7F) ⟨(0, false), List.replicate c (0, false)⟩ ++ x)
      else none

/-- The blocks of one frame that continues at block `first`; none where it is malformed (R204). -/
def readFrame (fmt bs first : Nat) (hdr payload : List (Byte × Bool)) : Option (List StashBlk) :=
  let h := bare hdr
  if bytesAt h 0 2 > 4080 || bytesAt h 4 1 != fmt || bytesAt h 5 1 / 2 != bs || bytesAt h 8 4 != first then none else
  match readRecords (payload.length + 1) fmt (blockSize bs) (bit (bytesAt h 5 1) 0) payload with
  | none => none
  | some l => if l.length = bytesAt h 2 2 then some l else none

end Sys2Proof.Machine
end

