-- ==== Sys2Proof/Machine/Convert.lean ====
section
/-! DEFINITION. The conversion engine (R148 to R156, R203, R204): CONVERT, MEASURE, HIST_READ, STASH_PACK and STASH_UNPACK. -/

namespace Sys2Proof.Machine

/-! ## Channels -/

/-- Fields of a channel's attribute word (Table R148). -/
def atSrcFmt (a : Nat) : Nat := bits a 3 0
def atDstFmt (a : Nat) : Nat := bits a 7 4
def atSrcScale (a : Nat) : Nat := bits a 10 8
def atDstScale (a : Nat) : Nat := bits a 13 11
def atEscMax (a : Nat) : Nat := bits a 15 14
def atSr (a : Nat) : Bool := bit a 16
def atMargin (a : Nat) : Nat := bits a 19 17
def atSat (a : Nat) : Bool := bit a 20

/-- The format and scale combinations of Table R149. -/
def attrAllowed (a : Nat) : Bool :=
  let ok (f m : Nat) (dst : Bool) : Bool :=
    if f ≤ 2 then m == 0 || (dst && m == 4)
    else if f ≤ 4 then m ≤ 2 || (dst && m == 4)
    else if f == 7 then m == 1 || m == 2 || m == 3
    else f ≤ 9 && (m == 1 || m == 2)
  ok (atSrcFmt a) (atSrcScale a) false && ok (atDstFmt a) (atDstScale a) true && (atEscMax a == 0 || (atDstScale a == 3 && atEscMax a ≤ 2)) &&
    bits a 31 21 == 0

/-- Key of a conversion channel. -/
def convKey (h : Word) : Nat := hHome h * 256 + hSlot h

/-- The channel that a judged handle names. -/
def convChan (s : State) (h : Word) : ConvChan := (tget? s.conv (convKey h)).getD ⟨h, 0, 0, [], 0, 0, 0, 0⟩

/-- Change a conversion channel. -/
def modConv (h : Word) (f : ConvChan → ConvChan) (s : State) : State := { s with conv := tupd s.conv (convKey h) f }

/-- The valid history entries, oldest first (R153). -/
def histList (c : ConvChan) : List Nat :=
  if c.count < 16 then (List.range c.count).map (fun i => c.hist.getD i 0)
  else (List.range 16).map (fun i => c.hist.getD ((c.next + i) % 16) 0)

/-- H: the greatest entry of the history (R152). -/
def histMax (c : ConvChan) : Val := (histList c).foldl (fun v x => valMax v (fp32 x)) .zero

/-- The TENSOR scale e that the history gives (R152). -/
def tensorE (c : ConvChan) : Int :=
  match leastExp (atDstFmt c.attr) ((histMax c).scale (atMargin c.attr)) with
  | none => 0
  | some e => clampInt (-127) 127 e

/-- An amax as FP32 bits, rounded toward +∞; none where it is non-finite (R151). -/
def amaxBits (l : List Val) : Option Nat :=
  if l.any (fun v => v.isNan || v.isInf) then none else
  let m := convert 0 false .rup (maxFinite l)
  if (fp32 m.code).isNan || (fp32 m.code).isInf then none else some m.code

/-- Count an amax jump on a die for the channel's context (R379). -/
def amaxJump (die c : Nat) (s : State) : State :=
  modChk die (fun k => { k with amaxJumps := k.amaxJumps + 1, jumpCtxs := sinsert k.jumpCtxs c }) (bumpSat (chkPage die + Reg.CHK_AMAX_JUMPS) 1 s)

/-- PUSH: a finite amax enters the history; a non-finite one is counted (R151, R153, R379). -/
def pushAmax (die c : Nat) (h : Word) (amax : Option Nat) (s : State) : State :=
  let ch := convChan s h
  match amax with
  | none => amaxJump die c (modConv h (fun ch => { ch with nonfin := sat32 (ch.nonfin + 1) }) s)
  | some a =>
    let cfg := reg s (chkPage die + Reg.CHK_AMAX_CFG)
    let s := if bits cfg 12 8 ≤ ch.count && valLt ((histMax ch).scale (bits cfg 3 0)) (fp32 a) then amaxJump die c s else s
    modConv h (fun ch => { ch with hist := lset ch.hist ch.next 0 a, next := (ch.next + 1) % 16, count := min 16 (ch.count + 1) }) s

/-! ## Entries -/

/-- FLAGS and CHANNEL of an entry. -/
def vFlags (e : List Byte) : Nat := bytesAt e 1 1
def vChannel (e : List Byte) : Word := BitVec.ofNat 64 (bytesAt e 8 8)

/-- The end of a conversion operation: counted, its failure recorded on CNV_ page 0, its completion posted (R151, R155, R156). -/
def convDone (j : DmaJob) (status sub : Nat) (results : List Nat) (s : State) : State :=
  let page := cnvPage j.die
  let s := bump (page + Reg.CNV_OPS) 1 s
  let s := if status = zsBadFormat then setPend page 4 s else s
  if status = zsOk then dmaFinish j status sub results s else dmaFail page j status sub results s

/-- A row that has been encoded is written, and its counts are taken. -/
def convCount (die : Nat) (r : EncRow) (s : State) : State :=
  let page := cnvPage die
  let s := bump (page + Reg.CNV_NONFIN_BLK) r.nonfin s
  let s := if r.nonfin = 0 then s else setPend page 8 s
  bump (page + Reg.CNV_ESC) r.escapes (bump (page + Reg.CNV_SAT) r.clamped s)

/-- What the rows of an operation have given so far. -/
structure ConvAcc where
  fail : Option (Nat × Nat)
  seen : List Nat
  vals : List Val
  /-- The writes of rows that are written together: data, and scales. -/
  data : List (Nat × List (Byte × Bool))
  scales : List (Nat × List (Byte × Bool))
  nonfin : Nat
  escapes : Nat
  clamped : Nat
  deriving DecidableEq, Repr

/-- Start an operation of the conversion engine: CHANNEL is judged, then the entry's own checks (R151 step 1).
(log 46: DEDUCED; log 64: DEDUCED) -/
def convStart (die slot : Nat) (mine : List Byte → Bool) (bad : List Byte → ConvChan → Option Nat) (body : DmaJob → ConvChan → State → State)
    (s : State) : State :=
  if !pageEnabled s (cnvPage die) then s else
  dmaStart die slot mine (fun j s =>
    match presentHandle (cnvPage die) j.ctx (vChannel j.entry) 6 s with
    | (st, s) =>
      if st ≠ zsOk then dmaFinish j st 0 [] (bump (cnvPage die + Reg.CNV_OPS) 1 s) else
      let ch := convChan s (vChannel j.entry)
      match bad j.entry ch with
      | some sub => convDone j zsBadFormat sub [] s
      | none => body j ch s) s

/-- A malformed CONVERT or MEASURE entry (R150, R151): the subcode. -/
def convertBad (e : List Byte) (ch : ConvChan) : Option Nat :=
  let f := vFlags e
  let ds := atDstScale ch.attr
  let ss := atSrcScale ch.attr
  let cols := bytesAt e 0x2C 4
  if f / 16 != 0 || bytesAt e 2 2 != 0 || bytesAt e 0x28 4 == 0 ||
      (if ds == 1 || ds == 2 then false else if ds == 4 && bit f 2 then bytesAt e 0x24 4 != 0 else bytesAt e 0x20 8 != 0) ||
      (!(ss == 1 || ss == 2) && bytesAt e 0x38 8 != 0) then some 0x05
  else if cols % (if ss = 0 then 1 else blockSize ss) != 0 || cols % (if ds = 0 || ds = 4 then 1 else blockSize ds) != 0 then some 0x04
  else none

/-- Bytes of a destination row, and of its scales. -/
def dstRow (ch : ConvChan) (cols : Nat) : Nat × Nat :=
  let ds := atDstScale ch.attr
  (rowBytes (atDstFmt ch.attr) (if ds == 4 then 0 else ds) cols, if ds == 1 || ds == 2 then cols / blockSize ds else 0)

/-- Are the rows of a CONVERT written together: its destination lies apart from its source (R374). -/
def convJoined (e : List Byte) (ch : ConvChan) : Bool :=
  let rows := bytesAt e 0x28 4
  let cols := bytesAt e 0x2C 4
  let ss := atSrcScale ch.attr
  let d := dstRow ch cols
  let dsts := [rowSpan (bytesAt e 0x18 8) (bytesAt e 0x34 4) rows d.1, (bytesAt e 0x20 8, rows * d.2)].filter (fun r => r.2 != 0)
  let srcs := [rowSpan (bytesAt e 0x10 8) (bytesAt e 0x30 4) rows (rowBytes (atSrcFmt ch.attr) ss cols),
    (bytesAt e 0x38 8, if ss == 1 || ss == 2 then rows * (cols / blockSize ss) else 0)].filter (fun r => r.2 != 0)
  dsts.all (fun a => srcs.all (fun b => spansApart a b)) && (dsts.length < 2 || spansApart (dsts.headD (0, 0)) (dsts.getD 1 (0, 0)))

/-- One row of a conversion (R151 steps 3 and 4). -/
def convertRow (j : DmaJob) (ch : ConvChan) (ex : Int) (joined : Bool) (i : Nat) (acc : ConvAcc × State) : ConvAcc × State :=
  let (a, s) := acc
  if a.fail.isSome then acc else
  let e := j.entry
  let at' := ch.attr
  let cols := bytesAt e 0x2C 4
  let ss := atSrcScale at'
  let o : Opnd := ⟨1, cols, atSrcFmt at', ss, 0, 0, 0⟩
  let src := (bytesAt e 0x10 8 + i * bytesAt e 0x30 4) % 2 ^ 64
  let rs := (src, rowBytes o.fmt ss cols) :: (if o.hasPlane then [((bytesAt e 0x38 8 + i * (cols / blockSize ss)) % 2 ^ 64, cols / blockSize ss)] else [])
  match opReadSeen (engAt j.die 17) (cnvPage j.die) j.ctx rs a.seen s with
  | (.error (c, u, _), seen, s) => ({ a with fail := some (c, u), seen := seen }, s)
  | (.ok bs, seen, s) =>
    let a := { a with seen := seen }
    if bs.any (fun b => b.any (fun x => x.2)) then ({ a with fail := some (zsPoison, 0x03) }, s) else
    match o.decode true bs with
    | .error x => ({ a with fail := some x }, s)
    | .ok rows =>
      let row := rows.headD []
      let a := { a with vals := maxFinite (a.vals ++ row.map (fun x => x.val)) ::
        ((a.vals ++ row.map (fun x => x.val)).filter (fun v => v.isNan || v.isInf)).take 1 }
      if bit (vFlags e) 1 then (a, s) else
      let x := ctxAt s j.ctx
      let rnd (n : Nat) : Rnd := if atSr at' then
        .sr (srBits (x.elim 0 (fun x => x.srKey)) j.step 2 (bytesAt e 4 4) i n) else .rne
      let enc := encodeRow (atDstFmt at') (atDstScale at') (atEscMax at') (atSat at') ex
        (row.zipIdx.map (fun p => ⟨p.1.val, false, rnd p.2⟩))
      let dst := (bytesAt e 0x18 8 + i * bytesAt e 0x34 4) % 2 ^ 64
      let scales := if enc.scales.isEmpty then [] else [((bytesAt e 0x20 8 + i * enc.scales.length) % 2 ^ 64, enc.scales)]
      let a := if joined then { a with data := a.data ++ [(dst, enc.data)], scales := a.scales ++ scales } else a
      match (if joined then ((none, 0), s) else opWrite (engAt j.die 17) j.ctx ((dst, enc.data) :: scales) s) with
      | ((some (c, u, _), _), s) => ({ a with fail := some (c, u) }, s)
      | ((none, _), s) =>
        ({ a with nonfin := a.nonfin + enc.nonfin, escapes := a.escapes + enc.escapes, clamped := a.clamped + enc.clamped }, convCount j.die enc s)

/-- CONVERT and MEASURE from step 2 (R151, R152, R155). (log 63: DESIGN CHOICE; log 64: DEDUCED) -/
def convertBody (j : DmaJob) (ch : ConvChan) (s : State) : State :=
  let e := j.entry
  let tensor := atDstScale ch.attr == 4
  let ex : Int := if !tensor then 0 else if bit (vFlags e) 2 then sext 32 (bytesAt e 0x20 4) else tensorE ch
  let s := if tensor then modConv (vChannel e) (fun c => { c with lastE := ex }) s else s
  let r := (List.range (bytesAt e 0x28 4)).foldl (fun acc i => convertRow j ch ex (convJoined e ch) i acc) (⟨none, [], [], [], [], 0, 0, 0⟩, s)
  let a := r.1
  let w := opWrite (engAt j.die 17) j.ctx (coalesce a.data ++ coalesce a.scales) r.2
  let s := w.2
  match a.fail <|> w.1.1.map (fun x => (x.1, x.2.1)) with
  | some (c, u) => convDone j c u [] s
  | none =>
    let amax := amaxBits a.vals
    let s := if bit (vFlags e) 0 then pushAmax j.die j.ctx (vChannel e) amax s else s
    convDone j zsOk 0 [amax.getD 0x7FC00000, wrap 32 ex, a.nonfin, a.escapes, a.clamped] s

/-- CONVERT (R150, R151). -/
def execConvert (die slot : Nat) (s : State) : Host.Outcome State Fault Refusal :=
  .next (convStart die slot (fun e => bytesAt e 0 1 == 0x20 && vFlags e &&& 0x0A == 0) convertBad convertBody s)

/-- MEASURE (R150): the amax alone. (log 64: DEDUCED) -/
def execMeasure (die slot : Nat) (s : State) : Host.Outcome State Fault Refusal :=
  .next (convStart die slot (fun e => bytesAt e 0 1 == 0x20 && vFlags e &&& 0x0A == 0x02) convertBad convertBody s)

/-- HIST_READ (R150): it stands alone in FLAGS and writes the sixteen entries, oldest first. -/
def execHistRead (die slot : Nat) (s : State) : Host.Outcome State Fault Refusal :=
  .next (convStart die slot (fun e => bytesAt e 0 1 == 0x20 && bit (vFlags e) 3)
    (fun e _ => if vFlags e != 8 || bytesAt e 2 2 != 0 then some 0x05 else none)
    (fun j ch s =>
      let l := histList ch
      let bytes := (l ++ List.replicate (16 - l.length) 0).flatMap (toBytes 4)
      match vWrite (engAt j.die 17) j.ctx (bytesAt j.entry 0x18 8) (clean bytes) s with
      | (some (c, u, _), s) => convDone j c u [] s
      | (none, s) => convDone j zsOk 0 [] s) s)

/-! ## Stash segments (R203, R204) -/

def tFmt (e : List Byte) : Nat := bytesAt e 2 1 % 16
def tBs (e : List Byte) : Nat := bytesAt e 2 1 / 16 % 4
def tRows (e : List Byte) : Nat := bytesAt e 0x28 4
def tCols (e : List Byte) : Nat := bytesAt e 0x2C 4
/-- Bytes of a stored row of the plain tensor, and blocks of a row. -/
def tRowBytes (e : List Byte) : Nat := rowBytes (tFmt e) (tBs e) (tCols e)
def tRowBlocks (e : List Byte) : Nat := tCols e / blockSize (tBs e)

/-- A malformed STASH_PACK or STASH_UNPACK entry: the subcode (R151, R202, R203). -/
def stashBad (flags seg : Nat) (e : List Byte) (_ : ConvChan) : Option Nat :=
  if vFlags e &&& (0xFF - flags) != 0 || bytesAt e 2 1 / 64 != 0 || bytesAt e 3 1 != 0 || bytesAt e 0x34 12 != 0 || tRows e == 0 ||
      !(3 ≤ tFmt e && tFmt e ≤ 9) || !(tBs e == 1 || tBs e == 2) || bytesAt e seg 8 % 4096 != 0 then some 0x05
  else if tCols e % blockSize (tBs e) != 0 then some 0x04
  else if flags != 0 && bytesAt e 4 4 < stashFrames (tRows e * tRowBlocks e) (tFmt e) (blockSize (tBs e)) (bit (vFlags e) 1) then some 0x05
  else none

/-- The values of a block. -/
def blockVals (fmt n : Nat) (b : StashBlk) : List Val :=
  (List.range n).map (fun i => scaled b.scale.1.toNat (decodeElem fmt (rowCode (bare b.codes) (fmtWidth fmt) i)))

/-- STASH_PACK (R200 to R203). (log 65: DEDUCED) -/
def execStashPack (die slot : Nat) (s : State) : Host.Outcome State Fault Refusal :=
  .next (convStart die slot (fun e => bytesAt e 0 1 == 0x21) (stashBad 0x03 0x18) (fun j _ s =>
    let e := j.entry
    let rs := (List.range (tRows e)).flatMap (fun i =>
      [((bytesAt e 0x10 8 + i * bytesAt e 0x30 4) % 2 ^ 64, tRowBytes e), ((bytesAt e 0x20 8 + i * tRowBlocks e) % 2 ^ 64, tRowBlocks e)])
    match opRead (engAt die 17) (cnvPage die) j.ctx rs s with
    | (.error (c, u, _), s) => convDone j c u [] s
    | (.ok bs, s) =>
      if bs.any (fun b => b.any (fun x => x.2)) then convDone j zsPoison 0x03 [] s else
      let blocks := (chunks 2 (tRows e) bs).flatMap (fun p => rowBlocks (tFmt e) (tBs e) (p.getD 0 []) (p.getD 1 []))
      let amax := amaxBits (blocks.flatMap (blockVals (tFmt e) (blockSize (tBs e))))
      let frames := stashSegment (tFmt e) (tBs e) (bit (vFlags e) 1) (amax.getD 0x7FC00000) blocks
      match opWrite (engAt die 17) j.ctx (frames.zipIdx.map (fun f => ((bytesAt e 0x18 8 + f.2 * 4096) % 2 ^ 64, f.1))) s with
      | ((some (c, u, _), _), s) => convDone j c u [] s
      | ((none, _), s) =>
        let s := convCount die ⟨[], [], blocks.countP (fun b => b.scale.1 == 0xFF), 0, 0⟩ s
        let s := if bit (vFlags e) 0 then pushAmax die j.ctx (vChannel e) amax s else s
        convDone j zsOk 0 [frames.length] s) s)

/-- Read the frames of a segment in order: its blocks, or the failure. (log 65: DEDUCED) -/
def readSegment (j : DmaJob) (i n first : Nat) (s : State) : Except (Nat × Nat) (List StashBlk) × State :=
  match n with
  | 0 => (.ok [], s)
  | n + 1 =>
    let e := j.entry
    let a := (bytesAt e 0x10 8 + i * 4096) % 2 ^ 64
    match opRead (engAt j.die 17) (cnvPage j.die) j.ctx [(a, 16)] s with
    | (.error (c, u, _), s) => (.error (c, u), s)
    | (.ok hs, s) =>
      let hdr := hs.headD []
      if hdr.any (fun x => x.2) then (.error (zsPoison, 0x03), s) else
      match vRead (engAt j.die 17) j.ctx ((a + 16) % 2 ^ 64) (min 4080 (bytesAt (bare hdr) 0 2)) s with
      | (.error (c, u, _), s) => (.error (c, u), s)
      | (.ok p, s) =>
        if p.any (fun x => x.2) then (.error (zsPoison, 0x03), s) else
        match readFrame (tFmt e) (tBs e) first hdr p with
        | none => (.error (zsBadFormat, 0x06), s)
        | some l =>
          match readSegment j (i + 1) n (first + l.length) s with
          | (.error x, s) => (.error x, s)
          | (.ok r, s) => (.ok (l ++ r), s)

/-- STASH_UNPACK (R203, R204). (log 65: DEDUCED) -/
def execStashUnpack (die slot : Nat) (s : State) : Host.Outcome State Fault Refusal :=
  .next (convStart die slot (fun e => bytesAt e 0 1 == 0x22) (stashBad 0 0x10) (fun j _ s =>
    let e := j.entry
    match readSegment j 0 (bytesAt e 4 4) 0 s with
    | (.error (c, u), s) => convDone j c u [] s
    | (.ok blocks, s) =>
      if blocks.length ≠ tRows e * tRowBlocks e then convDone j zsBadFormat 0x06 [] s else
      let rows := chunks (tRowBlocks e) (tRows e) blocks
      let ws := coalesce (rows.zipIdx.map (fun r => ((bytesAt e 0x18 8 + r.2 * bytesAt e 0x30 4) % 2 ^ 64, r.1.flatMap (fun b => b.codes)))) ++
        coalesce (rows.zipIdx.map (fun r => ((bytesAt e 0x20 8 + r.2 * tRowBlocks e) % 2 ^ 64, r.1.map (fun b => b.scale))))
      match opWrite (engAt die 17) j.ctx ws s with
      | ((some (c, u, _), _), s) => convDone j c u [] s
      | ((none, _), s) => convDone j zsOk 0 [] (convCount die ⟨[], [], blocks.countP (fun b => b.scale.1 == 0xFF), 0, 0⟩ s)) s)

end Sys2Proof.Machine
end

