-- ==== Sys2Proof/Machine/Dram.lean ====
section
/-! DEFINITION. The memory controllers (R245 to R264): decoding a read's two codewords, failed pseudo-channels, spares and
rebuilds, the patrol, survivor regions, and temperature. A read's errors are given relative to what the codewords should hold. -/

namespace Sys2Proof.Machine

/-! ## Placement (R245, R246) -/

/-- MEMC_ page 0 of a stack, and page 1 of a die. -/
def memcPage (die stack : Nat) : Nat := pageAddr .memc die stack 0
def memcDiePage (die : Nat) : Nat := pageAddr .memc die 0 1

/-- Stack, group and line-in-group of a per-die line index. -/
def lineStack (l : Nat) : Nat := bits l 1 0 ^^^ bits l 9 8
def lineGroup (l : Nat) : Nat := l / 4 % 6
def lineInGroup (l : Nat) : Nat := l / 4 / 6

/-- The line index at a place (the inverse of R246). -/
def lineOf (stack group inGroup : Nat) : Nat :=
  let q := inGroup * 6 + group
  q * 4 + (stack ^^^ bits q 7 6)

/-- A stack's controller. -/
def stackOf (s : State) (die stack : Nat) : Stack := tgetD s.drams (die * 4 + stack) .empty

/-- Change a stack's controller. -/
def modStack (die stack : Nat) (f : Stack → Stack) (s : State) : State := { s with drams := tmod s.drams (die * 4 + stack) .empty f }

/-- Is DRAM in self-refresh (R261, R413, R418, R452). -/
def selfRefresh (s : State) : Bool :=
  let p := bits (reg s (dryPage + Reg.DRY_STATUS)) 3 0
  (1 ≤ p && p ≤ 5) || failedNow s || bits (reg s (pageAddr .pwr 15 0 0 + Reg.PWR_STATE)) 1 0 != 0

/-! ## Spares (R252, R253) -/

/-- Is a pseudo-channel marked failed. -/
def pcFailed (s : State) (die stack n : Nat) : Bool := bit (reg s (memcPage die stack + Reg.MEMC_PC_FAILED)) n

/-- The pseudo-channel that a spare replaces; 0xFF for none. -/
def spareMap (s : State) (die stack k : Nat) : Nat := bits (reg s (memcPage die stack + Reg.MEMC_SPARE_MAP)) (8 * k + 7) (8 * k)

/-- The spare that replaces a pseudo-channel. (log 37: DESIGN CHOICE) -/
def spareFor (s : State) (die stack n : Nat) : Option Nat := (List.range 4).find? (fun k => spareMap s die stack k == n)

/-- The data pseudo-channel that a pseudo-channel stands for: itself, or what a chain of spares replaces. -/
def pcRoot (s : State) (die stack fuel n : Nat) : Nat :=
  match fuel with
  | 0 => n
  | f + 1 => if n < 60 then n else let m := spareMap s die stack (n - 60); if m = 0xFF then n else pcRoot s die stack f m

/-- The pseudo-channel being rebuilt, and the pointer, while a rebuild runs. -/
def rebuildOf (s : State) (die stack : Nat) : Option (Nat × Nat) :=
  let r := reg s (memcPage die stack + Reg.MEMC_REBUILD)
  if bit r 6 then some (bits r 5 0, reg s (memcPage die stack + Reg.MEMC_REBUILD_PTR)) else none

/-- Has the spare of a failed pseudo-channel the position's data for a line (R253): not while it waits for its rebuild, nor at or
above the pointer. -/
def spareServes (s : State) (die stack n inGroup : Nat) : Bool :=
  !(stackOf s die stack).waitRebuild.contains n &&
    (match rebuildOf s die stack with | some (p, ptr) => p != n || inGroup < ptr | none => true)

/-- The pseudo-channel that serves a position of a group for a line, or none where the position is erased (R250, R253). -/
def serving (s : State) (die stack inGroup fuel n : Nat) : Option Nat :=
  match fuel with
  | 0 => none
  | f + 1 =>
    if !pcFailed s die stack n then some n else
    match spareFor s die stack n with
    | some k => if spareServes s die stack n inGroup then serving s die stack inGroup f (60 + k) else none
    | none => none

/-- Start the next rebuild that waits, if none runs (R252). (log 37: DESIGN CHOICE) -/
def nextRebuild (die stack : Nat) (s : State) : State :=
  match rebuildOf s die stack, (stackOf s die stack).waitRebuild with
  | none, n :: r =>
    setReg (memcPage die stack + Reg.MEMC_REBUILD) (n + 64) (setReg (memcPage die stack + Reg.MEMC_REBUILD_PTR) 0
      (modStack die stack (fun x => { x with waitRebuild := r }) s))
  | _, _ => s

/-- Mark a pseudo-channel failed: a spare is assigned and a rebuild starts or waits; with no spare free INT_PEND bit 3 sets (R252). A
failed spare that replaces nothing needs no other. -/
def markFailed (die stack n : Nat) (s : State) : State :=
  if pcFailed s die stack n then s else
  let page := memcPage die stack
  let s := setReg (page + Reg.MEMC_PC_FAILED) (reg s (page + Reg.MEMC_PC_FAILED) + 2 ^ n) s
  if n ≥ 60 && spareMap s die stack (n - 60) == 0xFF then s else
  match (List.range 4).find? (fun k => spareMap s die stack k == 0xFF && !pcFailed s die stack (60 + k)) with
  | none => setPend page 8 s
  | some k =>
    let s := setField (page + Reg.MEMC_SPARE_MAP) (8 * k + 7) (8 * k) n s
    nextRebuild die stack (modStack die stack (fun x => { x with waitRebuild := x.waitRebuild ++ [n] }) s)

/-! ## Decoding a read (R247 to R251) -/

/-- The outcome of a codeword. -/
inductive Decoded where
  | clean | corrected | uncorrectable | miscorrected
  deriving DecidableEq, Repr

/-- Decode a codeword from its erased positions and its symbol errors elsewhere (symbol, non-zero difference) (R250). The second
part is what a pattern beyond the guaranteed range gives. (log 11: DESIGN CHOICE; log 36: DEDUCED) -/
def decodeWord (erased : List Nat) (errs : List (Nat × Nat)) (beyond : Bool) : Decoded :=
  let e := ((errs.filter (fun x => x.1 < 80 && x.2 % 256 != 0 && !erased.contains (x.1 / 8))).map (fun x => x.1)).eraseDups.length
  match erased.length with
  | 0 => if e = 0 then .clean else if e ≤ 5 then .corrected else if e ≤ 9 || beyond then .uncorrectable else .miscorrected
  | 1 => if e ≤ 2 then .corrected else if e ≤ 4 || beyond then .uncorrectable else .miscorrected
  | _ => .uncorrectable

/-- Count a codeword's symbol corrections against the pseudo-channels that returned them (R252). (log 36: DEDUCED) -/
def countSymbols (die stack : Nat) (pcs : List (Option Nat)) (errs : List (Nat × Nat)) (s : State) : State :=
  forL (((errs.filter (fun x => x.1 < 80 && x.2 % 256 != 0)).map (fun x => x.1)).eraseDups) (fun y s =>
    match pcs.getD (y / 8) none with
    | some n => modStack die stack (fun x => { x with sym := tmod x.sym n 0 (fun v => sat32 (v + 1)) }) s
    | none => s) s

/-- Does a slice of the package hold the line modified, so that its bytes are newer than DRAM's. (log 35: DESIGN CHOICE) -/
def heldModified (s : State) (la : Nat) : Bool := (liveDies s).any (fun d => lineState s d la == .m)

/-- What one codeword's decoding does (R250, R251). `g` is 0 or 1 for the granule, `l` the per-die line index.
(log 11: DESIGN CHOICE; log 35: DESIGN CHOICE) -/
def granuleRead (die stack l g : Nat) (erased : List Nat) (pcs : List (Option Nat)) (errs : List (Nat × Nat)) (s : State) : Bool × State :=
  let page := memcPage die stack
  let off := l * 128 + g * 64
  let pa := die * dieDram + off
  let free := !Config.eccDetects s.draws
  let r := decodeWord erased errs (!free)
  let s := { s with draws := s.draws + 1 }
  let s := if erased.length = 1 then bump (page + Reg.MEMC_ERASURE) 1 s else s
  let poisonCount (s : State) : State := if poisonedAt s pa then bumpSat (page + Reg.MEMC_POISON_RD) 1 s else s
  match r with
  | .clean => (false, poisonCount s)
  | .corrected =>
    let s := if erased.isEmpty then bump (page + Reg.MEMC_CE_OUTER) 1 s else s
    (true, poisonCount (countSymbols die stack pcs errs s))
  | .uncorrectable =>
    let s := if heldModified s (pa / 128) then s else setPoison (pa / 64) true { s with mem := memPut s.mem pa (zeros 64) }
    let s := setPend page 4 (setReg (page + Reg.MEMC_LAST_UE) off (bumpSat (page + Reg.MEMC_UE) 1 s))
    (false, bumpSat (page + Reg.MEMC_POISON_RD) 1 (logDry die 4 0x0030 [off % 2 ^ 32, off / 2 ^ 32, stack] s))
  | .miscorrected =>
    let s := if heldModified s (pa / 128) then s else
      { s with mem := memPut s.mem pa ((List.range 64).map (fun i => Config.freeByte s.draws (pa + i))), draws := s.draws + 1 }
    (true, poisonCount s)

/-- Read a line of a die's DRAM: the inner results of its ten positions (0 CLEAN, 1 CORRECTED, 2 UNCORRECTED) and the symbol errors
of its two codewords. Answers whether anything was corrected. `forced` is a position erased besides (a rebuild's, R252). -/
def lineRead (die l : Nat) (forced : List Nat) (inner : List Nat) (err0 err1 : List (Nat × Nat)) (s : State) : Bool × State :=
  let stack := lineStack l
  let page := memcPage die stack
  let pcs := (List.range 10).map (fun p => if forced.contains p then none else serving s die stack (lineInGroup l) 5 (10 * lineGroup l + p))
  let erased := (List.range 10).filter (fun p => (pcs.getD p none).isNone || inner.getD p 0 == 2)
  let s := bump (page + Reg.MEMC_CE_INNER) ((List.range 10).countP (fun p => inner.getD p 0 == 1)) s
  let s := forL ((List.range 10).filter (fun p => inner.getD p 0 == 2)) (fun p s =>
    match pcs.getD p none with
    | some n => modStack die stack (fun x => { x with uncorr := tmod x.uncorr n [] (fun t => (s.time :: t).take 16) }) s
    | none => s) s
  let a := granuleRead die stack l 0 erased pcs err0 s
  let b := granuleRead die stack l 1 erased pcs err1 a.2
  (a.1 || b.1 || (List.range 10).any (fun p => inner.getD p 0 == 1), b.2)

/-- DRAM_READ_DECODE (R250): a read of a line of a die returns. (log 35: DESIGN CHOICE) -/
def execDramReadDecode (die line : Nat) (inner : List Nat) (err0 err1 : List (Nat × Nat)) (s : State) : Host.Outcome State Fault Refusal :=
  .next (if dieLive s die && line < dieDram / 128 && !selfRefresh s then (lineRead die line [] inner err0 err1 s).2 else s)

/-- Has a pseudo-channel reached a failure count (R252): 16 UNCORRECTED reads within 1 ms, or more symbol corrections in the pass
than MEMC_SPARE_THRESH. -/
def pcReached (s : State) (die stack n : Nat) : Bool :=
  let t := tgetD (stackOf s die stack).uncorr n []
  (t.length == 16 && t.headD 0 - t.getLastD 0 ≤ 100000) ||
    tgetD (stackOf s die stack).sym n 0 > reg s (memcDiePage die + Reg.MEMC_SPARE_THRESH)

/-- PC_FAIL_MARK (R252). -/
def execPcFailMark (die stack pc : Nat) (s : State) : Host.Outcome State Fault Refusal :=
  .next (if pcReached s die stack pc then markFailed die stack pc s else s)

/-- MEMC_PC_FAILED_WRITE (R252): firmware sets bits of MEMC_PC_FAILED. -/
def execMemcPcFailedWrite (die stack v : Nat) (s : State) : Host.Outcome State Fault Refusal :=
  .next (forL (maskList 64 v) (fun n s => markFailed die stack n s) s)

/-- REBUILD_LINE (R252, R253): the next line is decoded with the failed position erased, and the pointer moves on.
(log 37: DESIGN CHOICE) -/
def execRebuildLine (die stack : Nat) (inner : List Nat) (err0 err1 : List (Nat × Nat)) (s : State) : Host.Outcome State Fault Refusal :=
  .next (match rebuildOf s die stack with
    | none => s
    | some (n, ptr) =>
      if ptr ≥ 2 ^ 25 then s else
      let root := pcRoot s die stack 4 n
      let r := lineRead die (lineOf stack (root / 10) ptr) [root % 10] inner err0 err1 s
      setReg (memcPage die stack + Reg.MEMC_REBUILD_PTR) (ptr + 1) r.2)

/-- REBUILD_COMPLETE (R252): the pointer has reached the end; the next waiting rebuild starts. -/
def execRebuildComplete (die stack : Nat) (s : State) : Host.Outcome State Fault Refusal :=
  .next (match rebuildOf s die stack with
    | none => s
    | some (n, ptr) =>
      if ptr < 2 ^ 25 then s else nextRebuild die stack (setReg (memcPage die stack + Reg.MEMC_REBUILD) n s))

/-! ## Patrol (R258, R264) -/

/-- PATROL_SCRUB (R258): the patrol of a die visits its next line; a correction is written back as a line write (R375), a request for M (R229). -/
def execPatrolScrub (die : Nat) (inner : List Nat) (err0 err1 : List (Nat × Nat)) (s : State) : Host.Outcome State Fault Refusal :=
  .next (
    let page := memcDiePage die
    if !dieLive s die || selfRefresh s || !bit (reg s (page + Reg.MEMC_PATROL)) 31 then s else
    let off := reg s (page + Reg.MEMC_PATROL_POS)
    let pa := die * dieDram + off
    let (fixed, s) := lineRead die (off / 128) [] inner err0 err1 s
    let s := if fixed then let s := memM (pa / 128) s; lineWrite pa (memGet s.mem pa 128) s else s
    if off + 128 < dieDram then setReg (page + Reg.MEMC_PATROL_POS) (off + 128) s
    else forN 4 (fun k s => modStack die k (fun x => { x with sym := [] }) s)
      (bumpSat (page + Reg.MEMC_PATROL_PASSES) 1 (setReg (page + Reg.MEMC_PATROL_POS) 0 s)))

/-- MEMC_PATROL_WRITE (R264): a PERIOD outside 1 to 24 is dropped. -/
def execMemcPatrolWrite (die v : Nat) (s : State) : Host.Outcome State Fault Refusal :=
  .next (
    let page := memcDiePage die
    if 1 ≤ bits v 4 0 && bits v 4 0 ≤ 24 then setReg (page + Reg.MEMC_PATROL) (bits v 4 0 + bits v 31 31 * 2 ^ 31) s
    else recErr page 0xFFF 0x71 zsDenied s)

/-! ## Survivor regions (R260) -/

/-- May a valid entry of a die hold this region (R260): aligned, in range, apart from every other valid region. -/
def survivorOk (s : State) (die entry base size : Nat) : Bool :=
  base % 2 ^ 21 == 0 && 0 < size && base + size * 2 ^ 21 ≤ dieDram &&
    (s.survivors.filter (fun e => e.1 / 16 == die && e.1 % 16 != entry && e.2.2.2)).all (fun e =>
      base + size * 2 ^ 21 ≤ e.2.1 || e.2.1 + e.2.2.1 * 2 ^ 21 ≤ base)

/-- MEMC_SURV_WRITE (R260, R264): firmware writes MEMC_SURV_BASE of the selected entry, or MEMC_SURV_SIZE where `size` is set. -/
def execMemcSurvWrite (die : Nat) (size : Bool) (v : Nat) (s : State) : Host.Outcome State Fault Refusal :=
  .next (
    let page := memcDiePage die
    let k := bits (reg s (page + Reg.MEMC_SURV_SEL)) 3 0
    let old := tgetD s.survivors (die * 16 + k) (0, 0, false)
    let new := if size then (old.1, bits v 15 0, bit v 31) else (v % 2 ^ 64, old.2.1, old.2.2)
    if new.2.2 && !survivorOk s die k new.1 new.2.1 then recErr page 0xFFF 0x70 zsDenied s
    else { s with survivors := tset s.survivors (die * 16 + k) new })

/-! ## Temperature (R262) -/

/-- The state of Table R262 that a reading gives, from the state it met: 0 none, 1 to 3 for its rows. -/
def heatLevel (was t : Nat) : Nat :=
  if t ≥ 100 || (was ≥ 3 && t ≥ 98) then 3 else if t ≥ 95 || (was ≥ 2 && t ≥ 93) then 2 else if t ≥ 85 || (was ≥ 1 && t ≥ 83) then 1 else 0

/-- The state that MEMC_TEMP shows. -/
def heatShown (v : Nat) : Nat := if bits v 11 10 = 0 then bits v 9 8 else bits v 11 10 + 1

/-- DRAM_TEMP_SAMPLE (R262): a stack's controller reads its hottest die, in °C. -/
def execDramTempSample (die stack temp : Nat) (s : State) : Host.Outcome State Fault Refusal :=
  .next (
    let a := memcPage die stack + Reg.MEMC_TEMP
    let h := heatLevel (heatShown (reg s a)) temp
    setReg a (temp % 256 + b2n (h ≥ 1) * 2 ^ 8 + (h - 1) * 2 ^ 10) s)

end Sys2Proof.Machine
end

