-- ==== Sys2Proof/Machine/PageMap.lean ====
section
/-! DEFINITION. The resident executive's memory management (R127, R128, R131, R259, R269, R373, R492): free frames, scrubbing,
checked frames, page tables, and the leaves of a context. -/

namespace Sys2Proof.Machine

/-! ## Frames -/

/-- Bytes of a die's check-word region (R372). -/
def chkRegion : Nat := 96 * 2 ^ 20

/-- The DRAM that is in use, as base and bytes: check words, survivor regions, contexts' frames and tables. -/
def usedRanges (s : State) : List (Nat × Nat) :=
  (liveDies s).flatMap (fun d => (d * dieDram + reg s (chkPage d + Reg.CHK_BASE), chkRegion) ::
    (survivorsOf s d).map (fun r => (d * dieDram + r.1, r.2))) ++
  s.ctxs.flatMap (fun x => (x.2.leaves.filter (fun l => l.mt < 2)).map (fun l => (l.pa, l.size)) ++ x.2.tables ++ x.2.areas)

/-- Round up to a multiple. -/
def alignUp (a n : Nat) : Nat := divUp a n * n

/-- The lowest aligned run of `n` bytes from `a` up to `hi` that no range in use meets. (log 33: DESIGN CHOICE) -/
def freeRun (fuel : Nat) (used : List (Nat × Nat)) (hi n a : Nat) : Option Nat :=
  match fuel with
  | 0 => none
  | f + 1 =>
    if a + n > hi then none else
    match used.find? (fun r => r.1 < a + n && a < r.1 + r.2) with
    | none => some a
    | some r => freeRun f used hi n (alignUp (r.1 + r.2) n)

/-- The run of frames that the executive takes next: the lowest that is free, die by die. -/
def freeFrames (s : State) (used : List (Nat × Nat)) (n : Nat) : Option Nat :=
  (liveDies s).findSome? (fun d => freeRun (used.length + 1) used ((d + 1) * dieDram) n (d * dieDram))

/-- A line lies in a range. -/
def lineIn (pa n la : Nat) : Bool := pa ≤ la * 128 && la * 128 < pa + n

/-- Clear-scrub a range of one die (R229, R239, R257, R259): zero data, no poison, no cached line, pinned ways left in I under their pins,
no longer checked. (log 42: DEDUCED) -/
def scrubRange (pa n : Nat) (s : State) : State :=
  let page := pageAddr .memc (homeDie pa) 0 1
  let s := { s with mem := memClear s.mem pa n,
                    poison := s.poison.filter (fun g => !(pa ≤ g * 64 && g * 64 < pa + n)),
                    checked := s.checked.filter (fun f => !(pa ≤ f * 65536 && f * 65536 < pa + n)),
                    weaves := tmapv s.weaves (fun _ w => { w with sets := tmapv w.sets (fun _ t =>
                      { t with ways := t.ways.filterMap (fun l => if lineIn pa n l.la then dropData l else some l) }) }) }
  bump (page + Reg.MEMC_CLEAR_BYTES) n s

/-- The check word of a block of zeros (R373). -/
def zeroCheck : Nat := crc32c (zeros 4096)

/-- Make a scrubbed range checked (R373). -/
def makeChecked (pa n : Nat) (s : State) : State :=
  let s := forN (n / 65536) (fun i s => { s with checked := sinsert s.checked (pa / 65536 + i) }) s
  forN (n / 4096) (fun i s => { s with mem := memPut s.mem (chkWordAddr s (pa + i * 4096)) (toBytes 4 zeroCheck) }) s

/-! ## Page tables -/

/-- The level of a leaf of a size (R127). -/
def leafLevelOf (size : Nat) : Nat := if size = 2 ^ 30 then 1 else if size = 2 ^ 21 then 2 else 3

/-- The entry of a leaf (R128). -/
def leafEntry (l : Leaf) : Nat := 3 + l.perm * 4 + b2n l.chk * 32 + l.mt * 64 + l.pa

/-- Take room for a table of a context: from the free rest of its table frames, or from new frames. (log 33: DESIGN CHOICE) -/
def tableRoom (c n : Nat) (s : State) : Option (Nat × State) :=
  match ctxAt s c with
  | none => none
  | some x =>
    let a := alignUp x.tableNext n
    if a + n ≤ x.tableEnd then some (a, modCtx c (fun x => { x with tableNext := a + n }) s) else
    let size := alignUp n 65536
    match freeFrames s (usedRanges s) size with
    | none => none
    | some b => some (b, modCtx c (fun x => { x with tables := x.tables ++ [(b, size)], tableNext := b + n, tableEnd := b + size }) (scrubRange b size s))

/-- Write an entry at a level of a context's tables, making the tables on the way. -/
def putEntry (fuel c l tbl va last e : Nat) (s : State) : Option State :=
  match fuel with
  | 0 => none
  | f + 1 =>
    let a := tbl + ((va >>> xlShift l) % xlEntries l) * 8
    if l = last then some { s with mem := memPut s.mem a (toBytes 8 e) } else
    let old := memNat s a 8
    if bit old 0 then (if bit old 1 then none else putEntry f c (l + 1) (bits old 51 8 * 256) va last e s) else
    match tableRoom c (8 * xlEntries (l + 1)) s with
    | none => none
    | some (t, s) => putEntry f c (l + 1) t va last e { s with mem := memPut s.mem a (toBytes 8 (t + 1)) }

/-- The root table of a context. -/
def rootTable (s : State) (c : Nat) : Nat := bits ((ctxAt s c).elim 0 (fun x => x.xlatRoot.toNat)) 51 8 * 256

/-- Does a virtual range lie below the context's limit (R127). (log 32: DEDUCED) -/
def vaFits (s : State) (c va n : Nat) : Bool := va + n ≤ 2 ^ (43 + (ctxAt s c).elim 0 (fun x => x.xlatRoot.toNat % 32)) && va + n ≤ 2 ^ 64

/-- Add a leaf to a context; the leaf counts first, so that the tables made for it take other frames. -/
def mapLeaf (c : Nat) (l : Leaf) (s : State) : Option State :=
  putEntry 4 c 0 (rootTable s c) l.va (leafLevelOf l.size) (leafEntry l) (modCtx c (fun x => { x with leaves := x.leaves ++ [l] }) s)

/-- Add leaves in order. -/
def mapLeaves (c : Nat) (l : List Leaf) (s : State) : Option State :=
  match l with
  | [] => some s
  | x :: r => (mapLeaf c x s).bind (mapLeaves c r)

/-- Remove a leaf of a context, once the REDs to its frames that still wait are performed (R131). -/
def unmapLeaf (c : Nat) (l : Leaf) (s : State) : State :=
  let s := if l.mt < 2 then settleFrames l.pa l.size s else s
  ((putEntry 4 c 0 (rootTable s c) l.va (leafLevelOf l.size) 0 s).getD s) |> modCtx c (fun x => { x with leaves := x.leaves.filter (fun y => y != l) })

/-- Change a leaf's permissions in place. -/
def setLeafPerm (c : Nat) (l : Leaf) (perm : Nat) (s : State) : State :=
  let l' := { l with perm := perm }
  ((putEntry 4 c 0 (rootTable s c) l.va (leafLevelOf l.size) (leafEntry l') s).getD s) |>
    modCtx c (fun x => { x with leaves := updateAll x.leaves (fun y => y == l) (fun _ => l') })

/-- Do two ranges meet. -/
def rangesMeet (a n b m : Nat) : Bool := a < b + m && b < a + n

/-- The leaves of a context that meet a range. -/
def leavesIn (s : State) (c va n : Nat) : List Leaf := (ctxAt s c).elim [] (fun x => x.leaves.filter (fun l => rangesMeet l.va l.size va n))

/-- The highest aligned free virtual range of a context below its limit, for the executive's own mappings. (log 33: DESIGN CHOICE) -/
def freeVa (s : State) (c size : Nat) : Option Nat :=
  let top := 2 ^ (43 + (ctxAt s c).elim 0 (fun x => x.xlatRoot.toNat % 32))
  let n := (ctxAt s c).elim 0 (fun x => x.leaves.length)
  (List.range (n + 2)).findSome? (fun i =>
    let a := top - (i + 1) * size
    if a + size ≤ top && (leavesIn s c a size).isEmpty then some a else none)

/-- Bytes of token-batching staging that the looms hold for a context (R269, R481): 128 KiB for each half with a batch.
(log 34: DESIGN CHOICE) -/
def stagingBytes (s : State) (c : Nat) : Nat :=
  s.looms.foldl (fun n l => [l.2.west, l.2.east].foldl (fun n h =>
    if h.batch.any (fun b => b.ctx == c) || h.ops.any (fun o => o.batch && o.ctx == c) then n + 131072 else n) n) 0

/-- Bytes that count against a context's MEM_QUOTA (R269): granted frames, table frames, loom save areas, staging, and record-store
frames (R391). (log 34: DESIGN CHOICE) -/
def memUsed (s : State) (c : Nat) : Nat :=
  (ctxAt s c).elim 0 (fun x => (x.leaves.filter (fun l => l.granted)).foldl (fun n l => n + l.size) 0 + x.tables.foldl (fun n t => n + t.2) 0 +
      x.areas.foldl (fun n t => n + t.2) 0) + stagingBytes s c +
    (s.stores.filter (fun r => r.ctx == c && r.group != 0)).foldl (fun n r => n + (r.slotA.length + r.slotB.length) * 65536) 0

/-- Is the context within its MEM_QUOTA with further bytes. (log 34: DESIGN CHOICE) -/
def memFits (s : State) (c extra : Nat) : Bool := memUsed s c + extra ≤ (ctxAt s c).elim 0 (fun x => x.memQuota)

/-- Does a virtual range lie on pages of the context of given types, all with permissions (R301, R304, R492). -/
def vaCovered (s : State) (c : Nat) (ok : Leaf → Bool) (fuel va n : Nat) : Bool :=
  match fuel with
  | 0 => n == 0
  | f + 1 =>
    if n = 0 then true else
    match (ctxAt s c).bind (fun x => x.leaves.find? (fun l => l.va ≤ va && va < l.va + l.size)) with
    | none => false
    | some l => ok l && vaCovered s c ok f (l.va + l.size) (n - (l.va + l.size - va))

/-- Coverage with fuel for every leaf. -/
def vaHeld (s : State) (c : Nat) (ok : Leaf → Bool) (va n : Nat) : Bool := vaCovered s c ok ((ctxAt s c).elim 0 (fun x => x.leaves.length) + 1) va n

/-- A NORMAL page with R and W (R275, R304). -/
def normalRw (l : Leaf) : Bool := l.mt == 0 && bits l.perm 1 0 == 3

end Sys2Proof.Machine
end

