-- ==== Sys2Proof/Machine/LoomSeq.lean ====
section
/-! DEFINITION. The completion of variable-latency instructions (R52), preemption (R66), the split of a loom (R210), and an issued
word that belongs to no instruction (R111). -/

namespace Sys2Proof.Machine

/-! ## LCV_COMPLETION (R52) -/

/-- The same value to every thread of an LCV's destination. -/
def lcvAll (l : Lcv) (v : Nat) : List RegWrite :=
  l.dst.flatMap (fun d => (maskList 32 l.mask).map (fun t => ⟨t, d, BitVec.ofNat 32 v⟩))

/-- A fault of an LCV instruction at its completion: it leaves the outstanding ones, then its skein faults. -/
def lcvFault (loom skein : Nat) (l : Lcv) (code sub va thread : Nat) (s : State) : State :=
  let s := completeLcv loom skein l.id [] (modSkein loom skein (fun k =>
    { k with lcvs := updateFirst k.lcvs (fun x => x.id == l.id) (fun x => { x with writes := [] }) }) s)
  match lateEnv s loom skein l.pc l.mask with
  | none => s
  | some e => if code = zsPoison then poisonFault e sub va thread s else insFault e code sub va thread s

/-- LCV_COMPLETION (R52, R107, R108, R125, R278-destroy). -/
def execLcvCompletion (loom skein id : Nat) (s : State) : Host.Outcome State Fault Refusal :=
  .next (match tget? (loomOf s loom).skeins skein with
    | none => s
    | some k =>
      match k.lcvs.find? (fun l => l.id == id) with
      | none => s
      | some l =>
        let low := (maskList 32 l.mask).headD 0
        match l.wait with
        | .ready => completeLcv loom skein id [] s
        | .fence lanes =>
          if k.fabricOut.any (fun t => bit lanes t) then s else
          (match putFailure k lanes with
            | none => completeLcv loom skein id [] s
            | some f => lcvFault loom skein l f.code 0x11 0 f.thread
                (modSkein loom skein (fun k => { k with putFails := removeFirst k.putFails (fun x => x == f) }) s))
        | .tile t =>
          let east := onEast s loom skein
          if tilePending s loom east k.ctx t then s else
          let (st, s) := takeTileStatus loom east k.ctx t s
          completeLcv loom skein id (lcvAll l st) s
        | .queue h a =>
          (match queueOf s h with
            | none => completeLcv loom skein id (lcvAll l zsHandleStale)
                (modSkein loom skein (fun k => { k with lcvs := updateFirst k.lcvs (fun x => x.id == id) (fun x => { x with writes := [] }) }) s)
            | some q =>
              if occupancy q = 0 then s else
              match popInto loom k.ctx h a s with
              | (.error (c, u, va), s) => lcvFault loom skein l c u va low s
              | (.ok _, s) => completeLcv loom skein id [] s)
        | _ => s)

/-! ## Preemption (R66) -/

/-- REQUEST_WEST (R66, R69): the context on the west half or the whole loom stops issuing, and its open batch is issued. -/
def execRequestWest (loom : Nat) (s : State) : Host.Outcome State Fault Refusal :=
  .next (issueBatch loom false (setField (loomPage loom + Reg.LOOM_PREEMPT) 0 0 1 (modLoom loom (fun l => { l with preemptWest := .stopping }) s)))

/-- REQUEST_EAST (R66, R69): ignored on an unsplit loom. -/
def execRequestEast (loom : Nat) (s : State) : Host.Outcome State Fault Refusal :=
  .next (if !loomSplit s loom then s else
    issueBatch loom true (setField (loomPage loom + Reg.LOOM_PREEMPT) 1 1 1 (modLoom loom (fun l => { l with preemptEast := .stopping }) s)))

/-- Is a numbered resource (barrier, scratch byte, slot) on the half, given the first number of the east half. -/
def onHalf (s : State) (loom : Nat) (east : Bool) (first n : Nat) : Bool := !loomSplit s loom || (n ≥ first) == east

/-- The first scratch byte, barrier and slot of a half. -/
def halfBase (east : Bool) (first : Nat) : Nat := if east then first else 0

/-- Move what a skein waits for: the scratch address on which a QUE.WAIT delivers, and the number of a barrier.
(log 62: DESIGN CHOICE) -/
def shiftWaits (addr bar : Nat → Nat) (k : Skein) : Skein :=
  { k with lcvs := k.lcvs.map (fun l => match l.wait with | .queue h a => { l with wait := .queue h (addr a) } | _ => l),
           groups := k.groups.map (fun g => match g.wait with | .bar b a => { g with wait := .bar (bar b) a } | _ => g) }

/-- Shift the keys of a table. -/
def shiftTab {α : Type} (down up : Nat) (t : Tab α) : Tab α := t.map (fun x => (x.1 - down + up, x.2))

/-- What is saved of a half (R66): skeins, barriers, scratch allocations, slots in use with tags and poison. (log 34: DESIGN CHOICE) -/
def savedOf (s : State) (loom : Nat) (east : Bool) (x : Lease) : SavedLoom :=
  let l := loomOf s loom
  let sb := halfBase east 524288
  ⟨x.ctx, loom, east, !loomSplit s loom,
    (halfSkeins s loom east).map (fun k => ⟨shiftWaits (fun a => a - sb) (fun b => b - halfBase east 8) k.2, k.1 / 16, k.1⟩),
    shiftTab (halfBase east 8) 0 (l.barriers.filter (fun b => onHalf s loom east 8 b.1)),
    shiftTab sb 0 (l.scratch.filter (fun b => onHalf s loom east 524288 b.1)),
    (l.allocs.filter (fun a => onHalf s loom east 524288 a.base)).map (fun a => { a with base := a.base - sb }),
    shiftTab (halfBase east 16) 0 (l.slots.filter (fun v => onHalf s loom east 16 v.1)), x.slots,
    (s.dispatches.filter (fun d => d.2.ctx == x.ctx && d.2.loom == loom && d.2.east == east)).map (fun d => d.1), none⟩

/-- Clear a half: skeins, barriers, scratch, reuse entries, loaded weights (R169) and slots, and the lease. -/
def clearHalf (loom : Nat) (east : Bool) (s : State) : State :=
  let s := chargeV (loom / 32) s
  modLoom loom (fun l => { l with
    skeins := l.skeins.filter (fun x => onEast s loom x.1 != east),
    barriers := l.barriers.filter (fun b => !onHalf s loom east 8 b.1),
    scratch := l.scratch.filter (fun b => !onHalf s loom east 524288 b.1),
    allocs := l.allocs.filter (fun a => !onHalf s loom east 524288 a.base),
    reuse := l.reuse.filter (fun r => !onHalf s loom east 6 r.1),
    slots := l.slots.filter (fun v => !onHalf s loom east 16 v.1),
    west := if east then l.west else { l.west with weights := none },
    east := if east || !loomSplit s loom then { l.east with weights := none } else l.east,
    leaseWest := if east then l.leaseWest else none,
    leaseEast := if east then none else l.leaseEast }) s

/-- Bytes of a save area (R66): 3.5 MiB for a loom, half of it for a half. (log 34: DESIGN CHOICE) -/
def areaBytes (whole : Bool) : Nat := if whole then 56 * 65536 else 28 * 65536

/-- Keep what was saved, in a save area of the context where frames are left for one (R66, R269). -/
def keepSaved (v : SavedLoom) (s : State) : State :=
  match freeFrames s (usedRanges s) (areaBytes v.whole) with
  | none => { s with saved := s.saved ++ [v] }
  | some a => modCtx v.ctx (fun x => { x with areas := x.areas ++ [(a, areaBytes v.whole)] })
      { s with saved := s.saved ++ [{ v with area := some (a, areaBytes v.whole) }] }

/-- Save a drained half's state and free it; a context in teardown saves nothing (R66, R295). (log 62: DESIGN CHOICE) -/
def saveHalf (loom : Nat) (east : Bool) (s : State) : State :=
  match leaseOf s loom east with
  | none => clearHalf loom east s
  | some x =>
    let sv := savedOf s loom east x
    let keep := (ctxAt s x.ctx).any (fun c => c.state == .active) && !sv.skeins.isEmpty
    clearHalf loom east (if keep then keepSaved sv s else s)

/-- PREEMPT_SAVE_COMPLETE (R66, R69). (log 62: DESIGN CHOICE) -/
def execPreemptSaveComplete (loom : Nat) (east : Bool) (s : State) : Host.Outcome State Fault Refusal :=
  let l := loomOf s loom
  .next (if (if east then l.preemptEast else l.preemptWest) ≠ .stopping || !drained s loom east then s else
    let s := modLoom loom (fun l => if east then { l with preemptEast := .none } else { l with preemptWest := .none }) (saveHalf loom east s)
    let b := b2n east
    setPend (loomPage loom) 32 (setField (loomPage loom + Reg.LOOM_PREEMPT) b b 0 s))

/-! ## LOOM_CFG.SPLIT (R69, R210) -/

/-- The conditions under which SPLIT may change (R210). -/
def maySplit (s : State) (loom : Nat) : Bool :=
  let l := loomOf s loom
  bit (reg s (loomPage loom + hdrCtrl)) 1 && l.skeins.isEmpty && l.leaseWest.isNone && l.leaseEast.isNone && arrayIdle l

/-- Clear PAGE_OWNER.TENANT of a page. -/
def clearTenant (page : Nat) (s : State) : State := setField (page + hdrOwner) 31 31 0 s

/-- LOOM_CFG_SPLIT (R69, R210, R489): splitting or rejoining discards the loaded weights; a split takes the array's and the
accumulator store's pages from a tenant. -/
def execLoomCfgSplit (loom : Nat) (v : Bool) (s : State) : Host.Outcome State Fault Refusal :=
  .next (if pageLocked s (loomPage loom) then s
    else if !maySplit s loom then recErr (loomPage loom) 0xFFF 0x37 zsDenied s
    else
      let s := setField (loomPage loom + Reg.LOOM_CFG) 0 0 (b2n v) (modLoom loom dropWeights s)
      if v then clearTenant (acsPage loom) (clearTenant (twlPage loom 0) s) else s)

/-! ## A word of no instruction (R111) -/

/-- ILLEGAL_INSTRUCTION (R80, R111): a group's next word has a reserved MAJOR or operation; the encoding check faults it.
(log 17: DESIGN CHOICE) -/
def execIllegalInstruction (w : Who) (s : State) : Host.Outcome State Fault Refusal :=
  .next (issueRow w 0 (fun _ => true) (fun _ s => s) s)

end Sys2Proof.Machine
end

