-- ==== Sys2Proof/Machine/Sched.lean ====
section
/-! DEFINITION. Doorbell writes (R273), dispatch entries and their placement (R278, R279), the die schedulers (R285 to R287),
resuming what was preempted (R67), and handle holds (R26). -/

namespace Sys2Proof.Machine

/-- DOORBELL_WRITE (R273): the tenant writes the producer index of a doorbell record, or its consumer index. -/
def execDoorbellWrite (slot rec : Nat) (consumer : Bool) (v : Nat) (s : State) : Host.Outcome State Fault Refusal :=
  .next (doorbellWrite slot (rec * 16 + (if consumer then 4 else 0)) v s)

/-! ## DISPATCH entries (R278) -/

def eFlags (e : List Byte) : Nat := bytesAt e 1 1
def eSkeins (e : List Byte) : Nat := bytesAt e 2 1
def eRegs (e : List Byte) : Nat := bytesAt e 3 1
def eScratch (e : List Byte) : Nat := bytesAt e 4 2
def eSlots (e : List Byte) : Nat := bytesAt e 6 1
def eLoom (e : List Byte) : Nat := bytesAt e 7 1
def ePc (e : List Byte) : Nat := bytesAt e 8 8
def eHalfOk (e : List Byte) : Bool := bit (eFlags e) 0
def eOrdered (e : List Byte) : Bool := bit (eFlags e) 1

/-- Skeins that an empty quadrant holds at a register count. -/
def quadHolds (g : Nat) : Nat := min 16 (128 / g)

/-- HALF_LIMIT of a context. -/
def halfLimit (s : State) (c : Nat) : Nat := (ctxAt s c).elim 0 (fun x => x.halfLimit)

/-- The failure of a DISPATCH entry at the head of its queue (R278, R382). -/
def dispatchBad (s : State) (die c : Nat) (e : List Byte) : Option (Nat × Nat) :=
  let sk := eSkeins e
  let g := eRegs e
  if bytesAt e 0 1 != 1 || eFlags e / 4 != 0 || bytesAt e 0x30 16 != 0 || sk == 0 || sk > 64 || g == 0 || g > 32 || eScratch e > 256 ||
      eSlots e > 32 || !(eLoom e < 32 || eLoom e == 0xFF) || ePc e % 8 != 0 then some (zsBadDescriptor, 0x0A) else
  let whole := halfLimit s c != 1 && sk ≤ 4 * quadHolds g
  let half := eHalfOk e && sk ≤ 2 * quadHolds g && eScratch e ≤ 128 && eSlots e ≤ 16
  if !whole && !half then some (zsBadDescriptor, 0x0B)
  else if eLoom e < 32 && loomRetired s (die * 32 + eLoom e) then some (zsDenied, 0xC2) else none

/-- A dispatch of the queue is placed and not complete whose entry index is the one before the head (ORDERED, R278). -/
def previousRuns (s : State) (q : Queue) : Bool :=
  s.dispatches.any (fun d => d.2.queue == q.handle && (d.2.index + 1) % 2 ^ 32 == q.cons)

/-- The head entry of a queue is consumed (R277). -/
def consumeHead (h : Word) (s : State) : State :=
  modQueue h (fun q => { q with cons := (q.cons + 1) % 2 ^ 32, entries := (q.entries + 1) % 2 ^ 64, head := none }) s

/-- The head entry of a COMPUTE queue fails: it is recorded and consumed, and its completion posted (R277, R278, R382). -/
def headFail (die : Nat) (q : Queue) (c u : Nat) (s : State) : State :=
  let s := recErr (schPage die) q.ctx u c s
  let s := if c = zsPoison then killForPoison (schPage die) q.ctx u s else s
  postCompletion q.cplQ c u 3 q.handle q.cons [] (consumeHead q.handle s)

/-- DISPATCH (R277, R278): the scheduler of a die takes and checks the head entry of a COMPUTE queue. An entry that fails completes;
a valid one waits at the head until it is placed. -/
def execDispatch (die slot : Nat) (s : State) : Host.Outcome State Fault Refusal :=
  .next (match tget? s.queues (die * 16384 + slot) with
    | none => s
    | some q =>
      if q.typ ≠ .compute || q.head.isSome || occupancy q = 0 || !ctxMayStart s q.ctx || !pageEnabled s (schPage die) then s else
      match vRead die q.ctx (entryVa q q.cons) 64 s with
      | (.error (c, u, _), s) => headFail die q c u s
      | (.ok b, s) =>
        match dispatchBad s die q.ctx (bare b) with
        | some (c, u) => headFail die q c u s
        | none => modQueue q.handle (fun q => { q with head := some (bare b) }) s)

/-- DISPATCH_COMPLETE (R279): every skein of a dispatch has exited or been halted. -/
def execDispatchComplete (id : Nat) (s : State) : Host.Outcome State Fault Refusal :=
  .next (match tget? s.dispatches id with
    | none => s
    | some d =>
      if d.left ≠ 0 then s else
      let s := modLoom d.loom (fun l => { l with allocs := l.allocs.filter (fun a => a.dispatch != some id) }) s
      postCompletion d.cplQ zsOk 0 3 d.queue d.index [d.loom, d.halted, (cycles s - d.placedAt) % 2 ^ 32]
        { s with dispatches := tdel s.dispatches id })

/-! ## Where work fits -/

/-- What a dispatch needs of a loom or half, or what was saved of one. -/
structure Need where
  ctx : Nat
  whole : Bool
  half : Bool
  saved : Option SavedLoom
  skeins : Nat
  gran : Nat
  scratch : Nat
  slots : Nat
  deriving DecidableEq, Repr

/-- The lowest gap of a size among intervals within bounds. -/
def gap (used : List (Nat × Nat)) (lo hi size : Nat) : Option Nat :=
  ((List.range (hi + 1 - lo - size)).map (fun i => lo + i)).find? (fun b => used.all (fun u => b + size ≤ u.1 || u.1 + u.2 ≤ b))

/-- The quadrants of a loom or half. -/
def quadsOf (s : State) (loom : Nat) (east : Bool) : List Nat := if !loomSplit s loom then [0, 1, 2, 3] else if east then [2, 3] else [0, 1]

/-- A free skein slot of a quadrant with contiguous register space (R43), given what is taken: slot, register base, granules. -/
def skeinPlace (taken : List (Nat × Nat × Nat)) (gran : Nat) (quads : List Nat) : Option (Nat × Nat) :=
  quads.findSome? (fun q =>
    let mine := taken.filter (fun t => t.1 / 16 == q)
    match (List.range 16).find? (fun i => !mine.any (fun t => t.1 == q * 16 + i)), gap (mine.map (fun t => t.2)) 0 128 gran with
    | some i, some b => some (q * 16 + i, b)
    | _, _ => none)

/-- Places for `n` skeins, lowest slot first. (log 67: DESIGN CHOICE) -/
def skeinPlaces (n gran : Nat) (quads : List Nat) (taken : List (Nat × Nat × Nat)) : Option (List (Nat × Nat)) :=
  match n with
  | 0 => some []
  | n + 1 =>
    match skeinPlace taken gran quads with
    | none => none
    | some p => (skeinPlaces n gran quads ((p.1, p.2, gran) :: taken)).map (fun l => p :: l)

/-- Skein slots taken on a loom. -/
def takenSkeins (s : State) (loom : Nat) : List (Nat × Nat × Nat) := (loomOf s loom).skeins.map (fun x => (x.1, x.2.base, x.2.gran))

/-- Is token batching active on a loom or half: a batch is open or incomplete (R481). (log 58: DEDUCED) -/
def batchingActive (s : State) (loom : Nat) (east : Bool) : Bool :=
  (halfOf s loom east).batch.isSome || (halfOf s loom east).ops.any (fun o => o.batch)

/-- The scratch of a loom or half, as 4 KiB granules: first, end. -/
def scratchSpan (s : State) (loom : Nat) (east : Bool) : Nat × Nat :=
  let (lo, hi) := if !loomSplit s loom then (0, 256) else if east then (128, 256) else (0, 128)
  (lo, if batchingActive s loom east then hi - 32 else hi)

/-- Allocations of dispatches that have resident skeins. -/
def liveAllocs (s : State) (loom : Nat) : List ScratchAlloc :=
  (loomOf s loom).allocs.filter (fun a => a.dispatch.any (fun i => (tget? s.dispatches i).any (fun d => d.left != 0)))

/-- The lowest scratch granule where an allocation fits (R65). (log 67: DESIGN CHOICE; log 119: DESIGN CHOICE) -/
def scratchPlace (s : State) (loom : Nat) (east : Bool) (granules : Nat) : Option Nat :=
  let (lo, hi) := scratchSpan s loom east
  gap ((liveAllocs s loom).map (fun a => (a.base / 4096, a.size / 4096))) lo hi granules

/-- May two contexts hold the halves of one loom (R210, R212). -/
def mayShare (s : State) (c d : Nat) : Bool :=
  match ctxAt s c, ctxAt s d with
  | some x, some y => c != d && ((x.secDomain != 0 && x.secDomain == y.secDomain) || (bit x.mode 1 && bit y.mode 1))
  | _, _ => false

/-- Does the scheduler place anything on a loom (R219, R287, R382). -/
def loomOpen (s : State) (loom : Nat) : Bool :=
  pageEnabled s (loomPage loom) && inService s loom && !loomRetired s loom && !(loomOf s loom).stopped

/-- The claim of another context on a half (R286). -/
def claimedByOther (s : State) (loom : Nat) (east : Bool) (c : Nat) : Bool :=
  (loomOf s loom).claim.any (fun x => x.2 == east && x.1 != c && (ctxAt s x.1).any (fun y => y.state == .active))

/-- Where the skeins and scratch allocations of what was saved go: old skein slot, new slot, new register base; old scratch base, size, new
base. -/
structure Places where
  skeins : List (Nat × Nat × Nat)
  scratch : List (Nat × Nat × Nat)
  deriving DecidableEq, Repr

/-- Places for saved skeins, each lowest slot first. -/
def placeSaved (l : List SavedSkein) (quads : List Nat) (taken : List (Nat × Nat × Nat)) : Option (List (Nat × Nat × Nat)) :=
  match l with
  | [] => some []
  | k :: r =>
    match skeinPlace taken k.skein.gran quads with
    | none => none
    | some p => (placeSaved r quads ((p.1, p.2, k.skein.gran) :: taken)).map (fun l => (k.slot, p.1, p.2) :: l)

/-- Places for saved scratch allocations, lowest granule first. -/
def placeSavedScratch (l : List ScratchAlloc) (lo hi : Nat) (used : List (Nat × Nat)) : Option (List (Nat × Nat × Nat)) :=
  match l with
  | [] => some []
  | a :: r =>
    match gap used lo hi (a.size / 4096) with
    | none => none
    | some b => (placeSavedScratch r lo hi ((b, a.size / 4096) :: used)).map (fun l => (a.base, a.size, b * 4096) :: l)

/-- Where what was saved resumes (R67, R382): on an empty loom or half at the places it had, and beside other work of its context on free
ones, where neither its barriers nor its slots have the names of theirs. -/
def resumePlaces (s : State) (v : SavedLoom) (loom : Nat) (east : Bool) : Option Places :=
  match leaseOf s loom east with
  | none =>
    let down := if v.east then 32 else 0
    let up := if east then 32 else 0
    some ⟨v.skeins.map (fun k => (k.slot, k.slot - down + up, k.skein.base)), v.allocs.map (fun a => (a.base, a.size, a.base + halfBase east 524288))⟩
  | some x =>
    let span := scratchSpan s loom east
    if (v.held != 0 && x.slots != 0) || v.barriers.any (fun b => (tget? (loomOf s loom).barriers (b.1 + halfBase east 8)).isSome) then none else
    match placeSaved v.skeins (quadsOf s loom east) (takenSkeins s loom),
      placeSavedScratch v.allocs span.1 span.2 ((liveAllocs s loom).map (fun a => (a.base / 4096, a.size / 4096))) with
    | some k, some a => some ⟨k, a⟩
    | _, _ => none

/-- Would the work fit on a loom or half if the context's own work there stayed and nothing else did (`others` false ignores another
holder and its skeins, as after a preemption). (log 67: DESIGN CHOICE) -/
def fitsOn (s : State) (n : Need) (loom : Nat) (east others : Bool) : Bool :=
  let split := loomSplit s loom
  let l := loomOf s loom
  let lease := if east then l.leaseEast else l.leaseWest
  let mine := lease.any (fun x => x.ctx == n.ctx)
  let clear := lease.isNone || (!others && !mine)
  let start := lease.isNone || !mine
  let kind := if split then n.half && (!east || split) else n.whole && !east
  let other := if split then (if east then l.leaseWest else l.leaseEast) else none
  let grow := if start then (if split then 1 else 2) else 0
  let pre := if east then l.preemptEast else l.preemptWest
  loomOpen s loom && kind && (clear || mine) && (pre == .none || !others) && !claimedByOther s loom east n.ctx &&
    (other.isNone || other.any (fun x => mayShare s n.ctx x.ctx)) && halvesHeld s (loom / 32) n.ctx + grow ≤ halfLimit s n.ctx &&
    n.slots ≤ (if split then 16 else 32) &&
    (if mine && others then
      match n.saved with
      | some v => (resumePlaces s v loom east).isSome
      | none => (skeinPlaces n.skeins n.gran (quadsOf s loom east) (takenSkeins s loom)).isSome && (scratchPlace s loom east n.scratch).isSome
    else n.skeins ≤ (quadsOf s loom east).length * quadHolds n.gran && n.scratch ≤ (if split then 128 else 256))

/-! ## Work that waits -/

/-- What waits for a place: a preempted loom or half, or the head dispatch of a queue. -/
inductive Job where
  | resume (v : SavedLoom)
  | start (q : Queue) (e : List Byte)
  deriving DecidableEq, Repr

/-- What a job needs. -/
def Job.need (s : State) (c : Nat) (j : Job) : Need :=
  match j with
  | .resume v => ⟨c, v.whole || halfLimit s c != 1, !v.whole, some v, 0, 1, 0, v.held⟩
  | .start _ e => ⟨c, halfLimit s c != 1, eHalfOk e, none, eSkeins e, eRegs e, eScratch e, eSlots e⟩

/-- The looms of a die that a job admits. -/
def Job.admits (j : Job) (loom : Nat) : Bool :=
  match j with
  | .resume _ => true
  | .start _ e => eLoom e == 0xFF || eLoom e == loom % 32

/-- The jobs of a context on a die: what was preempted, then the head dispatches by queue slot that are not behind a preempted
dispatch of their queue (R286) and, where ORDERED, not behind one that runs (R278). -/
def jobsOf (s : State) (die c : Nat) : List Job :=
  let sv := s.saved.filter (fun v => v.ctx == c && v.loom / 32 == die)
  let held (q : Queue) : Bool := sv.any (fun v => v.dispatches.any (fun i => (tget? s.dispatches i).any (fun d => d.queue == q.handle)))
  sv.map Job.resume ++ s.queues.filterMap (fun x =>
    match x.2.head with
    | some e => if x.2.typ = .compute && x.2.ctx = c && x.2.home = die && !held x.2 && !(eOrdered e && previousRuns s x.2) then some (.start x.2 e) else none
    | none => none)

/-- Has the context work on the die (R285). -/
def hasWork (s : State) (die c : Nat) : Bool :=
  s.queues.any (fun x => x.2.typ == .compute && x.2.ctx == c && x.2.home == die && occupancy x.2 != 0) ||
    s.dispatches.any (fun d => d.2.ctx == c && d.2.loom / 32 == die) || s.saved.any (fun v => v.ctx == c && v.loom / 32 == die)

/-- Where a job fits among looms in an order: the loom and the half. (log 67: DESIGN CHOICE) -/
def placeOf (s : State) (c : Nat) (j : Job) (looms : List Nat) : Option (Nat × Bool) :=
  looms.findSome? (fun loom =>
    if !j.admits loom then none
    else if fitsOn s (j.need s c) loom false true then some (loom, false)
    else if fitsOn s (j.need s c) loom true true then some (loom, true) else none)

/-! ## Placing -/

/-- Add a handle to a set of them. -/
def sinsertW (l : List Word) (h : Word) : List Word := if l.contains h then l else l ++ [h]

/-- Lend a loom or half to a context, or grow what it holds there (R186): a new lease starts with no barrier. (log 25: DESIGN CHOICE) -/
def lend (loom : Nat) (east : Bool) (c slots : Nat) (s : State) : State :=
  let old := leaseOf s loom east
  let mine := old.any (fun x => x.ctx == c)
  let lease : Lease := ⟨c, max slots (if mine then old.elim 0 (fun x => x.slots) else 0), if mine then old.elim 0 (fun x => x.quanta) else 0,
    if mine then old.elim 0 (fun x => x.since) else s.refCount⟩
  let fresh := !mine
  let keepB (b : Nat × Barrier) : Bool := !fresh || !onHalf s loom east 8 b.1
  let i := loom % 32
  let s := chargeV (loom / 32) s
  let s := modChk (loom / 32) (fun k => { k with
    holders := tmod k.holders i [] (fun l => sinsertW l (ctxHandle s c)),
    windowHolders := tmod k.windowHolders i [] (fun l => sinsert l c) }) s
  modLoom loom (fun l => { l with
    wdWest := l.wdWest && east,
    wdEast := l.wdEast && !east,
    barriers := l.barriers.filter keepB,
    leaseWest := if east then l.leaseWest else some lease,
    leaseEast := if east then some lease else l.leaseEast,
    claim := if l.claim.any (fun x => x.2 == east) then none else l.claim }) s

/-- A skein at its start (R271): 32 threads in one group at PC, u0 to u7 from the entry, everything else 0. (log 25: DESIGN CHOICE) -/
def newSkein (c gran base dispatch pc : Nat) (uargs : List Nat) : Skein :=
  ⟨c, gran, base, dispatch, [⟨0xFFFFFFFF, pc, .none⟩], 0, false, [],
    (uargs.zipIdx.filter (fun u => u.1 != 0)).map (fun u => (u.2, BitVec.ofNat 32 u.1)), [], [], 0, [], [], []⟩

/-- Place a head dispatch on a loom or half (R271, R278). -/
def placeDispatch (die : Nat) (q : Queue) (e : List Byte) (loom : Nat) (east : Bool) (s : State) : State :=
  match skeinPlaces (eSkeins e) (eRegs e) (quadsOf s loom east) (takenSkeins s loom), scratchPlace s loom east (eScratch e) with
  | some places, some sc =>
    let id := s.nextDispatch
    let uargs := (List.range 8).map (fun i => bytesAt e (0x10 + 4 * i) 4)
    let base := sc * 4096
    let size := eScratch e * 4096
    let live := liveAllocs s loom
    let s := lend loom east q.ctx (eSlots e) s
    let s := forL places (fun p s => reuseDrop loom p.1 s) s
    let s := modLoom loom (fun l => { l with
      skeins := places.foldl (fun t p => tset t p.1 (newSkein q.ctx (eRegs e) p.2 id (ePc e) uargs)) l.skeins,
      allocs := live ++ [⟨some id, base, size⟩],
      scratch := l.scratch.filter (fun b => b.1 < base || base + size ≤ b.1) }) s
    let d : Dispatch := ⟨id, q.ctx, q.handle, q.cplQ, q.cons, loom, east, !loomSplit s loom, eSkeins e, eRegs e, 0, eSkeins e, cycles s, eSlots e, eScratch e⟩
    bump (schPage die + Reg.SCH_DISPATCHED) 1 (consumeHead q.handle
      { s with dispatches := tset s.dispatches id d, nextDispatch := id + 1 })
  | _, _ => s

/-- A saved barrier with its skein slots moved. (log 62: DESIGN CHOICE) -/
def moveBarrier (slot : Nat → Nat) (b : Barrier) : Barrier :=
  { b with enrolled := listMask ((maskList 64 b.enrolled).map slot), arrived := b.arrived.map (fun t => slot (t / 32) * 32 + t % 32) }

/-- The new skein slot of a saved one. -/
def Places.slot (p : Places) (n : Nat) : Nat := ((p.skeins.find? (fun k => k.1 == n)).map (fun k => k.2.1)).getD n

/-- The new register base of a saved skein. -/
def Places.regBase (p : Places) (n base : Nat) : Nat := ((p.skeins.find? (fun k => k.1 == n)).map (fun k => k.2.2)).getD base

/-- The new address of a saved scratch byte, if an allocation holds it. -/
def Places.addr? (p : Places) (a : Nat) : Option Nat :=
  (p.scratch.find? (fun x => x.1 ≤ a && a < x.1 + x.2.1)).map (fun x => a - x.1 + x.2.2)

/-- Resume what was preempted on a loom or half (R67, R186, R382): the same names, new places. Its save area is free again.
(log 62: DESIGN CHOICE) -/
def resumeOn (v : SavedLoom) (loom : Nat) (east : Bool) (s : State) : State :=
  match resumePlaces s v loom east with
  | none => s
  | some p =>
    let bar (b : Nat) : Nat := b + halfBase east 8
    let fresh := (leaseOf s loom east).isNone
    let wipe (o : Nat) : Bool := p.scratch.any (fun x => x.2.2 ≤ o && o < x.2.2 + x.2.1)
    let s := lend loom east v.ctx v.held s
    let s := forL v.skeins (fun k s => reuseDrop loom (p.slot k.slot) s) s
    let s := modLoom loom (fun l => { l with
      skeins := v.skeins.foldl (fun t k => tset t (p.slot k.slot)
        { shiftWaits (fun a => (p.addr? a).getD a) bar k.skein with base := p.regBase k.slot k.skein.base }) l.skeins,
      barriers := tover l.barriers (v.barriers.map (fun b => (bar b.1, moveBarrier p.slot b.2))),
      scratch := tover (l.scratch.filter (fun b => !wipe b.1)) (v.scratch.filterMap (fun b => (p.addr? b.1).map (fun a => (a, b.2)))),
      allocs := l.allocs.filter (fun a => !(fresh && onHalf s loom east 524288 a.base)) ++
        v.allocs.map (fun a => { a with base := (p.addr? a.base).getD a.base }),
      slots := tover l.slots (shiftTab 0 (halfBase east 16) v.slots) }) s
    let s := modCtx v.ctx (fun x => { x with
      areas := x.areas.filter (fun a => v.area != some a),
      tileErrs := x.tileErrs.map (fun t => if t.loom = v.loom && t.east = v.east then { t with loom := loom, east := east } else t) }) s
    { s with saved := removeFirst s.saved (fun x => x == v),
             dispatches := tmapv s.dispatches (fun i d =>
               if v.dispatches.contains i then { d with loom := loom, east := east, whole := !loomSplit s loom } else d) }

/-- Place a job. -/
def placeJob (die : Nat) (j : Job) (loom : Nat) (east : Bool) (s : State) : State :=
  match j with
  | .resume v => resumeOn v loom east s
  | .start q e => placeDispatch die q e loom east s

/-! ## Virtual time (R285) -/

/-- V of a context on a die, with its fraction in 1/SHARE. -/
def vOf (s : State) (die c : Nat) : Nat := (ctxAt s c).elim 0 (fun x => (ctxDie x die).vtime)

/-- Advance the virtual times of a die by the microseconds since its last evaluation; contexts that gained work catch up with the
least V. (log 67: DESIGN CHOICE) -/
def advanceV (die : Nat) (s : State) : State :=
  let had (c : Nat) : Bool := (ctxAt s c).any (fun x => (ctxDie x die).hadWork)
  let s := chargeV die s
  let old := (ctxsWhere s had).map (vOf s die)
  let least := old.foldl min (old.headD 0)
  let s := forL (ctxsWhere s (fun c => hasWork s die c && !had c)) (fun c s => modCtxDie c die (fun d => { d with vtime := max d.vtime least }) s) s
  let work := ctxsWhere s (hasWork s die)
  { s with ctxs := s.ctxs.map (fun x => (x.1, { x.2 with dies := tmod x.2.dies die .zero (fun d => { d with hadWork := work.contains x.1 }) })) }

/-- The contexts of a die that may start work, least V first, ties by slot. -/
def byV (s : State) (die : Nat) : List Nat :=
  (ctxsWhere s (fun c => ctxMayStart s c && hasWork s die c)).foldl (fun l c =>
    l.takeWhile (fun d => vOf s die d ≤ vOf s die c) ++ c :: l.dropWhile (fun d => vOf s die d ≤ vOf s die c)) []

/-- The next job that fits, of the context with the least V, and its place. -/
def nextPlacement (s : State) (die : Nat) (looms : List Nat) : Option (Job × Nat × Bool) :=
  (byV s die).findSome? (fun c => (jobsOf s die c).findSome? (fun j => (placeOf s c j looms).map (fun p => (j, p))))

/-- Place jobs until none fits. -/
def placeAll (fuel die : Nat) (looms : List Nat) (s : State) : State :=
  match fuel with
  | 0 => s
  | f + 1 =>
    match nextPlacement s die looms with
    | none => s
    | some (j, loom, east) => placeAll f die looms (placeJob die j loom east s)

/-- Head dispatches that name a loom since retired complete (R382). -/
def failRetired (die : Nat) (s : State) : State :=
  forL s.queues (fun x s =>
    match x.2.head with
    | some e => if x.2.typ = .compute && x.2.home = die && eLoom e < 32 && loomRetired s (die * 32 + eLoom e) then headFail die x.2 zsDenied 0xC2 s else s
    | none => s) s

/-- SCHEDULER_ROUND (R285, R287) of a die: a round is counted, V advances, and head dispatches are placed. `prefer` is the order in
which the scheduler tries the looms of the die, which the manual leaves to it. -/
def execSchedulerRound (die : Nat) (prefer : List Nat) (s : State) : Host.Outcome State Fault Refusal :=
  .next (if !dieLive s die then s else
    let s := advanceV die (bump (schPage die + Reg.SCH_HEARTBEAT) 1 s)
    if !pageEnabled s (schPage die) then s else
    let looms := ((prefer.filter (fun i => i < 32) ++ List.range 32).eraseDups).map (fun i => die * 32 + i)
    let s := failRetired die s
    placeAll (s.saved.length + s.queues.length + 1) die looms s)

/-! ## Preemption (R286) -/

/-- Request a preemption of a half (R66): as the rows REQUEST_WEST and REQUEST_EAST do. -/
def requestPreempt (loom : Nat) (east : Bool) (s : State) : State :=
  match (if east then execRequestEast loom s else execRequestWest loom s) with
  | .next t => t
  | _ => s

/-- The looms and halves of a die that a preemption for a job of a context could take: holder's V, start of its hold, loom, half. -/
def victims (s : State) (die c : Nat) (j : Job) : List (Nat × Nat × Nat × Bool) :=
  ((List.range 32).map (fun i => die * 32 + i)).flatMap (fun loom =>
    [false, true].filterMap (fun east =>
      match leaseOf s loom east with
      | none => none
      | some x =>
        if x.ctx != c && vOf s die x.ctx > vOf s die c && 1 ≤ x.quanta && j.admits loom &&
            (if east then (loomOf s loom).preemptEast else (loomOf s loom).preemptWest) == .none && fitsOn s (j.need s c) loom east false
        then some (vOf s die x.ctx, x.since, loom, east) else none))

/-- The candidate of the holder with the greatest V, held longest. (log 67: DESIGN CHOICE) -/
def bestVictim (l : List (Nat × Nat × Nat × Bool)) : Option (Nat × Nat × Nat × Bool) :=
  l.foldl (fun b v => match b with
    | none => some v
    | some w => if v.1 > w.1 || (v.1 == w.1 && v.2.1 < w.2.1) then some v else some w) none

/-- The preemption of a quantum for a context: of its head dispatches that fit on nothing free, the first with a candidate (R286). -/
def quantumVictim (s : State) (die c : Nat) : Option (Nat × Nat × Nat × Bool) :=
  (jobsOf s die c).findSome? (fun j =>
    if (placeOf s c j ((List.range 32).map (fun i => die * 32 + i))).isSome then none else bestVictim (victims s die c j))

/-- SCH_QUANTUM (R286) of a die: a quantum ends. -/
def execSchQuantum (die : Nat) (s : State) : Host.Outcome State Fault Refusal :=
  .next (if !dieLive s die || !pageEnabled s (schPage die) then s else
    let s := advanceV die s
    let s' := match (byV s die).head? with
      | none => s
      | some c =>
        match quantumVictim s die c with
        | none => s
        | some (_, _, loom, east) =>
          bump (schPage die + Reg.SCH_PREEMPTS) 1 (modLoom loom (fun l => { l with claim := some (c, east) }) (requestPreempt loom east s))
    { s' with looms := tmapv s'.looms (fun k l => if k / 32 = die then
        { l with leaseWest := l.leaseWest.map (fun x => { x with quanta := x.quanta + 1 }),
                 leaseEast := l.leaseEast.map (fun x => { x with quanta := x.quanta + 1 }) } else l) })

/-! ## Handle holds (R26) -/

/-- HANDLE_HOLD (R26): a context has reached 64 ZS_HANDLE_INVALID completions within a window. (log 68: DEDUCED) -/
def execHandleHold (c : Nat) (s : State) : Host.Outcome State Fault Refusal :=
  .next (match ctxAt s c with
    | none => s
    | some x =>
      if x.invalid < 64 || x.held then s else
      let s := modCtx c (fun x => { x with held := true, invalid := 0 }) s
      let s := forL (liveDies s) (fun d s => bumpSat (schPage d + Reg.SCH_HOLDS) 1 s) s
      logDry ((liveDies s).headD 0) 5 0x0020 [c] s)

/-- HANDLE_HOLD_END (R26): the 100,000 ticks of a hold are over. -/
def execHandleHoldEnd (c : Nat) (s : State) : Host.Outcome State Fault Refusal := .next (modCtx c (fun x => { x with held := false }) s)

/-- HANDLE_WINDOW_END (R26): the count restarts at the end of a window. -/
def execHandleWindowEnd (c : Nat) (s : State) : Host.Outcome State Fault Refusal := .next (modCtx c (fun x => { x with invalid := 0 }) s)

end Sys2Proof.Machine
end

