-- ==== Sys2Proof/Machine/RngIns.lean ====
section
/-! DEFINITION. RNG.DRAW, RNG.ADV and RNG.BASE (R109, R390). -/

namespace Sys2Proof.Machine

/-- RNG_ page 0 of a die. -/
def rngPage (die : Nat) : Nat := pageAddr .rng die 0 0

/-- The stream that a handle names. -/
def streamAt (s : State) (h : Word) : Option RngStream := tget? s.streams (hSlot h)

/-- The step of a stream (R390). -/
def streamStep (s : State) (r : RngStream) : Nat := wrap 64 ((ctxStep s r.ctx : Int) + r.offset)

/-- Judge an instruction's stream handle (R25, R109) and go on with the stream; a failure faults the lowest thread that takes part, with
SUBCODE 0x01 (R112). -/
def withStream (e : Env) (body : Word → RngStream → State → State) (s : State) : State :=
  let t := (lanes e).headD (lowThread e)
  let h : Word := BitVec.ofNat 64 (src e 0 2 t)
  match presentHandle (rngPage (e.loom / 32)) e.k.ctx h 7 s with
  | (st, s) =>
    if st ≠ zsOk then insFault e st 0x01 0 t s else
    match streamAt s h with
    | none => insFault e zsHandleStale 0x01 0 t s
    | some r => body h r s

/-- RNG.DRAW (R109): each thread takes the four words of its draw index. -/
def execRngDraw (w : Who) (s : State) : Host.Outcome State Fault Refusal :=
  .next (issueRow w (0x34 * 8) (fun _ => true) (fun e s =>
    if (lanes e).isEmpty then uniStart e .ready false 4 0 s else
    withStream e (fun h r s =>
      match (lanes e).find? (fun t => r.base + src e 1 1 t > 0xFFFFFFFF) with
      | some t => insFault e zsDenied 0x36 0 t s
      | none =>
        let st := streamStep s r
        let draw (t : Nat) : Nat :=
          (philox r.key (r.base + src e 1 1 t) (hSlot h) (st % 2 ^ 32) (st / 2 ^ 32)).foldr (fun x a => x + 2 ^ 32 * a) 0
        let s := startLcv e .ready 0 (dstRegs e.ins.w) (regWrites (fDst e.ins.w) 4 ((lanes e).map (fun t => (t, draw t)))) s
        finish e id s) s) s)

/-- RNG.ADV (R109). -/
def execRngAdv (w : Who) (s : State) : Host.Outcome State Fault Refusal :=
  .next (issueRow w (0x34 * 8 + 1) (fun _ => true) (fun e s =>
    withStream e (fun h r s =>
      let b := r.base + src e 1 1 (lowThread e)
      if b > 0xFFFFFFFF then insFault e zsDenied 0x36 0 (lowThread e) s else
      finish e id (startLcv e .ready 0 [] [] { s with streams := tset s.streams (hSlot h) { r with base := b } })) s) s)

/-- RNG.BASE (R109). -/
def execRngBase (w : Who) (s : State) : Host.Outcome State Fault Refusal :=
  .next (issueRow w (0x34 * 8 + 2) (fun _ => true) (fun e s =>
    withStream e (fun _ r s => uniStart e .ready false 1 r.base s) s) s)

end Sys2Proof.Machine
end

