-- ==== Sys2Proof/Machine/Sillage.lean ====
section
/-! DEFINITION. Sillage groups: their tables (R301 to R303), segments and digests (R305, R322), sending and judging them (R308, R311
to R313, R317, R320, R321), and what a retraction does. -/

namespace Sys2Proof.Machine

/-! ## Groups -/

/-- The group in a slot. -/
def silAt (s : State) (g : Nat) : Option SilGroup := tget? s.groups g

/-- Change a group. -/
def modSil (g : Nat) (f : SilGroup → SilGroup) (s : State) : State := { s with groups := tupd s.groups g f }

def gId (g : SilGroup) : Nat := bytesAt g.desc 0 8
/-- REDUCE: 0 SUM, 1 MEAN, 2 LOWRANK. -/
def gReduce (g : SilGroup) : Nat := bytesAt g.desc 8 1 % 4
/-- CLIP: 0 NONE, 1 NORM_TENSOR, 2 NORM_GLOBAL. -/
def gClip (g : SilGroup) : Nat := bytesAt g.desc 8 1 / 4 % 4
def gOutFmt (g : SilGroup) : Nat := bytesAt g.desc 9 1
def gMembers (g : SilGroup) : Nat := bytesAt g.desc 0x0A 1
def gClipMax (g : SilGroup) : Nat := bytesAt g.desc 0x10 4
def gRank (g : SilGroup) : Nat := bytesAt g.desc 0x14 4
def gSpan (g : SilGroup) : Nat := bytesAt g.desc 0x18 4
def gKey (g : SilGroup) : Nat := beBlock ((g.desc.drop 0x20).take 16)
def gParamBase (g : SilGroup) (b : Nat) : Nat := bytesAt g.desc (0x40 + 8 * (b % 2)) 8
def gGrad (g : SilGroup) : Nat := bytesAt g.desc 0x50 8
def gLanding (g : SilGroup) : Nat := bytesAt g.desc 0x58 8
def gLandWindows (g : SilGroup) : Nat := bytesAt g.desc 0x60 4

/-- Sillage acts for the group: its context is not in teardown (R293). -/
def silActs (s : State) (g : SilGroup) : Bool := (ctxAt s g.ctx).any (fun x => x.state == .active)

/-- The step of a group: its context's STEP. -/
def gStep (s : State) (g : SilGroup) : Nat := ctxStep s g.ctx

/-- The members that own a slice. -/
def gOwners (g : SilGroup) : List Nat := (List.range (gMembers g)).filter (fun i => g.slices.any (fun x => x.owner == i))

/-- The indices of the slices that a member owns. -/
def ownedBy (g : SilGroup) (i : Nat) : List Nat := (g.slices.zipIdx.filter (fun x => x.1.owner == i)).map (fun x => x.2)

/-- A slice of a group. -/
def sliceAt (g : SilGroup) (i : Nat) : SilSlice := g.slices.getD i ⟨0, 0, 0, 0, 0, 0, 0, 0⟩

/-- Windows of a slice (R307). -/
def sliceWindows (x : SilSlice) : Nat := divUp x.elems 4096

/-- The number of the first window of a slice in its owner's numbering (R308). -/
def windowBase (g : SilGroup) (i : Nat) : Nat :=
  ((g.slices.take i).filter (fun x => x.owner == (sliceAt g i).owner)).foldl (fun n x => n + sliceWindows x) 0

/-- The slice and place of an owner's window. -/
def windowPlace (g : SilGroup) (o w : Nat) : Option (Nat × Nat) :=
  (ownedBy g o).findSome? (fun i => if windowBase g i ≤ w && w < windowBase g i + sliceWindows (sliceAt g i) then some (i, w - windowBase g i) else none)

/-- First position and extent of window `k` of a slice (R307). -/
def windowSpan (x : SilSlice) (k : Nat) : Nat × Nat := (x.off + 4096 * k, min 4096 (x.elems - 4096 * k))

/-- The lowest window of an owner that is not reduced, as this package's own engine knows it. -/
def lowestOpen (g : SilGroup) : Nat :=
  let n := (ownedBy g (gSelf g)).foldl (fun m i => m + sliceWindows (sliceAt g i)) 0
  ((List.range n).find? (fun w => !g.reduced.contains w)).getD n

/-- The lowest window of a member not yet reduced, as far as credit has told (R308). -/
def creditOfMember (g : SilGroup) (o : Nat) : Nat := if o = gSelf g then lowestOpen g else tgetD g.credit o 0

/-- May a segment for an owner's window be sent now (R308). -/
def windowOpen (g : SilGroup) (o w : Nat) : Bool := w < creditOfMember g o + gLandWindows g

/-! ## Segments and digests (R322) -/

/-- The 32-byte prefix. -/
def segPrefix (x : SilSeg) : List Byte :=
  toBytes 8 x.step ++ toBytes 8 x.gid ++ toBytes 8 x.first ++ toBytes 2 x.slice ++ toBytes 1 x.sender ++ toBytes 1 x.kind ++ toBytes 4 x.count

/-- The segment that a Sillage extension and payload spell. -/
def segOf (body : List Byte) : SilSeg :=
  ⟨bytesAt body 0 8, bytesAt body 8 8, bytesAt body 0x10 8, bytesAt body 0x18 2, bytesAt body 0x1A 1, bytesAt body 0x1B 1, bytesAt body 0x1C 4,
    bytesAt body 0x28 1, bytesAt body 0x29 1, body.drop 48⟩

/-- The digest value of a segment: the GHASH block's 16 bytes as a number, first byte least significant. -/
def segHash (g : SilGroup) (x : SilSeg) : Nat :=
  let p := x.payload ++ zeros ((16 - x.payload.length % 16) % 16)
  ofBytes (toBytes 16 (ghash (gKey g) (segPrefix x ++ p))).reverse

/-- The ring entry of the current step and attempt. (log 71: DESIGN CHOICE) -/
def digestNow (s : State) (g : SilGroup) : SilDigest :=
  let st := gStep s g
  match tget? g.ring (st % 64) with
  | some d => if d.step == st && d.attempt == g.attempt then d else ⟨st, g.attempt, 0, 0⟩
  | none => ⟨st, g.attempt, 0, 0⟩

/-- Enter a segment into a digest of the current step. -/
def digest (gs : Nat) (x : SilSeg) (sent : Bool) (s : State) : State :=
  if x.kind > 6 then s else
  match silAt s gs with
  | none => s
  | some g =>
    let d := digestNow s g
    let h := segHash g x
    modSil gs (fun g => { g with ring := tset g.ring (d.step % 64) (if sent then { d with sent := d.sent ^^^ h } else { d with recv := d.recv ^^^ h }) }) s

/-- A control segment of the current step. (log 71: DESIGN CHOICE) -/
def ctlSeg (s : State) (g : SilGroup) (kind first slice count : Nat) (payload : List Byte) : SilSeg :=
  ⟨gStep s g, gId g, first, slice, gSelf g, kind, count, g.attempt, 0, payload⟩

/-! ## Entries that run -/

/-- Change the running entry with an identifier. -/
def modSilRun (gs run : Nat) (f : SilRun → SilRun) (s : State) : State :=
  modSil gs (fun g => { g with runs := updateFirst g.runs (fun r => r.id == run) f }) s

/-- An answer to one segment of an entry (R305, R306): the first failure is the entry's status; a CLOSE notes the owners that
dropped the contribution. -/
def runAnswer (gs run owner status sub : Nat) (s : State) : State :=
  modSilRun gs run (fun r =>
    let r := if status = zsLateDropped && r.op = 2 then { r with bitmap := r.bitmap ||| 2 ^ owner } else r
    if status = zsOk || r.status ≠ zsOk then r else { r with status := status, sub := sub }) s

/-- An error that a COLLECTIVE entry or store reports (R324, R256). -/
def silError (die c status sub : Nat) (s : State) : State :=
  let p := silPage die
  let s := recErr p c sub status s
  if status = zsPoison then killForPoison p c sub s else if status = zsHandleInvalid then countInvalid c s else s

/-- Post the completion of an entry and forget it. ZS_LATE_DROPPED stands in ERR_FIRST of the engine that detected it (R324). -/
def runEnd (gs : Nat) (r : SilRun) (status sub : Nat) (results : List Nat) (s : State) : State :=
  let c := (silAt s gs).elim 0 (fun g => g.ctx)
  let s := modSil gs (fun g => { g with runs := g.runs.filter (fun x => x.id != r.id) }) s
  let s := if status = zsOk || status = zsLateDropped then s else silError r.die c status sub s
  postCompletion r.cplQ status sub 4 r.queue r.index results s

/-! ## A retraction (R320) -/

/-- An entry whose segments still waited when their attempt or step ended reports them as segments of another (R321).
(log 73: DEDUCED) -/
def dropWaits (r : SilRun) : SilRun :=
  if r.waits.isEmpty then r else { r with waits := [], status := if r.status = zsOk then zsLateDropped else r.status,
                                          sub := if r.status = zsOk then 0x02 else r.sub }

/-- Record the segments that wait when their attempt or step ends, at the engine that drops them (R324). -/
def recDropped (g : SilGroup) (s : State) : State :=
  forL (g.runs.filter (fun r => !r.waits.isEmpty && r.status == zsOk)) (fun r s => recErr (silPage r.die) g.ctx 0x02 zsLateDropped s) s

/-- The pending buffer of the step has unspecified content after a COMMIT that failed (R319): bytes of the parameters are free values.
(log 12: DESIGN CHOICE) -/
def losePending (gs : Nat) (s : State) : State :=
  match silAt s gs with
  | none => s
  | some g =>
    forL g.slices (fun x s =>
      let (d, s) := draw s
      (vWrite (engAt (gDie g) 18) g.ctx (gParamBase g (gStep s g + 1) + x.paramOff)
        ((List.range x.paramBytes).map (fun i => (Config.freeByte d i, false))) s).2) s

/-- The entries that wait in COMMIT end with one status, and a failure loses the pending buffer. (log 75: DEDUCED) -/
def commitsEnd (gs status sub : Nat) (results : List Nat) (s : State) : State :=
  let l := ((silAt s gs).elim [] (fun g => g.runs)).filter (fun r => r.op == 6)
  let s := if status = zsOk || l.isEmpty then s else losePending gs s
  forL l (fun r s => runEnd gs r status sub results s) s

/-- A member takes RETRACT of the current step and attempt: the attempt number rises, what the attempt brought is discarded, and a
COMMIT that waits completes with ZS_RETRACTED; where none waits, the next one of the step does (R319). Who arrived by the deadline
stays settled. (log 73: DEDUCED) -/
def applyRetract (die gs : Nat) (s : State) : State :=
  match silAt s gs with
  | none => s
  | some g =>
    let s := bumpSat (silPage die + Reg.SIL_RETRACT_RX) 1 s
    let s := modSil gs (fun g => { g with
      attempt := (g.attempt + 1) % 256,
      from_ := tmapv g.from_ (fun _ f => { f with dropped := false, got := 0, closed := none, parts := [] }),
      reduced := [], norm := [], norms := [], normSent := false, clips := [], gradFail := [], sent := [], credit := [], paramGot := [],
      updated := [], updateBad := false, retracted := !g.runs.any (fun r => r.op == 6), readySent := false, ready := [], readySecure := false,
      runs := g.runs.map dropWaits,
      ring := tdel g.ring (gStep s g % 64) }) (recDropped g s)
    commitsEnd gs zsRetracted 0 [] s

/-! ## Judging a segment (R311, R312, R317, R321) -/

/-- What an owner holds of a member. -/
def fromOf (g : SilGroup) (i : Nat) : SilFrom := tgetD g.from_ i .none

/-- Change what an owner holds of a member. -/
def modFrom (gs i : Nat) (f : SilFrom → SilFrom) (s : State) : State := modSil gs (fun g => { g with from_ := tmod g.from_ i .none f }) s

/-- Have all members arrived. -/
def allArrived (g : SilGroup) : Bool := (List.range (gMembers g)).all (fun i => (fromOf g i).arrived)

/-- A contribution segment of member `i` arrives (R311, R312): the first one at or before D_s includes the member, a later one does
not; when all have arrived the set is final. -/
def silArrive (gs i : Nat) (s : State) : State :=
  match silAt s gs with
  | none => s
  | some g =>
    let s := if (fromOf g i).arrived || (fromOf g i).excluded then s
      else modFrom gs i (fun f => if g.final || g.deadline < s.time then { f with excluded := true } else { f with arrived := true }) s
    modSil gs (fun g => if allArrived g then { g with final := true } else g) s

/-- Positions of a window that a member has delivered, repeats counted. -/
def deliveredIn (f : SilFrom) (slice first n : Nat) : Nat :=
  (f.parts.filter (fun p => p.slice == slice && first ≤ p.first && p.first < first + n)).foldl (fun m p => m + p.count) 0

/-- What a package answers to a segment: a status, a subcode, and whether the owner must retract for it. -/
structure SilVerdict where
  status : Nat
  sub : Nat
  retract : Option (Nat × Nat)
  deriving DecidableEq, Repr

def SilVerdict.ok : SilVerdict := ⟨zsOk, 0, none⟩

/-- Where a data segment lands in the owner's landing area (R308): the members' window buffers in member order, an owner's windows taking
a member's buffers in turn, and positions within the window in their order. (log 107: DEDUCED) -/
def landingPlace (g : SilGroup) (x : SilSeg) : Nat :=
  let sl := sliceAt g x.slice
  let k := (x.first - sl.off) / 4096
  gLanding g + (x.sender * gLandWindows g + (windowBase g x.slice + k) % gLandWindows g) * 16384 +
    (x.first - (windowSpan sl k).1) * x.payload.length / max 1 x.count

/-- A data or CLOSE segment at the owner (R305, R307, R308, R312): data land in the landing area and wait for their window.
(log 72: DEDUCED; log 107: DEDUCED) -/
def takeContribution (die gs : Nat) (x : SilSeg) (s : State) : SilVerdict × State :=
  let s := silArrive gs x.sender s
  match silAt s gs with
  | none => (.ok, s)
  | some g =>
    if (fromOf g x.sender).excluded then
      let s := modFrom gs x.sender (fun f => { f with dropped := true }) (bumpSat (silPage die + Reg.SIL_LATE) 1 s)
      if x.kind = 2 then (⟨zsLateDropped, 0x01, none⟩, recErr (silPage die) g.ctx 0x01 zsLateDropped s) else (.ok, s)
    else if x.kind = 2 then
      (.ok, modFrom gs x.sender (fun f => { f with closed := some (bytesAt x.payload 0 8, bytesAt x.payload 8 8) }) s)
    else
      let sl := sliceAt g x.slice
      let k := (x.first - sl.off) / 4096
      let (first, n) := windowSpan sl k
      let s := modFrom gs x.sender (fun f => { f with got := f.got + 1, parts := f.parts ++ [⟨x.slice, x.first, x.count, x.payload⟩] }) s
      let again := g.reduced.contains (windowBase g x.slice + k) || deliveredIn (fromOf g x.sender) x.slice first n + x.count > n
      if again then (⟨zsOk, 0, some (zsBadFormat, 0x08)⟩, s)
      else (.ok, (vWrite (engAt die 18) g.ctx (landingPlace g x) (clean x.payload) s).2)

/-- An UPDATE segment at a replica (R317): its bytes go to the pending buffer and are counted. -/
def takeUpdate (die gs : Nat) (x : SilSeg) (s : State) : SilVerdict × State :=
  match silAt s gs with
  | none => (.ok, s)
  | some g =>
    let va := gParamBase g (gStep s g + 1) + (sliceAt g x.slice).paramOff + x.first
    match vWrite (engAt die 18) g.ctx va (clean x.payload) s with
    | (some (c, u, _), s) => (⟨c, u, none⟩, s)
    | (none, s) => (.ok, modSil gs (fun g => { g with paramGot := tmod g.paramGot x.slice 0 (· + x.payload.length) }) s)

/-- Perform an accepted segment. -/
def takeSegment (die gs : Nat) (x : SilSeg) (s : State) : SilVerdict × State :=
  let s := digest gs x false s
  let s := modSil gs (fun g => if x.kind ≤ 2 && g.joined == some x.sender then { g with joined := none } else g) s
  match x.kind with
  | 1 => takeContribution die gs x s
  | 2 => takeContribution die gs x s
  | 3 => (.ok, modSil gs (fun g => { g with norms := tset g.norms x.sender (ofBytes x.payload) }) s)
  | 4 => takeUpdate die gs x s
  | 5 => (.ok, modSil gs (fun g => { g with ready := sinsert g.ready x.sender, readySecure := g.readySecure || bit (bytesAt x.payload 0 1) 0 }) s)
  | _ => (.ok, applyRetract die gs s)

/-- May a data segment be addressed to this package: its slice exists, is owned here, and holds its positions. -/
def segFits (g : SilGroup) (x : SilSeg) : Bool :=
  let sl := sliceAt g x.slice
  x.sender < gMembers g &&
  (x.kind != 1 || (x.slice < g.slices.length && sl.owner == gSelf g && sl.off ≤ x.first && x.first + x.count ≤ sl.off + sl.elems)) &&
  (x.kind != 4 || (x.slice < g.slices.length && x.first + x.payload.length ≤ sl.paramBytes))

/-- The verdict on a segment by step and attempt (R321). -/
inductive StepVerdict where
  | accept | hold | late | skew
  deriving DecidableEq, Repr

/-- Judge a segment's step and attempt (R320, R321, R397). -/
def stepVerdict (s : State) (g : SilGroup) (x : SilSeg) : StepVerdict :=
  let st := gStep s g
  if g.mode == .restoring || g.mode == .joining then .skew
  else if x.kind == 6 && x.step < st then .late
  else if x.step == st && x.attempt == g.attempt then .accept
  else if x.step == st + 1 then .hold
  else .skew

/-- Judge a segment that is not held: accepted and performed, or discarded (R320, R321). (log 72: DEDUCED) -/
def judgeSeg (die gs : Nat) (x : SilSeg) (s : State) : SilVerdict × State :=
  match silAt s gs with
  | none => (⟨zsStaleContext, 0, none⟩, s)
  | some g =>
    match stepVerdict s g x with
    | .accept => if segFits g x then takeSegment die gs x s else (⟨zsBadFormat, 0x07, none⟩, s)
    | .late =>
      (.ok, logPage (silPage die) 0x0050 [gs, x.step % 2 ^ 32, x.step / 2 ^ 32]
        (setPend (silPage die) 4 (bumpSat (silPage die + Reg.SIL_LATE_RETRACT) 1 s)))
    | _ => (⟨zsLateDropped, 0x02, none⟩, recErr (silPage die) g.ctx 0x02 zsLateDropped (bumpSat (silPage die + Reg.SIL_STEP_SKEW) 1 s))

/-! ## Sending -/

/-- Send a segment to another member (R305): a Sillage packet with the member's role epoch, step, attempt and check word. -/
def silSendOut (die gs i : Nat) (x : SilSeg) (run : Option Nat) (s : State) : State :=
  match silAt s gs with
  | none => s
  | some g =>
    let m := g.members.getD i ⟨0, 0, 0⟩
    let tag := s.nextTag
    let own := ctxHandle s g.ctx
    let p := mkPacket s m.position opSil (Config.memberCtx m.position m.endpoint) m.endpoint false m.epoch false
      (silExt (segPrefix x) own x.attempt x.fmt tag ++ x.payload)
    let s := bump (silPage die + Reg.SIL_SEG_TX) 1 (digest gs x true s)
    let s := match run with | some r => modSilRun gs r (fun r => { r with tags := sinsert r.tags tag }) s | none => s
    let (sent, s) := fabIssue ⟨tag, .sil, die, 0, own, 0, 0, 0, 0, 0, if x.kind = 7 then .join gs i else .sil gs i⟩ p s
    if sent then s else
    let s := fabFail tag zsUnreachable 0 s
    match run with | some r => runAnswer gs r i zsUnreachable 0 (modSilRun gs r (fun r => { r with tags := sdel r.tags tag }) s) | none => s

/-- The owner retracts the step (R320): RETRACT goes to every member, itself included. -/
def retractStep (die gs : Nat) (run : Option Nat) (s : State) : State :=
  match silAt s gs with
  | none => s
  | some g =>
    let x := ctlSeg s g 6 0 0 0 []
    let s := bumpSat (silPage die + Reg.SIL_RETRACT_TX) 1 s
    let s := forL ((List.range (gMembers g)).filter (fun i => i != gSelf g)) (fun i s => silSendOut die gs i x run s) s
    let s := bump (silPage die + Reg.SIL_SEG_RX) 1 (bump (silPage die + Reg.SIL_SEG_TX) 1 (digest gs x false (digest gs x true s)))
    applyRetract die gs s

/-- The owner retracts for a failure that it detected (R324). -/
def retractFor (die gs status sub : Nat) (s : State) : State :=
  match silAt s gs with
  | none => s
  | some g => retractStep die gs none (recErr (silPage die) g.ctx sub status s)

/-- A group that restores or joins sends no segment, one that is filled no contribution (R397, R403). (log 73: DEDUCED) -/
def silMute (g : SilGroup) (kind : Nat) : Bool :=
  match g.mode with
  | .ordinary => false
  | .restoring => true
  | .joining => true
  | _ => kind ≤ 2

/-- Send a segment to a member; one to this package itself is judged at once. What a mute group may not send is answered as a
segment of another step. -/
def silSend (die gs i : Nat) (x : SilSeg) (run : Option Nat) (s : State) : State :=
  match silAt s gs with
  | none => s
  | some g =>
    if silMute g x.kind then
      (match run with | some r => runAnswer gs r i zsLateDropped 0x02 (recErr (silPage die) g.ctx 0x02 zsLateDropped s) | none => s)
    else if i ≠ gSelf g then silSendOut die gs i x run s else
    let s := bump (silPage die + Reg.SIL_SEG_RX) 1 (bump (silPage die + Reg.SIL_SEG_TX) 1 (digest gs x true s))
    let (v, s) := judgeSeg die gs x s
    let s := match run with | some r => runAnswer gs r i v.status v.sub s | none => s
    match v.retract with
    | some (c, u) => retractFor die gs c u s
    | none => s

/-- Count a data segment that is sent to an owner, for its CLOSE (R306). (log 72: DEDUCED) -/
def countSent (gs o : Nat) (s : State) : State := modSil gs (fun g => { g with sent := tmod g.sent o 0 (· + 1) }) s

/-- Send the waiting segments of an entry that credit admits, each owner's in order (R308). -/
def silRunPump (fuel gs run : Nat) (s : State) : State :=
  match fuel with
  | 0 => s
  | f + 1 =>
    match silAt s gs with
    | none => s
    | some g =>
      match g.runs.find? (fun r => r.id == run) with
      | none => s
      | some r =>
        match (if silActs s g then r.waits.find? (fun w => windowOpen g w.owner w.window) else none) with
        | none => s
        | some w =>
          let s := modSilRun gs run (fun r => { r with waits := removeFirst r.waits (fun x => x == w) }) s
          silRunPump f gs run (silSend r.die gs w.owner w.seg (some run) (countSent gs w.owner s))

/-- Send what every running entry of a group may send. -/
def silPump (gs : Nat) (s : State) : State :=
  match silAt s gs with
  | none => s
  | some g => forL g.runs (fun r s => silRunPump (r.waits.length + 1) gs r.id s) s

/-! ## Window credit (R308, R330) -/

/-- What a SIL_ACK carries in the extension's word at 0x08: the sender's lowest window not yet reduced, its member index, and the attempt
and step in which that holds. (log 71: DESIGN CHOICE) -/
def creditWord (s : State) (g : SilGroup) : Nat := lowestOpen g % 2 ^ 32 + gSelf g * 2 ^ 32 + g.attempt * 2 ^ 40 + gStep s g % 2 ^ 16 * 2 ^ 48

/-- Acknowledge a segment; the acknowledgement returns credit. -/
def ackSegment (gs : Nat) (p : Packet) (s : State) : State :=
  sendResponse p.epHome p.src opSilAck (pktIssuer p).1 false
    (respExt (pktIssuer p).2 zsOk 0 ((silAt s gs).elim 0 (creditWord s))) s

/-- Acknowledge a segment, or answer its failure (R308, R332). -/
def silAnswer (gs : Nat) (p : Packet) (status sub : Nat) (s : State) : State :=
  if status = zsOk then ackSegment gs p s else nackPkt p.epHome p status sub s

/-- The owner has reduced a window: every other member gets a SIL_ACK that answers no segment (SUBCODE 1) and returns credit. -/
def returnCredit (gs : Nat) (s : State) : State :=
  match silAt s gs with
  | none => s
  | some g =>
    forL ((List.range (gMembers g)).filter (fun i => i != gSelf g)) (fun i s =>
      let m := g.members.getD i ⟨0, 0, 0⟩
      sendResponse (gDie g) m.position opSilAck (Config.memberCtx m.position m.endpoint) false (respExt 0 zsOk 1 (creditWord s g)) s) s

/-- A member takes the credit of a SIL_ACK for its context's group, where it is of its own step and attempt. Answers the group. -/
def takeCredit (p : Packet) (s : State) : Option Nat × State :=
  let w := bytesAt p.body 8 8
  match s.groups.find? (fun x => x.2.ctx == p.ctxSlot) with
  | none => (none, s)
  | some (gs, g) =>
    let o := w / 2 ^ 32 % 2 ^ 8
    if o < gMembers g && w / 2 ^ 40 % 2 ^ 8 == g.attempt && w / 2 ^ 48 == gStep s g % 2 ^ 16 then
      (some gs, modSil gs (fun g => { g with credit := tset g.credit o (max (tgetD g.credit o 0) (w % 2 ^ 32)) }) s)
    else (some gs, s)

/-- Judge the segments held for the step that has begun, oldest first (R321): each is answered as it is judged. -/
def rejudgeHeld (gs : Nat) (s : State) : State :=
  match silAt s gs with
  | none => s
  | some g =>
    let s := modSil gs (fun g => { g with held := [] }) s
    forL g.held (fun p s =>
      let x := segOf p.body
      let (v, s) := judgeSeg (gDie g) gs x s
      let s := silAnswer gs p v.status v.sub s
      match v.retract with
      | some (c, u) => retractFor (gDie g) gs c u s
      | none => s) s

/-- An UPDATE ends with a status (R318, R320): its bytes count for the attempt in which it was taken, another status than ZS_OK keeps
READY back in that attempt, and a failed check makes the owner retract the step. -/
def updateEnded (gs : Nat) (r : SilRun) (s : State) : State :=
  match silAt s gs with
  | none => s
  | some g =>
    let here := r.step = gStep s g
    if here && r.status = zsCheckFail then retractStep r.die gs none s
    else if !here || r.attempt ≠ g.attempt then s
    else if r.status = zsOk then modSil gs (fun g => { g with updated := tmod g.updated r.slice 0 (· + r.bytes) }) s
    else modSil gs (fun g => { g with updateBad := true }) s

/-- End the CONTRIB, CLOSE, UPDATE and RETRACT entries whose every segment is answered (R306). (log 73: DEDUCED) -/
def silFinish (gs : Nat) (s : State) : State :=
  forL (((silAt s gs).elim [] (fun g => g.runs)).filter (fun r => [1, 2, 5, 7].contains r.op && r.tags.isEmpty && r.waits.isEmpty)) (fun r s =>
    let results := if r.op = 2 then [r.bitmap % 2 ^ 32, r.bitmap / 2 ^ 32] else []
    let s := runEnd gs r r.status r.sub results s
    if r.op ≠ 5 then s else updateEnded gs r s) s

/-- Send what credit admits, then end the entries that are answered. -/
def silSettle (gs : Nat) (s : State) : State := silFinish gs (silPump gs s)

/-- The answer to a segment sent out arrives at its issuer (R305, R308, R332). -/
def silAnswered (gs i tag status sub : Nat) (s : State) : State :=
  match (silAt s gs).bind (fun g => g.runs.find? (fun r => r.tags.contains tag)) with
  | none => silSettle gs s
  | some r =>
    let s := runAnswer gs r.id i status sub (modSilRun gs r.id (fun r => { r with tags := sdel r.tags tag }) s)
    silSettle gs s

end Sys2Proof.Machine
end

