-- ==== Sys2Proof/Machine/SilCmd.lean ====
section
/-! DEFINITION. The entries of COLLECTIVE queues (R305, R306, R311, R314, R317, R320, R322) but COMMIT, and the owner's work in a step
(R309 to R316, R318). -/

namespace Sys2Proof.Machine

/-! ## Taking an entry (R276, R277, R306) -/

/-- A COLLECTIVE entry that has been taken. -/
structure SilJob where
  die : Nat
  ctx : Nat
  queue : Word
  cplQ : Word
  index : Nat
  entry : List Byte
  group : Nat
  deriving DecidableEq, Repr

/-- The entry completes at once. A late drop stands in ERR_FIRST of the engine that detected it (R324). -/
def silDone (j : SilJob) (status sub : Nat) (results : List Nat) (s : State) : State :=
  let s := if status = zsOk then s else silError j.die j.ctx status sub s
  postCompletion j.cplQ status sub 4 j.queue j.index results s

/-- Bytes of an entry from an offset are all zero. -/
def restZero (e : List Byte) (off n : Nat) : Bool := bytesAt e off n == 0

/-- Is an entry malformed by its own layout (Table R306). -/
def collectiveBad (e : List Byte) : Bool :=
  !restZero e 1 7 ||
  (match bytesAt e 0 1 with
  | 1 => !restZero e 0x25 3 || !restZero e 0x30 16 || bytesAt e 0x20 4 == 0 || bytesAt e 0x24 1 / 64 != 0
  | 2 => !restZero e 0x18 40 || bytesAt e 0x10 8 == 0
  | 3 => !restZero e 0x18 40
  | 4 => !restZero e 0x12 46
  | 5 => !restZero e 0x1A 2 || !restZero e 0x24 28
  | 6 => !restZero e 0x10 48
  | 7 => !restZero e 0x10 48
  | 8 => !restZero e 0x20 32
  | _ => true)

/-- Take the head entry of a COLLECTIVE queue that `mine` takes: the queue's context may start work. A malformed entry, or one whose
group handle fails, completes. (log 78: DEDUCED) -/
def silStart (die slot : Nat) (mine : Nat → Bool) (body : SilJob → SilGroup → State → State) (s : State) : State :=
  match tget? s.queues (die * 16384 + slot) with
  | none => s
  | some q =>
    if q.typ ≠ .collective || occupancy q = 0 || !ctxMayStart s q.ctx || !txFits s q.ctx die 1 || !pageEnabled s (silPage die) then s else
    let (r, s') := vRead (engAt die 18) q.ctx (entryVa q q.cons) 64 s
    let e := match r with | .ok b => bare b | .error _ => []
    if (match r with | .ok _ => true | .error _ => false) && !mine (bytesAt e 0 1) then s else
    let s' := consumeHead q.handle s'
    let h : Word := BitVec.ofNat 64 (bytesAt e 8 8)
    let j : SilJob := ⟨die, q.ctx, q.handle, q.cplQ, q.cons, e, hSlot h⟩
    match r with
    | .error (c, u, _) => silDone j c u [] s'
    | .ok _ =>
      if collectiveBad e then silDone j zsBadDescriptor 0x0D [] s' else
      let st := judgeHandle s' (ctxHandle s' q.ctx) h 5
      if st ≠ zsOk then silDone j st 0 [] s' else
      match silAt s' (hSlot h) with
      | none => silDone j zsHandleStale 0 [] s'
      | some g => body j g s'

/-- Begin an entry that runs on: its identifier in the group. (log 69: DEDUCED) -/
def silRunBegin (j : SilJob) (g : SilGroup) (slice bytes : Nat) (waits : List SilWait) (s : State) : State :=
  modSil j.group (fun x => { x with
    nextRun := g.nextRun + 1,
    runs := x.runs ++ [⟨g.nextRun, j.queue, j.index, j.cplQ, bytesAt j.entry 0 1, slice, bytes, j.die, [], waits, zsOk, 0, 0, gStep s g, g.attempt⟩] }) s

/-! ## Contributions (R305) -/

/-- A run of contribution positions: the first, and the elements' codes; scale bytes of its blocks. -/
structure SilRow where
  first : Nat
  codes : List Nat
  scales : List Nat
  deriving DecidableEq, Repr

/-- Cut positions into segments: at most 1,024 positions, within one window of one slice. Answers slice index, first position and
count of each; none where a position lies outside every slice. -/
def cutSegments (slices : List SilSlice) (fuel first n : Nat) : Option (List (Nat × Nat × Nat)) :=
  match fuel with
  | 0 => some []
  | f + 1 =>
    if n = 0 then some [] else
    match slices.zipIdx.find? (fun x => x.1.off ≤ first && first < x.1.off + x.1.elems) with
    | none => none
    | some (x, i) =>
      let (w, m) := windowSpan x ((first - x.off) / 4096)
      let k := min (min n 1024) (w + m - first)
      (cutSegments slices f (first + k) (n - k)).map (fun l => (i, first, k) :: l)

/-- The segments of a row; none where R305 refuses it. -/
def rowSegments (s : State) (g : SilGroup) (fmt mode : Nat) (r : SilRow) : Option (List SilWait) :=
  let b := blockSize mode
  if r.first % b ≠ 0 then none else
  match cutSegments g.slices (r.codes.length + 1) r.first r.codes.length with
  | none => none
  | some l =>
    if l.any (fun x => (sliceAt g x.1).fmt != fmt || (sliceAt g x.1).mode != mode) then none else
    some (l.map (fun x =>
      let i := x.1
      let first := x.2.1
      let n := x.2.2
      let at' := first - r.first
      let codes := ((r.codes.drop at').take n).map (fun c => (c, false))
      let scales := if mode = 0 then [] else ((r.scales.drop (at' / b)).take (divUp n b)).flatMap (toBytes 1)
      ⟨(sliceAt g i).owner, windowBase g i + (first - (sliceAt g i).off) / 4096,
        ⟨gStep s g, gId g, first, i, gSelf g, 1, n, g.attempt, fmt + mode * 16, bare (packCodes (fmtWidth fmt) codes) ++ scales⟩⟩))

/-- The segments of several rows. -/
def rowsSegments (s : State) (g : SilGroup) (fmt mode : Nat) (rows : List SilRow) : Option (List SilWait) :=
  (rows.mapM (rowSegments s g fmt mode)).map (fun l => l.flatMap id)

/-- CONTRIB (R305, R306, R376): the source is verified and read whole, checked whole, then handed. An opcode that Table R306 does
not give ends here. (log 78: DEDUCED) -/
def execContrib (die slot : Nat) (s : State) : Host.Outcome State Fault Refusal :=
  .next (silStart die slot (fun op => op == 1 || op == 0 || op > 8) (fun j g s =>
    let e := j.entry
    let n := bytesAt e 0x20 4
    let fmt := bytesAt e 0x24 1 % 16
    let mode := bytesAt e 0x24 1 / 16
    let rs := (bytesAt e 0x10 8, divUp (n * fmtWidth fmt) 8) :: (if mode = 0 then [] else [(bytesAt e 0x28 8, divUp n (blockSize mode))])
    match opRead (engAt die 18) (silPage die) j.ctx rs s with
    | (.error (c, u, _), s) => silDone j c (if c = zsCheckFail then 0 else u) [] s
    | (.ok bs, s) =>
      if bs.any (fun b => b.any (fun x => x.2)) then silDone j zsPoison 0x04 [] s else
      let data := bare (bs.getD 0 [])
      let row : SilRow := ⟨bytesAt e 0x18 8, (List.range n).map (rowCode data (fmtWidth fmt)), (bare (bs.getD 1 [])).map (fun b => b.toNat)⟩
      match rowSegments s g fmt mode row with
      | none => silDone j zsBadFormat 0x07 [] s
      | some ws => silSettle j.group (silRunBegin j g 0 0 ws s)) s)

/-- Segments handed toward an owner: sent, and waiting for credit. -/
def handedTo (g : SilGroup) (o : Nat) : Nat :=
  tgetD g.sent o 0 + g.runs.foldl (fun n r => n + r.waits.countP (fun w => w.owner == o)) 0

/-- CLOSE (R306): SAMPLES, the segment count and the end of the contribution go to every owner. -/
def execClose (die slot : Nat) (s : State) : Host.Outcome State Fault Refusal :=
  .next (silStart die slot (fun op => op == 2) (fun j g s =>
    let s := silRunBegin j g 0 0 [] s
    silSettle j.group (forL (gOwners g) (fun o s =>
      silSend die j.group o (ctlSeg s g 2 0 0 16 (toBytes 8 (bytesAt j.entry 0x10 8) ++ toBytes 8 (handedTo g o))) (some g.nextRun) s) s)) s)

/-- OPEN (R311): the deadline of the step, where it is consumed before D_s. -/
def execOpen (die slot : Nat) (s : State) : Host.Outcome State Fault Refusal :=
  .next (silStart die slot (fun op => op == 3) (fun j g s =>
    silDone j zsOk 0 [] (if g.deadline ≤ s.time then s else modSil j.group (fun g => { g with deadline := bytesAt j.entry 0x10 8 }) s)) s)

/-- AWAIT (R306, R314): the entry waits for its slice's reduced gradient. -/
def execAwait (die slot : Nat) (s : State) : Host.Outcome State Fault Refusal :=
  .next (silStart die slot (fun op => op == 4) (fun j g s =>
    let i := bytesAt j.entry 0x10 2
    if i ≥ g.slices.length || (sliceAt g i).owner ≠ gSelf g then silDone j zsDenied 0x86 [] s
    else silRunBegin j g i 0 [] s) s)

/-- An UPDATE for a slice owned here completes without being sent (R318, R320, R378): READY is held back, and a failed check makes the
owner retract. -/
def updateRefused (j : SilJob) (status sub : Nat) (s : State) : State :=
  let s := silDone j status sub [] s
  if status = zsCheckFail then silSettle j.group (retractStep j.die j.group none s)
  else modSil j.group (fun g => { g with updateBad := true }) s

/-- UPDATE (R317, R376): the source is verified and read, and its bytes go to every member. (log 74: DEDUCED) -/
def execUpdate (die slot : Nat) (s : State) : Host.Outcome State Fault Refusal :=
  .next (silStart die slot (fun op => op == 5) (fun j g s =>
    let e := j.entry
    let i := bytesAt e 0x18 2
    let off := bytesAt e 0x1C 4
    let n := bytesAt e 0x20 4
    if i ≥ g.slices.length || (sliceAt g i).owner ≠ gSelf g then silDone j zsBadDescriptor 0x0D [] s else
    if off + n > (sliceAt g i).paramBytes then updateRefused j zsBadDescriptor 0x0D s else
    match opRead (engAt die 18) (silPage die) j.ctx [(bytesAt e 0x10 8, n)] s with
    | (.error (c, u, _), s) => updateRefused j c (if c = zsCheckFail then 0 else u) s
    | (.ok bs, s) =>
      let l := bs.headD []
      if l.any (fun x => x.2) then updateRefused j zsPoison 0x04 s else
      let s := silRunBegin j g i n [] s
      let cuts := (chunks 4096 (n / 4096 + 1) (bare l)).zipIdx
      silSettle j.group (forL cuts (fun c s => forL (List.range (gMembers g)) (fun m s =>
        silSend die j.group m (ctlSeg s g 4 (off + c.2 * 4096) i c.1.length c.1) (some g.nextRun) s) s) s)) s)

/-- RETRACT (R306, R320): an owner retracts the step. (log 74: DEDUCED) -/
def execRetract (die slot : Nat) (s : State) : Host.Outcome State Fault Refusal :=
  .next (silStart die slot (fun op => op == 7) (fun j g s =>
    if (ownedBy g (gSelf g)).isEmpty then silDone j zsBadDescriptor 0x0D [] s else
    if silMute g 6 then silDone j zsLateDropped 0x02 [] s else
    silSettle j.group (retractStep die j.group (some g.nextRun) (silRunBegin j g 0 0 [] s))) s)

/-- DIGEST (R306, R322): the ring entry of a step is written to memory. -/
def execDigest (die slot : Nat) (s : State) : Host.Outcome State Fault Refusal :=
  .next (silStart die slot (fun op => op == 8) (fun j g s =>
    let step := bytesAt j.entry 0x18 8
    let d := if step = gStep s g then some (digestNow s g) else (tget? g.ring (step % 64)).bind (fun d => if d.step == step then some d else none)
    match d with
    | none => silDone j zsDenied 0x85 [] s
    | some d =>
      match vWrite (engAt die 18) j.ctx (bytesAt j.entry 0x10 8)
          (clean (toBytes 8 d.step ++ toBytes 4 d.attempt ++ zeros 4 ++ toBytes 16 d.sent ++ toBytes 16 d.recv)) s with
      | (some (c, u, _), s) => silDone j c u [] s
      | (none, s) => silDone j zsOk 0 [] s) s)

/-! ## The included set (R311, R312) -/

/-- The members included in the step. -/
def included (g : SilGroup) : List Nat := (List.range (gMembers g)).filter (fun i => (fromOf g i).arrived)

/-- SIL_DEADLINE (R312): D_s has passed; members that have not arrived are excluded, and a set with nobody in it makes the owner
retract. (log 3: DESIGN CHOICE) -/
def execSilDeadline (gs : Nat) (s : State) : Host.Outcome State Fault Refusal :=
  .next (match silAt s gs with
    | none => s
    | some g =>
      if g.final || s.time ≤ g.deadline || !silActs s g || g.mode ≠ .ordinary || (ownedBy g (gSelf g)).isEmpty then s else
      let s := forL (List.range (gMembers g)) (fun i s =>
        if (fromOf g i).arrived then s else modFrom gs i (fun f => { f with excluded := true }) s) (modSil gs (fun g => { g with final := true }) s)
      if (included g).isEmpty then silSettle gs (retractFor (gDie g) gs zsTimeout 0x92 s) else s)

/-- Do segments of a member cover a window (R307). -/
def windowCovered (parts : List SilPart) (slice fuel first n : Nat) : Bool :=
  match fuel with
  | 0 => n == 0
  | f + 1 =>
    if n = 0 then true else
    match parts.find? (fun p => p.slice == slice && p.first ≤ first && first < p.first + p.count) with
    | none => false
    | some p => let k := min n (p.first + p.count - first); windowCovered parts slice f (first + k) (n - k)

/-- Has a member completed window `w` of this owner (R307). -/
def memberWindow (g : SilGroup) (i w : Nat) : Bool :=
  g.reduced.contains w ||
  match windowPlace g (gSelf g) w with
  | none => true
  | some (sl, k) => let (first, n) := windowSpan (sliceAt g sl) k; windowCovered (fromOf g i).parts sl (n + 1) first n

/-- The number of windows of this owner. -/
def ownWindows (g : SilGroup) : Nat := (ownedBy g (gSelf g)).foldl (fun n i => n + sliceWindows (sliceAt g i)) 0

/-- Is a member's contribution complete (R307). -/
def contributionDone (g : SilGroup) (i : Nat) : Bool :=
  (fromOf g i).closed.any (fun c => c.2 == (fromOf g i).got) && (List.range (ownWindows g)).all (memberWindow g i)

/-- The divisor D (R312): the SAMPLES of the included contributions, as a 64-bit count. (log 75: DEDUCED) -/
def divisorOf (g : SilGroup) : Nat := ((included g).foldl (fun n i => n + ((fromOf g i).closed.elim 0 (fun c => c.1))) 0) % 2 ^ 64

/-- STALL_LIMIT of a group. -/
def gStall (g : SilGroup) : Nat := bytesAt g.desc 0x1C 4

/-- Owners other than this package whose NORM a global clip needs. -/
def normOwners (g : SilGroup) : List Nat := (gOwners g).filter (fun o => o != gSelf g)

/-- SIL_STALL_LIMIT (R306, R312, R316): D_s + STALL_LIMIT has passed with an included contribution incomplete or a NORM missing, and
the owner retracts; or, with `entry` set, the limit of the oldest RETRACT entry has passed and it completes.
(log 3: DESIGN CHOICE; log 74: DEDUCED) -/
def execSilStallLimit (gs : Nat) (entry : Bool) (s : State) : Host.Outcome State Fault Refusal :=
  .next (match silAt s gs with
    | none => s
    | some g =>
      if entry then
        (match g.runs.find? (fun r => r.op == 7) with
          | none => s
          | some r => runEnd gs r zsOk 0 [] s)
      else if !g.final || s.time < g.deadline + gStall g || !silActs s g || g.mode ≠ .ordinary || (ownedBy g (gSelf g)).isEmpty then s
      else if !(included g).all (contributionDone g) then silSettle gs (retractFor (gDie g) gs zsTimeout 0x90 s)
      else if gClip g = 2 && !(normOwners g).all (fun o => g.norms.any (fun x => x.1 == o)) then silSettle gs (retractFor (gDie g) gs zsTimeout 0x93 s)
      else s)

/-! ## Reduction (R309, R310, R313, R315) -/

/-- The bound of a lane in units of 2^(−160): it holds −2^383 to 2^383 − 1 of them. -/
def laneBound : Nat := 2 ^ 383

/-- An exact sum as a count of units of 2^(−160). -/
def laneUnits (d : Dy) : Int := if d.e + 160 ≥ 0 then d.m * ((2 ^ (d.e + 160).toNat : Nat) : Int) else d.m / ((2 ^ (-(d.e + 160)).toNat : Nat) : Int)

/-- Did an exact sum leave the lane's range (R309). -/
def laneLeft (d : Dy) : Bool := let u := laneUnits d; u ≥ (laneBound : Int) || u < -(laneBound : Int)

/-- The value of a position from a member's parts. -/
def partValue (fmt mode : Nat) (parts : List SilPart) (slice pos : Nat) : Val :=
  match parts.find? (fun p => p.slice == slice && p.first ≤ pos && pos < p.first + p.count) with
  | none => .zero
  | some p =>
    let j := pos - p.first
    let w := fmtWidth fmt
    let v := decodeElem fmt (rowCode p.payload w j)
    if mode = 0 then v else scaled (bytesAt p.payload (divUp (p.count * w) 8 + j / blockSize mode) 1) v

/-- The value that a lane writes for a position (R310): the reduced value's code, and whether the sum left the lane's range. -/
def laneResult (g : SilGroup) (vals : List Val) : Nat × Bool :=
  let x := vals.foldl ExactSum.add .empty
  let fmt := gOutFmt g
  let left := !x.nan && !x.pinf && !x.ninf && laneLeft x.dy
  let v : Val := if left then .inf (decide (x.dy.m < 0)) else sumVal x
  let v : Val := if gReduce g ≠ 1 then v else
    match v with
    | .fin neg m e =>
      if m = 0 || divisorOf g = 0 then .fin neg m e else
      let (q, f) := divSticky m e (divisorOf g) 0
      .fin neg q f
    | v => v
  ((convert fmt false .rne v).code, left)

/-- Is a window ready to be reduced (R312, R313): every member not excluded has completed it, all of them before the set is final; a
mean needs every included CLOSE. -/
def windowReady (g : SilGroup) (w : Nat) : Bool :=
  g.mode == .ordinary && w < ownWindows g && !g.reduced.contains w &&
  ((List.range (gMembers g)).all (fun i => (g.final && (fromOf g i).excluded) || memberWindow g i w)) &&
  (!g.final || !(included g).isEmpty) && (gReduce g != 1 || (g.final && (included g).all (fun i => (fromOf g i).closed.isSome)))

/-- The address of a factor element in the concatenated arrays (R315). -/
def lowrankAddr (g : SilGroup) (sl : SilSlice) (i pos : Nat) : Nat :=
  let n := gMembers g
  let r := gRank g
  let p := pos - sl.off
  gGrad g + 2 * (n * sl.off + p / r * (n * r) + i * r + p % r)

/-- The squares of written elements (R316): exact units of 2^(−160), truncated, and whether one was non-finite. -/
def squareUnits (codes : List Nat) : SilNorm :=
  codes.foldl (fun a c =>
    match fp32 c with
    | .fin _ m e =>
      let k := 2 * e + 160
      { a with sum := a.sum + (if k ≥ 0 then m * m * 2 ^ k.toNat else m * m / 2 ^ (-k).toNat) }
    | _ => { a with nonfin := true }) ⟨0, false⟩

/-- The die whose lanes reduce a window (R309). -/
def reduceDie (s : State) (w : Nat) : Nat := let l := liveDies s; l.getD (w % l.length) 0

/-- Drop the parts of a reduced window. -/
def dropParts (slice first n : Nat) (f : SilFrom) : SilFrom :=
  { f with parts := f.parts.filter (fun p => !(p.slice == slice && first ≤ p.first && p.first < first + n)) }

/-- Send this owner's NORM to the other owners once its own slices are all reduced (R316). (log 71: DESIGN CHOICE) -/
def normSend (die gs : Nat) (s : State) : State :=
  match silAt s gs with
  | none => s
  | some g =>
    if gClip g ≠ 2 || g.normSent || g.reduced.length < ownWindows g then s else
    let own := ownedBy g (gSelf g)
    let total := own.foldl (fun n i => n + (tgetD g.norm i ⟨0, false⟩).sum) 0
    let bad := own.any (fun i => (tgetD g.norm i ⟨0, false⟩).nonfin)
    let word := if bad then 2 ^ 384 - 1 else if total ≥ laneBound then 2 ^ 384 - 2 else total
    let s := modSil gs (fun g => { g with normSent := true }) s
    forL (normOwners g) (fun o s => silSend die gs o (ctlSeg s g 3 0 0 48 (toBytes 48 word)) none s) s

/-- The windows of a slice are all reduced. -/
def sliceReduced (g : SilGroup) (i : Nat) : Bool :=
  (List.range (sliceWindows (sliceAt g i))).all (fun k => g.reduced.contains (windowBase g i + k))

/-- Lanes of a die that norm sums hold (R483): of each slice from its first addend to its last window, and of each group with a global
clip from its first whole slice until the factor is known. (log 71: DESIGN CHOICE) -/
def normLanes (s : State) (die : Nat) : Nat :=
  s.groups.foldl (fun n e =>
    let g := e.2
    if gDie g ≠ die || gClip g = 0 then n else
    n + g.norm.countP (fun x => !sliceReduced g x.1) + b2n (gClip g == 2 && g.clips.isEmpty && g.norm.any (fun x => sliceReduced g x.1))) 0

/-- The norm sum of a slice holds a lane, finds one of the 16 free, or needs none (R483). (log 71: DESIGN CHOICE) -/
def normLaneFree (s : State) (g : SilGroup) (i : Nat) : Bool :=
  gClip g == 0 || gReduce g == 2 || (tget? g.norm i).isSome || normLanes s (gDie g) < 16

/-- WINDOW_REDUCE (R309, R310, R313, R315, R316, R483): a window that its members have completed is reduced exactly and written once.
(log 132: DEDUCED) -/
def execWindowReduce (gs w : Nat) (s : State) : Host.Outcome State Fault Refusal :=
  .next (match silAt s gs with
    | none => s
    | some g =>
      if !windowReady g w || !silActs s g || !txFits s g.ctx (reduceDie s w) 1 then s else
      match windowPlace g (gSelf g) w with
      | none => s
      | some (i, k) =>
        if !normLaneFree s g i then s else
        let sl := sliceAt g i
        let (first, n) := windowSpan sl k
        let die := reduceDie s w
        let page := silPage die
        let inc := included g
        let vals (m pos : Nat) : Val := partValue sl.fmt sl.mode (fromOf g m).parts i pos
        let fail (r : Option (Nat × Nat × Nat)) (s : State) : State :=
          match r with
          | none => s
          | some (c, u, _) => modSil gs (fun g => { g with gradFail := tset g.gradFail i (c, u) }) (recErr page g.ctx u c s)
        let s :=
          if gReduce g = 2 then
            forL (List.range (gMembers g)) (fun m s => forN n (fun j s =>
              let v : Val := if inc.contains m then vals m (first + j) else .zero
              let (r, s) := vWrite (engAt die 18) g.ctx (lowrankAddr g sl m (first + j)) (clean (toBytes 2 (convert 1 false .rne v).code)) s
              fail r s) s) s
          else
            let out := (List.range n).map (fun j => laneResult g (inc.map (fun m => vals m (first + j))))
            let e := if gOutFmt g = 0 then 4 else 2
            let left := out.countP (fun x => x.2)
            let s := bump (page + Reg.SIL_ADDENDS) (n * inc.length + (if gClip g = 0 then 0 else n)) s
            let s := if left = 0 then s else setPend page 16 (bumpSat (page + Reg.SIL_OVF) left s)
            let (r, s) := vWrite (engAt die 18) g.ctx (gGrad g + e * first) (clean (out.flatMap (fun x => toBytes e x.1))) s
            let q := squareUnits (out.map (fun x => x.1))
            let was := (tgetD g.norm i ⟨0, false⟩).sum
            let s := if gClip g = 0 then s else
              modSil gs (fun g => { g with norm := tmod g.norm i ⟨0, false⟩ (fun a => ⟨a.sum + q.sum, a.nonfin || q.nonfin⟩) })
                (if was < laneBound && laneBound ≤ was + q.sum then setPend page 16 (bumpSat (page + Reg.SIL_OVF) 1 s) else s)
            fail r s
        let s := modSil gs (fun g => { g with reduced := sinsert g.reduced w, from_ := tmapv g.from_ (fun _ f => dropParts i first n f) }) s
        silSettle gs (normSend die gs (returnCredit gs s)))

/-! ## Clipping (R316) -/

/-- The norm in scope of a slice: the exact units, whether a value was non-finite, whether the sum left the lane's range; none while
it is not known. -/
def normScope (g : SilGroup) (i : Nat) : Option (Nat × Bool × Bool) :=
  let own (k : Nat) : SilNorm := tgetD g.norm k ⟨0, false⟩
  if gClip g = 1 then (if sliceReduced g i then some ((own i).sum, (own i).nonfin, (own i).sum ≥ laneBound) else none)
  else
    let mine := ownedBy g (gSelf g)
    if !mine.all (sliceReduced g) || !(normOwners g).all (fun o => g.norms.any (fun x => x.1 == o)) then none else
    let remote := (normOwners g).map (fun o => tgetD g.norms o 0)
    let total := mine.foldl (fun n k => n + (own k).sum) 0 + (remote.filter (fun x => x < laneBound)).foldl (· + ·) 0
    some (total, mine.any (fun k => (own k).nonfin) || remote.contains (2 ^ 384 - 1), remote.contains (2 ^ 384 - 2) || total ≥ laneBound)

/-- The clip factor's FP32 code from the bound and the norm (R316). -/
def clipFactor (maxCode : Nat) (n : Nat × Bool × Bool) : Nat :=
  if n.2.1 then 0x7FC00000 else if n.2.2 then 0 else
  match fp32 maxCode with
  | .fin _ m e =>
    if !magLt (m * m) (2 * e) n.1 (-160) then 0x3F800000 else
    let (q, f) := divSticky (m * m) (2 * e) n.1 (-160)
    let (r, h) := sqrtSticky q f
    toFp32 (.fin false r h)
  | _ => 0x7FC00000

/-- CLIP_FACTOR (R316): once the norm in a slice's scope is known, its factor is decided and its elements are rewritten. -/
def execClipFactor (gs i : Nat) (s : State) : Host.Outcome State Fault Refusal :=
  .next (match silAt s gs with
    | none => s
    | some g =>
      if gClip g = 0 || !silActs s g || !txFits s g.ctx (gDie g) 1 || i ≥ g.slices.length || (sliceAt g i).owner ≠ gSelf g || g.mode ≠ .ordinary ||
          g.clips.any (fun x => x.1 == i) || !sliceReduced g i then s else
      match normScope g i with
      | none => s
      | some n =>
        let f := clipFactor (gClipMax g) n
        let shown := if n.2.1 then 0x7FC00000 else if n.2.2 then 0x7F800000 else toFp32 (.fin false n.1 (-160))
        let s := modSil gs (fun g => { g with clips := tset g.clips i (f, shown) }) s
        if f = 0x3F800000 then s else
        let sl := sliceAt g i
        let die := gDie g
        let va := gGrad g + 4 * sl.off
        let note (c u : Nat) (s : State) : State := modSil gs (fun g => { g with gradFail := tset g.gradFail i (c, u) }) (recErr (silPage die) g.ctx u c s)
        match vRead (engAt die 18) g.ctx va (4 * sl.elems) s with
        | (.error (c, u, _), s) => note c u s
        | (.ok l, s) =>
          let out := (chunks 4 sl.elems (bare l)).flatMap (fun b => toBytes 4 (toFp32 (valMul (fp32 (ofBytes b)) (fp32 f))))
          match vWrite (engAt die 18) g.ctx va (clean out) s with
          | (some (c, u, _), s) => note c u s
          | (none, s) => s)

/-! ## AWAIT and READY (R314, R318) -/

/-- Is the reduced gradient of a slice written, clipped where the group clips. -/
def sliceWritten (g : SilGroup) (i : Nat) : Bool := sliceReduced g i && (gClip g == 0 || g.clips.any (fun x => x.1 == i))

/-- The step record of a slice (R314). -/
def stepRecord (g : SilGroup) (i : Nat) : List Nat :=
  let m := listMask (included g)
  let d := divisorOf g
  let (f, n) := if gClip g = 0 then (0x3F800000, 0) else tgetD g.clips i (0x3F800000, 0)
  [m % 2 ^ 32, m / 2 ^ 32, d % 2 ^ 32, d / 2 ^ 32, f, n, (List.range (gMembers g)).countP (fun i => (fromOf g i).dropped), g.attempt]

/-- AWAIT_COMPLETE (R314, R394): the reduced gradient of a slice is written, every included CLOSE has come, so that D is known, no
capture holds it back, and its oldest AWAIT completes. (log 75: DEDUCED) -/
def execAwaitComplete (gs i : Nat) (s : State) : Host.Outcome State Fault Refusal :=
  .next (match silAt s gs with
    | none => s
    | some g =>
      match g.runs.find? (fun r => r.op == 4 && r.slice == i) with
      | none => s
      | some r =>
        if g.mode ≠ .ordinary || !silActs s g || g.capture.isSome || !g.final || !sliceWritten g i ||
            !(included g).all (fun m => (fromOf g m).closed.isSome) then s else
        match tget? g.gradFail i with
        | some (c, u) => runEnd gs r c u [] s
        | none => runEnd gs r zsOk 0 (stepRecord g i) s)

/-- READY_SEND (R318, R393): every UPDATE of the attempt for the slices owned here has completed with ZS_OK, and READY goes to every
member, carrying SECURE where the cadence unit has raised it. -/
def execReadySend (gs : Nat) (s : State) : Host.Outcome State Fault Refusal :=
  .next (match silAt s gs with
    | none => s
    | some g =>
      let own := ownedBy g (gSelf g)
      if own.isEmpty || g.readySent || g.updateBad || !silActs s g || silMute g 5 || g.runs.any (fun r => r.op == 5) ||
          !own.all (fun i => tgetD g.updated i 0 ≥ (sliceAt g i).paramBytes) then s else
      let secure := bit (reg s (cadPage s + Reg.CAD_STATUS)) 0
      let s := modSil gs (fun g => { g with readySent := true }) s
      silSettle gs (forL (List.range (gMembers g)) (fun i s => silSend (gDie g) gs i (ctlSeg s g 5 0 0 1 (toBytes 1 (b2n secure))) none s) s))

end Sys2Proof.Machine
end

