-- ==== Sys2Proof/Machine/StepState.lean ====
section
/-! DEFINITION. Step state: record stores (R391, R392), captures and notices (R394, R395), the cadence unit (R396), restore (R397 to
R399), COMMIT (R319), and fills and rollbacks (R403, R404). -/

namespace Sys2Proof.Machine

/-! ## The record store (R391) -/

/-- REC_BASE of a group. -/
def recBase (g : SilGroup) : Nat := gLanding g + gMembers g * gLandWindows g * 16384

/-- The store that a group claims. -/
def storeOf (s : State) (g : SilGroup) : Option RecStore := s.stores.find? (fun r => r.group == g.handle)

/-- Change the store that a group claims. -/
def modStore (g : SilGroup) (f : RecStore → RecStore) (s : State) : State :=
  { s with stores := updateFirst s.stores (fun r => r.group == g.handle) f }

/-- The frames of slot A (0) or B (1). -/
def slotFrames (r : RecStore) (slot : Nat) : List Nat := if slot = 0 then r.slotA else r.slotB

/-- The dies that hold a slot: the live dies at even places for A, at odd places for B. -/
def slotDies (s : State) (slot : Nat) : List Nat := ((liveDies s).zipIdx.filter (fun d => d.2 % 2 == slot)).map (fun d => d.1)

/-- Free 64 KiB frames of survivor regions on given dies. (log 76: DESIGN CHOICE) -/
def freeSurvivorFrames (s : State) (dies : List Nat) : List Nat :=
  let used := s.stores.flatMap (fun r => r.slotA ++ r.slotB)
  (dies.flatMap (fun d => (survivorsOf s d).flatMap (fun r => (List.range (r.2 / 65536)).map (fun i => d * dieDram + r.1 + i * 65536)))).filter
    (fun f => !used.contains f)

/-- The leaf that maps frame `i` of a slot (R391): read-only, writable while the group restores. -/
def recLeaf (g : SilGroup) (slot i pa : Nat) (w : Bool) : Leaf := ⟨recBase g + slot * 2 ^ 40 + i * 65536, pa, 65536, 0, if w then 3 else 1, true, false⟩

/-- The program may write the store. -/
def recWritable (g : SilGroup) : Bool := g.mode != .ordinary

/-- The record window of a group can be mapped (R391): REC_BASE is the start of a page, and the tenant keeps the 2 TiB from it unmapped,
so that no leaf but the store's own lies there. (log 76: DESIGN CHOICE) -/
def recClear (s : State) (g : SilGroup) : Bool :=
  recBase g % 65536 == 0 &&
    (leavesIn s g.ctx (recBase g) (2 ^ 41)).all (fun l => (storeOf s g).any (fun r => (r.slotA ++ r.slotB).contains l.pa))

/-- Extend a slot to hold a number of bytes: frames of survivor regions, clear and checked, mapped after those it has. None where the
window is not clear, or where the survivor space or the quota does not hold them. -/
def growSlot (g : SilGroup) (slot bytes : Nat) (s : State) : Option State :=
  match storeOf s g with
  | none => none
  | some r =>
    let have' := (slotFrames r slot).length
    let need := divUp bytes 65536 - have'
    let fs := (freeSurvivorFrames s (slotDies s slot)).take need
    if fs.length < need || !recClear s g then none else
    let s := modStore g (fun r => if slot = 0 then { r with slotA := r.slotA ++ fs } else { r with slotB := r.slotB ++ fs }) s
    let s := forL fs (fun f s => makeChecked f 65536 (scrubRange f 65536 s)) s
    match mapLeaves g.ctx (fs.zipIdx.map (fun f => recLeaf g slot (have' + f.2) f.1 (recWritable g))) s with
    | none => none
    | some s => if memFits s g.ctx 0 then some s else none

/-- The store of a group with both slots of at least a size; a new store where the group has none. -/
def ensureStore (g : SilGroup) (bytes : Nat) (s : State) : Option State :=
  let s := if (storeOf s g).isSome then s else
    { s with stores := s.stores ++ [⟨gId g, gSelf g, (ctxAt s g.ctx).elim 0 (fun x => x.identity), g.handle, g.ctx, 0, [], []⟩] }
  (growSlot g 0 bytes s).bind (growSlot g 1 bytes)

/-- Give the leaves of a group's store their permission. -/
def remapStore (g : SilGroup) (w : Bool) (s : State) : State :=
  match storeOf s g with
  | none => s
  | some r =>
    let fs := r.slotA ++ r.slotB
    forL (((ctxAt s g.ctx).elim [] (fun x => x.leaves)).filter (fun l => fs.contains l.pa)) (fun l s => setLeafPerm g.ctx l (if w then 3 else 1) s) s

/-- The group loses its store (R391): unmapped, kept, unclaimed. -/
def loseStore (g : SilGroup) (s : State) : State :=
  match storeOf s g with
  | none => s
  | some r =>
    let fs := r.slotA ++ r.slotB
    let s := forL (((ctxAt s g.ctx).elim [] (fun x => x.leaves)).filter (fun l => fs.contains l.pa)) (fun l s => unmapLeaf g.ctx l s) s
    modStore g (fun r => { r with group := 0, lostAt := s.time }) s

/-! ## Bytes of a slot -/

/-- Cut a range of a slot at frame boundaries: physical address and length. -/
def slotCuts (frames : List Nat) (fuel off n : Nat) : List (Nat × Nat) :=
  match fuel with
  | 0 => []
  | f + 1 =>
    if n = 0 then [] else
    let k := min n (65536 - off % 65536)
    (frames.getD (off / 65536) 0 + off % 65536, k) :: slotCuts frames f (off + k) (n - k)

/-- Read bytes of a slot with their poison. -/
def slotRead (s : State) (frames : List Nat) (off n : Nat) : List (Byte × Bool) :=
  (slotCuts frames (n / 65536 + 2) off n).flatMap (fun c => (List.range c.2).map (fun i => (memByte s.mem (c.1 + i), poisonedAt s (c.1 + i))))

/-- Write bytes of a slot; its lines are written through and its check words kept. -/
def slotWrite (frames : List Nat) (off : Nat) (l : List (Byte × Bool)) (s : State) : State :=
  ((slotCuts frames (l.length / 65536 + 2) off l.length).foldl (fun (acc : List (Byte × Bool) × State) c =>
    (acc.1.drop c.2, engWrite ⟨homeDie c.1, 0, false, .engine (homeDie c.1)⟩ c.1 (acc.1.take c.2) (fun _ => none) acc.2)) (l, s)).2

/-! ## Records (R392) -/

/-- The cursors of a group by form, and its streams. -/
def groupCursors (s : State) (g : SilGroup) (form : Nat) : List Cursor :=
  (s.cursors.map (fun x => x.2)).filter (fun c => c.group == g.handle && c.form == form)
def groupStreams (s : State) (g : SilGroup) : List RngStream := (s.streams.map (fun x => x.2)).filter (fun r => r.group == g.handle)

/-- A group is strict when a SOURCE cursor bound to it is (R389). -/
def groupStrict (s : State) (g : SilGroup) : Bool := (groupCursors s g 1).any (fun c => c.strict)

/-- Offsets of the sections of a record: parameters, STATE, SOURCE, RNG, and its size. -/
structure RecLayout where
  state : Nat
  source : Nat
  rng : Nat
  bytes : Nat
  deriving DecidableEq, Repr

/-- Bytes of parameters of all slices. -/
def paramTotal (g : SilGroup) : Nat := g.slices.foldl (fun n x => n + x.paramBytes) 0

/-- The layout of a group's record now. -/
def recLayout (s : State) (g : SilGroup) : RecLayout :=
  let st := groupCursors s g 2
  let state := alignUp (0x1000 + paramTotal g) 4096
  let source := alignUp (state + 32 * st.length + st.foldl (fun n c => n + c.bytes) 0) 4096
  let rng := alignUp (source + 64 * (groupCursors s g 1).length) 4096
  ⟨state, source, rng, rng + 32 * (groupStreams s g).length⟩

/-- Parameter offsets of the slices in the record. (log 76: DESIGN CHOICE) -/
def paramPlaces (g : SilGroup) : List (SilSlice × Nat) :=
  (g.slices.foldl (fun (a : List (SilSlice × Nat) × Nat) x => (a.1 ++ [(x, a.2)], a.2 + x.paramBytes)) ([], 0x1000)).1

/-- Data offsets of the STATE cursors in the record. (log 76: DESIGN CHOICE) -/
def statePlaces (s : State) (g : SilGroup) : List (Cursor × Nat) :=
  let st := groupCursors s g 2
  (st.foldl (fun (a : List (Cursor × Nat) × Nat) c => (a.1 ++ [(c, a.2)], a.2 + c.bytes)) ([], (recLayout s g).state + 32 * st.length)).1

/-- What a capture of a step copies from the context's memory: record offset, virtual address, bytes (R394 phase 2). -/
def recSources (s : State) (g : SilGroup) (step : Nat) : List (Nat × Nat × Nat) :=
  (paramPlaces g).map (fun p => (p.2, gParamBase g step + p.1.paramOff, p.1.paramBytes)) ++
  (statePlaces s g).map (fun p => (p.2, p.1.addr, p.1.bytes)) ++
  (groupCursors s g 1).zipIdx.map (fun c => ((recLayout s g).source + 64 * c.2 + 32, c.1.addr, 32))

/-- The header of a record, of which a slot is sealed: STEP, where the magic, identity and SEALED flag are the group's. -/
def sealedStep (s : State) (frames : List Nat) (gid self identity : Nat) : Option Nat :=
  if frames.isEmpty then none else
  let h := bare (slotRead s frames 0 0x40)
  if bytesAt h 0 4 = 0x5253535A && bit (bytesAt h 6 2) 0 && bytesAt h 8 8 = gid && bytesAt h 0x18 1 = self && bytesAt h 0x20 32 = identity % 2 ^ 256
  then some (bytesAt h 0x10 8) else none

/-- The sealed step of a slot of a store. -/
def storeStep (s : State) (r : RecStore) (slot : Nat) : Option Nat := sealedStep s (slotFrames r slot) r.gid r.self r.identity

/-- The STEP of a slot that a restore may use: SEALED is set and, unless its MAGIC is broken, the record is the group's (R397, R398). -/
def markedStep (s : State) (r : RecStore) (slot : Nat) : Option Nat :=
  if (slotFrames r slot).isEmpty then none else
  let h := bare (slotRead s (slotFrames r slot) 0 0x40)
  if bit (bytesAt h 6 2) 0 && (bytesAt h 0 4 != 0x5253535A || (storeStep s r slot).isSome) then some (bytesAt h 0x10 8) else none

/-- The slot that a restore uses and its step (R398, R404): that of the step which a ROLLBACK names, else that of the greater step. -/
def restoreFrom (s : State) (r : RecStore) (named : Option Nat) : Option (Nat × Nat) :=
  match named, markedStep s r 0, markedStep s r 1 with
  | some n, a, b => if a = some n then some (0, n) else if b = some n then some (1, n) else none
  | none, some a, some b => if a ≥ b then some (0, a) else some (1, b)
  | none, some a, none => some (0, a)
  | none, none, b => b.map (fun b => (1, b))

/-- The slot with the greater sealed step, and that step. -/
def newestSlot (s : State) (r : RecStore) : Option (Nat × Nat) :=
  match storeStep s r 0, storeStep s r 1 with
  | none, none => none
  | some a, none => some (0, a)
  | none, some b => some (1, b)
  | some a, some b => if a ≥ b then some (0, a) else some (1, b)

/-! ## The cadence unit (R396) -/

/-- Set a bit of CAD_STATUS on the deciding unit's page. -/
def cadStatus (i : Nat) (v : Bool) (s : State) : State := setField (cadPage s + Reg.CAD_STATUS) i i (b2n v) s

/-- The interval T from C and M, clamped. -/
def cadInterval (s : State) : Nat :=
  let p := cadPage s
  let t := isqrt (2 * reg s (p + Reg.CAD_C) * reg s (p + Reg.CAD_M))
  min (max t (reg s (p + Reg.CAD_T_MIN) * 100000)) (reg s (p + Reg.CAD_T_MAX) * 100000)

/-- Note the present interval, and arm a comparator for CAD_LAST_SEAL + T. (log 53: DESIGN CHOICE) -/
def cadRetime (s : State) : State :=
  armCadence (cadPage s) (reg s (cadPage s + Reg.CAD_LAST_SEAL) + cadInterval s) (setReg (cadPage s + Reg.CAD_T) (cadInterval s) s)

/-- A failure event (R396): events less than 10 ms apart count as one. (log 77: DEDUCED) -/
def cadEvent (s : State) : State :=
  let p := cadPage s
  match s.cadence.lastEvent with
  | some t =>
    if s.time - t < 1000000 then s else
    let m : Int := reg s (p + Reg.CAD_M)
    let m' := m + Int.tdiv (((s.time - t : Nat) : Int) - m) 8
    cadRetime (bumpSat (p + Reg.CAD_EVENTS) 1 (setReg (p + Reg.CAD_M) (wrap 64 m') { s with cadence := { s.cadence with lastEvent := some s.time } }))
  | none => bumpSat (p + Reg.CAD_EVENTS) 1 { s with cadence := { s.cadence with lastEvent := some s.time } }

/-- A secure notice (R395). -/
def secureNotice (g : SilGroup) (event status slot step lag : Nat) (s : State) : State :=
  postEntry g.commitCpl (toBytes 1 6 ++ toBytes 1 event ++ toBytes 1 status ++ toBytes 1 slot ++ zeros 4 ++ toBytes 8 g.handle.toNat ++
    toBytes 8 step ++ toBytes 8 lag ++ zeros 24 ++ toBytes 8 s.time) s

/-- A secure failed (R394, R405). -/
def secureFailed (g : SilGroup) (status slot step : Nat) (s : State) : State :=
  let p := cadPage s
  secureNotice g 2 status slot step 0 (setPend p 8 (bumpSat (p + Reg.CAD_SECURE_FAIL) 1 s))

/-! ## Capture (R394) -/

/-- The slot that a capture writes: the one that does not hold the newer sealed record. -/
def captureSlot (s : State) (r : RecStore) : Nat := match newestSlot s r with | some (0, _) => 1 | _ => 0

/-- Copy the sources of a record into a slot. -/
def copySources (g : SilGroup) (frames : List Nat) (l : List (Nat × Nat × Nat)) (s : State) : Option (Nat × Nat) × State :=
  match l with
  | [] => (none, s)
  | (off, va, n) :: r =>
    match vRead (engAt (gDie g) 18) g.ctx va n s with
    | (.error (c, u, _), s) => (some (c, u), s)
    | (.ok b, s) => copySources g frames r (slotWrite frames off b s)

/-- Start securing the step that begins (R394 phases 1 and 2): the target slot is unsealed and the sections are copied. -/
def startCapture (gs : Nat) (s : State) : State :=
  match silAt s gs with
  | none => s
  | some g =>
    let slot := (storeOf s g).elim 0 (captureSlot s)
    let clear (s : State) : State := match storeOf s g with
      | some r => if (slotFrames r slot).isEmpty then s else slotWrite (slotFrames r slot) 0 (clean (zeros 4096)) s
      | none => s
    match ensureStore g (recLayout s g).bytes s with
    | none => secureFailed g zsQuota slot (gStep s g) (clear s)
    | some s =>
      let s := clear s
      match copySources g ((storeOf s g).elim [] (fun r => slotFrames r slot)) (recSources s g (gStep s g)) s with
      | (some (c, _), s) => secureFailed g c slot (gStep s g) s
      | (none, s) => cadStatus 1 true (modSil gs (fun x => { x with capture := some ⟨slot, s.time, g.commitCpl, gStep s g⟩ }) s)

/-- A byte that was written between the commit and the seal has an unspecified value in the record (R394). (log 12: DESIGN CHOICE) -/
def mixBytes (draw off : Nat) (old new : List (Byte × Bool)) : List (Byte × Bool) :=
  (List.zipWith (fun a b => (a, b)) old new).zipIdx.map (fun x => if x.1.1.1 = x.1.2.1 then x.1.2 else (Config.freeByte draw (off + x.2), x.1.2.2))

/-- Take the sources of a record as they stand when it is sealed. -/
def settleSources (g : SilGroup) (frames : List Nat) (draw : Nat) (l : List (Nat × Nat × Nat)) (s : State) : State :=
  forL l (fun x s =>
    match vRead (engAt (gDie g) 18) g.ctx x.2.1 x.2.2 s with
    | (.error _, s) => s
    | (.ok b, s) => slotWrite frames x.1 (mixBytes draw x.1 (slotRead s frames x.1 x.2.2) b) s) s

/-- The slot of a stream's bound cursor, 0xFFFFFFFF for none. -/
def boundCursor (r : RngStream) : Nat := if r.cursor = 0 then 0xFFFFFFFF else hSlot r.cursor

/-- The tables of a record's sections, as offset and bytes (R392). -/
def recTables (s : State) (g : SilGroup) : List (Nat × List Byte) :=
  let l := recLayout s g
  [(l.state, (statePlaces s g).flatMap (fun p => toBytes 8 p.1.handle.toNat ++ toBytes 8 p.1.addr ++ toBytes 8 p.1.bytes ++ toBytes 8 p.2)),
   (l.rng, (groupStreams s g).flatMap (fun r => toBytes 8 r.handle.toNat ++ toBytes 8 r.key ++ toBytes 8 (streamStep s r) ++ toBytes 4 r.base ++
      toBytes 4 (boundCursor r)))] ++
  (groupCursors s g 1).zipIdx.map (fun c => (l.source + 64 * c.2, toBytes 8 c.1.handle.toNat ++ zeros 24))

/-- The header of a step's record without its check (R392). -/
def recHeader (s : State) (g : SilGroup) (step : Nat) : List Byte :=
  let l := recLayout s g
  let id := (ctxAt s g.ctx).elim 0 (fun x => x.identity)
  toBytes 4 0x5253535A ++ toBytes 2 1 ++ toBytes 2 (1 + 2 * b2n (groupStrict s g)) ++ toBytes 8 (gId g) ++ toBytes 8 step ++
    toBytes 1 (gSelf g) ++ zeros 7 ++ toBytes 32 id ++ toBytes 8 s.time ++ toBytes 4 (groupCursors s g 2).length ++
    toBytes 4 (groupCursors s g 1).length ++ toBytes 4 (groupStreams s g).length ++ zeros 4 ++ toBytes 8 l.state ++ toBytes 8 l.source ++
    toBytes 8 l.rng ++ toBytes 8 l.bytes

/-- The end of a capture for the cadence unit (R396, R405): counts, C, T, and secure-now. -/
def cadSealed (took : Nat) (s : State) : State :=
  let p := cadPage s
  let longest := max s.cadence.longest took
  let s := bumpSat (p + Reg.CAD_SECURES) 1 (setReg (p + Reg.CAD_LAST_SEAL) s.time (cadStatus 0 false s))
  if s.groups.any (fun g => g.2.capture.isSome) then { s with cadence := { s.cadence with longest := longest } } else
  let c : Int := reg s (p + Reg.CAD_C)
  cadRetime (cadStatus 1 false (setReg (p + Reg.CAD_C) (wrap 64 (c + Int.tdiv ((longest : Int) - c) 4))
    { s with cadence := { s.cadence with longest := 0 } }))

/-- Seal a record (R394 phases 2 to 4). -/
def sealRecord (gs : Nat) (s : State) : State :=
  match silAt s gs with
  | none => s
  | some g =>
    match g.capture, storeOf s g with
    | some cap, some r =>
      let fs := slotFrames r cap.slot
      let d := s.draws
      let s := settleSources g fs d (recSources s g cap.step) { s with draws := d + 1 }
      let s := forL (recTables s g) (fun t s => slotWrite fs t.1 (clean t.2) s) s
      let h := recHeader s g cap.step
      let s := slotWrite fs 0 (clean (h ++ toBytes 4 (crc32c h))) s
      let s := modSil gs (fun g => { g with capture := none }) s
      secureNotice { g with commitCpl := cap.cplQ } 1 zsOk cap.slot cap.step 0 (cadSealed (s.time - cap.since) s)
    | _, _ => s

/-- SECURE_SEAL (R394, R395): the capture of a group is complete: its record is sealed and a notice is posted. -/
def execSecureSeal (gs : Nat) (s : State) : Host.Outcome State Fault Refusal := .next (sealRecord gs s)

/-- SECURE_NOW (R396): the moment CAD_LAST_SEAL + T has passed at a commit, and secure-now is raised. (log 77: DEDUCED) -/
def execSecureNow (s : State) : Host.Outcome State Fault Refusal :=
  .next (if bit (reg s (cadPage s + Reg.CAD_STATUS)) 0 then s else setPend (cadPage s) 4 (cadStatus 0 true s))

/-- CAD_EVENT_IN (R396, R405): firmware counts one failure event. -/
def execCadEventIn (s : State) : Host.Outcome State Fault Refusal := .next (cadEvent s)

/-- CAD_CLAIM seconds have passed since a store lost its group (R391, R405). -/
def claimOver (s : State) (r : RecStore) : Bool := r.lostAt + reg s (cadPage s + Reg.CAD_CLAIM) * 100000000 < s.time

/-- CLAIM_WINDOW_EXPIRY (R391): no group has claimed the store with an index within CAD_CLAIM of its loss, and it is clear-scrubbed.
(log 3: DESIGN CHOICE) -/
def execClaimWindowExpiry (i : Nat) (s : State) : Host.Outcome State Fault Refusal :=
  .next (match s.stores[i]? with
    | none => s
    | some r =>
      if r.group ≠ 0 || !claimOver s r then s else
      forL (r.slotA ++ r.slotB) (fun f s => scrubRange f 65536 s) { s with stores := s.stores.eraseIdx i })

/-! ## Restore (R398, R399) -/

/-- The entries of a record's section: `n` of them of `size` bytes. -/
def recEntries (s : State) (fs : List Nat) (off n size : Nat) : List (List Byte) := (List.range n).map (fun i => bare (slotRead s fs (off + i * size) size))

/-- The live cursor or stream whose RESTORE_FROM names a recorded handle, where there is exactly one. -/
def boundTo {α : Type} (l : List α) (name : α → Word) (h : Nat) : Option α :=
  match l.filter (fun c => name c != 0 && (name c).toNat == h) with
  | [c] => some c
  | _ => none

/-- The step that a restored stream takes (R399): that recorded in its bound cursor's word, or S. -/
def restoredStep (s : State) (fs : List Nat) (srcOff nSrc step : Nat) (s0 : State) (e : List Byte) : Nat :=
  let bound := bytesAt e 28 4
  if bound = 0xFFFFFFFF then step else
  match (recEntries s fs srcOff nSrc 64).find? (fun c => bits (bytesAt c 0 8) 53 32 == bound) with
  | some c => bytesAt c (32 + 24) 8
  | none => let _ := s0; step

/-- Verify every block of a record (R376, R398). -/
def verifyRecord (die c : Nat) (fs : List Nat) (bytes : Nat) (s : State) : Bool × State :=
  verifyAll die (pageAddr .cad die 0 0) c ((List.range (divUp bytes 4096)).map (fun i => fs.getD (i / 16) 0 + i % 16 * 4096)) s

/-- Copy a stretch of a record to a context's memory, poison carried. -/
def restoreBytes (g : SilGroup) (fs : List Nat) (off va n : Nat) (s : State) : Option (Nat × Nat) × State :=
  match vWrite (engAt (gDie g) 18) g.ctx va (slotRead s fs off n) s with
  | (some (c, u, _), s) => (some (c, u), s)
  | (none, s) => (none, s)

/-- Copy several stretches until one fails. -/
def restoreAll (g : SilGroup) (fs : List Nat) (l : List (Nat × Nat × Nat)) (s : State) : Option (Nat × Nat) × State :=
  match l with
  | [] => (none, s)
  | (off, va, n) :: r =>
    match restoreBytes g fs off va n s with
    | (some e, s) => (some e, s)
    | (none, s) => restoreAll g fs r s

/-- The state of a group at the start of a step (R311, R319): the deadline runs, nothing has arrived. -/
def beginStep (gs : Nat) (s : State) : State :=
  let s := (silAt s gs).elim s (fun g => recDropped g s)
  modSil gs (fun g => { g with
    attempt := 0, deadline := s.time + gSpan g, final := false, from_ := [], reduced := [], norm := [], norms := [], normSent := false,
    clips := [], gradFail := [], sent := [], credit := [], paramGot := [], updated := [], updateBad := false, retracted := false, readySent := false, ready := [], readySecure := false,
    runs := g.runs.map dropWaits }) s

/-- Does a recorded stream differ from the state it is restored with (R399). -/
def streamSkewed (e : List Byte) (want : Nat) : Bool := bytesAt e 16 8 != want || bytesAt e 24 4 != 0

/-- Restore a group from a sealed record (R398, R399): `params` says whether the parameter section and STEP are restored, which a
fill leaves as they are (R403). Answers the status and subcode, and the record's step. -/
def restoreGroup (gs : Nat) (params : Bool) (s : State) : Nat × Nat × Nat × State :=
  match silAt s gs with
  | none => (zsHandleStale, 0, 0, s)
  | some g =>
    match storeOf s g with
    | none => (zsDenied, 0xD2, 0, s)
    | some r =>
      match restoreFrom s r g.restoreAt with
      | none => (zsDenied, 0xD2, 0, s)
      | some (k, step) =>
        let fs := slotFrames r k
        let h := bare (slotRead s fs 0 0x7C)
        if bytesAt h 0 4 ≠ 0x5253535A || bytesAt h 0x78 4 ≠ crc32c (h.take 0x78) then (zsCheckFail, 0x01, step, s) else
        match verifyRecord (gDie g) g.ctx fs (bytesAt h 0x70 8) s with
        | (false, s) => (zsCheckFail, 0x01, step, s)
        | (true, s) =>
          let offState := bytesAt h 0x58 8
          let offSource := bytesAt h 0x60 8
          let nSource := bytesAt h 0x4C 4
          let states := recEntries s fs offState (bytesAt h 0x48 4) 32
          let sources := recEntries s fs offSource nSource 64
          let rngs := recEntries s fs (bytesAt h 0x68 8) (bytesAt h 0x50 4) 32
          let mine (c : Cursor) : Word := c.restoreFrom
          let cur (form : Nat) (e : List Byte) : Option Cursor :=
            (boundTo (groupCursors s g 1 ++ groupCursors s g 2) mine (bytesAt e 0 8)).filter (fun c => c.form == form)
          let str (e : List Byte) : Option RngStream := boundTo (groupStreams s g) (fun r => r.restoreFrom) (bytesAt e 0 8)
          if !(states.all (fun e => (cur 2 e).any (fun c => c.bytes == bytesAt e 16 8)) && sources.all (fun e => (cur 1 e).isSome) &&
              rngs.all (fun e => (str e).isSome)) then (zsDenied, 0xD3, step, s) else
          let want (e : List Byte) : Nat := restoredStep s fs offSource nSource step s e
          if groupStrict s g && rngs.any (fun e => streamSkewed e (want e)) then (zsRestoreSkew, 0, step, s) else
          let ps := if params then (paramPlaces g).map (fun p => (p.2, gParamBase g step + p.1.paramOff, p.1.paramBytes)) else []
          let cs := states.map (fun e => (bytesAt e 24 8, (cur 2 e).elim 0 (fun c => c.addr), bytesAt e 16 8)) ++
            sources.zipIdx.map (fun e => (offSource + 64 * e.2 + 32, (cur 1 e.1).elim 0 (fun c => c.addr), 32))
          match restoreAll g fs (ps ++ cs) s with
          | (some (c, u), s) => (c, u, step, s)
          | (none, s) =>
            let s := forL rngs (fun e s =>
              let s := if streamSkewed e (want e) then
                forL (liveDies s) (fun d s => setPend (rngPage d) 4 (bumpSat (rngPage d + Reg.RNG_SKEWS) 1 s))
                  (logPage (rngPage (gDie g)) 0x0051 [(str e).elim 0 (fun r => hSlot r.handle), bytesAt e 16 8 % 2 ^ 32, want e % 2 ^ 32, bytesAt e 24 4] s)
                else s
              match str e with
              | none => s
              | some r => { s with streams := tset s.streams (hSlot r.handle) { r with base := 0, offset := (want e : Int) - (step : Int) } }) s
            let s := { s with streams := tmapv s.streams (fun _ r => if r.ctx = g.ctx then { r with base := 0 } else r) }
            let s := if params then modCtx g.ctx (fun x => { x with step := step }) s else s
            let s := remapStore g false (beginStep gs (modSil gs (fun g => { g with mode := .ordinary, restoreAt := none }) s))
            (zsOk, 0, step, s)

/-- Restore, and end a fill where the group was filled (R403). -/
def restoreOrFill (gs : Nat) (s : State) : Nat × Nat × State :=
  match silAt s gs with
  | none => (zsHandleStale, 0, s)
  | some g =>
    let fill := g.mode == .image
    match restoreGroup gs (!fill) s with
    | (st, sub, step, s) =>
      if st ≠ zsOk || !fill then (st, sub, s) else
      let lag := gStep s g - step
      let s := modSil gs (fun g => { g with fill := { g.fill with lag := lag, ended := true } }) s
      (st, sub, secureNotice g 3 zsOk 0 step lag s)

/-! ## COMMIT (R319) -/

/-- The conditions of a commit. -/
def commitReady (g : SilGroup) : Bool :=
  (g.mode == .ordinary || g.mode == .copying) &&
  ((List.range g.slices.length).all (fun i => tgetD g.paramGot i 0 ≥ (sliceAt g i).paramBytes)) && (gOwners g).all (fun o => g.ready.contains o)

/-- The words of a COMMIT that succeeds. -/
def commitWords (kind step : Nat) : List Nat := [kind, step % 2 ^ 32, step / 2 ^ 32]

/-- Notice a change of a group's fill state (R406). -/
def fillChanged (s : State) : State := forL (liveDies s) (fun d s => setPend (pageAddr .cad d 0 1) 8 s) s

/-- The barrier opens (R319, R390, R393): STEP advances, draw bases reset, the digest entry of the step is closed, a capture starts
where a READY carried SECURE, and held segments are judged. -/
def commitStep (gs : Nat) (s : State) : State :=
  match silAt s gs with
  | none => s
  | some g =>
    let step := gStep s g + 1
    let secure := g.readySecure && !(gOwners g).isEmpty
    let s := modSil gs (fun x => { x with ring := tset x.ring (gStep s g % 64) (digestNow s x) }) s
    let s := modCtx g.ctx (fun x => { x with step := step }) s
    let s := { s with streams := tmapv s.streams (fun _ r => if r.ctx = g.ctx then { r with base := 0 } else r) }
    let s := bump (silPage (gDie g) + Reg.SIL_COMMITS) (g.runs.countP (fun r => r.op == 6)) s
    let s := if g.mode == .copying then fillChanged (modSil gs (fun x => { x with mode := .image }) s) else s
    let s := commitsEnd gs zsOk 0 (commitWords (b2n secure) step) (beginStep gs s)
    let s := if secure then startCapture gs s else s
    silSettle gs (rejudgeHeld gs s)

/-- COMMIT (R306, R319, R398): the entry waits at the barrier, reports a RETRACT that came before it, or restores a group that is
RESTORING or holds its image. (log 73: DEDUCED) -/
def execCommit (die slot : Nat) (s : State) : Host.Outcome State Fault Refusal :=
  .next (silStart die slot (fun op => op == 6) (fun j g s =>
    let s := modSil j.group (fun g => { g with commitCpl := j.cplQ }) s
    if g.mode == .restoring || g.mode == .image then
      match restoreOrFill j.group s with
      | (st, sub, s) =>
        if st = zsOk then silDone j zsOk 0 (commitWords 2 (ctxStep s j.ctx)) (bump (silPage die + Reg.SIL_COMMITS) 1 s)
        else
          let s := recErr (pageAddr .cad die 0 0) j.ctx sub st s
          postCompletion j.cplQ st sub 4 j.queue j.index [] s
    else if g.retracted then
      losePending j.group (silDone j zsRetracted 0 [] (modSil j.group (fun g => { g with retracted := false }) s))
    else silRunBegin j g 0 0 [] s) s)

/-- COMMIT_COMPLETE (R319): the conditions of the waiting COMMIT are met. -/
def execCommitComplete (gs : Nat) (s : State) : Host.Outcome State Fault Refusal :=
  .next (match silAt s gs with
    | none => s
    | some g => if g.runs.any (fun r => r.op == 6) && commitReady g && silActs s g then commitStep gs s else s)

/-- COMMIT_TIMEOUT (R319): the conditions are still unmet STALL_LIMIT after COMMIT was consumed. -/
def execCommitTimeout (gs : Nat) (s : State) : Host.Outcome State Fault Refusal :=
  .next (match silAt s gs with
    | none => s
    | some g => if commitReady g || !silActs s g then s else commitsEnd gs zsTimeout 0x91 [] s)

/-! ## Fills and rollbacks (R403, R404) -/

/-- A member takes ROLLBACK(S) (R404). (log 76: DESIGN CHOICE) -/
def takeRollback (gs step : Nat) (s : State) : State :=
  match silAt s gs with
  | none => s
  | some g =>
    let s := match g.capture with
      | some cap => if cap.step = step then sealRecord gs s else s
      | none => s
    match silAt s gs with
    | none => s
    | some g =>
      let slotFor : Option Nat := (storeOf s g).bind (fun r =>
        if storeStep s r 0 = some step then some 0 else if storeStep s r 1 = some step then some 1 else none)
      if g.mode == .restoring && g.restoreAt.any (fun t => t ≤ step) then s else
      let s := commitsEnd gs zsRetracted 0 [] s
      let s := beginStep gs (modSil gs (fun g => { g with mode := .restoring, restoreAt := some step, capture := none, rollbacks := sat32 (g.rollbacks + 1), joined := none }) s)
      let s := (ensureStore { g with mode := .restoring } (recLayout s g).bytes s).getD s
      secureNotice g 4 zsOk (slotFor.getD 0) step 0 (remapStore g true s)

/-- The latest sealed step of a group. -/
def latestSealed (s : State) (g : SilGroup) : Option Nat := ((storeOf s g).bind (newestSlot s)).map (fun x => x.2)

/-- A domain rollback (R404): ROLLBACK(S) goes to every member, S the latest sealed step here. -/
def domainRollback (gs : Nat) (s : State) : State :=
  match silAt s gs with
  | none => s
  | some g =>
    match latestSealed s g with
    | none => s
    | some step =>
      let s := forL ((List.range (gMembers g)).filter (fun i => i != gSelf g)) (fun i s =>
        silSendOut (gDie g) gs i (ctlSeg s g 8 0 0 8 (toBytes 8 step)) none s) s
      takeRollback gs step s

/-- Is this member the fill source of a joining one: the lowest-indexed other member (R403). -/
def sourceFor (g : SilGroup) (i member : Nat) : Bool := ((List.range (gMembers g)).filter (fun m => m != i)).head? == some member

/-- A member has failed (R404): a fill changes its source or ends, or the domain rolls back. A member that does not fill knows of a fill
by its JOIN, until the new member contributes, and leaves the failure of the fill's source to that member. (log 77: DEDUCED) -/
def memberFailed (gs k : Nat) (s : State) : State :=
  match silAt s gs with
  | none => s
  | some g =>
    match g.mode with
    | .ordinary => if g.joined.any (fun i => !sourceFor g i k) then domainRollback gs s else s
    | .restoring => s
    | _ =>
      if g.fill.source = some k then
        let left := g.fill.acked.filter (fun i => i != k)
        let s := fillChanged s
        match left with
        | i :: _ => modSil gs (fun g => { g with fill := { g.fill with
          acked := left, source := some i, switches := sat32 (g.fill.switches + 1), bytes := (fillDone g.fill.bytes (fillSegments g)).2 } }) s
        | [] =>
          let s := modSil gs (fun g => { g with mode := .restoring, fill := { g.fill with acked := [], source := none, ended := true } }) s
          secureNotice g 2 zsTimeout 0 (gStep s g) 0 (recErr (pageAddr .cad (gDie g) 0 0) g.ctx 0xD0 zsTimeout s)
      else domainRollback gs s

/-- MEMBER_SILENT (R404): a member has sent nothing for STALL_LIMIT while a step is open. -/
def execMemberSilent (gs member : Nat) (s : State) : Host.Outcome State Fault Refusal :=
  .next (match silAt s gs with
    | none => s
    | some g => if member = gSelf g || member ≥ gMembers g then s else memberFailed gs member s)

/-- The live parameters of the step go to member `i` as FILL segments in slice order (R403), packet by packet; what cannot be read is
recorded and not sent. (log 76: DESIGN CHOICE) -/
def sendFill (gs i : Nat) (s : State) : State :=
  match silAt s gs with
  | none => s
  | some g =>
    let pieces := g.slices.zipIdx.flatMap (fun x => (List.range ((x.1.paramBytes + 4095) / 4096)).map (fun k =>
      (x.2, 4096 * k, x.1.paramOff + 4096 * k, min 4096 (x.1.paramBytes - 4096 * k))))
    forL pieces (fun (k, first, off, n) s =>
      match opRead (engAt (gDie g) 18) (silPage (gDie g)) g.ctx [(gParamBase g (gStep s g) + off, n)] s with
      | (.error (c, u, _), s) => recErr (if c = zsCheckFail then silPage (gDie g) else pageAddr .cad (gDie g) 0 0) g.ctx u c s
      | (.ok bs, s) =>
        let l := bs.headD []
        if l.any (fun x => x.2) then recErr (pageAddr .cad (gDie g) 0 0) g.ctx 0x04 zsPoison s
        else silSendOut (gDie g) gs i (ctlSeg s g 9 first k n (bare l)) none s) s

/-- Is this package the fill source of a joining member. (log 76: DESIGN CHOICE) -/
def fillSource (g : SilGroup) (i : Nat) : Bool := sourceFor g i (gSelf g)

/-- A member takes a JOIN (R403, R404): the entry of the member it names is rewritten; a fill already in progress for another member
is met by that member's failure. (log 76: DESIGN CHOICE) -/
def takeJoin (gs i : Nat) (endpoint : Word) (epoch : Nat) (s : State) : State :=
  match silAt s gs with
  | none => s
  | some g =>
    let s := cadEvent s
    let s := match g.mode, g.joined with
      | .ordinary, some j => if j = i then s else domainRollback gs s
      | .ordinary, none => s
      | .restoring, _ => s
      | _, _ => memberFailed gs i s
    let s := modSil gs (fun g => { g with joined := some i,
                                          members := g.members.zipIdx.map (fun m => if m.2 = i then { m.1 with endpoint := endpoint, epoch := epoch } else m.1) }) s
    if g.mode == .ordinary && g.joined.isNone && fillSource g i then sendFill gs i s else s

/-- A member acknowledges the JOIN of a group that is filled, with its STEP (R403): the source is the lowest-indexed that has. -/
def joinAcked (gs member step : Nat) (s : State) : State :=
  match silAt s gs with
  | none => s
  | some g =>
      match g.mode with
      | .joining =>
        fillChanged (modCtx g.ctx (fun x => { x with step := step })
          (modSil gs (fun g => { g with mode := .copying, fill := { g.fill with acked := [member], source := some member } }) s))
      | .copying => modSil gs (fun g =>
          let l := sinsert g.fill.acked member
          { g with fill := { g.fill with acked := l, source := l.head? } }) s
      | _ => s

/-- The source's live parameters of the step arrive (R403): `off` bytes into a slice's parameters. Answers a status and subcode. -/
def takeFill (gs slice off : Nat) (data : List Byte) (s : State) : Nat × Nat × State :=
  match silAt s gs with
  | none => (zsHandleStale, 0, s)
  | some g =>
    if g.mode ≠ .copying then (zsLateDropped, 0x02, s)
    else if slice ≥ g.slices.length || off + data.length > (sliceAt g slice).paramBytes then (zsBadFormat, 0x07, s)
    else
      match vWrite (engAt (gDie g) 18) g.ctx (gParamBase g (gStep s g) + (sliceAt g slice).paramOff + off) (clean data) s with
      | (some (c, u, _), s) => (c, u, recErr (pageAddr .cad (gDie g) 0 0) g.ctx u c s)
      | (none, s) =>
        let s := modSil gs (fun g => { g with fill := { g.fill with bytes := g.fill.bytes + data.length } }) s
        (zsOk, 0, if g.fill.bytes + data.length ≥ paramTotal g then fillChanged (modSil gs (fun g => { g with mode := .image }) s) else s)

end Sys2Proof.Machine
end

