-- ==== Sys2Proof/Machine/Zjp.lean ====
section
/-! DEFINITION. The Zartor Job Protocol's frame: ports, binding (R359, R360), how a request is admitted, answered and cached (R361 to
R364, R418), and the context it names (R361). -/

namespace Sys2Proof.Machine

/-! ## Ports (R358, R368, R369, R370) -/

/-- The page of a port: SVP_ of its die, or MGP_ of the PCD. -/
def svcPage (port : Nat) : Nat := if port ≤ 6 then pageAddr .svp port 0 0 else pageAddr .mgp 15 (port - 7) 0

/-- Is it a management port. -/
def isMgmt (port : Nat) : Bool := port == 7 || port == 8

/-- A port that exists: 1 to 6 on live dies, 7 and 8. -/
def portExists (s : State) (port : Nat) : Bool := isMgmt port || (1 ≤ port && port ≤ 6 && dieLive s port)

/-- A port. -/
def svcOf (s : State) (port : Nat) : SvcPort := tgetD s.svc port .empty

/-- Change a port. -/
def modSvc (port : Nat) (f : SvcPort → SvcPort) (s : State) : State := { s with svc := tmod s.svc port .empty f }

/-- STATE of a port: 0 DOWN, 1 UNBOUND, 2 BINDING, 3 BOUND. -/
def svcState (s : State) (port : Nat) : Nat := bits (reg s (svcPage port + Reg.SVP_STATE)) 1 0

/-- Set STATE; INT_PEND bit 2 on a change. -/
def setSvcState (port v : Nat) (s : State) : State :=
  if svcState s port = v then s else setPend (svcPage port) 4 (setField (svcPage port + Reg.SVP_STATE) 1 0 v s)

/-- Count frames received, or sent. -/
def countRx (port n : Nat) (s : State) : State := bump (svcPage port + Reg.SVP_RX_FRAMES) n s
def countTx (port n : Nat) (s : State) : State := bump (svcPage port + Reg.SVP_TX_FRAMES) n s

/-- Count frames or accesses dropped under R358 and R365; MGP_ has no such counter. -/
def countDrop (port n : Nat) (s : State) : State := if isMgmt port then s else bump (svcPage port + Reg.SVP_RX_DROP) n s

/-- Offsets of ZJP_REQ and AUTH_FAIL. -/
def offZjpReq (port : Nat) : Nat := if isMgmt port then Reg.MGP_ZJP_REQ else Reg.SVP_ZJP_REQ
def offAuthFail (port : Nat) : Nat := if isMgmt port then Reg.MGP_AUTH_FAIL else Reg.SVP_AUTH_FAIL

/-- The key of a port's cache: both management ports share one (R368). -/
def cacheKey (port : Nat) : Nat := if isMgmt port then 7 else port

/-- The cache of a port. -/
def cacheOf (s : State) (port : Nat) : ZjpCache := tgetD s.zjp (cacheKey port) .empty

/-- Change the cache of a port. -/
def modCache (port : Nat) (f : ZjpCache → ZjpCache) (s : State) : State := { s with zjp := tmod s.zjp (cacheKey port) .empty f }

/-- The partner or manager identity at a port. -/
def boundTo? (s : State) (port : Nat) : Option Nat := (svcOf s port).bound

/-- The partner has sent nothing for PARTNER_TIMEOUT (R360, R369). -/
def partnerSilent (s : State) (port : Nat) : Bool :=
  s.time - (svcOf s port).lastHeard ≥ bits (reg s (svcPage port + Reg.SVP_CFG)) 31 16 * 1000000

/-! ## Frames (R358) -/

/-- The port's IPv6 address. -/
def portIpv6 (s : State) (port : Nat) : Nat :=
  (List.range 4).foldl (fun a k => a + reg s (svcPage port + Reg.SVP_IPV6 + 4 * k) * 2 ^ (32 * k)) 0

/-- IPv4 is enabled on the port, or IPv6 (R369, R370). -/
def ipOn (s : State) (port : Nat) (v6 : Bool) : Bool :=
  let r := reg s (svcPage port + Reg.SVP_CFG)
  if isMgmt port then bit r (if v6 then 1 else 0) else bit r (if v6 then 13 else 12)

/-- Is the address the port's own, and enabled. -/
def ownAddress (s : State) (port : Nat) (v6 : Bool) (addr : Nat) : Bool :=
  ipOn s port v6 && addr == (if v6 then portIpv6 s port else reg s (svcPage port + Reg.SVP_IPV4))

/-- The VLAN of a port: SVP_CFG.VLAN; a management port, which has no such field, takes untagged frames. (log 135: DESIGN CHOICE) -/
def portVlan (s : State) (port : Nat) : Nat := if isMgmt port then 0 else bits (reg s (svcPage port + Reg.SVP_CFG)) 11 0

/-- Does the port support a frame's tag and network layer (R358, R369). -/
def frameOk (s : State) (port : Nat) (f : Frame) : Bool := f.vlan == portVlan s port && ipOn s port f.v6

/-- A frame arrives at a port that is up (R358): counted, and dropped where the port does not support it. -/
def onFrame (port : Nat) (f : Frame) (k : State → State) (s : State) : State :=
  if !portExists s port || svcState s port = 0 then s else
  let s := countRx port 1 s
  if frameOk s port f then k s else countDrop port 1 s

/-! ## Answers -/

/-- The package number of recovery resets since power-up. -/
def incarnation (s : State) : Nat := reg s (dryPage + Reg.DRY_INCARNATION)

/-- The failures that the port's page reports beside the response: handles (R25) and those of R371. Others have a page of their own.
(log 43: DEDUCED) -/
def portReports (status sub : Nat) : Bool :=
  status == zsAuthFail || status == zsUnbound || status == zsUnsupported || status == zsHandleInvalid || status == zsHandleStale ||
  (status == zsBadDescriptor && (sub == 0x0E || sub == 0x0F)) || (status == zsTimeout && sub == 0xB0) ||
  (status == zsDenied && (sub == 0xB1 || (0xB3 ≤ sub && sub ≤ 0xB6) || (0x88 ≤ sub && sub ≤ 0x8C)))

/-- Record a failure on the port's page; a ZS_AUTH_FAIL is counted and sets INT_PEND bit 3 (R369, R371). (log 43: DEDUCED) -/
def zjpError (port : Nat) (ctx : Word) (status sub : Nat) (s : State) : State :=
  if port = 0 || !portReports status sub then s else
  let s := recErr (svcPage port) (if ctx = 0 then 0xFFF else hSlot ctx) sub status s
  if status = zsAuthFail then setPend (svcPage port) 8 (bumpSat (svcPage port + offAuthFail port) 1 s) else s

/-- The datagram of a response (R362): the 32-byte header and the body. -/
def zjpBytes (r : ZjpResp) : List Byte :=
  toBytes 1 1 ++ toBytes 1 1 ++ toBytes 2 r.opcode ++ toBytes 4 r.body.length ++ toBytes 8 r.reqId ++ toBytes 8 r.ctx.toNat ++
    toBytes 1 r.status ++ toBytes 1 r.sub ++ zeros 2 ++ toBytes 4 r.incarnation ++ r.body

/-- Send a response without keeping it. -/
def zjpSend (port : Nat) (r : ZjpResp) (s : State) : State := emit (.zjp port (zjpBytes r)) (countTx port 1 s)

/-- The other management port has a binding. -/
def otherBound (s : State) (port : Nat) : Bool := isMgmt port && (boundTo? s (15 - port)).isSome

/-- Keep a response among the 1,024 most recent (R364). -/
def zjpKeep (port : Nat) (r : ZjpResp) (s : State) : State :=
  modCache port (fun c =>
    let kept := c.answered ++ [r]
    ⟨c.busy.filter (fun i => i != r.reqId), if kept.length > 1024 then kept.drop 1 else kept⟩) s

/-- Deliver the response to a request (R362, R364): kept and sent; where the binding of the port has ended it is not sent. -/
def zjpDeliver (port reqId opcode : Nat) (ctx : Word) (status sub : Nat) (body : List Byte) (s : State) : State :=
  let r : ZjpResp := ⟨reqId, opcode, ctx, status, sub, incarnation s, body⟩
  if (boundTo? s port).isSome then zjpSend port r (zjpKeep port r s)
  else if otherBound s port then zjpKeep port r s else s

/-- Answer a request (R362, R364): one response, and the failure reported on the port's page. (log 85: DEDUCED) -/
def zjpAnswer (port reqId opcode : Nat) (ctx : Word) (status sub : Nat) (body : List Byte) (s : State) : State :=
  zjpDeliver port reqId opcode ctx status sub body (zjpError port ctx status sub s)

/-- Answer a request outside any binding: PING, binding, and what no cache keeps. (log 85: DEDUCED) -/
def zjpPlain (port reqId opcode : Nat) (ctx : Word) (status sub : Nat) (body : List Byte) (s : State) : State :=
  zjpSend port ⟨reqId, opcode, ctx, status, sub, incarnation s, body⟩ (zjpError port ctx status sub s)

/-- What performing a request gives: a status, a subcode and a result now, or nothing yet. -/
abbrev ZjpResult := Option (Nat × Nat × List Byte)

/-- Success with a result. -/
def zjpOk (body : List Byte) (s : State) : ZjpResult × State := (some (zsOk, 0, body), s)

/-- A failure. -/
def zjpFail (status sub : Nat) (s : State) : ZjpResult × State := (some (status, sub, []), s)

/-! ## Requests -/

/-- Are ZJP requests served (R413, R417, R418, R433, R452): the executive runs, or in DORMANT, in the failed state and on the way to
another power state the management ports alone. (log 86: DEDUCED) -/
def zjpServed (s : State) (port : Nat) : Bool :=
  (failedNow s && isMgmt port) ||
    (!inReset s && s.sys.pull.isNone && ((s.sys.power == .on && (s.sys.entering.isNone || isMgmt port)) || (s.sys.power == .dormant && isMgmt port)))

/-- The management requests that the failed state serves (R418). (log 86: DEDUCED) -/
def failedServes (opcode : Nat) : Bool := opcode == 0x0100 || opcode == 0x0101 || opcode == 0x0107

/-- Is the opcode of the management class (R363, R453). -/
def mgmtClass (opcode : Nat) : Bool := 0x0100 ≤ opcode

/-- The cache's view of a request (R364): resent, dropped, too old, or to be performed. -/
inductive CacheView where
  | again (r : ZjpResp)
  | busy
  | old
  | fresh
  deriving DecidableEq, Repr

/-- Judge a REQ_ID against the cache. -/
def cacheView (c : ZjpCache) (reqId : Nat) : CacheView :=
  match c.answered.find? (fun r => r.reqId == reqId) with
  | some r => .again r
  | none =>
    if c.busy.contains reqId then .busy
    else if c.answered.length ≥ 1024 && c.answered.all (fun r => reqId < r.reqId) then .old else .fresh

/-- Count a request that R364 answers or drops; MGP_ has no such counter. -/
def countDup (port : Nat) (s : State) : State := if isMgmt port then s else bumpSat (svcPage port + Reg.SVP_ZJP_DUP) 1 s

/-- The bound partner has been heard (R360). -/
def zjpHeard (port : Nat) (s : State) : State := modSvc port (fun p => { p with lastHeard := s.time }) s

/-- A request is performed: counted (R369), and logged where the manager sent it (R363, R421). -/
def zjpNote (port opcode ident : Nat) (s : State) : State :=
  let s := bumpSat (svcPage port + offZjpReq port) 1 s
  if isMgmt port then logPage (svcPage port) 0x0021 [opcode, ident % 2 ^ 32] s else s

/-- A new request of a bound partner is taken: noted, and being performed (R362, R364). (log 86: DEDUCED) -/
def zjpTake (z : ZjpReq) (opcode ident : Nat) (s : State) : State :=
  modCache z.port (fun c => { c with busy := c.busy ++ [z.reqId] }) (zjpNote z.port opcode ident s)

/-- A request of the bound partner meets the cache (R364): resent, dropped, refused as too old, or new. (log 85: DEDUCED) -/
def zjpCached (z : ZjpReq) (opcode : Nat) (k : State → State) (s : State) : State :=
  let s := zjpHeard z.port s
  match cacheView (cacheOf s z.port) z.reqId with
  | .again r => zjpSend z.port r (countDup z.port s)
  | .busy => countDup z.port s
  | .old => zjpPlain z.port z.reqId opcode z.ctx zsDenied 0xB4 [] (countDup z.port s)
  | .fresh => k s

/-- The longest body of a message (R362); the image of an IMAGE_WRITE, which is longer than any, is given whole.
(log 16: DESIGN CHOICE) -/
def bodyFits (z : ZjpReq) (opcode : Nat) : Bool := z.body.length ≤ 8192 || opcode == 0x0104

/-- A request of the bound partner or manager (R358, R361 to R364, R418): resent, dropped, refused, or performed by `body`. -/
def zjpRun (z : ZjpReq) (opcode : Nat) (body : State → ZjpResult × State) (s : State) : State :=
  onFrame z.port z.frame (fun s =>
    if !zjpServed s z.port || svcState s z.port ≠ 3 then s else
    match boundTo? s z.port with
    | none => s
    | some ident => zjpCached z opcode (fun s =>
      if failedNow s && !failedServes opcode then zjpAnswer z.port z.reqId opcode z.ctx zsDenied 0xE2 [] s
      else if mgmtClass opcode != isMgmt z.port then zjpAnswer z.port z.reqId opcode z.ctx zsDenied 0xB6 [] s
      else if !bodyFits z opcode then zjpAnswer z.port z.reqId opcode z.ctx zsBadDescriptor 0x0E [] s
      else
        match body (zjpTake z opcode ident s) with
        | (some (status, sub, result), s) => zjpAnswer z.port z.reqId opcode z.ctx status sub result s
        | (none, s) => s) s) s

/-- Judge a context handle that an identity presents (R25, R361). (log 88: DEDUCED) -/
def judgeCtx (s : State) (ident : Nat) (h : Word) : Nat :=
  if handleTag s.hkey (h.toNat / 256) != hTag h || hType h != 1 || hHome h != 15 || hSlot h ≥ 4096 then zsHandleInvalid else
  if tget? s.ctxIdents (hSlot h) != some ident then zsHandleInvalid else
  let sl := slotOf s h
  if !sl.live || sl.retired || sl.gen != hGen h then zsHandleStale else zsOk

/-- What a request on a context comes to; a ZS_HANDLE_INVALID of a handle in it counts against the context (R26). -/
def zjpCounted (c : Nat) (r : ZjpResult × State) : ZjpResult × State :=
  match r.1 with
  | some (st, _, _) => (r.1, if st = zsHandleInvalid then countInvalid c r.2 else r.2)
  | none => r

/-- A request that names a context (R361): its handle is judged first. -/
def zjpCtx (z : ZjpReq) (opcode : Nat) (body : Nat → State → ZjpResult × State) (s : State) : State :=
  zjpRun z opcode (fun s =>
    let st := judgeCtx s ((boundTo? s z.port).getD 0) z.ctx
    if st ≠ zsOk then zjpFail st 0 s else zjpCounted (hSlot z.ctx) (body (hSlot z.ctx) s)) s

/-- A request that the context's teardown refuses: only an active context's memory and objects change. (log 88: DEDUCED) -/
def zjpLive (z : ZjpReq) (opcode : Nat) (body : Nat → State → ZjpResult × State) (s : State) : State :=
  zjpCtx z opcode (fun c s => if (ctxAt s c).any (fun x => x.state == .active) then body c s else zjpFail zsStaleContext 0 s) s

/-- Answer each OBJ_DESTROY whose window has nothing outstanding left (R131). (log 129: DEDUCED) -/
def settleUnmaps (s : State) : State :=
  let done (u : Unmap) : Bool := !s.fabric.any (fun r => u.tags.contains r.tag)
  forL (s.unmaps.filter done) (fun u s => zjpAnswer u.port u.reqId 0x0031 u.ctx zsOk 0 [] s) { s with unmaps := s.unmaps.filter (fun u => !done u) }

/-! ## Binding (R359, R360) -/

/-- Complete an outstanding SERVICE entry of a port. -/
def svcComplete (port : Nat) (r : SvcRun) (status sub : Nat) (results : List Nat) (s : State) : State :=
  let s := if status = zsOk then s else
    let s := recErr (svcPage port) r.ctx sub status s
    if status = zsPoison then killForPoison (svcPage port) r.ctx sub s else s
  postCompletion r.cplQ status sub 5 r.queue r.index results (modSvc port (fun p => { p with runs := removeFirst p.runs (fun x => x == r) }) s)

/-- Requests of a port that wait for their answer have nobody left to answer (R360, R364). (log 85: DEDUCED) -/
def forgetAsker (port : Nat) (s : State) : State :=
  let other (p : Nat) : Nat := if p = port then 0 else p
  modSys (fun y => { y with entering := y.entering.map (fun e => { e with port := other e.port }),
                            imageWrite := y.imageWrite.map (fun w => (other w.1, w.2)), cfgWrite := y.cfgWrite.map (fun w => (other w.1, w.2)) })
    { s with heldRoles := s.heldRoles.map (fun r => { r with port := other r.port }),
             suspects := s.suspects.map (fun r => { r with port := other r.port }),
             unmaps := s.unmaps.map (fun r => { r with port := other r.port }),
             ctxs := tmapv s.ctxs (fun _ x => { x with teardown := x.teardown.map (fun t => { t with answer := t.answer.map (fun a => (other a.1, a.2)) }) }) }

/-- End the binding of a port (R360): its queue pairs go to the error state, accepted SERVICE entries complete with ZS_UNBOUND, pending
SERVEs are discarded. Management ports that share one identity keep the cache while the other is bound. (log 85: DEDUCED) -/
def unbindPort (port : Nat) (s : State) : State :=
  match boundTo? s port with
  | none => s
  | some _ =>
    let s := forL (svcOf s port).runs (fun r s => svcComplete port r zsUnbound 0 [] s) s
    let s := modSvc port (fun p => { p with bound := none, keys := [], serves := [], qps := p.qps.map (fun q => { q with error := true }) }) s
    let s := if otherBound s port then s else modCache port (fun _ => .empty) (forgetAsker port s)
    let s := setReg (svcPage port + Reg.SVP_PARTNER) 0 s
    if svcState s port = 0 then s else setSvcState port 1 s

/-- Is a root hash configured for the port: a partner root, or a manager root. -/
def rootKnown (s : State) (port root : Nat) : Bool :=
  (cfgTlvs s).any (fun t => match t with
    | .partnerRoot h => !isMgmt port && h == root
    | .managerRoot h => isMgmt port && h == root
    | _ => false)

/-- The verification of a chain and signature (R359, R371): ZS_AUTH_FAIL with SUBCODE 0x01 or 0x02. -/
def certFails (s : State) (port : Nat) (b : BindCert) : Option Nat :=
  if !b.chainOk || !rootKnown s port b.root then some 0x01 else if !b.sigOk then some 0x02 else none

/-- The ports at which another identity stands in the way of a binding (R360, R368): the port itself, or either management port. -/
def rivals (s : State) (port ident : Nat) : List Nat :=
  (if isMgmt port then [7, 8] else [port]).filter (fun p => (boundTo? s p).any (fun i => i != ident))

/-- A binding is refused: another identity is bound, and not silent for PARTNER_TIMEOUT at every port it holds (R360, R368).
(log 117: DEDUCED) -/
def bindRefused (s : State) (port ident : Nat) : Bool := (rivals s port ident).any (fun p => !partnerSilent s p)

/-- The body of an answer to BIND_HELLO (R359): the package's chain, its fresh key, its nonce and its signature.
(log 15: DESIGN CHOICE) -/
def helloBody (d : Nat) : List Byte := Config.deviceCerts ++ Config.bindKey d ++ toBytes 32 ((Config.random d).toNat % 2 ^ 256) ++ Config.bindSig d

/-- Answer a binding message: the bound identity's answers are kept. (log 85: DEDUCED) -/
def bindAnswer (own : Bool) (z : ZjpReq) (opcode st sub : Nat) (body : List Byte) (s : State) : State :=
  if own then zjpAnswer z.port z.reqId opcode z.ctx st sub body s else zjpPlain z.port z.reqId opcode z.ctx st sub body s

/-- Perform a binding message (R359, R418). -/
def bindRun (own : Bool) (z : ZjpReq) (opcode ident : Nat) (k : Bool → State → State) (s : State) : State :=
  if failedNow s then bindAnswer own z opcode zsDenied 0xE2 [] s else k own (zjpNote z.port opcode ident s)

/-- A binding message of an identity (R359, R364, R417): one of the bound identity meets the cache. `k` gets whether it is that. -/
def onBind (z : ZjpReq) (opcode ident : Nat) (k : Bool → State → State) (s : State) : State :=
  onFrame z.port z.frame (fun s =>
    if !zjpServed s z.port then s
    else if boundTo? s z.port = some ident then zjpCached z opcode (fun s => bindRun true z opcode ident k s) s
    else bindRun false z opcode ident k s) s

/-- BIND_HELLO (R359, R360): judged, and answered with the package's own certificate, key and nonce. (log 15: DESIGN CHOICE) -/
def execBindHello (z : ZjpReq) (b : BindCert) (s : State) : Host.Outcome State Fault Refusal :=
  .next (let ident := sha512Nat b.key
    onBind z 0x0001 ident (fun own s =>
      match certFails s z.port b with
      | some sub => bindAnswer own z 0x0001 zsAuthFail sub [] s
      | none =>
        if bindRefused s z.port ident then bindAnswer own z 0x0001 zsDenied 0xB1 [] s else
        let (d, s) := draw s
        let s := modSvc z.port (fun p => { p with hellos := p.hellos.filter (fun h => h.identity != ident) ++ [⟨ident, b.ecdh, b.nonce, d⟩] }) s
        let s := if svcState s z.port = 1 then setSvcState z.port 2 s else s
        bindAnswer own z 0x0001 zsOk 0 (helloBody d) s) s)

/-- BIND_FINISH (R359, R360): the first to be verified binds the port; a rebind keeps the cache.
(log 15: DESIGN CHOICE; log 117: DEDUCED) -/
def execBindFinish (z : ZjpReq) (identity : Nat) (sigOk : Bool) (s : State) : Host.Outcome State Fault Refusal :=
  .next (onBind z 0x0002 identity (fun own s =>
    match (svcOf s z.port).hellos.find? (fun h => h.identity == identity) with
    | none => bindAnswer own z 0x0002 zsDenied 0xB1 [] s
    | some h =>
      let s := modSvc z.port (fun p => { p with hellos := p.hellos.filter (fun h => h.identity != identity) }) s
      if !sigOk then bindAnswer own z 0x0002 zsAuthFail 0x02 [] s
      else if bindRefused s z.port identity then bindAnswer own z 0x0002 zsDenied 0xB1 [] s
      else
        let s := forL (rivals s z.port identity) unbindPort s
        let s := modSvc z.port (fun p => { p with bound := some identity, keys := Config.bindKeys h.draw h.ecdh h.nonce, lastHeard := s.time }) s
        zjpAnswer z.port z.reqId 0x0002 z.ctx zsOk 0 [] (setReg (svcPage z.port + Reg.SVP_PARTNER) (identity % 2 ^ 64) (setSvcState z.port 3 s))) s)

/-- UNBIND (R360): the binding of the port ends; the response goes out before the keys are dropped. -/
def execUnbind (z : ZjpReq) (s : State) : Host.Outcome State Fault Refusal :=
  .next (onFrame z.port z.frame (fun s =>
    if !zjpServed s z.port || svcState s z.port ≠ 3 then s else
    match boundTo? s z.port with
    | none => s
    | some ident => zjpCached z 0x0003 (fun s =>
      if failedNow s then zjpAnswer z.port z.reqId 0x0003 z.ctx zsDenied 0xE2 [] s
      else unbindPort z.port (zjpAnswer z.port z.reqId 0x0003 z.ctx zsOk 0 [] (zjpNote z.port 0x0003 ident s))) s) s)

/-- PING (R363): the incarnation comes back. -/
def execPing (z : ZjpReq) (s : State) : Host.Outcome State Fault Refusal :=
  .next (onFrame z.port z.frame (fun s =>
    if !zjpServed s z.port then s else
    let st := if failedNow s then (zsDenied, 0xE2) else (zsOk, 0)
    match boundTo? s z.port with
    | none => zjpPlain z.port z.reqId 0x0004 z.ctx st.1 st.2 [] (zjpNote z.port 0x0004 0 s)
    | some ident => zjpCached z 0x0004 (fun s => zjpAnswer z.port z.reqId 0x0004 z.ctx st.1 st.2 [] (zjpNote z.port 0x0004 ident s)) s) s)

/-- The port's link has been down longer than PARTNER_TIMEOUT (R360, R369). -/
def downTooLong (s : State) (port : Nat) : Bool :=
  svcState s port == 0 && (svcOf s port).downSince.all (fun t => t + bits (reg s (svcPage port + Reg.SVP_CFG)) 31 16 * 1000000 < s.time)

/-- PARTNER_TIMEOUT (R360): the link has been down longer than PARTNER_TIMEOUT, and the binding ends. (log 3: DESIGN CHOICE) -/
def execPartnerTimeout (port : Nat) (s : State) : Host.Outcome State Fault Refusal :=
  .next (if downTooLong s port then unbindPort port s else s)

/-- SERVICE_LINK_DOWN (R369). -/
def execServiceLinkDown (port : Nat) (s : State) : Host.Outcome State Fault Refusal :=
  .next (if !portExists s port || svcState s port = 0 then s else
    setSvcState port 0 (modSvc port (fun p => { p with downSince := some s.time, hellos := [] }) s))

/-- May the port's link come up: management ports are down in STANDBY (R368). -/
def linkMayRise (s : State) (port : Nat) : Bool := portExists s port && !(isMgmt port && (s.sys.power == .off || s.sys.power == .standby))

/-- SERVICE_LINK_UP (R368 to R370): the port leaves DOWN; a binding that has not ended goes on. A management port shows the FEC that
its auto-negotiation chose, BASE-R or RS(528,514). -/
def execServiceLinkUp (up : PortUp) (s : State) : Host.Outcome State Fault Refusal :=
  let port := up.port
  .next (if !linkMayRise s port || svcState s port ≠ 0 then s else
    let s := if isMgmt port then setField (svcPage port + Reg.MGP_STATE) 2 2 (b2n up.baser) s else s
    setSvcState port (if (boundTo? s port).isSome then 3 else 1) (modSvc port (fun p => { p with downSince := none }) s))

/-- Is the opcode one of Table R363 or POWER_SET (R453). -/
def knownOpcode (o : Nat) : Bool :=
  [0x01, 0x02, 0x03, 0x04, 0x10, 0x11, 0x12, 0x20, 0x21, 0x22, 0x30, 0x31, 0x32, 0x33, 0x40, 0x41, 0x42, 0x43, 0x50, 0x60, 0x61].contains o ||
    (0x0100 ≤ o && o ≤ 0x0108)

/-- The request that a datagram spells (R362). -/
def datagramReq (port : Nat) (f : Frame) (d : List Byte) : ZjpReq := ⟨port, bytesAt d 8 8, BitVec.ofNat 64 (bytesAt d 0x10 8), d.drop 32, f⟩

/-- What a datagram's header is refused with (R362): VERSION, FLAGS or OPCODE not known, or a LENGTH that disagrees. -/
def headerRefusal (d : List Byte) : Option (Nat × Nat) :=
  if bytesAt d 0 1 != 1 || bytesAt d 1 1 / 2 != 0 || !knownOpcode (bytesAt d 2 2) then some (zsUnsupported, 0)
  else if bytesAt d 4 4 != d.length - 32 || bytesAt d 4 4 > 8192 then some (zsBadDescriptor, 0x0E)
  else none

/-- ZJP_UNSUPPORTED (R362): a datagram of the bound partner whose header is refused. A response, and what is too short for a header, is no
request. -/
def execZjpUnsupported (port : Nat) (f : Frame) (datagram : List Byte) (s : State) : Host.Outcome State Fault Refusal :=
  .next (onFrame port f (fun s =>
    if !zjpServed s port || svcState s port ≠ 3 || (boundTo? s port).isNone || datagram.length < 32 || bit (bytesAt datagram 1 1) 0 then s else
    match headerRefusal datagram with
    | none => s
    | some (st, sub) =>
      let z := datagramReq port f datagram
      let op := bytesAt datagram 2 2
      zjpCached z op (fun s => zjpAnswer port z.reqId op z.ctx st sub [] s) s) s)

/-! ## Frames below ZJP (R358) -/

/-- NEIGHBOUR_DISCOVERY (R358): an ARP or neighbour-discovery frame for the port's address is answered; for another it is dropped. -/
def execNeighbourDiscovery (port : Nat) (f : Frame) (addr : Nat) (s : State) : Host.Outcome State Fault Refusal :=
  .next (onFrame port f (fun s =>
    if ownAddress s port f.v6 addr then emit (.frame port 0 [b2n f.v6, addr, reg s (svcPage port + Reg.SVP_MAC) % 2 ^ 48] []) (countTx port 1 s)
    else countDrop port 1 s) s)

/-- ICMP_ECHO (R358): an echo request to the port's address is answered with its data. -/
def execIcmpEcho (port : Nat) (f : Frame) (addr : Nat) (data : List Byte) (s : State) : Host.Outcome State Fault Refusal :=
  .next (onFrame port f (fun s =>
    if ownAddress s port f.v6 addr then emit (.frame port 1 [b2n f.v6, addr] data) (countTx port 1 s) else countDrop port 1 s) s)

/-- UNSUPPORTED_FRAME (R358, R359): an unsupported option, or, with `macsec`, a frame that MACsec drops on a bound port. -/
def execUnsupportedFrame (port : Nat) (macsec : Bool) (s : State) : Host.Outcome State Fault Refusal :=
  .next (if !portExists s port || svcState s port = 0 then s else
    let s := countRx port 1 s
    if !macsec then countDrop port 1 s
    else if svcState s port ≠ 3 || isMgmt port then s else bump (svcPage port + Reg.SVP_MACSEC_DROP) 1 s)

end Sys2Proof.Machine
end

