-- ==== Sys2Proof/Machine/FieldTest.lean ====
section
/-! DEFINITION. Anomaly counts and field test of looms (R379 to R385), and TEST_SUSPECT (R380, R381). -/

namespace Sys2Proof.Machine

/-! ## Queuing -/

/-- The loom is queued or under test on its die. -/
def testKnown (k : CheckBlk) (i : Nat) : Bool := k.queued.any (fun q => q.loom == i) || k.running.any (fun r => r.loom == i)

/-- Queue a loom of a die for test; a loom already queued or under test joins that test (R381). (log 94: DEDUCED) -/
def queueTest (die i trigger : Nat) (s : State) : State :=
  modChk die (fun k => if testKnown k i then k else { k with queued := k.queued ++ [⟨i, trigger⟩] }) s

/-- HOLDOFF of a die in ticks (R386). -/
def holdoff (s : State) (die : Nat) : Nat := bits (reg s (chkPage die + Reg.CHK_FT_CFG)) 31 16 * 1000000

/-- Queue a loom for an anomaly (R380): only with AUTO, and not where it passed a test within HOLDOFF. -/
def queueAnomaly (die trigger i : Nat) (s : State) : State :=
  if !bit (reg s (chkPage die + Reg.CHK_FT_CFG)) 4 then s
  else if (tget? (chkOf s die).lastPass i).any (fun t => s.time < t + holdoff s die) then s
  else queueTest die i trigger s

/-! ## Anomalies (R379) -/

/-- Increase of ACS_NAN of a loom since the window began. -/
def nanRise (s : State) (die i : Nat) : Nat := reg s (acsPage (die * 32 + i) + Reg.ACS_NAN) - tgetD (chkOf s die).nanBase i 0

/-- The looms of a die on which one of the contexts held a half during the window. -/
def loomsOfCtxs (s : State) (die : Nat) (cs : List Nat) : List Nat :=
  (List.range 32).filter (fun i => (tgetD (chkOf s die).windowHolders i []).any (fun c => cs.contains c))

/-- The NaN-rate anomaly of each loom. -/
def evalNan (die : Nat) (s : State) : State :=
  let fire := (List.range 32).filter (fun i => nanRise s die i > reg s (chkPage die + Reg.CHK_NAN_LIMIT) && !(chkOf s die).firedNan.contains i)
  forL fire (fun i s => queueAnomaly die 3 i (modChk die (fun k => { k with firedNan := sinsert k.firedNan i }) s)) s

/-- The amax-jump anomaly. -/
def evalJump (die : Nat) (s : State) : State :=
  let k := chkOf s die
  if k.firedJump || k.amaxJumps ≤ reg s (chkPage die + Reg.CHK_JUMP_LIMIT) then s else
  forL (loomsOfCtxs s die k.jumpCtxs) (queueAnomaly die 4) (modChk die (fun k => { k with firedJump := true }) s)

/-- The check-failure anomaly. -/
def evalFail (die : Nat) (s : State) : State :=
  let k := chkOf s die
  if k.firedFail || k.fails ≤ reg s (chkPage die + Reg.CHK_FAIL_LIMIT) then s else
  forL (loomsOfCtxs s die k.failCtxs) (queueAnomaly die 5) (modChk die (fun k => { k with firedFail := true }) s)

/-- The contexts that hold a half of a loom now. -/
def holdersNow (s : State) (loom : Nat) : List Nat :=
  let l := loomOf s loom
  ((l.leaseWest.map (fun x => x.ctx)).toList ++ (l.leaseEast.map (fun x => x.ctx)).toList).eraseDups

/-- A window is over: the next begins where it ended (R379). (log 94: DEDUCED) -/
def nextWindow (die : Nat) (s : State) : State :=
  let w := max 1 (reg s (chkPage die + Reg.CHK_ANOM_WINDOW))
  let k := chkOf s die
  if s.time < k.windowStart + w then s else
  let nan := (List.range 32).filterMap (fun i =>
    let n := reg s (acsPage (die * 32 + i) + Reg.ACS_NAN)
    if n = 0 then none else some (i, n))
  let hold := (List.range 32).filterMap (fun i => let h := holdersNow s (die * 32 + i); if h.isEmpty then none else some (i, h))
  modChk die (fun k => { k with
    windowStart := k.windowStart + (s.time - k.windowStart) / w * w, nanBase := nan, amaxJumps := 0, fails := 0, jumpCtxs := [], failCtxs := [],
    firedNan := [], firedJump := false, firedFail := false, windowHolders := hold }) s

/-- ANOMALY_EVALUATION (R379): every 100 µs the block compares its counts with their limits. (log 94: DEDUCED) -/
def execAnomalyEvaluation (die : Nat) (s : State) : Host.Outcome State Fault Refusal :=
  .next (if !dieLive s die then s else nextWindow die (evalFail die (evalJump die (evalNan die s))))

/-- CHK_FT_START (R380): firmware queues looms of a die. -/
def execChkFtStart (die mask : Nat) (s : State) : Host.Outcome State Fault Refusal :=
  .next (if !dieLive s die then s else forL (maskList 32 mask) (fun i s => queueTest die i 6 s) s)

/-! ## TEST_SUSPECT (R380, R381) -/

/-- The result body: for each die, looms tested, repaired and retired. -/
def suspectBody (r : SuspectReq) : List Byte :=
  (List.range 8).flatMap (fun d => toBytes 1 (tgetD r.tested d 0) ++ toBytes 1 (tgetD r.repaired d 0) ++ toBytes 1 (tgetD r.retired d 0))

/-- HOLDOFF of the package: that of the lowest live die. (log 94: DEDUCED) -/
def suspectHoldoff (s : State) : Nat := holdoff s ((liveDies s).headD 0)

/-- TEST_SUSPECT (R380, R381, R387). -/
def execTestSuspect (z : ZjpReq) (s : State) : Host.Outcome State Fault Refusal :=
  .next (zjpLive z 0x0061 (fun c s =>
    let reason := bytesAt z.body 1 1
    if z.body.length ≠ 8 || !(reason == 1 || reason == 2) || bytesAt z.body 2 6 ≠ 0 then zjpFail zsBadDescriptor 0x0E s
    else if s.suspects.any (fun r => r.ctx == z.ctx) || (tget? s.suspectAt c).any (fun t => s.time < t + suspectHoldoff s) then zjpFail zsDenied 0xC1 s
    else
      let dies := (liveDies s).filter (fun d => bit (bytesAt z.body 0 1) d)
      let s := { s with suspectAt := tset s.suspectAt c s.time }
      if dies.isEmpty then zjpOk (zeros 24) s else
      let s := forL dies (fun d s => forN 32 (fun i s => queueTest d i reason s) s) s
      (none, { s with suspects := s.suspects ++ [⟨z.ctx, z.port, z.reqId, dies.flatMap (fun d => (List.range 32).map (fun i => d * 32 + i)), [], [], []⟩] })) s)

/-- A loom's test has ended with an outcome: it leaves the requests that wait for it; one that waits for no more is answered. -/
def suspectDone (loom : Nat) (o : TestOutcome) (s : State) : State :=
  let d := loom / 32
  let add (t : Tab Nat) (p : Bool) : Tab Nat := if p then tset t d (tgetD t d 0 + 1) else t
  let l := s.suspects.map (fun r => if r.left.contains loom then
    { r with left := r.left.filter (fun x => x != loom), tested := add r.tested true, repaired := add r.repaired (o == .repaired),
             retired := add r.retired (o == .retired) } else r)
  forL (l.filter (fun r => r.left.isEmpty)) (fun r s => zjpAnswer r.port r.reqId 0x0061 r.ctx zsOk 0 (suspectBody r) s)
    { s with suspects := l.filter (fun r => !r.left.isEmpty) }

/-! ## The test of a loom (R381 to R385) -/

/-- The queued loom with the least index. -/
def leastQueued (l : List QueuedTest) : Option QueuedTest :=
  l.foldl (fun b q => match b with
    | none => some q
    | some x => if q.loom < x.loom then some q else some x) none

/-- Optical loopbacks run beside the tests of a die, on its pairs that are in bypass (R383). (log 94: DEDUCED) -/
def startLoopbacks (die : Nat) (s : State) : State :=
  forL ((List.range 18).filter (fun p => (linkHome (2 * p)).1 == die && inBypass s p)) (fun p s => modSwitch p (fun w => { w with loopback := true }) s) s

/-- FIELD_TEST_BEGIN (R381, R382): the die takes its queued loom with the least index, where fewer than MAX_LOOMS are under test, and
the loom stops issue. -/
def execFieldTestBegin (die : Nat) (s : State) : Host.Outcome State Fault Refusal :=
  .next (let k := chkOf s die
    let most := max 1 (bits (reg s (chkPage die + Reg.CHK_FT_CFG)) 3 0)
    match leastQueued k.queued with
    | none => s
    | some q =>
      if !dieLive s die || inReset s || k.running.length ≥ most then s else
      let loom := die * 32 + q.loom
      let s := modChk die (fun k => { k with
        queued := k.queued.filter (fun x => x.loom != q.loom),
        running := k.running ++ [⟨q.loom, q.trigger, .drain, s.time, none, .pass, false⟩] }) s
      let s := if k.running.isEmpty then startLoopbacks die s else s
      issueBatch loom true (issueBatch loom false (modLoom loom (fun l => { l with stopped := true }) s)))

/-- The running test of a loom, in the phase given. -/
def testIn (s : State) (loom : Nat) (p : TestPhase) : Option RunningTest :=
  (chkOf s (loom / 32)).running.find? (fun r => r.loom == loom % 32 && r.phase == p)

/-- Change the running test of a loom. -/
def modTest (loom : Nat) (f : RunningTest → RunningTest) (s : State) : State :=
  modChk (loom / 32) (fun k => { k with running := updateFirst k.running (fun r => r.loom == loom % 32) f }) s

/-- FT_DRAIN_COMPLETE (R382): the loom is idle, its skeins are saved, and the array scan begins. -/
def execFtDrainComplete (loom : Nat) (s : State) : Host.Outcome State Fault Refusal :=
  .next (match testIn s loom .drain with
    | none => s
    | some _ =>
      let split := loomSplit s loom
      if !drained s loom false || (split && !drained s loom true) then s else
      let s := saveHalf loom false s
      let s := if split then saveHalf loom true s else s
      modTest loom (fun r => { r with phase := .scan }) (modLoom loom dropWeights s))

/-- FT_ARRAY_SCAN_COMPLETE (R219, R383): the scan passes, or finds a defect that a repair map covers or none does. -/
def execFtArrayScanComplete (loom : Nat) (found : Bool) (map : Option Nat) (s : State) : Host.Outcome State Fault Refusal :=
  .next (match testIn s loom .scan with
    | none => s
    | some _ => modTest loom (fun r => { r with
        phase := .march, defect := if found then map else none, outcome := if !found then .pass else if map.isSome then .repaired else .retired }) s)

/-- FT_SRAM_MARCH_COMPLETE (R217, R383): a failure retires the loom; after a coverable defect of the scan the repair map is written. -/
def execFtSramMarchComplete (loom : Nat) (pass : Bool) (s : State) : Host.Outcome State Fault Refusal :=
  .next (match testIn s loom .march with
    | none => s
    | some r =>
      if !pass then modTest loom (fun r => { r with phase := .outcome, outcome := .retired, sram := true }) s
      else match r.outcome, r.defect with
        | .repaired, some v =>
          let p := twlPage loom 1
          let v := v &&& 0x7F7FFFFF
          let st' := setBits (setBits (reg s (p + Reg.TWL_REPAIR_STAT)) 8 8 0) 4 0 (rowDelay v + 4 * colDelay (bits v 22 16) + 8 * colDelay (bits v 30 24) + 16)
          let s := bumpSat (p + Reg.TWL_REPAIRS) 1 (setReg (p + Reg.TWL_REPAIR_STAT) st' (setReg (p + Reg.TWL_REPAIR) v (recordRepair loom v s)))
          modTest loom (fun r => { r with phase := .repair }) s
        | _, _ => modTest loom (fun r => { r with phase := .outcome }) s)

/-- The outcome code of CHK_FT_LAST. -/
def outcomeCode (o : TestOutcome) : Nat := match o with | .pass => 0 | .repaired => 1 | .retired => 2

/-- The slot of the live context that a handle names. -/
def slotOfHandle (s : State) (h : Word) : Option Nat := (s.ctxs.find? (fun x => x.2.handle == h)).map (fun x => x.1)

/-- Report a test's outcome (R385, R386): CHK_FT_LAST, the counts, the drydown record, and fault records to suspect contexts. -/
def reportTest (loom : Nat) (r : RunningTest) (o : TestOutcome) (s : State) : State :=
  let die := loom / 32
  let i := loom % 32
  let page := chkPage die
  let k := chkOf s die
  let s := setReg (page + Reg.CHK_FT_LAST) (i + outcomeCode o * 2 ^ 8 + r.trigger * 2 ^ 16 + ((s.time - r.start) / 100 % 2 ^ 32) * 2 ^ 32) s
  let s := setPend page (if o = .retired then 24 else 8) (bumpSat (page + Reg.CHK_FT_RUNS) 1 s)
  let s := if o = .repaired then bumpSat (page + Reg.CHK_FT_REPAIRED) 1 s else if o = .retired then bumpSat (page + Reg.CHK_FT_RETIRED) 1 s else s
  let s := logDry die 10 0x0040 [loom, r.trigger, outcomeCode o, reg s (twlPage loom 1 + Reg.TWL_REPAIR)] s
  let s := match o with
    | .pass => modChk die (fun k => { k with lastPass := tset k.lastPass i s.time, holders := tdel k.holders i }) s
    | _ =>
      let rec_ := faultRecord s zsSuspectResult (if r.sram then 2 else 1) die loom 0 0 (tgetD k.lastPass i 0) 0 0
      forL ((tgetD k.holders i []).filterMap (slotOfHandle s)) (fun c s => postFault c die rec_ s) s
  suspectDone loom o s

/-- FT_OUTCOME (R383, R385): the test ends; of a repair, `verified` tells whether the verification set passed. (log 94: DEDUCED) -/
def execFtOutcome (loom : Nat) (verified : Bool) (s : State) : Host.Outcome State Fault Refusal :=
  .next (match (chkOf s (loom / 32)).running.find? (fun r => r.loom == loom % 32 && (r.phase == .outcome || r.phase == .repair)) with
    | none => s
    | some r =>
      let o := if r.phase = .repair && !verified then .retired else r.outcome
      let stat := twlPage loom 1 + Reg.TWL_REPAIR_STAT
      let s := if r.phase = .repair then setField stat 4 4 0 s else s
      let s := match o with
        | .repaired => setField stat 8 8 1 s
        | .retired => setField stat 9 9 1 s
        | .pass => s
      let s := modChk (loom / 32) (fun k => { k with running := removeFirst k.running (fun x => x == r) }) s
      reportTest loom r o (modLoom loom (fun l => { l with stopped := false }) s))

/-- OPTICAL_LOOPBACK_END (R383): the loopback of a bypassed pair finishes. -/
def execOpticalLoopbackEnd (pair : Nat) (s : State) : Host.Outcome State Fault Refusal := .next (modSwitch pair (fun w => { w with loopback := false }) s)

/-- Abandon every test of a die (R384): cause 1 a reset, 2 a fence. A test not begun is dropped. -/
def abandonTests (die cause : Nat) (s : State) : State :=
  let k := chkOf s die
  let s := forL k.running (fun r s => logDry die 10 0x0041 [die * 32 + r.loom, cause] (modLoom (die * 32 + r.loom) (fun l => { l with stopped := false }) s)) s
  modChk die (fun k => { k with queued := [], running := [] }) s

end Sys2Proof.Machine
end

