-- ==== Sys2Proof/Machine/Sfu.lean ====
section
/-! DEFINITION. The special functions (R91): fixed-point references good to about 60 bits, the special values, and the test that a
result lies within its bound. -/

namespace Sys2Proof.Machine

/-- Fraction bits of the fixed-point references. -/
def fxBits : Nat := 96

/-- 1 in fixed point. -/
def fxOne : Nat := 2 ^ fxBits

/-- 2^f for a fraction of `n` bits, by the product of repeated square roots of 2. -/
def fxPow2 (n f root acc : Nat) : Nat :=
  match n with
  | 0 => acc
  | n + 1 =>
    let root := isqrt (root * fxOne)
    fxPow2 n f root (if bit f n then acc * root / fxOne else acc)

/-- `n` fraction bits of log2 of y in [1, 2), by repeated squaring. -/
def fxLog2 (n y acc : Nat) : Nat :=
  match n with
  | 0 => acc
  | n + 1 =>
    let z := y * y / fxOne
    if z ≥ 2 * fxOne then fxLog2 n (z / 2) (acc * 2 + 1) else fxLog2 n z (acc * 2)

/-- π in fixed point with 96 fraction bits. -/
def fxPi : Nat := 248902613312231085230521944622

/-- The alternating Taylor series of sine from a term x^k/k!. -/
def fxSinTerms (n k x2 term : Nat) (neg : Bool) (acc : Int) : Int :=
  match n with
  | 0 => acc
  | n + 1 =>
    let acc := if neg then acc - term else acc + term
    fxSinTerms n (k + 2) x2 (term * x2 / fxOne / ((k + 1) * (k + 2))) (!neg) acc

/-- sin(π·r) for r in [0, 1/2] in fixed point. -/
def fxSinPi (r : Nat) : Int :=
  let x := r * fxPi / fxOne
  fxSinTerms 24 1 (x * x / fxOne) x false 0

/-- The fraction A mod 2 in fixed point for a finite A, as a number in [0, 2·fxOne). -/
def fxMod2 (neg : Bool) (m : Nat) (e : Int) : Nat :=
  let a : Nat :=
    if e ≥ 1 then 0
    else
      let k := (-e).toNat
      if k > fxBits then m / 2 ^ (k - fxBits) else (m * 2 ^ (fxBits - k)) % (2 * fxOne)
  if neg && a != 0 then 2 * fxOne - a else a

/-- sin(π·x) for x in [0, 2) in fixed point. -/
def fxSin2 (x : Nat) : Int :=
  let h := fxOne / 2
  if x ≤ h then fxSinPi x else if x ≤ fxOne then fxSinPi (fxOne - x)
  else if x ≤ fxOne + h then -fxSinPi (x - fxOne) else -fxSinPi (2 * fxOne - x)

/-- A fixed-point number as a value. -/
def sinVal (v : Int) : Val := dyVal ⟨v, -(fxBits : Int)⟩

/-- An approximation of the function at a finite input for which no special value stands (R91). -/
def sfuApprox (f : Nat) (a : Val) : Val :=
  match a with
  | .fin n m e =>
    match f with
    | 0 =>
      -- 2^A: integer part and a 64-bit fraction
      if (Nat.log2 m : Nat) + e > 10 then (if n then .fin false 1 (-2000) else .fin false 1 2000) else
      let x : Int := if e ≥ 0 then ((m * 2 ^ e.toNat * 2 ^ 64 : Nat) : Int) else ((m * 2 ^ 64 / 2 ^ (-e).toNat : Nat) : Int)
      let x := if n then -x else x
      let fr := (x % (2 ^ 64 : Nat)).toNat
      .fin false (fxPow2 64 fr (2 * fxOne) fxOne) (x / (2 ^ 64 : Nat) - fxBits)
    | 1 =>
      let l := Nat.log2 m
      let y := m * fxOne / 2 ^ l
      let fr := fxLog2 80 y 0
      dyVal ⟨((l : Int) + e) * (2 ^ 80 : Nat) + fr, -80⟩
    | 2 => let (q, x) := divSticky 1 0 m e; .fin n q x
    | 3 =>
      let k : Nat := if e % 2 == 0 then 0 else 1
      let r := isqrt (2 ^ 240 / (m * 2 ^ k))
      .fin false r (-120 - (e - k) / 2)
    | 4 => sinVal (fxSin2 (fxMod2 n m e))
    | _ => sinVal (fxSin2 ((fxMod2 n m e + fxOne / 2) % (2 * fxOne)))
  | x => x

/-- The special value of a function at an input that is not subnormal (R91), as FP32 bits. -/
def sfuSpecial (f : Nat) (a : Val) : Option Nat :=
  let nan := some 0x7FC00000
  match a with
  | .nan => nan
  | .inf n =>
    match f with
    | 0 => some (if n then 0 else 0x7F800000)
    | 1 => if n then nan else some 0x7F800000
    | 2 => some (if n then 0x80000000 else 0)
    | 3 => if n then nan else some 0
    | _ => nan
  | .fin n m e =>
    match f with
    | 0 => none
    | 1 => if m = 0 then some 0xFF800000 else if n then nan else none
    | 2 => if m = 0 then some (if n then 0xFF800000 else 0x7F800000) else none
    | 3 => if m = 0 then some (if n then 0xFF800000 else 0x7F800000) else if n then nan else none
    | 4 => if fxMod2 n m e % fxOne == 0 && (e ≥ 0 || m % 2 ^ (-e).toNat == 0) then some 0 else none
    | _ => if (fxMod2 n m e + fxOne / 2) % fxOne == 0 && (e ≥ -1 || m % 2 ^ (-e - 1).toNat == 0) then some 0 else none

/-- Flush a subnormal FP32 code to zero of the same sign. -/
def ftz32 (c : Nat) : Nat := if bits c 30 23 == 0 then c / 2 ^ 31 * 2 ^ 31 else c

/-- Does a result lie within the bound of its function around the approximation (R91). -/
def sfuWithin (f : Nat) (a approx : Val) (res : Nat) : Bool :=
  match fp32 res, approx with
  | .fin n m e, .fin k p q =>
    let d := dyAdd (valDy (.fin n m e)) (valDy (.fin (!k) p q))
    let diff : Val := .fin false d.m.natAbs d.e
    let ulp (c : Nat) : Val := .fin false c (gridExp 0 p q)
    let abs (x : Int) : Val := .fin false 1 x
    let ok (b : Val) : Bool := !valLt b diff
    match f with
    | 0 => ok (ulp 2)
    | 1 => ok (ulp 2) || (!valLt a (.fin false 1 (-1)) && !valLt (.fin false 2 0) a && ok (abs (-22)))
    | 2 => ok (ulp 1)
    | 3 => ok (ulp 2)
    | _ => ok (abs (-21))
  | _, _ => false

/-- An SFU result (R91, R92): the package's fixed result where it lies within the bound, else the approximation rounded.
(log 10: DESIGN CHOICE) -/
def sfuResult (f raw : Nat) : Nat :=
  let raw := ftz32 (raw % 2 ^ 32)
  let a := fp32 raw
  match sfuSpecial f a with
  | some r => r
  | none =>
    let ap := sfuApprox f a
    let own := ftz32 (toFp32 ap)
    let c := (Config.sfu f (BitVec.ofNat 32 raw)).toNat
    if sfuWithin f a ap c && bits own 30 23 != 0 && bits own 30 23 != 255 then ftz32 c else own

end Sys2Proof.Machine
end

