-- ==== Sys2Proof/Machine/Float.lean ====
section
/-! DEFINITION. The floating-point instructions, FCVT, AMAX and SFU (R84 to R92). -/

namespace Sys2Proof.Machine

/-- The format code of R86 that an FP type code names (R84): FP32, FP16 × 2, BF16 × 2. -/
def fpFmt (w : Nat) : Nat := match bits (fMod w) 1 0 with | 0 => 0 | 1 => 2 | _ => 1

/-- The rounding that a code of R84 names. -/
def fpRnd (code : Nat) : Rnd := match code with | 0 => .rne | 1 => .rtz | 2 => .rdn | _ => .rup

/-- Elements of an operand: one FP32, or two 16-bit halves (R84). -/
def fpElems (fmt a : Nat) : List Nat := if fmt = 0 then [a] else [a % 65536, a / 65536]

/-- Flush a subnormal code to zero of the same sign (R84). -/
def ftzCode (fmt : Nat) (on : Bool) (c : Nat) : Nat :=
  let f := fmtOf fmt
  if on && bits c (f.ebits + f.mbits - 1) f.mbits == 0 then c / 2 ^ (f.ebits + f.mbits) * 2 ^ (f.ebits + f.mbits) else c

/-- One element of a rounded arithmetic instruction (R84, R85). -/
def fpOne (fmt : Nat) (rnd : Rnd) (ftz : Bool) (op : Val → Val → Val → Val) (a b c : Nat) : Nat :=
  let d (x : Nat) : Val := decodeElem fmt (ftzCode fmt ftz x)
  ftzCode fmt ftz (convert fmt false rnd (op (d a) (d b) (d c))).code

/-- All elements of an instruction, packed back. -/
def fpAll (fmt : Nat) (f : Nat → Nat → Nat → Nat) (a b c : Nat) : Nat :=
  if fmt = 0 then f a b c else f (a % 65536) (b % 65536) (c % 65536) + 65536 * f (a / 65536) (b / 65536) (c / 65536)

/-- A rounded arithmetic instruction over its threads. -/
def fpArith (e : Env) (op : Rnd → Val → Val → Val → Val) (s : State) : State :=
  let fmt := fpFmt e.ins.w
  let rnd := fpRnd (bits (fMod e.ins.w) 4 2)
  let ftz := bit (fMod e.ins.w) 5
  perThread e 1 (fun t => fpAll fmt (fpOne fmt rnd ftz (op rnd)) (srcF e 0 fmt t) (srcF e 1 fmt t) (srcF e 2 fmt t)) s

/-- FADD (R85). -/
def execFadd (w : Who) (s : State) : Host.Outcome State Fault Refusal :=
  .next (issueRow w (0x10 * 8) (fun _ => true) (fun e s =>
    fpArith e (fun r a b _ => valAdd r a (if fFunc e.ins.w = 0 then b else b.neg)) s) s)

/-- FMUL (R85). -/
def execFmul (w : Who) (s : State) : Host.Outcome State Fault Refusal :=
  .next (issueRow w (0x11 * 8) (fun _ => true) (fun e s => fpArith e (fun _ a b _ => valMul a b) s) s)

/-- FFMA (R85): FMA, FMS and NFMA, rounded once. -/
def execFfma (w : Who) (s : State) : Host.Outcome State Fault Refusal :=
  .next (issueRow w (0x12 * 8) (fun _ => true) (fun e s =>
    fpArith e (fun r a b c => match fFunc e.ins.w with
      | 0 => valAdd r (valMul a b) c
      | 1 => valAdd r (valMul a b) c.neg
      | _ => valAdd r (valMul a b).neg c) s) s)

/-- ABS and NEG of one element as bit operations (R85). -/
def fpSignOp (f fmt a : Nat) : Nat :=
  let s := fmtWidth fmt - 1
  if f = 2 then setBits a s s 0 else setBits a s s (1 - bits a s s)

/-- FMNMX (R85). -/
def execFmnmx (w : Who) (s : State) : Host.Outcome State Fault Refusal :=
  .next (issueRow w (0x13 * 8) (fun _ => true) (fun e s =>
    let fmt := fpFmt e.ins.w
    let f := fFunc e.ins.w
    if f < 2 then fpArith e (fun _ a b _ => if f = 0 then valMin a b else valMax a b) s
    else perThread e 1 (fun t => fpAll fmt (fun a _ _ => fpSignOp f fmt a) (srcF e 0 fmt t) 0 0) s) s)

/-- FCMP (R85): a packed type compares element 0. -/
def execFcmp (w : Who) (s : State) : Host.Outcome State Fault Refusal :=
  .next (issueRow w (0x14 * 8) (fun _ => true) (fun e s =>
    let fmt := fpFmt e.ins.w
    let ftz := bit (fMod e.ins.w) 5
    let d (a : Nat) : Val := decodeElem fmt (ftzCode fmt ftz (a % 2 ^ fmtWidth fmt))
    perThreadP e (fun t => fcmpCond (fFunc e.ins.w) (d (srcF e 0 fmt t)) (d (srcF e 1 fmt t))) s) s)

/-- FCVT of one element (R87, R88): the value times 2^(−e), rounded once. -/
def fcvtResult (src dst : Nat) (rnd : Rnd) (satf : Bool) (a b : Nat) : Nat :=
  (convert dst satf rnd ((decodeElem src (a % 2 ^ fmtWidth src)).scale (-(sext 32 b)))).code

/-- The rounding of FCVT: the codes of R84, or SR with the bits of operand C (R87, R88). -/
def fcvtRnd (code c : Nat) : Rnd := if code = 4 then .sr c else fpRnd code

/-- FCVT (R87 to R89): SATF needs the SATURATE capability, checked where a thread takes part (R112). -/
def execFcvt (w : Who) (s : State) : Host.Outcome State Fault Refusal :=
  .next (issueRow w (0x15 * 8) (fun _ => true) (fun e s =>
    let f := fFunc e.ins.w
    let m := fMod e.ins.w
    if bit m 0 && !ctxCap s e.k.ctx 0 && !(lanes e).isEmpty then insFault e zsDenied 0x33 0 ((lanes e).headD 0) s
    else perThread e 1 (fun t => fcvtResult (bits f 5 2) (bits f 1 0 * 4 + bits m 6 5) (fcvtRnd (bits m 4 2) (src e 2 1 t)) (bit m 0)
      (src e 0 1 t) (src e 1 1 t)) s) s)

/-- AMAX's result from C and the operands of the taking-part threads (R90). (log 21: DEDUCED) -/
def amaxResult (fmt c : Nat) (as : List Nat) : Nat :=
  toFp32 ((as.flatMap (fpElems fmt)).foldl (fun m a => valMaxN m (decodeElem fmt a).abs) (fp32 c))

/-- AMAX (R90): C is the uniform or lowest-thread value; where no thread takes part the result is C, but for the guard that is never
true, which has no effect (R76). (log 21: DEDUCED) -/
def execAmax (w : Who) (s : State) : Host.Outcome State Fault Refusal :=
  .next (issueRow w (0x16 * 8) (fun _ => true) (fun e s =>
    let fmt := fpFmt e.ins.w
    let t := (lanes e).headD (lowThread e)
    let r := amaxResult fmt (srcF e 2 0 t) ((lanes e).map (srcF e 0 fmt))
    finish e (if neverGuard e.ins.w then id else wrUs (fDst e.ins.w) 1 r) s) s)

/-- SFU (R91, R92). -/
def execSfu (w : Who) (s : State) : Host.Outcome State Fault Refusal :=
  .next (issueRow w (0x18 * 8) (fun _ => true) (fun e s => perThread e 1 (fun t => sfuResult (fFunc e.ins.w) (srcF e 0 0 t)) s) s)

end Sys2Proof.Machine
end

