-- ==== Sys2Proof/Machine/ZjpCtx.lean ====
section
/-! DEFINITION. Service requests on contexts: admission (R266 to R270, R363, R437), destruction and information (R291, R363), memory
(R492), roles and sharing (R31, R289), and the manager's kill (R363). -/

namespace Sys2Proof.Machine

/-- Answer a refusal of R408, which CAD_ page 0 records. -/
def cadRefuse (c code sub : Nat) (s : State) : ZjpResult × State := recErr (cadPage s) c sub code s |> zjpFail code sub

/-! ## Admission -/

/-- A requested descriptor has a reserved or out-of-range value (R266, R270, R275, R300). (log 87: DEDUCED) -/
def descReserved (d : List Byte) : Bool :=
  bytesAt d 0x28 4 ≥ 32 || bytesAt d 0x2C 1 ≥ 16 || bits (bytesAt d 0x2C 1) 3 2 == 3 || bytesAt d 0x2D 1 ≥ 64 || bytesAt d 0x2E 2 == 0 ||
  bytesAt d 0x34 2 == 0 || bytesAt d 0x34 2 > 4096 || bytesAt d 0x36 2 == 0 || bytesAt d 0x36 2 > 64 ||
  bytesAt d 0x38 4 == 0 || bytesAt d 0x38 4 > 16384 || bytesAt d 0x40 8 % 65536 != 0 || bytesAt d 0x48 4 == 0 || bytesAt d 0x48 4 > 4096 ||
  bytesAt d 0x50 8 != 0 || bytesAt d 0x58 8 != 0 || bytesAt d 0x68 24 != 0 || bits (bytesAt d 0x08 8) 4 0 > 21

/-- A requested value under an operator ceiling. (log 87: DEDUCED) -/
def under (ceiling : Option Nat) (v : Nat) : Nat := ceiling.elim v (min v)

/-- The context that a requested descriptor and the operator policy make in a slot. (log 87: DEDUCED) -/
def newCtx (s : State) (slot : Nat) (d : List Byte) (ident : Nat) : Ctx :=
  let p := s.sys.policy
  let caps := bytesAt d 0x28 4 &&& p.caps
  { handle := mkHandle s 1 15 slot (tgetD s.slots (slotKey 1 15 slot) .fresh).gen,
    xlatRoot := BitVec.ofNat 64 (bits (bytesAt d 0x08 8) 4 0), srKey := bytesAt d 0x10 16, step := bytesAt d 0x20 8, caps := caps,
    mode := bytesAt d 0x2C 1, partition := bytesAt d 0x2D 1, share := bytesAt d 0x2E 2, secDomain := bytesAt d 0x30 4,
    topLimit := under p.top (bytesAt d 0x34 2), halfLimit := under p.half (bytesAt d 0x36 2), memtxLimit := under p.memtx (bytesAt d 0x38 4),
    pinQuota := under p.pin (bytesAt d 0x3C 4), memQuota := under p.mem (bytesAt d 0x40 8), queueQuota := under p.queue (bytesAt d 0x48 4),
    objQuota := under p.obj (bytesAt d 0x4C 4), faultQ := 0, strayQ := 0, created := s.time, state := .active, teardown := none,
    leaves := [], tables := [], tableNext := 0, tableEnd := 0, areas := [], faults := [], ticket := 0, tileErrs := [], invalid := 0, held := false,
    dies := [],
    cm := sha512Nat (toBytes 4 0x5854435A ++ toBytes 4 caps ++ toBytes 1 (bytesAt d 0x2C 1) ++ toBytes 4 (bytesAt d 0x30 4)),
    identity := ident }

/-- Give a new context its root table and its doorbell page (R127, R272). (log 33: DESIGN CHOICE) -/
def furnish (c rootLog : Nat) (s : State) : Option State :=
  match tableRoom c (max 256 (8 * 2 ^ rootLog)) s with
  | none => none
  | some (root, s) =>
    let s := modCtx c (fun x => { x with xlatRoot := BitVec.ofNat 64 (root + rootLog) }) s
    match freeVa s c 65536 with
    | none => none
    | some va => mapLeaf c ⟨va, 0x0E0000000000 + c * 65536, 65536, 2, 3, false, false⟩ s

/-- Admit a tenant (R267, R363). (log 87: DEDUCED) -/
def admitCtx (ident : Nat) (body : List Byte) (s : State) : ZjpResult × State :=
  let d := body.drop 8
  if body.length ≠ 136 || bytesAt body 0 8 ≠ 1 then zjpFail zsBadDescriptor 0x0E s
  else if descReserved d then zjpFail zsBadDescriptor 0x11 s
  else if bytesAt d 0x30 4 ≠ 0 && !s.sys.policy.domains.contains (bytesAt d 0x30 4) then zjpFail zsDenied 0x8B s
  else if twinState s = 2 then cadRefuse 0xFFF zsDenied 0xD4 s
  else if dbgScope s = 2 then recErr orsPage 0xFFF 0xF1 zsDenied s |> zjpFail zsDenied 0xF1
  else
    match freeSlot s 1 15 4096 with
    | none => zjpFail zsQuota 0 s
    | some c =>
      let x := newCtx s c d ident
      let s1 := { slotCreate 1 15 c x.handle s with
        ctxs := tset s.ctxs c x, ctxIdents := tset s.ctxIdents c ident, staleRx := s.staleRx.filter (fun e => e.1 / 8 != c),
        ctxKept := s.ctxKept.filter (fun e => e.1 / 8 != c), suspectAt := tdel s.suspectAt c }
      match furnish c (bits (bytesAt d 0x08 8) 4 0) s1 with
      | none => zjpFail zsQuota 0 s
      | some s1 => if memFits s1 c 0 then zjpOk (toBytes 8 x.handle.toNat ++ toBytes 4 x.caps) s1 else zjpFail zsQuota 0 s

/-- ADMIT (R267, R269, R363): the descriptor fields follow 8 bytes of type. -/
def execAdmit (z : ZjpReq) (s : State) : Host.Outcome State Fault Refusal :=
  .next (zjpRun z 0x0010 (fun s => admitCtx ((boundTo? s z.port).getD 0) z.body s) s)

/-- CONTEXT_DESTROY (R291): the response follows the teardown. -/
def execContextDestroy (z : ZjpReq) (s : State) : Host.Outcome State Fault Refusal :=
  .next (zjpCtx z 0x0011 (fun c s => (none, startTeardown c [(z.port, z.reqId)] s)) s)

/-- The 128-byte descriptor of a context (R266), with zeros for SR_KEY. -/
def descBytes (x : Ctx) : List Byte :=
  toBytes 8 x.handle.toNat ++ toBytes 8 x.xlatRoot.toNat ++ zeros 16 ++ toBytes 8 x.step ++ toBytes 4 x.caps ++ toBytes 1 x.mode ++
  toBytes 1 x.partition ++ toBytes 2 x.share ++ toBytes 4 x.secDomain ++ toBytes 2 x.topLimit ++ toBytes 2 x.halfLimit ++
  toBytes 4 x.memtxLimit ++ toBytes 4 x.pinQuota ++ toBytes 8 x.memQuota ++ toBytes 4 x.queueQuota ++ toBytes 4 x.objQuota ++
  toBytes 8 x.faultQ.toNat ++ toBytes 8 x.strayQ.toNat ++ toBytes 8 x.created ++ zeros 24

/-- CONTEXT_INFO (R363): the descriptor without SR_KEY. -/
def execContextInfo (z : ZjpReq) (s : State) : Host.Outcome State Fault Refusal :=
  .next (zjpCtx z 0x0012 (fun c s => zjpOk ((ctxAt s c).elim [] descBytes) s) s)

/-- CONTEXT_KILL (R363): the body holds a context slot, whose context is torn down. (log 88: DEDUCED) -/
def execContextKill (z : ZjpReq) (s : State) : Host.Outcome State Fault Refusal :=
  .next (zjpRun z 0x0105 (fun s =>
    let c := ofBytes z.body
    if (ctxAt s c).isNone then zjpFail zsHandleInvalid 0 s else zjpOk [] (startTeardown c [] s)) s)

/-! ## Memory (R492) -/

/-- The record windows of a context's group (R391): 2 TiB from REC_BASE. -/
def recWindow (s : State) (c : Nat) : List (Nat × Nat) :=
  (s.groups.filter (fun g => g.2.ctx == c)).map (fun g => (recBase g.2, 2 ^ 41))

/-- Grant pages one after another: free frames, scrubbed, made checked where asked, mapped. -/
def grantPages (n c : Nat) (g : MemGrant) (va : Nat) (s : State) : Option State :=
  match n with
  | 0 => some s
  | n + 1 =>
    match freeFrames s (usedRanges s) g.page with
    | none => none
    | some pa =>
      let s := scrubRange pa g.page s
      let s := if g.checked then makeChecked pa g.page s else s
      match mapLeaf c ⟨va, pa, g.page, g.mt, g.perm, g.checked, true⟩ s with
      | none => none
      | some s => grantPages n c g (va + g.page) s

/-- Perform a MEM_GRANT (R391, R437, R492). (log 89: DEDUCED) -/
def memGrant (c : Nat) (g : MemGrant) (s : State) : ZjpResult × State :=
  if !(g.page == 65536 || g.page == 2 ^ 21 || g.page == 2 ^ 30) || g.bytes = 0 || g.va % g.page ≠ 0 || g.bytes % g.page ≠ 0 || g.perm ≥ 8 ||
      g.mt > 3 then zjpFail zsBadDescriptor 0x0E s
  else if g.mt ≥ 2 then zjpFail zsDenied 0x8A s
  else if (recWindow s c).any (fun r => rangesMeet r.1 r.2 g.va g.bytes) then cadRefuse c zsDenied 0xD1 s
  else if !(leavesIn s c g.va g.bytes).isEmpty then zjpFail zsDenied 0x88 s
  else if bit g.perm 2 && !ctxCap s c 4 then recErr orsPage c 0xF0 zsDenied s |> zjpFail zsDenied 0xF0
  else if bit g.perm 1 && !bit g.perm 0 then zjpFail zsBadDescriptor 0x0E s
  else if !vaFits s c g.va g.bytes then zjpFail zsPageFault 0x30 s
  else if !memFits s c g.bytes then zjpFail zsQuota 0 s
  else
    match grantPages (g.bytes / g.page) c g g.va s with
    | none => zjpFail zsQuota 0 s
    | some s1 => if memFits s1 c 0 then zjpOk [] s1 else zjpFail zsQuota 0 s

/-- MEM_GRANT (R492). (log 16: DESIGN CHOICE) -/
def execMemGrant (z : ZjpReq) (g : MemGrant) (s : State) : Host.Outcome State Fault Refusal :=
  .next (zjpLive z 0x0020 (fun c s => memGrant c g s) s)

/-- The next smaller leaves of a leaf: the same frames, type and permissions (R492). -/
def splitLeaf (l : Leaf) : List Leaf :=
  let size := if l.size = 2 ^ 30 then 2 ^ 21 else 65536
  (List.range (l.size / size)).map (fun i => { l with va := l.va + i * size, pa := l.pa + i * size, size := size })

/-- Release the leaves of a range; those that lie partly inside are split first. (log 42: DEDUCED) -/
def releaseLeaves (fuel c va n : Nat) (s : State) : Option State :=
  match fuel with
  | 0 => some s
  | f + 1 =>
    match leavesIn s c va n with
    | [] => some s
    | l :: _ =>
      let s := unmapLeaf c l s
      if va ≤ l.va && l.va + l.size ≤ va + n then
        releaseLeaves f c va n { s with checked := s.checked.filter (fun k => !(l.pa ≤ k * 65536 && k * 65536 < l.pa + l.size)) }
      else (mapLeaves c (splitLeaf l) s).bind (releaseLeaves f c va n)

/-- Perform a MEM_RELEASE (R492). (log 42: DEDUCED) -/
def memRelease (c va n : Nat) (s : State) : ZjpResult × State :=
  if va % 65536 ≠ 0 || n % 65536 ≠ 0 || n = 0 then zjpFail zsBadDescriptor 0x0E s
  else if !vaHeld s c (fun l => l.granted) va n then zjpFail zsDenied 0x89 s
  else
    match releaseLeaves ((leavesIn s c va n).length + 2048) c va n s with
    | none => zjpFail zsQuota 0 s
    | some s1 => if memFits s1 c 0 then zjpOk [] s1 else zjpFail zsQuota 0 s

/-- MEM_RELEASE (R492). -/
def execMemRelease (z : ZjpReq) (va n : Nat) (s : State) : Host.Outcome State Fault Refusal :=
  .next (zjpLive z 0x0021 (fun c s => memRelease c va n s) s)

/-- Write the part of code bytes that a leaf holds, at its frames, and mark the leaf R and X without W. -/
def loadLeaf (c va : Nat) (code : List Byte) (l : Leaf) (s : State) : State :=
  let lo := max va l.va
  let hi := min (va + code.length) (l.va + l.size)
  let pa := l.pa + (lo - l.va)
  setLeafPerm c l 5 (engWrite (engAcc s (homeDie pa) c false) pa (clean ((code.drop (lo - va)).take (hi - lo))) (fun _ => none) s)

/-- Perform a CODE_LOAD (R437, R492). -/
def codeLoad (c va : Nat) (code : List Byte) (s : State) : ZjpResult × State :=
  if !vaHeld s c (fun l => l.granted && l.mt == 0) va code.length then zjpFail zsDenied 0x8C s
  else
    let s := forL (if code.isEmpty then [] else leavesIn s c va code.length) (fun l s => loadLeaf c va code l s) s
    zjpOk [] (modCtx c (fun x => { x with cm := sha512Nat (toBytes 64 x.cm ++ toBytes 8 va ++ toBytes 8 code.length ++ sha512 code) }) s)

/-- CODE_LOAD (R437, R492). (log 16: DESIGN CHOICE) -/
def execCodeLoad (z : ZjpReq) (va : Nat) (code : List Byte) (s : State) : Host.Outcome State Fault Refusal :=
  .next (zjpLive z 0x0022 (fun c s => if code.length + 8 > 8192 then zjpFail zsBadDescriptor 0x0E s else codeLoad c va code s) s)

/-! ## Roles (R31, R289) -/

/-- Change an endpoint. -/
def modEndpoint (h : Word) (f : Endpoint → Endpoint) (s : State) : State :=
  { s with endpoints := tmapv s.endpoints (fun _ e => if e.handle == h then f e else e) }

/-- An advance of the endpoint's epoch is permitted now (R31). (log 93: DEDUCED) -/
def mayAdvance (s : State) (e : Endpoint) : Bool := e.advancedAt.all (fun t => t + 1000 ≤ s.time)

/-- Advance the epoch of an endpoint (R289). -/
def advanceRole (h : Word) (s : State) : State := modEndpoint h (fun e => { e with epoch := (e.epoch + 1) % 65536, advancedAt := some s.time }) s

/-- The result of a ROLE_ASSIGN: the new ROLE_EPOCH. -/
def roleResult (s : State) (h : Word) : List Byte := toBytes 2 ((endpointOf s h).elim 0 (fun e => e.epoch))

/-- ROLE_ASSIGN (R31, R289, R363): advanced now, or held until the rate limit permits. (log 93: DEDUCED) -/
def execRoleAssign (z : ZjpReq) (h : Word) (s : State) : Host.Outcome State Fault Refusal :=
  .next (zjpLive z 0x0032 (fun c s =>
    let st := judgeHandle s (ctxHandle s c) h 9
    if st ≠ zsOk then zjpFail st 0 s else
    match endpointOf s h with
    | none => zjpFail zsHandleStale 0 s
    | some e =>
      if mayAdvance s e && !s.heldRoles.any (fun r => r.endpoint == h) then
        let s := advanceRole h s
        zjpOk (roleResult s h) s
      else (none, { s with heldRoles := s.heldRoles ++ [⟨h, z.port, z.reqId, toBytes 8 z.ctx.toNat⟩] })) s)

/-- ROLE_EPOCH_ADVANCE (R31): the rate limit permits the advance of the oldest held assignment of an endpoint.
(log 3: DESIGN CHOICE; log 93: DEDUCED) -/
def execRoleEpochAdvance (h : Word) (s : State) : Host.Outcome State Fault Refusal :=
  .next (match s.heldRoles.find? (fun r => r.endpoint == h) with
    | none => s
    | some r =>
      let s1 := { s with heldRoles := removeFirst s.heldRoles (fun x => x.endpoint == h) }
      let ctx := BitVec.ofNat 64 (ofBytes r.body)
      match endpointOf s h with
      | none => zjpAnswer r.port r.reqId 0x0032 ctx zsHandleStale 0 [] s1
      | some e =>
        if !mayAdvance s e then s else
        let s1 := advanceRole h s1
        zjpAnswer r.port r.reqId 0x0032 ctx zsOk 0 (roleResult s1 h) s1)

/-- SHARE_ENDPOINT (R25, R289): the endpoint is shared, for QUE.SEND, with a live context. -/
def execShareEndpoint (z : ZjpReq) (h peer : Word) (s : State) : Host.Outcome State Fault Refusal :=
  .next (zjpLive z 0x0033 (fun c s =>
    let st := judgeHandle s (ctxHandle s c) h 9
    if st ≠ zsOk then zjpFail st 0 s
    else if (slotOf s h).owner != ctxHandle s c then zjpFail zsHandleInvalid 0 s
    else if peer = 0 || !s.ctxs.any (fun x => x.2.handle == peer) then zjpFail zsHandleInvalid 0 s
    else
      let k := slotKey 9 (hHome h) (hSlot h)
      zjpOk [] { s with slots := tupd s.slots k (fun sl => { sl with shared := if sl.shared.contains peer then sl.shared else sl.shared ++ [peer] }) }) s)

end Sys2Proof.Machine
end

