-- ==== Sys2Proof/Machine/ZjpObj.lean ====
section
/-! DEFINITION. Run-time objects: OBJ_CREATE and OBJ_DESTROY for each type of Table R23 (R148, R149, R269, R275, R278-destroy, R280,
R289, R301 to R304, R346, R366, R388 to R391, R397, R403). -/

namespace Sys2Proof.Machine

/-! ## Quotas (R269) -/

/-- Queues of a context. -/
def queuesOf (s : State) (c : Nat) : Nat := s.queues.countP (fun q => q.2.ctx == c)

/-- Objects of a context that OBJ_QUOTA counts. -/
def objsOf (s : State) (c : Nat) : Nat :=
  s.channels.countP (fun x => x.2.ctx == c) + s.windows.countP (fun x => x.2.ctx == c) + s.conv.countP (fun x => x.2.ctx == c) +
  s.streams.countP (fun x => x.2.ctx == c) + s.cursors.countP (fun x => x.2.ctx == c) + s.endpoints.countP (fun x => x.2.ctx == c)

/-- Room for one more object. -/
def objFits (s : State) (c : Nat) : Bool := objsOf s c < (ctxAt s c).elim 0 (fun x => x.objQuota)

/-- The lowest free slot of a type and home outside some slots. (log 115: DESIGN CHOICE) -/
def slotFor (s : State) (typ home : Nat) (busy : Nat → Bool) : Option Nat :=
  (typeRange typ).bind (fun r => (List.range r.1).find? (fun i =>
    let sl := tgetD s.slots (slotKey typ home i) .fresh
    !sl.live && !sl.retired && !busy i))

/-- The handle that a create in a slot issues. -/
def newHandle (s : State) (typ home slot : Nat) : Word := mkHandle s typ home slot (tgetD s.slots (slotKey typ home slot) .fresh).gen

/-- Take a slot for a new object of a context: slot and handle. (log 115: DESIGN CHOICE) -/
def takeSlot (typ home c : Nat) (busy : Nat → Bool) (s : State) : Option (Nat × Word × State) :=
  (slotFor s typ home busy).map (fun i => (i, newHandle s typ home i, slotCreate typ home i (ctxHandle s c) s))

/-- Create an object that OBJ_QUOTA counts: `put` stores it under its slot and handle. -/
def createObj (typ home c : Nat) (busy : Nat → Bool) (put : Nat → Word → State → State) (s : State) : ZjpResult × State :=
  if !objFits s c then zjpFail zsQuota 0 s else
  match takeSlot typ home c busy s with
  | none => zjpFail zsQuota 0 s
  | some (i, h, s) => zjpOk (toBytes 8 h.toNat) (put i h s)

/-! ## Queues (R275) -/

/-- The type of a type code of Table R274. -/
def queueType (t : Nat) : Option QType :=
  match t with
  | 1 => some .compute | 2 => some .dma | 3 => some .msg | 4 => some .service | 5 => some .collective | _ => none

/-- Is DEPTH a power of two from 64 to 65,536. -/
def depthOk (d : Nat) : Bool := 64 ≤ d && d ≤ 65536 && d == 2 ^ Nat.log2 d

/-- Does a queue's attribute list break R275. -/
def queueBad (s : State) (c home : Nat) (t : QType) (depth ring dbIndex : Nat) (cplQ channel : Word) (desig : Nat) : Bool :=
  !dieLive s home || !depthOk depth || ring % 4096 != 0 || !vaHeld s c normalRw ring (depth * 64) || dbIndex ≥ 4096 ||
  s.queues.any (fun q => q.2.ctx == c && q.2.dbIndex == dbIndex) ||
  (cplQ != 0 && (judgeHandle s (ctxHandle s c) cplQ 2 != zsOk || queueTypeOf s cplQ != some .msg)) ||
  (if t == .dma then judgeHandle s (ctxHandle s c) channel 3 != zsOk || hHome channel != home else channel != 0) ||
  (if t == .msg then desig ≥ 3 else desig != 0)

/-- A designation's code. -/
def designationOf (n : Nat) : Designation := match n with | 1 => .fault | 2 => .stray | _ => .none

/-- Give a new MSG queue its designation (R275): a queue that held it becomes ordinary, and waiting fault records are delivered. -/
def designate (c : Nat) (h : Word) (d : Designation) (s : State) : State :=
  match d with
  | .none => s
  | _ =>
    let s := { s with queues := tmapv s.queues (fun _ q => if q.ctx == c && q.handle != h && q.designation == d then { q with designation := .none } else q) }
    match d with
    | .fault => deliverFaults 65 c (modCtx c (fun x => { x with faultQ := h }) s)
    | _ => modCtx c (fun x => { x with strayQ := h }) s

/-- Create a queue (R268, R269, R275, R366). -/
def createQueue (c home typ depth ring dbIndex : Nat) (cplQ channel : Word) (desig : Nat) (s : State) : ZjpResult × State :=
  match queueType typ with
  | none => zjpFail zsBadDescriptor 0x12 s
  | some t =>
    if (t == .collective && !ctxCap s c 2) || (t == .service && !ctxCap s c 3) then zjpFail zsDenied 0x83 s
    else if t == .service && !(1 ≤ home && home ≤ 6) then zjpFail zsDenied 0xB5 s
    else if queueBad s c home t depth ring dbIndex cplQ channel desig then zjpFail zsBadDescriptor 0x12 s
    else if queuesOf s c ≥ (ctxAt s c).elim 0 (fun x => x.queueQuota) then zjpFail zsQuota 0 s
    else
      match takeSlot 2 home c (fun _ => false) s with
      | none => zjpFail zsQuota 0 s
      | some (_, h, s) =>
        let q : Queue := ⟨h, c, home, t, depth, ring, dbIndex, cplQ, channel, designationOf desig, 0, 0, 0, 0, none, []⟩
        zjpOk (toBytes 8 h.toNat) (designate c h (designationOf desig) { s with queues := tset s.queues (queueKey h) q })

/-! ## Channels, windows, conversion channels (R148, R149, R280, R346) -/

/-- Create a DMA channel; a slot whose last channel's entry still runs is not taken. -/
def createChannel (c home : Nat) (s : State) : ZjpResult × State :=
  if !dieLive s home then zjpFail zsBadDescriptor 0x0E s else
  createObj 3 home c (fun i => s.dmaRuns.any (fun r => r.channel == channelKey home i))
    (fun i h s => { s with channels := tset s.channels (channelKey home i) ⟨h, c, home, 0, false⟩ }) s

/-- Does a window descriptor break R346. (log 89: DEDUCED) -/
def windowBad (d : List Byte) : Bool :=
  let dir := bytesAt d 0 1
  d.length != 64 || !(dir == 1 || dir == 2) || bytesAt d 4 4 != 0 || bytesAt d 0x28 24 != 0 || bytesAt d 0x20 8 == 0 || bytesAt d 0x20 8 > 2 ^ 36 ||
  (dir == 1 && bytesAt d 1 1 != 0) ||
  (dir == 2 && (bytesAt d 1 1 ≥ 16 || bytesAt d 8 8 != 0 || bytesAt d 0x10 8 != 0 || bytesAt d 0x18 8 % 4096 != 0))

/-- The LINK leaves of an outbound window (R123): 1 GiB each, from a virtual address. (log 90: DESIGN CHOICE) -/
def windowLeaves (home slot va len : Nat) : List Leaf :=
  (List.range (divUp len (2 ^ 30))).map (fun i => ⟨va + i * 2 ^ 30, 0x100000000000 + (home * 4096 + slot) * 2 ^ 36 + i * 2 ^ 30, 2 ^ 30, 3, 3, false, false⟩)

/-- Map an outbound window at the virtual address that the executive chooses. (log 90: DESIGN CHOICE) -/
def mapWindow (c home slot len : Nat) (s : State) : Option (Nat × State) :=
  (freeVa s c (divUp len (2 ^ 30) * 2 ^ 30)).bind (fun va => (mapLeaves c (windowLeaves home slot va len) s).map (fun s => (va, s)))

/-- Open a link window (R346); an outbound one is mapped, and its virtual address follows its handle in the result.
(log 90: DESIGN CHOICE) -/
def createWindow (c home : Nat) (d : List Byte) (s0 : State) : ZjpResult × State :=
  if !dieLive s0 home || windowBad d then zjpFail zsBadDescriptor 0x0E s0
  else if !objFits s0 c then zjpFail zsQuota 0 s0
  else
    match takeSlot 4 home c (fun _ => false) s0 with
    | none => zjpFail zsQuota 0 s0
    | some (i, h, s) =>
      let len := bytesAt d 0x20 8
      let w : Window := ⟨h, c, bytesAt d 0 1 == 2, bytesAt d 1 1, bytesAt d 2 2, BitVec.ofNat 64 (bytesAt d 8 8), BitVec.ofNat 64 (bytesAt d 0x10 8),
        bytesAt d 0x18 8, len, 0⟩
      let s := { s with windows := tset s.windows (windowKey home i) w }
      if w.inbound then zjpOk (toBytes 8 h.toNat) s else
      match mapWindow c home i len s with
      | none => zjpFail zsQuota 0 s0
      | some (va, s) => if memFits s c 0 then zjpOk (toBytes 8 h.toNat ++ toBytes 8 va) s else zjpFail zsQuota 0 s0

/-- The scale modes that Table R149 allows for a format, as source and as destination. -/
def convAllowed (f : Nat) (dst : Bool) (mode : Nat) : Bool :=
  if f ≤ 2 then mode == 0 || (dst && mode == 4)
  else if f ≤ 4 then mode ≤ 2 || (dst && mode == 4)
  else if f = 7 then 1 ≤ mode && mode ≤ 3
  else f ≤ 9 && 1 ≤ mode && mode ≤ 2

/-- Does an attribute word form a combination of R148 and R149. (log 126: DESIGN CHOICE) -/
def convOk (a : Nat) : Bool :=
  convAllowed (bits a 3 0) false (bits a 10 8) && convAllowed (bits a 7 4) true (bits a 13 11) && bits a 15 14 ≤ 2 &&
  (bits a 15 14 == 0 || bits a 13 11 == 3) && bits a 31 21 == 0

/-- Open a conversion channel (R148, R149, R157). (log 89: DEDUCED; log 126: DESIGN CHOICE) -/
def createConv (c home attr : Nat) (s : State) : ZjpResult × State :=
  if !dieLive s home || attr ≥ 2 ^ 32 then zjpFail zsBadDescriptor 0x0E s
  else if !convOk attr then recErr (cnvPage home) c 0x03 zsBadFormat s |> zjpFail zsBadFormat 0x03
  else if bit attr 20 && !ctxCap s c 0 then zjpFail zsDenied 0 s
  else createObj 6 home c (fun _ => false)
    (fun i h s => { s with conv := tset s.conv (home * 256 + i) ⟨h, c, attr + 2 ^ 21, List.replicate 16 0, 0, 0, 0, 0⟩ }) s

/-! ## Cursors, streams, endpoints (R289, R388, R390) -/

/-- A handle that is null or a live group of the context. -/
def ownGroup (s : State) (c : Nat) (h : Word) : Bool := judgeHandle s (ctxHandle s c) h 5 == zsOk

/-- Create a data cursor (R388). -/
def createCursor (c : Nat) (d : List Byte) (s : State) : ZjpResult × State :=
  let form := bytesAt d 0 1
  let g := BitVec.ofNat 64 (bytesAt d 8 8)
  let bad := d.length != 64 || !(form == 1 || form == 2) || bytesAt d 1 1 ≥ (if form = 1 then 2 else 1) || bytesAt d 2 6 != 0 || !ownGroup s c g ||
    bytesAt d 0x28 24 != 0 ||
    (if form = 1 then bytesAt d 0x10 8 % 32 != 0 || bytesAt d 0x18 8 != 32
     else bytesAt d 0x10 8 % 4096 != 0 || bytesAt d 0x18 8 == 0 || bytesAt d 0x18 8 % 4096 != 0)
  if bad then cadRefuse c zsBadDescriptor 0x10 s else
  createObj 8 15 c (fun _ => false)
    (fun i h s => { s with cursors := tset s.cursors i ⟨h, c, form, bytesAt d 1 1 == 1, g, bytesAt d 0x10 8, bytesAt d 0x18 8, BitVec.ofNat 64 (bytesAt d 0x20 8)⟩ }) s

/-- Create an RNG stream (R390). -/
def createStream (c : Nat) (d : List Byte) (s : State) : ZjpResult × State :=
  let cur := BitVec.ofNat 64 (bytesAt d 0x10 8)
  let g := BitVec.ofNat 64 (bytesAt d 0x20 8)
  let curOk := judgeHandle s (ctxHandle s c) cur 8 == zsOk && (tget? s.cursors (hSlot cur)).any (fun k => k.form == 1 && k.group == g)
  let bad := d.length != 64 || bytesAt d 0 8 != 0 || bytesAt d 0x28 24 != 0 || (g != 0 && !ownGroup s c g) || (cur != 0 && (g == 0 || !curOk))
  if bad then cadRefuse c zsBadDescriptor 0x10 s else
  createObj 7 15 c (fun _ => false)
    (fun i h s => { s with streams := tset s.streams i ⟨h, c, bytesAt d 8 8, cur, g, BitVec.ofNat 64 (bytesAt d 0x18 8), 0, 0⟩ }) s

/-- Create an endpoint (R268, R289): of a MSG queue of its home, or for Sillage. -/
def createEndpoint (c home : Nat) (q : Word) (s : State) : ZjpResult × State :=
  if !dieLive s home then zjpFail zsBadDescriptor 0x0E s
  else if q = 0 && !ctxCap s c 2 then zjpFail zsDenied 0x83 s
  else if q ≠ 0 && judgeHandle s (ctxHandle s c) q 2 ≠ zsOk then zjpFail (judgeHandle s (ctxHandle s c) q 2) 0 s
  else if q ≠ 0 && (hHome q ≠ home || queueTypeOf s q ≠ some .msg) then zjpFail zsBadDescriptor 0x0E s
  else createObj 9 home c (fun _ => false)
    (fun i h s => { s with endpoints := tset s.endpoints (home * 16384 + i) ⟨h, c, home, q, 0, 0, none⟩ }) s

/-! ## Sillage groups (R301 to R304, R397, R403) -/

/-- The member entries of a table's bytes. -/
def readMembers (n : Nat) (b : List Byte) : List SilMember :=
  (chunks 32 n b).map (fun e => ⟨bytesAt e 0 2, bytesAt e 4 2, BitVec.ofNat 64 (bytesAt e 8 8)⟩)

/-- Does a member entry break R302 or carry another failure domain. -/
def memberBad (fd : Nat) (e : List Byte) : Bool := bytesAt e 2 2 != fd || bytesAt e 6 2 != 0 || bytesAt e 0x10 16 != 0 || bytesAt e 8 8 / 2 ^ 58 != 9

/-- The slice entries of a table's bytes. -/
def readSlices (n : Nat) (b : List Byte) : List SilSlice :=
  (chunks 32 n b).map (fun e => ⟨bytesAt e 0 8, bytesAt e 8 4, bytesAt e 0x0C 1, bytesAt e 0x0D 1 % 16, bytesAt e 0x0D 1 / 16 % 4,
    bytesAt e 0x10 8, bytesAt e 0x18 4, bytesAt e 0x1C 4⟩)

/-- The contribution formats and scale modes of R198. -/
def contribOk (f m : Nat) : Bool := ((f == 0 || f == 1) && m == 0) || ((f == 4 || f == 5) && (m == 1 || m == 2))

/-- Does a slice break R303 or R304, given its raw GRAD_FMT byte and reserved bytes, REDUCE and the rank. -/
def sliceBad (n reduce rank : Nat) (e : List Byte) (x : SilSlice) : Bool :=
  x.off % 4096 != 0 || x.elems == 0 || x.off + x.elems > 2 ^ 40 || x.owner ≥ n || bytesAt e 0x0D 1 ≥ 64 || !contribOk x.fmt x.mode ||
  bytesAt e 0x0E 2 != 0 || x.paramBytes == 0 ||
  (if reduce = 2 then !(x.fmt == 1 && x.mode == 0) || x.elems % rank != 0 || x.elems / rank < x.lrRows + 1 else x.lrRows != 0)

/-- Slices lie in ascending order without overlap. -/
def slicesRise (l : List SilSlice) : Bool :=
  match l with
  | a :: b :: r => a.off + a.elems ≤ b.off && slicesRise (b :: r)
  | _ => true

/-- Does a group descriptor by itself break R301 or R304. -/
def groupDescBad (d : List Byte) : Bool :=
  let mode := bytesAt d 8 1
  let clip := mode / 4 % 4
  let cm := bytesAt d 0x10 4
  let rank := bytesAt d 0x14 4
  d.length != 128 || bytesAt d 0 8 == 0 || mode ≥ 16 || mode % 4 == 3 || clip == 3 || bytesAt d 9 1 ≥ 2 || bytesAt d 0x0A 1 == 0 || bytesAt d 0x0A 1 > 64 ||
  bytesAt d 0x0B 1 ≥ bytesAt d 0x0A 1 || bytesAt d 0x0C 2 == 0 || bytesAt d 0x0C 2 > 4096 ||
  (if clip = 0 then cm != 0 else cm == 0 || cm ≥ 0x7F800000) || (if mode % 4 = 2 then rank == 0 || rank > 64 else rank != 0) ||
  bytesAt d 0x18 4 == 0 || bytesAt d 0x18 4 > 2 ^ 31 || bytesAt d 0x1C 4 == 0 || bytesAt d 0x1C 4 > 2 ^ 31 || bytesAt d 0x58 8 % 4096 != 0 ||
  bytesAt d 0x60 4 < 2 || bytesAt d 0x60 4 > 4096 || bytesAt d 0x64 28 != 0 || (clip != 0 && (mode % 4 == 2 || bytesAt d 9 1 != 0))

/-- Bytes of a parameter buffer: the end of its last slice. -/
def paramSpan (l : List SilSlice) : Nat := l.foldl (fun m x => max m (x.paramOff + x.paramBytes)) 0

/-- A new group, in its ordinary state. -/
def newGroup (h : Word) (c : Nat) (d : List Byte) (ms : List SilMember) (ss : List SilSlice) : SilGroup :=
  { handle := h, ctx := c, desc := d, members := ms, slices := ss, mode := .ordinary, attempt := 0, deadline := 0, final := false, from_ := [],
    reduced := [], norm := [], norms := [], normSent := false, clips := [], gradFail := [], sent := [], credit := [], paramGot := [],
    updated := [], updateBad := false, retracted := false, readySent := false, ready := [], readySecure := false, runs := [], nextRun := 0, held := [], ring := [],
    capture := none, restoreAt := none, joined := none, fill := .none, rollbacks := 0, commitCpl := 0 }

/-- The unclaimed store of a group's GROUP_ID and SELF that has a sealed slot: that of the context's identity before any other.
(log 90: DESIGN CHOICE) -/
def unclaimedStore (s : State) (g : SilGroup) : Option RecStore :=
  let l := s.stores.filter (fun r => r.group == 0 && r.gid == gId g && r.self == gSelf g && (newestSlot s r).isSome)
  (l.find? (fun r => r.identity == (ctxAt s g.ctx).elim 0 (fun x => x.identity))).or l.head?

/-- The group claims a store (R391, R397): mapped into the context, writable while the group restores; none where the window is taken
or the quota is exceeded. -/
def claimStore (gs : Nat) (g : SilGroup) (r : RecStore) (s : State) : Option State :=
  let s := { s with stores := updateFirst s.stores (fun x => x == r) (fun x => { x with group := g.handle, ctx := g.ctx }) }
  let l := r.slotA.zipIdx.map (fun f => recLeaf g 0 f.2 f.1 true) ++ r.slotB.zipIdx.map (fun f => recLeaf g 1 f.2 f.1 true)
  if !recClear s g then none else
  match mapLeaves g.ctx l s with
  | none => none
  | some s => if memFits s g.ctx 0 then some (modSil gs (fun g => { g with mode := .restoring }) s) else none

/-- JOIN goes to every other member (R403). -/
def sendJoin (gs : Nat) (s : State) : State :=
  match silAt s gs with
  | none => s
  | some g =>
    forL ((List.range (gMembers g)).filter (fun i => i != gSelf g)) (fun i s =>
      silSendOut (gDie g) gs i (ctlSeg s g 7 0 0 10 (toBytes 8 (gMe g).endpoint.toNat ++ toBytes 2 (gMe g).epoch)) none s) s

/-- Put a group in its slot: it restores, joins, or begins its step (R311, R397, R403). -/
def beginGroup (gs : Nat) (h : Word) (g : SilGroup) (s : State) : Option State :=
  let s := { s with groups := tset s.groups gs g, endpoints := tmapv s.endpoints (fun _ e => if e.handle == (gMe g).endpoint && e.ctx == g.ctx && e.queue == 0 then { e with group := h } else e) }
  let s := beginStep gs s
  match unclaimedStore s g with
  | some r => claimStore gs g r s
  | none =>
    if twinState s = 4 && !s.stores.any (fun r => r.gid == gId g) then
      let s := fillChanged (modSil gs (fun g => { g with mode := .joining }) s)
      (ensureStore { g with mode := .joining } (recLayout s g).bytes s).map (sendJoin gs)
    else some s

/-- Create a Sillage group (R301 to R304, R397, R403). -/
def createGroup (c : Nat) (d : List Byte) (s0 : State) : ZjpResult × State :=
  if !ctxCap s0 c 2 then zjpFail zsDenied 0x83 s0
  else if s0.groups.any (fun g => g.2.ctx == c) then zjpFail zsDenied 0x84 s0
  else
    let bad := zjpFail zsBadDescriptor 0x0C s0
    let n := bytesAt d 0x0A 1
    let k := bytesAt d 0x0C 2
    let mt := bytesAt d 0x30 8
    let st := bytesAt d 0x38 8
    let rw (va len : Nat) : Bool := vaHeld s0 c normalRw va len
    if groupDescBad d || !rw mt (32 * n) || !rw st (32 * k) || !rw (bytesAt d 0x58 8) (n * bytesAt d 0x60 4 * 16384) then bad else
    let die := (liveDies s0).headD 0
    match vRead die c mt (32 * n) s0 with
    | (.error _, _) => bad
    | (.ok mb, s) =>
      match vRead die c st (32 * k) s with
      | (.error _, _) => bad
      | (.ok sb, s) =>
        let me := chunks 32 n (bare mb)
        let se := chunks 32 k (bare sb)
        let ms := readMembers n (bare mb)
        let ss := readSlices k (bare sb)
        let reduce := bytesAt d 8 1 % 4
        if me.any (memberBad (bytesAt d 0x0E 2)) || (List.zip se ss).any (fun x => sliceBad n reduce (bytesAt d 0x14 4) x.1 x.2) || !slicesRise ss ||
            !rw (bytesAt d 0x40 8) (paramSpan ss) || !rw (bytesAt d 0x48 8) (paramSpan ss) then bad else
        match takeSlot 5 15 c (fun _ => false) s with
        | none => zjpFail zsQuota 0 s0
        | some (gs, h, s) =>
          let g := newGroup h c d ms ss
          match unclaimedStore s g with
          | some r =>
            if r.identity ≠ (ctxAt s c).elim 0 (fun x => x.identity) then cadRefuse c zsDenied 0xD0 s0
            else if (recWindow s0 c ++ [(recBase g, 2 ^ 41)]).any (fun w => !(leavesIn s c w.1 w.2).isEmpty) then cadRefuse c zsDenied 0xD1 s0
            else ((beginGroup gs h g s).map (zjpOk (toBytes 8 h.toNat))).getD (zjpFail zsQuota 0 s0)
          | none => ((beginGroup gs h g s).map (zjpOk (toBytes 8 h.toNat))).getD (zjpFail zsQuota 0 s0)

/-! ## OBJ_CREATE and OBJ_DESTROY -/

/-- Create an object from its descriptor. -/
def createObject (c : Nat) (d : ObjDesc) (s : State) : ZjpResult × State :=
  match d with
  | .queue home typ depth ring db cplQ ch desig => createQueue c home typ depth ring db cplQ ch desig s
  | .channel home => createChannel c home s
  | .window home d => createWindow c home d s
  | .group d => createGroup c d s
  | .conv home attr => createConv c home attr s
  | .stream d => createStream c d s
  | .cursor d => createCursor c d s
  | .endpoint home q => createEndpoint c home q s
  | .other _ => zjpFail zsBadDescriptor 0x0E s

/-- OBJ_CREATE (R275, R363). (log 16: DESIGN CHOICE) -/
def execObjCreate (z : ZjpReq) (d : ObjDesc) (s : State) : Host.Outcome State Fault Refusal :=
  .next (zjpLive z 0x0030 (fun c s => createObject c d s) s)

/-- Destroy a queue (R278-destroy): entries not started and completions addressed to it are discarded, a designation ends. -/
def destroyQueue (h : Word) (s : State) : State :=
  match queueOf s h with
  | none => s
  | some q =>
    let s := forL (s.delayed.filter (fun d => d.queue == h)) (fun _ s => cplDrop q.home s) s
    let s := { s with delayed := s.delayed.filter (fun d => d.queue != h), queues := tdel s.queues (queueKey h) }
    modCtx q.ctx (fun x => { x with faultQ := if x.faultQ == h then 0 else x.faultQ, strayQ := if x.strayQ == h then 0 else x.strayQ }) s

/-- Destroy a group: its store is kept unclaimed (R391), a capture is given up, and its running entries complete with
ZS_HANDLE_STALE. -/
def destroyGroup (gs : Nat) (s : State) : State :=
  match silAt s gs with
  | none => s
  | some g =>
    let s := forL g.runs (fun r s => runEnd gs r zsHandleStale 0 [] s) s
    let s := loseStore g s
    { s with groups := tdel s.groups gs, endpoints := tmapv s.endpoints (fun _ e => if e.group == g.handle then { e with group := 0 } else e) }

/-- Close a window: an outbound one is unmapped (R131). (log 129: DEDUCED) -/
def destroyWindow (die slot : Nat) (s : State) : State :=
  match tget? s.windows (windowKey die slot) with
  | none => s
  | some w =>
    let base := 0x100000000000 + (die * 4096 + slot) * 2 ^ 36
    let ls := ((ctxAt s w.ctx).elim [] (fun x => x.leaves)).filter (fun l => l.mt == 3 && base ≤ l.pa && l.pa < base + 2 ^ 36)
    let s := forL ls (fun l s => unmapLeaf w.ctx l s) s
    { s with windows := tdel s.windows (windowKey die slot) }

/-- Destroy the object that a live handle names, and advance its slot (R27, R363). -/
def destroyObject (h : Word) (s : State) : State :=
  let die := hHome h
  let i := hSlot h
  slotDestroy (hType h) die i (match hType h with
    | 2 => destroyQueue h s
    | 3 => { s with channels := tdel s.channels (channelKey die i) }
    | 4 => destroyWindow die i s
    | 5 => destroyGroup i s
    | 6 => { s with conv := tdel s.conv (die * 256 + i) }
    | 7 => { s with streams := tdel s.streams i }
    | 8 => { s with cursors := tdel s.cursors i }
    | _ => { s with endpoints := tdel s.endpoints (die * 16384 + i) })

/-- The fabric requests outstanding through the outbound window that a handle names (R131). -/
def windowTags (s : State) (h : Word) : List Nat :=
  if hType h ≠ 4 || (tget? s.windows (windowKey (hHome h) (hSlot h))).all (fun w => w.inbound) then [] else
  (s.fabric.filter (fun r => r.kind != .sil && r.die == hHome h && r.window == hSlot h)).map (fun r => r.tag)

/-- OBJ_DESTROY (R25, R131, R278-destroy, R363): the body holds the object's handle. The answer of a window's waits until nothing that went
through it is outstanding. -/
def execObjDestroy (z : ZjpReq) (h : Word) (s : State) : Host.Outcome State Fault Refusal :=
  .next (zjpLive z 0x0031 (fun c s =>
    let st := if 2 ≤ hType h && hType h ≤ 9 then judgeHandle s (ctxHandle s c) h (hType h) else zsHandleInvalid
    if st ≠ zsOk then zjpFail st 0 s
    else if (slotOf s h).owner != ctxHandle s c then zjpFail zsHandleInvalid 0 s
    else
      let tags := windowTags s h
      let s := destroyObject h s
      if tags.isEmpty then zjpOk [] s else (none, { s with unmaps := s.unmaps ++ [⟨z.port, z.reqId, z.ctx, tags⟩] })) s)

end Sys2Proof.Machine
end

