-- ==== Sys2Proof/Machine/Service.lean ====
section
/-! DEFINITION. Serving (R367), SERVICE entries (R366), queue pairs and regions (R365), and inbound RDMA (R365, R376). -/

namespace Sys2Proof.Machine

/-! ## Serving requests (R367) -/

/-- The MSG entry of a SERVE, with a KIND: 0x05 delivered, 0x04 stray. (log 91: DESIGN CHOICE) -/
def serveEntry (s : State) (kind port reqId : Nat) (inline : List Byte) : List Byte :=
  toBytes 1 kind ++ toBytes 1 port ++ toBytes 2 inline.length ++ zeros 4 ++ toBytes 8 reqId ++ inline ++ zeros (40 - inline.length) ++ toBytes 8 s.time

/-- SERVE (R290, R367): delivered to the endpoint's MSG queue; the response waits for a REPLY, the TIMEOUT or the end of the binding. -/
def execServe (z : ZjpReq) (s : State) : Host.Outcome State Fault Refusal :=
  .next (zjpCtx z 0x0050 (fun c s =>
    let b := z.body
    let h := BitVec.ofNat 64 (bytesAt b 0 8)
    let inline := b.drop 16
    if b.length < 16 || b.length > 56 || bytesAt b 10 2 = 0 || bytesAt b 12 4 ≠ 0 then zjpFail zsBadDescriptor 0x0E s
    else if (svcOf s z.port).serves.length ≥ 4096 then zjpFail zsQuota 0 s
    else
      let st := judgeHandle s (ctxHandle s c) h 9
      if st ≠ zsOk then zjpFail st 0 s else
      match judgeEntry h (bytesAt b 8 2) (serveEntry s 5 z.port z.reqId inline) (serveEntry s 4 z.port z.reqId inline) s with
      | (st, s) =>
        if st ≠ zsOk then zjpFail st 0 s else
        (none, modSvc z.port (fun p => { p with serves := p.serves ++ [⟨z.reqId, z.ctx, (endpointOf s h).elim c (fun e => e.ctx), bytesAt b 10 2⟩] }) s)) s)

/-- Decide a pending SERVE with a response; a status that the tenant gives is no failure of the port. -/
def serveEnd (port : Nat) (v : Serve) (status sub : Nat) (body : List Byte) (s : State) : State :=
  zjpDeliver port v.reqId 0x0050 v.ctx status sub body (modSvc port (fun p => { p with serves := removeFirst p.serves (fun x => x == v) }) s)

/-- SERVE_TIMEOUT (R367): the TIMEOUT of a pending SERVE expires. -/
def execServeTimeout (port reqId : Nat) (s : State) : Host.Outcome State Fault Refusal :=
  .next (match (svcOf s port).serves.find? (fun v => v.reqId == reqId) with
    | none => s
    | some v => serveEnd port v zsTimeout 0xB0 [] (zjpError port v.ctx zsTimeout 0xB0 s))

/-! ## SERVICE entries (R366) -/

/-- A SERVICE entry that has been taken by the port of its queue's die. -/
structure SvcJob where
  port : Nat
  run : SvcRun
  entry : List Byte
  deriving DecidableEq, Repr

def svOp (e : List Byte) : Nat := bytesAt e 0 1
def svStatus (e : List Byte) : Nat := bytesAt e 1 1
def svQpn (e : List Byte) : Nat := bytesAt e 2 2
def svLen (e : List Byte) : Nat := bytesAt e 4 4
def svReq (e : List Byte) : Nat := bytesAt e 8 8
def svLocal (e : List Byte) : Nat := bytesAt e 0x10 8
def svRemote (e : List Byte) : Nat := bytesAt e 0x18 8
def svRkey (e : List Byte) : Nat := bytesAt e 0x20 4

/-- Is a SERVICE entry malformed (R366). -/
def serviceBad (e : List Byte) : Bool :=
  bytesAt e 0x24 28 != 0 ||
  (match svOp e with
  | 1 => svQpn e != 0 || svLen e > 8192 || svRemote e != 0 || svRkey e != 0
  | 2 => svStatus e != 0 || svLen e == 0 || svLen e > 2 ^ 31 || svReq e != 0
  | 3 => svStatus e != 0 || svLen e == 0 || svLen e > 2 ^ 31 || svReq e != 0
  | 4 => svStatus e != 0 || svLen e == 0 || svLen e > 2 ^ 31 || svReq e != 0 || svRemote e != 0 || svRkey e != 0
  | _ => true)

/-- The entry completes. -/
def svcDone (j : SvcJob) (status sub : Nat) (s : State) : State := svcComplete j.port j.run status sub [] s

/-- Take the head entry of a SERVICE queue that `mine` takes (R277): its context may start work. One that does not translate or is
malformed completes, and so does every entry for the partner while none is bound (R360); a REPLY then finds no pending SERVE. While the
link of a binding is down the entry waits. (log 46: DEDUCED; log 91: DESIGN CHOICE) -/
def svcStart (die slot : Nat) (mine : Nat → Bool) (body : SvcJob → State → State) (s : State) : State :=
  match tget? s.queues (die * 16384 + slot) with
  | none => s
  | some q =>
    if q.typ ≠ .service || occupancy q = 0 || !ctxMayStart s q.ctx || !txFits s q.ctx die 1 || !pageEnabled s (svcPage die) then s else
    let (r, s') := vRead (engAt die 21) q.ctx (entryVa q q.cons) 64 s
    let e := match r with | .ok b => bare b | .error _ => []
    if (match r with | .ok _ => true | .error _ => false) && !mine (svOp e) then s else
    let s' := consumeHead q.handle s'
    let j : SvcJob := ⟨die, ⟨q.handle, q.cons, q.ctx, q.cplQ, svOp e, svQpn e, svLen e, svLocal e⟩, e⟩
    match r with
    | .error (c, u, _) => svcDone j c u s'
    | .ok _ =>
      if serviceBad e then svcDone j zsBadDescriptor 0x0F s'
      else if (boundTo? s' die).isNone && svOp e ≠ 1 then svcDone j zsUnbound 0 s'
      else if svcState s' die ≠ 3 && svOp e ≠ 1 then s
      else body j s'

/-- Read the data that an entry transmits (R256, R376): verified, and none of it leaves where a granule is poisoned. -/
def svcRead (die c va n : Nat) (s : State) : Except (Nat × Nat) (List Byte) × State :=
  let r : Except (Nat × Nat × Nat) (List (Byte × Bool)) × State :=
    match pieces s c .read va n with
    | .error e => (.error e, s)
    | .ok ps =>
      match verifyAll die (svcPage die) c (ps.flatMap (pieceBlocks s)).eraseDups s with
      | (false, s) => (.error (zsCheckFail, 0x01, 0), s)
      | (true, s) => gRead (engAt die 21) c va n s
  match r with
  | (.error (code, sub, _), s) => (.error (code, sub), s)
  | (.ok b, s) =>
    if b.any (fun x => x.2) then (.error (zsPoison, 0x05), s) else (.ok (bare b), s)

/-- REPLY (R366, R367): the pending SERVE that the entry names, of an endpoint of its context, is answered. An opcode that no rule
gives ends here. (log 78: DEDUCED; log 91: DESIGN CHOICE) -/
def execReply (die slot : Nat) (s : State) : Host.Outcome State Fault Refusal :=
  .next (svcStart die slot (fun op => op == 1 || op == 0 || op > 4) (fun j s =>
    match (svcOf s die).serves.find? (fun v => v.reqId == svReq j.entry && v.owner == j.run.ctx) with
    | none => svcDone j zsDenied 0xB3 s
    | some v =>
      if svLen j.entry = 0 then svcDone j zsOk 0 (serveEnd die v (svStatus j.entry) 0 [] s) else
      match svcRead die j.run.ctx (svLocal j.entry) (svLen j.entry) s with
      | (.error (c, u), s) => svcDone j c u s
      | (.ok b, s) => svcDone j zsOk 0 (serveEnd die v (svStatus j.entry) 0 b s)) s)

/-- The queue pair of a port. -/
def qpOf (s : State) (port qpn : Nat) : Option QueuePair := (svcOf s port).qps.find? (fun q => q.qpn == qpn)

/-- Change a queue pair. -/
def modQp (port qpn : Nat) (f : QueuePair → QueuePair) (s : State) : State :=
  modSvc port (fun p => { p with qps := updateFirst p.qps (fun q => q.qpn == qpn) f }) s

/-- RoCEv2 packets of a transfer: path MTU 4,096 (R358). (log 92: PRESUMED) -/
def rocePkts (n : Nat) : Nat := max 1 (divUp n 4096)

/-- An entry that sends through a queue pair of its context: refused where the context has no such pair, or the pair is in the error
state. (log 92: PRESUMED) -/
def svcQp (j : SvcJob) (body : QueuePair → State → State) (s : State) : State :=
  match qpOf s j.port (svQpn j.entry) with
  | none => svcDone j zsBadDescriptor 0x0F s
  | some q =>
    if q.ctx != ctxHandle s j.run.ctx then svcDone j zsBadDescriptor 0x0F s
    else if q.error then svcDone j zsTimeout 0xB0 s
    else body q s

/-- Packets that an entry sends: a read sends its request alone, though its response takes a PSN a packet. -/
def svcSent (op n : Nat) : Nat := if op = 3 then 1 else rocePkts n

/-- Hand packets to the partner: the entry waits for their acknowledgement. -/
def svcLaunch (j : SvcJob) (q : QueuePair) (pkts : Nat) (data : List Byte) (s : State) : State :=
  let s := modQp j.port q.qpn (fun q => { q with psn := (q.psn + pkts) % 2 ^ 24 }) s
  let s := countTx j.port (svcSent (svOp j.entry) (svLen j.entry)) s
  emit (.frame j.port 2 [svOp j.entry, q.peer, q.psn, svRemote j.entry, svRkey j.entry, svLen j.entry] data)
    (modSvc j.port (fun p => { p with runs := p.runs ++ [j.run] }) s)

/-- Send an entry's local data. -/
def svcTransmit (j : SvcJob) (s : State) : State :=
  svcQp j (fun q s =>
    match svcRead j.port j.run.ctx (svLocal j.entry) (svLen j.entry) s with
    | (.error (c, u), s) => svcDone j c u s
    | (.ok b, s) => svcLaunch j q (rocePkts (svLen j.entry)) b s) s

/-- RDMA_WRITE (R366). -/
def execRdmaWrite (die slot : Nat) (s : State) : Host.Outcome State Fault Refusal := .next (svcStart die slot (· == 2) svcTransmit s)

/-- RDMA_READ (R366): the request leaves; the data come with SERVICE_ENTRY_ACKED. -/
def execRdmaRead (die slot : Nat) (s : State) : Host.Outcome State Fault Refusal :=
  .next (svcStart die slot (· == 3) (fun j s => svcQp j (fun q s => svcLaunch j q (rocePkts (svLen j.entry)) [] s) s) s)

/-- SEND (R366). -/
def execSend (die slot : Nat) (s : State) : Host.Outcome State Fault Refusal := .next (svcStart die slot (· == 4) svcTransmit s)

/-- A RoCEv2 frame of the bound partner arrives for a queue pair (R358): the partner is heard, and a congestion mark is answered with a CNP.
Management ports carry no RoCEv2 (R368). -/
def onRoce (port : Nat) (f : Frame) (qpn : Nat) (k : State → State) (s : State) : State :=
  if isMgmt port then s else
  onFrame port f (fun s =>
    if svcState s port ≠ 3 then s else
    let s := zjpHeard port s
    k (if f.ce then emit (.frame port 9 [(qpOf s port qpn).elim 0 (fun q => q.peer)] []) (countTx port 1 s) else s)) s

/-- SERVICE_ENTRY_ACKED (R366): the partner acknowledges the oldest entry of a queue pair; a read's data are written at LOCAL. -/
def execServiceEntryAcked (port : Nat) (h : RoceHead) (data : List Byte) (s : State) : Host.Outcome State Fault Refusal :=
  let qpn := h.qpn
  .next (onRoce port h.frame qpn (fun s =>
    match (svcOf s port).runs.find? (fun r => r.qpn == qpn) with
    | none => s
    | some r =>
      let s := if r.op = 3 then countRx port (rocePkts r.len - 1) s else s
      let s := modQp port qpn (fun q => { q with retries := 0, acked := 0 }) s
      if r.op ≠ 3 then svcComplete port r zsOk 0 [] s
      else if (ctxAt s r.ctx).all (fun x => x.state != .active) then svcComplete port r zsStaleContext 0 [] s
      else
        match gWriteC (engAt port 21) r.ctx r.loc (clean ((data ++ zeros (r.len - data.length)).take r.len)) [] s with
        | (some (c, u, _), s) => svcComplete port r c u [] s
        | (none, s) => svcComplete port r zsOk 0 [] s) s)

/-! ## Queue pairs and regions (R365) -/

/-- QP_CONNECT (R365): the partner's QPN and initial PSN, and the requested local QPN; the result is the local PSN.
(log 16: DESIGN CHOICE; log 92: PRESUMED) -/
def execQpConnect (z : ZjpReq) (peer psn qpn : Nat) (s : State) : Host.Outcome State Fault Refusal :=
  .next (zjpLive z 0x0040 (fun _ s =>
    if peer ≥ 2 ^ 24 || psn ≥ 2 ^ 24 || qpn ≥ 2 ^ 16 then zjpFail zsBadDescriptor 0x0E s
    else if (svcOf s z.port).qps.length ≥ 1024 then zjpFail zsQuota 0 s
    else if (qpOf s z.port qpn).isSome then zjpFail zsContended 0 (recContended (svcPage z.port) s)
    else
      let (d, s) := draw s
      let own := (Config.random d).toNat % 2 ^ 24
      zjpOk (toBytes 4 own) (modSvc z.port (fun p => { p with qps := p.qps ++ [⟨qpn, peer, z.ctx, own, psn, false, 0, 0⟩] }) s)) s)

/-- Fail every entry of a queue pair that the partner has not acknowledged. -/
def failRuns (port qpn status sub : Nat) (s : State) : State :=
  forL ((svcOf s port).runs.filter (fun r => r.qpn == qpn)) (fun r s => svcComplete port r status sub [] s) s

/-- QP_CLOSE (R365): entries that are still outstanding complete as those of a pair in the error state. (log 92: PRESUMED) -/
def execQpClose (z : ZjpReq) (qpn : Nat) (s : State) : Host.Outcome State Fault Refusal :=
  .next (zjpLive z 0x0041 (fun _ s =>
    if !(qpOf s z.port qpn).any (fun q => q.ctx == z.ctx) then zjpFail zsHandleInvalid 0 s else
    let s := failRuns z.port qpn zsTimeout 0xB0 s
    zjpOk [] (modSvc z.port (fun p => { p with qps := p.qps.filter (fun q => q.qpn != qpn) }) s)) s)

/-- The lowest rkey from 1 that no region of the port has. (log 92: PRESUMED) -/
def freeRkey (l : List MemRegion) : Nat := ((List.range (l.length + 1)).find? (fun i => !l.any (fun m => m.rkey == i + 1))).getD 0 + 1

/-- MR_REGISTER (R365): a 4 KiB aligned range with remote permissions; the result is the rkey. (log 16: DESIGN CHOICE) -/
def execMrRegister (z : ZjpReq) (va len perm : Nat) (s : State) : Host.Outcome State Fault Refusal :=
  .next (zjpLive z 0x0042 (fun _ s =>
    if va % 4096 ≠ 0 || len = 0 || len % 4096 ≠ 0 || va + len > 2 ^ 64 || perm = 0 || perm > 3 then zjpFail zsBadDescriptor 0x0E s else
    let k := freeRkey (svcOf s z.port).mrs
    zjpOk (toBytes 4 k) (modSvc z.port (fun p => { p with mrs := p.mrs ++ [⟨k, z.ctx, va, len, perm⟩] }) s)) s)

/-- MR_DEREGISTER (R365): every inbound access through the rkey has been performed in its own step. -/
def execMrDeregister (z : ZjpReq) (rkey : Nat) (s : State) : Host.Outcome State Fault Refusal :=
  .next (zjpLive z 0x0043 (fun _ s =>
    if !(svcOf s z.port).mrs.any (fun m => m.rkey == rkey && m.ctx == z.ctx) then zjpFail zsHandleInvalid 0 s else
    zjpOk [] (modSvc z.port (fun p => { p with mrs := p.mrs.filter (fun m => m.rkey != rkey) }) s)) s)

/-- The region and context slot of an inbound access that R365 admits: the pair is open, the range lies in the region, which permits
it, and the context is active. (log 92: PRESUMED) -/
def inboundCtx (s : State) (port qpn rkey va len perm : Nat) : Option Nat :=
  match qpOf s port qpn, (svcOf s port).mrs.find? (fun m => m.rkey == rkey) with
  | some q, some m =>
    if q.error || q.ctx != m.ctx || !bit m.perm perm || va < m.va || va + len > m.va + m.len then none else
    let c := hSlot m.ctx
    if (ctxAt s c).any (fun x => x.handle == m.ctx && x.state == .active) then some c else none
  | _, _ => none

/-- Answer an inbound access with a NAK: 4 remote access, counted in SVP_RX_DROP, or 5 remote operation. -/
def inboundNak (port qpn kind : Nat) (s : State) : State :=
  let s := if kind = 4 then countDrop port 1 s else s
  emit (.frame port kind [(qpOf s port qpn).elim 0 (fun q => q.peer)] []) (countTx port 1 s)

/-- Answer a queue pair's partner with one frame. -/
def roceReply (port qpn kind : Nat) (s : State) : State :=
  emit (.frame port kind [(qpOf s port qpn).elim 0 (fun q => q.peer)] []) (countTx port 1 s)

/-- An inbound request of `pkts` PSNs from `psn` on (R358): the expected one is performed and moves the expected PSN, one that lies behind
is a repetition, and one ahead of it is refused with a sequence NAK (go-back-N). -/
def inPsn (port qpn psn pkts : Nat) (again k : State → State) (s : State) : State :=
  match qpOf s port qpn with
  | none => k s
  | some q =>
    if serialCmp psn q.peerPsn 24 = .equal then k (modQp port qpn (fun q => { q with peerPsn := (q.peerPsn + pkts) % 2 ^ 24 }) s)
    else if serialCmp psn q.peerPsn 24 = .newer then roceReply port qpn 7 s
    else again s

/-- Issue what part of an inbound write lies in a link window as puts that nobody waits for (R281, R365). -/
def inboundPuts (c : Nat) (l : List (Byte × Bool)) (ms : List DmaMove) (s : State) : State :=
  forL ms (fun m s =>
    match outWindow s m.die m.slot m.off m.len with
    | .error _ => s
    | .ok w =>
      let tag := s.nextTag
      let p := windowPacket s w opPut m.off 0 0 0 0 (ctxHandle s c) ((l.drop m.va).take m.len)
      let (sent, s) := fabIssue ⟨tag, .put, m.die, m.slot, ctxHandle s c, m.len, 0, m.va, 0, 0, .nobody⟩ p s
      if sent then s else fabFail tag zsUnreachable 0 s) s

/-- Write the data of an inbound write (R281, R365): memory and DEVICE pages at once, link windows through puts; the first failure.
(log 28: DESIGN CHOICE) -/
def inboundWrite (port c va : Nat) (l : List (Byte × Bool)) (s : State) : Option (Nat × Nat × Nat) × State :=
  match pieces s c .write va l.length with
  | .error e => (some e, s)
  | .ok ps =>
    if !ps.any (fun p => p.mt == 3) then gWriteC (engAt port 21) c va l [] s else
    ps.foldl (fun (acc : Option (Nat × Nat × Nat) × State) p =>
      if acc.1.isSome then acc else
      let at' := p.va - va
      if p.mt = 3 then
        match linkMoves acc.2 p (fun die slot off i n => ⟨die, slot, off, at' + i, false, n, 0, [], none⟩) with
        | .error (code, sub) => (some (code, sub, p.va), acc.2)
        | .ok ms => (none, inboundPuts c l ms acc.2)
      else gWriteC (engAt port 21) c p.va ((l.drop at').take p.n) [] acc.2) (none, s)

/-- INBOUND_RDMA_WRITE (R358, R365): a DMA write in the owning context, acknowledged, or answered with a NAK; a repetition is acknowledged
and not performed again. (log 92: PRESUMED) -/
def execInboundRdmaWrite (port : Nat) (h : RoceHead) (rkey va : Nat) (data : List Byte) (s : State) : Host.Outcome State Fault Refusal :=
  let qpn := h.qpn
  .next (onRoce port h.frame qpn (fun s =>
    inPsn port qpn h.psn (rocePkts data.length) (roceReply port qpn 3) (fun s =>
      let s := countRx port (rocePkts data.length - 1) s
      match inboundCtx s port qpn rkey va data.length 1 with
      | none => inboundNak port qpn 4 s
      | some c =>
        match inboundWrite port c va (clean data) s with
        | (some (code, sub, _), s) =>
          let s := recErr (svcPage port) c sub code s
          inboundNak port qpn 4 (if code = zsPoison then killForPoison (svcPage port) c sub s else s)
        | (none, s) => roceReply port qpn 3 s) s) s)

/-- Perform an inbound read (R365, R376): the data come back, a failed check is a remote-operation NAK, and poison kills the context.
(log 28: DESIGN CHOICE) -/
def inboundRead (port qpn rkey va len : Nat) (s : State) : State :=
  match inboundCtx s port qpn rkey va len 0 with
  | none => inboundNak port qpn 4 s
  | some c =>
    match svcRead port c va len s with
    | (.ok b, s) => emit (.frame port 6 [(qpOf s port qpn).elim 0 (fun q => q.peer)] b) (countTx port (rocePkts len) s)
    | (.error (code, sub), s) =>
      if code = zsCheckFail then inboundNak port qpn 5 (recErr (svcPage port) c sub code s)
      else if code = zsPoison then inboundNak port qpn 5 (poisonKill (svcPage port) c sub s)
      else inboundNak port qpn 4 (recErr (svcPage port) c sub code s)

/-- INBOUND_RDMA_READ (R358, R365): a repetition is performed again. -/
def execInboundRdmaRead (port : Nat) (h : RoceHead) (rkey va len : Nat) (s : State) : Host.Outcome State Fault Refusal :=
  let qpn := h.qpn
  .next (onRoce port h.frame qpn (fun s =>
    inPsn port qpn h.psn (rocePkts len) (inboundRead port qpn rkey va len) (inboundRead port qpn rkey va len) s) s)

/-- The packets that a queue pair has sent, or asked for, and that are not acknowledged: those of its entries, but `acked` of the oldest. -/
def roceOpen (s : State) (port qpn acked : Nat) : Nat :=
  ((svcOf s port).runs.filter (fun r => r.qpn == qpn)).foldl (fun n r => n + svcSent r.op r.len) 0 - acked

/-- ROCE_RETRY_TIMEOUT (R358, R365): the partner has acknowledged `acked` packets of the pair's oldest entry, and no further one in time; the
pair resends from its oldest unacknowledged packet on. Each packet has its own 7 retries. -/
def execRoceRetryTimeout (port qpn acked : Nat) (s : State) : Host.Outcome State Fault Refusal :=
  .next (match qpOf s port qpn, (svcOf s port).runs.find? (fun r => r.qpn == qpn) with
    | some q, some r =>
      let a := max q.acked (min acked (svcSent r.op r.len - 1))
      let tries := if q.acked < a then 0 else q.retries
      if q.error || tries ≥ 7 || svcState s port ≠ 3 then s else
      let n := roceOpen s port qpn a
      bump (svcPage port + Reg.SVP_ROCE_RETX) n (countTx port n (modQp port qpn (fun q => { q with retries := tries + 1, acked := a }) s))
    | _, _ => s)

/-- QP_RETRY_EXHAUSTED (R365): after 7 retries the pair is in the error state, and its entries complete. -/
def execQpRetryExhausted (port qpn : Nat) (s : State) : Host.Outcome State Fault Refusal :=
  .next (match qpOf s port qpn with
    | none => s
    | some q => if q.error || q.retries < 7 then s else failRuns port qpn zsTimeout 0xB0 (modQp port qpn (fun q => { q with error := true }) s))

end Sys2Proof.Machine
end

