-- ==== Sys2Proof/Machine/Recovery.lean ====
section
/-! DEFINITION. Device recovery reset (R412 to R418): what it keeps and discards (R28, R231, R261, R414, R415, R490), fences (R17 to R19,
R21), the failed state (R418), the crash dump (R419), and the phases of R413. -/

namespace Sys2Proof.Machine

/-! ## What a reset keeps -/

/-- What a recovery reset keeps of a stored block-specific register, as a mask (R490): the rest returns to its reset value. HOLD and the
switch positions of RVL_BYPASS stay (R416), as do values that show a state of the hardware that no reset changes. (log 96: DEDUCED) -/
def keptBits (p : PageRef) (off : Nat) : Nat :=
  let all := 2 ^ 64 - 1
  match p.blk with
  | .pcd => if off = Reg.PCD_DIE_MAP then all else if off = Reg.PCD_LANDS then 0x30 else 0
  | .memc =>
    if p.page = 0 then (if off = Reg.MEMC_PC_FAILED || off = Reg.MEMC_SPARE_MAP then all else 0)
    else if off = Reg.MEMC_SURV_SEL || off = Reg.MEMC_PATROL_POS then all else 0
  | .rvl => if off = Reg.RVL_PORT_STATE || off = Reg.RVL_PEER then all else if off = Reg.RVL_BYPASS then 0xE else 0
  | .rvlDie => if off = Reg.RVL_POSITION then all else 0
  | .dry => all
  | .clk => if off = Reg.CLK_STATUS then all else 0
  | .pwr => if off = Reg.PWR_STATE || off = Reg.PWR_VIN || off = Reg.PWR_IIN || off = Reg.PWR_PIN then all else 0
  | .twl => if p.page = 1 && off = Reg.TWL_REPAIRS then all else 0
  | .ors => if off = Reg.ORS_PULLS then all else if off = Reg.ORS_DBG_STATE then 4 else 0
  | _ => 0

/-- The registers after a reset: every header field and every field that R490 does not keep is at its reset value. (log 96: DEDUCED) -/
def resetRegs (s : State) : Tab Word :=
  s.regs.filterMap (fun e =>
    match pageOf e.1 with
    | none => none
    | some p =>
      let off := e.1 % 4096
      let m := if off < 0x40 then 0 else keptBits p off
      if m = 0 then none else
      let r := regReset e.1
      some (e.1, BitVec.ofNat 64 ((e.2.toNat &&& m) + (r - (r &&& m)))))

/-! ## Discards -/

/-- The handle slots after a reset (R28, R415): live slots advance or are retired, and every retired slot returns to service. -/
def resetSlots (t : Tab Slot) : Tab Slot :=
  tmapv t (fun _ sl =>
    let gone := if sl.live then (if sl.gen + 1 = 0xFFFFFF then { sl with live := false, retired := true } else { sl with live := false, gen := sl.gen + 1 }) else sl
    if gone.retired then ⟨0, 0, false, false, []⟩ else { gone with shared := [] })

/-- Line addresses whose newest bytes only a Weave cache held: M and reduction lines outside survivor regions (R231). -/
def lostLines (s : State) : List Nat :=
  ((s.weaves.flatMap (fun w => w.2.sets.flatMap (fun t => (t.2.ways.filter (fun l => l.state == .m || isReduction l.state)).map (fun l => l.la)))).eraseDups).filter
    (fun la => !inSurvivor s (la * 128))

/-- The bytes of lost lines are no longer what was written: each is a free value (R231, R261). (log 12: DESIGN CHOICE) -/
def loseLines (s : State) : State :=
  forL (lostLines s) (fun la s => { s with mem := memPut s.mem (la * 128) ((List.range 128).map (fun i => Config.freeByte s.draws (la * 128 + i))) })
    { s with draws := s.draws + 1 }

/-- What stays of a link port: its logical link state (R348, R414). (log 82: DEDUCED; log 96: DEDUCED) -/
def keptPort (l : LinkPort) : LinkPort := { LinkPort.fresh with peer := l.peer, met := l.met, metPosition := l.metPosition, resume := l.resume }

/-- What stays of a memory controller: failed pseudo-channels without a rebuilt spare are rebuilt from the start (R252, R261).
(log 96: DEDUCED) -/
def keptStack (s : State) (die stack : Nat) (x : Stack) : Stack :=
  { Stack.empty with waitRebuild := (match rebuildOf s die stack with | some (n, _) => [n] | none => []) ++ x.waitRebuild }

/-- The comparators after a reset: claims of the cadence unit and the loom watchdog are released (R456). (log 96: DEDUCED) -/
def keptCmps (t : Tab Cmp) : Tab Cmp := t.filter (fun c => c.2.owner != 2 && c.2.owner != 3)

/-- The logic of every live die is reset (R413, phase 3; R414, R415, R490). (log 96: DEDUCED) -/
def resetLogic (s0 : State) : State :=
  let s := loseLines s0
  let dies := liveDies s
  let s := { s with
    regs := resetRegs s, slots := resetSlots s.slots, intRaised := [], intQueue := [], captures := [], heldLow := [], ctxs := [], ctxIdents := [],
    teardownTicks := [], staleRx := [], ctxKept := [], unmaps := [], queues := [], endpoints := [], channels := [], dmaRuns := [], conv := [], dispatches := [],
    schedAt := [], delayed := [], heldRoles := [], looms := [], saved := [], weaves := [],
    drams := tmapv s.drams (fun k x => keptStack s (k / 4) (k % 4) x),
    checked := s.checked.filter (fun f => inSurvivor s (f * 65536)),
    chk := [], suspects := [], windows := [], ports := tmapv s.ports (fun _ l => keptPort l), routeHolds := [], heldPkts := [], loop := [], fabric := [],
    groups := [], cursors := [], streams := [],
    stores := s.stores.map (fun r => if r.group = 0 then r else { r with group := 0, lostAt := s.time }),
    cadence := ⟨0, none⟩, svc := [], zjp := [], suspectAt := [],
    sys := { s.sys with servo := ⟨0, 0, 0⟩, ppsLast := none, gates := [], kicks := [], cmps := keptCmps s.sys.cmps, twinAct := false } }
  forL dies (fun d s => forN 4 (fun k s => nextRebuild d k s) s) s

/-! ## Fences (R17 to R21) -/

/-- The die-to-die edges. -/
def dieEdges : List (Nat × Nat) := [(0, 1), (1, 2), (2, 3), (7, 6), (6, 5), (5, 4), (0, 7), (1, 6), (2, 5), (3, 4)]

/-- The dies of a list that can be reached from those of a set over the edges. -/
def reach (fuel : Nat) (l r : List Nat) : List Nat :=
  match fuel with
  | 0 => r
  | f + 1 => reach f l (l.filter (fun d => r.contains d || dieEdges.any (fun e => (e.1 == d && r.contains e.2) || (e.2 == d && r.contains e.1))))

/-- The largest connected set of live dies, that with the lowest-numbered die among equals (R19). -/
def largestSet (l : List Nat) : List Nat :=
  (l.map (fun d => reach 8 l [d])).foldl (fun b c => if c.length > b.length then c else b) []

/-- PCD_DIE_MAP with a LIVE and a FENCED mask. -/
def dieMapOf (live fenced last : Nat) : Nat := live + fenced * 2 ^ 8 + popcount 8 live * 2 ^ 16 + last * 2 ^ 20

/-- A record store without the slots that have frames on a fenced die. (log 99: DEDUCED) -/
def storeFenced (die : Nat) (r : RecStore) : RecStore :=
  let cut (l : List Nat) : List Nat := if l.any (fun f => homeDie f == die) then [] else l
  { r with slotA := cut r.slotA, slotB := cut r.slotB }

/-- Fence a die (R18, R21, R421): cause 1 self-test, 2 DRAM, 3 connectivity. (log 99: DEDUCED) -/
def fenceDie (cause d : Nat) (s : State) : State :=
  let m := reg s dieMapAddr
  let live := setBits (bits m 7 0) d d 0
  let s := abandonTests d 2 s
  let s := setReg dieMapAddr (dieMapOf live (setBits (bits m 15 8) d d 1) d) s
  let s := { s with
    mem := memClear s.mem (d * dieDram) dieDram, poison := s.poison.filter (fun g => g * 64 / dieDram != d),
    checked := s.checked.filter (fun f => homeDie (f * 65536) != d), survivors := s.survivors.filter (fun e => e.1 / 16 != d),
    stores := s.stores.map (storeFenced d), drams := s.drams.filter (fun x => x.1 / 4 != d),
    svc := tdel s.svc d, zjp := tdel s.zjp d }
  let s := forN 18 (fun p s => if (linkHome (2 * p)).1 = d then toBypass p s else s) s
  logDry 15 0 0x0006 [d, cause, live] s

/-- Fence dies for a cause, then every die outside the largest connected set (R19). -/
def fenceDies (cause : Nat) (l : List Nat) (s : State) : State :=
  let s := forL (l.filter (fun d => d < 8 && !dieFenced s d)) (fun d s => if dieFenced s d then s else fenceDie cause d s) s
  let keep := largestSet (liveDies s)
  forL ((liveDies s).filter (fun d => !keep.contains d)) (fun d s => fenceDie 3 d s) s

/-- A die comes into service (R21). -/
def bringLive (d : Nat) (s : State) : State :=
  let m := reg s dieMapAddr
  if dieFenced s d then s else setReg dieMapAddr (dieMapOf (setBits (bits m 7 0) d d 1) (bits m 15 8) (bits m 23 20)) s

/-! ## Phases, failure (R413, R418) -/

/-- Show a phase in DRY_STATUS and note when it began. -/
def setPhase (n : Nat) (s : State) : State := modSys (fun y => { y with phaseAt := s.time }) (setField (dryPage + Reg.DRY_STATUS) 3 0 n s)

/-- Log the end of the phase in progress. -/
def logPhase (restart : Bool) (s : State) : State :=
  logDry 15 0 0x0003 ([resetPhase s, (s.time - s.sys.phaseAt) / 100] ++ if restart then [1] else []) s

/-- The package declares itself failed (R418, R421, R425): compute logic is off, every pair is held in bypass, and FAULT_N is asserted.
(log 98: DEDUCED) -/
def declareFailed (cause : Nat) (s : State) : State :=
  let s := logDry 15 0 0x0005 [cause] (setPend dryPage 8 (setField (dryPage + Reg.DRY_STATUS) 4 4 1 (setPhase 0 s)))
  let s := allBypass (modSys (fun y => { y with failed := true, imageWrite := none, cfgWrite := none, pull := none, entering := none }) s)
  forL [1, 2, 3, 4, 5, 6] (fun p s => if dieLive s p then setSvcState p 0 (modSvc p (fun _ => .empty) s) else s) s

/-- Some junction is above 105 °C or some DRAM die above 95 °C, as last sampled (R478). (log 98: DEDUCED) -/
def tooHot (s : State) : Bool :=
  s.sys.junction.any (fun j => j.2 > 105) ||
    (liveDies s).any (fun d => (List.range 4).any (fun k => bits (reg s (memcPage d k + Reg.MEMC_TEMP)) 7 0 > 95))

/-- Close the JTAG gate (R439). -/
def closeGate (s : State) : State := setField (orsPage + Reg.ORS_DBG_STATE) 1 0 0 s

/-- Begin a recovery reset or a wake (R413, R440, R453): logged, INCARNATION + 1. (log 97: DEDUCED) -/
def beginReset (trigger detail : Nat) (s : State) : State :=
  let s := bumpSat (dryPage + Reg.DRY_INCARNATION) 1 s
  let s := logDry 15 0 0x0002 [trigger, detail, incarnation s] (setField (dryPage + Reg.DRY_STATUS) 15 8 trigger s)
  closeGate (modSys (fun y => { y with resetAt := s.time, imageWrite := none, cfgWrite := none, pull := none }) s)

/-- A wake from DORMANT or STANDBY (R450, R453). From STANDBY it is logged once the recorder has its ring back. (log 97: DEDUCED) -/
def startWake (s : State) : State :=
  match s.sys.power with
  | .dormant => modSys (fun y => { y with power := .raise, startKind := 2, phaseAt := s.time }) (newHandleKey (beginReset 10 0 s))
  | .standby => modSys (fun y => { y with power := .seq 2, startKind := 2, phaseAt := s.time }) s
  | _ => s

/-- Resets that have started within the window that DRY_STORM sets (R418, R425). (log 97: DEDUCED) -/
def stormCount (s : State) : Nat :=
  let w := bits (reg s (dryPage + Reg.DRY_STORM)) 31 16 * 100000000
  s.sys.resets.countP (fun t => s.time < t + w)

/-- DRY_STORM.LIMIT, at least 2. -/
def stormLimit (s : State) : Nat := max 2 (bits (reg s (dryPage + Reg.DRY_STORM)) 3 0)

/-- Phase 1 begins (R413): issue stops, tests are abandoned, every pair moves to bypass. -/
def phaseOne (s : State) : State :=
  allBypass (forL (liveDies s) (fun d s => abandonTests d 1 s) (setPhase 1 s))

/-- A trigger of a recovery reset (R412, R417, R418, R454): absorbed during one, a wake where the package sleeps, a storm where too many
have started; in the failed state only RST_N and RECOVERY_RESET (triggers 6 and 7) start one. Lost lock starts phase 1 on relock.
(log 97: DEDUCED) -/
def startRecovery (trigger detail : Nat) (s : State) : State :=
  match s.sys.power with
  | .dormant => startWake s
  | .standby => startWake s
  | .on =>
    if s.sys.entering.isSome then modSys (fun y => { y with entering := y.entering.map (fun e => { e with wake := true }) }) s
    else if resetPhase s ≠ 0 || (s.sys.clocksOff && !s.sys.failed) then logDry 15 0 0x0008 [trigger, detail] s
    else if s.sys.failed && !(trigger = 6 || trigger = 7) then s
    else if !s.sys.failed && stormCount s + 1 ≥ stormLimit s then declareFailed 3 s
    else
      let s := modSys (fun y => { y with startKind := 1, resets := s.time :: y.resets, noResp := [], cut := none }) (beginReset trigger detail s)
      if trigger = 9 then modSys (fun y => { y with clocksOff := true }) s else phaseOne s
  | _ => s

/-! ## The crash dump (R419) -/

/-- Every page of the control windows of the live dies and of the PCD, in ascending address order. (log 108: DEDUCED) -/
def dumpOrder (s : State) : List PageRef :=
  let window (die : Nat) : List PageRef :=
    (List.range 16).flatMap (fun region => ((if region = 11 then List.range 6 ++ [0x40] else List.range 32)).flatMap (fun inst =>
      match (if die = 15 then pcdBlock region inst else dieBlock die region inst) with
      | some (b, n) => (List.range n).map (fun page => ⟨b, die, inst, page⟩)
      | none => []))
  (liveDies s).flatMap window ++ window 15

/-- The word of a page at an offset, as the dump reads it: no capture is taken. -/
def dumpWord (s : State) (p : PageRef) (off : Nat) : Nat :=
  match rowCovering p off with
  | none => 0
  | some r => if off = r.off then regValue s p r.off % 2 ^ 32 else regValue s p r.off / 2 ^ 32 % 2 ^ 32

/-- A dump entry: whole, cut short by a read that timed out, or not reached. (log 108: DEDUCED) -/
def dumpEntry (s : State) (i : Nat) (p : PageRef) : DumpPage :=
  if s.sys.cut.any (fun n => n ≤ i) then ⟨p.addr, zsTimeout, 0, []⟩ else
  match tget? s.sys.noResp p.addr with
  | some n => ⟨p.addr, zsNoResponse, n, (List.range n).map (fun k => dumpWord s p (4 * k))⟩
  | none => ⟨p.addr, zsOk, 124, (List.range 124).map (fun k => dumpWord s p (4 * k))⟩

/-- Take the dump, which replaces the previous one. (log 108: DEDUCED) -/
def takeDump (s : State) : State :=
  let d := (dumpOrder s).zipIdx.map (fun p => dumpEntry s p.2 p.1)
  setReg (dryPage + Reg.DRY_DUMP_NORESP) (d.countP (fun e => e.status == zsNoResponse))
    (setReg (dryPage + Reg.DRY_DUMP_PAGES) (d.countP (fun e => e.status != zsTimeout)) (modSys (fun y => { y with dump := d }) s))

/-- DUMP_NO_RESPONSE (R419): the read of a word of a page times out and ends its page. -/
def execDumpNoResponse (page off : Nat) (s : State) : Host.Outcome State Fault Refusal :=
  .next (if resetPhase s ≠ 2 then s else
    match pageOf page with
    | none => s
    | some p =>
      if (tget? s.sys.noResp p.addr).isSome then s else
      logDry 15 14 0x0007 [p.addr % 2 ^ 32, p.addr / 2 ^ 32, off % 4096]
        (modSys (fun y => { y with noResp := tset y.noResp p.addr (min 124 (off % 4096 / 4)) }) s))

/-- DUMP_CUT (R419): the dump reaches 40 ms with `pages` pages collected. -/
def execDumpCut (pages : Nat) (s : State) : Host.Outcome State Fault Refusal :=
  .next (if resetPhase s ≠ 2 || s.sys.cut.isSome then s else logDry 15 14 0x0009 [pages] (modSys (fun y => { y with cut := some pages }) s))

/-! ## The phases (R413) -/

/-- Bring every array into service or retire it (R219, R413 phase 6). (log 95: DEDUCED) -/
def calibrate (bad : List Nat) (s : State) : State :=
  forL (liveDies s) (fun d s => forN 32 (fun i s =>
    let loom := d * 32 + i
    let p := twlPage loom 1
    if bad.contains loom then setField (p + Reg.TWL_REPAIR_STAT) 9 9 1 s else
    let s := match tget? s.sys.repairs loom with
      | none => s
      | some v => bumpSat (p + Reg.TWL_REPAIRS) 1 (setField (p + Reg.TWL_REPAIR_STAT) 3 0 (rowDelay v + 4 * colDelay (bits v 22 16) + 8 * colDelay (bits v 30 24))
          (setReg (p + Reg.TWL_REPAIR) v s))
    setField (p + Reg.TWL_REPAIR_STAT) 8 8 1 s) s) s

/-- Write OPEN on every pair of a live die that is neither held nor under a low TWIN_HOLD_N (R401, R413 phase 8, R416). -/
def openPairs (s : State) : State :=
  forN 18 (fun p s => if dieLive s (linkHome (2 * p)).1 && !pairHeld s p then openPair p s else s) s

/-- The image has been verified (R413 phase 3): it boots, and Orris draws a new handle key and nonce. -/
def bootPhase (s : State) : Option State := (bootBank s).map (fun i => newNonce (newHandleKey (bootImage i s)))

/-- Phase 8 ends (R413, R425): the reset is over. A power-up logs no end. (log 97: DEDUCED) -/
def endReset (s : State) : State :=
  let ms := (s.time - s.sys.resetAt) / 100000
  let s := modSys (fun y => { y with failed := false }) (setField (dryPage + Reg.DRY_STATUS) 4 4 0 (setPhase 0 s))
  if s.sys.startKind = 0 then s else
  setPend dryPage 4 (setReg (dryPage + Reg.DRY_RESET_MS) (sat32 ms) (logDry 15 0 0x0004 [ms % 2 ^ 32, bits (reg s dieMapAddr) 7 0] s))

/-- After phases 4 and 5: fewer than two live dies are a failure (R19, R418). -/
def nextOrFail (n : Nat) (s : State) : State := if (liveDies s).length < 2 then declareFailed 2 s else setPhase n s

/-- RECOVERY_PHASE_COMPLETE (R413): the phase in progress reaches its condition. `bad` are the dies that fail self-test (phase 4), the
dies with a stack that fails (phase 5), or the looms that no repair brings into service (phase 6).
(log 3: DESIGN CHOICE; log 103: DEDUCED) -/
def execRecoveryPhaseComplete (bad : List Nat) (s : State) : Host.Outcome State Fault Refusal :=
  .next (if s.sys.clocksOff then s else
    match resetPhase s with
    | 1 => setPhase 2 (logPhase false s)
    | 2 => if s.sys.rstLow then s else setPhase 3 (logPhase false (resetLogic (takeDump s)))
    | 3 =>
      if s.sys.pull.isSome then s else
      match bootPhase s with
      | none => discover 7 s
      | some s => setPhase 4 (logPhase false s)
    | 4 =>
      let s := logPhase false s
      let s := forN 8 (fun d s => if bad.contains d then s else bringLive d s) s
      nextOrFail 5 (fenceDies 1 bad s)
    | 5 => nextOrFail 6 (fenceDies 2 (bad.filter (dieLive s)) (logPhase false s))
    | 6 => settleFloors (setPhase 7 (logPhase false (calibrate bad s)))
    | 7 =>
      let s := loadCfg (selectCfg (logPhase false s))
      let s := if s.sys.startKind = 1 then cadEvent s else s
      openPairs (setPhase 8 s)
    | 8 => endReset (logPhase false s)
    | _ => s)

/-- RECOVERY_PHASE_OVERRUN (R413): the reset restarts at phase 3, and the restart is logged. -/
def execRecoveryPhaseOverrun (s : State) : Host.Outcome State Fault Refusal :=
  .next (if resetPhase s = 0 || s.sys.clocksOff then s else setPhase 3 (resetLogic (allBypass (logPhase true (modSys (fun y => { y with pull := none }) s)))))

/-- RESET_LIMIT_EXPIRY (R418): phase 8 has not ended 10 s after the trigger. -/
def execResetLimitExpiry (s : State) : Host.Outcome State Fault Refusal :=
  .next (if resetPhase s = 0 || s.sys.startKind = 0 then s else declareFailed 1 s)

/-! ## Triggers (R409, R412) -/

/-- RST_N (R412, R439, R475, R478): low for at least 10 µs. (log 98: DEDUCED; log 109: DESIGN CHOICE) -/
def execRstN (s : State) : Host.Outcome State Fault Refusal :=
  .next (let s := closeGate (modSys (fun y => { y with rstLow := true }) s)
    if failedNow s && tooHot s then s else startRecovery 6 0 s)

/-- RST_N_RELEASE (R417, R475): a hold ends; the limit of R418 counts from here. (log 109: DESIGN CHOICE) -/
def execRstNRelease (s : State) : Host.Outcome State Fault Refusal :=
  .next (modSys (fun y => { y with rstLow := false, resetAt := if y.rstLow && 1 ≤ resetPhase s && resetPhase s ≤ 2 then s.time else y.resetAt }) s)

/-- RESET_REQ (R412): firmware writes DRY_CTRL.RESET_REQ. -/
def execResetReq (s : State) : Host.Outcome State Fault Refusal := .next (startRecovery 8 0 s)

/-- A detector of R409 is enabled and runs: the package is ACTIVE. -/
def detectorOn (s : State) (i : Nat) : Bool := s.sys.power == .on && bit (reg s (dryPage + Reg.DRY_WD_EN)) i

/-- HEARTBEAT_TIMEOUT (R409): a die's SCH_HEARTBEAT has not changed for DRY_WD_HB. -/
def execHeartbeatTimeout (die : Nat) (s : State) : Host.Outcome State Fault Refusal :=
  .next (if detectorOn s 1 && dieLive s die then startRecovery 2 die s else s)

/-- CORE_WD_TIMEOUT (R409): a control core has not kicked within DRY_WD_CORE of its last kick. (log 3: DESIGN CHOICE) -/
def execCoreWdTimeout (die core : Nat) (s : State) : Host.Outcome State Fault Refusal :=
  .next (let k := die * 4 + core % 4
    if detectorOn s 2 && dieLive s die && reg s (dryPage + Reg.DRY_WD_CORE) ≤ s.time - tgetD s.sys.kicks k 0 then startRecovery 3 k s else s)

/-- DRY_CORE_KICK (R409): control cores kick their watchdogs. -/
def execDryCoreKick (mask : Nat) (s : State) : Host.Outcome State Fault Refusal :=
  .next (modSys (fun y => { y with kicks := (maskList 32 mask).foldl (fun t k => tset t k s.time) y.kicks }) s)

/-- ORRIS_WD (R409, R441): a lockstep mismatch, or no Orris kick for 100 ms. It cannot be disabled. -/
def execOrrisWd (mismatch : Bool) (s : State) : Host.Outcome State Fault Refusal :=
  .next (let s := if mismatch then setPend orsPage 4 (bumpSat (orsPage + Reg.ORS_LOCKSTEP) 1 s) else s
    if s.sys.power = .on then startRecovery 4 0 s else s)

/-- LINK_TX_STALL (R409): an UP port's transmit count has not changed for 1 ms. -/
def execLinkTxStall (port : Nat) (s : State) : Host.Outcome State Fault Refusal :=
  .next (if detectorOn s 3 && portUp s port then startRecovery 5 port s else s)

/-- LOOM_WD_STAGE1 (R410, R426): the progress counter reaches DRY_WD_LOOM; the skeins of the context are halted with a loom fault.
(log 3: DESIGN CHOICE) -/
def execLoomWdStage1 (loom : Nat) (east : Bool) (s : State) : Host.Outcome State Fault Refusal :=
  let saving := savingHalf s loom false || savingHalf s loom true
  .next (match leaseOf s loom east, (halfSkeins s loom east).head? with
    | some x, some (slot, k) =>
      if !detectorOn s 0 || (loomOf s loom).stopped || saving || inReset s then s else
      let l := (halfSkeins s loom east).map (fun k => k.1)
      let s := modLoom loom (fun l => if east then { l with wdEast := true } else { l with wdWest := true }) (logDry (loom / 32) 1 0x0010 [loom, x.ctx] s)
      let g := k.groups.head?
      loomFault loom slot l zsTimeout 0xE0 4 (g.elim 0 (fun g => g.pc)) 0 (g.elim 0 (fun g => g.mask)) 0 s
    | _, _ => s)

/-- LOOM_WD_STAGE2 (R410): after stage 1, or after its last context left, the loom or half is not idle within the limit. -/
def execLoomWdStage2 (loom : Nat) (east : Bool) (s : State) : Host.Outcome State Fault Refusal :=
  .next (let l := loomOf s loom
    let due := (if east then l.wdEast else l.wdWest) || (leaseOf s loom east).isNone
    if detectorOn s 0 && due && !l.stopped && !drained s loom east then startRecovery 1 loom s else s)

/-! ## Loss of lock (R444) -/

/-- PLL_LOCK_LOSS (R444, R457): every clock is gated and a recovery reset starts. -/
def execPllLockLoss (s : State) : Host.Outcome State Fault Refusal :=
  .next (if s.sys.power ≠ .on || s.sys.clocksOff then s else
    let s := setPend clkPage 4 (bumpSat (clkPage + Reg.CLK_LOCK_LOSS) 1 (setField (clkPage + Reg.CLK_STATUS) 1 1 0 s))
    modSys (fun y => { y with clocksOff := true }) (startRecovery 9 0 s))

/-- PLL_RELOCK (R444): phase 1 of the reset begins. -/
def execPllRelock (s : State) : Host.Outcome State Fault Refusal :=
  .next (if !s.sys.clocksOff then s else
    let s := setField (clkPage + Reg.CLK_STATUS) 1 1 1 (modSys (fun y => { y with clocksOff := false }) s)
    if resetPhase s = 0 && !s.sys.failed then phaseOne s else s)

end Sys2Proof.Machine
end

