-- ==== Sys2Proof/Machine/Power.lean ====
section
/-! DEFINITION. Power (R449 to R454, R474 to R476), the drydown flush and restore (R423), power-up (R433, R450), issue gating (R449),
firing comparators (R455, R456), and the thermal trip (R478). -/

namespace Sys2Proof.Machine

/-! ## The flush (R423) -/

/-- Write the 512 most recent records into the next flush slot. -/
def flushRing (s : State) : State :=
  let k := reg s (dryPage + Reg.DRY_FLUSH_SLOT)
  let l := s.dryRing.drop (s.dryRing.length - 512)
  setReg (dryPage + Reg.DRY_FLUSH_SLOT) ((k + 1) % 64) (bumpSat (dryPage + Reg.DRY_FLUSHES) 1 (modSys (fun y => { y with flushes := tset y.flushes k l }) s))

/-- The last SEQ of flushed records. (log 106: DEDUCED) -/
def lastSeq (l : List DryRec) : Nat := (l.getLast?).elim 0 (fun r => r.seq)

/-- The flush slot that holds the greatest SEQ. (log 106: DEDUCED) -/
def newestFlush (t : Tab (List DryRec)) : Option (List DryRec) :=
  t.foldl (fun b e => if e.2.isEmpty then b else match b with
    | none => some e.2
    | some l => if serialCmp (lastSeq e.2) (lastSeq l) 32 = .newer then some e.2 else some l) none

/-- At power-up the recorder copies the newest flush into its ring with RESTORED set, SEQ goes on, POWER_UP is logged, and the next slot
is erased. (log 106: DEDUCED) -/
def restoreRing (s : State) : State :=
  let k := reg s (dryPage + Reg.DRY_FLUSH_SLOT)
  let erased (s : State) : State := modSys (fun y => { y with flushes := tset y.flushes k [] }) s
  match newestFlush s.sys.flushes with
  | none => erased (logDry 15 13 0x0001 [0xFFFFFFFF] s)
  | some l =>
    let s := { s with dryRing := l.map (fun r => { r with flags := 1 }) }
    let s := setReg (dryPage + Reg.DRY_NEXT_SEQ) ((lastSeq l + 1) % 2 ^ 32) s
    erased (setPend dryPage 16 (logDry 15 13 0x0001 [(l.head?).elim 0 (fun r => r.seq)] s))

/-! ## Power failure (R451, R474) -/

/-- The package without power: flash and the levels of its lands stay, and what the model keeps of the outside. -/
def powerLost (s : State) : State :=
  let keepReg (l : List Nat) (s' : State) : State := forL l (fun a s' => setReg a (reg s a) s') s'
  keepReg [dryPage + Reg.DRY_FLUSHES, dryPage + Reg.DRY_FLUSH_SLOT, orsPage + Reg.ORS_PULLS]
    { State.reset with
      draws := s.draws, outbox := s.outbox, pending := s.pending,
      sys := { Sys.initial with
        banks := s.sys.banks, pulledBank := s.sys.pulledBank, booted := s.sys.booted, cfgs := s.sys.cfgs, imageFloor := s.sys.imageFloor,
        cfgFloor := s.sys.cfgFloor, revoked := s.sys.revoked, owner := s.sys.owner, ownerGen := s.sys.ownerGen, flushes := s.sys.flushes,
        repairs := s.sys.repairs, rstLow := s.sys.rstLow, wakeLow := s.sys.wakeLow, gpioIn := s.sys.gpioIn, straps := s.sys.straps,
        tapReset := s.sys.tapReset } }

/-- Is the recorder running: the PCD is powered. -/
def pcdOn (s : State) : Bool := match s.sys.power with | .boot _ => true | .raise => true | .on => true | .dormant => true | _ => false

/-- A power failure at an input voltage (R423, R451): POWER_FAIL is logged and flushed, and every rail falls. -/
def powerFails (mv : Nat) (s : State) : State :=
  powerLost (if pcdOn s then flushRing (logDry 15 13 0x0060 [mv] s) else s)

/-- POWER_FAIL (R423, R451): VIN below 36 V for 5 µs, or the 6 V rail is lost. -/
def execPowerFail (mv : Nat) (s : State) : Host.Outcome State Fault Refusal := .next (if s.sys.power = .off then s else powerFails mv s)

/-- VIN_OVERVOLTAGE (R474): VIN above 62 V for 100 µs. -/
def execVinOvervoltage (mv : Nat) (s : State) : Host.Outcome State Fault Refusal := .next (if s.sys.power = .off then s else powerFails mv s)

/-! ## Power-up (R433, R450) -/

/-- POWER_UP (R450): VIN has been at or above 38 V for 10 ms. -/
def execPowerUp (mv : Nat) (s : State) : Host.Outcome State Fault Refusal :=
  .next (if s.sys.power ≠ .off then s else
    setReg (pwrPage + Reg.PWR_VIN) mv (modSys (fun y => { y with power := .seq 1, startKind := 0, vinGood := true, phaseAt := s.time }) s))

/-- The base-note domain starts (R39, R450 phase 2): base-note time and the reference count begin at 0. A wake finds it running. -/
def startReference (s : State) : State :=
  let s := setField (clkPage + Reg.CLK_STATUS) 0 0 1 s
  if s.sys.startKind = 0 then { s with time := 0, frac := 0, refCount := 0 } else s

/-- POWER_UP_PHASE_COMPLETE (R433, R450, R475): a phase ends. `bad` are the dies whose regulators fail (phase 5). -/
def execPowerUpPhaseComplete (bad : List Nat) (s : State) : Host.Outcome State Fault Refusal :=
  let go (p : PowerPhase) (s : State) : State := modSys (fun y => { y with power := p, phaseAt := s.time }) s
  .next (match s.sys.power with
    | .seq 1 => go (.seq 2) s
    | .seq 2 => go (.seq 3) (startReference s)
    | .seq 3 => if s.sys.rstLow then s else
      let s := setReg (pageAddr .pcd 15 0 0 + Reg.PCD_LANDS) (s.sys.straps % 4 * 16) (setField (clkPage + Reg.CLK_STATUS) 1 1 1 s)
      let s := restoreRing s
      go (.boot 1) (if s.sys.startKind = 2 then beginReset 10 0 s else s)
    | .seq _ => s
    | .boot 1 => go (.boot 2) s
    | .boot 2 => (match bootPhase s with
      | none => discover 7 (go (.boot 3) s)
      | some s => go (.boot 4) s)
    | .boot 3 => if s.sys.pull.isSome then s else (match bootPhase s with
      | none => discover 7 s
      | some s => go (.boot 4) s)
    | .boot _ => go .raise (selectCfg s)
    | .raise =>
      let s := setField (pwrPage + Reg.PWR_STATE) 1 0 0 (setPhase 4 (go .on s))
      if s.sys.startKind = 0 || bad.isEmpty then fenceDies 1 bad s else fenceDies 1 (bad.filter (fun d => !dieFenced s d)) s
    | _ => s)

/-! ## Power states (R452 to R454) -/

/-- What the loss of the compute dies' power loses: their registers but what R414 keeps, and everything held in their logic. -/
def diesOff (s : State) : State :=
  let t := resetLogic s
  { t with
    regs := s.regs.filterMap (fun e => match pageOf e.1 with
      | none => none
      | some p => if p.die = 15 then some e else (t.regs.find? (fun x => x.1 == e.1))),
    svc := s.svc.filter (fun x => 7 ≤ x.1), zjp := s.zjp.filter (fun x => 7 ≤ x.1), sys := { s.sys with gates := [], kicks := [] },
    intRaised := s.intRaised.filter (fun a => intAgent a = 15), intQueue := s.intQueue.filter (fun e => e.1 = 15),
    captures := s.captures.filter (fun h => intAgent h.addr = 15), heldLow := s.heldLow.filter (fun h => intAgent h.addr = 15) }

/-- STANDBY loses DRAM, survivor regions included, and the PCD's own registers but those of the base-note domain, DRY_ and lands, and
link state, routing and fence state (R414, R452, R453). The ring is flushed. -/
def pcdOff (s : State) : State :=
  let s := flushRing s
  { s with mem := [], poison := [], survivors := [], stores := [], drams := [], checked := [], svc := [], zjp := [], dryRing := [],
           regs := s.regs.filter (fun e => match pageOf e.1 with
             | none => false
             | some p => match p.blk with
               | .bnt => true | .dry => true | .pcd => true
               | .clk => true
               | .pwr => e.1 % 4096 = Reg.PWR_STATE
               | .ors => e.1 % 4096 = Reg.ORS_PULLS
               | .memc => false
               | .mgp => false
               | _ => true),
           sys := { s.sys with dump := [], junction := [] } }

/-- POWER_STATE_REACHED (R452, R454): an entry to DORMANT or STANDBY completes; the request is answered, and a wake that came
meanwhile starts. -/
def execPowerStateReached (s : State) : Host.Outcome State Fault Refusal :=
  .next (match s.sys.entering with
    | none => s
    | some e =>
      let s := zjpAnswer e.port e.reqId 0x0108 0 zsOk 0 [] s
      let s := if s.sys.power = .dormant then s else diesOff (allBypass s)
      let s := modSys (fun y => { y with entering := none, power := if e.target = 1 then .dormant else .standby }) s
      let s := setField (pwrPage + Reg.PWR_STATE) 15 8 0 (setField (pwrPage + Reg.PWR_STATE) 1 0 e.target s)
      let s := if e.target = 1 then s else
        setField (clkPage + Reg.CLK_STATUS) 1 1 0 (pcdOff s)
      if e.wake then startWake s else s)

/-- A source of a wake (R453, R454): remembered during an entry. -/
def wakeSource (s : State) : State :=
  if s.sys.entering.isSome then modSys (fun y => { y with entering := y.entering.map (fun e => { e with wake := true }) }) s else startWake s

/-- WAKE_N (R453): low for 1 µs starts a wake; `low` is the level that the land takes. -/
def execWakeN (low : Bool) (s : State) : Host.Outcome State Fault Refusal :=
  .next (let s := modSys (fun y => { y with wakeLow := low }) s
    if low then wakeSource s else s)

/-- A die has no resident skein, no accepted op and no channel work (R452). -/
def dieIdle (s : State) (die : Nat) : Bool :=
  (List.range 32).all (fun i => let l := loomOf s (die * 32 + i); l.skeins.isEmpty && arrayIdle l) &&
    !s.dmaRuns.any (fun r => r.channel / 4096 == die)

/-- DIE_IDLE_ENTRY (R452): the die has been without work for PWR_IDLE_DELAY. -/
def execDieIdleEntry (die : Nat) (s : State) : Host.Outcome State Fault Refusal :=
  .next (if s.sys.power = .on && dieLive s die && dieIdle s die then setField (pwrPage + Reg.PWR_STATE) (8 + die) (8 + die) 1 s else s)

/-- DIE_IDLE_EXIT (R452): new work or an inbound request. -/
def execDieIdleExit (die : Nat) (s : State) : Host.Outcome State Fault Refusal :=
  .next (if die < 8 then setField (pwrPage + Reg.PWR_STATE) (8 + die) (8 + die) 0 s else s)

/-! ## Issue gating (R449) -/

/-- Change what gates a die; a change of CAUSE is logged and sets INT_PEND bit 2 (R459, R460). -/
def modGate (die : Nat) (f : Gate → Gate) (s : State) : State :=
  let was := gateCause (gateOf s die)
  let s := modSys (fun y => { y with gates := tmod y.gates die .open f }) s
  let g := gateOf s die
  if gateCause g = was then s else setPend pwrPage 4 (logDry 15 13 0x0063 [die, gateCause g, gateLevel g] s)

/-- THERMAL_GATE_STEP (R449): the hottest junction of a die, in °C; at or above PWR_THROT_TEMP the level rises one step, 2 °C below it
falls one. -/
def execThermalGateStep (die temp : Nat) (s : State) : Host.Outcome State Fault Refusal :=
  .next (let t := bits (reg s (pwrPage + Reg.PWR_THROT_TEMP)) 7 0
    if die ≥ 8 then s else
    let s := modSys (fun y => { y with junction := tset y.junction die temp }) s
    if !dieLive s die then s
    else if t ≤ temp then modGate die (fun g => { g with thermal := min 63 (g.thermal + 1) }) s
    else if temp + 2 ≤ t then modGate die (fun g => { g with thermal := g.thermal - 1 }) s else s)

/-- POWER_LIMIT_GATE (R449): the input power over 1 ms, and the level that brings it below PWR_LIMIT, which the manual leaves open.
(log 102: DEDUCED) -/
def execPowerLimitGate (watts level : Nat) (s : State) : Host.Outcome State Fault Refusal :=
  .next (let s := setReg (pwrPage + Reg.PWR_PIN) (watts % 2 ^ 32) s
    let l := if watts > reg s (pwrPage + Reg.PWR_LIMIT) then min 63 level else 0
    forL (liveDies s) (fun d s => modGate d (fun g => { g with power := l }) s) s)

/-- VIN_LOW_GATE (R449, R464): below 40 V every die gates at least 32 of 64 cycles; `level` is what it gates, where that is more.
PGOOD follows the input voltage. (log 102: DEDUCED) -/
def execVinLowGate (mv level : Nat) (s : State) : Host.Outcome State Fault Refusal :=
  .next (let s := modSys (fun y => { y with vinGood := 38000 ≤ mv && mv ≤ 62000 }) (setReg (pwrPage + Reg.PWR_VIN) (mv % 2 ^ 32) s)
    let l := if mv < 40000 then min 63 (max 32 level) else 0
    forL (liveDies s) (fun d s => modGate d (fun g => { g with vin := l }) s) s)

/-! ## Comparators (R455, R456) -/

/-- A reading meets a comparator's condition. -/
def cmpMet (s : State) (c : Cmp) (v : Nat) : Bool :=
  let gpio := decide (16 ≤ c.sensor ∧ c.sensor ≤ 23)
  match c.mode with
  | 1 => c.value ≤ s.time
  | 2 => if gpio then v % 2 == 1 else c.value ≤ v
  | 3 => if gpio then v % 2 == 0 else v ≤ c.value
  | _ => false

/-- HYST in the sensor's unit: °C, or 100 mV of VIN. -/
def cmpHyst (c : Cmp) : Nat := if c.sensor = 9 then c.hyst * 100 else c.hyst

/-- A reading re-arms a comparator. -/
def cmpRearms (c : Cmp) (v : Nat) : Bool :=
  let gpio := decide (16 ≤ c.sensor ∧ c.sensor ≤ 23)
  match c.mode with
  | 2 => if gpio then v % 2 == 0 else v + cmpHyst c < c.value
  | 3 => if gpio then v % 2 == 1 else c.value + cmpHyst c < v
  | _ => false

/-- The sensor can match: a junction only while its die is live and powered. -/
def sensorLive (s : State) (c : Cmp) : Bool := c.mode == 1 || 8 ≤ c.sensor || (dieLive s c.sensor && s.sys.power == .on)

/-- A comparator fires (R455, R456): a TIME comparator re-arms by whole periods or goes OFF, another waits to be re-armed.
(log 101: DESIGN CHOICE) -/
def cmpFire (k v : Nat) (s : State) : State :=
  let c := cmpOf s k
  let next : Cmp := match c.mode with
    | 1 => if c.period = 0 then { c with mode := 0, fired := true } else
        { c with fired := true, value := c.value + c.period * ((s.time - c.value) / c.period + 1) }
    | _ => { c with fired := true, armed := false }
  let s := modCmp k (fun _ => if c.owner = 2 then .free else next) s
  let s := if c.owner = 2 then forL (liveDies s) (fun d s => setField (pageAddr .cad d 0 0 + Reg.CAD_STATUS) 2 2 0 s) s else s
  let s := if bit c.actions 2 then logDry 15 13 0x0061 [k, if c.mode = 1 then s.time % 2 ^ 32 else v % 2 ^ 32] s else s
  let s := if bit c.actions 1 then setPend bntPage 4 s else s
  if bit c.actions 0 then wakeSource s else s

/-- COMPARATOR_FIRE (R455, R456): comparator k meets the time, or a sample of its sensor, which may also re-arm it. A sample of a GPIO
land is its level. (log 101: DESIGN CHOICE) -/
def execComparatorFire (k v : Nat) (s : State) : Host.Outcome State Fault Refusal :=
  .next (let c := cmpOf s k
    let s := if 2 ≤ c.mode ∧ 16 ≤ c.sensor ∧ c.sensor ≤ 23 then
      modSys (fun y => { y with gpioIn := setBits y.gpioIn (c.sensor - 16) (c.sensor - 16) (v % 2) }) s else s
    if k ≥ 8 || c.mode = 0 || !sensorLive s c then s
    else if !c.armed then (if cmpRearms c v then modCmp k (fun c => { c with armed := true }) s else s)
    else if cmpMet s c v then cmpFire k v s else s)

/-! ## The thermal trip (R478) -/

/-- THERMAL_TRIP (R478): a junction at 115 °C for 100 µs, or with `dram` a DRAM die of stack `stack` at 105 °C. -/
def execThermalTrip (dram : Bool) (die stack temp : Nat) (s : State) : Host.Outcome State Fault Refusal :=
  .next (if s.sys.power ≠ .on || failedNow s || !dieLive s die then s
    else if dram then (if temp < 105 then s else declareFailed 4 (setField (memcPage die (stack % 4) + Reg.MEMC_TEMP) 7 0 temp s))
    else if temp < 115 then s
    else declareFailed 4 (modSys (fun y => { y with junction := tset y.junction die temp }) s))

end Sys2Proof.Machine
end

