-- ==== Sys2Proof/Machine/Manage.lean ====
section
/-! DEFINITION. Management requests (R363, R424, R431, R434, R453) and ATTEST (R438). -/

namespace Sys2Proof.Machine

/-! ## Status and records -/

/-- The body of MGMT_STATUS: LIVE, FENCED, power state, hottest junction of each die, hottest sensor of each DRAM stack, STATE of each
link port, and of each service and management port. (log 105: DESIGN CHOICE) -/
def statusBody (s : State) : List Byte :=
  let m := reg s dieMapAddr
  toBytes 1 (bits m 7 0) ++ toBytes 1 (bits m 15 8) ++ toBytes 2 (reg s (pwrPage + Reg.PWR_STATE)) ++
    (List.range 8).flatMap (fun d => toBytes 1 (tgetD s.sys.junction d 0)) ++
    (List.range 32).flatMap (fun k => toBytes 1 (bits (reg s (memcPage (k / 4) (k % 4) + Reg.MEMC_TEMP)) 7 0)) ++
    (List.range 36).flatMap (fun k => toBytes 1 (portState s k)) ++
    (List.range 8).flatMap (fun p => toBytes 1 (if portExists s (p + 1) then svcState s (p + 1) else 0))

/-- MGMT_STATUS (R363). (log 105: DESIGN CHOICE) -/
def execMgmtStatus (z : ZjpReq) (s : State) : Host.Outcome State Fault Refusal := .next (zjpRun z 0x0100 (fun s => zjpOk (statusBody s) s) s)

/-- The 512 bytes of a dump entry (R419). -/
def dumpBytes (d : DumpPage) : List Byte :=
  toBytes 8 d.page ++ toBytes 1 d.status ++ toBytes 1 d.words ++ zeros 6 ++
    (List.range 124).flatMap (fun i => toBytes 4 (if d.status = zsOk then d.data.getD i 0 else 0))

/-- Up to 8,192 bytes of the dump buffer from an offset. -/
def dumpSlice (s : State) (off : Nat) : List Byte :=
  let first := off / 512
  ((((s.sys.dump.drop first).take 17).flatMap dumpBytes).drop (off % 512)).take 8192

/-- A SEQ lies at or after another (R30). -/
def seqFrom (a b : Nat) : Bool := (b + 2 ^ 32 - a) % 2 ^ 32 < 2 ^ 31

/-- The result of a DRYDOWN_READ (R424): records from the first SEQ on, or dump bytes. -/
def drydownResult (s : State) (first count : Nat) : List Byte :=
  if count = 0 then dumpSlice s first else ((s.dryRing.filter (fun r => seqFrom first r.seq)).take count).flatMap recordBytes

/-- DRYDOWN_READ (R424). -/
def execDrydownRead (z : ZjpReq) (s : State) : Host.Outcome State Fault Refusal :=
  .next (zjpRun z 0x0101 (fun s =>
    if z.body.length ≠ 6 || bytesAt z.body 4 2 > 256 then zjpFail zsBadDescriptor 0x0E s
    else zjpOk (drydownResult s (bytesAt z.body 0 4) (bytesAt z.body 4 2)) s) s)

/-! ## Policy, fabric, reset -/

/-- POLICY_SET (R363). (log 16: DESIGN CHOICE) -/
def execPolicySet (z : ZjpReq) (p : Policy) (s : State) : Host.Outcome State Fault Refusal :=
  .next (zjpRun z 0x0102 (fun s => zjpOk [] (modSys (fun y => { y with policy := p }) s)) s)

/-- Perform a FABRIC_SET (R341, R342, R338, R352, R396). -/
def fabricSet (f : FabricSet) (s : State) : State :=
  let s := f.position.elim s (fun v => setPosition v s)
  let s := forL f.routes (fun r s =>
    let e := r.2 % 2 ^ 37
    { s with routes := if e = 0 then tdel s.routes (r.1 % 2 ^ 16) else tset s.routes (r.1 % 2 ^ 16) e }) s
  let s := forL (f.datelines.filter (fun d => d.1 < 36)) (fun d s => setField (linkPage d.1 + Reg.RVL_PORT_CFG) 0 0 (b2n d.2) s) s
  let s := forL (f.holds.filter (fun h => h.1 < 18)) (fun h s => setHold h.1 h.2 s) s
  if f.failures = 0 then s else cadEvent s

/-- FABRIC_SET (R363, R396). (log 16: DESIGN CHOICE) -/
def execFabricSet (z : ZjpReq) (f : FabricSet) (s : State) : Host.Outcome State Fault Refusal :=
  .next (zjpRun z 0x0106 (fun s => zjpOk [] (fabricSet f s)) s)

/-- A request is performed and answered, and what follows the response runs if it was the one performed. -/
def answered (z : ZjpReq) (was now : State) : Bool :=
  (cacheOf now z.port).answered.any (fun r => r.reqId == z.reqId && r.status == zsOk) && !(cacheOf was z.port).answered.any (fun r => r.reqId == z.reqId)

/-- RECOVERY_RESET (R363, R412, R418, R478): answered, then trigger 7. In the failed state it is refused while the package is too hot.
(log 98: DEDUCED) -/
def execRecoveryReset (z : ZjpReq) (s : State) : Host.Outcome State Fault Refusal :=
  .next (let t := zjpRun z 0x0107 (fun s =>
      if failedNow s && tooHot s then recErr pwrPage 0xFFF 0xE3 zsDenied s |> zjpFail zsDenied 0xE3 else zjpOk [] s) s
    if answered z s t then startRecovery 7 0 t else t)

/-- Perform a POWER_SET (R401, R453, R454, R460, R480). (log 102: DEDUCED) -/
def powerSet (z : ZjpReq) (s : State) : ZjpResult × State :=
  let target := bytesAt z.body 0 1
  if z.body.length ≠ 1 || target = 0 || target > 3 then zjpFail zsBadDescriptor 0x0E s
  else if s.sys.entering.isSome || resetPhase s ≠ 0 then recContended pwrPage s |> zjpFail zsContended 0
  else if target = 3 then zjpOk [] s
  else if s.sys.power = .dormant && target = 1 then zjpOk [] s
  else if !s.ctxs.isEmpty || (2 ≤ twinState s && twinState s ≤ 4) then recErr pwrPage 0xFFF 0xF2 zsDenied s |> zjpFail zsDenied 0xF2
  else (none, modSys (fun y => { y with entering := some ⟨target, z.port, z.reqId, false⟩ }) s)

/-- POWER_SET (R453): a wake follows the response to target ACTIVE in DORMANT. -/
def execPowerSet (z : ZjpReq) (s : State) : Host.Outcome State Fault Refusal :=
  .next (let t := zjpRun z 0x0108 (powerSet z) s
    if answered z s t && s.sys.power = .dormant && bytesAt z.body 0 1 = 3 then startWake t else t)

/-! ## Flash (R431, R434, R440, R442) -/

/-- Report a failure of Orris on its page and to the request. -/
def orsFail (f : Nat × Nat) (s : State) : ZjpResult × State := recErr orsPage 0xFFF f.2 f.1 s |> zjpFail f.1 f.2

/-- Perform an IMAGE_WRITE (R431, R440): the image, header and body, is written into the bank that was not booted, which is then no
candidate, and is verified there. (log 103: DEDUCED) -/
def imageWrite (z : ZjpReq) (s : State) : ZjpResult × State :=
  if s.sys.imageWrite.isSome then recContended orsPage s |> zjpFail zsContended 0 else
  let h := z.body.take 4096
  let b := z.body.drop 4096
  let t := modSys (fun y => { y with pulledBank := if y.pulledBank = some (spareBank s) then none else y.pulledBank })
    (setBank (spareBank s) ⟨h, b, none⟩ s)
  match imageFails s h b with
  | some f => orsFail f t
  | none => (none, modSys (fun y => { y with imageWrite := some (z.port, z.reqId) }) t)

/-- IMAGE_WRITE (R431). (log 16: DESIGN CHOICE) -/
def execImageWrite (z : ZjpReq) (s : State) : Host.Outcome State Fault Refusal := .next (zjpRun z 0x0104 (imageWrite z) s)

/-- IMAGE_WRITE_COMPLETE (R431): the trailer is written with the booted bank's BANK_GEN + 1, and the request completes. -/
def execImageWriteComplete (s : State) : Host.Outcome State Fault Refusal :=
  .next (match s.sys.imageWrite with
    | none => s
    | some (port, reqId) =>
      let i := spareBank s
      let gen := (bankOf s s.sys.booted).gen.getD 0 + 1
      zjpAnswer port reqId 0x0104 0 zsOk 0 [] (modSys (fun y => { y with imageWrite := none }) (setBank i { bankOf s i with gen := some gen } s)))

/-- The copy of the record that is not in use (R434). -/
def spareCfg (s : State) : Nat := match s.sys.cfgUsed with | some 0 => 1 | _ => 0

/-- Perform a CONFIG_WRITE: the record goes into the copy that is not in use. (log 104: DEDUCED) -/
def configWrite (z : ZjpReq) (r : CfgRec) (s : State) : ZjpResult × State :=
  if s.sys.cfgWrite.isSome then recContended orsPage s |> zjpFail zsContended 0 else
  let i := spareCfg s
  (none, modSys (fun y => { y with cfgWrite := some (z.port, z.reqId), cfgs := lset y.cfgs i none (some r) }) s)

/-- CONFIG_WRITE (R434). (log 16: DESIGN CHOICE) -/
def execConfigWrite (z : ZjpReq) (r : CfgRec) (s : State) : Host.Outcome State Fault Refusal := .next (zjpRun z 0x0103 (configWrite z r) s)

/-- CONFIG_WRITE_COMPLETE (R434, R442): the copy is verified and the request completes. (log 104: DEDUCED) -/
def execConfigWriteComplete (s : State) : Host.Outcome State Fault Refusal :=
  .next (match s.sys.cfgWrite with
    | none => s
    | some (port, reqId) =>
      let s := modSys (fun y => { y with cfgWrite := none }) s
      match (cfgOf s (spareCfg s)).bind (cfgFails s) with
      | some f => zjpAnswer port reqId 0x0103 0 f.1 f.2 [] (recErr orsPage 0xFFF f.2 f.1 s)
      | none => zjpAnswer port reqId 0x0103 0 zsOk 0 [] s)

/-! ## ATTEST (R438) -/

/-- The quote before its signature. (log 14: DESIGN CHOICE) -/
def quoteBody (s : State) (c : Option Nat) (nonce : List Byte) : List Byte :=
  let x := c.bind (ctxAt s)
  let h := (bankOf s s.sys.booted).header
  toBytes 4 0x4F55515A ++ toBytes 2 1 ++
    toBytes 2 (b2n x.isSome + 2 * b2n (x.any (fun x => bit x.caps 4)) + 4 * b2n (bit (reg s (orsPage + Reg.ORS_DBG_STATE)) 2)) ++
    toBytes 8 s.time ++ toBytes 4 (incarnation s) ++ toBytes 1 (bits (reg s dieMapAddr) 7 0) ++ zeros 3 ++ toBytes 4 (hSvn h) ++
    toBytes 4 s.sys.imageFloor ++ (nonce ++ zeros 64).take 64 ++ toBytes 64 Config.deviceId.toNat ++ toBytes 64 (mFw s) ++ toBytes 64 (mCfg s) ++
    toBytes 64 (mState s) ++ toBytes 8 (x.elim 0 (fun x => x.handle.toNat)) ++ zeros 8 ++ toBytes 64 (x.elim 0 (fun x => x.cm))

/-- The quote of a context or of the package, signed by AK, and the certificates. (log 14: DESIGN CHOICE) -/
def attest (c : Option Nat) (z : ZjpReq) (s : State) : ZjpResult × State :=
  if z.body.length ≠ 64 then zjpFail zsBadDescriptor 0x0E s else
  zjpOk (quoteBody s c z.body ++ toBytes 132 (Config.quoteSig s.draws).toNat ++ Config.akCert (mFw s) ++ Config.deviceCerts) { s with draws := s.draws + 1 }

/-- ATTEST (R438): of the context that the header names, or of the package alone where it names none. -/
def execAttest (z : ZjpReq) (s : State) : Host.Outcome State Fault Refusal :=
  .next (if z.ctx = 0 then zjpRun z 0x0060 (attest none z) s else zjpLive z 0x0060 (fun c s => attest (some c) z s) s)

end Sys2Proof.Machine
end

