-- ==== Sys2Proof/Machine/Lands.lean ====
section
/-! DEFINITION. The lands: SMBus (R468), JTAG (R439, R469), and the twin slot (R400 to R402). -/

namespace Sys2Proof.Machine

/-! ## SMBus (R464, R468) -/

/-- SMBus and JTAG are served in ACTIVE, IDLE and DORMANT. -/
def serialOn (s : State) : Bool := s.sys.power == .on || s.sys.power == .dormant

/-- PTR (R468): a 4-byte-aligned offset in the PCD control window. -/
def execPtr (v : Nat) (s : State) : Host.Outcome State Fault Refusal :=
  .next (if serialOn s then modSys (fun y => { y with smbPtr := alignDown (v % 2 ^ 28) 4 }) s else s)

/-- Where DATA may read: PCD, CLK, PWR and BNT page 0, and DRY_ page 0 from 0x040 to 0x0AC. -/
def smbReadable (off : Nat) : Bool :=
  let page := off / 4096 * 4096
  page == 0 || page == 0x1000000 || page == 0x4000000 || page == 0x5000000 || (page == 0x3000000 && 0x40 ≤ off % 4096 && off % 4096 ≤ 0xAC)

/-- SMB_DATA (R468): the word at the pointer, and the pointer moves on. -/
def execSmbData (s : State) : Host.Outcome State Fault Refusal :=
  .next (if !serialOn s then s else
    let p := s.sys.smbPtr
    let ok := smbReadable p
    let v := match pageOf (ctlBase 15 + p) with
      | some r => if ok then dumpWord s r (p % 4096) else 0
      | none => 0
    emit (.serial v) (modSys (fun y => { y with smbPtr := (p + 4) % 2 ^ 28, smbRefused := !ok }) s))

/-- SMB_STATUS (R468). -/
def execSmbStatus (s : State) : Host.Outcome State Fault Refusal := .next (if serialOn s then emit (.serial (b2n s.sys.smbRefused)) s else s)

/-- The unmasked INT_PEND bits of BNT_ page 0. -/
def bntPending (s : State) : Nat :=
  let p := reg s (bntPage + hdrPend)
  p - (p &&& reg s (bntPage + hdrMask))

/-- SMB_ALERT_N is asserted (R468): some unmasked bit has set since the last Alert Response Address read. -/
def smbAlert (s : State) : Bool := serialOn s && bntPending s - (bntPending s &&& s.sys.smbAcked) != 0

/-- The 7-bit SMBus address (R468). -/
def smbAddress (s : State) : Nat := 0x58 + bits (reg s (pageAddr .pcd 15 0 0 + Reg.PCD_LANDS)) 5 4

/-- ALERT_RESPONSE_READ (R468): the target that asserts SMB_ALERT_N answers with its address and releases the alert. -/
def execAlertResponseRead (s : State) : Host.Outcome State Fault Refusal :=
  .next (if smbAlert s then emit (.serial (smbAddress s)) (modSys (fun y => { y with smbAcked := bntPending s }) s) else s)

/-! ## JTAG (R439, R441, R469) -/

/-- The TAP accepts an instruction: it is served and TRST_N is high. -/
def tapOn (s : State) : Bool := serialOn s && !s.sys.tapReset

/-- BYPASS (R469): the instruction is selected; every code without an authorisation that is neither IDCODE nor AUTH selects it too. -/
def execBypass (s : State) : Host.Outcome State Fault Refusal := .next (if tapOn s then modSys (fun y => { y with tapIr := 0 }) s else s)

/-- IDCODE (R469). -/
def execIdcode (s : State) : Host.Outcome State Fault Refusal :=
  .next (if tapOn s then emit (.serial 0x18820B4F) (modSys (fun y => { y with tapIr := 1 }) s) else s)

/-- TRST_N (R469): low holds the TAP in Test-Logic-Reset, where IDCODE is selected; an authorisation stays open. -/
def execTrstN (low : Bool) (s : State) : Host.Outcome State Fault Refusal :=
  .next (modSys (fun y => { y with tapReset := low, tapIr := if low then 1 else y.tapIr }) s)

/-- The judgement of an authorisation (R439, R442). (log 104: DEDUCED) -/
def authJudged (s : State) (a : DbgAuth) : Nat × Nat :=
  if a.device ≠ Config.deviceId.toNat || a.nonce ≠ reg s (orsPage + Reg.ORS_DBG_NONCE) then (zsAuthFail, 0x05)
  else if a.key ≥ 4 then (zsAuthFail, 0x01)
  else if bit s.sys.revoked a.key then (zsAuthFail, 0x04)
  else if !a.sigOk then (zsAuthFail, 0x02)
  else if !(a.scope == 1 || a.scope == 2) then (zsBadFormat, 0x09)
  else if a.scope = 2 && !s.ctxs.isEmpty then (zsDenied, 0xF1)
  else (zsOk, 0)

/-- AUTH (R439, R441): a debug authorisation is judged; a new nonce is drawn whatever the result. (log 15: DESIGN CHOICE) -/
def execAuth (a : DbgAuth) (s : State) : Host.Outcome State Fault Refusal :=
  .next (if !tapOn s then s else
    let (st, sub) := authJudged s a
    let s := modSys (fun y => { y with tapIr := 2 }) s
    let s := setPend orsPage 8 (setField (orsPage + Reg.ORS_DBG_STATE) 15 8 st s)
    let s := if st = zsOk then
        modSys (fun y => { y with dbgEnds := s.time + a.duration }) (setField (orsPage + Reg.ORS_DBG_STATE) 2 0 (a.scope + 4) s)
      else recErr orsPage 0xFFF sub st s
    newNonce s)

/-- DEBUG_DURATION_EXPIRY (R439): DURATION has passed and the gate closes. (log 3: DESIGN CHOICE) -/
def execDebugDurationExpiry (s : State) : Host.Outcome State Fault Refusal := .next (if s.time < s.sys.dbgEnds then s else closeGate s)

/-! ## The twin slot (R401, R402) -/

/-- Takeover starts (R396, R402): TWIN_ACT_N is asserted, HOLD is cleared, and OPEN is written on the pairs of the live dies. -/
def takeover (s : State) : State :=
  if twinState s ≠ 2 then s else
  let s := setTwinState 3 (modSys (fun y => { y with twinAct := true }) s)
  let s := forL ((List.range 18).filter (fun p => dieLive s (linkHome (2 * p)).1)) (fun p s => openPair p (setHold p false s)) s
  cadEvent s

/-- TWIN_FAIL (R402): TWIN_FAIL_N has been low for 1 ms. (log 109: DESIGN CHOICE) -/
def execTwinFail (s : State) : Host.Outcome State Fault Refusal :=
  .next (if twinRole s = 0 then s else
    takeover (modSys (fun y => { y with gpioIn := setBits y.gpioIn 1 1 0 }) s))

/-- CAD_TWIN_TAKEOVER (R402, R406): firmware starts the takeover; ignored unless the twin state is STANDBY. -/
def execCadTwinTakeover (s : State) : Host.Outcome State Fault Refusal := .next (takeover s)

end Sys2Proof.Machine
end

