-- ==== Sys2Proof/Machine/TilePort.lean ====
section
/-! DEFINITION. The firmware port of an array: comparison ops and the port form of MMA (R220 to R224). -/

namespace Sys2Proof.Machine

/-- Is a byte range in the per-die DRAM of a live die (R221). -/
def portRange (s : State) (a n : Nat) : Bool := inDram a && a + n ≤ 8 * dieDram && dieLive s (homeDie a) && dieLive s (homeDie (a + n - 1))

/-- The checked blocks of physical ranges. -/
def physBlocks (s : State) (rs : List (Nat × Nat)) : List Nat :=
  (rs.flatMap (fun r => if r.2 = 0 then [] else (List.range ((r.1 + r.2 - 1) / 4096 - r.1 / 4096 + 1)).map (fun i => (r.1 / 4096 + i) * 4096))).filter (isChecked s)

/-- The port's reader: physical addresses, verified (R221, R376). -/
def portReader (loom : Nat) : Reader := fun rs x =>
  let s := x.2
  if rs.any (fun r => !portRange s r.1 r.2) then (.error (zsDenied, 0x51, 0), x) else
  let blocks := ((physBlocks s rs).eraseDups).filter (fun b => !x.1.contains b)
  match verifyAll (loom / 32) (twlPage loom 1) 0xFFF blocks s with
  | (false, s) => (.error (zsCheckFail, 0x01, 0), x.1, s)
  | (true, s) =>
    let r := rs.foldl (fun (acc : List (List (Byte × Bool)) × State) x =>
      let (b, s) := engRead ⟨loom / 32, 0, false, .engine (engAt (loom / 32) 19)⟩ x.1 x.2 acc.2
      (acc.1 ++ [b], s)) ([], s)
    (.ok r.1, x.1 ++ blocks, r.2)

/-- RESULT_ADDR and RESULT_STRIDE of a port descriptor: at 0x30 and 0x38 in both forms (R221, R223). (log 59: DEDUCED) -/
def portResult (d : List Byte) : Nat × Nat := (bytesAt d 0x30 8, bytesAt d 0x38 4)

/-- Fields of the CMP byte (R221). -/
def cmpOp (d : List Byte) : Nat := bytesAt d 3 1 % 4
def cmpExtent (d : List Byte) : Nat := bytesAt d 3 1 / 4 % 4
def cmpDiag (d : List Byte) : Bool := bit (bytesAt d 3 1) 4

/-- The checks of a port descriptor, in the order of R173 (R221, R223). -/
def portChecks (s : State) (loom : Nat) (d : List Byte) : Option (Nat × Nat) :=
  let cmp := dOp d == 0x7F
  let split := loomSplit s loom
  let (ra, rs) := portResult d
  firstOf (
    [ badDesc (dOp d != 0x7F && dOp d != 0x01) 0x01,
      badDesc (if cmp then bytesAt d 3 1 / 32 != 0 || cmpExtent d == 3 || dFlags d &&& 0xFFF3 != 0 || bytesAt d 0x0A 6 != 0 || bytesAt d 0x3C 4 != 0
        else bytesAt d 3 1 != 0 || dFlags d &&& 0xFFF3 != 0 || bytesAt d 0x0A 2 != 0 || bytesAt d 0x3C 4 != 0) 0x02,
      badDesc (dScales d / 16 != 0 || bit (bytesAt d 6 1) 7 || bit (bytesAt d 7 1) 7) 0x02 ] ++
    (mmaShape d 0xFFFF).drop 1 ++
    [ badDesc (if cmp then (cmpExtent d == 0) == split || (cmpExtent d != 0 && dN d > 64) else split && dN d > 64) 0x09 ] ++
    mmaLayout d false ++
    [ badDesc (ra % 4 != 0 || rs % 4 != 0 || rs < 4 * dN d) 0x05,
      (!portRange s ra ((dM d - 1) * rs + 4 * dN d), zsDenied, 0x51) ])

/-- GO (R220): the port takes the descriptor, or answers ZS_CONTENDED. -/
def execGo (loom : Nat) (s : State) : Host.Outcome State Fault Refusal :=
  let p := twlPage loom 1
  let l := loomOf s loom
  let ctrl := p + Reg.TWL_CMP_CTRL
  .next (if !arrayIdle l || !l.skeins.isEmpty || bit (reg s (p + Reg.TWL_REPAIR_STAT)) 4 || l.port.isSome then
      recContended p (setField ctrl 15 8 zsContended s)
    else
      let a := reg s (p + Reg.TWL_CMP_DESC)
      let d := if a % 64 = 0 && portRange s a 64 then some (memGet s.mem a 64) else none
      setField ctrl 1 1 0 (modLoom loom (fun l => { l with port := some ⟨d⟩, west := { l.west with weights := none }, east := { l.east with weights := none } }) s))

/-- Perform a port op: its status, subcode, and the reduction of a comparison (R222, R223). (log 59: DEDUCED) -/
def portRun (loom : Nat) (d : List Byte) (s : State) : Nat × Nat × Option Nat × State :=
  match portChecks s loom d with
  | some (c, u) => (c, u, none, s)
  | none =>
    match fetchA (portReader loom) d ([], s) with
    | (.error (c, u), _, s) => (c, u, none, s)
    | (.ok a, x) =>
      match fetchB (portReader loom) d x with
      | (.error (c, u), _, s) => (c, u, none, s)
      | (.ok b, _, s) =>
        let cmp := dOp d == 0x7F
        let p := cellP (dFmtA d)
        let rows : List (List (Nat × Bool)) := a.map (fun r => b.map (fun c =>
          (if cmp then cmpElem (cmpOp d) p r c else toFp32 (partialOf p r c), anyPoison r || anyPoison c)))
        let (ra, rs) := portResult d
        let s := forL rows.zipIdx (fun r s =>
          engWrite ⟨loom / 32, 0, false, .engine (engAt (loom / 32) 19)⟩ (ra + r.2 * rs) (r.1.flatMap (fun x => (toBytes 4 x.1).map (fun b => (b, x.2)))) (fun _ => none) s) s
        let vals := rows.map (fun r => r.map (fun x => x.1))
        let cover := if cmpDiag d then (List.range (min (dM d) (dN d))).map (fun i => (vals.getD i []).getD i 0) else vals.flatMap id
        (zsOk, 0, if cmp then some (cmpReduce (cmpOp d == 1 || cmpOp d == 2) cover) else none, s)

/-- PORT_OP_DONE (R220, R223, R225): the running port op completes. (log 59: DEDUCED) -/
def execPortOpDone (loom : Nat) (s : State) : Host.Outcome State Fault Refusal :=
  let p := twlPage loom 1
  let ctrl := p + Reg.TWL_CMP_CTRL
  .next (match (loomOf s loom).port with
    | none => s
    | some o =>
      let (st, sub, res, s) := match o.desc with
        | none => (zsDenied, 0x51, none, s)
        | some d => portRun loom d s
      let s := if st = zsOk then s else recErr p 0xFFF sub st s
      let s := match res with | some v => setReg (p + Reg.TWL_CMP_RESULT) v s | none => s
      setPend p 4 (setField ctrl 15 8 st (setField ctrl 1 1 1 (modLoom loom (fun l => { l with port := none }) s))))

end Sys2Proof.Machine
end

