-- ==== Sys2Proof/Machine/WeaveCmd.lean ====
section
/-! DEFINITION. Commands of the Weave cache: fills, the directory's actions (R229, R233, R240, R241), pins (R237 to R239) and the
configuration of a die's cache (R236, R243). -/

namespace Sys2Proof.Machine

/-! ## Fills and the directory -/

/-- FILL_DELIVERY (R233): the open miss register of a line on a die delivers its fill. (log 40: DEDUCED) -/
def execFillDelivery (die la : Nat) (s : State) : Host.Outcome State Fault Refusal := .next (deliverFill die la s)

/-- DIR_READ_REQUEST (R229): the home directory serves a read of a line for a die. -/
def execDirReadRequest (die la : Nat) (s : State) : Host.Outcome State Fault Refusal := .next (dirRead die la (dirRoom la s))

/-- DIR_M_REQUEST (R229): the home directory grants M of a line to a die. -/
def execDirMRequest (die la : Nat) (s : State) : Host.Outcome State Fault Refusal := .next (dirM die la (dirRoom la s))

/-- REDUCTION_REGISTRATION (R229): the directory records the slice of a die as a reducer of its reduction line. -/
def execReductionRegistration (die la : Nat) (s : State) : Host.Outcome State Fault Refusal :=
  .next (if (lineAt s die la).any (fun l => isReduction l.state && !l.registered) then registerLine die la (dirRoom la s) else s)

/-- REGISTRATION_ACK (R240): the waiting REDs apply. -/
def execRegistrationAck (die la : Nat) (s : State) : Host.Outcome State Fault Refusal :=
  .next (if (lineAt s die la).any (fun l => isReduction l.state && l.registered && !l.acked) then ackLine die la s else s)

/-- MERGE_WRITEBACK (R241): a reduction line's values are combined into memory at the home, and the line leaves the slice. -/
def execMergeWriteback (die la : Nat) (s : State) : Host.Outcome State Fault Refusal := .next (mergeOut die la (settleLine die la s))

/-! ## Pins (R237 to R239) -/

/-- PIN_CAP of a die. -/
def pinCap (s : State) (die : Nat) : Nat := bits (reg s (wvcPage die 0 1 + Reg.WVC_DIE_CFG)) 3 0

/-- Pinned ways of a line's set. -/
def setPins (s : State) (die la : Nat) : Nat := (setAt s die la).ways.countP (fun l => l.pin.isSome)

/-- Fetch a line, if absent, as an ordinary allocation for a context. -/
def fetchLine (die ctx la : Nat) (s : State) : State := (accessLine (engAcc s (engAt die 1) ctx false) la false s).2

/-- A refused pin: counted on the slice, the line fetched as an ordinary one. (log 39: DEDUCED) -/
def pinRefused (die ctx la : Nat) (s : State) : State :=
  fetchLine die ctx la (bump (wvcPage die (laSlice la) 0 + Reg.WVC_PIN_DENIED) 1 s)

/-- Place a line under a pin of the context in a way other than way 15: where it stands, or fetched (R238). Answers whether a way
was found. (log 39: DEDUCED) -/
def pinPlace (die ctx la : Nat) (s : State) : Bool × State :=
  match lineAt s die la with
  | some l =>
    if l.way ≠ 15 && !isReduction l.state then (true, modLine die la (fun l => { l with pin := some ctx }) (fetchLine die ctx la s))
    else
      let s := invalidate die la (dirRead die la s)
      pinFetch s
  | none => pinFetch (dirRead die la s)
where
  pinFetch (s : State) : Bool × State :=
    let part := ctxPart s (some ctx)
    let page := wvcPage die (laSlice la) 0
    let s := thrashMiss die la part (bump (page + Reg.WVC_MISSES) 1 s)
    match chooseWay s die la part false true with
    | none => (false, setPend page 4 (bumpSat (page + Reg.WVC_NO_VICTIM) 1 s))
    | some way =>
      let st := grantState s die la false
      (true, modSet die la (fun t => { t with
        ways := t.ways ++ [⟨way, la, st, part, some ctx, none, 0, 0, 0, 0, 0, false, false, []⟩], tree := treeTouch t.tree way })
        (evictWay die la way s))

/-- Treat one line of a PIN (R238): 0 pinned, 1 refused by quota, 2 by the set cap, 3 because another context pins it.
(log 39: DEDUCED) -/
def pinLine (die ctx la : Nat) (s : State) : Nat × State :=
  match (lineAt s die la).bind (fun l => l.pin) with
  | some o => if o = ctx then (0, s) else (3, pinRefused die ctx la s)
  | none =>
    let held := weaveCount s die (fun l => l.pin == some ctx)
    if held ≥ (ctxAt s ctx).elim 0 (fun x => x.pinQuota) then (1, pinRefused die ctx la s)
    else if setPins s die la ≥ pinCap s die then (2, pinRefused die ctx la s)
    else match pinPlace die ctx la s with
      | (true, s) => (0, s)
      | (false, s) => (2, bump (wvcPage die (laSlice la) 0 + Reg.WVC_PIN_DENIED) 1 s)

/-- Remove the context's own pin from a line (R238): whether it had one. -/
def unpinLine (die ctx la : Nat) (s : State) : Nat × State :=
  if (lineAt s die la).any (fun l => l.pin == some ctx) then
    (1, modSet die la (fun t => { t with ways := t.ways.filterMap (fun l =>
      if l.la == la then (if l.state = .i then none else some { l with pin := none }) else some l) }) s)
  else (0, s)

def pAddr (e : List Byte) : Nat := bytesAt e 8 8
def pLength (e : List Byte) : Nat := bytesAt e 0x10 8

/-- Treat the lines of a PIN or UNPIN in ascending order with what each counts as; stop at the first that may not be pinned. -/
def pinWalk (die ctx : Nat) (f : Nat → State → Nat × State) (n va : Nat) (counts : List Nat) (s : State) : Option (Nat × Nat) × List Nat × State :=
  match n with
  | 0 => (none, counts, s)
  | n + 1 =>
    match translate s ctx va .read with
    | .fail c u => (some (c, u), counts, s)
    | .ok pa mt _ =>
      if mt ≠ 0 then (some (zsDenied, 0x63), counts, s) else
      match resolve s pa with
      | .dram a =>
        let r := f (a / 128) s
        pinWalk die ctx f n (va + 128) (lset counts r.1 0 (counts.getD r.1 0 + 1)) r.2
      | _ => (some (zsDenied, 0), counts, s)

/-- The checks of a PIN or UNPIN entry (R237). -/
def pinMalformed (e : List Byte) : Bool :=
  bytesAt e 1 7 != 0 || bytesAt e 0x18 40 != 0 || pAddr e % 128 != 0 || pLength e == 0 || pLength e % 128 != 0

/-- PIN (R237, R238). -/
def execPin (die slot : Nat) (s : State) : Host.Outcome State Fault Refusal :=
  .next (dmaStart die slot (fun e => bytesAt e 0 1 == 0x30) (fun j s =>
    let e := j.entry
    if pinMalformed e then dmaFail j.page j zsMisaligned 0x04 [] s
    else if !ctxCap s j.ctx 1 then dmaFail j.page j zsDenied 0x60 [] s
    else match pinWalk die j.ctx (pinLine die j.ctx) (pLength e / 128) (pAddr e) [0, 0, 0, 0] s with
      | (some (c, u), n, s) => dmaFail j.page j c u n s
      | (none, n, s) => if n.drop 1 == [0, 0, 0] then dmaFinish j zsOk 0 n s else dmaFinish j zsPinDenied 0 n s) s)

/-- UNPIN (R237, R238). -/
def execUnpin (die slot : Nat) (s : State) : Host.Outcome State Fault Refusal :=
  .next (dmaStart die slot (fun e => bytesAt e 0 1 == 0x31) (fun j s =>
    let e := j.entry
    if pinMalformed e then dmaFail j.page j zsMisaligned 0x04 [] s
    else match pinWalk die j.ctx (unpinLine die j.ctx) (pLength e / 128) (pAddr e) [0, 0] s with
      | (some (c, u), n, s) => dmaFail j.page j c u (n.drop 1) s
      | (none, n, s) => dmaFinish j zsOk 0 (n.drop 1) s) s)

/-! ## Windows and configuration -/

/-- THRASH_WINDOW_END (R240-thrash, R243): the counts of a die's window restart. -/
def execThrashWindowEnd (die : Nat) (s : State) : Host.Outcome State Fault Refusal := .next (modWeave die (fun w => { w with window := [] }) s)

/-- The sum of MIN_WAYS over the enabled partitions (R236). -/
def minWaysSum (w : Weave) : Nat := ((List.range 64).map (fun p => if bit (partCfg w p) 4 then bits (partCfg w p) 3 0 else 0)).foldl (· + ·) 0

/-- A write to WVC_DIE_CFG (R236, R239, R244). -/
def wvcDieCfg (die v : Nat) (s : State) : State :=
  let page := wvcPage die 0 1
  let cap := bits v 3 0
  if cap > 12 then recErr page 0xFFF 0x61 zsDenied s
  else if minWaysSum (weaveOf s die) > 16 - cap then recErr page 0xFFF 0x62 zsDenied s
  else setReg (page + Reg.WVC_DIE_CFG) cap s

/-- A write to WVC_PART_CFG of the selected partition (R236, R244). -/
def wvcPartCfg (die v : Nat) (s : State) : State :=
  let page := wvcPage die 0 1
  let p := bits (reg s (page + Reg.WVC_PART_SEL)) 5 0
  let w := weaveOf s die
  let w' := { w with partCfg := tset w.partCfg p (bits v 4 0) }
  if minWaysSum w' > 16 - pinCap s die then recErr page 0xFFF 0x62 zsDenied s
  else modWeave die (fun _ => w') s

/-- WVC_CONFIG_WRITE (R236): firmware writes WVC_PART_CFG, or WVC_DIE_CFG where `dieCfg` is set. -/
def execWvcConfigWrite (die : Nat) (dieCfg : Bool) (v : Nat) (s : State) : Host.Outcome State Fault Refusal :=
  .next (if dieCfg then wvcDieCfg die v s else wvcPartCfg die v s)

end Sys2Proof.Machine
end

