-- ==== Sys2Proof/Machine/Header.lean ====
section
/-! DEFINITION. Accesses to register pages by firmware agents and contexts: the header (R32), access types (R33), access rules and soft
reset (R34), 64-bit registers (R35), interrupts (R36), and the writes that a block answers with an effect of its own. -/

namespace Sys2Proof.Machine

/-- The state that an outcome goes on with. -/
def after (o : Host.Outcome State Fault Refusal) (s : State) : State := match o with | .next t => t | _ => s

/-- A requester below this number is a context slot, any other a firmware agent (R35). -/
def firmwareFrom : Nat := 4096

/-- The page that records a firmware agent's access: agents 4096 to 4103 are the executives of dies 0 to 7, at CTX_ of their die; any
other runs on the PCD, at ORS_. (log 47: DESIGN CHOICE) -/
def fwPage (who : Nat) : Nat := if who < firmwareFrom + 8 then ctxPage (who - firmwareFrom) else orsPage

/-- A firmware access that nothing backs (R20, R37, R488): ZS_DENIED at the issuing block's page. (log 47: DESIGN CHOICE) -/
def unbacked (who : Nat) (s : State) : State :=
  if who < firmwareFrom || s.sys.power == .off then s else recErr (fwPage who) 0xFFF 0 zsDenied s

/-- Does the address map back an address that is no register (R37). -/
def backed (s : State) (a : Nat) : Bool := match resolve s a with | .bad => false | .page _ => false | _ => true

/-- Does a page answer: the package has power, and the page's die is live (R20, R488). (log 47: DESIGN CHOICE) -/
def pageServed (s : State) (p : PageRef) : Bool := (p.die == 15 || dieLive s p.die) && s.sys.power != .off

/-- PAGE_OWNER names the context (R489). -/
def ownerIs (s : State) (p : PageRef) (c : Nat) : Bool := let o := reg s (p.addr + hdrOwner); bit o 31 && o % 4096 == c

/-! ## Reads -/

/-- A read of `n` bytes at an address of a control window (R34, R35, R488, R489); its value leaves the block. (log 47: DESIGN CHOICE) -/
def pageRead (who n a : Nat) (s : State) : State :=
  match pageOf a with
  | none => if backed s a then s else emit (.read 0) (unbacked who s)
  | some p =>
    let off := a % 4096
    if !pageServed s p then emit (.read 0) (unbacked who s)
    else if who < firmwareFrom then
      if !ownerIs s p who then emit (.read 0) s else
      let r := devRead p.addr who n (.page p off) s
      emit (.read r.1) r.2
    else if n ≠ 4 || off % 4 ≠ 0 || (rowCovering p off).isNone then emit (.read 0) (recErr p.addr 0xFFF 0 zsDenied s)
    else
      let r := readWord who p off s
      emit (.read r.1) r.2

/-- An address is the high word of a 64-bit register. -/
def isHighWord (a : Nat) : Bool := (pageOf a).any (fun p => (rowCovering p (a % 4096)).any (fun r => r.off != a % 4096))

/-- LOW_WORD_READ (R34, R35): a read that is not of a high word; of a 64-bit register it captures the whole value.
(log 52: DESIGN CHOICE) -/
def execLowWordRead (who n a : Nat) (s : State) : Host.Outcome State Fault Refusal := .next (if isHighWord a then s else pageRead who n a s)

/-- HIGH_WORD_READ (R35): the captured half, which the read consumes, or the live one. -/
def execHighWordRead (who a : Nat) (s : State) : Host.Outcome State Fault Refusal := .next (if isHighWord a then pageRead who 4 a s else s)

/-! ## The header's writes -/

/-- What stays of acknowledged SMBus alerts: an INT_PEND bit that is gone alerts again when it sets (R468). (log 44: DESIGN CHOICE) -/
def alertsLeft (s : State) : State := modSys (fun y => { y with smbAcked := y.smbAcked &&& bntPending s }) s

/-- Clear bits of INT_PEND (R32, R36). The agent has taken the page's entry; a level that stays high is due in the queue again.
(log 44: DESIGN CHOICE) -/
def pendClear (page mask : Nat) (s : State) : State :=
  let v := reg s (page + hdrPend)
  let s := setReg (page + hdrPend) (v - (v &&& mask)) s
  let s := if bit mask 1 then setField (page + hdrStatus) 4 4 0 s else s
  let s := { s with intQueue := tmod s.intQueue (intAgent page) [] (fun l => l.filter (fun x => x != page)) }
  alertsLeft (intRise page (if intLevel s page then s else { s with intRaised := sdel s.intRaised page }))

/-- Write INT_MASK: a level that rises is due in the queue. -/
def maskWrite (page v : Nat) (s : State) : State :=
  let was := intLevel s page
  let s := setReg (page + hdrMask) (v % 2 ^ 32) s
  alertsLeft (if was then s else intRise page s)

/-- May TENANT be set on a page (R69, R183, R206, R489). (log 51: DEDUCED) -/
def tenantAllowed (s : State) (p : PageRef) : Bool :=
  let split := bit (reg s (loomPage (p.die * 32 + p.inst) + Reg.LOOM_CFG)) 0
  match p.blk with
  | .loom => true
  | .twl => p.page == 0 && !split
  | .acs => !split
  | _ => false

/-- Write PAGE_OWNER. (log 51: DEDUCED) -/
def ownerWrite (p : PageRef) (v : Nat) (s : State) : State :=
  if pageLocked s p.addr then s else
  setReg (p.addr + hdrOwner) (v &&& (if tenantAllowed s p then 0x80000FFF else 0xFFF)) s

/-! ### Soft reset (R32, R34) -/

/-- The block-specific registers of a page at their reset values, but for what only a power cycle resets (R490).
(log 49: DESIGN CHOICE) -/
def softRegs (p : PageRef) (t : Tab Word) : Tab Word :=
  t.filterMap (fun e =>
    if !(p.addr + 0x40 ≤ e.1 && e.1 < p.addr + 4096) then some e else
    let m := keptBits p (e.1 % 4096)
    if m = 0 then none else
    let r := regReset e.1
    some (e.1, BitVec.ofNat 64 ((e.2.toNat &&& m) + (r - (r &&& m)))))

/-- The lines of one slice are gone; where only the cache held the newest bytes, memory's bytes are free values (R231).
(log 12: DESIGN CHOICE) -/
def dropSlice (die slice : Nat) (s : State) : State :=
  let mine (t : Nat × WSet) : Bool := t.1 / 2048 == slice
  let lost := ((((weaveOf s die).sets.filter mine).flatMap (fun t => (t.2.ways.filter (fun l => l.state == .m || isReduction l.state)).map (fun l => l.la))).eraseDups).filter
    (fun la => !inSurvivor s (la * 128))
  let s := forL lost (fun la s => { s with mem := memPut s.mem (la * 128) ((List.range 128).map (fun i => Config.freeByte s.draws (la * 128 + i))) })
    { s with draws := s.draws + 1 }
  { s with weaves := tupd s.weaves die (fun w => { w with sets := w.sets.filter (fun t => !mine t) }) }

/-- A service or management port goes DOWN and its binding ends (R369, R370), before its registers are reset. (log 49: DESIGN CHOICE) -/
def softPort (p : PageRef) (s : State) : State :=
  let port := if p.blk == .svp then p.die else 7 + p.inst
  if p.blk == .svp || p.blk == .mgp then setSvcState port 0 (unbindPort port (modSvc port (fun q => { q with hellos := [] }) s)) else s

/-- What a block keeps beyond its registers, at reset. (log 49: DESIGN CHOICE) -/
def softState (p : PageRef) (s : State) : State :=
  let loom := p.die * 32 + p.inst
  match p.blk with
  | .loom => modLoom loom (fun l => { l with barriers := [], reuse := [], preemptWest := .none, preemptEast := .none, wdWest := false, wdEast := false }) s
  | .twl => if p.page = 0 then modLoom loom (fun l => { l with west := .empty, east := .empty }) s else s
  | .acs => modLoom loom (fun l => { l with slots := [] }) s
  | .wvc => if p.page = 0 then dropSlice p.die p.inst s else s
  | .memc => if p.page = 0 then { s with drams := tdel s.drams (p.die * 4 + p.inst) } else s
  | .rvl =>
    let k := linkNumber p.die p.inst
    if portState s k < 2 then modPort k keptPort s else startTraining k (modPort k keptPort s)
  | .chk => modChk p.die (fun _ => .empty) (abandonTests p.die 1 s)
  | .sil => forL (s.groups.filter (fun g => gDie g.2 == p.die)) (fun g s => beginStep g.1 (modSil g.1 (fun x => { x with held := [], ring := [] }) s)) s
  | .cad => if p.page = 0 && p.addr = cadPage s then { s with cadence := ⟨0, none⟩ } else s
  | .bnt => modSys (fun y => { y with servo := ⟨0, 0, 0⟩, ppsLast := none }) s
  | .pwr => modSys (fun y => { y with gates := [] }) s
  | _ => s

/-- The soft reset of a block. (log 49: DESIGN CHOICE) -/
def softReset (p : PageRef) (s : State) : State :=
  let s := softPort p s
  softState p { s with regs := softRegs p s.regs }

/-- Write CTRL (R32, R34): ENABLE and QUIESCE take effect; SOFT_RESET is judged against QUIESCED as it stood. QUIESCE of an array
issues its open batches (R181). (log 50: DESIGN CHOICE) -/
def ctrlWrite (p : PageRef) (v : Nat) (s : State) : State :=
  let a := p.addr
  let q := bit (statusOf s p) 2
  let en := if pageLocked s a then bits (reg s (a + hdrCtrl)) 0 0 else v % 2
  let s := setReg (a + hdrCtrl) (en + 2 * b2n (bit v 1)) s
  let s := if bit v 1 && p.blk == .twl && p.page == 0 then
      issueBatch (p.die * 32 + p.inst) true (issueBatch (p.die * 32 + p.inst) false s)
    else s
  if !bit v 2 then s else if q then softReset p s else recErr a 0xFFF 0 zsDenied s

/-- Write a register of the header (R32). -/
def headerWrite (p : PageRef) (off v : Nat) (s : State) : State :=
  let a := p.addr
  if off = hdrOwner then ownerWrite p v s
  else if off = hdrCtrl then ctrlWrite p v s
  else if off = hdrPend then pendClear a v s
  else if off = hdrMask then maskWrite a v s
  else if off = hdrTest then setPend a (v % 2 ^ 32) s
  else if off = hdrErrFirst then (if bit v 31 then setReg (a + hdrErrFirst) 0x0FFF0000 s else s)
  else if off = hdrLock then (if bit v 0 then setField (a + hdrLock) 0 0 1 s else s)
  else s

/-! ## Block registers -/

/-- A register's new value under its access types (R33). (log 113: DEDUCED) -/
def plainVal (locked : Bool) (r : RegRow) (old v : Nat) : Nat :=
  let w := r.rw ||| (if locked then 0 else r.rwl)
  let x := (old - (old &&& w)) ||| (v &&& w)
  (x - (x &&& (v &&& r.w1c))) ||| (v &&& r.w1s)

/-- Write a register that has no effect of its own. (log 53: DESIGN CHOICE; log 113: DEDUCED) -/
def plainWrite (p : PageRef) (r : RegRow) (v : Nat) (s : State) : State :=
  setReg (p.addr + r.off) (plainVal (pageLocked s p.addr) r (reg s (p.addr + r.off)) v) s

/-- Write a register of a page that shows the same on every live die (R405). (log 53: DESIGN CHOICE) -/
def everyDie (p : PageRef) (r : RegRow) (v : Nat) (s : State) : State :=
  let x := plainVal (pageLocked s p.addr) r (reg s (p.addr + r.off)) v
  forL (liveDies s) (fun d s => setReg (pageAddr p.blk d p.inst p.page + r.off) x s) s

/-- Write RVL_BYPASS (R352, R355): HOLD where it changes, then OPEN, which only even ports have. (log 82: DEDUCED) -/
def bypassWrite (k v : Nat) (s : State) : State :=
  let s := if pairHeld s (k / 2) = bit v 1 then s else after (execHold (k / 2) (bit v 1) s) s
  if k % 2 = 1 then s
  else if bit v 0 then after (execOpenBypass (k / 2) s) s
  else setField (linkPage k + Reg.RVL_BYPASS) 0 0 0 s

/-- Write VALUE or PERIOD of the selected comparator (R458, R482): dropped where another agent owns it. -/
def cmpWrite (f : Cmp → Cmp) (s : State) : State :=
  let k := bits (reg s (bntPage + Reg.BNT_CMP_SEL)) 2 0
  if 2 ≤ (cmpOf s k).owner then recContended bntPage s else modCmp k f s

/-- The writes that a block answers with an effect of its own; `none` where the write only stores (R33). (log 52: DESIGN CHOICE) -/
def ownWrite (p : PageRef) (r : RegRow) (v : Nat) (s : State) : Option State :=
  let off := r.off
  let d := p.die
  let loom := d * 32 + p.inst
  match p.blk with
  | .loom =>
    if off = Reg.LOOM_CFG then some (after (execLoomCfgSplit loom (bit v 0) s) s)
    else if off = Reg.LOOM_PREEMPT then
      let s := if bit v 0 then after (execRequestWest loom s) s else s
      some (if bit v 1 then after (execRequestEast loom s) s else s)
    else none
  | .twl =>
    if p.page = 0 then none
    else if off = Reg.TWL_REPAIR then some (after (execTwlRepairWrite loom v s) s)
    else if off = Reg.TWL_REPAIR_STAT then
      let s := if inService s loom = bit v 8 then s else after (execInServiceWrite loom (bit v 8) s) s
      some (if bit v 9 then after (execRetiredSet loom s) s else s)
    else if off = Reg.TWL_CMP_CTRL then some (if bit v 0 then after (execGo loom s) s else s)
    else none
  | .wvc =>
    if p.page = 0 then none
    else if off = Reg.WVC_DIE_CFG then some (after (execWvcConfigWrite d true v s) s)
    else if off = Reg.WVC_PART_CFG then some (after (execWvcConfigWrite d false v s) s)
    else none
  | .memc =>
    if p.page = 0 then (if off = Reg.MEMC_PC_FAILED then some (after (execMemcPcFailedWrite d p.inst v s) s) else none)
    else if off = Reg.MEMC_PATROL then some (after (execMemcPatrolWrite d v s) s)
    else if off = Reg.MEMC_SURV_BASE then some (after (execMemcSurvWrite d false v s) s)
    else if off = Reg.MEMC_SURV_SIZE then some (after (execMemcSurvWrite d true v s) s)
    else none
  | .rvl =>
    let k := linkNumber d p.inst
    if off = Reg.RVL_PORT_CFG then
      let s := setField (p.addr + off) 0 0 (v % 2) s
      some (if bit v 1 then after (execRetrain k s) s else s)
    else if off = Reg.RVL_BYPASS then some (bypassWrite k v s)
    else none
  | .rvlDie =>
    if off = Reg.RVL_ROUTE_DATA then some (after (execRvlRouteDataWrite d v s) s)
    else if off = Reg.RVL_POSITION then some (after (execRvlPositionWrite d v s) s)
    else none
  | .chk => if off = Reg.CHK_FT_START then some (after (execChkFtStart d v s) s) else none
  | .cad =>
    if p.page = 1 then
      some (if off = Reg.CAD_TWIN_TAKEOVER then (if bit v 0 then after (execCadTwinTakeover s) s else s) else everyDie p r v s)
    else if off = Reg.CAD_EVENT_IN then some (if bit v 0 then after (execCadEventIn s) s else s)
    else if off = Reg.CAD_T_MIN || off = Reg.CAD_T_MAX || off = Reg.CAD_M then
      let s := plainWrite p r v s
      some (if p.addr = cadPage s then cadRetime s else s)
    else none
  | .rng => some (everyDie p r v s)
  | .dry =>
    if off = Reg.DRY_CTRL then some (if bit v 0 then after (execResetReq s) s else s)
    else if off = Reg.DRY_CORE_KICK then some (after (execDryCoreKick v s) s)
    else none
  | .bnt =>
    if off = Reg.BNT_DISC then some (after (execBntDiscWrite v s) s)
    else if off = Reg.BNT_PPS then some (after (execBntPpsWrite v s) s)
    else if off = Reg.BNT_CMP_CFG then some (after (execBntCmpCfgWrite v s) s)
    else if off = Reg.BNT_CMP_VALUE then some (cmpWrite (fun c => { c with value := v }) s)
    else if off = Reg.BNT_CMP_PERIOD then some (cmpWrite (fun c => { c with period := v }) s)
    else none
  | .pwr =>
    if off = Reg.PWR_GATE then some (modGate (bits (reg s (pwrPage + Reg.PWR_GATE_SEL)) 2 0) (fun g => { g with floor := bits v 21 16 }) s)
    else none
  | _ => none

/-- Write a whole register. (log 52: DESIGN CHOICE) -/
def regWrite (p : PageRef) (r : RegRow) (v : Nat) (s : State) : State :=
  if r.off < 0x40 then headerWrite p r.off v s else (ownWrite p r v s).getD (plainWrite p r v s)

/-! ## Writes -/

/-- A write of `n` bytes at an address of a control window (R34, R488, R489): a context's is dropped and recorded, firmware's must be an
aligned word of a register. `k` is what the write does. (log 47: DESIGN CHOICE) -/
def pageWrite (who n a : Nat) (k : PageRef → RegRow → State → State) (s : State) : State :=
  match pageOf a with
  | none => if backed s a then s else unbacked who s
  | some p =>
    let off := a % 4096
    if !pageServed s p then unbacked who s
    else if who < firmwareFrom then (if ownerIs s p who then recErr p.addr who 0x12 zsDenied s else s)
    else if n ≠ 4 || off % 4 ≠ 0 then recErr p.addr 0xFFF 0 zsDenied s
    else
      match rowCovering p off with
      | none => recErr p.addr 0xFFF 0 zsDenied s
      | some r => k p r s

/-- The address of a header register of the page that holds an address. -/
def hdrAddr (a off : Nat) : Nat := alignDown a 4096 + off

/-- ENABLE (R32): a write of CTRL that sets ENABLE; QUIESCE is as written. (log 50: DESIGN CHOICE) -/
def execEnable (who a : Nat) (quiesce : Bool) (s : State) : Host.Outcome State Fault Refusal :=
  .next (pageWrite who 4 (hdrAddr a hdrCtrl) (fun p _ s => ctrlWrite p (1 + 2 * b2n quiesce) s) s)

/-- QUIESCE (R32): a write of CTRL that sets QUIESCE; ENABLE is as written. (log 50: DESIGN CHOICE) -/
def execQuiesce (who a : Nat) (enable : Bool) (s : State) : Host.Outcome State Fault Refusal :=
  .next (pageWrite who 4 (hdrAddr a hdrCtrl) (fun p _ s => ctrlWrite p (b2n enable + 2) s) s)

/-- SOFT_RESET (R34): a write of CTRL that sets SOFT_RESET, with its other fields. -/
def execSoftReset (who a v : Nat) (s : State) : Host.Outcome State Fault Refusal :=
  .next (pageWrite who 4 (hdrAddr a hdrCtrl) (fun p _ s => ctrlWrite p (v % 4 + 4) s) s)

/-- INT_PEND_CLEAR (R36). -/
def execIntPendClear (who a mask : Nat) (s : State) : Host.Outcome State Fault Refusal :=
  .next (pageWrite who 4 (hdrAddr a hdrPend) (fun p _ s => pendClear p.addr mask s) s)

/-- INT_TEST (R36). -/
def execIntTest (who a mask : Nat) (s : State) : Host.Outcome State Fault Refusal :=
  .next (pageWrite who 4 (hdrAddr a hdrTest) (fun p _ s => setPend p.addr (mask % 2 ^ 32) s) s)

/-- INTERRUPT_QUEUE_ENTRY (R36): a page whose level has risen enters its agent's queue. (log 44: DESIGN CHOICE) -/
def execInterruptQueueEntry (page : Nat) (s : State) : Host.Outcome State Fault Refusal :=
  .next (if !s.intRaised.contains page then s else
    { s with intRaised := sdel s.intRaised page, intQueue := tmod s.intQueue (intAgent page) [] (fun l => if l.contains page then l else l ++ [page]) })

/-- ERR_FIRST_REARM (R32): writing VALID clears the register and re-arms it. (log 48: DEDUCED) -/
def execErrFirstRearm (who a : Nat) (s : State) : Host.Outcome State Fault Refusal :=
  .next (pageWrite who 4 (hdrAddr a hdrErrFirst) (fun p _ s => setReg (p.addr + hdrErrFirst) 0x0FFF0000 s) s)

/-- LOCK (R32). -/
def execLock (who a : Nat) (s : State) : Host.Outcome State Fault Refusal :=
  .next (pageWrite who 4 (hdrAddr a hdrLock) (fun p _ s => setField (p.addr + hdrLock) 0 0 1 s) s)

/-- LOW_WORD_WRITE (R35): a 64-bit register's low word is held for the requester. -/
def execLowWordWrite (who a v : Nat) (s : State) : Host.Outcome State Fault Refusal :=
  .next (pageWrite who 4 a (fun p r s =>
    if !r.w64 || r.off ≠ a % 4096 then s else
    let key := p.addr + r.off
    { s with heldLow := s.heldLow.filter (fun h => !(h.who == who && h.addr == key)) ++ [⟨who, key, v % 2 ^ 32⟩] }) s)

/-- HIGH_WORD_WRITE (R35): the register takes its 64-bit value in one step, from the held low word or the live one. -/
def execHighWordWrite (who a v : Nat) (s : State) : Host.Outcome State Fault Refusal :=
  .next (pageWrite who 4 a (fun p r s =>
    if !r.w64 || r.off = a % 4096 then s else
    let key := p.addr + r.off
    let mine (h : Half64) : Bool := h.who == who && h.addr == key
    let low := ((s.heldLow.find? mine).map (fun h => h.val)).getD (regValue s p r.off % 2 ^ 32)
    regWrite p r (v % 2 ^ 32 * 2 ^ 32 + low) { s with heldLow := s.heldLow.filter (fun h => !mine h) }) s)

/-- REGISTER_WRITE (R33, R34): a 32-bit register takes a write under its access types. (log 52: DESIGN CHOICE) -/
def execRegisterWrite (who n a v : Nat) (s : State) : Host.Outcome State Fault Refusal :=
  .next (pageWrite who n a (fun p r s => if r.w64 then s else regWrite p r (v % 2 ^ 32) s) s)

end Sys2Proof.Machine
end

