-- ==== Sys2Proof/Machine/Packets.lean ====
section
/-! DEFINITION. Packets that arrive (R329 to R337, R344): acceptance on a link, forwarding, and what the destination does with requests
(R347), messages (R290), Sillage segments (R321) and responses (R332). -/

namespace Sys2Proof.Machine

/-! ## Arrival on a link -/

/-- The die on whose RVL_ die page an arrival counts: the port's, or the lowest live die for a packet of the package to itself. -/
def arrDie (s : State) (k : Nat) : Nat := if k < 36 then (linkHome k).1 else (liveDies s).headD 0

/-- Count a packet that fails R329 or R333. (log 83: DEDUCED) -/
def badPacket (die : Nat) (s : State) : State := setPend (rvlPage die) 4 (bumpSat (rvlPage die + Reg.RVL_CHECK_FAIL) 1 s)

/-- A packet fails its check word (R333, R378). -/
def checkFail (die : Nat) (p : Packet) (s : State) : State := checkReported die (rvlPage die) p.ctxSlot 0 none (badPacket die s)

/-- Acceptance of a packet: on a link port its flits are those of verified frames (R327), its epoch is the link's, and its SEQ the next
(R335, R336); as port 36 the oldest packet of the package to itself (R341). (log 80: DESIGN CHOICE) -/
def linkAccept (k : Nat) (p : Packet) (s : State) : Bool × State :=
  if k ≥ 36 then (if s.loop.head? = some p then (true, { s with loop := s.loop.drop 1 }) else (false, s))
  else if !portUp s k || (portOf s k).rxFlits < pktFlits p then (false, s)
  else
  let s := modPort k (fun l => { l with rxFlits := l.rxFlits - pktFlits p }) s
  if p.epoch ≠ portEpoch s k then (false, bumpSat (linkPage k + Reg.RVL_EPOCH_DROP) 1 s)
  else
    let l := portOf s k
    if p.seq = l.rxSeq then
      (true, modPort k (fun l => { l with rxSeq := (l.rxSeq + 1) % 2 ^ 24, nakSent := false }) s)
    else if serialCmp p.seq l.rxSeq 24 = .newer && !l.nakSent then
      (false, sendControl k 1 [l.rxSeq] (modPort k (fun l => { l with nakSent := true }) s))
    else (false, s)

/-- A packet of a port that ends here leaves the ingress buffer (R339). -/
def takeOff (k : Nat) (p : Packet) (s : State) : State := freeFlits (some (k, p.vc)) (pktFlits p) s

/-- Forward a packet (R334, R344). -/
def forwardPkt (k : Nat) (p : Packet) (s : State) : State :=
  let die := arrDie s k
  if p.hops = 0 then unreachable die p (takeOff k p s) else
  match routePkt (if k < 36 then some k else none) { p with hops := p.hops - 1 } s with
  | (true, s) => bump (rvlPage die + Reg.RVL_FWD) 1 s
  | (false, s) => unreachable die p (takeOff k p s)

/-- A packet of an operation arrives: accepted, forwarded, or handed to the destination's action. -/
def arrive (op k : Nat) (p : Packet) (deliver : State → State) (s : State) : State :=
  if p.op ≠ op then s else
  match linkAccept k p s with
  | (false, s) => s
  | (true, s) =>
    if p.reserved ≠ 0 then badPacket (arrDie s k) (takeOff k p s)
    else if p.dest ≠ position s then forwardPkt k p s
    else deliver (takeOff k p s)

/-! ## Judging at the destination -/

/-- A handle rebuilt from the fields of a header (R329). -/
def rebuild (typ home slot gen tag : Nat) : Word := BitVec.ofNat 64 ((((typ * 2 ^ 4 + home) * 2 ^ 22 + slot) * 2 ^ 24 + gen) * 256 + tag)

/-- The context handle and the endpoint object's handle of a packet. -/
def pktCtx (p : Packet) : Word := rebuild 1 15 p.ctxSlot p.ctxGen p.ctxTag
def pktEp (typ : Nat) (p : Packet) : Word := rebuild typ p.epHome p.epSlot p.epGen p.epTag

/-- Is the packet's context stale (R294). -/
def pktStale (s : State) (p : Packet) : Bool :=
  match ctxAt s p.ctxSlot with
  | none => true
  | some x => x.state != .active || hGen x.handle != p.ctxGen

/-! ## Memory requests (R347) -/

/-- A memory request that fails: counted against the inbound window, answered with NACK. -/
def memNack (die : Nat) (p : Packet) (status sub : Nat) (s : State) : State :=
  nackPkt die p status sub (windowError p.epHome p.epSlot s)

/-- Bytes that a memory request accesses. -/
def memReqLen (p : Packet) : Nat :=
  match p.op with
  | 0x01 => p.body.length - 40
  | 0x02 => bytesAt p.body 0x14 4
  | _ => atomBytes (bytesAt p.body 0x1C 1 / 8 % 8)

/-- The PERM bit that an operation needs (R346). -/
def memPermBit (op : Nat) : Nat := match op with | 0x02 => 0 | 0x01 => 1 | _ => 2

/-- Judge a memory request in the order of R347, up to its translation: a status and subcode, or the window. (log 83: DEDUCED) -/
def judgeMemReq (s : State) (p : Packet) : Except (Nat × Nat) Window :=
  if pktStale s p then .error (zsStaleContext, 0) else
  let st := judgeHandle s (ctxHandle s p.ctxSlot) (pktEp 4 p) 4
  if st ≠ zsOk then .error (st, 0) else
  match tget? s.windows (windowKey p.epHome p.epSlot) with
  | none => .error (zsHandleStale, 0)
  | some w =>
    if !w.inbound || w.ctx ≠ p.ctxSlot then .error (zsHandleInvalid, 0)
    else if !bit w.perm (memPermBit p.op) || !(bit w.perm 3 || w.position == p.src) then .error (zsDenied, 0xA0)
    else if bytesAt p.body 0 8 + memReqLen p > w.length then .error (zsDenied, 0xA1)
    else .ok w

/-- What the failure of an inbound packet's judgement records at the receiver (R25, R26, R294): a stale packet is counted, a handle that
fails stands in ERR_FIRST of the receiver's page and, where it is invalid, in its context's count. (log 130: DEDUCED) -/
def recInbound (die : Nat) (p : Packet) (code : Nat) (s : State) : State :=
  if code = zsStaleContext then countStale p.ctxSlot die s
  else if code = zsHandleInvalid then countInvalid p.ctxSlot (recErr (rvlPage die) p.ctxSlot 0 code s)
  else if code = zsHandleStale then recErr (rvlPage die) p.ctxSlot 0 code s
  else s

/-- The check word and the judgement of a memory request, then its action at the virtual address. -/
def memRequest (k : Nat) (p : Packet) (act : Window → Nat → State → State) (s : State) : State :=
  if pktCheck p.body ≠ p.check then memNack (arrDie s k) p zsCheckFail 0 (checkFail (arrDie s k) p s) else
  match judgeMemReq s p with
  | .error (c, u) => memNack (arrDie s k) p c u (recInbound (arrDie s k) p c s)
  | .ok w => act w ((w.base + bytesAt p.body 0 8) % 2 ^ 64) s

/-- A request's answer. -/
def memAnswer (p : Packet) (op mask : Nat) (payload : List Byte) (s : State) : State :=
  respond p.epHome p (pktIssuer p).1 op (pktIssuer p).2 zsOk 0 mask payload s

/-- An inbound access that does not translate is answered with its code. A walk that met poison is consumed by the window's context
(R256), and the request is answered as one for a context in teardown (R129, R294). -/
def memUntranslated (p : Packet) (w : Window) (code sub : Nat) (s : State) : State :=
  if code = zsPoison then
    memNack p.epHome p zsStaleContext 0 (countStale w.ctx p.epHome (poisonKill (rvlPage p.epHome) w.ctx 0x06 s))
  else memNack p.epHome p code sub s

/-- The payload of a packet after an extension, with the poison of its mask (R331). -/
def maskedBytes (off mask : Nat) (l : List Byte) : List (Byte × Bool) := l.zipIdx.map (fun b => (b.1, bit mask ((off % 64 + b.2) / 64)))

/-- The block that a put would write, where its address translates (R378). (log 131: DEDUCED) -/
def putBlock (s : State) (w : Window) (va : Nat) : Option Nat :=
  match translate s w.ctx va .write with
  | .ok pa mt _ => (match (if mt < 2 then resolve s pa else .bad) with | .dram a => some a | _ => none)
  | .fail _ _ => none

/-- Count what the link receiver does with a block that carries its check word (R376, R377, R386). -/
def countPut (die : Nat) (carries : Bool) (data : List (Byte × Bool)) (s : State) : State :=
  if !carries then s
  else if data.any (fun b => b.2) then bumpSat (chkPage die + Reg.CHK_POISON_SKIP) 1 s
  else bump (chkPage die + Reg.CHK_VERIFIED) 1 s

/-- PUT at the destination (R124, R254, R347, R374 to R378). (log 131: DEDUCED) -/
def takePut (p : Packet) (w : Window) (va : Nat) (s : State) : State :=
  let data := maskedBytes (bytesAt p.body 0 8) (bytesAt p.body 0x20 8) (p.body.drop 40)
  let word := bytesAt p.body 0x18 4
  let carries := bit (bytesAt p.body 0x1D 1) 0 && data.length == 4096
  let carried := if carries then [(va, word)] else []
  let s := countPut p.epHome carries data s
  if carries && !data.any (fun b => b.2) && crc32c (bare data) ≠ word then
    memNack p.epHome p zsCheckFail 0x02 (checkReported p.epHome (rvlPage p.epHome) w.ctx 2 (putBlock s w va) s)
  else match gWriteC (engAt p.epHome 20) w.ctx va data carried s with
  | (some (c, u, _), s) => memUntranslated p w c u s
  | (none, s) => memAnswer p opDone 0 [] s

/-- GET at the destination. -/
def takeGet (p : Packet) (w : Window) (va : Nat) (s : State) : State :=
  match gRead (engAt p.epHome 20) w.ctx va (memReqLen p) s with
  | (.error (c, u, _), s) => memUntranslated p w c u s
  | (.ok l, s) => memAnswer p opData (poisonMaskOf (bytesAt p.body 0 8) l) (bare l) s

/-- ATOM or RED at the destination: performed at the home die (R96, R124). An ATOM on a poisoned granule answers its poison and does not
take effect (R256). -/
def takeAtom (red : Bool) (p : Packet) (w : Window) (va : Nat) (s : State) : State :=
  let f := bytesAt p.body 0x1C 1
  let op := f % 8
  let ty := f / 8 % 8
  let n := atomBytes ty
  let c := (bytesAt p.body 40 n, bytesAt p.body (40 + n) n)
  match translate s w.ctx va .atomic with
  | .fail code u => memUntranslated p w code u s
  | .ok pa mt _ =>
    match (if mt < 2 then resolve s pa else .bad) with
    | .dram a =>
      let acc := engAcc s (engAt (homeDie a) 20) w.ctx (mt == 1)
      let bad := bytesAt p.body 0x20 8 != 0
      if !red && poisonedAt s a then memAnswer p opData 1 (toBytes n (memNat s a n)) (accessLine acc (a / 128) true s).2
      else if red && op < 3 then
        let (_, s) := reduceLine acc (a / 128) ⟨a % 128, op, ty, c.1, bad, none⟩ s
        memAnswer p opDone 0 [] (settleLine (homeDie a) (a / 128) s)
      else
        let (_, s) := accessLine acc (a / 128) true s
        let old := memNat s a n
        let s := cachedWrite (homeDie a) a (toBytes n (if op = 7 then atomCas old c.1 c.2 else atomNew op ty old c.1)) s
        let s := if bad then setPoison (a / 64) true s else s
        if red then memAnswer p opDone 0 [] s else memAnswer p opData (b2n (poisonedAt s a)) (toBytes n old) s
    | _ => memNack p.epHome p zsPageFault (0x40 + leafLevel s w.ctx va) s

/-- PUT (R347). -/
def execPut (port : Nat) (p : Packet) (s : State) : Host.Outcome State Fault Refusal :=
  .next (arrive opPut port p (memRequest port p (takePut p)) s)

/-- GET (R347). -/
def execGet (port : Nat) (p : Packet) (s : State) : Host.Outcome State Fault Refusal :=
  .next (arrive opGet port p (memRequest port p (takeGet p)) s)

/-- ATOM_PACKET (R347). -/
def execAtomPacket (port : Nat) (p : Packet) (s : State) : Host.Outcome State Fault Refusal :=
  .next (arrive opAtom port p (memRequest port p (takeAtom false p)) s)

/-- RED_PACKET (R347). -/
def execRedPacket (port : Nat) (p : Packet) (s : State) : Host.Outcome State Fault Refusal :=
  .next (arrive opRed port p (memRequest port p (takeAtom true p)) s)

/-! ## Messages (R290) -/

/-- A message at its destination. (log 83: DEDUCED) -/
def takeMsg (k : Nat) (p : Packet) (s : State) : State :=
  let die := arrDie s k
  if pktCheck p.body ≠ p.check then nackPkt die p zsCheckFail 0 (checkFail die p s)
  else if pktStale s p then nackPkt die p zsStaleContext 0 (countStale p.ctxSlot die s)
  else
    let h := pktEp 9 p
    let st := judgeHandle s (ctxHandle s p.ctxSlot) h 9
    if st ≠ zsOk then nackPkt die p st 0 (recInbound die p st s)
    else if (endpointOf s h).all (fun ep => ep.queue == 0) then nackPkt die p zsDenied 0 s
    else
      let (r, s) := judgeMessage h p.roleEpoch p.src (hSlot (pktIssuer p).1) p.ack (zeros 8 ++ p.body.drop 16) s
      if r = zsOk then respond p.epHome p (pktIssuer p).1 opMsgAck (pktIssuer p).2 zsOk 0 0 [] s else nackPkt p.epHome p r 0 s

/-- MSG (R290). -/
def execMsg (port : Nat) (p : Packet) (s : State) : Host.Outcome State Fault Refusal :=
  .next (arrive opMsg port p (takeMsg port p) s)

/-! ## Sillage segments (R305, R321, R403, R404) -/

/-- The group that a Sillage packet's endpoint serves: its slot and contents. -/
def silTarget (s : State) (p : Packet) : Option (Nat × SilGroup) :=
  match endpointOf s (pktEp 9 p) with
  | none => none
  | some ep =>
    if ep.group = 0 then none else
    match silAt s (hSlot ep.group) with
    | none => none
    | some g => if g.handle = ep.group then some (hSlot ep.group, g) else none

/-- A segment whose check word fails (R320, R333): counted, and the owner of a contribution to the open step retracts.
(log 83: DEDUCED) -/
def silCheckFail (k : Nat) (p : Packet) (s : State) : State :=
  let die := arrDie s k
  let s := nackPkt die p zsCheckFail 0 (checkFail die p s)
  match silTarget s p with
  | none => s
  | some (gs, g) =>
    let s := setPend (silPage p.epHome) 8 (bumpSat (silPage p.epHome + Reg.SIL_CHECK_FAIL) 1 s)
    let x := segOf p.body
    if x.kind ≤ 2 && stepVerdict s g x == .accept then retractFor p.epHome gs zsCheckFail 0 s else s

/-- A segment at its destination, up to its group; `act` takes it. -/
def silSegment (k : Nat) (p : Packet) (act : Nat → SilGroup → SilSeg → State → State) (s : State) : State :=
  let die := arrDie s k
  if pktCheck p.body ≠ p.check then silCheckFail k p s
  else if pktStale s p then nackPkt die p zsStaleContext 0 (countStale p.ctxSlot die s)
  else
    let h := pktEp 9 p
    let st := judgeHandle s (ctxHandle s p.ctxSlot) h 9
    if st ≠ zsOk then nackPkt die p st 0 (recInbound die p st s)
    else if (endpointOf s h).any (fun ep => ep.epoch != p.roleEpoch) then
      nackPkt die p zsStaleRole 0 (bumpSat (silPage p.epHome + Reg.SIL_STALE_ROLE) 1 s)
    else
      match silTarget s p with
      | none => nackPkt die p zsHandleStale 0 s
      | some (gs, g) =>
        let x := segOf p.body
        let s := bump (silPage p.epHome + Reg.SIL_SEG_RX) 1 s
        if x.gid ≠ gId g then nackPkt die p zsLateDropped 0x02 (bumpSat (silPage p.epHome + Reg.SIL_STEP_SKEW) 1 s)
        else act gs g x s

/-- Step traffic: held for the next step, or judged (R320, R321). (log 83: DEDUCED) -/
def takeSil (gs : Nat) (g : SilGroup) (x : SilSeg) (p : Packet) (s : State) : State :=
  if stepVerdict s g x == .hold then modSil gs (fun g => { g with held := g.held ++ [p] }) s else
  let (v, s) := judgeSeg p.epHome gs x s
  let s := silAnswer gs p v.status v.sub s
  match v.retract with
  | some (c, u) => retractFor p.epHome gs c u s
  | none => s

/-- Is a packet a segment of the kinds that a row takes. -/
def silKind (p : Packet) (ok : Nat → Bool) : Bool := ok (bytesAt p.body 0x1B 1)

/-- SIL (R321): step traffic; a KIND that no rule gives is discarded as of no step. -/
def execSil (port : Nat) (p : Packet) (s : State) : Host.Outcome State Fault Refusal :=
  .next (if !silKind p (fun k => k < 7 || k > 9) then s else
    arrive opSil port p (silSegment port p (fun gs g x s =>
      if 1 ≤ x.kind && x.kind ≤ 6 then takeSil gs g x p s
      else nackPkt p.epHome p zsLateDropped 0x02 (bumpSat (silPage p.epHome + Reg.SIL_STEP_SKEW) 1 s))) s)

/-- JOIN_SEGMENT (R403): the sender's member entry is rewritten and JOIN_ACK answers: a SIL_ACK that carries STEP in the place of
credit. -/
def execJoinSegment (port : Nat) (p : Packet) (s : State) : Host.Outcome State Fault Refusal :=
  .next (if !silKind p (fun k => k == 7) then s else
    arrive opSil port p (silSegment port p (fun gs g x s =>
      sendResponse p.epHome p.src opSilAck (pktIssuer p).1 false (respExt (pktIssuer p).2 zsOk 0 (gStep s g))
        (takeJoin gs x.sender (BitVec.ofNat 64 (bytesAt x.payload 0 8)) (bytesAt x.payload 8 2) s))) s)

/-- ROLLBACK (R396, R404): the group moves to RESTORING at the named step, and the cadence unit counts a failure. -/
def execRollback (port : Nat) (p : Packet) (s : State) : Host.Outcome State Fault Refusal :=
  .next (if !silKind p (fun k => k == 8) then s else
    arrive opSil port p (silSegment port p (fun gs _ x s =>
      silAnswer gs p zsOk 0 (takeRollback gs (bytesAt x.payload 0 8) (cadEvent s)))) s)

/-- FILL_SEGMENT (R403): live parameters of the fill source arrive, FIRST_POS bytes into their slice's parameters.
(log 76: DESIGN CHOICE) -/
def execFillSegment (port : Nat) (head : Packet) (ext payload : List Byte) (s : State) : Host.Outcome State Fault Refusal :=
  let p := carrying head (ext ++ payload)
  .next (if !silKind p (fun k => k == 9) then s else
    arrive opSil port p (silSegment port p (fun gs _ x s =>
      match takeFill gs x.slice x.first x.payload s with
      | (c, u, s) => silAnswer gs p c u s)) s)

/-! ## Responses (R332) -/

/-- A request fails at its issuer: a Sillage entry takes the code, an engine goes on with what it may issue. -/
def fabFailed (tag code sub : Nat) (s : State) : State :=
  match fabFind s tag with
  | none => s
  | some r =>
    let s := fabFail tag code sub s
    match r.issuer with
    | .sil gs i =>
      let s := silAnswered gs i tag code sub s
      if code = zsUnreachable then memberFailed gs i s else s
    | .join gs i => if code = zsUnreachable then memberFailed gs i s else s
    | .dma _ _ => dmaPump s
    | _ => s

/-- A response at its destination: a failed check word fails its request, a stale one is discarded and still lowers the counts, any
other goes to `act` with its request. -/
def takeResponse (k : Nat) (p : Packet) (act : FabReq → State → State) (s : State) : State :=
  let tag := bytesAt p.body 0 4
  let die := arrDie s k
  settleUnmaps (match fabFind s tag with
  | none => if pktCheck p.body ≠ p.check then checkFail die p s else if pktStale s p then countStale p.ctxSlot die s else s
  | some r =>
    if pktCheck p.body ≠ p.check then fabFailed tag zsCheckFail 0 (checkFail die p s)
    else if pktStale s p then fabStale r (countStale p.ctxSlot die s)
    else act r s)

/-- A request is answered with success: forgotten and no longer counted. -/
def fabOk (r : FabReq) (s : State) : State := fabUncount r (fabDrop r.tag s)

/-- DONE (R332): a put or RED is performed. -/
def execDone (port : Nat) (p : Packet) (s : State) : Host.Outcome State Fault Refusal :=
  .next (arrive opDone port p (takeResponse port p (fun r s =>
    match r.issuer with
    | .put loom skein lcv thread => fabThreadDone loom skein lcv thread (fabOk r s)
    | .dma ch none => dmaPump (dmaWrote ch r.len (dmaTagDone r.tag zsOk 0 (fabOk r s)))
    | _ => s)) s)

/-- A get's or ATOM's value reaches its thread; a poisoned one is consumed (R126, R256). -/
def threadData (r : FabReq) (loom skein lcv thread : Nat) (regs : List Nat) (width : Nat) (mask : Nat) (data : List Byte) (s : State) : State :=
  let v := loadExtend width (ofBytes (data.take r.len))
  let s := fabOk r s
  if mask ≠ 0 then
    let s := fabThreadDone loom skein lcv thread s
    match lateEnv s loom skein r.pc r.mask with
    | none => s
    | some e => poisonFault e 0x01 r.va thread s
  else
    let ws : List RegWrite := regs.zipIdx.filterMap (fun x => if x.1 = 255 then none else some ⟨thread, x.1, BitVec.ofNat 32 (v / 2 ^ (32 * x.2))⟩)
    fabThreadDone loom skein lcv thread (lcvAddWrites loom skein lcv ws s)

/-- DATA (R332): a get's bytes or an ATOM's old value. -/
def execData (port : Nat) (p : Packet) (s : State) : Host.Outcome State Fault Refusal :=
  .next (arrive opData port p (takeResponse port p (fun r s =>
    let mask := bytesAt p.body 8 8
    let data := p.body.drop 16
    match r.issuer with
    | .thread loom skein lcv thread regs width => threadData r loom skein lcv thread regs width mask data s
    | .dma ch (some dst) =>
      let off := r.va + (tget? s.windows (windowKey r.die r.window)).elim 0 (fun w => w.base)
      let s := dmaTagDone r.tag zsOk 0 (fabOk r s)
      let s := match dmaRunOf s ch with
        | some run => if run.status = zsOk then dmaWrite ch run.ctx dst (maskedBytes off mask (data.take r.len)) [] s else s
        | none => s
      dmaPump s
    | _ => s)) s)

/-- NACK (R126, R332). -/
def execNack (port : Nat) (p : Packet) (s : State) : Host.Outcome State Fault Refusal :=
  .next (arrive opNack port p (takeResponse port p (fun r s => fabFailed r.tag (bytesAt p.body 4 1) (bytesAt p.body 5 1) s)) s)

/-- MSG_ACK (R290, R332). -/
def execMsgAck (port : Nat) (p : Packet) (s : State) : Host.Outcome State Fault Refusal :=
  .next (arrive opMsgAck port p (takeResponse port p (fun r s =>
    match r.issuer with
    | .send loom skein lcv => sendAnswered loom skein lcv (bytesAt p.body 4 1) (fabOk r s)
    | .nobody => fabOk r s
    | _ => s)) s)

/-- A SIL_ACK that answers no segment returns credit only (R308). -/
def creditOnly (k : Nat) (p : Packet) (s : State) : State :=
  let die := arrDie s k
  if pktCheck p.body ≠ p.check then checkFail die p s
  else if pktStale s p then countStale p.ctxSlot die s
  else match takeCredit p s with
  | (none, s) => s
  | (some gs, s) => silSettle gs s

/-- A SIL_ACK arrives (R308, R332, R403): the segment that it answers is acknowledged, and the owner's credit comes back. -/
def takeSilAck (port : Nat) (p : Packet) (s : State) : State :=
  arrive opSilAck port p (fun s =>
    if bytesAt p.body 5 1 = 1 then creditOnly port p s else
    takeResponse port p (fun r s =>
      match r.issuer with
      | .sil gs i => silAnswered gs i r.tag zsOk 0 (takeCredit p (fabOk r s)).2
      | .join gs i => joinAcked gs i (bytesAt p.body 8 8) (fabOk r s)
      | _ => s) s) s

/-- SIL_ACK (R308, R332). -/
def execSilAck (port : Nat) (head : Packet) (body : List Byte) (s : State) : Host.Outcome State Fault Refusal :=
  .next (takeSilAck port (carrying head body) s)

/-- Is a packet the answer to a JOIN of this package. -/
def answersJoin (s : State) (p : Packet) : Bool :=
  (fabFind s (bytesAt p.body 0 4)).any (fun r => match r.issuer with | .join _ _ => true | _ => false)

/-- JOIN_ACK (R403): a SIL_ACK that answers a JOIN carries the member's STEP; the first member that acknowledges is the fill source. -/
def execJoinAck (port : Nat) (head : Packet) (body : List Byte) (s : State) : Host.Outcome State Fault Refusal :=
  let p := carrying head body
  .next (if answersJoin s p then takeSilAck port p s else s)

/-- FABRIC_TIMEOUT (R126): no response to the request with the tag. (log 3: DESIGN CHOICE) -/
def execFabricTimeout (tag : Nat) (s : State) : Host.Outcome State Fault Refusal := .next (settleUnmaps (fabFailed tag zsTimeout 0 s))

end Sys2Proof.Machine
end

