-- ==== Sys2Proof/Machine/Teardown.lean ====
section
/-! DEFINITION. The phases of a context's teardown (R293, Table R293) and its clear scrub (R259). -/

namespace Sys2Proof.Machine

/-- The frames that a context holds (R259, R269), but those of record stores, which outlive it (R391). -/
def ctxFrames (s : State) (c : Nat) : List (Nat × Nat) :=
  let kept := s.stores.flatMap (fun r => r.slotA ++ r.slotB)
  (ctxAt s c).elim [] (fun x => ((x.leaves.filter (fun l => l.mt < 2 && !kept.contains l.pa)).map (fun l => (l.pa, l.size))) ++ x.tables ++ x.areas)

/-- Bytes of a context's frames on a die. -/
def heldBytes (s : State) (c die : Nat) : Nat :=
  ((ctxFrames s c).filter (fun f => homeDie f.1 == die)).foldl (fun n f => n + f.2) 0

/-- The context's teardown, while its state is the one given. -/
def tearingIn (s : State) (c : Nat) (st : CtxState) : Option Teardown :=
  match ctxAt s c with
  | some x => if x.state == st then x.teardown else none
  | none => none

/-- Perform every reduction that a context's skeins have pending (R293, phase 2). -/
def settleContext (c : Nat) (s : State) : State :=
  forL s.looms (fun l s => forL (l.2.skeins.filter (fun k => k.2.ctx == c)) (fun k s => settleSkein (l.1 / 32) l.1 k.1 s) s) s

/-- TEARDOWN_WRITES_DONE (R293): every write already issued, merge-writebacks included, is performed. -/
def execTeardownWritesDone (c : Nat) (s : State) : Host.Outcome State Fault Refusal :=
  .next (match tearingIn s c .draining with
    | none => s
    | some t => if t.writesDone then s else
      modCtx c (fun x => { x with teardown := x.teardown.map (fun t => { t with writesDone := true }) }) (settleContext c s))

/-- TEARDOWN_QUIET_END (R293): the writes are done, the in-flight counters are zero and 2F has passed, so the scrub starts. -/
def execTeardownQuietEnd (c : Nat) (s : State) : Host.Outcome State Fault Refusal :=
  .next (match tearingIn s c .draining with
    | none => s
    | some t =>
      if !t.writesDone || (liveDies s).any (fun d => inflightOf s c d != 0) then s else
      forL (liveDies s) (fun d s' => modCtxDie c d (fun x => { x with scrubLeft := heldBytes s c d }) s')
        (modCtx c (fun x => { x with state := .scrubbing }) s))

/-- Release every pin of a context (R293, phase 5). (log 41: DESIGN CHOICE) -/
def releasePins (c : Nat) (s : State) : State :=
  { s with weaves := tmapv s.weaves (fun _ w => { w with sets := tmapv w.sets (fun _ t =>
      { t with ways := (t.ways.filter (fun l => !(l.pin == some c && l.state == .i))).map (fun l => if l.pin == some c then { l with pin := none } else l) }) }) }

/-- CLEAR_SCRUB_DONE (R259, R293): every frame of the context is zero and clear, and its pins are released. (log 41: DESIGN CHOICE) -/
def execClearScrubDone (c : Nat) (s : State) : Host.Outcome State Fault Refusal :=
  .next (match tearingIn s c .scrubbing with
    | none => s
    | some _ =>
      forL (liveDies s) (fun d s => modCtxDie c d (fun x => { x with scrubLeft := 0 }) s)
        (releasePins c (forL (ctxFrames s c) (fun f s => scrubRange f.1 f.2 s) s)))

/-- The handles of the live objects of a context, all but its own slot (R27). -/
def ctxObjects (s : State) (h : Word) : List Word :=
  (s.slots.filter (fun e => e.2.live && e.2.owner == h && e.1 / 2 ^ 28 != 1)).map (fun e =>
    mkHandle s (e.1 / 2 ^ 28) (e.1 / 2 ^ 24 % 16) (e.1 % 2 ^ 24) e.2.gen)

/-- Remove a context from a loom: its halves, and ops that its array half still holds. (log 41: DESIGN CHOICE) -/
def loomLose (c loom : Nat) (s : State) : State :=
  let s := if (leaseOf s loom false).any (fun x => x.ctx == c) then clearHalf loom false s else s
  if loomSplit s loom && (leaseOf s loom true).any (fun x => x.ctx == c) then clearHalf loom true s else s

/-- Remove a context and everything it owns: its objects, looms, dispatches, regions and queue pairs; its slot's generation advances, and
its counters stay readable (R297). -/
def removeCtx (c : Nat) (s : State) : State :=
  let h := ctxHandle s c
  let s := forL (ctxObjects s h) (fun o s => destroyObject o s) s
  let s := forL (s.looms.map (fun l => l.1)) (fun l s => loomLose c l s) s
  let s := { s with dispatches := s.dispatches.filter (fun d => d.2.ctx != c),
                    svc := tmapv s.svc (fun _ p => { p with mrs := p.mrs.filter (fun m => m.ctx != h), qps := p.qps.filter (fun q => q.ctx != h) }) }
  let kept := (liveDies s).map (fun d => (c * 8 + d, { (ctxAt s c).elim CtxDie.zero (fun x => ctxDie x d) with tops := 0, memtx := 0, scrubLeft := 0 }))
  slotDestroy 1 15 c { s with ctxs := tdel s.ctxs c, ctxKept := tover s.ctxKept kept }

/-- TEARDOWN_COMPLETE (R293, R297): objects are destroyed, generations advance, the slot is free, and the requests that started or
joined the teardown complete with ZS_OK. (log 41: DESIGN CHOICE) -/
def execTeardownComplete (c : Nat) (s : State) : Host.Outcome State Fault Refusal :=
  .next (match tearingIn s c .scrubbing with
    | none => s
    | some t =>
      if (liveDies s).any (fun d => ((ctxAt s c).elim 0 (fun x => (ctxDie x d).scrubLeft)) != 0) then s else
      let h := ctxHandle s c
      let s := removeCtx c s
      let s := { s with teardownTicks := tset s.teardownTicks c (s.time - t.since) }
      let s := forL (liveDies s) (fun d s => setPend (pageAddr .ctx d 0 0) 4 s) s
      forL t.answer (fun a s => zjpAnswer a.1 a.2 0x0011 h zsOk 0 [] s) s)

end Sys2Proof.Machine
end

