-- ==== Sys2Proof/Machine/TileStore.lean ====
section
/-! DEFINITION. Slot stores and slot loads (R193 to R202, R255, R494). -/

namespace Sys2Proof.Machine

/-! ## The store port (R197) -/

/-- Is an op a slot store or a slot load. -/
def isMove (o : TileOp) : Bool := dOp (opDesc o) == 2 || dOp (opDesc o) == 3

/-- Will an accepted op still act on its slots: an MMA acts when it completes, a move when it runs. -/
def stillActs (o : TileOp) : Bool :=
  match o.stage with
  | .refused _ _ => false
  | .done _ _ _ => isMma o
  | _ => true

/-- Every earlier accepted op that names the slot of op `i` has completed (R197). -/
def moveFree (h : ArrayHalf) (i : Nat) (o : TileOp) : Bool :=
  (h.ops.take i).all (fun p => !stillActs p || !p.reqs.any (fun r => (slotsNamed r.desc).contains (dSlot (opDesc o))))

/-- The op that the store port serves next: the one that holds it, else the oldest that may start (R197). -/
def portOp (h : ArrayHalf) : Option (Nat × TileOp) :=
  let l := (h.ops.zipIdx.filter (fun o => isMove o.1)).map (fun o => (o.2, o.1))
  match l.find? (fun o => match o.2.stage with | .handing _ _ _ => true | _ => false) with
  | some o => some o
  | none => l.find? (fun o => o.2.stage == .queued && moveFree h o.1 o.2)

/-! ## The tile of a store (R195) -/

/-- Row and column of position `j` of stored row `i`. -/
def moveAt (d : List Byte) (i j : Nat) : Nat × Nat := if dTrans d then (j, i) else (i, j)

/-- The operand of a slot store or load in memory (R194). -/
def moveOpnd (d : List Byte) : Opnd := ⟨moveRows d, moveExtent d, dFmtA d, dModeA d, dAAddr d, dAStride d, dAScale d⟩

/-- The elements of stored row `i` of a store, with their rounding. -/
def storeElems (s : State) (v : AccSlot) (ctx step : Nat) (d : List Byte) (i : Nat) : List SrcElem :=
  (List.range (moveExtent d)).map (fun j =>
    let p := moveAt d i j
    ⟨fp32 (slotElem v p.1 p.2), slotPoison v p.1 p.2, slotRnd s ctx step (dSr d) (dSrSeq d) p.1 p.2⟩)

/-- Stored row `i` of a store, encoded; a slot tagged TOPK gives its bits unchanged (R195). -/
def storeRow (s : State) (v : AccSlot) (ctx step : Nat) (d : List Byte) (i : Nat) : EncRow :=
  if v.topk then
    ⟨packCodes 32 ((List.range (moveExtent d)).map (fun j => (slotElem v i j, slotPoison v i j))), [], 0, 0, 0⟩
  else encodeRow (dFmtA d) (dModeA d) 0 (dSat d) 0 (storeElems s v ctx step d i)

/-- Does a store read a poisoned element. -/
def storeBad (v : AccSlot) (d : List Byte) : Bool :=
  (List.range (moveRows d)).any (fun i => (List.range (moveExtent d)).any (fun j => let p := moveAt d i j; slotPoison v p.1 p.2))

/-- Every row of a store. -/
def storeRows (s : State) (v : AccSlot) (ctx step : Nat) (d : List Byte) : List EncRow :=
  (List.range (moveRows d)).map (storeRow s v ctx step d)

/-- The greatest magnitude that a store read, as FP32 bits; the canonical NaN where an element is non-finite (R195).
(log 61: DEDUCED) -/
def storeAmax (s : State) (v : AccSlot) (ctx step : Nat) (d : List Byte) : Nat :=
  (amaxBits ((List.range (moveRows d)).flatMap (fun i => (storeElems s v ctx step d i).map (fun x => x.val)))).getD 0x7FC00000

/-- The writes of a plain store: rows, then scales. -/
def storePlain (d : List Byte) (rows : List EncRow) : List (Nat × List (Byte × Bool)) :=
  let o := moveOpnd d
  coalesce (rows.zipIdx.map (fun r => ((o.addr + r.2 * o.stride) % 2 ^ 64, r.1.data))) ++
    (if o.hasPlane then coalesce (rows.zipIdx.map (fun r => ((o.plane.1 + r.2 * o.plane.2) % 2 ^ 64, r.1.scales))) else [])

/-- The frames of a store with STASH (R200 to R202). -/
def storeFrames (d : List Byte) (amax : Nat) (rows : List EncRow) : List (List (Byte × Bool)) :=
  stashSegment (dFmtA d) (dModeA d) (dZrc d) amax (rows.flatMap (fun r => rowBlocks (dFmtA d) (dModeA d) r.data r.scales))

/-- RED.MAX U32 of the amax word at package scope (R195), poisoned where an element it came from was (R254): none, or the failure of its
address. -/
def storeMax (loom ctx : Nat) (d : List Byte) (amax : Nat) (bad : Bool) (s : State) : Option (Nat × Nat) × State :=
  if dAmax d = 0 then (none, s) else
  match translate s ctx (dAmax d) .atomic with
  | .fail c u => (some (c, u), s)
  | .ok pa mt _ =>
    if mt ≥ 2 then (some (zsPageFault, 0x40 + leafLevel s ctx (dAmax d)), s) else
    match resolve s pa with
    | .dram a =>
      let die := loom / 32
      let (_, s) := reduceLine (engAcc s (engAt die 19) ctx (mt == 1)) (a / 128) ⟨a % 128, 2, 0, amax, bad, none⟩ s
      (none, settleLine die (a / 128) s)
    | _ => (some (zsDenied, 0), s)

/-! ## Sillage stores (R198, R199) -/

/-- The group slot that a store with SILLAGE hands to: the one of its context (R301). -/
def storeGroup (s : State) (ctx : Nat) : Option (Nat × SilGroup) :=
  (s.groups.find? (fun g => g.2.ctx == ctx)).map (fun g => (g.1, g.2))

/-- Hand the waiting segments that credit admits, each owner's in order. Answers those that still wait. (log 69: DEDUCED) -/
def handOver (die gs : Nat) (l : List SilWait) (s : State) : List SilWait × State :=
  let r := l.foldl (fun (acc : List SilWait × State) w =>
    if acc.1.any (fun x => x.owner == w.owner) || !(silAt acc.2 gs).any (fun g => windowOpen g w.owner w.window) then (acc.1 ++ [w], acc.2)
    else (acc.1, silSend die gs w.owner w.seg none (countSent gs w.owner acc.2))) ([], s)
  (r.1, silSettle gs r.2)

/-- The rows of a store as Sillage takes them. -/
def storeSilRows (d : List Byte) (rows : List EncRow) : List SilRow :=
  rows.zipIdx.map (fun r =>
    ⟨dAAddr d + r.2 * dAStride d, (List.range (moveExtent d)).map (rowCode (bare r.1.data) (fmtWidth (dFmtA d))),
      (bare r.1.scales).map (fun b => b.toNat)⟩)

/-- Bytes of segments. -/
def segBytes (l : List SilWait) : Nat := l.foldl (fun n w => n + w.seg.payload.length) 0

/-- An abort of a tile (R199): the group counts none of the segments handed, toward owners or as an owner itself. (log 69: DEDUCED) -/
def abortTile (gs : Nat) (l : List SilWait) (s : State) : State :=
  forL l (fun w s => modSil gs (fun g =>
    let g := { g with sent := tmod g.sent w.owner 0 (· - 1) }
    if w.owner ≠ gSelf g then g else
    { g with from_ := tmod g.from_ (gSelf g) .none (fun f =>
        { f with got := f.got - 1, parts := removeFirst f.parts (fun p => p.slice == w.seg.slice && p.first == w.seg.first) }) }) s) s

/-! ## Ends of stores and loads -/

/-- The requests of the op with an index. -/
def opReqs (s : State) (loom : Nat) (east : Bool) (i : Nat) : List TileReq := ((halfOf s loom east).ops[i]?).elim [] (fun o => o.reqs)

/-- A move fails: a walk that met poison is consumed by the context (R256, R494). -/
def moveFail (loom : Nat) (east : Bool) (i ctx code sub : Nat) (s : State) : State :=
  tileWalkPoison loom east ctx (opReqs s loom east i) code (setStage loom east i (.done code sub 0) s)

/-- Count bytes written or handed by slot stores (R206). -/
def countStored (loom n : Nat) (s : State) : State := bump (acsPage loom + Reg.ACS_STORE_BYTES) n s

/-- A store succeeds, and CLEAR acts (R187, R194). -/
def storeDone (loom : Nat) (east : Bool) (i : Nat) (d : List Byte) (result : Nat) (s : State) : State :=
  let s := if dClear d then putSlot loom (physSlot east (dSlot d)) .clear s else s
  setStage loom east i (.done zsOk 0 result) s

/-- The amax word, then the end of a store. -/
def storeEnd (loom : Nat) (east : Bool) (i ctx : Nat) (d : List Byte) (amax : Nat) (bad : Bool) (result : Nat) (s : State) : State :=
  match storeMax loom ctx d amax bad s with
  | (some (c, u), s) => moveFail loom east i ctx c u s
  | (none, s) => storeDone loom east i d result s

/-- Hand over what waits of a store with SILLAGE; while some waits, the store holds its port, and the cycles since `since` that it has
waited are counted. Where the queue or the group is gone, the store ends and the tile is aborted (R199). -/
def storeHand (loom : Nat) (east : Bool) (i ctx : Nat) (d : List Byte) (amax : Nat) (l handed : List SilWait) (since : Nat) (s : State) : State :=
  let s := bump (acsPage loom + Reg.ACS_SIL_WAIT) (cycles s - since) s
  match storeGroup s ctx with
  | none => moveFail loom east i ctx zsHandleStale 0 s
  | some (gs, _) =>
    if judgeHandle s (ctxHandle s ctx) (dSil d) 2 ≠ zsOk then moveFail loom east i ctx zsHandleStale 0 (abortTile gs handed s) else
    let (left, s) := handOver (hHome (dSil d)) gs l s
    let sent := l.filter (fun w => !left.contains w)
    let s := countStored loom (segBytes sent) s
    if left.isEmpty then storeEnd loom east i ctx d amax false 0 s
    else setStage loom east i (.handing left (handed ++ sent) (cycles s)) s

/-- A store with SILLAGE begins: its tile is checked whole (R305). (log 69: DEDUCED) -/
def storeSillage (loom : Nat) (east : Bool) (i ctx : Nat) (d : List Byte) (amax : Nat) (rows : List EncRow) (s : State) : State :=
  match storeGroup s ctx with
  | none => moveFail loom east i ctx zsHandleStale 0 s
  | some (_, g) =>
    if rows.any (fun r => (r.data ++ r.scales).any (fun b => b.2)) then
      silError (hHome (dSil d)) ctx zsPoison 0x04
        (forL (opReqs s loom east i) (fun r s => completeReq loom east ctx r zsPoison 0x04 0 true s) (setStage loom east i (.done zsPoison 0x04 0) s)) else
    match rowsSegments s g (dFmtA d) (dModeA d) (storeSilRows d rows) with
    | none => setStage loom east i (.done zsBadFormat 0x07 0) (silError (hHome (dSil d)) ctx zsBadFormat 0x07 s)
    | some l => storeHand loom east i ctx d amax l [] (cycles s) s

/-- A store that starts (R195, R202). (log 57: DEDUCED) -/
def storeStart (loom : Nat) (east : Bool) (i : Nat) (o : TileOp) (s : State) : State :=
  let d := opDesc o
  let step := (o.reqs.head?).elim 0 (fun r => r.step)
  let v := slotAt s loom (physSlot east (dSlot d))
  let rows := storeRows s v o.ctx step d
  let amax := storeAmax s v o.ctx step d
  if dSillage d then storeSillage loom east i o.ctx d amax rows s else
  let frames := if dStash d then storeFrames d amax rows else []
  let writes := if dStash d then frames.zipIdx.map (fun f => ((dAAddr d + f.2 * 4096) % 2 ^ 64, f.1)) else storePlain d rows
  let r := opWrite (engAt (loom / 32) 19) o.ctx writes s
  let s := countStored loom r.1.2 r.2
  match r.1.1 with
  | some (c, u, _) => moveFail loom east i o.ctx c u s
  | none => storeEnd loom east i o.ctx d amax (storeBad v d) frames.length s

/-- The writes of a load's rows into its slot (R196). (log 61: DEDUCED) -/
def loadWrites (s : State) (v : AccSlot) (ctx step : Nat) (d : List Byte) (rows : List (List Elem)) : List SlotWrite :=
  let t := if dTrans d then transposeRows (dM d) rows else rows
  (List.range (dM d)).flatMap (fun m => (List.range (dN d)).map (fun n =>
    let x := elemAt t m n
    let old := if dAdd d then some (slotElem v m n) else none
    ⟨slotKeyOf m n, addRound (slotRnd s ctx step (dSr d) (dSrSeq d) m n) old x.val, x.poisoned || (dAdd d && slotPoison v m n)⟩))

/-- A load that starts (R196, R376, R494). (log 57: DEDUCED) -/
def loadStart (loom : Nat) (east : Bool) (i : Nat) (o : TileOp) (s : State) : State :=
  let d := opDesc o
  let step := (o.reqs.head?).elim 0 (fun r => r.step)
  let n := physSlot east (dSlot d)
  match (moveOpnd d).fetch (tileReader loom o.ctx) true ([], s) with
  | (.error (c, u), _, s) => moveFail loom east i o.ctx c u (nanFill loom n false s)
  | (.ok rows, _, s) =>
    let v := slotAt s loom n
    let s := writeSlot loom n (loadWrites s v o.ctx step d rows) (putSlot loom n { v with topk := false } s)
    let s := bump (acsPage loom + Reg.ACS_ADD_ROWS) (dM d) s
    let s := if dSr d then bump (acsPage loom + Reg.ACS_SR_ROWS) (dM d) s else s
    setStage loom east i (.done zsOk 0 0) s

/-- SLOT_STORE_START (R195, R197 to R202): the store port takes a slot store, or goes on with one that waits for Sillage.
(log 57: DEDUCED) -/
def execSlotStoreStart (loom : Nat) (east : Bool) (s : State) : Host.Outcome State Fault Refusal :=
  .next (match portOp (halfOf s loom east) with
    | none => s
    | some (i, o) =>
      if dOp (opDesc o) ≠ 2 || !txFits s o.ctx (loom / 32) 1 then s else
      match o.stage with
      | .handing l handed since =>
        let d := opDesc o
        storeHand loom east i o.ctx d
          (storeAmax s (slotAt s loom (physSlot east (dSlot d))) o.ctx ((o.reqs.head?).elim 0 (fun r => r.step)) d) l handed since s
      | _ => storeStart loom east i o s)

/-- SLOT_LOAD_START (R196, R197): the store port takes a slot load. (log 57: DEDUCED) -/
def execSlotLoadStart (loom : Nat) (east : Bool) (s : State) : Host.Outcome State Fault Refusal :=
  .next (match portOp (halfOf s loom east) with
    | none => s
    | some (i, o) => if dOp (opDesc o) = 3 && txFits s o.ctx (loom / 32) 1 then loadStart loom east i o s else s)

end Sys2Proof.Machine
end

