-- ==== Sys2Proof/Machine/Dispatch.lean ====
section
/-! DEFINITION. What each command does: one arm per command, one meaning each. -/

namespace Sys2Proof.Machine

/-- The effect of a command on everything but the queue. -/
def exec (i : Instr) (s : State) : Host.Outcome State Fault Refusal :=
  match i with
  | .nop w => Sys2Proof.Machine.execNop w s
  | .ialu w => Sys2Proof.Machine.execIalu w s
  | .ishf w => Sys2Proof.Machine.execIshf w s
  | .imul w => Sys2Proof.Machine.execImul w s
  | .icmp w => Sys2Proof.Machine.execIcmp w s
  | .ibit w => Sys2Proof.Machine.execIbit w s
  | .imov w => Sys2Proof.Machine.execImov w s
  | .plop w => Sys2Proof.Machine.execPlop w s
  | .vote w => Sys2Proof.Machine.execVote w s
  | .lxch w => Sys2Proof.Machine.execLxch w s
  | .fadd w => Sys2Proof.Machine.execFadd w s
  | .fmul w => Sys2Proof.Machine.execFmul w s
  | .ffma w => Sys2Proof.Machine.execFfma w s
  | .fmnmx w => Sys2Proof.Machine.execFmnmx w s
  | .fcmp w => Sys2Proof.Machine.execFcmp w s
  | .fcvt w => Sys2Proof.Machine.execFcvt w s
  | .amax w => Sys2Proof.Machine.execAmax w s
  | .sfu w => Sys2Proof.Machine.execSfu w s
  | .ld w => Sys2Proof.Machine.execLd w s
  | .st w => Sys2Proof.Machine.execSt w s
  | .atom w => Sys2Proof.Machine.execAtom w s
  | .red w => Sys2Proof.Machine.execRed w s
  | .fence w => Sys2Proof.Machine.execFence w s
  | .fenceI w => Sys2Proof.Machine.execFenceI w s
  | .bra w => Sys2Proof.Machine.execBra w s
  | .brx w => Sys2Proof.Machine.execBrx w s
  | .call w => Sys2Proof.Machine.execCall w s
  | .ret w => Sys2Proof.Machine.execRet w s
  | .join w => Sys2Proof.Machine.execJoin w s
  | .exit w => Sys2Proof.Machine.execExit w s
  | .yield w => Sys2Proof.Machine.execYield w s
  | .barInit w => Sys2Proof.Machine.execBarInit w s
  | .barSync w => Sys2Proof.Machine.execBarSync w s
  | .barArv w => Sys2Proof.Machine.execBarArv w s
  | .skmMac w => Sys2Proof.Machine.execSkmMac w s
  | .skmXpose w => Sys2Proof.Machine.execSkmXpose w s
  | .skmSum w => Sys2Proof.Machine.execSkmSum w s
  | .skmMax w => Sys2Proof.Machine.execSkmMax w s
  | .topk w => Sys2Proof.Machine.execTopk w s
  | .tileSub w => Sys2Proof.Machine.execTileSub w s
  | .tileWait w => Sys2Proof.Machine.execTileWait w s
  | .tileTest w => Sys2Proof.Machine.execTileTest w s
  | .quePush w => Sys2Proof.Machine.execQuePush w s
  | .quePop w => Sys2Proof.Machine.execQuePop w s
  | .queWait w => Sys2Proof.Machine.execQueWait w s
  | .queSend w => Sys2Proof.Machine.execQueSend w s
  | .rngDraw w => Sys2Proof.Machine.execRngDraw w s
  | .rngAdv w => Sys2Proof.Machine.execRngAdv w s
  | .rngBase w => Sys2Proof.Machine.execRngBase w s
  | .chkCrc w => Sys2Proof.Machine.execChkCrc w s
  | .chkCmb w => Sys2Proof.Machine.execChkCmb w s
  | .chkVer w => Sys2Proof.Machine.execChkVer w s
  | .lcvCompletion loom skein id => Sys2Proof.Machine.execLcvCompletion loom skein id s
  | .joinRelease loom skein addr => Sys2Proof.Machine.execJoinRelease loom skein addr s
  | .yieldExpiry loom skein thread => Sys2Proof.Machine.execYieldExpiry loom skein thread s
  | .barrierStall loom east => Sys2Proof.Machine.execBarrierStall loom east s
  | .requestWest loom => Sys2Proof.Machine.execRequestWest loom s
  | .requestEast loom => Sys2Proof.Machine.execRequestEast loom s
  | .preemptSaveComplete loom east => Sys2Proof.Machine.execPreemptSaveComplete loom east s
  | .loomCfgSplit loom v => Sys2Proof.Machine.execLoomCfgSplit loom v s
  | .tileOpAccept loom east pick => Sys2Proof.Machine.execTileOpAccept loom east pick s
  | .tbTimeout loom east => Sys2Proof.Machine.execTbTimeout loom east s
  | .preloadBegin loom east => Sys2Proof.Machine.execPreloadBegin loom east s
  | .passStart loom east => Sys2Proof.Machine.execPassStart loom east s
  | .tileOpComplete loom east => Sys2Proof.Machine.execTileOpComplete loom east s
  | .slotStoreStart loom east => Sys2Proof.Machine.execSlotStoreStart loom east s
  | .slotLoadStart loom east => Sys2Proof.Machine.execSlotLoadStart loom east s
  | .completionEntryPost => Sys2Proof.Machine.execCompletionEntryPost s
  | .freezeAbandon loom east late => Sys2Proof.Machine.execFreezeAbandon loom east late s
  | .twlRepairWrite loom v => Sys2Proof.Machine.execTwlRepairWrite loom v s
  | .alignRewriteDone loom => Sys2Proof.Machine.execAlignRewriteDone loom s
  | .inServiceWrite loom v => Sys2Proof.Machine.execInServiceWrite loom v s
  | .retiredSet loom => Sys2Proof.Machine.execRetiredSet loom s
  | .go loom => Sys2Proof.Machine.execGo loom s
  | .portOpDone loom => Sys2Proof.Machine.execPortOpDone loom s
  | .fillDelivery die la => Sys2Proof.Machine.execFillDelivery die la s
  | .dirReadRequest die la => Sys2Proof.Machine.execDirReadRequest die la s
  | .dirMRequest die la => Sys2Proof.Machine.execDirMRequest die la s
  | .reductionRegistration die la => Sys2Proof.Machine.execReductionRegistration die la s
  | .registrationAck die la => Sys2Proof.Machine.execRegistrationAck die la s
  | .mergeWriteback die la => Sys2Proof.Machine.execMergeWriteback die la s
  | .pin die slot => Sys2Proof.Machine.execPin die slot s
  | .unpin die slot => Sys2Proof.Machine.execUnpin die slot s
  | .dramReadDecode die line inner err0 err1 => Sys2Proof.Machine.execDramReadDecode die line inner err0 err1 s
  | .pcFailMark die stack pc => Sys2Proof.Machine.execPcFailMark die stack pc s
  | .memcPcFailedWrite die stack v => Sys2Proof.Machine.execMemcPcFailedWrite die stack v s
  | .rebuildComplete die stack => Sys2Proof.Machine.execRebuildComplete die stack s
  | .patrolScrub die inner err0 err1 => Sys2Proof.Machine.execPatrolScrub die inner err0 err1 s
  | .clearScrubDone c => Sys2Proof.Machine.execClearScrubDone c s
  | .memcSurvWrite die size v => Sys2Proof.Machine.execMemcSurvWrite die size v s
  | .dramTempSample die stack temp => Sys2Proof.Machine.execDramTempSample die stack temp s
  | .doorbellWrite slot rec consumer v => Sys2Proof.Machine.execDoorbellWrite slot rec consumer v s
  | .dispatch die slot => Sys2Proof.Machine.execDispatch die slot s
  | .dispatchComplete id => Sys2Proof.Machine.execDispatchComplete id s
  | .copy die slot => Sys2Proof.Machine.execCopy die slot s
  | .fill die slot => Sys2Proof.Machine.execFill die slot s
  | .dmaEntryDone die slot => Sys2Proof.Machine.execDmaEntryDone die slot s
  | .schedulerRound die prefer => Sys2Proof.Machine.execSchedulerRound die prefer s
  | .schQuantum die => Sys2Proof.Machine.execSchQuantum die s
  | .handleHold c => Sys2Proof.Machine.execHandleHold c s
  | .handleHoldEnd c => Sys2Proof.Machine.execHandleHoldEnd c s
  | .roleEpochAdvance h => Sys2Proof.Machine.execRoleEpochAdvance h s
  | .teardownWritesDone c => Sys2Proof.Machine.execTeardownWritesDone c s
  | .teardownQuietEnd c => Sys2Proof.Machine.execTeardownQuietEnd c s
  | .teardownComplete c => Sys2Proof.Machine.execTeardownComplete c s
  | .contrib die slot => Sys2Proof.Machine.execContrib die slot s
  | .close die slot => Sys2Proof.Machine.execClose die slot s
  | .openStep die slot => Sys2Proof.Machine.execOpen die slot s
  | .await die slot => Sys2Proof.Machine.execAwait die slot s
  | .awaitComplete gs slice => Sys2Proof.Machine.execAwaitComplete gs slice s
  | .update die slot => Sys2Proof.Machine.execUpdate die slot s
  | .commit die slot => Sys2Proof.Machine.execCommit die slot s
  | .commitComplete gs => Sys2Proof.Machine.execCommitComplete gs s
  | .retract die slot => Sys2Proof.Machine.execRetract die slot s
  | .digest die slot => Sys2Proof.Machine.execDigest die slot s
  | .silDeadline gs => Sys2Proof.Machine.execSilDeadline gs s
  | .silStallLimit gs entry => Sys2Proof.Machine.execSilStallLimit gs entry s
  | .windowReduce gs w => Sys2Proof.Machine.execWindowReduce gs w s
  | .clipFactor gs slice => Sys2Proof.Machine.execClipFactor gs slice s
  | .readySend gs => Sys2Proof.Machine.execReadySend gs s
  | .commitTimeout gs => Sys2Proof.Machine.execCommitTimeout gs s
  | .linkFrameRx port flits corr uncorr tagOk => Sys2Proof.Machine.execLinkFrameRx port flits corr uncorr tagOk s
  | .frameCloseTimeout port => Sys2Proof.Machine.execFrameCloseTimeout port s
  | .keyRollover port => Sys2Proof.Machine.execKeyRollover port s
  | .controlFlitTimer port => Sys2Proof.Machine.execControlFlitTimer port s
  | .ack port seq => Sys2Proof.Machine.execAck port seq s
  | .nak port seq => Sys2Proof.Machine.execNak port seq s
  | .credit port counts => Sys2Proof.Machine.execCredit port counts s
  | .tsync port t1 t2 t3 t4 stratum => Sys2Proof.Machine.execTsync port t1 t2 t3 t4 stratum s
  | .idle port => Sys2Proof.Machine.execIdle port s
  | .tsyncExchange port => Sys2Proof.Machine.execTsyncExchange port s
  | .replayTimeout port => Sys2Proof.Machine.execReplayTimeout port s
  | .put port p => Sys2Proof.Machine.execPut port p s
  | .get port p => Sys2Proof.Machine.execGet port p s
  | .atomPacket port p => Sys2Proof.Machine.execAtomPacket port p s
  | .redPacket port p => Sys2Proof.Machine.execRedPacket port p s
  | .msg port p => Sys2Proof.Machine.execMsg port p s
  | .sil port p => Sys2Proof.Machine.execSil port p s
  | .donePacket port p => Sys2Proof.Machine.execDone port p s
  | .dataPacket port p => Sys2Proof.Machine.execData port p s
  | .nackPacket port p => Sys2Proof.Machine.execNack port p s
  | .msgAck port p => Sys2Proof.Machine.execMsgAck port p s
  | .silAck port head body => Sys2Proof.Machine.execSilAck port head body s
  | .fabricTimeout tag => Sys2Proof.Machine.execFabricTimeout tag s
  | .bringupPhaseComplete port h => Sys2Proof.Machine.execBringupPhaseComplete port h s
  | .trainLimitExpiry port => Sys2Proof.Machine.execTrainLimitExpiry port s
  | .trainRetry port => Sys2Proof.Machine.execTrainRetry port s
  | .lossOfSignal port lane => Sys2Proof.Machine.execLossOfSignal port lane s
  | .uncorrCodewordLimit port => Sys2Proof.Machine.execUncorrCodewordLimit port s
  | .tagFailureLimit port => Sys2Proof.Machine.execTagFailureLimit port s
  | .rxSilence port => Sys2Proof.Machine.execRxSilence port s
  | .retrain port => Sys2Proof.Machine.execRetrain port s
  | .openBypass pair => Sys2Proof.Machine.execOpenBypass pair s
  | .hold pair v => Sys2Proof.Machine.execHold pair v s
  | .bypassSwitchSettled pair => Sys2Proof.Machine.execBypassSwitchSettled pair s
  | .routeHoldEnd => Sys2Proof.Machine.execRouteHoldEnd s
  | .rvlRouteDataWrite die v => Sys2Proof.Machine.execRvlRouteDataWrite die v s
  | .rvlPositionWrite die v => Sys2Proof.Machine.execRvlPositionWrite die v s
  | .bindHello z b => Sys2Proof.Machine.execBindHello z b s
  | .bindFinish z identity sigOk => Sys2Proof.Machine.execBindFinish z identity sigOk s
  | .unbind z => Sys2Proof.Machine.execUnbind z s
  | .ping z => Sys2Proof.Machine.execPing z s
  | .admitContext z => Sys2Proof.Machine.execAdmit z s
  | .contextDestroy z => Sys2Proof.Machine.execContextDestroy z s
  | .contextInfo z => Sys2Proof.Machine.execContextInfo z s
  | .memGrant z g => Sys2Proof.Machine.execMemGrant z g s
  | .memRelease z va n => Sys2Proof.Machine.execMemRelease z va n s
  | .codeLoad z va code => Sys2Proof.Machine.execCodeLoad z va code s
  | .objCreate z d => Sys2Proof.Machine.execObjCreate z d s
  | .roleAssign z h => Sys2Proof.Machine.execRoleAssign z h s
  | .shareEndpoint z h peer => Sys2Proof.Machine.execShareEndpoint z h peer s
  | .qpConnect z peer psn qpn => Sys2Proof.Machine.execQpConnect z peer psn qpn s
  | .qpClose z qpn => Sys2Proof.Machine.execQpClose z qpn s
  | .mrRegister z va len perm => Sys2Proof.Machine.execMrRegister z va len perm s
  | .mrDeregister z rkey => Sys2Proof.Machine.execMrDeregister z rkey s
  | .serve z => Sys2Proof.Machine.execServe z s
  | .attest z => Sys2Proof.Machine.execAttest z s
  | .testSuspect z => Sys2Proof.Machine.execTestSuspect z s
  | .mgmtStatus z => Sys2Proof.Machine.execMgmtStatus z s
  | .drydownRead z => Sys2Proof.Machine.execDrydownRead z s
  | .policySet z p => Sys2Proof.Machine.execPolicySet z p s
  | .configWrite z r => Sys2Proof.Machine.execConfigWrite z r s
  | .imageWrite z => Sys2Proof.Machine.execImageWrite z s
  | .contextKill z => Sys2Proof.Machine.execContextKill z s
  | .fabricSet z f => Sys2Proof.Machine.execFabricSet z f s
  | .recoveryReset z => Sys2Proof.Machine.execRecoveryReset z s
  | .powerSet z => Sys2Proof.Machine.execPowerSet z s
  | .reply die slot => Sys2Proof.Machine.execReply die slot s
  | .rdmaWrite die slot => Sys2Proof.Machine.execRdmaWrite die slot s
  | .rdmaRead die slot => Sys2Proof.Machine.execRdmaRead die slot s
  | .send die slot => Sys2Proof.Machine.execSend die slot s
  | .serviceEntryAcked port h data => Sys2Proof.Machine.execServiceEntryAcked port h data s
  | .inboundRdmaWrite port h rkey va data => Sys2Proof.Machine.execInboundRdmaWrite port h rkey va data s
  | .inboundRdmaRead port h rkey va len => Sys2Proof.Machine.execInboundRdmaRead port h rkey va len s
  | .qpRetryExhausted port qpn => Sys2Proof.Machine.execQpRetryExhausted port qpn s
  | .serveTimeout port reqId => Sys2Proof.Machine.execServeTimeout port reqId s
  | .partnerTimeout port => Sys2Proof.Machine.execPartnerTimeout port s
  | .anomalyEvaluation die => Sys2Proof.Machine.execAnomalyEvaluation die s
  | .chkFtStart die mask => Sys2Proof.Machine.execChkFtStart die mask s
  | .fieldTestBegin die => Sys2Proof.Machine.execFieldTestBegin die s
  | .ftDrainComplete loom => Sys2Proof.Machine.execFtDrainComplete loom s
  | .ftArrayScanComplete loom found map => Sys2Proof.Machine.execFtArrayScanComplete loom found map s
  | .ftSramMarchComplete loom pass => Sys2Proof.Machine.execFtSramMarchComplete loom pass s
  | .ftOutcome loom verified => Sys2Proof.Machine.execFtOutcome loom verified s
  | .secureSeal gs => Sys2Proof.Machine.execSecureSeal gs s
  | .secureNow => Sys2Proof.Machine.execSecureNow s
  | .cadEventIn => Sys2Proof.Machine.execCadEventIn s
  | .claimWindowExpiry store => Sys2Proof.Machine.execClaimWindowExpiry store s
  | .twinFail => Sys2Proof.Machine.execTwinFail s
  | .cadTwinTakeover => Sys2Proof.Machine.execCadTwinTakeover s
  | .joinSegment port p => Sys2Proof.Machine.execJoinSegment port p s
  | .joinAck port head body => Sys2Proof.Machine.execJoinAck port head body s
  | .fillSegment port head ext payload => Sys2Proof.Machine.execFillSegment port head ext payload s
  | .rollback port p => Sys2Proof.Machine.execRollback port p s
  | .loomWdStage1 loom east => Sys2Proof.Machine.execLoomWdStage1 loom east s
  | .loomWdStage2 loom east => Sys2Proof.Machine.execLoomWdStage2 loom east s
  | .heartbeatTimeout die => Sys2Proof.Machine.execHeartbeatTimeout die s
  | .coreWdTimeout die core => Sys2Proof.Machine.execCoreWdTimeout die core s
  | .dryCoreKick mask => Sys2Proof.Machine.execDryCoreKick mask s
  | .orrisWd mismatch => Sys2Proof.Machine.execOrrisWd mismatch s
  | .linkTxStall port => Sys2Proof.Machine.execLinkTxStall port s
  | .rstN => Sys2Proof.Machine.execRstN s
  | .resetReq => Sys2Proof.Machine.execResetReq s
  | .recoveryPhaseComplete bad => Sys2Proof.Machine.execRecoveryPhaseComplete bad s
  | .recoveryPhaseOverrun => Sys2Proof.Machine.execRecoveryPhaseOverrun s
  | .resetLimitExpiry => Sys2Proof.Machine.execResetLimitExpiry s
  | .dumpNoResponse page off => Sys2Proof.Machine.execDumpNoResponse page off s
  | .dumpCut pages => Sys2Proof.Machine.execDumpCut pages s
  | .powerFail mv => Sys2Proof.Machine.execPowerFail mv s
  | .powerUp mv => Sys2Proof.Machine.execPowerUp mv s
  | .powerUpPhaseComplete bad => Sys2Proof.Machine.execPowerUpPhaseComplete bad s
  | .pullFaultLimit => Sys2Proof.Machine.execPullFaultLimit s
  | .auth a => Sys2Proof.Machine.execAuth a s
  | .debugDurationExpiry => Sys2Proof.Machine.execDebugDurationExpiry s
  | .bypass => Sys2Proof.Machine.execBypass s
  | .idcode => Sys2Proof.Machine.execIdcode s
  | .trstN low => Sys2Proof.Machine.execTrstN low s
  | .pllLockLoss => Sys2Proof.Machine.execPllLockLoss s
  | .pllRelock => Sys2Proof.Machine.execPllRelock s
  | .ppsEdge => Sys2Proof.Machine.execPpsEdge s
  | .slewEnd => Sys2Proof.Machine.execSlewEnd s
  | .discSourceLoss => Sys2Proof.Machine.execDiscSourceLoss s
  | .bntDiscWrite v => Sys2Proof.Machine.execBntDiscWrite v s
  | .thermalGateStep die temp => Sys2Proof.Machine.execThermalGateStep die temp s
  | .powerLimitGate watts level => Sys2Proof.Machine.execPowerLimitGate watts level s
  | .vinLowGate mv level => Sys2Proof.Machine.execVinLowGate mv level s
  | .dieIdleEntry die => Sys2Proof.Machine.execDieIdleEntry die s
  | .dieIdleExit die => Sys2Proof.Machine.execDieIdleExit die s
  | .powerStateReached => Sys2Proof.Machine.execPowerStateReached s
  | .wakeN low => Sys2Proof.Machine.execWakeN low s
  | .comparatorFire k v => Sys2Proof.Machine.execComparatorFire k v s
  | .bntCmpCfgWrite v => Sys2Proof.Machine.execBntCmpCfgWrite v s
  | .bntPpsWrite v => Sys2Proof.Machine.execBntPpsWrite v s
  | .vinOvervoltage mv => Sys2Proof.Machine.execVinOvervoltage mv s
  | .thermalTrip dram die stack temp => Sys2Proof.Machine.execThermalTrip dram die stack temp s
  | .ptr v => Sys2Proof.Machine.execPtr v s
  | .smbData => Sys2Proof.Machine.execSmbData s
  | .smbStatus => Sys2Proof.Machine.execSmbStatus s
  | .alertResponseRead => Sys2Proof.Machine.execAlertResponseRead s
  | .convert die slot => Sys2Proof.Machine.execConvert die slot s
  | .measure die slot => Sys2Proof.Machine.execMeasure die slot s
  | .histRead die slot => Sys2Proof.Machine.execHistRead die slot s
  | .stashPack die slot => Sys2Proof.Machine.execStashPack die slot s
  | .stashUnpack die slot => Sys2Proof.Machine.execStashUnpack die slot s
  | .enable who a quiesce => Sys2Proof.Machine.execEnable who a quiesce s
  | .quiesce who a enable => Sys2Proof.Machine.execQuiesce who a enable s
  | .softReset who a v => Sys2Proof.Machine.execSoftReset who a v s
  | .intPendClear who a mask => Sys2Proof.Machine.execIntPendClear who a mask s
  | .intTest who a mask => Sys2Proof.Machine.execIntTest who a mask s
  | .interruptQueueEntry page => Sys2Proof.Machine.execInterruptQueueEntry page s
  | .errFirstRearm who a => Sys2Proof.Machine.execErrFirstRearm who a s
  | .lock who a => Sys2Proof.Machine.execLock who a s
  | .lowWordRead who n a => Sys2Proof.Machine.execLowWordRead who n a s
  | .highWordRead who a => Sys2Proof.Machine.execHighWordRead who a s
  | .lowWordWrite who a v => Sys2Proof.Machine.execLowWordWrite who a v s
  | .highWordWrite who a v => Sys2Proof.Machine.execHighWordWrite who a v s
  | .registerWrite who n a v => Sys2Proof.Machine.execRegisterWrite who n a v s
  | .objDestroy z h => Sys2Proof.Machine.execObjDestroy z h s
  | .rstNRelease => Sys2Proof.Machine.execRstNRelease s
  | .illegalInstruction w => Sys2Proof.Machine.execIllegalInstruction w s
  | .zjpUnsupported port f datagram => Sys2Proof.Machine.execZjpUnsupported port f datagram s
  | .rebuildLine die stack inner err0 err1 => Sys2Proof.Machine.execRebuildLine die stack inner err0 err1 s
  | .opticalLoopbackEnd pair => Sys2Proof.Machine.execOpticalLoopbackEnd pair s
  | .imageWriteComplete => Sys2Proof.Machine.execImageWriteComplete s
  | .configWriteComplete => Sys2Proof.Machine.execConfigWriteComplete s
  | .serviceLinkDown port => Sys2Proof.Machine.execServiceLinkDown port s
  | .serviceLinkUp up => Sys2Proof.Machine.execServiceLinkUp up s
  | .roceRetryTimeout port qpn acked => Sys2Proof.Machine.execRoceRetryTimeout port qpn acked s
  | .neighbourDiscovery port f addr => Sys2Proof.Machine.execNeighbourDiscovery port f addr s
  | .icmpEcho port f addr data => Sys2Proof.Machine.execIcmpEcho port f addr data s
  | .unsupportedFrame port macsec => Sys2Proof.Machine.execUnsupportedFrame port macsec s
  | .discoverTimer => Sys2Proof.Machine.execDiscoverTimer s
  | .offer port session device header => Sys2Proof.Machine.execOffer port session device header s
  | .pullData port session off data => Sys2Proof.Machine.execPullData port session off data s
  | .pullNak port session => Sys2Proof.Machine.execPullNak port session s
  | .readTimeout off => Sys2Proof.Machine.execReadTimeout off s
  | .handleWindowEnd c => Sys2Proof.Machine.execHandleWindowEnd c s
  | .thrashWindowEnd die => Sys2Proof.Machine.execThrashWindowEnd die s
  | .memberSilent gs member => Sys2Proof.Machine.execMemberSilent gs member s
  | .wvcConfigWrite die dieCfg v => Sys2Proof.Machine.execWvcConfigWrite die dieCfg v s
  | .memcPatrolWrite die v => Sys2Proof.Machine.execMemcPatrolWrite die v s

end Sys2Proof.Machine
end

