-- ==== Sys2Proof/Machine/Tick.lean ====
section
/-! DEFINITION. What passes with one reference cycle (R444, R445, R449). -/

namespace Sys2Proof.Machine

/-- The reference runs: it is stable from phase 2 of R450 on, through DORMANT and STANDBY. (log 2: DESIGN CHOICE) -/
def refRuns (s : State) : Bool := bit (reg s (clkPage + Reg.CLK_STATUS)) 0 && s.sys.power != .off

/-- Gated ARITH cycles of every die's reference cycle, in 1/64 cycle (R449). (log 2: DESIGN CHOICE) -/
def countGated (s : State) : State :=
  modSys (fun y => { y with gates := tmapv y.gates (fun d g => if dieLive s d then { g with cycles := (g.cycles + 21 * gateLevel g) % 2 ^ 70 } else g) }) s

/-- One reference cycle: CLK_REF_COUNT counts it, base-note time advances by 1 + RATE × 2^(−32) ticks, and gated cycles are counted.
(log 2: DESIGN CHOICE) -/
def tick (s : State) : State :=
  if !refRuns s then s else
  countGated (addTime (2 ^ 32 + rateOf s.sys.servo) { s with refCount := (s.refCount + 1) % 2 ^ 64 })

end Sys2Proof.Machine
end

