-- ==== Sys2Proof/Safety.lean ====
section
/-! DEFINITION. What a safe run is, and the frames that statements use. -/

namespace Sys2Proof.Machine

/-- The step from a state goes on: it is neither a fault nor a refusal. -/
def Goes (s : State) : Prop := ∃ t, step s = .next t

/-- A property of states that each step keeps. -/
def Kept (p : State → Prop) : Prop := ∀ s t, p s → step s = .next t → p t

/-- Of the registers only the listed ones may differ. -/
def RegsOnly (l : List Nat) (s t : State) : Prop := ∀ a, a ∉ l → reg t a = reg s a

/-- `t` is `s` but for registers, and of the registers only the listed ones may differ; every byte of memory stays. -/
def OnlyRegs (l : List Nat) (s t : State) : Prop :=
  t = { s with regs := t.regs } ∧ (∀ a, a ∉ l → reg t a = reg s a) ∧ ∀ a, memByte t.mem a = memByte s.mem a

/-- A field of one register is written, and nothing else of the package changes: the register's other bits, every other register and
every byte of memory are as they were. -/
def FieldIs (a hi lo v : Nat) (s t : State) : Prop :=
  OnlyRegs [a] s t ∧ bits (reg t a) hi lo = v ∧ ∀ i, i < 64 → i < lo ∨ hi < i → bit (reg t a) i = bit (reg s a) i

/-- `t` is `s` but for the PCD's state beyond its registers and for registers, of which only the listed ones may differ. -/
def OnlySys (l : List Nat) (s t : State) : Prop :=
  t = { s with regs := t.regs, sys := t.sys } ∧ (∀ a, a ∉ l → reg t a = reg s a) ∧ ∀ a, memByte t.mem a = memByte s.mem a

/-- `t` is `s` but for one link port's state and for registers, of which only the listed ones may differ. -/
def OnlyPort (port : Nat) (l : List Nat) (s t : State) : Prop :=
  t = { s with regs := t.regs, ports := t.ports } ∧ (∀ p, p ≠ port → portOf t p = portOf s p) ∧
    (∀ a, a ∉ l → reg t a = reg s a) ∧ ∀ a, memByte t.mem a = memByte s.mem a

/-- The group that holds a thread issues: its next instruction is of a row, passes checks 1 to 3 of R112, and `e` is what its operands
are read from. -/
def Issues (w : Who) (row : Nat) (s : State) (e : Env) : Prop :=
  fetchFor w s = .ready e ∧ rowOf e.ins.w = row ∧ preludeFault e = none

/-- The registers in which a loom counts what its instructions do to the register file (R69). -/
def issueCounters (loom : Nat) : List Nat :=
  [loomPage loom + Reg.LOOM_ISSUE_CNT, loomPage loom + Reg.LOOM_REUSE_HIT, loomPage loom + Reg.LOOM_BANK_STALL]

/-- An instruction issued for the group of `e` and changed nothing but its own skein, of which `k` is what is left: the three counters
of the loom, its reuse cache, and of the skein its registers, predicates and groups. The issue is counted, and the group that issued
goes on with the next instruction. -/
def IssuedFor (e : Env) (s t : State) (k : Skein) : Prop :=
  t = { s with regs := t.regs, looms := t.looms } ∧
  (∀ a, a ∉ issueCounters e.loom → reg t a = reg s a) ∧
  reg t (loomPage e.loom + Reg.LOOM_ISSUE_CNT) = (reg s (loomPage e.loom + Reg.LOOM_ISSUE_CNT) + 1) % 2 ^ 64 ∧
  (∀ l, l ≠ e.loom → loomOf t l = loomOf s l) ∧
  loomOf t e.loom = { loomOf s e.loom with skeins := (loomOf t e.loom).skeins, reuse := (loomOf t e.loom).reuse } ∧
  (∀ x, x ≠ e.skein → tget? (loomOf t e.loom).skeins x = tget? (loomOf s e.loom).skeins x) ∧
  tget? (loomOf t e.loom).skeins e.skein = some k ∧
  k = { e.k with regs := k.regs, uregs := k.uregs, preds := k.preds, groups := k.groups } ∧
  (k.groups.find? (fun g => g.mask == e.mask)).map (fun g => g.pc) = some (nextPc e) ∧
  ∀ a, memByte t.mem a = memByte s.mem a

/-- The thread registers of a skein hold what they held at issue, but that each thread of `ts` holds the words of `f` in the `n`
registers from `base` on; g255 takes nothing (R75). -/
def ThreadsHold (e : Env) (k : Skein) (ts : List Nat) (base n : Nat) (f : Nat → Nat) : Prop :=
  ∀ t r, r < 256 → rdG k t r =
    if t ∈ ts ∧ base ≤ r ∧ r < base + n ∧ r ≠ 255 then f t / 2 ^ (32 * (r - base)) % 2 ^ 32 else rdG e.k t r

/-- The result of `f` stands in DST: in each taking-part thread's registers, or, where DST is uniform, in the uniform registers with
the lowest such thread's value (R75, R81); every other register and every predicate is as it was. -/
def ResultIs (e : Env) (n : Nat) (f : Nat → Nat) (k : Skein) : Prop :=
  k.preds = e.k.preds ∧
  match (formOf e.ins.w).d with
  | .u _ => k.regs = e.k.regs ∧ ∀ r, rdU k r =
      match lanes e with
      | t :: _ => if fDst e.ins.w ≤ r ∧ r < fDst e.ins.w + n then f t / 2 ^ (32 * (r - fDst e.ins.w)) % 2 ^ 32 else rdU e.k r
      | [] => rdU e.k r
  | _ => k.uregs = e.k.uregs ∧ ThreadsHold e k (lanes e) (fDst e.ins.w) n f

/-- The condition `f` stands in the predicate that DST names, in each taking-part thread; p7 takes nothing; everything else is as it
was (R75, R82). -/
def PredicateIs (e : Env) (f : Nat → Bool) (k : Skein) : Prop :=
  k.regs = e.k.regs ∧ k.uregs = e.k.uregs ∧
  ∀ t p, p < 8 → rdP k t p = if t ∈ lanes e ∧ p = fDst e.ins.w ∧ p ≠ 7 then f t else rdP e.k t p

/-! ## Taking work -/

/-- A DMA channel takes its head entry as `j` (R277, R280): the channel is idle, its context may start work within its limits, an engine is
free, and the entry's ring position reads; `t` is the state in which the entry runs. -/
def DmaTakes (die slot : Nat) (s : State) (j : DmaJob) (t : State) : Prop :=
  ∃ ch q e b s', tget? s.channels (channelKey die slot) = some ch ∧ nextQueue s die ch = some q ∧ freeEngine s die = some e ∧
    ch.running = false ∧ ctxMayStart s ch.ctx = true ∧ topsRoom s ch.ctx die = true ∧
    txFits s ch.ctx die 1 = true ∧ vRead (engAt die (e + 1)) ch.ctx (entryVa q q.cons) 64 s = (.ok b, s') ∧
    j = ⟨die, channelKey die slot, ch.ctx, q.handle, q.cplQ, q.cons, e, bare b, headStep q⟩ ∧ t = dmaTake die slot ch q e s'

/-- A DMA channel takes a conversion entry as `j` for the conversion channel `ch` that it names (R149, R277). -/
def ConvTakes (die slot : Nat) (s : State) (j : DmaJob) (ch : ConvChan) (t : State) : Prop :=
  pageEnabled s (cnvPage die) = true ∧ ∃ s1, DmaTakes die slot s j s1 ∧
    presentHandle (cnvPage die) j.ctx (vChannel j.entry) 6 s1 = (zsOk, t) ∧ ch = convChan t (vChannel j.entry)

/-- The Sillage unit of a die takes the head entry of a queue as `j` for the group `g` (R305, R306). -/
def SilTakes (die slot : Nat) (s : State) (j : SilJob) (g : SilGroup) (t : State) : Prop :=
  ∃ q b s', tget? s.queues (die * 16384 + slot) = some q ∧ q.typ = .collective ∧ occupancy q ≠ 0 ∧ ctxMayStart s q.ctx = true ∧
    txFits s q.ctx die 1 = true ∧ pageEnabled s (silPage die) = true ∧ vRead (engAt die 18) q.ctx (entryVa q q.cons) 64 s = (.ok b, s') ∧ t = consumeHead q.handle s' ∧
    collectiveBad (bare b) = false ∧
    j = ⟨die, q.ctx, q.handle, q.cplQ, q.cons, bare b, hSlot (BitVec.ofNat 64 (bytesAt (bare b) 8 8))⟩ ∧
    judgeHandle t (ctxHandle t q.ctx) (BitVec.ofNat 64 (bytesAt (bare b) 8 8)) 5 = zsOk ∧ silAt t j.group = some g

/-- The service port of a die takes the head entry of a queue as `j` (R366). -/
def SvcTakes (die slot : Nat) (s : State) (j : SvcJob) (t : State) : Prop :=
  ∃ q b s', tget? s.queues (die * 16384 + slot) = some q ∧ q.typ = .service ∧ occupancy q ≠ 0 ∧ ctxMayStart s q.ctx = true ∧
    txFits s q.ctx die 1 = true ∧ pageEnabled s (svcPage die) = true ∧ vRead (engAt die 21) q.ctx (entryVa q q.cons) 64 s = (.ok b, s') ∧
    t = consumeHead q.handle s' ∧ serviceBad (bare b) = false ∧
    (svOp (bare b) = 1 ∨ ((boundTo? t die).isSome = true ∧ svcState t die = 3)) ∧
    j = ⟨die, ⟨q.handle, q.cons, q.ctx, q.cplQ, svOp (bare b), svQpn (bare b), svLen (bare b), svLocal (bare b)⟩, bare b⟩

/-- A packet of an opcode is accepted on a port, well formed and for this package (R327, R333 to R341): `t` is the state in which it
acts, its flits off the ingress buffer. -/
def Delivers (op port : Nat) (p : Packet) (s t : State) : Prop :=
  p.op = op ∧ (linkAccept port p s).1 = true ∧ p.reserved = 0 ∧ p.dest = position (linkAccept port p s).2 ∧
    t = takeOff port p (linkAccept port p s).2

/-- A Sillage packet reaches its group (R321, R329, R333): it passes its check word, its context, its endpoint's handle and role epoch, and
names the group `g` in slot `gs`; `t` is the state in which the group takes its segment. -/
def SegmentFor (port : Nat) (p : Packet) (s : State) (gs : Nat) (g : SilGroup) (t : State) : Prop :=
  ∃ t0, Delivers opSil port p s t0 ∧ pktCheck p.body = p.check ∧ pktStale t0 p = false ∧
    judgeHandle t0 (ctxHandle t0 p.ctxSlot) (pktEp 9 p) 9 = zsOk ∧ (endpointOf t0 (pktEp 9 p)).any (fun ep => ep.epoch != p.roleEpoch) = false ∧
    silTarget t0 p = some (gs, g) ∧ (segOf p.body).gid = gId g ∧ t = bump (silPage p.epHome + Reg.SIL_SEG_RX) 1 t0

/-- A response reaches the request `r` that it answers (R332, R333): it passes its check word and its context is not stale; `t` is the
state in which the request takes it. -/
def Answers (op port : Nat) (p : Packet) (r : FabReq) (s t : State) : Prop :=
  Delivers op port p s t ∧ pktCheck p.body = p.check ∧ pktStale t p = false ∧ fabFind t (bytesAt p.body 0 4) = some r

/-- A frame arrives at a port that is up and supports it (R358): `t` is the state with the frame counted. -/
def FrameOn (port : Nat) (f : Frame) (s t : State) : Prop :=
  portExists s port = true ∧ svcState s port ≠ 0 ∧ t = countRx port 1 s ∧ frameOk t port f = true

/-- A request of the bound partner arrives on a bound port and is served there (R358, R360, R361): `t` is the state in which it meets the
cache, the partner heard. -/
def ZjpHeard (z : ZjpReq) (ident : Nat) (s t : State) : Prop :=
  ∃ s1, FrameOn z.port z.frame s s1 ∧ zjpServed s1 z.port = true ∧ svcState s1 z.port = 3 ∧ boundTo? s1 z.port = some ident ∧
    t = zjpHeard z.port s1

/-- A RoCEv2 frame of the bound partner arrives for a queue pair of a service port (R358): `t` is the state in which it acts, the partner
heard, and a congestion mark answered with a CNP. -/
def RoceOn (port : Nat) (f : Frame) (qpn : Nat) (s t : State) : Prop :=
  ∃ s1, FrameOn port f s s1 ∧ isMgmt port = false ∧ svcState s1 port = 3 ∧
    t = if f.ce then emit (.frame port 9 [(qpOf (zjpHeard port s1) port qpn).elim 0 (fun q => q.peer)] []) (countTx port 1 (zjpHeard port s1))
      else zjpHeard port s1

/-- A request is admitted: it is not one that was answered or is being performed, is of the port's class, its body is of a message, and the
package has not failed, or serves it all the same (R362 to R364, R418); `t` is the state in which it is performed. -/
def ZjpAdmits (z : ZjpReq) (opcode : Nat) (s t : State) : Prop :=
  ∃ ident s1, ZjpHeard z ident s s1 ∧ cacheView (cacheOf s1 z.port) z.reqId = .fresh ∧
    (failedNow s1 = true → failedServes opcode = true) ∧ mgmtClass opcode = isMgmt z.port ∧ bodyFits z opcode = true ∧
    t = zjpTake z opcode ident s1

/-- The admitted request names the live context `c` of the bound partner (R361). -/
def ZjpActs (z : ZjpReq) (opcode c : Nat) (s t : State) : Prop :=
  ZjpAdmits z opcode s t ∧ judgeCtx t ((boundTo? t z.port).getD 0) z.ctx = zsOk ∧ c = hSlot z.ctx ∧
    (ctxAt t c).any (fun x => x.state == .active) = true

end Sys2Proof.Machine
end

