-- ==== Sys2Proof/Certificates/Slice0/Obligations.lean ====
section
/-! DEFINITION. The statements for the provers. -/

open Sys2Proof Sys2Proof.Machine

/-! ## The machine -/

/-- A step takes the command at the front of the queue and runs it on the state with the queue's rest. -/
def Obligations.StepRunsTheFrontCommand : Prop :=
  ∀ (c : Instr) (r : List Instr) (s : State), s.pending = c :: r → step s = exec c { s with pending := r }

/-- With no command waiting one reference cycle passes (R444, R445, R449): where the reference runs, CLK_REF_COUNT counts it, base-note time
advances by 1 + RATE × 2^(−32) ticks, and each live die's gated ARITH cycles grow by 21 × G / 64; where it does not run, nothing
changes. That a step on an empty queue is such a cycle is the model's own choice (log entry 2). -/
def Obligations.EmptyQueuePassesOneReferenceCycle : Prop :=
  ∀ s : State, s.pending = [] →
    (refRuns s = false → step s = .next s) ∧
    (refRuns s = true → ∃ t, step s = .next t ∧
      t = { s with time := t.time, frac := t.frac, refCount := t.refCount, sys := { s.sys with gates := t.sys.gates } } ∧
      t.refCount = (s.refCount + 1) % 2 ^ 64 ∧
      (t.time * 2 ^ 32 + t.frac : Int) = max 0 ((s.time * 2 ^ 32 + s.frac : Int) + 2 ^ 32 + rateOf s.sys.servo) ∧ t.frac < 2 ^ 32 ∧
      ∀ d g, tget? s.sys.gates d = some g → tget? t.sys.gates d =
        some (if dieLive s d then { g with cycles := (g.cycles + 21 * gateLevel g) % 2 ^ 70 } else g))

/-- Every command runs: none stops the block with a fault or a refusal. -/
def Obligations.EveryCommandGoesOn : Prop := ∀ (c : Instr) (s : State), ∃ t, exec c s = .next t

/-- Memory stays in its canonical form: every step from a state whose memory has it leads to a state whose memory has it. -/
def Obligations.EveryStepKeepsMemoryCanonical : Prop := Kept (fun s => s.mem.wf = true)

/-- A step takes exactly the front command off the queue, and what has left the package is never taken back. -/
def Obligations.EveryStepKeepsOrder : Prop :=
  ∀ s t, step s = .next t → t.pending = s.pending.tail ∧ s.outbox <+: t.outbox ∧ s.draws ≤ t.draws

/-- Every queue of commands runs to its end: as many steps as commands wait all go on, and leave none. -/
def Obligations.EveryQueueRunsToItsEnd : Prop :=
  ∀ s : State, ∃ t : State, Sys2Proof.core.run s.pending.length s = .next t ∧ t.pending = [] ∧ s.outbox <+: t.outbox ∧
    (s.mem.wf = true → t.mem.wf = true)

/-- The state before power-up: no die is live, nothing is in memory, no command waits, and base-note time is 0 (R39, R490): every register
reads its reset value. -/
def Obligations.ResetIsBeforePowerUp : Prop :=
  State.reset.pending = [] ∧ State.reset.mem.wf = true ∧ State.reset.time = 0 ∧ State.reset.outbox = [] ∧
  (∀ d, dieLive State.reset d = false) ∧ State.reset.sys.power = .off ∧ (∀ a, memByte State.reset.mem a = memUnlisted) ∧
  (∀ a, reg State.reset a = regReset a) ∧ (∀ c, ctxAt State.reset c = none) ∧ ∀ p, p < 36 → portUp State.reset p = false

/-! ## Memory, handles, counters -/

/-- A number stored in memory reads back, least significant byte first, and every other byte is as it was; in a block that is not checked a line
write writes exactly its bytes (R115, R372). In a checked block it writes its bytes and the block's check word, and nothing else, and
CHK_UPDATED counts it (R374). -/
def Obligations.LineWritesStoreTheirBytes : Prop :=
  (∀ (s : State) (pa n v : Nat), s.mem.wf = true → isChecked s pa = false → v < 256 ^ n →
     memNat (lineWrite pa (toBytes n v) s) pa n = v ∧
     (∀ a, a < pa ∨ pa + n ≤ a → memByte (lineWrite pa (toBytes n v) s).mem a = memByte s.mem a) ∧
     (lineWrite pa (toBytes n v) s).mem.wf = true ∧ lineWrite pa (toBytes n v) s = { s with mem := (lineWrite pa (toBytes n v) s).mem }) ∧
  (∀ (s : State) (pa : Nat) (l : List Byte), s.mem.wf = true → isChecked s pa = true →
     let t := lineWrite pa l s
     (∀ a, (a < pa ∨ pa + l.length ≤ a) → (a < chkWordAddr s pa ∨ chkWordAddr s pa + 4 ≤ a) → memByte t.mem a = memByte s.mem a) ∧
     memNat t (chkWordAddr s pa) 4 = chkLineUpdate (memNat s (chkWordAddr s pa) 4) (memGet s.mem (alignDown pa 128) 128)
       (memGet (memPut s.mem pa l) (alignDown pa 128) 128) (alignDown pa 128 % 4096) % 2 ^ 32 ∧
     reg t (chkPage (homeDie pa) + Reg.CHK_UPDATED) = (reg s (chkPage (homeDie pa) + Reg.CHK_UPDATED) + 1) % 2 ^ 64 ∧
     t = { s with mem := t.mem, regs := t.regs } ∧
     ∀ a, a ≠ chkPage (homeDie pa) + Reg.CHK_UPDATED → reg t a = reg s a)

/-- The handle that creating an object issues is accepted when its owner presents it and invalid to everyone else, for every type, home that is
live or the package, slot in range and generation. Once its object is destroyed it is stale to its last owner, and so is every handle that the
slot issued before; a slot whose generation would become 0xFF_FFFF is retired (R22, R25, R27). -/
def Obligations.HandlesNameOneCreation : Prop :=
  (∀ (s : State) (typ home slot n : Nat) (pkg : Bool) (owner : Word),
     typeRange typ = some (n, pkg) → slot < n → (if pkg then home = 15 else dieLive s home = true) → owner ≠ 0 →
     (tgetD s.slots (slotKey typ home slot) .fresh).retired = false → (tgetD s.slots (slotKey typ home slot) .fresh).gen < 2 ^ 24 →
     let h := mkHandle s typ home slot (tgetD s.slots (slotKey typ home slot) .fresh).gen
     hType h = typ ∧ hHome h = home ∧ hSlot h = slot ∧ judgeHandle (slotCreate typ home slot owner s) owner h typ = zsOk ∧
       ∀ other, other ≠ owner → judgeHandle (slotCreate typ home slot owner s) other h typ = zsHandleInvalid) ∧
  (∀ (s : State) (typ home slot n : Nat) (pkg : Bool) (owner : Word),
     typeRange typ = some (n, pkg) → slot < n → (if pkg then home = 15 else dieLive s home = true) → owner ≠ 0 →
     (tgetD s.slots (slotKey typ home slot) .fresh).gen + 1 < 2 ^ 24 →
     let t := slotDestroy typ home slot (slotCreate typ home slot owner s)
     (∀ gen, gen ≤ (tgetD s.slots (slotKey typ home slot) .fresh).gen →
       judgeHandle t owner (mkHandle s typ home slot gen) typ = zsHandleStale) ∧
     ((tgetD t.slots (slotKey typ home slot) .fresh).retired = true ↔
       (tgetD s.slots (slotKey typ home slot) .fresh).retired = true ∨ (tgetD s.slots (slotKey typ home slot) .fresh).gen + 1 = 0xFFFFFF))

/-- Serial comparison (R30), for every width of 1 to 32 bits. -/
def Obligations.SerialComparisonFollowsDistance : Prop :=
  ∀ a b w : Nat, 1 ≤ w → w ≤ 32 → a < 2 ^ w → b < 2 ^ w →
    let d := ((a : Int) - b) % 2 ^ w
    (serialCmp a b w = .equal ↔ a = b) ∧ (serialCmp a b w = .newer ↔ 0 < d ∧ d < 2 ^ (w - 1)) ∧
    (serialCmp a b w = .stale ↔ d = 2 ^ (w - 1)) ∧ (serialCmp a b w = .older ↔ (2 : Int) ^ (w - 1) < d)

/-- A line of a die lies on the stack, in the group and at the place in it that R246 gives, and no two lines share a place. -/
def Obligations.DramLinesArePlaced : Prop :=
  (∀ l : Nat, lineStack l = (l % 4) ^^^ (l / 256 % 4) ∧ lineStack l < 4 ∧ lineGroup l = l / 4 % 6 ∧ lineInGroup l = l / 4 / 6 ∧
    lineOf (lineStack l) (lineGroup l) (lineInGroup l) = l) ∧
  ∀ st g k : Nat, st < 4 → g < 6 → lineStack (lineOf st g k) = st ∧ lineGroup (lineOf st g k) = g ∧ lineInGroup (lineOf st g k) = k

/-! ## Grelopor: registers and predicates -/

/-- The integer instructions complete in every form: each taking-part thread gets the result of Table R81 in DST, or the predicate of R82;
NOP writes nothing; nothing else of the package changes but the loom's issue counters and its reuse cache (R76, R79 to R83). -/
def Obligations.IntegerInstructionsWriteTheirResults : Prop :=
  ∀ (w : Who) (s : State) (e : Env), let x := e.ins.w
    (Issues w (0x01 * 8) s e → ∃ t k, exec (.nop w) s = .next t ∧ IssuedFor e s t k ∧
      k.regs = e.k.regs ∧ k.uregs = e.k.uregs ∧ k.preds = e.k.preds) ∧
    (Issues w (0x02 * 8) s e → ∃ t k, exec (.ialu w) s = .next t ∧ IssuedFor e s t k ∧ ResultIs e (intWords x) (fun th =>
      ialuResult (fFunc x) (intType x) (bit (fMod x) 2) (src e 0 (intWords x) th) (src e 1 (intWords x) th) (src e 2 (intWords x) th)) k) ∧
    (Issues w (0x03 * 8) s e → ∃ t k, exec (.ishf w) s = .next t ∧ IssuedFor e s t k ∧ ResultIs e (intWords x) (fun th =>
      ishfResult (fFunc x) (intType x) (src e 0 (intWords x) th) (src e 1 1 th) (src e 2 1 th)) k) ∧
    (Issues w (0x04 * 8) s e → ∃ t k, exec (.imul w) s = .next t ∧ IssuedFor e s t k ∧
      ResultIs e (if fFunc x = 3 then 2 else intWords x) (fun th => imulResult (fFunc x) (intType x) (src e 0 (intWords x) th)
        (src e 1 (intWords x) th) (src e 2 (if fFunc x = 3 then 2 else intWords x) th)) k) ∧
    (Issues w (0x05 * 8) s e → ∃ t k, exec (.icmp w) s = .next t ∧ IssuedFor e s t k ∧ PredicateIs e (fun th =>
      icmpCond (fFunc x) (intVal (intType x) (src e 0 (intWords x) th)) (intVal (intType x) (src e 1 (intWords x) th))) k) ∧
    (Issues w (0x06 * 8) s e → ∃ t k, exec (.ibit w) s = .next t ∧ IssuedFor e s t k ∧ ResultIs e (intWords x) (fun th =>
      ibitResult (fFunc x) (intType x) (src e 0 (intWords x) th) (src e 1 (if fFunc x = 4 then intWords x else 1) th) (src e 2 1 th)) k) ∧
    (Issues w (0x07 * 8) s e → ∃ t k, exec (.imov w) s = .next t ∧ IssuedFor e s t k ∧ ResultIs e (intWords x) (fun th =>
      if fFunc x = 0 ∨ srcP e 2 th = true then src e 0 (intWords x) th else src e 1 (intWords x) th) k) ∧
    (Issues w (0x08 * 8) s e → ∃ t k, exec (.plop w) s = .next t ∧ IssuedFor e s t k ∧ PredicateIs e (fun th =>
      plopBit (bits (fFunc x) 1 0 * 64 + bits (fMod x) 5 0) (srcP e 0 th) (srcP e 1 th) (srcP e 2 th)) k) ∧
    (Issues w (0x09 * 8) s e → ∃ t k, exec (.vote w) s = .next t ∧ IssuedFor e s t k ∧
      (fFunc x = 2 → ResultIs e 1 (fun _ => listMask ((lanes e).filter (srcP e 0))) k) ∧
      (fFunc x = 0 → PredicateIs e (fun _ => (lanes e).any (srcP e 0)) k) ∧
      (fFunc x = 1 → PredicateIs e (fun _ => (lanes e).all (srcP e 0)) k)) ∧
    (Issues w (0x0A * 8) s e → ∃ t k, exec (.lxch w) s = .next t ∧ IssuedFor e s t k ∧ ResultIs e (intWords x) (fun th =>
      let l := lxchLane (fFunc x) (bits (fMod x) 5 3) th (src e 1 1 th)
      src e 0 (intWords x) (if l ∈ lanes e then l else th)) k)

/-- What the integer functions compute, as Table R81 gives it: sums, differences and products modulo the width, their saturated forms, the
logic operations bit by bit, and shifts by the amount modulo the width. `ty` is 0 U32, 1 S32, 2 U64, 3 S64. -/
def Obligations.IntegerFunctionsFollowTheTable : Prop :=
  ∀ ty a b c : Nat, ty < 4 → a < 2 ^ intWidth ty → b < 2 ^ intWidth ty → c < 2 ^ intWidth ty →
    let w := intWidth ty
    ialuResult 0 ty false a b c = (a + b) % 2 ^ w ∧ ialuResult 1 ty false a b c = (a + 2 ^ w - b) % 2 ^ w ∧
    ialuResult 2 ty false a b c = (a + b + c) % 2 ^ w ∧
    intVal ty (ialuResult 0 ty true a b c) = max (intMin ty) (min (intMax ty) (intVal ty a + intVal ty b)) ∧
    intVal ty (ialuResult 1 ty true a b c) = max (intMin ty) (min (intMax ty) (intVal ty a - intVal ty b)) ∧
    intVal ty (ialuResult 3 ty false a b c) = min (intVal ty a) (intVal ty b) ∧
    intVal ty (ialuResult 4 ty false a b c) = max (intVal ty a) (intVal ty b) ∧
    (∀ i, i < w → (ialuResult 8 ty false a b c).testBit i = (a.testBit i && b.testBit i) ∧
      (ialuResult 9 ty false a b c).testBit i = (a.testBit i || b.testBit i) ∧
      (ialuResult 10 ty false a b c).testBit i = (a.testBit i != b.testBit i) ∧
      (ialuResult 11 ty false a b c).testBit i = (a.testBit i && !b.testBit i) ∧
      (ialuResult 12 ty false a b c).testBit i = !a.testBit i) ∧
    imulResult 0 ty a b c = a * b % 2 ^ w ∧ imulResult 2 ty a b c = (a * b + c) % 2 ^ w ∧
    ishfResult 0 ty a b c = a * 2 ^ (b % w) % 2 ^ w ∧ ishfResult 1 ty a b c = a / 2 ^ (b % w) ∧
    sext w (ishfResult 2 ty a b c) = sext w a / 2 ^ (b % w)

/-- The floating-point instructions complete in every form: each taking-part thread gets its result in DST, FCMP its predicate; AMAX writes
the uniform register, with C itself where no thread takes part, but under the guard that is never true. FCVT with SATF needs the SATURATE capability, checked where a thread takes part
(R84 to R92, R112). -/
def Obligations.FloatInstructionsWriteTheirResults : Prop :=
  ∀ (w : Who) (s : State) (e : Env), let x := e.ins.w; let fmt := fpFmt e.ins.w
    let one (op : Val → Val → Val → Val) (th : Nat) : Nat :=
      fpAll fmt (fpOne fmt (fpRnd (bits (fMod x) 4 2)) (bit (fMod x) 5) op) (srcF e 0 fmt th) (srcF e 1 fmt th) (srcF e 2 fmt th)
    (Issues w (0x10 * 8) s e → ∃ t k, exec (.fadd w) s = .next t ∧ IssuedFor e s t k ∧
      ResultIs e 1 (one (fun a b _ => valAdd (fpRnd (bits (fMod x) 4 2)) a (if fFunc x = 0 then b else b.neg))) k) ∧
    (Issues w (0x11 * 8) s e → ∃ t k, exec (.fmul w) s = .next t ∧ IssuedFor e s t k ∧ ResultIs e 1 (one (fun a b _ => valMul a b)) k) ∧
    (Issues w (0x12 * 8) s e → ∃ t k, exec (.ffma w) s = .next t ∧ IssuedFor e s t k ∧
      (fFunc x = 0 → ResultIs e 1 (one (fun a b c => valAdd (fpRnd (bits (fMod x) 4 2)) (valMul a b) c)) k) ∧
      (fFunc x = 1 → ResultIs e 1 (one (fun a b c => valAdd (fpRnd (bits (fMod x) 4 2)) (valMul a b) c.neg)) k) ∧
      (fFunc x = 2 → ResultIs e 1 (one (fun a b c => valAdd (fpRnd (bits (fMod x) 4 2)) (valMul a b).neg c)) k)) ∧
    (Issues w (0x13 * 8) s e → ∃ t k, exec (.fmnmx w) s = .next t ∧ IssuedFor e s t k ∧
      (fFunc x = 0 → ResultIs e 1 (one (fun a b _ => valMin a b)) k) ∧ (fFunc x = 1 → ResultIs e 1 (one (fun a b _ => valMax a b)) k) ∧
      (2 ≤ fFunc x → ResultIs e 1 (fun th => fpAll fmt (fun a _ _ => fpSignOp (fFunc x) fmt a) (srcF e 0 fmt th) 0 0) k)) ∧
    (Issues w (0x14 * 8) s e → ∃ t k, exec (.fcmp w) s = .next t ∧ IssuedFor e s t k ∧ PredicateIs e (fun th =>
      fcmpCond (fFunc x) (decodeElem fmt (ftzCode fmt (bit (fMod x) 5) (srcF e 0 fmt th % 2 ^ fmtWidth fmt)))
        (decodeElem fmt (ftzCode fmt (bit (fMod x) 5) (srcF e 1 fmt th % 2 ^ fmtWidth fmt)))) k) ∧
    (Issues w (0x15 * 8) s e → (bit (fMod x) 0 = true → ctxCap s e.k.ctx 0 = true ∨ lanes e = []) →
      ∃ t k, exec (.fcvt w) s = .next t ∧ IssuedFor e s t k ∧ ResultIs e 1 (fun th =>
        fcvtResult (bits (fFunc x) 5 2) (bits (fFunc x) 1 0 * 4 + bits (fMod x) 6 5) (fcvtRnd (bits (fMod x) 4 2) (src e 2 1 th))
          (bit (fMod x) 0) (src e 0 1 th) (src e 1 1 th)) k) ∧
    (Issues w (0x15 * 8) s e → bit (fMod x) 0 = true → ctxCap s e.k.ctx 0 = false → ∀ th l, lanes e = th :: l →
      exec (.fcvt w) s = .next (insFault e zsDenied 0x33 0 th (countIssue e s))) ∧
    (Issues w (0x16 * 8) s e → ∃ t k, exec (.amax w) s = .next t ∧ IssuedFor e s t k ∧ k.preds = e.k.preds ∧ k.regs = e.k.regs ∧
      ∀ r, rdU k r = if r = fDst x ∧ neverGuard x = false
        then amaxResult fmt (srcF e 2 0 ((lanes e).headD (lowThread e))) ((lanes e).map (srcF e 0 fmt)) % 2 ^ 32 else rdU e.k r) ∧
    (Issues w (0x18 * 8) s e → ∃ t k, exec (.sfu w) s = .next t ∧ IssuedFor e s t k ∧
      ResultIs e 1 (fun th => sfuResult (fFunc x) (srcF e 0 0 th)) k)

/-- The skein matrix instructions, TOPK and the register forms of CHK complete. CHK.CRC and CHK.CMB give each taking-part thread its result in
DST. With all 32 threads taking part, or under a context whose mode lets the missing ones read zero, SKM.MAC, SKM.XPOSE, SKM.SUM, SKM.MAX and
TOPK give each thread that takes part its share of the result; otherwise each of the five faults its skein with ZS_DIVERGENT and writes no
result (R58, R59, R102 to R106, R110). -/
def Obligations.MatrixAndCheckInstructionsWriteTheirResults : Prop :=
  ∀ (w : Who) (s : State) (e : Env), let x := e.ins.w
    let full := (lanes e).length = 32 ∨ maskedZero s e.k.ctx = true
    (Issues w (0x30 * 8) s e → full → ∃ t k, exec (.skmMac w) s = .next t ∧ IssuedFor e s t k ∧
      ResultIs e 8 (fun th => pack32 ((List.range 8).map (fun j => macElem e (th / 2) (th % 2 * 8 + j)))) k) ∧
    (Issues w (0x30 * 8 + 1) s e → full → ∃ t k, exec (.skmXpose w) s = .next t ∧ IssuedFor e s t k ∧
      ResultIs e 4 (fun th => (List.range 8).foldr (fun j a =>
        fragCode e (fSrc x 0) 16 1 (2 * (th % 2 * 8 + j) + th / 2 / 8) (th / 2 % 8) + 2 ^ 16 * a) 0) k) ∧
    (Issues w (0x30 * 8 + 2) s e → full → ∃ t k, exec (.skmSum w) s = .next t ∧ IssuedFor e s t k ∧
      ResultIs e 1 (fun _ => toFp32 (exactSum ((List.range 32).map (skmScalar e)))) k) ∧
    (Issues w (0x30 * 8 + 3) s e → full → ∃ t k, exec (.skmMax w) s = .next t ∧ IssuedFor e s t k ∧
      ResultIs e 1 (fun _ => toFp32 ((List.range 31).foldl (fun m th => valMaxN m (skmScalar e (th + 1))) (skmScalar e 0))) k) ∧
    (Issues w (0x31 * 8) s e → full → ∃ t k, exec (.topk w) s = .next t ∧ IssuedFor e s t k ∧
      ResultIs e 8 (fun th => pack32 ((topkRow e (th / 2)).map (fun p => if th % 2 = 0 then p.1 else p.2))) k) ∧
    (Issues w (0x35 * 8) s e → ∃ t k, exec (.chkCrc w) s = .next t ∧ IssuedFor e s t k ∧
      ResultIs e 1 (fun th => crcBits 32 (src e 0 1 th) (src e 1 1 th)) k) ∧
    (Issues w (0x35 * 8 + 1) s e → ∃ t k, exec (.chkCmb w) s = .next t ∧ IssuedFor e s t k ∧
      ResultIs e 1 (fun th => crcCombine (src e 0 1 th) (src e 1 1 th) (src e 2 1 th)) k) ∧
    (¬full → ∀ p ∈ [(0x30 * 8, Instr.skmMac w), (0x30 * 8 + 1, .skmXpose w), (0x30 * 8 + 2, .skmSum w), (0x30 * 8 + 3, .skmMax w),
        (0x31 * 8, .topk w)], Issues w p.1 s e →
      exec p.2 s = .next (loomFault e.loom e.skein [e.skein] zsDivergent 0x01 2 e.ins.pc 0 e.mask (lowThread e) (countIssue e s)))

/-! ## Grelopor: memory, control, barriers -/

/-- The loads, stores, atomics and reductions complete: where no thread's access fails, nothing that LD or ATOM reads is poisoned, the
transactions fit and no failure is recorded against a releasing thread, LD and ATOM read, ST, ATOM and RED write, thread by thread in ascending
order, each counts its distinct lines as transactions, and the accesses through link windows leave as packets. A failure recorded against a
releasing thread of ST, ATOM or RED is raised instead and consumed (R93 to R97, R112, R118, R124 to R126, R240, R288). FENCE performs earlier
reductions where it releases or has fabric scope, and at fabric scope waits; FENCE.I discards what was fetched; neither has an effect where no
thread takes part (R76, R98, R125). -/
def Obligations.MemoryInstructionsComplete : Prop :=
  ∀ (w : Who) (s : State) (e : Env), let x := e.ins.w
    let at' (kind : Kind) : List (Nat × Loc) := (lanes e).map (fun th => (th, locate e kind th))
    let locs (kind : Kind) : List Loc := (at' kind).map (fun p => p.2)
    let c := countIssue e s
    let lcv := nextLcvId c e.loom e.skein
    let read := touchLines e (locs .read) false lcv c
    let write := touchLines e (locs .write) true lcv (releaseEarlier e c)
    let atomic := touchLines e (locs .atomic) true lcv (releaseEarlier e c)
    let reds (held : Nat) (s1 : State) : State :=
      let r := redLanes e lcv held (at' .atomic) s1
      redSend e lcv (at' .atomic) (memStart e lcv r.1 (linkCount (at' .atomic)) (txCount (locs .atomic)) 0 [] r.2)
    (Issues w (0x20 * 8) s e → memMay .read e = true → firstFail (at' .read) = none → poisonedThread read.2 (at' .read) = none →
      exec (.ld w) s = .next (loadSend e lcv (at' .read) (memStart e lcv read.1 (linkCount (at' .read)) (txCount (locs .read)) 1
        (regWrites (fDst x) (ldWords (fFunc x / 8)) (loadLanes e (at' .read) read.2).1) (loadLanes e (at' .read) read.2).2))) ∧
    (Issues w (0x21 * 8) s e → memMay .write e = true → firstFail (at' .write) = none → releaseFail e = none →
      exec (.st w) s = .next (storeSend e lcv (at' .write) (memStart e lcv write.1 (linkCount (at' .write)) (txCount (locs .write)) 0 []
        (storeLanes e (at' .write) write.2)))) ∧
    (Issues w (0x22 * 8) s e → memMay .atomic e = true → firstFail (at' .atomic) = none → releaseFail e = none →
      poisonedThread atomic.2 (at' .atomic) = none →
      exec (.atom w) s = .next (atomSend e lcv (at' .atomic) (memStart e lcv atomic.1 (linkCount (at' .atomic)) (txCount (locs .atomic)) 1
        (regWrites (fDst x) (if atomBytes (fFunc x / 8) = 8 then 2 else 1) (atomLanes e (at' .atomic) atomic.2).1)
          (atomLanes e (at' .atomic) atomic.2).2))) ∧
    (Issues w (0x23 * 8) s e → memMay .atomic e = true → firstFail (at' .atomic) = none → releaseFail e = none →
      exec (.red w) s = .next (if fFunc x % 8 < 3 then reds 0 (releaseEarlier e c) else reds atomic.1 atomic.2)) ∧
    (∀ f, releaseFail e = some f →
      let raised := insFault e f.code 0x11 0 f.thread
        (modSkein e.loom e.skein (fun k => { k with putFails := removeFirst k.putFails (fun x => x == f) }) c)
      (Issues w (0x21 * 8) s e → memMay .write e = true → firstFail (at' .write) = none → exec (.st w) s = .next raised) ∧
      (Issues w (0x22 * 8) s e → memMay .atomic e = true → firstFail (at' .atomic) = none → exec (.atom w) s = .next raised) ∧
      (Issues w (0x23 * 8) s e → memMay .atomic e = true → firstFail (at' .atomic) = none → exec (.red w) s = .next raised)) ∧
    (lanes e ≠ [] →
      (Issues w (0x24 * 8) s e → mScope x = 5 → exec (.fence w) s = .next (finish e (modGroup e.mask (fun g => { g with wait := .lcv lcv }))
        (startLcv e (.fence (listMask (lanes e))) 0 [] [] (settleSkein (e.loom / 32) e.loom e.skein c)))) ∧
      (Issues w (0x24 * 8) s e → mScope x ≠ 5 → exec (.fence w) s = .next (finish e (fun k => k) (startLcv e .ready 0 [] []
        (if mRelease x = true then settleSkein (e.loom / 32) e.loom e.skein c else c)))) ∧
      (Issues w (0x24 * 8 + 1) s e → exec (.fenceI w) s =
        .next (finish e (fun k => { k with fetched := [] }) (startLcv e .ready 0 [] [] c)))) ∧
    (lanes e = [] → (Issues w (0x24 * 8) s e → exec (.fence w) s = .next (finish e id c)) ∧
      (Issues w (0x24 * 8 + 1) s e → exec (.fenceI w) s = .next (finish e id c)))

/-- Where a memory instruction meets a failure: the first failing thread in ascending order faults its skein, with the code and SUBCODE of
R129, R65 or R95, and nothing is read or written (R112). -/
def Obligations.FailingAccessFaultsTheSkein : Prop :=
  ∀ (w : Who) (s : State) (e : Env) (th c u : Nat),
    (Issues w (0x20 * 8) s e → firstFail ((lanes e).map (fun t => (t, locate e .read t))) = some (th, c, u) →
      exec (.ld w) s = .next (xlFault e c u (memAddr e th) th (countIssue e s))) ∧
    (Issues w (0x21 * 8) s e → firstFail ((lanes e).map (fun t => (t, locate e .write t))) = some (th, c, u) →
      exec (.st w) s = .next (xlFault e c u (memAddr e th) th (countIssue e s))) ∧
    (Issues w (0x22 * 8) s e → firstFail ((lanes e).map (fun t => (t, locate e .atomic t))) = some (th, c, u) →
      exec (.atom w) s = .next (xlFault e c u (memAddr e th) th (countIssue e s))) ∧
    (Issues w (0x23 * 8) s e → firstFail ((lanes e).map (fun t => (t, locate e .atomic t))) = some (th, c, u) →
      exec (.red w) s = .next (xlFault e c u (memAddr e th) th (countIssue e s)))

/-- A store to loom scratch and DRAM changes memory and scratch in the bytes that its threads store to and nowhere else: the bytes at the
address that `locate` gives each taking-part thread, and the check words of checked blocks; scratch of other looms, and every byte of
memory where the store touches scratch alone, is as it was; `s1` is the state in which the lines stand ready (R65, R94, R374). A load changes
no byte of memory and no byte of scratch, and reads what stands there: the little-endian number of its bytes, extended as its width code
says (R94). -/
def Obligations.LoadsAndStoresTouchTheirBytes : Prop :=
  (∀ (e : Env) (s1 : State) (ls : List (Nat × Loc)), s1.mem.wf = true → (∀ p ∈ ls, (∃ o, p.2 = .scratch o) ∨ ∃ pa st, p.2 = .dram pa st) →
     let n := ldBytes (fFunc e.ins.w / 8)
     let t := storeLanes e ls s1
     (∀ a, (∀ p ∈ ls, ∀ pa st, p.2 = .dram pa st → (a < pa ∨ pa + n ≤ a) ∧
         (isChecked s1 pa = true → a < chkWordAddr s1 pa ∨ chkWordAddr s1 pa + 4 ≤ a)) → memByte t.mem a = memByte s1.mem a) ∧
     (∀ a, (∀ p ∈ ls, ∀ o, p.2 = .scratch o → a < o ∨ o + n ≤ a) →
       tgetD (loomOf t e.loom).scratch a 0 = tgetD (loomOf s1 e.loom).scratch a 0) ∧
     (∀ l, l ≠ e.loom → loomOf t l = loomOf s1 l) ∧
     (∀ p ls', ls = ls' ++ [p] → ∀ o, p.2 = .scratch o → scratchGet t e.loom o n = storeData e p.1) ∧
     (∀ p ls', ls = ls' ++ [p] → ∀ pa st, p.2 = .dram pa st → isChecked s1 pa = false → memGet t.mem pa n = storeData e p.1) ∧
     t = { s1 with mem := t.mem, looms := t.looms, regs := t.regs }) ∧
  (∀ (e : Env) (s1 : State) (ls : List (Nat × Loc)), (∀ p ∈ ls, (∃ o, p.2 = .scratch o) ∨ ∃ pa st, p.2 = .dram pa st) →
     (loadLanes e ls s1).2 = s1 ∧
     (loadLanes e ls s1).1 = ls.map (fun p => (p.1, loadExtend (fFunc e.ins.w / 8) (match p.2 with
       | .scratch o => scratchNat s1 e.loom o (ldBytes (fFunc e.ins.w / 8))
       | .dram pa _ => memNat s1 pa (ldBytes (fFunc e.ins.w / 8))
       | _ => 0))))

/-- The control instructions complete: BRA and CALL go to the next word's address plus eight times the offset, BRX and RET to operand A
where its eight bytes are aligned, each distinct target making one group and the threads not taken another; CALL leaves the return
address; JOIN waits with its expected mask; EXIT ends the threads whose guard is true; YIELD gives way (R54, R55, R57, R62, R99, R100). -/
def Obligations.ControlInstructionsComplete : Prop :=
  ∀ (w : Who) (s : State) (e : Env), let c := countIssue e s
    let back := wrap 64 ((e.ins.pc : Int) + 8 + 8 * sext 19 (bits e.ins.w 18 0))
    let byA := (lanes e).map (fun th => (th, src e 0 2 th))
    (Issues w (0x28 * 8) s e → exec (.bra w) s =
      .next (modSkein e.loom e.skein (branchTo e ((lanes e).map (fun th => (th, back)))) (operandRead e c))) ∧
    (Issues w (0x2A * 8) s e → exec (.call w) s = .next (modSkein e.loom e.skein (fun k => branchTo e ((lanes e).map (fun th => (th, back)))
      (wrDst e.ins.w 2 ((lanes e).map (fun th => (th, nextPc e))) k)) (operandRead e c))) ∧
    (Issues w (0x29 * 8) s e → (∀ th ∈ lanes e, src e 0 2 th % 8 = 0) →
      exec (.brx w) s = .next (modSkein e.loom e.skein (branchTo e byA) (operandRead e c))) ∧
    (Issues w (0x2B * 8) s e → (∀ th ∈ lanes e, src e 0 2 th % 8 = 0) →
      exec (.ret w) s = .next (modSkein e.loom e.skein (branchTo e byA) (operandRead e c))) ∧
    (Issues w (0x2C * 8) s e → exec (.join w) s = .next (modSkein e.loom e.skein joinCheck
      (finish e (modGroup e.mask (fun g => { g with wait := .join e.ins.pc (src e 0 1 (lowThread e)) false })) c))) ∧
    (Issues w (0x2D * 8) s e → exec (.exit w) s = .next (exitThreads e.loom e.skein (listMask (lanes e)) (finish e id c))) ∧
    (Issues w (0x2E * 8) s e → exec (.yield w) s = .next (finish e (modGroup e.mask (fun g => { g with wait := .yield })) c))

/-- A branch keeps every thread of the issuing group, each in one group: those that take it at their target, the others at the next
instruction; the other groups of the skein stay (R54, R99). -/
def Obligations.BranchesSplitTheGroup : Prop :=
  ∀ (e : Env) (k : Skein) (targets : List (Nat × Nat)), e.mask < 2 ^ 32 → (targets.map (fun p => p.1)).Nodup →
    (∀ p ∈ targets, bit e.mask p.1 = true) →
    let k' := branchTo e targets k
    (∀ g, g ∈ k'.groups → (g ∈ k.groups ∧ g.mask ≠ e.mask) ∨ g.wait = .none) ∧
    (∀ p ∈ targets, ∃ g ∈ k'.groups, bit g.mask p.1 = true ∧ g.pc = p.2 ∧ g.wait = .none) ∧
    (∀ th, th < 32 → bit e.mask th = true → (∀ p ∈ targets, p.1 ≠ th) →
      ∃ g ∈ k'.groups, bit g.mask th = true ∧ g.pc = nextPc e ∧ g.wait = .none) ∧
    (∀ g ∈ k.groups, g.mask ≠ e.mask → g ∈ k'.groups) ∧
    k' = { k with groups := k'.groups }

/-- BAR.INIT sets N and E to its count, A to 0 and the enrolled skeins; BAR.SYNC and BAR.ARV add one to A for each thread of the group, SYNC
then waits (R60, R101). A BAR.INIT of a barrier at which threads wait halts the whole barrier domain with ZS_BARRIER_SPLIT (R64, R68). Where A has reached E, every group that waits at the barrier is released and no other group changes, A returns to 0
and E to N; elsewhere nothing changes (R61). -/
def Obligations.BarrierInstructionsComplete : Prop :=
  (∀ (w : Who) (s : State) (e : Env) (b : Nat), barNumber e = some b → let c := countIssue e s
     let fresh : Barrier := ⟨src e 1 1 (lowThread e), src e 1 1 (lowThread e), 0, src e 2 2 (lowThread e) &&& enrolMask e, []⟩
     (Issues w (0x2F * 8) s e → src e 1 1 (lowThread e) ≤ (if loomSplit s e.loom then 1024 else 2048) → barWaiting c e.loom b = false →
       exec (.barInit w) s = .next (finish e id (modLoom e.loom (fun l => { l with barriers := tset l.barriers b fresh }) c))) ∧
     (Issues w (0x2F * 8) s e → src e 1 1 (lowThread e) ≤ (if loomSplit s e.loom then 1024 else 2048) → barWaiting c e.loom b = true →
       let east := onEast e.s e.loom e.skein; let bars := domainBarriers c e.loom east
       exec (.barInit w) s = .next (loomFault e.loom e.skein (((domainSkeins c e.loom east).filter (fun x => !x.2.groups.isEmpty)).map (fun x => x.1))
         zsBarrierSplit 0x03 3 e.ins.pc 0 e.mask (lowThread e)
         (setReg (loomPage e.loom + Reg.LOOM_BAR_FAULT) (bars.headD 0 + bars.length * 16) c))) ∧
     (Issues w (0x2F * 8 + 1) s e → exec (.barSync w) s = .next (barCheck e.loom b (barArrive e b
       (finish e (modGroup e.mask (fun g => { g with wait := .bar b e.ins.pc })) c)))) ∧
     (Issues w (0x2F * 8 + 2) s e → exec (.barArv w) s = .next (barCheck e.loom b (barArrive e b (finish e id c))))) ∧
  (∀ (s : State) (loom b : Nat) (r : Barrier), tget? (loomOf s loom).barriers b = some r →
     (r.a ≠ r.e → barCheck loom b s = s) ∧
     (r.a = r.e → tget? (loomOf (barCheck loom b s) loom).barriers b = some { r with a := 0, e := r.n, arrived := [] } ∧
       (∀ x, x ≠ b → tget? (loomOf (barCheck loom b s) loom).barriers x = tget? (loomOf s loom).barriers x) ∧
       (∀ x k, tget? (loomOf s loom).skeins x = some k → ∃ k', tget? (loomOf (barCheck loom b s) loom).skeins x = some k' ∧
         k' = { k with groups := k'.groups } ∧
         k'.groups = k.groups.map (fun g => match g.wait with | .bar y _ => if y = b then { g with wait := .none } else g | _ => g)) ∧
       barCheck loom b s = { s with looms := (barCheck loom b s).looms } ∧
       ∀ l, l ≠ loom → loomOf (barCheck loom b s) l = loomOf s l))

/-! ## Grelopor: tiles, queues, draws -/

/-- TILE.SUB at an aligned offset of the skein's scratch copies the 64 bytes that stand there into the half's queue with the context's next
ticket and returns the ticket; TILE.WAIT holds its group while an op with a ticket up to the operand is pending, and TILE.TEST answers
0x100; once none is, both return, and take, the status. A ticket that was not issued is ZS_HANDLE_INVALID (R107, R175). -/
def Obligations.TileInstructionsComplete : Prop :=
  ∀ (w : Who) (s : State) (e : Env), let c := countIssue e s
    let issued := (ctxAt c e.k.ctx).elim 0 (fun x => x.ticket)
    let tk := src e 0 2 (lowThread e)
    let east := envEast e
    let taken := takeTileStatus e.loom east e.k.ctx tk c
    (Issues w (0x32 * 8) s e → ∀ a, scratch64 e (src e 0 1 (lowThread e)) = .ok a →
      exec (.tileSub w) s = .next (uniStart e (.submit (issued + 1)) true 2 (issued + 1) (modHalf e.loom east (fun h => { h with subs := h.subs ++
          [⟨issued + 1, e.k.ctx, scratchGet c e.loom a 64, ctxStep c e.k.ctx, e.skein, nextLcvId c e.loom e.skein⟩] })
        (modCtx e.k.ctx (fun x => { x with ticket := issued + 1 }) (settleSkein (e.loom / 32) e.loom e.skein c))))) ∧
    (Issues w (0x32 * 8 + 1) s e → tk ≤ issued → tilePending c e.loom east e.k.ctx tk = true →
      exec (.tileWait w) s = .next (uniStart e (.tile tk) true 1 0 c)) ∧
    (Issues w (0x32 * 8 + 1) s e → tk ≤ issued → tilePending c e.loom east e.k.ctx tk = false →
      exec (.tileWait w) s = .next (uniStart e .ready false 1 taken.1 taken.2)) ∧
    (Issues w (0x32 * 8 + 2) s e → tk ≤ issued → tilePending c e.loom east e.k.ctx tk = true →
      exec (.tileTest w) s = .next (uniStart e .ready false 1 0x100 c)) ∧
    (Issues w (0x32 * 8 + 2) s e → tk ≤ issued → tilePending c e.loom east e.k.ctx tk = false →
      exec (.tileTest w) s = .next (uniStart e .ready false 1 taken.1 taken.2)) ∧
    (issued < tk → (Issues w (0x32 * 8 + 1) s e → exec (.tileWait w) s = .next (uniStart e .ready false 1 zsHandleInvalid (countInvalid e.k.ctx c))) ∧
      (Issues w (0x32 * 8 + 2) s e → exec (.tileTest w) s = .next (uniStart e .ready false 1 zsHandleInvalid (countInvalid e.k.ctx c))))

/-- QUE.PUSH writes the 64 bytes of scratch as the queue's next entry and submits it, which raises the producer index; QUE.POP and QUE.WAIT
take the oldest message into scratch; with none, POP answers ZS_QUEUE_EMPTY and WAIT waits; a full queue answers ZS_QUEUE_FULL; QUE.SEND hands
the message to an endpoint of the package and answers its status where ACK is set, ZS_OK where it is not; an endpoint without a queue answers
ZS_DENIED; through an outbound window the message leaves as a MSG packet. Each of the four answers the code of a handle that is refused, and
does nothing more than the judging of the handle does (R108, R276, R284, R290). -/
def Obligations.QueueInstructionsComplete : Prop :=
  ∀ (w : Who) (s : State) (e : Env), let c := countIssue e s
    let c' := settleSkein (e.loom / 32) e.loom e.skein c
    let h : Word := BitVec.ofNat 64 (src e 1 2 (lowThread e))
    let off := src e 0 1 (lowThread e)
    let x := src e 2 1 (lowThread e)
    let push := queHandle e h (fun t => t != .msg) c'
    let take := queHandle e h (fun t => t == .msg) c
    let here := presentHandle (ctxPage (e.loom / 32)) e.k.ctx h 9 c'
    let away := presentHandle (rvlPage (e.loom / 32)) e.k.ctx h 4 c'
    (∀ a, scratch64 e off = .ok a →
      (Issues w (0x33 * 8) s e → push.1 = zsOk → ∀ q, queueOf push.2 h = some q →
        (q.depth ≤ occupancy q → exec (.quePush w) s = .next (uniStart e .ready false 1 zsQueueFull push.2)) ∧
        (occupancy q < q.depth → let wr := vWrite (e.loom / 32) e.k.ctx (entryVa q q.prod) (clean (scratchGet push.2 e.loom a 64)) push.2
          wr.1 = none → exec (.quePush w) s = .next (uniStart e .ready false 1 zsOk
            (modQueue h (submitTo ((q.prod + 1) % 2 ^ 32) (ctxStep wr.2 e.k.ctx)) wr.2)))) ∧
      (take.1 = zsOk → (queueOf take.2 h).all (fun q => occupancy q == 0) = true →
        (Issues w (0x33 * 8 + 1) s e → exec (.quePop w) s = .next (uniStart e .ready false 1 zsQueueEmpty take.2)) ∧
        (Issues w (0x33 * 8 + 2) s e → exec (.queWait w) s = .next (uniStart e (.queue h a) true 1 zsOk take.2))) ∧
      (take.1 = zsOk → (queueOf take.2 h).all (fun q => occupancy q == 0) = false → let got := popInto e.loom e.k.ctx h a take.2
        got.1 = .ok () →
        (Issues w (0x33 * 8 + 1) s e → exec (.quePop w) s = .next (uniStart e .ready false 1 zsOk got.2)) ∧
        (Issues w (0x33 * 8 + 2) s e → exec (.queWait w) s = .next (uniStart e .ready false 1 zsOk got.2))) ∧
      (Issues w (0x33 * 8 + 3) s e → hType h ≠ 4 → here.1 = zsOk →
        ((endpointOf here.2 h).all (fun ep => ep.queue == 0) = true → exec (.queSend w) s = .next (uniStart e .ready false 1 zsDenied here.2)) ∧
        ((endpointOf here.2 h).all (fun ep => ep.queue == 0) = false →
          let j := judgeMessage h (x % 65536) (position here.2) e.k.ctx (bit x 16) (scratchGet here.2 e.loom a 64) here.2
          exec (.queSend w) s = .next (uniStart e .ready false 1 (if bit x 16 then j.1 else zsOk) j.2))) ∧
      (Issues w (0x33 * 8 + 3) s e → hType h = 4 → away.1 = zsOk →
        exec (.queSend w) s = .next (sendRemote e h (x % 65536) (bit x 16) (scratchGet away.2 e.loom a 64) away.2))) ∧
    (Issues w (0x33 * 8) s e → push.1 ≠ zsOk → exec (.quePush w) s = .next (uniStart e .ready false 1 push.1 push.2)) ∧
    (take.1 ≠ zsOk →
      (Issues w (0x33 * 8 + 1) s e → exec (.quePop w) s = .next (uniStart e .ready false 1 take.1 take.2)) ∧
      (Issues w (0x33 * 8 + 2) s e → exec (.queWait w) s = .next (uniStart e .ready false 1 take.1 take.2))) ∧
    (Issues w (0x33 * 8 + 3) s e →
      (hType h ≠ 4 → here.1 ≠ zsOk → exec (.queSend w) s = .next (uniStart e .ready false 1 here.1 here.2)) ∧
      (hType h = 4 → away.1 ≠ zsOk → exec (.queSend w) s = .next (uniStart e .ready false 1 away.1 away.2)))

/-- RNG.DRAW gives each taking-part thread the four Philox words of its draw index, where the indices stay in range; RNG.ADV moves the
stream's base, or faults with ZS_DENIED 0x36 where it would leave the range; RNG.BASE reads it; CHK.VER verifies the checked block that the
operand's address lies in and answers ZS_OK or ZS_CHECK_FAIL, and ZS_DENIED where no block is checked; an instruction word of no row faults
the skein with ZS_ILLEGAL 0x01 (R109 to R112, R376). -/
def Obligations.DrawAndVerifyInstructionsComplete : Prop :=
  ∀ (w : Who) (s : State) (e : Env), let c := countIssue e s
    let low := lowThread e
    let h : Word := BitVec.ofNat 64 (src e 0 2 ((lanes e).headD low))
    let judged := presentHandle (rngPage (e.loom / 32)) e.k.ctx h 7 c
    let s1 := judged.2
    (judged.1 = zsOk → ∀ r, streamAt s1 h = some r →
      (Issues w (0x34 * 8) s e → lanes e ≠ [] → (∀ th ∈ lanes e, r.base + src e 1 1 th ≤ 0xFFFFFFFF) →
        exec (.rngDraw w) s = .next (finish e id (startLcv e .ready 0 (dstRegs e.ins.w) (regWrites (fDst e.ins.w) 4 ((lanes e).map (fun th =>
          (th, (philox r.key (r.base + src e 1 1 th) (hSlot h) (streamStep s1 r % 2 ^ 32) (streamStep s1 r / 2 ^ 32)).foldr
            (fun x a => x + 2 ^ 32 * a) 0)))) s1))) ∧
      (Issues w (0x34 * 8 + 1) s e → r.base + src e 1 1 low ≤ 0xFFFFFFFF →
        exec (.rngAdv w) s = .next (finish e id (startLcv e .ready 0 [] []
          { s1 with streams := tset s1.streams (hSlot h) { r with base := r.base + src e 1 1 low } }))) ∧
      (Issues w (0x34 * 8 + 2) s e → exec (.rngBase w) s = .next (uniStart e .ready false 1 r.base s1)) ∧
      (Issues w (0x34 * 8 + 1) s e → 0xFFFFFFFF < r.base + src e 1 1 low → exec (.rngAdv w) s = .next (insFault e zsDenied 0x36 0 low s1))) ∧
    (Issues w (0x35 * 8 + 2) s e → ∀ pa mt ck a, translate c e.k.ctx (src e 0 2 low) .read = .ok pa mt ck → mt < 2 → resolve c pa = .dram a →
      (isChecked c a = true → let v := verifyBlock (e.loom / 32) (loomPage e.loom) e.k.ctx a c
        exec (.chkVer w) s = .next (if v.1 then uniStart e .ready false 1 zsOk v.2
          else uniStart e .ready false 1 zsCheckFail (recErr (loomPage e.loom) e.k.ctx 0x01 zsCheckFail v.2))) ∧
      (isChecked c a = false → exec (.chkVer w) s = .next (uniStart e .ready false 1 zsDenied c))) ∧
    (fetchFor w s = .ready e → rowOf e.ins.w = 0 → exec (.illegalInstruction w) s = .next (insFault e zsIllegal 0x01 0 low c))

/-! ## Loom and array events -/

/-- The events of a loom's sequencer complete. LCV_COMPLETION ends an LCV instruction: one whose results are there; a fence whose threads
have no fabric write outstanding, with the failure of the lowest one whose put failed, if any; a TILE.WAIT whose ticket has retired, with
the ticket's status; a QUE.WAIT whose queue has an entry, which it takes (R52, R107, R108, R125, R126). JOIN_RELEASE merges the groups that
wait at the JOIN (R56). YIELD_EXPIRY makes the yielding groups of the thread ready (R57). BARRIER_STALL halts every skein of the domain that
has a group, with ZS_BARRIER_SPLIT, names the first waiting barrier and how many there are in LOOM_BAR_FAULT, and reports the barrier's
address (R63, R64). -/
def Obligations.LoomEventsComplete : Prop :=
  (∀ (s : State) (loom skein : Nat) (k : Skein), tget? (loomOf s loom).skeins skein = some k →
     (∀ id l, k.lcvs.find? (fun l => l.id == id) = some l →
       (l.wait = .ready → exec (.lcvCompletion loom skein id) s = .next (completeLcv loom skein id [] s)) ∧
       (∀ ts, l.wait = .fence ts → k.fabricOut.any (fun t => bit ts t) = false →
         (putFailure k ts = none → exec (.lcvCompletion loom skein id) s = .next (completeLcv loom skein id [] s)) ∧
         (∀ f, putFailure k ts = some f → exec (.lcvCompletion loom skein id) s = .next (lcvFault loom skein l f.code 0x11 0 f.thread
           (modSkein loom skein (fun k => { k with putFails := removeFirst k.putFails (fun x => x == f) }) s)))) ∧
       (∀ t, l.wait = .tile t → tilePending s loom (onEast s loom skein) k.ctx t = false →
         let r := takeTileStatus loom (onEast s loom skein) k.ctx t s
         exec (.lcvCompletion loom skein id) s = .next (completeLcv loom skein id (lcvAll l r.1) r.2)) ∧
       (∀ h a, l.wait = .queue h a → ∀ q, queueOf s h = some q → occupancy q ≠ 0 →
         let r := popInto loom k.ctx h a s
         (r.1 = .ok () → exec (.lcvCompletion loom skein id) s = .next (completeLcv loom skein id [] r.2)) ∧
         (∀ c u va, r.1 = .error (c, u, va) →
           exec (.lcvCompletion loom skein id) s = .next (lcvFault loom skein l c u va ((maskList 32 l.mask).headD 0) r.2)))) ∧
     (∀ addr, k.groups.any (fun g => match g.wait with | .join a _ other => a == addr && other | _ => false) = true →
       exec (.joinRelease loom skein addr) s =
         .next (bumpSat (loomPage loom + Reg.LOOM_JOIN_RELEASE) 1 (modSkein loom skein (joinMerge addr) s))) ∧
     (∀ thread, exec (.yieldExpiry loom skein thread) s = .next (modSkein loom skein (fun k => { k with groups := k.groups.map (fun g =>
       if g.wait = .yield ∧ bit g.mask thread = true then { g with wait := .none } else g) }) s))) ∧
  (∀ (s : State) (loom : Nat) (east : Bool) (k : Nat × Skein) (r : List (Nat × Skein)) (g : Group) (gs : List Group) (b pc : Nat),
     barrierStall s loom east = true → (domainSkeins s loom east).filter (fun x => !x.2.groups.isEmpty) = k :: r →
     k.2.groups = g :: gs → g.wait = .bar b pc → let bars := domainBarriers s loom east
     exec (.barrierStall loom east) s = .next (loomFault loom k.1 ((k :: r).map (fun x => x.1)) zsBarrierSplit
       (if 1 < bars.length then 0x01 else 0x02) 3 pc 0 g.mask ((maskList 32 g.mask).headD 0)
       (setReg (loomPage loom + Reg.LOOM_BAR_FAULT) (bars.headD 0 + bars.length * 16) s)))

/-- Preemption and the split of a loom (R66, R69, R210, R489). A request stops the half's context, shows in LOOM_PREEMPT and issues the open
batch; an east request on an unsplit loom is ignored. PREEMPT_SAVE_COMPLETE, once the half has drained, saves it and raises the interrupt
source. A write of SPLIT takes effect in an idle, quiesced loom, and records ZS_DENIED SUBCODE 0x37 in any other; it drops the loaded weights,
and a split takes the pages of the array and of the accumulator store from a tenant; on a locked page it does nothing. -/
def Obligations.PreemptionAndSplitComplete : Prop :=
  ∀ (s : State) (loom : Nat), let p := loomPage loom
    exec (.requestWest loom) s = .next (issueBatch loom false (setField (p + Reg.LOOM_PREEMPT) 0 0 1
      (modLoom loom (fun l => { l with preemptWest := .stopping }) s))) ∧
    (loomSplit s loom = true → exec (.requestEast loom) s = .next (issueBatch loom true (setField (p + Reg.LOOM_PREEMPT) 1 1 1
      (modLoom loom (fun l => { l with preemptEast := .stopping }) s)))) ∧
    (loomSplit s loom = false → exec (.requestEast loom) s = .next s) ∧
    ((loomOf s loom).preemptWest = .stopping → drained s loom false = true → exec (.preemptSaveComplete loom false) s =
      .next (setPend p 32 (setField (p + Reg.LOOM_PREEMPT) 0 0 0 (modLoom loom (fun l => { l with preemptWest := .none }) (saveHalf loom false s))))) ∧
    ((loomOf s loom).preemptEast = .stopping → drained s loom true = true → exec (.preemptSaveComplete loom true) s =
      .next (setPend p 32 (setField (p + Reg.LOOM_PREEMPT) 1 1 0 (modLoom loom (fun l => { l with preemptEast := .none }) (saveHalf loom true s))))) ∧
    (pageLocked s p = true → ∀ v, exec (.loomCfgSplit loom v) s = .next s) ∧
    (pageLocked s p = false → maySplit s loom = true → ∀ v, ∃ t, exec (.loomCfgSplit loom v) s = .next t ∧
      t = { s with regs := t.regs, looms := t.looms } ∧ loomSplit t loom = v ∧
      (halfOf t loom false).weights = none ∧ (halfOf t loom true).weights = none ∧
      (v = true → bit (reg t (acsPage loom + hdrOwner)) 31 = false ∧ bit (reg t (twlPage loom 0 + hdrOwner)) 31 = false) ∧
      ∀ a, a ≠ p + Reg.LOOM_CFG → a ≠ acsPage loom + hdrOwner → a ≠ twlPage loom 0 + hdrOwner → reg t a = reg s a) ∧
    (pageLocked s p = false → maySplit s loom = false → ∀ v, exec (.loomCfgSplit loom v) s = .next (recErr p 0xFFF 0x37 zsDenied s))

/-- The array queue takes an op, its weights are loaded, it runs, and it completes (R160, R168, R169, R173 to R182). A valid op enters the
queue behind the open batch; a token request, while a staging buffer is free, joins or opens a batch; a refused one enters with its code.
PRELOAD_BEGIN reads B into the loaded weights; PASS_START takes the rows of A, staged ones for a batch, and computes the partial sums with
the weights of its preload or, counted in TWL_B_KEPT, the kept ones; TILE_OP_COMPLETE completes the oldest accepted op: the partial sums are
added to the slots, or its failure is given, and each request's completion is posted. -/
def Obligations.ArrayQueueRunsItsOps : Prop :=
  ∀ (s : State) (loom : Nat) (east : Bool), let h := halfOf s loom east
    (∀ pick x, h.subs[pick]? = some x →
      let d := keptDesc s x.ctx x.desc
      let fail := (acceptChecks s loom east x.ctx x.desc).or (completionCheck s x.ctx x.desc)
      let r : TileReq := ⟨x.ticket, d, x.step, [], []⟩
      let s1 := modCtxDie x.ctx (loom / 32) (fun c => { c with tops := c.tops + 1 })
        (subAccepted loom x (modHalf loom east (fun h => { h with subs := h.subs.eraseIdx pick }) s))
      ctxMayStart s x.ctx = true → topsRoom s x.ctx (loom / 32) = true → inService s loom = true → pageEnabled s (twlPage loom 0) = true →
      queueUsed h < queueSize s loom →
      (∀ c u, fail = some (c, u) →
        exec (.tileOpAccept loom east pick) s = .next (addOp loom east ⟨x.ctx, false, [r], .refused c u⟩ (issueBatch loom east s1))) ∧
      (fail = none → isRequest s loom d = false →
        exec (.tileOpAccept loom east pick) s = .next (addOp loom east ⟨x.ctx, false, [r], .queued⟩ (issueBatch loom east s1))) ∧
      (fail = none → isRequest s loom d = true → stagingUsed h < 2 → txFits s x.ctx (loom / 32) 1 = true →
        exec (.tileOpAccept loom east pick) s = .next (acceptRequest loom east x.ctx r s1))) ∧
    (h.batch ≠ none → exec (.tbTimeout loom east) s = .next (issueBatch loom east (bumpSat (twlPage loom 0 + Reg.TWL_TB_TIMEOUTS) 1 s))) ∧
    (∀ i o, nextPass h = some (i, o) → let d := opDesc o
      (o.stage = .queued → keepsB h o = false → txFits s o.ctx (loom / 32) 1 = true →
        let f := fetchB (tileReader loom o.ctx) d (o.reqs.flatMap (fun r => r.seen), s)
        (∀ b, f.1 = .ok b → let w : Weights := ⟨o.ctx, dFmtB d, dModeB d, dBAddr d, dBStride d, dBScale d, dK d, dN d, dTransB d, b⟩
          exec (.preloadBegin loom east) s =
            .next (setStage loom east i (.loaded b f.2.1) (modHalf loom east (fun h => { h with weights := some w }) f.2.2))) ∧
        (∀ c u, f.1 = .error (c, u) → c ≠ zsPoison → exec (.preloadBegin loom east) s =
          .next (setStage loom east i (.done c u 0) (modHalf loom east (fun h => { h with weights := none }) f.2.2)))) ∧
      (∀ b (kept : Bool), (if kept then o.stage = .queued ∧ keepsB h o = true ∧ h.weights.map (fun w => w.b) = some b
          else ∃ seen, o.stage = .loaded b seen) →
        slotsFree h i o = true → (o.batch = false → txFits s o.ctx (loom / 32) 1 = true) →
        let s1 := if kept then bumpSat (twlPage loom 0 + Reg.TWL_B_KEPT) 1 s else s
        let f := opRows loom o s1
        ∀ a, f.1 = .ok a → exec (.passStart loom east) s = .next (setStage loom east i (.running (passRows (cellP (dFmtA d)) a b))
          (let s2 := bump (twlPage loom 0 + Reg.TWL_STREAM_CYC) a.length f.2
           if o.batch then bump (twlPage loom 0 + Reg.TWL_TB_ROWS) a.length s2 else s2)))) ∧
    (∀ o rest, h.ops = o :: rest →
      let pop (s : State) : State := releaseLease loom east (modHalf loom east (fun h => { h with ops := rest }) s)
      (∀ rows, o.stage = .running rows → exec (.tileOpComplete loom east) s = .next (pop (forL o.reqs (fun r s =>
        completeReq loom east o.ctx r zsOk 0 0 false s) (bump (twlPage loom 0 + Reg.TWL_PASSES) 1
          (forL (reqRows o.reqs rows) (fun r s => drainReq loom east o.ctx r.1 r.2 s) s))))) ∧
      (∀ c u, o.stage = .refused c u → exec (.tileOpComplete loom east) s =
        .next (pop (forL o.reqs (fun r s => completeReq loom east o.ctx r c u 0 false s) s))) ∧
      (∀ st sub res, o.stage = .done st sub res → exec (.tileOpComplete loom east) s =
        .next (pop (forL o.reqs (fun r s => completeReq loom east o.ctx r st sub res true s)
          (if st ≠ zsOk ∧ o.reqs.any (fun r => dOp r.desc == 1) = true then forL o.reqs (fun r s => failReq loom east r s) s else s)))))

/-- The store port takes slot stores and loads, and a Sillage store that waits for credit goes on; a delayed completion entry is posted once
its queue has room, and one whose queue is gone is counted as lost; a freeze run that reaches its limit ends the op responsible (of a
blocked drain the oldest pass that runs, of a starved shuttle the op whose row is late) with ZS_TIMEOUT and is counted (R176, R195 to R202,
R213). -/
def Obligations.StorePortAndFreezeComplete : Prop :=
  ∀ (s : State) (loom : Nat) (east : Bool), let h := halfOf s loom east
    (∀ i o, portOp h = some (i, o) → txFits s o.ctx (loom / 32) 1 = true →
      (dOp (opDesc o) = 2 → o.stage = .queued → exec (.slotStoreStart loom east) s = .next (storeStart loom east i o s)) ∧
      (dOp (opDesc o) = 3 → exec (.slotLoadStart loom east) s = .next (loadStart loom east i o s)) ∧
      (∀ l handed since, dOp (opDesc o) = 2 → o.stage = .handing l handed since → exec (.slotStoreStart loom east) s =
        .next (storeHand loom east i o.ctx (opDesc o) (storeAmax s (slotAt s loom (physSlot east (dSlot (opDesc o)))) o.ctx
          ((o.reqs.head?).elim 0 (fun r => r.step)) (opDesc o)) l handed since s))) ∧
    (∀ d, s.delayed.find? (fun d => hasRoom s d.queue || (queueOf s d.queue).isNone) = some d →
      let s1 : State := { s with delayed := removeFirst s.delayed (fun x => x.queue == d.queue) }
      (queueOf s d.queue = none → exec .completionEntryPost s = .next (cplDrop (hHome d.queue) s1)) ∧
      (∀ q, queueOf s d.queue = some q → (msgWrite d.queue d.entry s1).1 = zsOk →
        exec .completionEntryPost s = .next (msgWrite d.queue d.entry s1).2.2)) ∧
    (∀ late i, freezeOp h late = some i → let n := max 1 (reg s (twlPage loom 1 + Reg.TWL_FREEZE_LIMIT))
      exec (.freezeAbandon loom east late) s = .next (setPend (twlPage loom 1) 8 (bumpSat (twlPage loom 1 + Reg.TWL_FREEZE_ABANDON) 1
        (bump (twlPage loom 1 + (if east then Reg.TWL_FREEZE_EAST else Reg.TWL_FREEZE_WEST)) n
          (bump (twlPage loom 0 + (if late = none then Reg.TWL_FREEZE_DRAIN else Reg.TWL_FREEZE_A)) n
            (setStage loom east i (.done zsTimeout 0x20 0) s))))))

/-- The repair registers and the firmware port of an array (R216 to R225). -/
def Obligations.ArrayRepairAndPortComplete : Prop :=
  ∀ (s : State) (loom v : Nat), let p := twlPage loom 1
    let stat := p + Reg.TWL_REPAIR_STAT
    let ctrl := p + Reg.TWL_CMP_CTRL
    (bit (reg s (twlPage loom 0 + hdrCtrl)) 1 = true → arrayIdle (loomOf s loom) = true → (loomOf s loom).port = none →
      ∃ t, exec (.twlRepairWrite loom v) s = .next t ∧ t = { s with regs := t.regs, looms := t.looms, sys := { s.sys with repairs := t.sys.repairs } } ∧
        RegsOnly [stat, p + Reg.TWL_REPAIR, p + Reg.TWL_REPAIRS] s t ∧
        reg t (p + Reg.TWL_REPAIR) = v &&& 0x7F7FFFFF ∧ reg t (p + Reg.TWL_REPAIRS) = sat32 (reg s (p + Reg.TWL_REPAIRS) + 1) ∧
        bit (reg t stat) 8 = false ∧ bit (reg t stat) 4 = true ∧ bit (reg t stat) 9 = bit (reg s stat) 9 ∧
        (halfOf t loom false).weights = none ∧ (halfOf t loom true).weights = none ∧ tget? t.sys.repairs loom = some (v &&& 0x7F7FFFFF)) ∧
    (∃ t, exec (.alignRewriteDone loom) s = .next t ∧ FieldIs stat 4 4 0 s t) ∧
    (∀ b, ∃ t, exec (.inServiceWrite loom b) s = .next t ∧ FieldIs stat 8 8 (b2n b) s t) ∧
    (∃ t, exec (.retiredSet loom) s = .next t ∧ FieldIs stat 9 9 1 s t) ∧
    (arrayIdle (loomOf s loom) = true → (loomOf s loom).skeins = [] → bit (reg s stat) 4 = false → (loomOf s loom).port = none →
      ∃ t d, exec (.go loom) s = .next t ∧ t = { s with regs := t.regs, looms := t.looms } ∧ RegsOnly [ctrl] s t ∧
        bit (reg t ctrl) 1 = false ∧ (loomOf t loom).port = some ⟨d⟩ ∧
        (reg s (p + Reg.TWL_CMP_DESC) % 64 = 0 → portRange s (reg s (p + Reg.TWL_CMP_DESC)) 64 = true →
          d = some (memGet s.mem (reg s (p + Reg.TWL_CMP_DESC)) 64))) ∧
    (∀ o, (loomOf s loom).port = some o →
      let r := match o.desc with | none => (zsDenied, 0x51, none, s) | some d => portRun loom d s
      let s1 := if r.1 = zsOk then r.2.2.2 else recErr p 0xFFF r.2.1 r.1 r.2.2.2
      exec (.portOpDone loom) s = .next (setPend p 4 (setField ctrl 15 8 r.1 (setField ctrl 1 1 1 (modLoom loom (fun l => { l with port := none })
        (r.2.2.1.elim s1 (fun v => setReg (p + Reg.TWL_CMP_RESULT) v s1)))))))

/-! ## The Weave cache -/

/-- The directory's commands (R229, R241). After a request for M by a die no other live die holds the line; after a read none holds it in
E or M; after either, no live die holds it as a reduction line. But for the entry that the directory may have dropped first to make room,
which no die then holds (R229), every other line stays as it was in every cache; of memory, where the line's block has no check word, only
the line may change, and that only by merges. Which entry is dropped, and whether one is, is open (Config.dirVictim, log 38). -/
def Obligations.DirectoryKeepsOneWriter : Prop :=
  ∀ (s : State) (die la : Nat), let s0 := dirRoom la s
    (Config.dirVictim (homeDie (la * 128)) s.draws = none → s0 = { s with draws := s.draws + 1 }) ∧
    (∀ v, Config.dirVictim (homeDie (la * 128)) s.draws = some v → v ≠ la → homeDie (v * 128) = homeDie (la * 128) →
      ∀ d, dieLive s d = true → lineState s0 d v = .i) ∧
    (∀ d, lineAt s0 d la = lineAt s d la) ∧
    (∃ t, exec (.dirMRequest die la) s = .next t ∧ (∀ d, d ≠ die → dieLive s0 d = true → lineState t d la = .i)) ∧
    (∃ t, exec (.dirReadRequest die la) s = .next t ∧
      ∀ d, d ≠ die → dieLive s0 d = true → lineState t d la ≠ .e ∧ lineState t d la ≠ .m) ∧
    ∀ t, exec (.dirMRequest die la) s = .next t ∨ exec (.dirReadRequest die la) s = .next t →
      (∀ d, dieLive s0 d = true → isReduction (lineState t d la) = false) ∧
      (∀ d l, l ≠ la → lineAt t d l = lineAt s0 d l) ∧
      (s0.mem.wf = true → isChecked s0 (la * 128) = false → ∀ a, a < la * 128 ∨ la * 128 + 128 ≤ a → memByte t.mem a = memByte s0.mem a) ∧
      ((∀ d, isReduction (lineState s0 d la) = false) → t.mem = s0.mem) ∧
      t = { s0 with weaves := t.weaves, mem := t.mem, regs := t.regs, poison := t.poison, looms := t.looms }

/-- A fill closes its miss register, brings the line into the cache in the state that R229 grants where a way can take it, is counted as a
multicast where it has more than four sources, releases the held access of each waiter and performs each RED that waits, in order, and lets
go on what waits in the slice's input queue (R232, R233, R236, R240). -/
def Obligations.FillsAreDelivered : Prop :=
  ∀ (s : State) (die la : Nat) (m : MissReg),
    (tgetD (weaveOf s die).miss (laSlice la) []).find? (fun m => m.la == la) = some m →
    let s0 := modWeave die (fun x => { x with miss := tupd x.miss (laSlice la) (fun l => l.filter (fun m => m.la != la)) }) s
    let s1 := if m.forM then dirM die la s0 else dirRead die la s0
    let s2 := allocLine die la m.part m.streamWay m.byStream (grantState s1 die la m.forM) s1
    let s3 := if m.forM = true ∧ lineState s2 die la ≠ .m ∧ m.waiters.length ≠ (waitingReds m.waiters).length then countUpdate (la * 128) s2 else s2
    let s4 := if 4 < ((m.waiters.map Waiter.source).eraseDups).length then bump (wvcPage die (laSlice la) 0 + Reg.WVC_MCAST) 1 s3 else s3
    missOpen s2 die la = false ∧
    (∀ way, chooseWay s1 die la m.part m.streamWay false = some way → lineState s2 die la = grantState s1 die la m.forM) ∧
    exec (.fillDelivery die la) s = .next (drainInput die (laSlice la) (forL m.waiters (fun w s => match w with
      | .red _ part strm _ => serveWaiter die ⟨la, part, strm, true, w⟩ s
      | w => releaseWaiter w s) s4)) ∧
    ((∀ w ∈ m.waiters, waitingReds [w] = []) → tget? (weaveOf s4 die).inputq (laSlice la) = none →
      ∃ t, exec (.fillDelivery die la) s = .next t ∧ t = { s4 with weaves := t.weaves, looms := t.looms } ∧ missOpen t die la = false ∧
        (∀ d l, lineAt t d l = lineAt s4 d l) ∧
        ∀ l i, (∀ w ∈ m.waiters, w.lcv?.all (fun x => x.1 != l) = true) → tget? (loomOf t l).skeins i = tget? (loomOf s4 l).skeins i)

/-- In-cache reductions (R229, R240, R241): a registration invalidates the plain copies everywhere; its acknowledgement applies the waiting
REDs in order; a merge combines each touched element into memory, carries poison, and the line leaves the slice. -/
def Obligations.ReductionLinesComplete : Prop :=
  ∀ (s : State) (die la : Nat) (l : WLine), lineAt s die la = some l → isReduction l.state = true →
    (l.registered = false → let s0 := dirRoom la s
      ∃ t, exec (.reductionRegistration die la) s = .next t ∧ t = { s0 with weaves := t.weaves, regs := t.regs } ∧
      lineAt t die la = some { l with registered := true } ∧
      ∀ d, dieLive s d = true → lineState t d la = .i ∨ isReduction (lineState t d la) = true) ∧
    (l.registered = true → l.acked = false → ∃ t, exec (.registrationAck die la) s = .next t ∧
      t = { s with weaves := t.weaves, looms := t.looms } ∧
      lineAt t die la = some { (l.waiting.foldl (fun l w => redApply w.off w.operand w.poisoned l) l) with acked := true, waiting := [] }) ∧
    (l.acked = true → s.mem.wf = true → isChecked s (la * 128) = false →
      ∃ t, exec (.mergeWriteback die la) s = .next t ∧
        t = { s with weaves := t.weaves, mem := t.mem, regs := t.regs, poison := t.poison } ∧ lineState t die la = .i ∧
        memGet t.mem (la * 128) 128 = (if l.touched = 0 then memGet s.mem (la * 128) 128 else mergeBytes l (memGet s.mem (la * 128) 128)) ∧
        (∀ a, a < la * 128 ∨ la * 128 + 128 ≤ a → memByte t.mem a = memByte s.mem a) ∧
        (∀ a, poisonedAt t a = (poisonedAt s a || (bit l.redPoison 0 && a / 64 == la * 2) || (bit l.redPoison 1 && a / 64 == la * 2 + 1))) ∧
        RegsOnly [wvcPage die (laSlice la) 0 + Reg.WVC_MERGES] s t ∧
        reg t (wvcPage die (laSlice la) 0 + Reg.WVC_MERGES) = (reg s (wvcPage die (laSlice la) 0 + Reg.WVC_MERGES) + 1) % 2 ^ 64)

/-- PIN and UNPIN walk the lines of their range in ascending order and complete with their counts, or end with the failure of the first line
that may not be pinned; the thrash window restarts; the cache's configuration takes a value whose sums fit, and refuses others with
ZS_DENIED SUBCODE 0x61 or 0x62 (R236 to R239, R243). A valid survivor region is taken only inside the die, aligned to 2 MiB and apart from
every other valid one; another is refused with SUBCODE 0x70 (R260). -/
def Obligations.PinsAndMemoryConfiguration : Prop :=
  (∀ (s : State) (die slot : Nat),
     (∀ j t, DmaTakes die slot s j t → pinMalformed j.entry = false →
       (bytesAt j.entry 0 1 = 0x30 → ctxCap t j.ctx 1 = true →
         let r := pinWalk die j.ctx (pinLine die j.ctx) (pLength j.entry / 128) (pAddr j.entry) [0, 0, 0, 0] t
         (r.1 = none → exec (.pin die slot) s = .next (dmaFinish j (if r.2.1.drop 1 = [0, 0, 0] then zsOk else zsPinDenied) 0 r.2.1 r.2.2)) ∧
         (∀ c u, r.1 = some (c, u) → exec (.pin die slot) s = .next (dmaFail j.page j c u r.2.1 r.2.2))) ∧
       (bytesAt j.entry 0 1 = 0x31 →
         let r := pinWalk die j.ctx (unpinLine die j.ctx) (pLength j.entry / 128) (pAddr j.entry) [0, 0] t
         (r.1 = none → exec (.unpin die slot) s = .next (dmaFinish j zsOk 0 (r.2.1.drop 1) r.2.2)) ∧
         (∀ c u, r.1 = some (c, u) → exec (.unpin die slot) s = .next (dmaFail j.page j c u (r.2.1.drop 1) r.2.2)))) ∧
     (∃ t, exec (.thrashWindowEnd die) s = .next t ∧ t = { s with weaves := t.weaves } ∧ (∀ d, d ≠ die → weaveOf t d = weaveOf s d) ∧
       weaveOf t die = { weaveOf s die with window := [] }) ∧
     (∀ v, bits v 3 0 ≤ 12 → minWaysSum (weaveOf s die) ≤ 16 - bits v 3 0 → ∃ t, exec (.wvcConfigWrite die true v) s = .next t ∧
       OnlyRegs [wvcPage die 0 1 + Reg.WVC_DIE_CFG] s t ∧ pinCap t die = bits v 3 0) ∧
     (∀ v, 12 < bits v 3 0 → exec (.wvcConfigWrite die true v) s = .next (recErr (wvcPage die 0 1) 0xFFF 0x61 zsDenied s)) ∧
     (∀ v, let w := weaveOf s die
       let w' := { w with partCfg := tset w.partCfg (bits (reg s (wvcPage die 0 1 + Reg.WVC_PART_SEL)) 5 0) (bits v 4 0) }
       (minWaysSum w' ≤ 16 - pinCap s die → ∃ t, exec (.wvcConfigWrite die false v) s = .next t ∧ t = { s with weaves := t.weaves } ∧
         weaveOf t die = w' ∧ ∀ d, d ≠ die → weaveOf t d = weaveOf s d) ∧
       (16 - pinCap s die < minWaysSum w' → exec (.wvcConfigWrite die false v) s = .next (recErr (wvcPage die 0 1) 0xFFF 0x62 zsDenied s)))) ∧
  (∀ (s : State) (die : Nat) (size : Bool) (v : Nat), let q := memcDiePage die
     let k := bits (reg s (q + Reg.MEMC_SURV_SEL)) 3 0
     let old := tgetD s.survivors (die * 16 + k) (0, 0, false)
     let new := if size then (old.1, bits v 15 0, bit v 31) else (v % 2 ^ 64, old.2.1, old.2.2)
     (new.2.2 = true → survivorOk s die k new.1 new.2.1 = false →
       exec (.memcSurvWrite die size v) s = .next (recErr q 0xFFF 0x70 zsDenied s)) ∧
     ((new.2.2 = true → survivorOk s die k new.1 new.2.1 = true) → ∃ t, exec (.memcSurvWrite die size v) s = .next t ∧
       t = { s with survivors := t.survivors } ∧ tget? t.survivors (die * 16 + k) = some new ∧
       (∀ i, i ≠ die * 16 + k → tget? t.survivors i = tget? s.survivors i) ∧
       (new.2.2 = true → new.1 % 2 ^ 21 = 0 ∧ new.1 + new.2.1 * 2 ^ 21 ≤ dieDram ∧
         ∀ e ∈ s.survivors, e.1 / 16 = die → e.1 % 16 ≠ k → e.2.2.2 = true →
           new.1 + new.2.1 * 2 ^ 21 ≤ e.2.1 ∨ e.2.1 + e.2.2.1 * 2 ^ 21 ≤ new.1)))

/-! ## Bonded DRAM -/

/-- The controllers' commands complete: a read is decoded, a failed pseudo-channel is marked, a rebuild goes line by line and the next one
starts at its end; the patrol visits each line in turn, writes a corrected one back, and starts again after the last; a period of 1 to 24
is taken and another refused with ZS_DENIED SUBCODE 0x71; a temperature sample shows in MEMC_TEMP with the level it reaches (R250 to R253,
R258, R262, R264). -/
def Obligations.DramCommandsComplete : Prop :=
  ∀ (s : State) (die stack : Nat), let p := memcPage die stack
    let q := memcDiePage die
    (∀ line inner e0 e1, dieLive s die = true → line < dieDram / 128 → selfRefresh s = false →
      exec (.dramReadDecode die line inner e0 e1) s = .next (lineRead die line [] inner e0 e1 s).2) ∧
    (∀ pc, pcReached s die stack pc = true → exec (.pcFailMark die stack pc) s = .next (markFailed die stack pc s)) ∧
    (∀ v, exec (.memcPcFailedWrite die stack v) s = .next (forL (maskList 64 v) (fun n s => markFailed die stack n s) s)) ∧
    (∀ n ptr inner e0 e1, rebuildOf s die stack = some (n, ptr) →
      (ptr < 2 ^ 25 → exec (.rebuildLine die stack inner e0 e1) s = .next (setReg (p + Reg.MEMC_REBUILD_PTR) (ptr + 1)
        (lineRead die (lineOf stack (pcRoot s die stack 4 n / 10) ptr) [pcRoot s die stack 4 n % 10] inner e0 e1 s).2)) ∧
      (2 ^ 25 ≤ ptr → exec (.rebuildComplete die stack) s = .next (nextRebuild die stack (setReg (p + Reg.MEMC_REBUILD) n s)))) ∧
    (∀ inner e0 e1, dieLive s die = true → selfRefresh s = false → bit (reg s (q + Reg.MEMC_PATROL)) 31 = true →
      let off := reg s (q + Reg.MEMC_PATROL_POS)
      let pa := die * dieDram + off
      let r := lineRead die (off / 128) [] inner e0 e1 s
      let s1 := memM (pa / 128) r.2
      let s2 := if r.1 then lineWrite pa (memGet s1.mem pa 128) s1 else r.2
      (off + 128 < dieDram → exec (.patrolScrub die inner e0 e1) s = .next (setReg (q + Reg.MEMC_PATROL_POS) (off + 128) s2)) ∧
      (dieDram ≤ off + 128 → exec (.patrolScrub die inner e0 e1) s = .next (forN 4 (fun k s => modStack die k (fun x => { x with sym := [] }) s)
        (bumpSat (q + Reg.MEMC_PATROL_PASSES) 1 (setReg (q + Reg.MEMC_PATROL_POS) 0 s2))))) ∧
    (∀ v, 1 ≤ bits v 4 0 → bits v 4 0 ≤ 24 → ∃ t, exec (.memcPatrolWrite die v) s = .next t ∧ OnlyRegs [q + Reg.MEMC_PATROL] s t ∧
      bits (reg t (q + Reg.MEMC_PATROL)) 4 0 = bits v 4 0 ∧ bit (reg t (q + Reg.MEMC_PATROL)) 31 = bit v 31) ∧
    (∀ v, bits v 4 0 = 0 ∨ 24 < bits v 4 0 → exec (.memcPatrolWrite die v) s = .next (recErr q 0xFFF 0x71 zsDenied s)) ∧
    (∀ temp, temp < 256 → ∃ t, exec (.dramTempSample die stack temp) s = .next t ∧ OnlyRegs [p + Reg.MEMC_TEMP] s t ∧
      bits (reg t (p + Reg.MEMC_TEMP)) 7 0 = temp ∧ (85 ≤ temp → bits (reg t (p + Reg.MEMC_TEMP)) 9 8 = 1) ∧
      (95 ≤ temp → bits (reg t (p + Reg.MEMC_TEMP)) 11 10 = if 100 ≤ temp then 2 else if 3 ≤ heatShown (reg s (p + Reg.MEMC_TEMP)) ∧ 98 ≤ temp
        then 2 else 1))

/-! ## Queues, scheduling, engines -/

/-- Doorbells move the producer index of a queue, which submits entries, or the consumer index of a MSG queue, within what the queue holds,
are rejected beyond that, and are dropped while the context is torn down (R273, R293). DISPATCH takes and checks the head entry: a valid one
waits to be placed, one that fails completes (R277, R278). A dispatch whose skeins have all ended completes (R279). A round counts, advances
the virtual times, completes head dispatches that name a retired loom, and places what fits (R285, R287, R382). A quantum ends, and the
preemption it asks for, if any, is requested (R286). A hold begins at 64 refused handles and ends, and its window restarts (R26). -/
def Obligations.SchedulingCommandsComplete : Prop :=
  ∀ (s : State) (die slot rec v : Nat),
    (∀ q, dbQueue s slot rec = some q →
      ((ctxAt s slot).any (fun x => x.state != .active) = true → ∀ cons, exec (.doorbellWrite slot rec cons v) s =
        .next (modCtxDie slot q.home (fun d => { d with dbDrop := sat32 (d.dbDrop + 1) }) s)) ∧
      ((ctxAt s slot).any (fun x => x.state != .active) = false →
        let move := (v % 2 ^ 32 + 2 ^ 32 - (if q.typ = .msg then q.cons else q.prod)) % 2 ^ 32
        let room := if q.typ = .msg then occupancy q else q.depth - occupancy q
        (q.typ ≠ .msg → move ≤ room →
          exec (.doorbellWrite slot rec false v) s = .next (modQueue q.handle (submitTo (v % 2 ^ 32) (ctxStep s slot)) s)) ∧
        (q.typ = .msg → move ≤ room → exec (.doorbellWrite slot rec true v) s =
          .next (deliverFaults 65 slot (modQueue q.handle (fun q => { q with cons := v % 2 ^ 32, entries := q.entries + move }) s))) ∧
        (room < move → exec (.doorbellWrite slot rec (decide (q.typ = .msg)) v) s = .next (setPend (quePage q.home) 4
          (bumpSat (quePage q.home + Reg.QUE_DB_REJECT) 1 (modQueue q.handle (fun q => { q with dbStatus := zsDenied }) s)))) ∧
        exec (.doorbellWrite slot rec (decide (q.typ ≠ .msg)) v) s = .next s)) ∧
    (∀ q, tget? s.queues (die * 16384 + slot) = some q → q.typ = .compute → q.head = none → occupancy q ≠ 0 →
      ctxMayStart s q.ctx = true → pageEnabled s (schPage die) = true →
      let r := vRead die q.ctx (entryVa q q.cons) 64 s
      (∀ b, r.1 = .ok b → dispatchBad r.2 die q.ctx (bare b) = none →
        exec (.dispatch die slot) s = .next (modQueue q.handle (fun q => { q with head := some (bare b) }) r.2)) ∧
      (∀ b c u, r.1 = .ok b → dispatchBad r.2 die q.ctx (bare b) = some (c, u) → exec (.dispatch die slot) s = .next (headFail die q c u r.2)) ∧
      (∀ c u va, r.1 = .error (c, u, va) → exec (.dispatch die slot) s = .next (headFail die q c u r.2))) ∧
    (∀ id d, tget? s.dispatches id = some d → d.left = 0 → exec (.dispatchComplete id) s =
      .next (postCompletion d.cplQ zsOk 0 3 d.queue d.index [d.loom, d.halted, (cycles s - d.placedAt) % 2 ^ 32]
        { modLoom d.loom (fun l => { l with allocs := l.allocs.filter (fun a => a.dispatch != some id) }) s with
          dispatches := tdel s.dispatches id })) ∧
    (∀ prefer, dieLive s die = true → pageEnabled s (schPage die) = true →
      let s1 := failRetired die (advanceV die (bump (schPage die + Reg.SCH_HEARTBEAT) 1 s))
      exec (.schedulerRound die prefer) s = .next (placeAll (s1.saved.length + s1.queues.length + 1) die
        (((prefer.filter (fun i => i < 32) ++ List.range 32).eraseDups).map (fun i => die * 32 + i)) s1)) ∧
    (dieLive s die = true → pageEnabled s (schPage die) = true →
      let s1 := advanceV die s
      let ends (s2 : State) : State := { s2 with looms := tmapv s2.looms (fun k l => if k / 32 = die then
        { l with leaseWest := l.leaseWest.map (fun x => { x with quanta := x.quanta + 1 }),
                 leaseEast := l.leaseEast.map (fun x => { x with quanta := x.quanta + 1 }) } else l) }
      (((byV s1 die).head?.bind (quantumVictim s1 die)) = none → exec (.schQuantum die) s = .next (ends s1)) ∧
      (∀ c x n loom east, (byV s1 die).head? = some c → quantumVictim s1 die c = some (x, n, loom, east) → exec (.schQuantum die) s = .next (ends
          (bump (schPage die + Reg.SCH_PREEMPTS) 1 (modLoom loom (fun l => { l with claim := some (c, east) }) (requestPreempt loom east s1)))))) ∧
    (∀ c x, ctxAt s c = some x → (64 ≤ x.invalid → x.held = false → ∃ t, exec (.handleHold c) s = .next t ∧
        ctxAt t c = some { x with held := true, invalid := 0 } ∧ (∀ d, d ≠ c → ctxAt t d = ctxAt s d) ∧
        t = { s with ctxs := t.ctxs, regs := t.regs, dryRing := t.dryRing }) ∧
      (∃ t, exec (.handleHoldEnd c) s = .next t ∧ t = { s with ctxs := t.ctxs } ∧ ctxAt t c = some { x with held := false } ∧
        ∀ d, d ≠ c → ctxAt t d = ctxAt s d) ∧
      (∃ t, exec (.handleWindowEnd c) s = .next t ∧ t = { s with ctxs := t.ctxs } ∧ ctxAt t c = some { x with invalid := 0 } ∧
        ∀ d, d ≠ c → ctxAt t d = ctxAt s d))

/-- DMA entries: COPY moves its rows in ascending order, as one row where they lie together and apart from their copy, FILL repeats its
pattern in each row, and the entry completes once every write is performed or has failed, with its status and the bytes written (R281).
Conversions run on the channel that the entry names: CONVERT and MEASURE by rows, HIST_READ writes the history, oldest first, STASH_PACK
and STASH_UNPACK move frames (R150, R151, R200 to R204). An entry that is malformed completes with ZS_BAD_DESCRIPTOR SUBCODE 0x0A, or with
ZS_BAD_FORMAT and the subcode of its fault (R151, R281). -/
def Obligations.DmaAndConversionEntriesRun : Prop :=
  ∀ (die slot : Nat) (s : State),
    (∀ j t, DmaTakes die slot s j t → let e := j.entry
      let n := cRowBytes e
      let src := bytesAt e 8 8
      let dst := bytesAt e 0x10 8
      let apart := spansApart (rowSpan src (bytesAt e 0x20 4) (cRows e) n) (rowSpan dst (bytesAt e 0x24 4) (cRows e) n)
      let one := apart && bytesAt e 0x20 4 == n && bytesAt e 0x24 4 == n
      (bytesAt e 0 1 = 1 → copyMalformed e = false → exec (.copy die slot) s = .next (dmaPump (copyRows die j.engine j.channel j.ctx
        (if one then n * cRows e else n) apart (if one then [(src, dst)] else (List.range (cRows e)).map (fun i =>
          ((src + i * bytesAt e 0x20 4) % 2 ^ 64, (dst + i * bytesAt e 0x24 4) % 2 ^ 64))) [] [] [] (dmaBegin j t)))) ∧
      (bytesAt e 0 1 = 1 → copyMalformed e = true → exec (.copy die slot) s = .next (dmaFail j.page j zsBadDescriptor 0x0A [] t)) ∧
      (bytesAt e 0 1 = 2 → copyMalformed e = false → exec (.fill die slot) s = .next (dmaPump (dmaFlush j.channel j.ctx
        ((List.range (cRows e)).map (fun i => ((dst + i * bytesAt e 0x24 4) % 2 ^ 64,
          clean ((List.range n).map (fun i => BitVec.ofNat 8 (bytesAt e (8 + i % 8) 1)))))) [] (dmaBegin j t)))) ∧
      (bytesAt e 0 1 = 2 → copyMalformed e = true → exec (.fill die slot) s = .next (dmaFail j.page j zsBadDescriptor 0x0A [] t))) ∧
    (∀ r, dmaRunOf s (channelKey die slot) = some r → r.tags = [] → r.todo = [] →
      let j : DmaJob := ⟨die, r.channel, r.ctx, r.queue, r.cplQ, r.index, r.engine, [], 0⟩
      let s1 : State := { s with dmaRuns := removeFirst s.dmaRuns (fun x => x.channel == r.channel) }
      let n := [r.bytes % 2 ^ 32, r.bytes / 2 ^ 32]
      exec (.dmaEntryDone die slot) s =
        .next (if r.status = zsOk then dmaFinish j zsOk 0 n s1 else dmaFinish j r.status r.sub n (dmaError j.page j r.status r.sub s1))) ∧
    (∀ j ch t, ConvTakes die slot s j ch t → let e := j.entry
      let eng := engAt die 17
      (bytesAt e 0 1 = 0x20 → convertBad e ch = none →
        (vFlags e &&& 0x0A = 0 → exec (.convert die slot) s = .next (convertBody j ch t)) ∧
        (vFlags e &&& 0x0A = 2 → exec (.measure die slot) s = .next (convertBody j ch t))) ∧
      (bytesAt e 0 1 = 0x20 → ∀ u, convertBad e ch = some u →
        (vFlags e &&& 0x0A = 0 → exec (.convert die slot) s = .next (convDone j zsBadFormat u [] t)) ∧
        (vFlags e &&& 0x0A = 2 → exec (.measure die slot) s = .next (convDone j zsBadFormat u [] t))) ∧
      (bytesAt e 0 1 = 0x20 → vFlags e = 8 → bytesAt e 2 2 = 0 →
        let w := vWrite eng j.ctx (bytesAt e 0x18 8) (clean
          ((histList ch ++ List.replicate (16 - (histList ch).length) 0).flatMap (toBytes 4))) t
        w.1 = none → exec (.histRead die slot) s = .next (convDone j zsOk 0 [] w.2)) ∧
      (bytesAt e 0 1 = 0x22 → stashBad 0 0x10 e ch = none →
        let r := readSegment j 0 (bytesAt e 4 4) 0 t
        ∀ blocks, r.1 = .ok blocks → blocks.length = tRows e * tRowBlocks e →
        let rows := (chunks (tRowBlocks e) (tRows e) blocks).zipIdx
        let w := opWrite eng j.ctx
          (coalesce (rows.map (fun r => ((bytesAt e 0x18 8 + r.2 * bytesAt e 0x30 4) % 2 ^ 64, r.1.flatMap (fun b => b.codes)))) ++
           coalesce (rows.map (fun r => ((bytesAt e 0x20 8 + r.2 * tRowBlocks e) % 2 ^ 64, r.1.map (fun b => b.scale))))) r.2
        w.1.1 = none → exec (.stashUnpack die slot) s =
          .next (convDone j zsOk 0 [] (convCount die ⟨[], [], blocks.countP (fun b => b.scale.1 == 0xFF), 0, 0⟩ w.2))) ∧
      (bytesAt e 0 1 = 0x21 → stashBad 0x03 0x18 e ch = none →
        let r := opRead eng (cnvPage die) j.ctx ((List.range (tRows e)).flatMap (fun i =>
          [((bytesAt e 0x10 8 + i * bytesAt e 0x30 4) % 2 ^ 64, tRowBytes e), ((bytesAt e 0x20 8 + i * tRowBlocks e) % 2 ^ 64, tRowBlocks e)])) t
        ∀ bs, r.1 = .ok bs → bs.any (fun b => b.any (fun x => x.2)) = false →
        let blocks := (chunks 2 (tRows e) bs).flatMap (fun p => rowBlocks (tFmt e) (tBs e) (p.getD 0 []) (p.getD 1 []))
        let amax := amaxBits (blocks.flatMap (blockVals (tFmt e) (blockSize (tBs e))))
        let frames := stashSegment (tFmt e) (tBs e) (bit (vFlags e) 1) (amax.getD 0x7FC00000) blocks
        let w := opWrite eng j.ctx (frames.zipIdx.map (fun f => ((bytesAt e 0x18 8 + f.2 * 4096) % 2 ^ 64, f.1))) r.2
        let u1 := convCount die ⟨[], [], blocks.countP (fun b => b.scale.1 == 0xFF), 0, 0⟩ w.2
        w.1.1 = none → exec (.stashPack die slot) s = .next (convDone j zsOk 0 [frames.length]
          (if bit (vFlags e) 0 then pushAmax die j.ctx (vChannel e) amax u1 else u1))))

/-- The amax history (R153): a push writes the entry at HIST_NEXT, advances HIST_NEXT modulo 16 and raises HIST_COUNT to at most 16; a full
ring loses its oldest entry; what is not finite is not pushed. -/
def Obligations.HistoryIsARingOfSixteen : Prop :=
  ∀ (s : State) (die c : Nat) (h : Word) (ch : ConvChan), tget? s.conv (convKey h) = some ch →
    ch.next < 16 → ch.count ≤ 16 → (ch.count < 16 → ch.next = ch.count) →
    (∀ a, ∃ ch', tget? (pushAmax die c h (some a) s).conv (convKey h) = some ch' ∧ ch'.hist.getD ch.next 0 = a ∧
      (∀ i, i ≠ ch.next → ch'.hist.getD i 0 = ch.hist.getD i 0) ∧ ch'.next = (ch.next + 1) % 16 ∧ ch'.count = min 16 (ch.count + 1) ∧
      (ch'.count < 16 → ch'.next = ch'.count) ∧
      histList ch' = (if ch.count = 16 then (histList ch).drop 1 else histList ch) ++ [a]) ∧
    (∃ ch', tget? (pushAmax die c h none s).conv (convKey h) = some ch' ∧ ch'.hist = ch.hist ∧ ch'.next = ch.next ∧ ch'.count = ch.count) ∧
    (∀ l a, amaxBits l = some a → (fp32 a).isNan = false ∧ (fp32 a).isInf = false)

/-- Role assignments that were held, and teardown (R31, R259, R291 to R295): a held assignment advances its endpoint's epoch once the rate
limit permits and is answered; a teardown performs the writes already issued, waits until nothing of the context is in flight, scrubs its
frames, and then removes the context and answers every request that joined it. -/
def Obligations.TeardownRunsItsStages : Prop :=
  ∀ (s : State) (c : Nat),
    (∀ h r e, s.heldRoles.find? (fun r => r.endpoint == h) = some r → endpointOf s h = some e → mayAdvance s e = true →
      let s1 := advanceRole h { s with heldRoles := removeFirst s.heldRoles (fun x => x.endpoint == h) }
      exec (.roleEpochAdvance h) s =
        .next (zjpAnswer r.port r.reqId 0x0032 (BitVec.ofNat 64 (ofBytes r.body)) zsOk 0 (toBytes 2 ((e.epoch + 1) % 65536)) s1)) ∧
    (∀ t, tearingIn s c .draining = some t → t.writesDone = false → exec (.teardownWritesDone c) s =
      .next (modCtx c (fun x => { x with teardown := x.teardown.map (fun t => { t with writesDone := true }) }) (settleContext c s))) ∧
    (∀ t, tearingIn s c .draining = some t → t.writesDone = true → (∀ d ∈ liveDies s, inflightOf s c d = 0) →
      ∃ u, exec (.teardownQuietEnd c) s = .next u ∧ u = { s with ctxs := u.ctxs } ∧ tearingIn u c .scrubbing = some t ∧
        (∀ d ∈ liveDies s, ((ctxAt u c).elim 0 (fun x => (ctxDie x d).scrubLeft)) = heldBytes s c d) ∧
        ∀ x, x ≠ c → ctxAt u x = ctxAt s x) ∧
    (∀ t, tearingIn s c .scrubbing = some t → s.mem.wf = true → (∀ f ∈ ctxFrames s c, f.1 % 64 = 0) → ∃ u, exec (.clearScrubDone c) s = .next u ∧ tearingIn u c .scrubbing = some t ∧
      (∀ d ∈ liveDies s, ((ctxAt u c).elim 1 (fun x => (ctxDie x d).scrubLeft)) = 0) ∧
      (∀ f ∈ ctxFrames s c, ∀ a, f.1 ≤ a → a < f.1 + f.2 → memByte u.mem a = 0 ∧ poisonedAt u a = false) ∧
      ∀ a, (∀ f ∈ ctxFrames s c, a < f.1 ∨ f.1 + f.2 ≤ a) → memByte u.mem a = memByte s.mem a) ∧
    (∀ t, tearingIn s c .scrubbing = some t → (∀ d ∈ liveDies s, ((ctxAt s c).elim 0 (fun x => (ctxDie x d).scrubLeft)) = 0) →
      let s1 := removeCtx c s; let h := ctxHandle s c
      exec (.teardownComplete c) s = .next (forL t.answer (fun a s => zjpAnswer a.1 a.2 0x0011 h zsOk 0 [] s)
        (forL (liveDies s1) (fun d s => setPend (pageAddr .ctx d 0 0) 4 s)
          { s1 with teardownTicks := tset s1.teardownTicks c (s1.time - t.since) })))

/-! ## Sillage -/

/-- The entries of a COLLECTIVE queue run (R305, R306, R311, R317, R319, R320, R322, R398): CONTRIB hands its row's segments to the owners,
CLOSE its counts, OPEN sets the deadline while it has not passed, AWAIT and COMMIT wait, COMMIT after a RETRACT of its step completes with
ZS_RETRACTED, COMMIT in restoration restores, UPDATE sends a slice's bytes to every member, RETRACT ends the attempt, DIGEST writes a ring
entry. -/
def Obligations.SillageEntriesRun : Prop :=
  ∀ (die slot : Nat) (s : State) (j : SilJob) (g : SilGroup) (t : State), SilTakes die slot s j g t → let e := j.entry
    (bytesAt e 0 1 = 1 → let n := bytesAt e 0x20 4; let fmt := bytesAt e 0x24 1 % 16; let mode := bytesAt e 0x24 1 / 16
      let r := opRead (engAt die 18) (silPage die) j.ctx ((bytesAt e 0x10 8, divUp (n * fmtWidth fmt) 8) ::
          (if mode = 0 then [] else [(bytesAt e 0x28 8, divUp n (blockSize mode))])) t
      ∀ bs, r.1 = .ok bs → bs.any (fun b => b.any (fun x => x.2)) = false →
        let ws := rowSegments r.2 g fmt mode ⟨bytesAt e 0x18 8, (List.range n).map (rowCode (bare (bs.getD 0 [])) (fmtWidth fmt)),
          (bare (bs.getD 1 [])).map (fun b => b.toNat)⟩
        exec (.contrib die slot) s = .next (match ws with
          | some l => silSettle j.group (silRunBegin j g 0 0 l r.2)
          | none => silDone j zsBadFormat 0x07 [] r.2)) ∧
    (bytesAt e 0 1 = 2 → exec (.close die slot) s = .next (silSettle j.group (forL (gOwners g) (fun o s => silSend die j.group o
      (ctlSeg s g 2 0 0 16 (toBytes 8 (bytesAt e 0x10 8) ++ toBytes 8 (handedTo g o))) (some g.nextRun) s) (silRunBegin j g 0 0 [] t)))) ∧
    (bytesAt e 0 1 = 3 → exec (.openStep die slot) s = .next (silDone j zsOk 0 []
      (if g.deadline ≤ t.time then t else modSil j.group (fun g => { g with deadline := bytesAt e 0x10 8 }) t))) ∧
    (bytesAt e 0 1 = 4 → let i := bytesAt e 0x10 2
      exec (.await die slot) s = .next (if i < g.slices.length ∧ (sliceAt g i).owner = gSelf g then silRunBegin j g i 0 [] t
        else silDone j zsDenied 0x86 [] t)) ∧
    (bytesAt e 0 1 = 5 → let i := bytesAt e 0x18 2; let off := bytesAt e 0x1C 4; let n := bytesAt e 0x20 4
      i < g.slices.length → (sliceAt g i).owner = gSelf g → off + n ≤ (sliceAt g i).paramBytes →
      let r := opRead (engAt die 18) (silPage die) j.ctx [(bytesAt e 0x10 8, n)] t
      ∀ bs, r.1 = .ok bs → (bs.headD []).any (fun x => x.2) = false →
        exec (.update die slot) s = .next (silSettle j.group (forL (chunks 4096 (n / 4096 + 1) (bare (bs.headD []))).zipIdx (fun c s =>
          forL (List.range (gMembers g)) (fun m s => silSend die j.group m
            (ctlSeg s g 4 (off + c.2 * 4096) i c.1.length c.1) (some g.nextRun) s) s) (silRunBegin j g i n [] r.2)))) ∧
    (bytesAt e 0 1 = 6 → let u := modSil j.group (fun g => { g with commitCpl := j.cplQ }) t
      (g.mode ≠ .restoring → g.mode ≠ .image → g.retracted = false → exec (.commit die slot) s = .next (silRunBegin j g 0 0 [] u)) ∧
      (g.mode ≠ .restoring → g.mode ≠ .image → g.retracted = true → exec (.commit die slot) s =
        .next (losePending j.group (silDone j zsRetracted 0 [] (modSil j.group (fun g => { g with retracted := false }) u)))) ∧
      (g.mode = .restoring ∨ g.mode = .image → let r := restoreOrFill j.group u
        exec (.commit die slot) s = .next (if r.1 = zsOk then silDone j zsOk 0 (commitWords 2 (ctxStep r.2.2 j.ctx)) (bump (silPage die + Reg.SIL_COMMITS) 1 r.2.2)
          else postCompletion j.cplQ r.1 r.2.1 4 j.queue j.index [] (recErr (pageAddr .cad die 0 0) j.ctx r.2.1 r.1 r.2.2)))) ∧
    (bytesAt e 0 1 = 7 → ownedBy g (gSelf g) ≠ [] → silMute g 6 = false →
      exec (.retract die slot) s = .next (silSettle j.group (retractStep die j.group (some g.nextRun) (silRunBegin j g 0 0 [] t)))) ∧
    (bytesAt e 0 1 = 8 →
      let d := if bytesAt e 0x18 8 = gStep t g then some (digestNow t g)
        else (tget? g.ring (bytesAt e 0x18 8 % 64)).bind (fun d => if d.step == bytesAt e 0x18 8 then some d else none)
      (d = none → exec (.digest die slot) s = .next (silDone j zsDenied 0x85 [] t)) ∧
      (∀ x, d = some x →
        let w := vWrite (engAt die 18) j.ctx (bytesAt e 0x10 8)
          (clean (toBytes 8 x.step ++ toBytes 4 x.attempt ++ zeros 4 ++ toBytes 16 x.sent ++ toBytes 16 x.recv)) t
        (w.1 = none → exec (.digest die slot) s = .next (silDone j zsOk 0 [] w.2)) ∧
        (∀ c u va, w.1 = some (c, u, va) → exec (.digest die slot) s = .next (silDone j c u [] w.2))))

/-- The events of an open step (R308 to R319, R404), of a group whose context is not torn down: a deadline that has passed excludes who has
not arrived; a window that its members have completed, and whose norm sum finds a lane (R483), is reduced exactly, or under LOWRANK laid out
factor by factor, written once, and its credit returned; a clip factor rewrites its slice; AWAIT completes with the step's record once the slice is written and every included CLOSE
has come; READY goes out once; COMMIT completes when its conditions are met, and times out; a limit that passes makes the owner retract, and
a RETRACT entry whose limit passes completes; a silent member has failed. -/
def Obligations.SillageEventsComplete : Prop :=
  ∀ (s : State) (gs : Nat) (g : SilGroup), silAt s gs = some g → silActs s g = true →
    (g.final = false → g.deadline < s.time → g.mode = .ordinary → ownedBy g (gSelf g) ≠ [] →
      let u := forL (List.range (gMembers g)) (fun i s => if (fromOf g i).arrived then s else modFrom gs i (fun f => { f with excluded := true }) s)
        (modSil gs (fun g => { g with final := true }) s)
      exec (.silDeadline gs) s = .next (if (included g).isEmpty then silSettle gs (retractFor (gDie g) gs zsTimeout 0x92 u) else u)) ∧
    (∀ r, g.runs.find? (fun r => r.op == 7) = some r → exec (.silStallLimit gs true) s = .next (runEnd gs r zsOk 0 [] s)) ∧
    (g.final = true → g.deadline + gStall g ≤ s.time → g.mode = .ordinary → ownedBy g (gSelf g) ≠ [] →
      (included g).all (contributionDone g) = false →
      exec (.silStallLimit gs false) s = .next (silSettle gs (retractFor (gDie g) gs zsTimeout 0x90 s))) ∧
    (∀ w i k, windowReady g w = true → windowPlace g (gSelf g) w = some (i, k) → txFits s g.ctx (reduceDie s w) 1 = true →
      normLaneFree s g i = true →
      let sl := sliceAt g i; let first := (windowSpan sl k).1; let n := (windowSpan sl k).2
      let die := reduceDie s w; let page := silPage die
      let done (s : State) : State := silSettle gs (normSend die gs (returnCredit gs (modSil gs
        (fun g => { g with reduced := sinsert g.reduced w, from_ := tmapv g.from_ (fun _ f => dropParts i first n f) }) s)))
      (gReduce g = 2 → exec (.windowReduce gs w) s = .next (done (forL (List.range (gMembers g)) (fun m s => forN n (fun j s =>
        let v : Val := if (included g).contains m then partValue sl.fmt sl.mode (fromOf g m).parts i (first + j) else .zero
        let r := vWrite (engAt die 18) g.ctx (lowrankAddr g sl m (first + j)) (clean (toBytes 2 (convert 1 false .rne v).code)) s
        match r.1 with
        | none => r.2
        | some (c, u, _) => modSil gs (fun g => { g with gradFail := tset g.gradFail i (c, u) }) (recErr page g.ctx u c r.2)) s) s))) ∧
      (gReduce g ≠ 2 → let out := (List.range n).map (fun j => laneResult g ((included g).map (fun m =>
        partValue sl.fmt sl.mode (fromOf g m).parts i (first + j))))
      let e := if gOutFmt g = 0 then 4 else 2
      let left := out.countP (fun x => x.2)
      let q := squareUnits (out.map (fun x => x.1))
      let s1 := bump (page + Reg.SIL_ADDENDS) (n * (included g).length + (if gClip g = 0 then 0 else n)) s
      let s2 := if left = 0 then s1 else setPend page 16 (bumpSat (page + Reg.SIL_OVF) left s1)
      let r := vWrite (engAt die 18) g.ctx (gGrad g + e * first) (clean (out.flatMap (fun x => toBytes e x.1))) s2
      let was := (tgetD g.norm i ⟨0, false⟩).sum
      r.1 = none → exec (.windowReduce gs w) s = .next (done (if gClip g = 0 then r.2 else
        modSil gs (fun g => { g with norm := tmod g.norm i ⟨0, false⟩ (fun a => ⟨a.sum + q.sum, a.nonfin || q.nonfin⟩) })
          (if was < laneBound ∧ laneBound ≤ was + q.sum then setPend page 16 (bumpSat (page + Reg.SIL_OVF) 1 r.2) else r.2))))) ∧
    (∀ i n, gClip g ≠ 0 → txFits s g.ctx (gDie g) 1 = true → i < g.slices.length → (sliceAt g i).owner = gSelf g → g.mode = .ordinary → g.clips.any (fun x => x.1 == i) = false →
      sliceReduced g i = true → normScope g i = some n → let f := clipFactor (gClipMax g) n
      let shown := if n.2.1 then 0x7FC00000 else if n.2.2 then 0x7F800000 else toFp32 (.fin false n.1 (-160))
      let s1 := modSil gs (fun g => { g with clips := tset g.clips i (f, shown) }) s
      (f = 0x3F800000 → exec (.clipFactor gs i) s = .next s1) ∧
      (f ≠ 0x3F800000 → let eng := engAt (gDie g) 18
        let r := vRead eng g.ctx (gGrad g + 4 * (sliceAt g i).off) (4 * (sliceAt g i).elems) s1
        ∀ l, r.1 = .ok l →
        let w := vWrite eng g.ctx (gGrad g + 4 * (sliceAt g i).off) (clean ((chunks 4 (sliceAt g i).elems (bare l)).flatMap (fun b =>
          toBytes 4 (toFp32 (valMul (fp32 (ofBytes b)) (fp32 f)))))) r.2
        w.1 = none → exec (.clipFactor gs i) s = .next w.2)) ∧
    (∀ i r, g.runs.find? (fun r => r.op == 4 && r.slice == i) = some r → g.mode = .ordinary → g.capture = none → g.final = true →
      sliceWritten g i = true → (∀ m ∈ included g, (fromOf g m).closed.isSome = true) →
      exec (.awaitComplete gs i) s = .next (match tget? g.gradFail i with
        | none => runEnd gs r zsOk 0 (stepRecord g i) s
        | some (c, u) => runEnd gs r c u [] s)) ∧
    (ownedBy g (gSelf g) ≠ [] → g.readySent = false → g.updateBad = false → silMute g 5 = false → g.runs.any (fun r => r.op == 5) = false →
      (∀ i ∈ ownedBy g (gSelf g), (sliceAt g i).paramBytes ≤ tgetD g.updated i 0) →
      let secure := bit (reg s (cadPage s + Reg.CAD_STATUS)) 0
      exec (.readySend gs) s = .next (silSettle gs (forL (List.range (gMembers g)) (fun i s =>
        silSend (gDie g) gs i (ctlSeg s g 5 0 0 1 (toBytes 1 (b2n secure))) none s) (modSil gs (fun g => { g with readySent := true }) s)))) ∧
    (commitReady g = true → g.runs.any (fun r => r.op == 6) = true → exec (.commitComplete gs) s = .next (commitStep gs s)) ∧
    (commitReady g = false → exec (.commitTimeout gs) s = .next (commitsEnd gs zsTimeout 0x91 [] s)) ∧
    (∀ m, m ≠ gSelf g → m < gMembers g → exec (.memberSilent gs m) s = .next (memberFailed gs m s))

/-- Step state (R391, R394 to R396, R403): a complete capture is sealed, its header with its CRC last, and a notice posted; secure-now is
raised once; failure events less than 1,000,000 ticks apart count as one, and another adjusts CAD_M and the interval; a store that nobody
claims is scrubbed; the first member whose JOIN_ACK comes is the source of the fill, and gives the group its step, and another is noted; a
fill segment is written into the parameters and acknowledged, and the last one makes the group's image complete. -/
def Obligations.StepStateEventsComplete : Prop :=
  ∀ s : State,
    (∀ gs g cap r, silAt s gs = some g → g.capture = some cap → storeOf s g = some r →
      let fs := slotFrames r cap.slot
      let a := settleSources g fs s.draws (recSources s g cap.step) { s with draws := s.draws + 1 }
      let b := forL (recTables a g) (fun t s => slotWrite fs t.1 (clean t.2) s) a
      let h := recHeader b g cap.step
      let c := modSil gs (fun g => { g with capture := none }) (slotWrite fs 0 (clean (h ++ toBytes 4 (crc32c h))) b)
      exec (.secureSeal gs) s = .next (secureNotice { g with commitCpl := cap.cplQ } 1 zsOk cap.slot cap.step 0
        (cadSealed (c.time - cap.since) c)) ∧
      ∀ g', silAt c gs = some g' → g'.capture = none) ∧
    (bit (reg s (cadPage s + Reg.CAD_STATUS)) 0 = false → exec .secureNow s = .next (setPend (cadPage s) 4 (cadStatus 0 true s))) ∧
    (∀ last, s.cadence.lastEvent = some last → (s.time - last < 1000000 → exec .cadEventIn s = .next s) ∧
      (1000000 ≤ s.time - last → let m : Int := reg s (cadPage s + Reg.CAD_M)
        ∃ t, exec .cadEventIn s = .next t ∧ t.cadence.lastEvent = some s.time ∧
          t = { s with cadence := t.cadence, regs := t.regs, sys := t.sys } ∧
          t = cadRetime (bumpSat (cadPage s + Reg.CAD_EVENTS) 1 (setReg (cadPage s + Reg.CAD_M)
            (wrap 64 (m + Int.tdiv (((s.time - last : Nat) : Int) - m) 8)) { s with cadence := { s.cadence with lastEvent := some s.time } })))) ∧
    (s.cadence.lastEvent = none → exec .cadEventIn s =
      .next (bumpSat (cadPage s + Reg.CAD_EVENTS) 1 { s with cadence := { s.cadence with lastEvent := some s.time } })) ∧
    (∀ i r, s.stores[i]? = some r → r.group = 0 → claimOver s r = true → exec (.claimWindowExpiry i) s =
      .next (forL (r.slotA ++ r.slotB) (fun f s => scrubRange f 65536 s) { s with stores := s.stores.eraseIdx i })) ∧
    (∀ port head body r t gs member g, let p := carrying head body; answersJoin s p = true → bytesAt p.body 5 1 ≠ 1 → Answers opSilAck port p r s t → r.issuer = .join gs member →
      let u := fabOk r t
      silAt u gs = some g →
      (g.mode = .joining → exec (.joinAck port head body) s = .next (settleUnmaps (fillChanged (modCtx g.ctx (fun x => { x with step := bytesAt p.body 8 8 })
        (modSil gs (fun g => { g with mode := .copying, fill := { g.fill with acked := [member], source := some member } }) u))))) ∧
      (g.mode = .copying → exec (.joinAck port head body) s =
        .next (settleUnmaps (modSil gs (fun g => { g with fill := { g.fill with
          acked := sinsert g.fill.acked member, source := (sinsert g.fill.acked member).head? } }) u)))) ∧
    (∀ port head ext payload gs g t, let p := carrying head (ext ++ payload); SegmentFor port p s gs g t → (segOf p.body).kind = 9 → silAt t gs = some g →
      let x := segOf p.body
      (g.mode ≠ .copying → exec (.fillSegment port head ext payload) s = .next (silAnswer gs p zsLateDropped 0x02 t)) ∧
      (g.mode = .copying → x.slice < g.slices.length → x.first + x.payload.length ≤ (sliceAt g x.slice).paramBytes →
        let w := vWrite (engAt (gDie g) 18) g.ctx (gParamBase g (gStep t g) + (sliceAt g x.slice).paramOff + x.first) (clean x.payload) t
        let u := modSil gs (fun g => { g with fill := { g.fill with bytes := g.fill.bytes + x.payload.length } }) w.2
        w.1 = none → exec (.fillSegment port head ext payload) s = .next (silAnswer gs p zsOk 0 (if paramTotal g ≤ g.fill.bytes + x.payload.length
          then fillChanged (modSil gs (fun g => { g with mode := .image }) u) else u))))

/-! ## Links -/

/-- Frames and control flits of a port that is UP (R326 to R328, R336, R339, R350). A frame whose codewords and tag are good is counted and
its flits can be taken; a bad tag only raises RVL_AUTH_FAIL, a discarded codeword drops the frame; the open frame closes and leaves; after
2^32 frames the next key pair is used. A control flit takes one flit of a verified frame, and none is taken where there is none: ACK frees
what it acknowledges, NAK and an overdue packet start a resend from it, CREDIT returns credits to at most 512, IDLE does no more, TSYNC is
answered, or enters a measured flight. TSYNC_EXCHANGE sends the transmit timestamp, and the timer the last SEQ received in order and the
credits owed. -/
def Obligations.LinkFramesAndFlitsComplete : Prop :=
  ∀ (s : State) (port : Nat), portUp s port = true → let l := portOf s port; let a := linkPage port
    (∀ flits corr, ∃ t, exec (.linkFrameRx port flits corr 0 true) s = .next t ∧
      OnlyPort port [a + Reg.RVL_FEC_CORR, a + Reg.RVL_FEC_UNCORR, a + Reg.RVL_RX_FLITS] s t ∧ portOf t port = { l with frameRx := l.frameRx + 1, rxFlits := l.rxFlits + flits } ∧
      reg t (a + Reg.RVL_FEC_CORR) = (reg s (a + Reg.RVL_FEC_CORR) + corr) % 2 ^ 64 ∧
      reg t (a + Reg.RVL_RX_FLITS) = (reg s (a + Reg.RVL_RX_FLITS) + flits) % 2 ^ 64) ∧
    (∀ flits corr, ∃ t, exec (.linkFrameRx port flits corr 0 false) s = .next t ∧
      OnlyRegs [a + Reg.RVL_FEC_CORR, a + Reg.RVL_FEC_UNCORR, a + Reg.RVL_AUTH_FAIL] s t ∧
      reg t (a + Reg.RVL_AUTH_FAIL) = sat32 (reg s (a + Reg.RVL_AUTH_FAIL) + 1)) ∧
    (∀ flits corr n ok, n ≠ 0 → ∃ t, exec (.linkFrameRx port flits corr n ok) s = .next t ∧
      OnlyRegs [a + Reg.RVL_FEC_CORR, a + Reg.RVL_FEC_UNCORR] s t ∧
      reg t (a + Reg.RVL_FEC_UNCORR) = (reg s (a + Reg.RVL_FEC_UNCORR) + n) % 2 ^ 64) ∧
    (l.openData ≠ [] → let t := modPort port (fun l => { l with openData := [] }) (sendFrame port l.openData s)
      exec (.frameCloseTimeout port) s = .next t ∧ t = { s with ports := t.ports, outbox := t.outbox } ∧
      (∀ p, p ≠ port → portOf t p = portOf s p) ∧ portOf t port = { l with frameTx := l.frameTx + 1, openData := [] }) ∧
    (2 ^ 32 ≤ l.frameTx ∨ 2 ^ 32 ≤ l.frameRx → ∃ t, exec (.keyRollover port) s = .next t ∧ OnlyPort port [] s t ∧
      portOf t port = { l with keyPhase := (l.keyPhase + 1) % 256, frameTx := 0, frameRx := 0 }) ∧
    (1 ≤ l.rxFlits → let s1 := modPort port (fun l => { l with rxFlits := l.rxFlits - 1 }) s
      (∀ seq, let r := ackUpTo seq l.replay
        exec (.ack port seq) s = .next (pumpPort port (modPort port (fun l =>
          { l with replay := r, resends := if r.length = l.replay.length then l.resends else 0 }) s1))) ∧
      (∀ seq, exec (.nak port seq) s = .next (resendFrom port seq
        (modPort port (fun l => { l with replay := ackUpTo ((seq + 2 ^ 24 - 1) % 2 ^ 24) l.replay }) s1))) ∧
      (∀ counts, l.txq = [] → ∃ t, exec (.credit port counts) s = .next t ∧ OnlyPort port [] s t ∧
        (∀ v, v < 8 → creditOf (portOf t port) v = min 512 (creditOf l v + counts.getD v 0)) ∧
        portOf t port = { l with credits := (portOf t port).credits, rxFlits := l.rxFlits - 1 }) ∧
      exec (.idle port) s = .next s1 ∧
      (∀ t1 st, let s2 := modPort port (fun l => { l with rxFlits := l.rxFlits - 1, peerStratum := st % 16 }) s
        (∀ t2 t3 t4, t2 = none ∨ t3 = none → exec (.tsync port t1 t2 t3 t4 st) s = .next (sendTsync port [t1, stamp s2, stamp s2] (reStratum s2))) ∧
        ∀ t2 t3 t4, let u := reStratum (enterFlight port (tsyncFlight t1 t2 t3 t4) s2)
          exec (.tsync port t1 (some t2) (some t3) t4 st) s = .next (if bits (reg u (bntPage + Reg.BNT_DISC)) 1 0 = 1 ∧
            bits (reg u (rvlDie u + Reg.RVL_TIME)) 9 4 = port then servoMeasure (tsyncOffset t1 t2 t3 t4) u else u))) ∧
    (l.rxFlits = 0 → (∀ seq, exec (.ack port seq) s = .next s ∧ exec (.nak port seq) s = .next s) ∧
      (∀ counts, exec (.credit port counts) s = .next s) ∧ exec (.idle port) s = .next s ∧
      ∀ t1 t2 t3 t4 st, exec (.tsync port t1 t2 t3 t4 st) s = .next s) ∧
    (∀ p r, l.replay = p :: r → exec (.replayTimeout port) s = .next (resendFrom port p.seq s)) ∧
    exec (.tsyncExchange port) s =
      .next (sendControl port 3 [stamp s, bits (reg s (rvlDie s + Reg.RVL_TIME)) 3 0, position s] s) ∧
    (let u := sendControl port 0 [(l.rxSeq + 2 ^ 24 - 1) % 2 ^ 24] s;
      (l.owed = [] → exec (.controlFlitTimer port) s = .next u) ∧
      (l.owed ≠ [] → exec (.controlFlitTimer port) s = .next (modPort port (fun l => { l with owed := [] })
        (sendControl port 2 ((List.range 8).map (fun v => tgetD l.owed v 0)) u))))

/-- Bring-up goes phase by phase from 1 to UP (R348): training, the HELLO that meets a peer, the handshake with a fresh draw, the record of the
peer and its secret unless TLV 7 denies it, the link epoch, sixteen exchanges. A port that trains too long goes DOWN, and its replay buffer
is discarded unless it has met the recorded peer (R337); a DOWN port whose pair is open trains again; and each cause of R349 starts the
training of an UP port again, counted and logged. -/
def Obligations.LinkBringUpRuns : Prop :=
  ∀ (s : State) (port : Nat), let l := portOf s port
    (∀ h : PeerHello,
      (l.phase = 1 → bits (reg s (linkPage port + Reg.RVL_BYPASS)) 3 2 = 0 →
        exec (.bringupPhaseComplete port h) s = .next (startTraining port s)) ∧
      (l.phase = 2 → ∃ t, exec (.bringupPhaseComplete port h) s = .next t ∧ OnlyPort port [] s t ∧ portOf t port = { l with phase := 3 }) ∧
      (l.phase = 3 → exec (.bringupPhaseComplete port h) s =
        .next (sendHello port (setPortState port 3 (modPort port (fun l => { l with phase := 4 }) s)))) ∧
      (l.phase = 4 → ∃ t, exec (.bringupPhaseComplete port h) s = .next t ∧
        t = { s with ports := t.ports, draws := s.draws + 1, outbox := t.outbox } ∧ (∀ p, p ≠ port → portOf t p = portOf s p) ∧
        portOf t port = { l with phase := 5, met := h.identity, metPosition := h.position, metEpoch := h.epoch, metSeq := h.seq, shake := some s.draws } ∧
        t.outbox.length = s.outbox.length + 1) ∧
      (l.phase = 5 → deviceDenied s l.met = true → exec (.bringupPhaseComplete port h) s = .next s) ∧
      (l.phase = 5 → deviceDenied s l.met = false → ∃ t, exec (.bringupPhaseComplete port h) s = .next t ∧
        t = { s with regs := t.regs, ports := t.ports, outbox := t.outbox } ∧ RegsOnly [linkPage port + Reg.RVL_PEER] s t ∧
        reg t (linkPage port + Reg.RVL_PEER) = l.metPosition % 2 ^ 16 + 2 ^ 16 ∧ (∀ p, p ≠ port → portOf t p = portOf s p) ∧
        portOf t port = { l with phase := 6, same := l.peer == some l.met, peer := some l.met, resume := l.shake, shake := none,
                                 frameTx := 0, frameRx := 0, keyPhase := 0, openData := [], rxFlits := 0 }) ∧
      (l.phase = 6 → exec (.bringupPhaseComplete port h) s =
        .next (modPort port (fun l => { l with phase := 7, tsyncs := 0 }) (agreeEpoch port s))) ∧
      (l.phase = 7 → 16 ≤ l.tsyncs → exec (.bringupPhaseComplete port h) s = .next (portComesUp port s))) ∧
    (2 ≤ l.phase → exec (.trainLimitExpiry port) s =
      .next (setPortState port 0 (countRetrain port (modPort port (fun l => { l with phase := 0, shake := none })
        (if 5 ≤ l.phase ∧ l.peer = some l.met ∧ (l.phase = 5 ∨ l.same = true) then s else dropReplay port s))))) ∧
    (portState s port = 0 → bits (reg s (linkPage port + Reg.RVL_BYPASS)) 3 2 = 0 → exec (.trainRetry port) s = .next (startTraining port s)) ∧
    (portUp s port = true →
      let u (cause : Nat) : State := startTraining port (countRetrain port (logDry (linkHome port).1 7 0x0016 [port, cause] s))
      (∀ lane, lane < 8 → exec (.lossOfSignal port lane) s = .next (u 1)) ∧ exec (.uncorrCodewordLimit port) s = .next (u 2) ∧
      exec (.tagFailureLimit port) s = .next (u 3) ∧ exec (.rxSilence port) s = .next (u 5) ∧ exec (.retrain port) s = .next (u 6))

/-- Bypass pairs, the routing table and the position (R341, R342, R344, R345, R351 to R353). OPEN starts the switch of a pair that is not held;
HOLD sets or clears its bit and, set, brings the pair to bypass; a settled switch rests at its commanded position. A route entry is written in
the one table that every live die reads; the position changes on every live die; the end of a hold sends what it kept, in order. -/
def Obligations.BypassAndRoutesComplete : Prop :=
  ∀ s : State,
    (∀ pair, pair < 18 → exec (.openBypass pair) s = .next (openPair pair s)) ∧
    (∀ pair v, pair < 18 → let u := forL [2 * pair, 2 * pair + 1] (fun k s => setField (linkPage k + Reg.RVL_BYPASS) 1 1 (b2n v) s) s
      exec (.hold pair v) s = .next (if v then toBypass pair u else u)) ∧
    (∀ pair, (switchOf s pair).moving = true →
      ((switchOf s pair).toOpen = true → ∃ t, exec (.bypassSwitchSettled pair) s = .next t ∧
        t = { s with regs := t.regs, switches := t.switches } ∧ switchOf t pair = { switchOf s pair with moving := false } ∧
        (∀ p, p ≠ pair → switchOf t p = switchOf s p) ∧
        RegsOnly [linkPage (2 * pair) + Reg.RVL_BYPASS, linkPage (2 * pair + 1) + Reg.RVL_BYPASS] s t) ∧
      ((switchOf s pair).toOpen = false → exec (.bypassSwitchSettled pair) s = .next (restBypass pair s))) ∧
    (∀ die v, dieLive s die = true → let d := bits (reg s (rvlPage die + Reg.RVL_ROUTE_SEL)) 15 0
      ∃ t, exec (.rvlRouteDataWrite die v) s = .next t ∧ t = { s with routes := t.routes } ∧
        tgetD t.routes d 0 = v % 2 ^ 37 ∧ ∀ e, e ≠ d → tgetD t.routes e 0 = tgetD s.routes e 0) ∧
    (∀ die v, dieLive s die = true → ∃ t, exec (.rvlPositionWrite die v) s = .next t ∧
      OnlyRegs ((liveDies s).map (fun d => rvlPage d + Reg.RVL_POSITION)) s t ∧
      ∀ d ∈ liveDies s, reg t (rvlPage d + Reg.RVL_POSITION) = v % 2 ^ 24) ∧
    (∀ old r, s.routeHolds = old :: r → exec .routeHoldEnd s = .next (forL s.heldPkts (fun h s =>
      match routePkt (if h.1 = 36 then none else some h.1) h.2 s with
      | (true, s) => s
      | (false, s) => unreachable (if h.1 = 36 then (liveDies s).headD 0 else (linkHome h.1).1) h.2
          (freeFlits (some (h.1, h.2.vc)) (pktFlits h.2) s)) { s with routeHolds := r, heldPkts := [] }))

/-- Requests that arrive for this package and pass the checks of R347 are performed and answered: PUT writes, GET reads, ATOM and RED act on
memory, MSG reaches its endpoint, and the segments of Sillage act on their group (R290, R321, R347, R403, R404). A request that a check
refuses is answered with NACK and its code, and the window and the page record it (R25, R347). -/
def Obligations.ArrivingRequestsArePerformed : Prop :=
  ∀ (s : State) (port : Nat) (p : Packet) (t : State),
    (∀ c u, pktCheck p.body = p.check → judgeMemReq t p = .error (c, u) →
      let no := memNack (arrDie t port) p c u (recInbound (arrDie t port) p c t)
      (Delivers opPut port p s t → exec (.put port p) s = .next no) ∧ (Delivers opGet port p s t → exec (.get port p) s = .next no) ∧
      (Delivers opAtom port p s t → exec (.atomPacket port p) s = .next no) ∧ (Delivers opRed port p s t → exec (.redPacket port p) s = .next no)) ∧
    (∀ w, pktCheck p.body = p.check → judgeMemReq t p = .ok w → let va := (w.base + bytesAt p.body 0 8) % 2 ^ 64
      (Delivers opPut port p s t → exec (.put port p) s = .next (takePut p w va t)) ∧
      (Delivers opGet port p s t → let r := gRead (engAt p.epHome 20) w.ctx va (memReqLen p) t
        (∀ l, r.1 = .ok l → exec (.get port p) s = .next (memAnswer p opData (poisonMaskOf (bytesAt p.body 0 8) l) (bare l) r.2)) ∧
        (∀ c u a, r.1 = .error (c, u, a) → exec (.get port p) s = .next (memUntranslated p w c u r.2))) ∧
      (Delivers opAtom port p s t → exec (.atomPacket port p) s = .next (takeAtom false p w va t)) ∧
      (Delivers opRed port p s t → exec (.redPacket port p) s = .next (takeAtom true p w va t))) ∧
    (Delivers opMsg port p s t → pktCheck p.body = p.check → pktStale t p = false → let h := pktEp 9 p
      judgeHandle t (ctxHandle t p.ctxSlot) h 9 = zsOk → ∀ ep, endpointOf t h = some ep → ep.queue ≠ 0 →
      let r := judgeMessage h p.roleEpoch p.src (hSlot (pktIssuer p).1) p.ack (zeros 8 ++ p.body.drop 16) t
      exec (.msg port p) s = .next (if r.1 = zsOk then respond p.epHome p (pktIssuer p).1 opMsgAck (pktIssuer p).2 zsOk 0 0 [] r.2
        else nackPkt p.epHome p r.1 0 r.2)) ∧
    (∀ gs g, SegmentFor port p s gs g t → let x := segOf p.body
      (1 ≤ x.kind → x.kind ≤ 6 → exec (.sil port p) s = .next (takeSil gs g x p t)) ∧
      (x.kind = 0 ∨ 9 < x.kind → exec (.sil port p) s =
        .next (nackPkt p.epHome p zsLateDropped 0x02 (bumpSat (silPage p.epHome + Reg.SIL_STEP_SKEW) 1 t))) ∧
      (x.kind = 7 → exec (.joinSegment port p) s = .next (sendResponse p.epHome p.src opSilAck (pktIssuer p).1 false
        (respExt (pktIssuer p).2 zsOk 0 (gStep t g))
        (takeJoin gs x.sender (BitVec.ofNat 64 (bytesAt x.payload 0 8)) (bytesAt x.payload 8 2) t))) ∧
      (x.kind = 8 → exec (.rollback port p) s = .next (silAnswer gs p zsOk 0 (takeRollback gs (bytesAt x.payload 0 8) (cadEvent t)))))

/-- Responses that match a request in flight end it (R126, R290, R308, R332): DONE completes a put or RED, DATA delivers what was read, NACK
fails it with its code, MSG_ACK answers a QUE.SEND, SIL_ACK acknowledges a segment and returns credit; a request with no response times
out. After each, an OBJ_DESTROY that waited for the last access through its window is answered (R131). -/
def Obligations.ResponsesEndTheirRequests : Prop :=
  ∀ (s : State) (port : Nat) (p : Packet) (t : State) (r : FabReq),
    (Answers opDone port p r s t →
      (∀ loom skein lcv th, r.issuer = .put loom skein lcv th →
        exec (.donePacket port p) s = .next (settleUnmaps (fabThreadDone loom skein lcv th (fabOk r t)))) ∧
      (∀ ch, r.issuer = .dma ch none → exec (.donePacket port p) s =
        .next (settleUnmaps (dmaPump (dmaWrote ch r.len (dmaTagDone r.tag zsOk 0 (fabOk r t))))))) ∧
    (Answers opData port p r s t → let mask := bytesAt p.body 8 8; let data := p.body.drop 16
      (∀ loom skein lcv th regs width, r.issuer = .thread loom skein lcv th regs width →
        exec (.dataPacket port p) s = .next (settleUnmaps (threadData r loom skein lcv th regs width mask data t))) ∧
      (∀ ch dst run, r.issuer = .dma ch (some dst) → let u := dmaTagDone r.tag zsOk 0 (fabOk r t)
        dmaRunOf u ch = some run → run.status = zsOk → exec (.dataPacket port p) s = .next (settleUnmaps (dmaPump (dmaWrite ch run.ctx dst
          (maskedBytes (r.va + (tget? t.windows (windowKey r.die r.window)).elim 0 (fun w => w.base)) mask (data.take r.len)) [] u))))) ∧
    (Answers opNack port p r s t →
      exec (.nackPacket port p) s = .next (settleUnmaps (fabFailed r.tag (bytesAt p.body 4 1) (bytesAt p.body 5 1) t))) ∧
    (Answers opMsgAck port p r s t → ∀ loom skein lcv, r.issuer = .send loom skein lcv →
      exec (.msgAck port p) s = .next (settleUnmaps (sendAnswered loom skein lcv (bytesAt p.body 4 1) (fabOk r t)))) ∧
    (Answers opSilAck port p r s t → bytesAt p.body 5 1 ≠ 1 → ∀ gs i, r.issuer = .sil gs i →
      ∀ head body, carrying head body = p → exec (.silAck port head body) s = .next (settleUnmaps (silAnswered gs i r.tag zsOk 0 (takeCredit p (fabOk r t)).2))) ∧
    (∀ tag q, fabFind s tag = some q → exec (.fabricTimeout tag) s = .next (settleUnmaps (fabFailed tag zsTimeout 0 s)) ∧
      ((∀ gs i, q.issuer ≠ .sil gs i) → (∀ gs i, q.issuer ≠ .join gs i) → (∀ ch d, q.issuer ≠ .dma ch d) →
        fabFailed tag zsTimeout 0 s = fabFail tag zsTimeout 0 s))

/-! ## Service and management ports -/

/-- Service and management ports (R358 to R364, R368 to R371). BIND_HELLO is answered with the package's certificate, key and nonce, and
noted; BIND_FINISH binds the port to the identity, with the keys of the exchange, in place of a silent one. A chain, root or signature that
fails, and another identity that is bound, are refused. PING is answered with the incarnation, and UNBIND is answered before the binding
ends; a link that has been down too long ends it as well. A datagram whose header is refused is answered so. A link goes down and comes up.
ARP and echo requests for the port's own address are answered; those for another, a frame of another VLAN or network layer, and an
unsupported one are dropped, and a frame that MACsec drops on a bound service port is counted. -/
def Obligations.ServicePortsBindAndAnswer : Prop :=
  ∀ (s t0 : State) (z : ZjpReq), let page := svcPage z.port
    (FrameOn z.port z.frame s t0 → zjpServed t0 z.port = true →
      (failedNow t0 = false →
        (∀ id : Nat, let own := decide (boundTo? t0 z.port = some id); let heard := if own then zjpHeard z.port t0 else t0
          (boundTo? t0 z.port = some id → cacheView (cacheOf heard z.port) z.reqId = .fresh) →
          (let u := zjpNote z.port 1 id heard
            ∀ b, sha512Nat b.key = id →
              (∀ sub, certFails u z.port b = some sub → exec (.bindHello z b) s = .next (bindAnswer own z 1 zsAuthFail sub [] u)) ∧
              (certFails u z.port b = none → bindRefused u z.port id = true → exec (.bindHello z b) s = .next (bindAnswer own z 1 zsDenied 0xB1 [] u)) ∧
              (certFails u z.port b = none → bindRefused u z.port id = false →
                ∃ t, exec (.bindHello z b) s = .next (bindAnswer own z 1 zsOk 0 (helloBody u.draws) t) ∧
                  t = { u with regs := t.regs, intRaised := t.intRaised, svc := t.svc, draws := u.draws + 1 } ∧
                  svcOf t z.port = { svcOf u z.port with
                    hellos := (svcOf u z.port).hellos.filter (fun h => h.identity != id) ++ [⟨id, b.ecdh, b.nonce, u.draws⟩] } ∧
                  (∀ p, p ≠ z.port → svcOf t p = svcOf u p) ∧
                  svcState t z.port = if svcState u z.port = 1 then 2 else svcState u z.port)) ∧
          (let u := zjpNote z.port 2 id heard
            let v := modSvc z.port (fun p => { p with hellos := p.hellos.filter (fun h => h.identity != id) }) u
            ((svcOf u z.port).hellos.find? (fun h => h.identity == id) = none →
              ∀ sig, exec (.bindFinish z id sig) s = .next (bindAnswer own z 2 zsDenied 0xB1 [] u)) ∧
            ∀ h, (svcOf u z.port).hellos.find? (fun h => h.identity == id) = some h →
              exec (.bindFinish z id false) s = .next (bindAnswer own z 2 zsAuthFail 0x02 [] v) ∧
              (bindRefused v z.port id = true → exec (.bindFinish z id true) s = .next (bindAnswer own z 2 zsDenied 0xB1 [] v)) ∧
              (bindRefused v z.port id = false → let w := forL (rivals v z.port id) unbindPort v
                ∃ t, exec (.bindFinish z id true) s = .next (zjpAnswer z.port z.reqId 2 z.ctx zsOk 0 [] t) ∧
                  t = { w with regs := t.regs, intRaised := t.intRaised, svc := t.svc } ∧
                  svcOf t z.port = { svcOf w z.port with bound := some id, keys := Config.bindKeys h.draw h.ecdh h.nonce, lastHeard := w.time } ∧
                  (∀ p, p ≠ z.port → svcOf t p = svcOf w p) ∧ svcState t z.port = 3 ∧ reg t (page + Reg.SVP_PARTNER) = id % 2 ^ 64))) ∧
        (∀ id, boundTo? t0 z.port = some id → cacheView (cacheOf (zjpHeard z.port t0) z.port) z.reqId = .fresh → let u := zjpHeard z.port t0
          exec (.ping z) s = .next (zjpAnswer z.port z.reqId 4 z.ctx zsOk 0 [] (zjpNote z.port 4 id u)) ∧
          (svcState t0 z.port = 3 →
            exec (.unbind z) s = .next (unbindPort z.port (zjpAnswer z.port z.reqId 3 z.ctx zsOk 0 [] (zjpNote z.port 3 id u))))) ∧
        (boundTo? t0 z.port = none → exec (.ping z) s = .next (zjpPlain z.port z.reqId 4 z.ctx zsOk 0 [] (zjpNote z.port 4 0 t0)))) ∧
      (∀ d, svcState t0 z.port = 3 → (boundTo? t0 z.port).isSome = true → 32 ≤ d.length → bit (bytesAt d 1 1) 0 = false →
        (headerRefusal d = none → exec (.zjpUnsupported z.port z.frame d) s = .next t0) ∧
        ∀ st sub, headerRefusal d = some (st, sub) → let z' := datagramReq z.port z.frame d; let u := zjpHeard z.port t0
          cacheView (cacheOf u z.port) z'.reqId = .fresh →
          exec (.zjpUnsupported z.port z.frame d) s = .next (zjpAnswer z.port z'.reqId (bytesAt d 2 2) z'.ctx st sub [] u))) ∧
    (downTooLong s z.port = true → exec (.partnerTimeout z.port) s = .next (unbindPort z.port s)) ∧
    (portExists s z.port = true → svcState s z.port ≠ 0 → ∃ t, exec (.serviceLinkDown z.port) s = .next t ∧
      t = { s with regs := t.regs, intRaised := t.intRaised, svc := t.svc } ∧ svcState t z.port = 0 ∧ (∀ p, p ≠ z.port → svcOf t p = svcOf s p) ∧
      svcOf t z.port = { svcOf s z.port with downSince := some s.time, hellos := [] }) ∧
    (linkMayRise s z.port = true → svcState s z.port = 0 → ∀ baser, ∃ t, exec (.serviceLinkUp ⟨z.port, baser⟩) s = .next t ∧
      t = { s with regs := t.regs, intRaised := t.intRaised, svc := t.svc } ∧
      svcState t z.port = (if (boundTo? s z.port).isSome then 3 else 1) ∧ (∀ p, p ≠ z.port → svcOf t p = svcOf s p) ∧
      (isMgmt z.port = true → bit (reg t (page + Reg.MGP_STATE)) 2 = baser) ∧
      svcOf t z.port = { svcOf s z.port with downSince := none }) ∧
    (∀ addr data, let f := z.frame
      (FrameOn z.port f s t0 →
        (ownAddress t0 z.port f.v6 addr = true →
          exec (.neighbourDiscovery z.port f addr) s =
            .next (emit (.frame z.port 0 [b2n f.v6, addr, reg t0 (page + Reg.SVP_MAC) % 2 ^ 48] []) (countTx z.port 1 t0)) ∧
          exec (.icmpEcho z.port f addr data) s = .next (emit (.frame z.port 1 [b2n f.v6, addr] data) (countTx z.port 1 t0))) ∧
        (ownAddress t0 z.port f.v6 addr = false → exec (.neighbourDiscovery z.port f addr) s = .next (countDrop z.port 1 t0) ∧
          exec (.icmpEcho z.port f addr data) s = .next (countDrop z.port 1 t0))) ∧
      (portExists s z.port = true → svcState s z.port ≠ 0 → let rx := countRx z.port 1 s
        (frameOk rx z.port f = false →
          ∀ c ∈ [.ping z, .unbind z, .neighbourDiscovery z.port f addr, .icmpEcho z.port f addr data], exec c s = .next (countDrop z.port 1 rx)) ∧
        exec (.unsupportedFrame z.port false) s = .next (countDrop z.port 1 rx) ∧
        (svcState rx z.port = 3 → isMgmt z.port = false →
          exec (.unsupportedFrame z.port true) s = .next (bump (page + Reg.SVP_MACSEC_DROP) 1 rx))))

/-- A request that was answered is not performed again (R364): the kept response goes out once more, and of the package only the port's
counters, the time at which the partner was last heard and what leaves the package change. One that is still being performed is dropped, and
one older than all 1,024 kept is refused. -/
def Obligations.AnsweredRequestsAreNotPerformedAgain : Prop :=
  ∀ (s u : State) (z : ZjpReq) (id : Nat) (c : Instr),
    ((∃ v n, c = .memRelease z v n) ∨ (∃ g, c = .memGrant z g) ∨ (∃ d, c = .objCreate z d) ∨ (∃ h, c = .objDestroy z h) ∨ c = .admitContext z ∨
      c = .contextDestroy z ∨ c = .contextInfo z ∨ (∃ v b, c = .codeLoad z v b) ∨ (∃ h, c = .roleAssign z h) ∨ (∃ h p, c = .shareEndpoint z h p) ∨
      (∃ p n q, c = .qpConnect z p n q) ∨ (∃ q, c = .qpClose z q) ∨ (∃ v n p, c = .mrRegister z v n p) ∨ (∃ k, c = .mrDeregister z k) ∨ c = .serve z ∨
      c = .mgmtStatus z ∨ c = .drydownRead z ∨ (∃ p, c = .policySet z p) ∨ (∃ r, c = .configWrite z r) ∨ c = .imageWrite z ∨
      (∃ f, c = .fabricSet z f) ∨ c = .recoveryReset z ∨ c = .powerSet z ∨ c = .attest z ∨ c = .testSuspect z ∨ c = .contextKill z ∨
      (c = .ping z ∨ c = .unbind z)) →
    ZjpHeard z id s u →
    (∀ r, cacheView (cacheOf u z.port) z.reqId = .again r → ∃ t, exec c s = .next t ∧
      t = { s with regs := t.regs, svc := t.svc, outbox := s.outbox ++ [.zjp z.port (zjpBytes r)] } ∧
      svcOf t z.port = { svcOf s z.port with lastHeard := s.time } ∧ (∀ p, p ≠ z.port → svcOf t p = svcOf s p) ∧
      RegsOnly [svcPage z.port + Reg.SVP_RX_FRAMES, svcPage z.port + Reg.SVP_TX_FRAMES, svcPage z.port + Reg.SVP_ZJP_DUP] s t) ∧
    (cacheView (cacheOf u z.port) z.reqId = .busy → ∃ t, exec c s = .next t ∧ t = { s with regs := t.regs, svc := t.svc } ∧
      svcOf t z.port = { svcOf s z.port with lastHeard := s.time } ∧ (∀ p, p ≠ z.port → svcOf t p = svcOf s p) ∧
      RegsOnly [svcPage z.port + Reg.SVP_RX_FRAMES, svcPage z.port + Reg.SVP_ZJP_DUP] s t) ∧
    (cacheView (cacheOf u z.port) z.reqId = .old →
      ∃ op, exec c s = .next (zjpPlain z.port z.reqId op z.ctx zsDenied 0xB4 [] (countDup z.port u)))

/-- Requests on contexts and their objects (R31, R131, R266 to R270, R289, R291, R361, R363, R437, R492). Each admitted request is performed on
the live context that it names and answered with its result: ADMIT, CONTEXT_INFO, MEM_GRANT, MEM_RELEASE, CODE_LOAD, OBJ_CREATE and
SHARE_ENDPOINT at once, OBJ_DESTROY once nothing is outstanding through its window, CONTEXT_DESTROY at the end of the teardown that it
starts, ROLE_ASSIGN once the epoch may advance. CONTEXT_KILL starts a teardown and is answered. A context handle that is judged to fail, and
a context that is being torn down, refuse each of them. -/
def Obligations.ContextRequestsArePerformed : Prop :=
  ∀ (s t : State) (z : ZjpReq),
    let done (op st sub : Nat) (r : List Byte) (u : State) : Host.Outcome State Fault Refusal := .next (zjpAnswer z.port z.reqId op z.ctx st sub r u)
    let ok (op : Nat) (r : List Byte) (u : State) : Host.Outcome State Fault Refusal := done op zsOk 0 r u
    let ident := (boundTo? t z.port).getD 0
    (ZjpAdmits z 0x10 s t → let x := admitCtx ident z.body t
      ∀ st sub r, x.1 = some (st, sub, r) → exec (.admitContext z) s = done 0x10 st sub r x.2) ∧
    (∀ c, ZjpActs z 0x11 c s t → exec (.contextDestroy z) s = .next (startTeardown c [(z.port, z.reqId)] t)) ∧
    (∀ c x, ZjpActs z 0x12 c s t → ctxAt t c = some x → exec (.contextInfo z) s = ok 0x12 (descBytes x) t) ∧
    (ZjpAdmits z 0x105 s t →
      ((ctxAt t (ofBytes z.body)).isSome = true → exec (.contextKill z) s = ok 0x105 [] (startTeardown (ofBytes z.body) [] t)) ∧
      (ctxAt t (ofBytes z.body) = none → exec (.contextKill z) s = done 0x105 zsHandleInvalid 0 [] t)) ∧
    (∀ c, ZjpActs z 0x20 c s t → ∀ g, let x := memGrant c g t
      ∀ st sub r, x.1 = some (st, sub, r) → st ≠ zsHandleInvalid → exec (.memGrant z g) s = done 0x20 st sub r x.2) ∧
    (∀ c, ZjpActs z 0x21 c s t → ∀ va n, let x := memRelease c va n t
      ∀ st sub r, x.1 = some (st, sub, r) → st ≠ zsHandleInvalid → exec (.memRelease z va n) s = done 0x21 st sub r x.2) ∧
    (∀ c, ZjpActs z 0x22 c s t → ∀ va code,
      (8192 < code.length + 8 → exec (.codeLoad z va code) s = done 0x22 zsBadDescriptor 0x0E [] t) ∧
      (code.length + 8 ≤ 8192 → vaHeld t c (fun l => l.granted && l.mt == 0) va code.length = false →
        exec (.codeLoad z va code) s = done 0x22 zsDenied 0x8C [] t) ∧
      (code.length + 8 ≤ 8192 → vaHeld t c (fun l => l.granted && l.mt == 0) va code.length = true → ∃ u,
        exec (.codeLoad z va code) s = ok 0x22 [] u ∧
        u = modCtx c (fun x => { x with cm := sha512Nat (toBytes 64 x.cm ++ toBytes 8 va ++ toBytes 8 code.length ++ sha512 code) })
          (forL (if code.isEmpty then [] else leavesIn t c va code.length) (fun l s => loadLeaf c va code l s) t))) ∧
    (∀ c, ZjpActs z 0x30 c s t → ∀ d, let x := createObject c d t
      ∀ st sub r, x.1 = some (st, sub, r) → st ≠ zsHandleInvalid → exec (.objCreate z d) s = done 0x30 st sub r x.2) ∧
    (∀ c, ZjpActs z 0x31 c s t → ∀ h, 2 ≤ hType h → hType h ≤ 9 → judgeHandle t (ctxHandle t c) h (hType h) = zsOk →
      (slotOf t h).owner = ctxHandle t c →
      (windowTags t h = [] → exec (.objDestroy z h) s = ok 0x31 [] (destroyObject h t)) ∧
      (windowTags t h ≠ [] → let u := destroyObject h t
        exec (.objDestroy z h) s = .next { u with unmaps := u.unmaps ++ [⟨z.port, z.reqId, z.ctx, windowTags t h⟩] })) ∧
    (∀ c, ZjpActs z 0x32 c s t → ∀ h e, judgeHandle t (ctxHandle t c) h 9 = zsOk → endpointOf t h = some e →
      let waits := t.heldRoles.any (fun r => r.endpoint == h)
      (mayAdvance t e = true → waits = false → exec (.roleAssign z h) s = ok 0x32 (roleResult (advanceRole h t) h) (advanceRole h t)) ∧
      (mayAdvance t e = false ∨ waits = true → exec (.roleAssign z h) s =
        .next { t with heldRoles := t.heldRoles ++ [⟨h, z.port, z.reqId, toBytes 8 z.ctx.toNat⟩] })) ∧
    (∀ c, ZjpActs z 0x33 c s t → ∀ h peer, judgeHandle t (ctxHandle t c) h 9 = zsOk → (slotOf t h).owner = ctxHandle t c → peer ≠ 0 →
      t.ctxs.any (fun x => x.2.handle == peer) = true → exec (.shareEndpoint z h peer) s = ok 0x33 []
        { t with slots := tupd t.slots (slotKey 9 (hHome h) (hSlot h)) (fun sl =>
          { sl with shared := if sl.shared.contains peer then sl.shared else sl.shared ++ [peer] }) }) ∧
    (∀ g va n code d h peer, ∀ p ∈ [(0x20, Instr.memGrant z g), (0x21, .memRelease z va n), (0x22, .codeLoad z va code), (0x30, .objCreate z d),
        (0x31, .objDestroy z h), (0x32, .roleAssign z h), (0x33, .shareEndpoint z h peer)], ZjpAdmits z p.1 s t →
      (∀ st, judgeCtx t ident z.ctx = st → st ≠ zsOk → exec p.2 s = done p.1 st 0 [] t) ∧
      (judgeCtx t ident z.ctx = zsOk → (ctxAt t (hSlot z.ctx)).any (fun x => x.state == .active) = false → exec p.2 s = done p.1 zsStaleContext 0 [] t))

/-- Serving, SERVICE entries and RDMA (R358, R365 to R367, R376). A SERVE reaches its endpoint's queue and waits; REPLY answers it, or its TIMEOUT
does. RDMA_WRITE, SEND and RDMA_READ leave through a queue pair and complete when they are acknowledged, a read with its data written. Inbound
accesses through an open pair and a region that permits them are DMA in the owning context; one that the region does not permit is answered
with a NAK, a repeated one acknowledged, and one ahead of the expected PSN refused. A pair resends what is not acknowledged, each packet
seven times at most, and is then in error. -/
def Obligations.ServiceTrafficCompletes : Prop :=
  ∀ (s t : State),
    (∀ z : ZjpReq, let ok (op : Nat) (r : List Byte) (u : State) : Host.Outcome State Fault Refusal := .next (zjpAnswer z.port z.reqId op z.ctx zsOk 0 r u)
      (∀ c, ZjpActs z 0x40 c s t → ∀ peer psn qpn, peer < 2 ^ 24 → psn < 2 ^ 24 → qpn < 2 ^ 16 → (svcOf t z.port).qps.length < 1024 →
        qpOf t z.port qpn = none → let own := (Config.random t.draws).toNat % 2 ^ 24
        exec (.qpConnect z peer psn qpn) s = ok 0x40 (toBytes 4 own)
          (modSvc z.port (fun p => { p with qps := p.qps ++ [⟨qpn, peer, z.ctx, own, psn, false, 0, 0⟩] }) { t with draws := t.draws + 1 })) ∧
      (∀ c, ZjpActs z 0x41 c s t → ∀ qpn, (qpOf t z.port qpn).any (fun q => q.ctx == z.ctx) = true →
        exec (.qpClose z qpn) s = ok 0x41 [] (modSvc z.port (fun p => { p with qps := p.qps.filter (fun q => q.qpn != qpn) })
          (failRuns z.port qpn zsTimeout 0xB0 t))) ∧
      (∀ c, ZjpActs z 0x42 c s t → ∀ va len perm, va % 4096 = 0 → 0 < len → len % 4096 = 0 → va + len ≤ 2 ^ 64 → 1 ≤ perm → perm ≤ 3 →
        let k := freeRkey (svcOf t z.port).mrs
        exec (.mrRegister z va len perm) s = ok 0x42 (toBytes 4 k) (modSvc z.port (fun p => { p with mrs := p.mrs ++ [⟨k, z.ctx, va, len, perm⟩] }) t)) ∧
      (∀ c, ZjpActs z 0x43 c s t → ∀ k, (svcOf t z.port).mrs.any (fun m => m.rkey == k && m.ctx == z.ctx) = true →
        exec (.mrDeregister z k) s = ok 0x43 [] (modSvc z.port (fun p => { p with mrs := p.mrs.filter (fun m => m.rkey != k) }) t)) ∧
      (∀ c, ZjpActs z 0x50 c s t → let h := BitVec.ofNat 64 (bytesAt z.body 0 8); let inline := z.body.drop 16
        16 ≤ z.body.length → z.body.length ≤ 56 → bytesAt z.body 10 2 ≠ 0 → bytesAt z.body 12 4 = 0 → (svcOf t z.port).serves.length < 4096 →
        judgeHandle t (ctxHandle t c) h 9 = zsOk →
        let x := judgeEntry h (bytesAt z.body 8 2) (serveEntry t 5 z.port z.reqId inline) (serveEntry t 4 z.port z.reqId inline) t
        (x.1 = zsOk → exec (.serve z) s = .next (modSvc z.port (fun p =>
          { p with serves := p.serves ++ [⟨z.reqId, z.ctx, (endpointOf x.2 h).elim c (fun e => e.ctx), bytesAt z.body 10 2⟩] }) x.2)) ∧
        (x.1 ≠ zsOk → x.1 ≠ zsHandleInvalid → exec (.serve z) s = .next (zjpAnswer z.port z.reqId 0x50 z.ctx x.1 0 [] x.2)))) ∧
    (∀ port id v, (svcOf s port).serves.find? (fun v => v.reqId == id) = some v →
      exec (.serveTimeout port id) s = .next (serveEnd port v zsTimeout 0xB0 [] (zjpError port v.ctx zsTimeout 0xB0 s))) ∧
    (∀ die slot j, SvcTakes die slot s j t →
      (svOp j.entry = 1 →
        ((svcOf t die).serves.find? (fun v => v.reqId == svReq j.entry && v.owner == j.run.ctx) = none →
          exec (.reply die slot) s = .next (svcDone j zsDenied 0xB3 t)) ∧
        ∀ v, (svcOf t die).serves.find? (fun v => v.reqId == svReq j.entry && v.owner == j.run.ctx) = some v →
        (svLen j.entry = 0 → exec (.reply die slot) s = .next (svcDone j zsOk 0 (serveEnd die v (svStatus j.entry) 0 [] t))) ∧
        (svLen j.entry ≠ 0 → let x := svcRead die j.run.ctx (svLocal j.entry) (svLen j.entry) t
          (∀ b, x.1 = .ok b → exec (.reply die slot) s = .next (svcDone j zsOk 0 (serveEnd die v (svStatus j.entry) 0 b x.2))) ∧
          (∀ e, x.1 = .error e → exec (.reply die slot) s = .next (svcDone j e.1 e.2 x.2)))) ∧
      (∀ q, qpOf t die (svQpn j.entry) = some q → q.ctx = ctxHandle t j.run.ctx →
        (q.error = true → ∀ c ∈ [(2, Instr.rdmaWrite die slot), (3, .rdmaRead die slot), (4, .send die slot)],
          svOp j.entry = c.1 → exec c.2 s = .next (svcDone j zsTimeout 0xB0 t)) ∧
        (q.error = false →
          (svOp j.entry = 3 → exec (.rdmaRead die slot) s = .next (svcLaunch j q (rocePkts (svLen j.entry)) [] t)) ∧
          ∀ c ∈ [(2, Instr.rdmaWrite die slot), (4, .send die slot)], svOp j.entry = c.1 →
            let x := svcRead die j.run.ctx (svLocal j.entry) (svLen j.entry) t
            (∀ b, x.1 = .ok b → exec c.2 s = .next (svcLaunch j q (rocePkts (svLen j.entry)) b x.2)) ∧
            (∀ e, x.1 = .error e → exec c.2 s = .next (svcDone j e.1 e.2 x.2))))) ∧
    (∀ port f qpn psn, RoceOn port f qpn s t →
      (∀ r data, (svcOf t port).runs.find? (fun r => r.qpn == qpn) = some r →
        let u := modQp port qpn (fun q => { q with retries := 0, acked := 0 }) (if r.op = 3 then countRx port (rocePkts r.len - 1) t else t)
        (r.op ≠ 3 → exec (.serviceEntryAcked port ⟨f, qpn, psn⟩ data) s = .next (svcComplete port r zsOk 0 [] u)) ∧
        (r.op = 3 → (ctxAt u r.ctx).any (fun x => x.state == .active) = true →
          let x := gWriteC (engAt port 21) r.ctx r.loc (clean ((data ++ zeros (r.len - data.length)).take r.len)) [] u
          (x.1 = none → exec (.serviceEntryAcked port ⟨f, qpn, psn⟩ data) s = .next (svcComplete port r zsOk 0 [] x.2)) ∧
          (∀ e, x.1 = some e → exec (.serviceEntryAcked port ⟨f, qpn, psn⟩ data) s = .next (svcComplete port r e.1 e.2.1 [] x.2)))) ∧
      (∀ q rkey va, qpOf t port qpn = some q →
        (∀ data, let w := countRx port (rocePkts data.length - 1) (modQp port qpn (fun q => { q with peerPsn := (q.peerPsn + rocePkts data.length) % 2 ^ 24 }) t)
          (serialCmp psn q.peerPsn 24 = .equal →
            (∀ c, inboundCtx w port qpn rkey va data.length 1 = some c → let x := inboundWrite port c va (clean data) w
              x.1 = none → exec (.inboundRdmaWrite port ⟨f, qpn, psn⟩ rkey va data) s = .next (roceReply port qpn 3 x.2)) ∧
            (inboundCtx w port qpn rkey va data.length 1 = none →
              exec (.inboundRdmaWrite port ⟨f, qpn, psn⟩ rkey va data) s = .next (inboundNak port qpn 4 w))) ∧
          (serialCmp psn q.peerPsn 24 = .newer → exec (.inboundRdmaWrite port ⟨f, qpn, psn⟩ rkey va data) s = .next (roceReply port qpn 7 t)) ∧
          (serialCmp psn q.peerPsn 24 ≠ .equal → serialCmp psn q.peerPsn 24 ≠ .newer → exec (.inboundRdmaWrite port ⟨f, qpn, psn⟩ rkey va data) s = .next (roceReply port qpn 3 t))) ∧
        (∀ len, let w := modQp port qpn (fun q => { q with peerPsn := (q.peerPsn + rocePkts len) % 2 ^ 24 }) t
          (serialCmp psn q.peerPsn 24 = .equal →
            (∀ c, inboundCtx w port qpn rkey va len 0 = some c → let x := svcRead port c va len w
              ∀ b, x.1 = .ok b → exec (.inboundRdmaRead port ⟨f, qpn, psn⟩ rkey va len) s =
                .next (emit (.frame port 6 [(qpOf x.2 port qpn).elim 0 (fun q => q.peer)] b) (countTx port (rocePkts len) x.2))) ∧
            (inboundCtx w port qpn rkey va len 0 = none →
              exec (.inboundRdmaRead port ⟨f, qpn, psn⟩ rkey va len) s = .next (inboundNak port qpn 4 w))) ∧
          (serialCmp psn q.peerPsn 24 = .newer → exec (.inboundRdmaRead port ⟨f, qpn, psn⟩ rkey va len) s = .next (roceReply port qpn 7 t)) ∧
          (serialCmp psn q.peerPsn 24 ≠ .equal → serialCmp psn q.peerPsn 24 ≠ .newer → exec (.inboundRdmaRead port ⟨f, qpn, psn⟩ rkey va len) s = .next (inboundRead port qpn rkey va len t))))) ∧
    (∀ port qpn q, qpOf s port qpn = some q → q.error = false →
      (∀ r acked, svcState s port = 3 → (svcOf s port).runs.find? (fun r => r.qpn == qpn) = some r →
        let a := max q.acked (min acked (svcSent r.op r.len - 1))
        let tries := if q.acked < a then 0 else q.retries
        let n := roceOpen s port qpn a
        tries < 7 → exec (.roceRetryTimeout port qpn acked) s =
          .next (bump (svcPage port + Reg.SVP_ROCE_RETX) n (countTx port n (modQp port qpn (fun q => { q with retries := tries + 1, acked := a }) s)))) ∧
      (7 ≤ q.retries → exec (.qpRetryExhausted port qpn) s =
        .next (failRuns port qpn zsTimeout 0xB0 (modQp port qpn (fun q => { q with error := true }) s))))

/-- Management requests (R341, R363, R387, R412, R424, R430, R431, R434, R438, R453). Each admitted request is performed and answered:
MGMT_STATUS, DRYDOWN_READ, POLICY_SET and FABRIC_SET at once; RECOVERY_RESET before the reset that it triggers; POWER_SET to ACTIVE before
the wake that it starts, and to DORMANT or STANDBY when the state is reached; IMAGE_WRITE of an image that verifies and CONFIG_WRITE when flash is
written; ATTEST with a signed quote; TEST_SUSPECT when the last loom's test ends. -/
def Obligations.ManagementRequestsArePerformed : Prop :=
  ∀ (s t : State) (z : ZjpReq),
    let ok (op : Nat) (r : List Byte) (u : State) : Host.Outcome State Fault Refusal := .next (zjpAnswer z.port z.reqId op z.ctx zsOk 0 r u)
    (ZjpAdmits z 0x100 s t → exec (.mgmtStatus z) s = ok 0x100 (statusBody t) t) ∧
    (ZjpAdmits z 0x101 s t → z.body.length = 6 → bytesAt z.body 4 2 ≤ 256 →
      exec (.drydownRead z) s = ok 0x101 (drydownResult t (bytesAt z.body 0 4) (bytesAt z.body 4 2)) t) ∧
    (ZjpAdmits z 0x102 s t → ∀ p, exec (.policySet z p) s = ok 0x102 [] (modSys (fun y => { y with policy := p }) t)) ∧
    (ZjpAdmits z 0x106 s t → ∀ f, exec (.fabricSet z f) s = ok 0x106 [] (fabricSet f t)) ∧
    (ZjpAdmits z 0x107 s t → failedNow t = false →
      exec (.recoveryReset z) s = .next (startRecovery 7 0 (zjpAnswer z.port z.reqId 0x107 z.ctx zsOk 0 [] t))) ∧
    (ZjpAdmits z 0x108 s t → z.body.length = 1 → t.sys.entering = none → resetPhase t = 0 →
      (bytesAt z.body 0 1 = 3 → t.sys.power = .on → exec (.powerSet z) s = ok 0x108 [] t) ∧
      (bytesAt z.body 0 1 = 3 → t.sys.power = .dormant →
        exec (.powerSet z) s = .next (startWake (zjpAnswer z.port z.reqId 0x108 z.ctx zsOk 0 [] t))) ∧
      (1 ≤ bytesAt z.body 0 1 → bytesAt z.body 0 1 ≤ 2 → t.sys.power = .on → t.ctxs = [] → twinState t < 2 → exec (.powerSet z) s =
        .next (modSys (fun y => { y with entering := some ⟨bytesAt z.body 0 1, z.port, z.reqId, false⟩ }) t))) ∧
    (ZjpAdmits z 0x104 s t → t.sys.imageWrite = none → imageFails t (z.body.take 4096) (z.body.drop 4096) = none → ∃ u,
      exec (.imageWrite z) s = .next u ∧ u = modSys (fun y => { y with imageWrite := u.sys.imageWrite, banks := u.sys.banks, pulledBank := u.sys.pulledBank }) t ∧
      u.sys.imageWrite = some (z.port, z.reqId) ∧ bankOf u (spareBank t) = ⟨z.body.take 4096, z.body.drop 4096, none⟩ ∧
      (∀ i, i ≠ spareBank t → bankOf u i = bankOf t i)) ∧
    (∀ port id, s.sys.imageWrite = some (port, id) → let i := spareBank s
      exec .imageWriteComplete s = .next (zjpAnswer port id 0x104 0 zsOk 0 [] (modSys (fun y => { y with imageWrite := none })
        (setBank i { bankOf s i with gen := some ((bankOf s s.sys.booted).gen.getD 0 + 1) } s)))) ∧
    (ZjpAdmits z 0x103 s t → t.sys.cfgWrite = none → ∀ r, exec (.configWrite z r) s =
      .next (modSys (fun y => { y with cfgWrite := some (z.port, z.reqId), cfgs := lset y.cfgs (spareCfg t) none (some r) }) t)) ∧
    (∀ port id r, s.sys.cfgWrite = some (port, id) → cfgOf s (spareCfg s) = some r → cfgFails s r = none →
      exec .configWriteComplete s = .next (zjpAnswer port id 0x103 0 zsOk 0 [] (modSys (fun y => { y with cfgWrite := none }) s))) ∧
    (z.body.length = 64 → (z.ctx = 0 → ZjpAdmits z 0x60 s t → ∃ r u, attest none z t = (some (zsOk, 0, r), u) ∧ exec (.attest z) s = ok 0x60 r u ∧
        u = { t with draws := t.draws + 1 } ∧ r.take 4 = toBytes 4 0x4F55515A) ∧
      (z.ctx ≠ 0 → ∀ c, ZjpActs z 0x60 c s t → ∃ r u, attest (some c) z t = (some (zsOk, 0, r), u) ∧ exec (.attest z) s = ok 0x60 r u ∧
        u = { t with draws := t.draws + 1 } ∧ r.take 4 = toBytes 4 0x4F55515A)) ∧
    (∀ c, ZjpActs z 0x61 c s t → z.body.length = 8 → (bytesAt z.body 1 1 = 1 ∨ bytesAt z.body 1 1 = 2) → bytesAt z.body 2 6 = 0 →
      t.suspects.any (fun r => r.ctx == z.ctx) = false → (tget? t.suspectAt c).any (fun x => t.time < x + suspectHoldoff t) = false →
      let dies := (liveDies t).filter (fun d => bit (bytesAt z.body 0 1) d)
      let u := { t with suspectAt := tset t.suspectAt c t.time }
      (dies = [] → exec (.testSuspect z) s = ok 0x61 (zeros 24) u) ∧
      (dies ≠ [] → let w := forL dies (fun d s => forN 32 (fun i s => queueTest d i (bytesAt z.body 1 1) s) s) u
        exec (.testSuspect z) s = .next { w with suspects := w.suspects ++
          [⟨z.ctx, z.port, z.reqId, dies.flatMap (fun d => (List.range 32).map (fun i => d * 32 + i)), [], [], []⟩] }))

/-! ## Field test, recovery, power -/

/-- Field test (R379 to R385): anomaly counts are compared; firmware queues the looms of a mask; a die takes its queued loom of least index,
which stops issue; the test drains, scans, marches and ends, and its outcome is shown and reported. -/
def Obligations.FieldTestRunsItsPhases : Prop :=
  ∀ (s : State),
    (∀ die, dieLive s die = true →
      exec (.anomalyEvaluation die) s = .next (nextWindow die (evalFail die (evalJump die (evalNan die s)))) ∧
      (∀ mask, ∃ t, exec (.chkFtStart die mask) s = .next t ∧ t = { s with chk := t.chk } ∧ (∀ d, d ≠ die → chkOf t d = chkOf s d) ∧
        (∀ i, i < 32 → testKnown (chkOf t die) i = (bit mask i || testKnown (chkOf s die) i)) ∧
        chkOf t die = { chkOf s die with queued := (chkOf t die).queued }) ∧
      (∀ q, leastQueued (chkOf s die).queued = some q → inReset s = false →
        (chkOf s die).running.length < max 1 (bits (reg s (chkPage die + Reg.CHK_FT_CFG)) 3 0) → ∃ t,
        exec (.fieldTestBegin die) s = .next t ∧ t = { s with regs := t.regs, looms := t.looms, chk := t.chk, switches := t.switches } ∧
        (∀ x ∈ (chkOf s die).queued, q.loom ≤ x.loom) ∧ (loomOf t (die * 32 + q.loom)).stopped = true ∧
        (∀ l, l ≠ die * 32 + q.loom → loomOf t l = loomOf s l) ∧
        let left := (chkOf s die).queued.filter (fun x => x.loom != q.loom)
        let run := (chkOf s die).running ++ [⟨q.loom, q.trigger, .drain, s.time, none, .pass, false⟩]
        chkOf t die = { chkOf s die with queued := left, running := run })) ∧
    (∀ loom r,
      (testIn s loom .drain = some r → drained s loom false = true → (loomSplit s loom = true → drained s loom true = true) →
        exec (.ftDrainComplete loom) s = .next (modTest loom (fun r => { r with phase := .scan }) (modLoom loom dropWeights
          (if loomSplit s loom then saveHalf loom true (saveHalf loom false s) else saveHalf loom false s)))) ∧
      (testIn s loom .scan = some r → ∀ found map, exec (.ftArrayScanComplete loom found map) s = .next (modTest loom (fun r => { r with
        phase := .march, defect := if found then map else none, outcome := if !found then .pass else if map.isSome then .repaired else .retired }) s)) ∧
      (testIn s loom .march = some r →
        exec (.ftSramMarchComplete loom false) s =
          .next (modTest loom (fun r => { r with phase := .outcome, outcome := .retired, sram := true }) s) ∧
        (r.outcome ≠ .repaired → exec (.ftSramMarchComplete loom true) s = .next (modTest loom (fun r => { r with phase := .outcome }) s)) ∧
        (∀ v, r.outcome = .repaired → r.defect = some v → ∃ t, exec (.ftSramMarchComplete loom true) s = .next t ∧
          t = { s with regs := t.regs, chk := t.chk, sys := t.sys } ∧ reg t (twlPage loom 1 + Reg.TWL_REPAIR) = v &&& 0x7F7FFFFF ∧
          RegsOnly [twlPage loom 1 + Reg.TWL_REPAIR, twlPage loom 1 + Reg.TWL_REPAIR_STAT, twlPage loom 1 + Reg.TWL_REPAIRS] s t ∧
          (testIn t loom .repair).isSome = true)) ∧
      ((chkOf s (loom / 32)).running.find? (fun r => r.loom == loom % 32 && (r.phase == .outcome || r.phase == .repair)) = some r →
        ∀ verified, let stat := twlPage loom 1 + Reg.TWL_REPAIR_STAT
        let o := if r.phase = .repair && !verified then .retired else r.outcome
        let s1 := if r.phase = .repair then setField stat 4 4 0 s else s
        let s2 := match o with | .repaired => setField stat 8 8 1 s1 | .retired => setField stat 9 9 1 s1 | .pass => s1
        exec (.ftOutcome loom verified) s = .next (reportTest loom r o (modLoom loom (fun l => { l with stopped := false })
          (modChk (loom / 32) (fun k => { k with running := removeFirst k.running (fun x => x == r) }) s2))))) ∧
    (∀ pair, ∃ t, exec (.opticalLoopbackEnd pair) s = .next t ∧ t = { s with switches := t.switches } ∧
      switchOf t pair = { switchOf s pair with loopback := false } ∧ ∀ p, p ≠ pair → switchOf t p = switchOf s p)

/-- What starts a device recovery reset, and what absorbs one (R409 to R412, R417, R418, R444, R475). While a reset runs a trigger is only
logged; in the failed state only RST_N and RECOVERY_RESET act; a storm declares the failed state; otherwise phase 1 begins, with the trigger
shown and INCARNATION one higher. Each detector that is enabled and each control starts one with its own trigger and detail. -/
def Obligations.TriggersStartOneReset : Prop :=
  ∀ (s : State), s.sys.power = .on → s.sys.entering = none →
    (∀ trigger detail, trigger ≠ 9 → trigger < 256 →
      (resetPhase s ≠ 0 → startRecovery trigger detail s = logDry 15 0 0x0008 [trigger, detail] s) ∧
      (resetPhase s = 0 → s.sys.failed = true → trigger ≠ 6 → trigger ≠ 7 → startRecovery trigger detail s = s) ∧
      (resetPhase s = 0 → s.sys.clocksOff = false → s.sys.failed = false → stormLimit s ≤ stormCount s + 1 →
        startRecovery trigger detail s = declareFailed 3 s) ∧
      (resetPhase s = 0 → s.sys.clocksOff = false → s.sys.failed = false → stormCount s + 1 < stormLimit s →
        let t := startRecovery trigger detail s
        resetPhase t = 1 ∧ bits (reg t (dryPage + Reg.DRY_STATUS)) 15 8 = trigger ∧ incarnation t = sat32 (incarnation s + 1) ∧
        t.sys.resets = s.time :: s.sys.resets ∧ t.mem = s.mem ∧ t.time = s.time)) ∧
    (failedNow s = false → exec .rstN s = .next (startRecovery 6 0 (closeGate (modSys (fun y => { y with rstLow := true }) s)))) ∧
    (∃ t, exec .rstNRelease s = .next t ∧ OnlySys [] s t ∧ t.sys.rstLow = false) ∧
    exec .resetReq s = .next (startRecovery 8 0 s) ∧
    (∀ die, detectorOn s 1 = true → dieLive s die = true → exec (.heartbeatTimeout die) s = .next (startRecovery 2 die s)) ∧
    (∀ die core, detectorOn s 2 = true → dieLive s die = true →
      reg s (dryPage + Reg.DRY_WD_CORE) ≤ s.time - tgetD s.sys.kicks (die * 4 + core % 4) 0 →
      exec (.coreWdTimeout die core) s = .next (startRecovery 3 (die * 4 + core % 4) s)) ∧
    (∀ mask, ∃ t, exec (.dryCoreKick mask) s = .next t ∧ OnlySys [] s t ∧
      ∀ k, k < 32 → tgetD t.sys.kicks k 0 = if bit mask k then s.time else tgetD s.sys.kicks k 0) ∧
    exec (.orrisWd false) s = .next (startRecovery 4 0 s) ∧
    exec (.orrisWd true) s = .next (startRecovery 4 0 (setPend orsPage 4 (bumpSat (orsPage + Reg.ORS_LOCKSTEP) 1 s))) ∧
    (∀ port, detectorOn s 3 = true → portUp s port = true → exec (.linkTxStall port) s = .next (startRecovery 5 port s)) ∧
    (∀ loom east, detectorOn s 0 = true → (loomOf s loom).stopped = false →
      (∀ x slot k rest, leaseOf s loom east = some x → halfSkeins s loom east = (slot, k) :: rest →
        savingHalf s loom false = false → savingHalf s loom true = false → inReset s = false →
        exec (.loomWdStage1 loom east) s = .next (loomFault loom slot ((halfSkeins s loom east).map (fun k => k.1)) zsTimeout 0xE0 4
          (k.groups.head?.elim 0 (fun g => g.pc)) 0 (k.groups.head?.elim 0 (fun g => g.mask)) 0
          (modLoom loom (fun l => if east then { l with wdEast := true } else { l with wdWest := true })
            (logDry (loom / 32) 1 0x0010 [loom, x.ctx] s)))) ∧
      ((if east then (loomOf s loom).wdEast else (loomOf s loom).wdWest) = true → drained s loom east = false →
        exec (.loomWdStage2 loom east) s = .next (startRecovery 1 loom s))) ∧
    (s.sys.clocksOff = false → exec .pllLockLoss s = .next (modSys (fun y => { y with clocksOff := true })
      (startRecovery 9 0 (setPend clkPage 4 (bumpSat (clkPage + Reg.CLK_LOCK_LOSS) 1 (setField (clkPage + Reg.CLK_STATUS) 1 1 0 s)))))) ∧
    (s.sys.clocksOff = true → resetPhase s = 0 → s.sys.failed = false → exec .pllRelock s =
      .next (phaseOne (setField (clkPage + Reg.CLK_STATUS) 1 1 1 (modSys (fun y => { y with clocksOff := false }) s))))

/-- The phases of a reset (R413, R418, R419): each end is logged and the next phase begins with its work; a phase that overruns restarts the reset
at phase 3, and one that has not ended in 10 s is a failure. A page that does not answer ends its dump entry, and the dump is cut at 40 ms. -/
def Obligations.ResetPhasesRunInOrder : Prop :=
  ∀ (s : State) (bad : List Nat),
    (s.sys.clocksOff = false → let done := logPhase false s
      (resetPhase s = 1 → exec (.recoveryPhaseComplete bad) s = .next (setPhase 2 done)) ∧
      (resetPhase s = 2 → s.sys.rstLow = false →
        exec (.recoveryPhaseComplete bad) s = .next (setPhase 3 (logPhase false (resetLogic (takeDump s))))) ∧
      (resetPhase s = 3 → s.sys.pull = none →
        (∀ u, bootPhase s = some u → exec (.recoveryPhaseComplete bad) s = .next (setPhase 4 (logPhase false u))) ∧
        (bootPhase s = none → exec (.recoveryPhaseComplete bad) s = .next (discover 7 s))) ∧
      (resetPhase s = 4 → exec (.recoveryPhaseComplete bad) s =
        .next (nextOrFail 5 (fenceDies 1 bad (forN 8 (fun d s => if bad.contains d then s else bringLive d s) done)))) ∧
      (resetPhase s = 5 → exec (.recoveryPhaseComplete bad) s = .next (nextOrFail 6 (fenceDies 2 (bad.filter (dieLive s)) done))) ∧
      (resetPhase s = 6 → exec (.recoveryPhaseComplete bad) s = .next (settleFloors (setPhase 7 (logPhase false (calibrate bad s))))) ∧
      (resetPhase s = 7 → let u := loadCfg (selectCfg done)
        exec (.recoveryPhaseComplete bad) s = .next (openPairs (setPhase 8 (if u.sys.startKind = 1 then cadEvent u else u)))) ∧
      (resetPhase s = 8 → exec (.recoveryPhaseComplete bad) s = .next (endReset done)) ∧
      (resetPhase s ≠ 0 → exec .recoveryPhaseOverrun s =
        .next (setPhase 3 (resetLogic (allBypass (logPhase true (modSys (fun y => { y with pull := none }) s))))))) ∧
    (resetPhase s ≠ 0 → s.sys.startKind ≠ 0 → exec .resetLimitExpiry s = .next (declareFailed 1 s)) ∧
    (resetPhase s = 2 →
      (∀ page off p, pageOf page = some p → tget? s.sys.noResp p.addr = none → ∃ t, exec (.dumpNoResponse page off) s = .next t ∧
        t = { s with sys := t.sys, regs := t.regs, dryRing := t.dryRing, intRaised := t.intRaised } ∧
        tget? t.sys.noResp p.addr = some (min 124 (off % 4096 / 4))) ∧
      (∀ pages, s.sys.cut = none → ∃ t, exec (.dumpCut pages) s = .next t ∧
        t = { s with sys := t.sys, regs := t.regs, dryRing := t.dryRing, intRaised := t.intRaised } ∧ t.sys.cut = some pages))

/-- A recovery reset keeps and discards (R28, R414, R415): after the logic is reset memory in survivor regions reads as it did, no context, queue
or other object is left, no handle that was live before is accepted, and routes, fences and the drydown ring stay. -/
def Obligations.ResetKeepsSurvivorsAndDiscardsObjects : Prop :=
  ∀ s : State, let t := resetLogic s
    (∀ a, inSurvivor s (a / 128 * 128) = true → memByte t.mem a = memByte s.mem a) ∧
    t.ctxs = [] ∧ t.queues = [] ∧ t.endpoints = [] ∧ t.channels = [] ∧ t.conv = [] ∧ t.windows = [] ∧ t.groups = [] ∧ t.cursors = [] ∧
    t.streams = [] ∧ t.looms = [] ∧ t.fabric = [] ∧ t.poison = s.poison ∧ t.survivors = s.survivors ∧ t.routes = s.routes ∧
    t.dryRing = s.dryRing ∧ t.time = s.time ∧ reg t dieMapAddr = reg s dieMapAddr ∧
    (∀ e ∈ t.slots, e.2.live = false ∧ e.2.retired = false) ∧
    (∀ typ home slot sl, tget? s.slots (slotKey typ home slot) = some sl → sl.live = true → sl.retired = false → sl.gen + 1 < 0xFFFFFF →
      (tgetD t.slots (slotKey typ home slot) .fresh).gen = sl.gen + 1)

/-- Power (R423, R449 to R454, R474, R478). A power failure and an overvoltage flush the recorder and lose everything but flash; power-up runs
phase by phase; entries to DORMANT and STANDBY complete, and WAKE_N or a comparator wakes; a die goes idle and leaves idle; a trip declares the
failed state. Heat, input power and low input voltage gate issue: heat by one step of 64, low voltage by at least half. -/
def Obligations.PowerCommandsComplete : Prop :=
  ∀ (s : State),
    (∀ mv, s.sys.power ≠ .off → exec (.powerFail mv) s = .next (powerFails mv s) ∧ exec (.vinOvervoltage mv) s = .next (powerFails mv s) ∧
      let t := powerFails mv s
      t.mem = [] ∧ t.ctxs = [] ∧ t.dryRing = [] ∧ t.sys.power = .off ∧ t.sys.banks = s.sys.banks ∧ t.sys.cfgs = s.sys.cfgs ∧
      t.sys.imageFloor = s.sys.imageFloor ∧ t.sys.revoked = s.sys.revoked ∧ t.pending = s.pending) ∧
    (∀ mv, s.sys.power = .off → ∃ t, exec (.powerUp mv) s = .next t ∧ OnlySys [pwrPage + Reg.PWR_VIN] s t ∧
      reg t (pwrPage + Reg.PWR_VIN) = mv % 2 ^ 64 ∧ t.sys = { s.sys with power := .seq 1, startKind := 0, vinGood := true, phaseAt := s.time }) ∧
    (∀ bad, let go (p : PowerPhase) (u : State) : State := modSys (fun y => { y with power := p, phaseAt := u.time }) u
      (s.sys.power = .seq 1 → exec (.powerUpPhaseComplete bad) s = .next (go (.seq 2) s)) ∧
      (s.sys.power = .seq 2 → exec (.powerUpPhaseComplete bad) s = .next (go (.seq 3) (startReference s))) ∧
      (s.sys.power = .seq 3 → s.sys.rstLow = false → s.sys.startKind = 0 → exec (.powerUpPhaseComplete bad) s =
        .next (go (.boot 1) (restoreRing (setReg (pageAddr .pcd 15 0 0 + Reg.PCD_LANDS) (s.sys.straps % 4 * 16)
          (setField (clkPage + Reg.CLK_STATUS) 1 1 1 s))))) ∧
      (s.sys.power = .boot 1 → exec (.powerUpPhaseComplete bad) s = .next (go (.boot 2) s)) ∧
      (s.sys.power = .boot 2 → ∀ u, bootPhase s = some u → exec (.powerUpPhaseComplete bad) s = .next (go (.boot 4) u)) ∧
      (s.sys.power = .boot 2 → bootPhase s = none → exec (.powerUpPhaseComplete bad) s = .next (discover 7 (go (.boot 3) s))) ∧
      (s.sys.power = .boot 3 → s.sys.pull = none → ∀ u, bootPhase s = some u → exec (.powerUpPhaseComplete bad) s = .next (go (.boot 4) u)) ∧
      (s.sys.power = .boot 4 → exec (.powerUpPhaseComplete bad) s = .next (go .raise (selectCfg s))) ∧
      (s.sys.power = .raise → s.sys.startKind = 0 → exec (.powerUpPhaseComplete bad) s =
        .next (fenceDies 1 bad (setField (pwrPage + Reg.PWR_STATE) 1 0 0 (setPhase 4 (go .on s)))))) ∧
    (∀ e, s.sys.entering = some e → let u := zjpAnswer e.port e.reqId 0x0108 0 zsOk 0 [] s
      let v := if u.sys.power = .dormant then u else diesOff (allBypass u)
      let shown (n : Nat) (p : PowerPhase) : State := setField (pwrPage + Reg.PWR_STATE) 15 8 0 (setField (pwrPage + Reg.PWR_STATE) 1 0 n
        (modSys (fun y => { y with entering := none, power := p }) v))
      let goes (w : State) : Host.Outcome State Fault Refusal := .next (if e.wake then startWake w else w)
      (e.target = 1 → exec .powerStateReached s = goes (shown 1 .dormant)) ∧
      (e.target = 2 → exec .powerStateReached s = goes (setField (clkPage + Reg.CLK_STATUS) 1 1 0 (pcdOff (shown 2 .standby))))) ∧
    (∃ t, exec (.wakeN false) s = .next t ∧ OnlySys [] s t ∧ t.sys = { s.sys with wakeLow := false }) ∧
    (s.sys.power = .dormant → s.sys.entering = none → exec (.wakeN true) s = .next (startWake (modSys (fun y => { y with wakeLow := true }) s))) ∧
    (∀ die, die < 8 → (s.sys.power = .on → dieLive s die = true → dieIdle s die = true → ∃ t, exec (.dieIdleEntry die) s = .next t ∧
        FieldIs (pwrPage + Reg.PWR_STATE) (8 + die) (8 + die) 1 s t) ∧
      (∃ t, exec (.dieIdleExit die) s = .next t ∧ FieldIs (pwrPage + Reg.PWR_STATE) (8 + die) (8 + die) 0 s t) ∧
      (s.sys.power = .on → failedNow s = false → dieLive s die = true → ∀ stack temp,
        (115 ≤ temp → exec (.thermalTrip false die stack temp) s =
          .next (declareFailed 4 (modSys (fun y => { y with junction := tset y.junction die temp }) s))) ∧
        (105 ≤ temp → exec (.thermalTrip true die stack temp) s =
          .next (declareFailed 4 (setField (memcPage die (stack % 4) + Reg.MEMC_TEMP) 7 0 temp s)))) ∧
      (dieLive s die = true → ∀ temp, ∃ t, exec (.thermalGateStep die temp) s = .next t ∧
        t = { s with regs := t.regs, intRaised := t.intRaised, sys := t.sys, dryRing := t.dryRing } ∧ tgetD t.sys.junction die 0 = temp ∧
        (∀ d, d ≠ die → gateOf t d = gateOf s d) ∧ let x := bits (reg s (pwrPage + Reg.PWR_THROT_TEMP)) 7 0; let g := gateOf s die
        gateOf t die = { g with thermal := if x ≤ temp then min 63 (g.thermal + 1) else if temp + 2 ≤ x then g.thermal - 1 else g.thermal })) ∧
    (∀ level, (∀ watts, ∃ t, exec (.powerLimitGate watts level) s = .next t ∧
        t = { s with regs := t.regs, intRaised := t.intRaised, sys := t.sys, dryRing := t.dryRing } ∧
        reg t (pwrPage + Reg.PWR_PIN) = watts % 2 ^ 32 ∧ ∀ d ∈ liveDies s, gateOf t d =
          { gateOf s d with power := if reg s (pwrPage + Reg.PWR_LIMIT) < watts then min 63 level else 0 }) ∧
      (∀ mv, ∃ t, exec (.vinLowGate mv level) s = .next t ∧
        t = { s with regs := t.regs, intRaised := t.intRaised, sys := t.sys, dryRing := t.dryRing } ∧
        reg t (pwrPage + Reg.PWR_VIN) = mv % 2 ^ 32 ∧ t.sys.vinGood = decide (38000 ≤ mv ∧ mv ≤ 62000) ∧ ∀ d ∈ liveDies s,
          gateOf t d = { gateOf s d with vin := if mv < 40000 then min 63 (max 32 level) else 0 } ∧ (mv < 40000 → 32 ≤ gateLevel (gateOf t d))))

/-- Base-note time and comparators (R445 to R448, R455, R456, R480 to R482). A TIME comparator that fires re-arms by whole periods to the first time
after now, or goes OFF; another comparator waits until its sensor re-arms it. Firmware claims and configures a comparator that no other owner
holds. An accepted edge of PPS_IN is a measurement where it is the source; the source is selected, lost, and its slew ends. -/
def Obligations.ClockCommandsComplete : Prop :=
  ∀ (s : State),
    (∀ k v, k < 8 → let c := cmpOf s k
      (c.mode = 1 → c.armed = true → c.value ≤ s.time → c.owner ≠ 2 → bit c.actions 0 = false → ∃ t, exec (.comparatorFire k v) s = .next t ∧
        t = { s with regs := t.regs, intRaised := t.intRaised, sys := t.sys, dryRing := t.dryRing } ∧ (∀ i, i ≠ k → cmpOf t i = cmpOf s i) ∧
        (c.period = 0 → cmpOf t k = { c with mode := 0, fired := true }) ∧
        (c.period ≠ 0 → (cmpOf t k).fired = true ∧ s.time < (cmpOf t k).value ∧ (cmpOf t k).value ≤ s.time + c.period ∧
          ((cmpOf t k).value - c.value) % c.period = 0)) ∧
      (2 ≤ c.mode → sensorLive s c = true →
        let w := modSys (fun y => { y with gpioIn := setBits y.gpioIn (c.sensor - 16) (c.sensor - 16) (v % 2) }) s
        let u := if 16 ≤ c.sensor ∧ c.sensor ≤ 23 then w else s
        (c.armed = true → cmpMet s c v = true → exec (.comparatorFire k v) s = .next (cmpFire k v u)) ∧
        (c.armed = false → cmpRearms c v = true → exec (.comparatorFire k v) s = .next (modCmp k (fun c => { c with armed := true }) u)))) ∧
    (∀ v, let k := bits (reg s (bntPage + Reg.BNT_CMP_SEL)) 2 0
      (cmpOf s k).owner < 2 → (ppsOn s = true → wakeOnGpio0 (cmpOf s k) = false → wakeOnGpio0 (cmpWritten v (cmpOf s k)) = false) →
      ∃ t, exec (.bntCmpCfgWrite v) s = .next t ∧ OnlySys [] s t ∧
        cmpOf t k = cmpWritten v (cmpOf s k) ∧ ∀ i, i ≠ k → cmpOf t i = cmpOf s i) ∧
    (∀ v, bits v 26 0 < 100000000 → (bit v 31 = true → ppsOn s = false → s.sys.cmps.any (fun c => wakeOnGpio0 c.2) = false) →
      ∃ t, exec (.bntPpsWrite v) s = .next t ∧ OnlySys [bntPage + Reg.BNT_PPS] s t ∧ reg t (bntPage + Reg.BNT_PPS) = v &&& 0x87FFFFFF) ∧
    (ppsOn s = true → s.sys.ppsLast.all (fun l => l + 6400000000 - 640000 ≤ stamp s && stamp s ≤ l + 6400000000 + 640000) = true →
      let u := modSys (fun y => { y with ppsLast := some (stamp s) }) s
      exec .ppsEdge s = .next (if bits (reg s (bntPage + Reg.BNT_DISC)) 1 0 = 2
        then servoMeasure (ppsOffset (stamp s) (bits (reg s (bntPage + Reg.BNT_PPS)) 26 0)) u else u)) ∧
    (∃ t, exec .slewEnd s = .next t ∧ OnlySys [bntPage + Reg.BNT_RATE, bntPage + Reg.BNT_DISC] s t ∧
      t.sys = { s.sys with servo := { s.sys.servo with slew := 0 } } ∧ reg t (bntPage + Reg.BNT_RATE) = wrap 32 s.sys.servo.freq) ∧
    (bits (reg s (bntPage + Reg.BNT_DISC)) 1 0 ≠ 0 → ∃ t, exec .discSourceLoss s = .next t ∧
      OnlySys [bntPage + Reg.BNT_RATE, bntPage + Reg.BNT_DISC] s t ∧ t.sys = { s.sys with servo := { s.sys.servo with good := 0 } } ∧ timeLocked t = false) ∧
    (∀ v, bits v 1 0 < 3 → let same := decide (bits (reg s (bntPage + Reg.BNT_DISC)) 1 0 = bits v 1 0)
      let u := setField (bntPage + Reg.BNT_DISC) 1 0 (bits v 1 0) s
      let w := if same then u
        else modSys (fun y => { y with servo := { y.servo with good := 0, slew := if bits v 1 0 = 0 then 0 else y.servo.slew } }) u
      exec (.bntDiscWrite v) s = .next (reStratum (showServo (same && timeLocked w) w)))

/-- SMBus, JTAG, the twin slot and the image pull (R402, R433, R434-pull, R439, R441, R464, R468, R469). The pointer moves and DATA reads at it; an alert
is answered and released; the TAP selects, identifies and judges an authorisation, each with a new nonce; a twin takes over. A pull asks, accepts
an offer that verifies, fills the spare bank from its data, resends what is late, and tries the other port after a NAK. -/
def Obligations.LandsAndPullComplete : Prop :=
  ∀ (s : State),
    (serialOn s = true → (∀ v, exec (.ptr v) s = .next (modSys (fun y => { y with smbPtr := alignDown (v % 2 ^ 28) 4 }) s)) ∧
      (let p := s.sys.smbPtr;
        (∀ r, smbReadable p = true → pageOf (ctlBase 15 + p) = some r → exec .smbData s = .next (emit (.serial (dumpWord s r (p % 4096)))
          (modSys (fun y => { y with smbPtr := (p + 4) % 2 ^ 28, smbRefused := false }) s))) ∧
        (smbReadable p = false → exec .smbData s = .next (emit (.serial 0)
          (modSys (fun y => { y with smbPtr := (p + 4) % 2 ^ 28, smbRefused := true }) s)))) ∧
      exec .smbStatus s = .next (emit (.serial (b2n s.sys.smbRefused)) s)) ∧
    (smbAlert s = true → ∃ t, exec .alertResponseRead s = .next t ∧ t = { s with sys := { s.sys with smbAcked := bntPending s }, outbox := t.outbox } ∧
      t.outbox = s.outbox ++ [.serial (0x58 + bits (reg s (pageAddr .pcd 15 0 0 + Reg.PCD_LANDS)) 5 4)] ∧ smbAlert t = false) ∧
    (tapOn s = true → exec .bypass s = .next (modSys (fun y => { y with tapIr := 0 }) s) ∧
      exec .idcode s = .next (emit (.serial 0x18820B4F) (modSys (fun y => { y with tapIr := 1 }) s)) ∧
      (∀ a, authJudged s a = (zsOk, 0) → ∃ t, exec (.auth a) s = .next t ∧
        t = { s with regs := t.regs, intRaised := t.intRaised, sys := { s.sys with tapIr := 2, dbgEnds := s.time + a.duration }, draws := s.draws + 1 } ∧
        bits (reg t (orsPage + Reg.ORS_DBG_STATE)) 1 0 = a.scope % 4 ∧ bit (reg t (orsPage + Reg.ORS_DBG_STATE)) 2 = true ∧
        bits (reg t (orsPage + Reg.ORS_DBG_STATE)) 15 8 = zsOk ∧
        reg t (orsPage + Reg.ORS_DBG_NONCE) = (Config.random s.draws).toNat % 2 ^ 64)) ∧
    (∀ low, ∃ t, exec (.trstN low) s = .next t ∧ OnlySys [] s t ∧
      t.sys = { s.sys with tapReset := low, tapIr := if low then 1 else s.sys.tapIr }) ∧
    (s.sys.dbgEnds ≤ s.time → ∃ t, exec .debugDurationExpiry s = .next t ∧ FieldIs (orsPage + Reg.ORS_DBG_STATE) 1 0 0 s t) ∧
    (twinRole s ≠ 0 → exec .twinFail s = .next (takeover (modSys (fun y => { y with gpioIn := setBits y.gpioIn 1 1 0 }) s))) ∧
    (twinState s = 2 → let u := setTwinState 3 (modSys (fun y => { y with twinAct := true }) s)
      exec .cadTwinTakeover s = .next (cadEvent (forL ((List.range 18).filter (fun p => dieLive u (linkHome (2 * p)).1))
        (fun p s => openPair p (setHold p false s)) u))) ∧
    (∀ p, s.sys.pull = some p →
      (p.header = none → exec .discoverTimer s = .next (sendPull p 1 0 4 (toBytes 4 s.sys.imageFloor) s) ∧
        ∀ h, headerFails s h = none → exec (.offer p.port p.session device8 h) s =
          .next (issueReads (modSys (fun y => { y with pull := y.pull.map (fun p => { p with header := some h }) })
            (setBank (spareBank s) { bankOf s (spareBank s) with header := h, gen := none } s)))) ∧
      (∀ h off n data, p.header = some h → 4096 ≤ off → tget? p.reads (off - 4096) = some n → let o := off - 4096
        (n < 20 → exec (.readTimeout off) s = .next (sendPull p 3 off (min 1024 (hLength h - o)) []
          (modSys (fun y => { y with pull := some { p with reads := tset p.reads o (n + 1) } }) s))) ∧
        (20 ≤ n → exec (.readTimeout off) s = .next (rediscover s)) ∧
        (data.length = min 1024 (hLength h - o) → let p' := { p with got := sinsert p.got o, reads := tdel p.reads o }
          let i := spareBank s
          let u := modSys (fun y => { y with pull := some p' }) (setBank i { bankOf s i with body := bodyPut (bankOf s i).body o data } s)
          exec (.pullData p.port p.session off data) s =
            .next (if (unasked p').isEmpty && p'.reads.isEmpty then pullEnds h u else issueReads u))) ∧
      exec (.pullNak p.port p.session) s = .next (rediscover s) ∧
      ∃ t, exec .pullFaultLimit s = .next t ∧ OnlySys [] s t ∧ t.sys = { s.sys with pullFault := true })

/-! ## Register pages -/

/-- Accesses of a firmware agent to a page that answers (R32 to R36). A low-word read captures the high half, which the next high-word read of
the same agent consumes, so that both halves are of one value; the header's controls take effect; a page's entry in the interrupt queue goes when
its INT_PEND is cleared. A tenant's write is dropped and recorded (R489). -/
def Obligations.PageAccessesComplete : Prop :=
  ∀ (s : State) (who a : Nat) (p : PageRef), pageOf a = some p → pageServed s p = true →
    (who < firmwareFrom → ownerIs s p who = true → ∀ v, exec (.registerWrite who 4 a v) s = .next (recErr p.addr who 0x12 zsDenied s)) ∧
    (firmwareFrom ≤ who →
      (∀ r, a % 4 = 0 → rowCovering p (a % 4096) = some r → let v := regValue s p r.off; let key := p.addr + r.off
        let others := s.captures.filter (fun h => !(h.who == who && h.addr == key))
        (r.off = a % 4096 → r.w64 = false → exec (.lowWordRead who 4 a) s = .next (emit (.read (v % 2 ^ 32)) s)) ∧
        (r.off = a % 4096 → r.w64 = true → ∃ u, exec (.lowWordRead who 4 a) s = .next u ∧
          u = { s with captures := others ++ [⟨who, key, v / 2 ^ 32⟩], outbox := s.outbox ++ [.read (v % 2 ^ 32)] } ∧
          (∀ b, pageOf b = some p → b % 4096 = r.off + 4 → rowCovering p (r.off + 4) = some r → exec (.highWordRead who b) u =
            .next { u with captures := others, outbox := u.outbox ++ [.read (v / 2 ^ 32)] }) ∧
          ∀ x, exec (.lowWordWrite who a x) s = .next { s with
            heldLow := s.heldLow.filter (fun h => !(h.who == who && h.addr == key)) ++ [⟨who, key, x % 2 ^ 32⟩] }) ∧
        (r.off ≠ a % 4096 → r.w64 = true → ∀ x low, s.heldLow.find? (fun h => h.who == who && h.addr == key) = some low →
          exec (.highWordWrite who a x) s = .next (regWrite p r (x % 2 ^ 32 * 2 ^ 32 + low.val)
            { s with heldLow := s.heldLow.filter (fun h => !(h.who == who && h.addr == key)) })) ∧
        (r.w64 = false → ∀ x, exec (.registerWrite who 4 a x) s = .next (regWrite p r (x % 2 ^ 32) s))) ∧
      (∀ q, exec (.enable who a q) s = .next (ctrlWrite p (1 + 2 * b2n q) s) ∧ exec (.quiesce who a q) s = .next (ctrlWrite p (b2n q + 2) s)) ∧
      (∀ v, exec (.softReset who a v) s = .next (ctrlWrite p (v % 4 + 4) s)) ∧
      (∀ mask, exec (.intTest who a mask) s = .next (setPend p.addr (mask % 2 ^ 32) s) ∧ ∃ t, exec (.intPendClear who a mask) s = .next t ∧
        t = { s with regs := t.regs, intRaised := t.intRaised, intQueue := t.intQueue, sys := t.sys } ∧
        p.addr ∉ tgetD t.intQueue (intAgent p.addr) [] ∧
        ∀ g, g ≠ intAgent p.addr → tget? t.intQueue g = tget? s.intQueue g) ∧
      (∃ t, exec (.errFirstRearm who a) s = .next t ∧ OnlyRegs [p.addr + hdrErrFirst] s t ∧ reg t (p.addr + hdrErrFirst) = 0x0FFF0000) ∧
      (∃ t, exec (.lock who a) s = .next t ∧ FieldIs (p.addr + hdrLock) 0 0 1 s t)) ∧
    (∀ page, s.intRaised.contains page = true → ∃ t, exec (.interruptQueueEntry page) s = .next t ∧
      t = { s with intRaised := sdel s.intRaised page, intQueue := t.intQueue } ∧ page ∈ tgetD t.intQueue (intAgent page) [] ∧
      ∀ g, g ≠ intAgent page → tgetD t.intQueue g [] = tgetD s.intQueue g [])

/-- What a register holds after a plain write (R33), bit by bit: a W1S bit that is written 1 is set, a W1C bit that is written 1 is cleared, an RW
bit takes the written value, an RWL bit does so unless the page is locked, and every other bit stays. -/
def Obligations.RegisterBitsFollowTheirAccessTypes : Prop :=
  ∀ (p : PageRef) (r : RegRow) (v : Nat) (s : State), ownWrite p r v s = none → 0x40 ≤ r.off →
    OnlyRegs [p.addr + r.off] s (regWrite p r v s) ∧
    ∀ i, i < 64 → bit (reg (regWrite p r v s) (p.addr + r.off)) i =
      if bit r.w1s i && bit v i then true else if bit r.w1c i && bit v i then false
      else if bit r.rw i || (bit r.rwl i && !pageLocked s p.addr) then bit v i else bit (reg s (p.addr + r.off)) i
end

