-- ==== Sys2Proof/Laws/Tab.lean ====
section
/-! SUPPORT. Reading a table after a write, and the loops `forL` and `forN`. -/

namespace Sys2Proof.Machine

@[simp] theorem tget?_nil {α : Type} (k : Nat) : tget? ([] : Tab α) k = none := rfl

@[simp] theorem tgetD_nil {α : Type} (k : Nat) (d : α) : tgetD ([] : Tab α) k d = d := rfl

/-- A written key reads as written. -/
@[simp] theorem tget?_tset_self {α : Type} (t : Tab α) (k : Nat) (v : α) : tget? (tset t k v) k = some v := by
  induction t with
  | nil => simp [tset, tget?]
  | cons p r ih =>
    obtain ⟨j, w⟩ := p
    simp only [tset]
    split
    · next h => simp only [tget?, ih]; simp [Nat.ne_of_lt h, Nat.not_lt_of_lt h]
    · split <;> simp [tget?]

/-- A write leaves the other keys alone. -/
theorem tget?_tset_ne {α : Type} (t : Tab α) {k j : Nat} (v : α) (h : j ≠ k) : tget? (tset t k v) j = tget? t j := by
  induction t with
  | nil => simp only [tset, tget?]; simp [Ne.symm h]
  | cons p r ih =>
    obtain ⟨i, w⟩ := p
    simp only [tset]
    split
    · simp only [tget?, ih]
    · split
      · next hik => subst hik; simp [tget?, Ne.symm h]
      · next hlt hne =>
        simp only [tget?]
        rw [if_neg (Ne.symm h)]
        split
        · next hjk =>
          rw [if_neg (by omega), if_pos (by omega)]
        · rfl

theorem tget?_tset {α : Type} (t : Tab α) (k j : Nat) (v : α) : tget? (tset t k v) j = if j = k then some v else tget? t j := by
  split
  · next h => subst h; exact tget?_tset_self t _ v
  · next h => exact tget?_tset_ne t v h

@[simp] theorem tgetD_tset_self {α : Type} (t : Tab α) (k : Nat) (v d : α) : tgetD (tset t k v) k d = v := by simp [tgetD]

theorem tgetD_tset_ne {α : Type} (t : Tab α) {k j : Nat} (v d : α) (h : j ≠ k) : tgetD (tset t k v) j d = tgetD t j d := by
  simp [tgetD, tget?_tset_ne t v h]

@[simp] theorem tget?_tmod_self {α : Type} (t : Tab α) (k : Nat) (d : α) (f : α → α) :
    tget? (tmod t k d f) k = some (f (tgetD t k d)) := by simp [tmod]

theorem tget?_tmod_ne {α : Type} (t : Tab α) {k j : Nat} (d : α) (f : α → α) (h : j ≠ k) :
    tget? (tmod t k d f) j = tget? t j := by simp [tmod, tget?_tset_ne t _ h]

@[simp] theorem tgetD_tmod_self {α : Type} (t : Tab α) (k : Nat) (d : α) (f : α → α) :
    tgetD (tmod t k d f) k d = f (tgetD t k d) := by simp [tmod]

theorem tgetD_tmod_ne {α : Type} (t : Tab α) {k j : Nat} (d e : α) (f : α → α) (h : j ≠ k) :
    tgetD (tmod t k d f) j e = tgetD t j e := by simp [tmod, tgetD_tset_ne t _ _ h]

@[simp] theorem tget?_tupd_self {α : Type} (t : Tab α) (k : Nat) (f : α → α) : tget? (tupd t k f) k = (tget? t k).map f := by
  unfold tupd
  split
  · next v h => simp [h]
  · next h => simp [h]

theorem tget?_tupd_ne {α : Type} (t : Tab α) {k j : Nat} (f : α → α) (h : j ≠ k) : tget? (tupd t k f) j = tget? t j := by
  unfold tupd
  split
  · exact tget?_tset_ne t _ h
  · rfl

@[simp] theorem forL_nil {α σ : Type} (f : α → σ → σ) (s : σ) : forL [] f s = s := rfl

@[simp] theorem forL_cons {α σ : Type} (x : α) (l : List α) (f : α → σ → σ) (s : σ) : forL (x :: l) f s = forL l f (f x s) := rfl

/-- What each pass of a loop keeps, the loop keeps. -/
theorem forL_keeps {α σ : Type} {p : σ → Prop} {f : α → σ → σ} (l : List α) (h : ∀ x s, p s → p (f x s)) :
    ∀ {s : σ}, p s → p (forL l f s) := by
  induction l with
  | nil => exact fun h => h
  | cons x l ih => exact fun hs => ih (h x _ hs)

theorem forN_keeps {σ : Type} {p : σ → Prop} {f : Nat → σ → σ} (n : Nat) (h : ∀ i s, p s → p (f i s)) {s : σ} (hs : p s) :
    p (forN n f s) := forL_keeps (List.range n) h hs

/-- A part of the state that no pass of a loop changes, the loop leaves as it is. -/
theorem forL_same {α σ β : Type} {g : σ → β} {f : α → σ → σ} (l : List α) (h : ∀ x s, g (f x s) = g s) (s : σ) :
    g (forL l f s) = g s :=
  forL_keeps (p := fun t => g t = g s) l (fun x t ht => (h x t).trans ht) rfl

theorem forN_same {σ β : Type} {g : σ → β} {f : Nat → σ → σ} (n : Nat) (h : ∀ i s, g (f i s) = g s) (s : σ) :
    g (forN n f s) = g s := forL_same (List.range n) h s

end Sys2Proof.Machine
end

