-- ==== Sys2Proof/Laws/Memory.lean ====
section
/-! SUPPORT. Memory: every operation keeps the canonical form, a read after a write, and the rest untouched. -/

namespace Sys2Proof.Machine

/-- A list whose addresses rise from a bound rises from every lower one. -/
theorem risingFrom_mono {m : Memory} {lo lo' : Nat} (h : lo' ≤ lo) (hm : risingFrom lo m = true) : risingFrom lo' m = true := by
  cases m with
  | nil => rfl
  | cons c r => obtain ⟨a, v⟩ := c; simp only [risingFrom, Bool.and_eq_true, decide_eq_true_eq] at *; exact ⟨by omega, hm.2⟩

/-- Below its first address, memory lists nothing. -/
theorem memByte_below {m : Memory} {lo a : Nat} (hm : risingFrom lo m = true) (h : a < lo) : memByte m a = memUnlisted := by
  cases m with
  | nil => rfl
  | cons c r =>
    obtain ⟨b, v⟩ := c
    simp only [risingFrom, Bool.and_eq_true, decide_eq_true_eq] at hm
    simp only [memByte]
    rw [if_neg (by omega), if_neg (by omega)]

theorem risingFrom_memSet {m : Memory} {lo a : Nat} (v : Byte) (hm : risingFrom lo m = true) (h : lo ≤ a) :
    risingFrom lo (memSet m a v) = true := by
  induction m generalizing lo with
  | nil => simp only [memSet]; split <;> simp [risingFrom, h]
  | cons c r ih =>
    obtain ⟨b, w⟩ := c
    simp only [risingFrom, Bool.and_eq_true, decide_eq_true_eq] at hm
    simp only [memSet]
    split
    · simp only [risingFrom, Bool.and_eq_true, decide_eq_true_eq]; exact ⟨hm.1, ih hm.2 (by omega)⟩
    · split
      · split
        · exact risingFrom_mono (by omega) hm.2
        · simp only [risingFrom, Bool.and_eq_true, decide_eq_true_eq]
          exact ⟨h, by subst_vars; exact hm.2⟩
      · split
        · simp [risingFrom, hm]
        · simp only [risingFrom, Bool.and_eq_true, decide_eq_true_eq]
          exact ⟨h, by omega, hm.2⟩

theorem listed_memSet {m : Memory} {a : Nat} (v : Byte) (hm : m.all (fun c => c.2 != memUnlisted) = true) :
    (memSet m a v).all (fun c => c.2 != memUnlisted) = true := by
  induction m with
  | nil => simp only [memSet]; split <;> simp_all
  | cons c r ih =>
    obtain ⟨b, w⟩ := c
    simp only [List.all_cons, Bool.and_eq_true] at hm
    simp only [memSet]
    split
    · simp [hm.1, ih hm.2]
    · split <;> split <;> simp_all <;> exact hm.2

/-- A write of one byte keeps the canonical form. -/
theorem wf_memSet {m : Memory} (a : Nat) (v : Byte) (hm : m.wf = true) : (memSet m a v).wf = true := by
  simp only [Memory.wf, Bool.and_eq_true] at *
  exact ⟨risingFrom_memSet v hm.1 (Nat.zero_le a), listed_memSet v hm.2⟩

/-- A write of consecutive bytes keeps the canonical form. -/
theorem wf_memPut {m : Memory} (a : Nat) (l : List Byte) (hm : m.wf = true) : (memPut m a l).wf = true := by
  induction l generalizing m a with
  | nil => exact hm
  | cons v r ih => exact ih (a + 1) (wf_memSet a v hm)

theorem risingFrom_filter {m : Memory} {lo : Nat} (p : Host.Cell → Bool) (hm : risingFrom lo m = true) :
    risingFrom lo (m.filter p) = true := by
  induction m generalizing lo with
  | nil => rfl
  | cons c r ih =>
    obtain ⟨a, v⟩ := c
    simp only [risingFrom, Bool.and_eq_true, decide_eq_true_eq] at hm
    simp only [List.filter]
    split
    · simp only [risingFrom, Bool.and_eq_true, decide_eq_true_eq]; exact ⟨hm.1, ih hm.2⟩
    · exact risingFrom_mono (by omega) (ih hm.2)

/-- Zeroing a range keeps the canonical form. -/
theorem wf_memClear {m : Memory} (a n : Nat) (hm : m.wf = true) : (memClear m a n).wf = true := by
  simp only [Memory.wf, Bool.and_eq_true] at *
  refine ⟨risingFrom_filter _ hm.1, ?_⟩
  simp only [memClear, List.all_filter, List.all_eq_true] at *
  intro c hc; simp [hm.2 c hc]

theorem memByte_memSet_rising {m : Memory} {lo : Nat} (a b : Nat) (v : Byte) (hm : risingFrom lo m = true) :
    memByte (memSet m a v) b = if b = a then v else memByte m b := by
  induction m generalizing lo with
  | nil =>
    simp only [memSet]
    split
    · next h => subst h; simp [memByte]
    · simp only [memByte]; split
      · rw [if_neg (by omega)]
      · split
        · next h => subst h; simp
        · rw [if_neg (by omega)]
  | cons c r ih =>
    obtain ⟨k, w⟩ := c
    simp only [risingFrom, Bool.and_eq_true, decide_eq_true_eq] at hm
    simp only [memSet]
    split
    · next hk =>
      simp only [memByte, ih hm.2]
      split
      · rfl
      · split
        · rw [if_neg (by omega)]
        · rw [if_neg (by omega)]
    · next hk =>
      split
      · next he =>
        subst he
        split
        · next hv =>
          subst hv
          simp only [memByte]
          by_cases h : b = k
          · subst h; simpa using memByte_below hm.2 (Nat.lt_succ_self b)
          · rw [if_neg h]
            by_cases hl : k < b
            · rw [if_pos hl]
            · rw [if_neg hl, if_neg (Ne.symm h)]; exact memByte_below hm.2 (by omega)
        · simp only [memByte]
          split
          · rw [if_neg (by omega)]
          · split
            · next h => rw [if_pos h.symm]
            · rw [if_neg (by omega)]
      · next he =>
        split
        · next hv =>
          subst hv
          split
          · next h => subst h; simp only [memByte]; rw [if_neg (by omega), if_neg (by omega)]
          · rfl
        · simp only [memByte]
          by_cases h : b = a
          · subst h; simp
          · rw [if_neg h]
            by_cases hl : a < b
            · rw [if_pos hl]
            · rw [if_neg hl, if_neg (Ne.symm h), if_neg (by omega), if_neg (by omega)]

/-- A read after a write of one byte. -/
theorem memByte_memSet {m : Memory} (a b : Nat) (v : Byte) (hm : m.wf = true) :
    memByte (memSet m a v) b = if b = a then v else memByte m b := by
  simp only [Memory.wf, Bool.and_eq_true] at hm; exact memByte_memSet_rising a b v hm.1

/-- A read after a write of consecutive bytes, at one of them and elsewhere. -/
theorem memByte_memPut {m : Memory} (a b : Nat) (l : List Byte) (hm : m.wf = true) :
    memByte (memPut m a l) b = if a ≤ b ∧ b < a + l.length then l.getD (b - a) memUnlisted else memByte m b := by
  induction l generalizing m a with
  | nil => rw [if_neg (by simp)]; rfl
  | cons v r ih =>
    simp only [memPut, List.length_cons]
    rw [ih (a + 1) (wf_memSet a v hm), memByte_memSet a b v hm]
    by_cases h : b = a
    · subst h; rw [if_neg (by omega), if_pos rfl, if_pos (by omega)]; simp
    · rw [if_neg h]
      by_cases h2 : a + 1 ≤ b ∧ b < a + 1 + r.length
      · rw [if_pos h2, if_pos (by omega)]
        have : b - a = (b - (a + 1)) + 1 := by omega
        rw [this, List.getD_cons_succ]
      · rw [if_neg h2, if_neg (by omega)]

theorem memByte_filter {m : Memory} {lo : Nat} (p : Nat → Bool) (b : Nat) (hm : risingFrom lo m = true) :
    memByte (m.filter (fun c => p c.1)) b = if p b then memByte m b else memUnlisted := by
  induction m generalizing lo with
  | nil => simp [memByte]
  | cons c r ih =>
    obtain ⟨a, v⟩ := c
    simp only [risingFrom, Bool.and_eq_true, decide_eq_true_eq] at hm
    have hr := ih hm.2
    by_cases hp : p a
    · rw [List.filter_cons_of_pos (by simpa using hp)]
      simp only [memByte, hr]
      by_cases h1 : a < b
      · simp [h1]
      · rw [if_neg h1]
        by_cases h2 : a = b
        · subst h2; simp [hp]
        · simp [h1, h2]
    · rw [List.filter_cons_of_neg (by simpa using hp), hr]
      by_cases h1 : a < b
      · simp [memByte, h1]
      · by_cases h2 : a = b
        · subst h2; simp [hp]
        · simp only [memByte, h1, h2, if_false]
          split
          · exact memByte_below hm.2 (by omega)
          · rfl

/-- A read after a range was zeroed. -/
theorem memByte_memClear {m : Memory} (a n b : Nat) (hm : m.wf = true) :
    memByte (memClear m a n) b = if a ≤ b ∧ b < a + n then memUnlisted else memByte m b := by
  simp only [Memory.wf, Bool.and_eq_true] at hm
  rw [memClear, memByte_filter (fun k => decide (k < a) || decide (a + n ≤ k)) b hm.1]
  by_cases h : a ≤ b ∧ b < a + n
  · rw [if_neg (by simp; omega), if_pos h]
  · rw [if_pos (by simp; omega), if_neg h]

end Sys2Proof.Machine
end

