-- ==== Sys2Proof/Laws/Keeps.lean ====
section
/-! SUPPORT. What every operation of the model keeps: memory's canonical form, the waiting commands, and what has left the package. -/

namespace Sys2Proof.Machine

/-- From `s` to `t` memory keeps its canonical form, no waiting command is added or taken, draws are only taken, and nothing that has
left the package is taken back. -/
structure Keeps (s t : State) : Prop where
  mem : s.mem.wf = true → t.mem.wf = true
  pending : t.pending = s.pending
  draws : s.draws ≤ t.draws
  outbox : s.outbox <+: t.outbox

theorem Keeps.refl (s : State) : Keeps s s := ⟨id, rfl, Nat.le_refl _, List.prefix_refl _⟩

theorem Keeps.of {s t : State} {f_regs : _} {f_mem : _} {f_poison : _} {f_slots : _} {f_hkey : _} {f_draws : _} {f_intRaised : _}
    {f_intQueue : _} {f_captures : _} {f_heldLow : _} {f_ctxs : _} {f_ctxIdents : _} {f_teardownTicks : _} {f_staleRx : _} {f_ctxKept :
    _} {f_unmaps : _} {f_queues : _} {f_endpoints : _} {f_channels : _} {f_dmaRuns : _} {f_conv : _} {f_dispatches : _} {f_nextDispatch
    : _} {f_schedAt : _} {f_delayed : _} {f_heldRoles : _} {f_looms : _} {f_saved : _} {f_weaves : _} {f_drams : _} {f_survivors : _}
    {f_checked : _} {f_chk : _} {f_suspects : _} {f_windows : _} {f_ports : _} {f_switches : _} {f_routeHolds : _} {f_heldPkts : _}
    {f_loop : _} {f_fabric : _} {f_nextTag : _} {f_routes : _} {f_groups : _} {f_cursors : _} {f_streams : _} {f_stores : _} {f_cadence
    : _} {f_svc : _} {f_zjp : _} {f_suspectAt : _} {f_sys : _} {f_dryRing : _} {f_time : _} {f_frac : _} {f_refCount : _} {f_outbox :
    _} {f_pending : _} (h : Keeps s t) (hm : f_mem = t.mem) (hp : f_pending = t.pending) (hd : f_draws = t.draws) (ho : f_outbox =
    t.outbox) : Keeps s ⟨f_regs, f_mem, f_poison, f_slots, f_hkey, f_draws, f_intRaised, f_intQueue, f_captures, f_heldLow, f_ctxs,
    f_ctxIdents, f_teardownTicks, f_staleRx, f_ctxKept, f_unmaps, f_queues, f_endpoints, f_channels, f_dmaRuns, f_conv, f_dispatches,
    f_nextDispatch, f_schedAt, f_delayed, f_heldRoles, f_looms, f_saved, f_weaves, f_drams, f_survivors, f_checked, f_chk, f_suspects,
    f_windows, f_ports, f_switches, f_routeHolds, f_heldPkts, f_loop, f_fabric, f_nextTag, f_routes, f_groups, f_cursors, f_streams,
    f_stores, f_cadence, f_svc, f_zjp, f_suspectAt, f_sys, f_dryRing, f_time, f_frac, f_refCount, f_outbox, f_pending⟩ :=
  ⟨fun w => hm ▸ h.mem w, hp.trans h.pending, hd ▸ h.draws, ho ▸ h.outbox⟩

theorem Keeps.of_put {s t : State} {f_regs : _} {f_mem : _} {f_poison : _} {f_slots : _} {f_hkey : _} {f_draws : _} {f_intRaised : _}
    {f_intQueue : _} {f_captures : _} {f_heldLow : _} {f_ctxs : _} {f_ctxIdents : _} {f_teardownTicks : _} {f_staleRx : _} {f_ctxKept :
    _} {f_unmaps : _} {f_queues : _} {f_endpoints : _} {f_channels : _} {f_dmaRuns : _} {f_conv : _} {f_dispatches : _} {f_nextDispatch
    : _} {f_schedAt : _} {f_delayed : _} {f_heldRoles : _} {f_looms : _} {f_saved : _} {f_weaves : _} {f_drams : _} {f_survivors : _}
    {f_checked : _} {f_chk : _} {f_suspects : _} {f_windows : _} {f_ports : _} {f_switches : _} {f_routeHolds : _} {f_heldPkts : _}
    {f_loop : _} {f_fabric : _} {f_nextTag : _} {f_routes : _} {f_groups : _} {f_cursors : _} {f_streams : _} {f_stores : _} {f_cadence
    : _} {f_svc : _} {f_zjp : _} {f_suspectAt : _} {f_sys : _} {f_dryRing : _} {f_time : _} {f_frac : _} {f_refCount : _} {f_outbox :
    _} {f_pending : _} {m : Memory} {a : Nat} {l : List Byte} (h : Keeps s { t with mem := m }) (hm : f_mem = memPut m a l) (hp :
    f_pending = t.pending) (hd : t.draws ≤ f_draws) (ho : f_outbox = t.outbox) : Keeps s ⟨f_regs, f_mem, f_poison, f_slots, f_hkey,
    f_draws, f_intRaised, f_intQueue, f_captures, f_heldLow, f_ctxs, f_ctxIdents, f_teardownTicks, f_staleRx, f_ctxKept, f_unmaps,
    f_queues, f_endpoints, f_channels, f_dmaRuns, f_conv, f_dispatches, f_nextDispatch, f_schedAt, f_delayed, f_heldRoles, f_looms,
    f_saved, f_weaves, f_drams, f_survivors, f_checked, f_chk, f_suspects, f_windows, f_ports, f_switches, f_routeHolds, f_heldPkts,
    f_loop, f_fabric, f_nextTag, f_routes, f_groups, f_cursors, f_streams, f_stores, f_cadence, f_svc, f_zjp, f_suspectAt, f_sys,
    f_dryRing, f_time, f_frac, f_refCount, f_outbox, f_pending⟩ :=
  ⟨fun w => hm ▸ wf_memPut a l (h.mem w), hp.trans h.pending, Nat.le_trans h.draws hd, ho ▸ h.outbox⟩

theorem Keeps.of_clear {s t : State} {f_regs : _} {f_mem : _} {f_poison : _} {f_slots : _} {f_hkey : _} {f_draws : _} {f_intRaised : _}
    {f_intQueue : _} {f_captures : _} {f_heldLow : _} {f_ctxs : _} {f_ctxIdents : _} {f_teardownTicks : _} {f_staleRx : _} {f_ctxKept :
    _} {f_unmaps : _} {f_queues : _} {f_endpoints : _} {f_channels : _} {f_dmaRuns : _} {f_conv : _} {f_dispatches : _} {f_nextDispatch
    : _} {f_schedAt : _} {f_delayed : _} {f_heldRoles : _} {f_looms : _} {f_saved : _} {f_weaves : _} {f_drams : _} {f_survivors : _}
    {f_checked : _} {f_chk : _} {f_suspects : _} {f_windows : _} {f_ports : _} {f_switches : _} {f_routeHolds : _} {f_heldPkts : _}
    {f_loop : _} {f_fabric : _} {f_nextTag : _} {f_routes : _} {f_groups : _} {f_cursors : _} {f_streams : _} {f_stores : _} {f_cadence
    : _} {f_svc : _} {f_zjp : _} {f_suspectAt : _} {f_sys : _} {f_dryRing : _} {f_time : _} {f_frac : _} {f_refCount : _} {f_outbox :
    _} {f_pending : _} {m : Memory} {a n : Nat} (h : Keeps s { t with mem := m }) (hm : f_mem = memClear m a n) (hp : f_pending =
    t.pending) (hd : f_draws = t.draws) (ho : f_outbox = t.outbox) : Keeps s ⟨f_regs, f_mem, f_poison, f_slots, f_hkey, f_draws,
    f_intRaised, f_intQueue, f_captures, f_heldLow, f_ctxs, f_ctxIdents, f_teardownTicks, f_staleRx, f_ctxKept, f_unmaps, f_queues,
    f_endpoints, f_channels, f_dmaRuns, f_conv, f_dispatches, f_nextDispatch, f_schedAt, f_delayed, f_heldRoles, f_looms, f_saved,
    f_weaves, f_drams, f_survivors, f_checked, f_chk, f_suspects, f_windows, f_ports, f_switches, f_routeHolds, f_heldPkts, f_loop,
    f_fabric, f_nextTag, f_routes, f_groups, f_cursors, f_streams, f_stores, f_cadence, f_svc, f_zjp, f_suspectAt, f_sys, f_dryRing,
    f_time, f_frac, f_refCount, f_outbox, f_pending⟩ :=
  ⟨fun w => hm ▸ wf_memClear a n (h.mem w), hp.trans h.pending, hd ▸ h.draws, ho ▸ h.outbox⟩

theorem Keeps.of_draw {s t : State} {f_regs : _} {f_mem : _} {f_poison : _} {f_slots : _} {f_hkey : _} {f_draws : _} {f_intRaised : _}
    {f_intQueue : _} {f_captures : _} {f_heldLow : _} {f_ctxs : _} {f_ctxIdents : _} {f_teardownTicks : _} {f_staleRx : _} {f_ctxKept :
    _} {f_unmaps : _} {f_queues : _} {f_endpoints : _} {f_channels : _} {f_dmaRuns : _} {f_conv : _} {f_dispatches : _} {f_nextDispatch
    : _} {f_schedAt : _} {f_delayed : _} {f_heldRoles : _} {f_looms : _} {f_saved : _} {f_weaves : _} {f_drams : _} {f_survivors : _}
    {f_checked : _} {f_chk : _} {f_suspects : _} {f_windows : _} {f_ports : _} {f_switches : _} {f_routeHolds : _} {f_heldPkts : _}
    {f_loop : _} {f_fabric : _} {f_nextTag : _} {f_routes : _} {f_groups : _} {f_cursors : _} {f_streams : _} {f_stores : _} {f_cadence
    : _} {f_svc : _} {f_zjp : _} {f_suspectAt : _} {f_sys : _} {f_dryRing : _} {f_time : _} {f_frac : _} {f_refCount : _} {f_outbox :
    _} {f_pending : _} (h : Keeps s t) (hm : f_mem = t.mem) (hp : f_pending = t.pending) (hd : f_draws = t.draws + 1) (ho : f_outbox =
    t.outbox) : Keeps s ⟨f_regs, f_mem, f_poison, f_slots, f_hkey, f_draws, f_intRaised, f_intQueue, f_captures, f_heldLow, f_ctxs,
    f_ctxIdents, f_teardownTicks, f_staleRx, f_ctxKept, f_unmaps, f_queues, f_endpoints, f_channels, f_dmaRuns, f_conv, f_dispatches,
    f_nextDispatch, f_schedAt, f_delayed, f_heldRoles, f_looms, f_saved, f_weaves, f_drams, f_survivors, f_checked, f_chk, f_suspects,
    f_windows, f_ports, f_switches, f_routeHolds, f_heldPkts, f_loop, f_fabric, f_nextTag, f_routes, f_groups, f_cursors, f_streams,
    f_stores, f_cadence, f_svc, f_zjp, f_suspectAt, f_sys, f_dryRing, f_time, f_frac, f_refCount, f_outbox, f_pending⟩ :=
  ⟨fun w => hm ▸ h.mem w, hp.trans h.pending, hd ▸ Nat.le_succ_of_le h.draws, ho ▸ h.outbox⟩

theorem Keeps.of_emit {s t : State} {f_regs : _} {f_mem : _} {f_poison : _} {f_slots : _} {f_hkey : _} {f_draws : _} {f_intRaised : _}
    {f_intQueue : _} {f_captures : _} {f_heldLow : _} {f_ctxs : _} {f_ctxIdents : _} {f_teardownTicks : _} {f_staleRx : _} {f_ctxKept :
    _} {f_unmaps : _} {f_queues : _} {f_endpoints : _} {f_channels : _} {f_dmaRuns : _} {f_conv : _} {f_dispatches : _} {f_nextDispatch
    : _} {f_schedAt : _} {f_delayed : _} {f_heldRoles : _} {f_looms : _} {f_saved : _} {f_weaves : _} {f_drams : _} {f_survivors : _}
    {f_checked : _} {f_chk : _} {f_suspects : _} {f_windows : _} {f_ports : _} {f_switches : _} {f_routeHolds : _} {f_heldPkts : _}
    {f_loop : _} {f_fabric : _} {f_nextTag : _} {f_routes : _} {f_groups : _} {f_cursors : _} {f_streams : _} {f_stores : _} {f_cadence
    : _} {f_svc : _} {f_zjp : _} {f_suspectAt : _} {f_sys : _} {f_dryRing : _} {f_time : _} {f_frac : _} {f_refCount : _} {f_outbox :
    _} {f_pending : _} {l : List Out} (h : Keeps s t) (hm : f_mem = t.mem) (hp : f_pending = t.pending) (hd : f_draws = t.draws) (ho :
    f_outbox = t.outbox ++ l) : Keeps s ⟨f_regs, f_mem, f_poison, f_slots, f_hkey, f_draws, f_intRaised, f_intQueue, f_captures,
    f_heldLow, f_ctxs, f_ctxIdents, f_teardownTicks, f_staleRx, f_ctxKept, f_unmaps, f_queues, f_endpoints, f_channels, f_dmaRuns,
    f_conv, f_dispatches, f_nextDispatch, f_schedAt, f_delayed, f_heldRoles, f_looms, f_saved, f_weaves, f_drams, f_survivors,
    f_checked, f_chk, f_suspects, f_windows, f_ports, f_switches, f_routeHolds, f_heldPkts, f_loop, f_fabric, f_nextTag, f_routes,
    f_groups, f_cursors, f_streams, f_stores, f_cadence, f_svc, f_zjp, f_suspectAt, f_sys, f_dryRing, f_time, f_frac, f_refCount,
    f_outbox, f_pending⟩ :=
  ⟨fun w => hm ▸ h.mem w, hp.trans h.pending, hd ▸ h.draws, ho ▸ h.outbox.trans (List.prefix_append _ _)⟩

theorem keeps_ite {s a b : State} {c : Prop} [Decidable c] (ha : c → Keeps s a) (hb : ¬c → Keeps s b) :
    Keeps s (if c then a else b) := by split <;> simp_all

theorem keeps_getD {z s : State} {o : Option State} (h : Keeps z s) (ho : ∀ t, o = some t → Keeps z t) : Keeps z (o.getD s) := by
  cases o with
  | none => exact h
  | some t => exact ho t rfl

/-- The state that a pair holds. -/
theorem keeps_pair {α : Type} {z t : State} {a : α} {x : α × State} (e : x = (a, t)) (h : Keeps z x.2) : Keeps z t := by subst e; exact h

theorem keeps_pair2 {α β : Type} {z t : State} {a : α} {b : β} {x : α × β × State} (e : x = (a, b, t)) (h : Keeps z x.2.2) : Keeps z t := by
  subst e; exact h

theorem keeps_pair3 {α β γ : Type} {z t : State} {a : α} {b : β} {c : γ} {x : α × β × γ × State} (e : x = (a, b, c, t))
    (h : Keeps z x.2.2.2) : Keeps z t := by subst e; exact h

theorem keeps_forL {α : Type} {z s : State} {l : List α} {f : α → State → State} (hf : ∀ x t, Keeps z t → Keeps z (f x t))
    (h : Keeps z s) : Keeps z (forL l f s) := forL_keeps (p := Keeps z) l hf h

theorem keeps_forN {z s : State} {n : Nat} {f : Nat → State → State} (hf : ∀ x t, Keeps z t → Keeps z (f x t))
    (h : Keeps z s) : Keeps z (forN n f s) := forN_keeps (p := Keeps z) n hf h

theorem keeps_foldl {α : Type} {z s : State} {l : List α} {f : State → α → State} (hf : ∀ t x, Keeps z t → Keeps z (f t x))
    (h : Keeps z s) : Keeps z (l.foldl f s) := forL_keeps (p := Keeps z) (f := fun x t => f t x) l (fun x t => hf t x) h

theorem keeps_foldl_snd {α β : Type} {z : State} {l : List α} {s : β × State} {f : β × State → α → β × State}
    (hf : ∀ t x, Keeps z t.2 → Keeps z (f t x).2) (h : Keeps z s.2) : Keeps z (l.foldl f s).2 :=
  forL_keeps (p := fun t : β × State => Keeps z t.2) (f := fun x t => f t x) l (fun x t => hf t x) h

theorem keeps_foldl_snd2 {α β γ : Type} {z : State} {l : List α} {s : β × γ × State} {f : β × γ × State → α → β × γ × State}
    (hf : ∀ t x, Keeps z t.2.2 → Keeps z (f t x).2.2) (h : Keeps z s.2.2) : Keeps z (l.foldl f s).2.2 :=
  forL_keeps (p := fun t : β × γ × State => Keeps z t.2.2) (f := fun x t => f t x) l (fun x t => hf t x) h

end Sys2Proof.Machine
end

