-- ==== Sys2Proof/Laws/Keeps1.lean ====
section
/-! SUPPORT. What every operation and meaning keeps (`Keeps`), part 1: one lemma each, in the order of the model. -/

set_option linter.all false

namespace Sys2Proof.Machine

variable {s₀ s t : State}

theorem keeps_setReg {a v : Nat} (hz : Keeps s₀ s) : Keeps s₀ (setReg a v s) := by
  unfold setReg
  try dsimp only
  with_reducible repeat' first | exact hz | refine Keeps.of ?_ rfl rfl rfl rfl

theorem keeps_setField {a hi lo v : Nat} (hz : Keeps s₀ s) : Keeps s₀ (setField a hi lo v s) := by
  unfold setField
  try dsimp only
  with_reducible repeat' first | exact hz | refine keeps_setReg ?_

theorem keeps_bump {a n : Nat} (hz : Keeps s₀ s) : Keeps s₀ (bump a n s) := by
  unfold bump
  try dsimp only
  with_reducible repeat' first | exact hz | refine keeps_setReg ?_

theorem keeps_bumpSat {a n : Nat} (hz : Keeps s₀ s) : Keeps s₀ (bumpSat a n s) := by
  unfold bumpSat
  try dsimp only
  with_reducible repeat' first | exact hz | refine keeps_setReg ?_

theorem keeps_intRise {page : Nat} (hz : Keeps s₀ s) : Keeps s₀ (intRise page s) := by
  unfold intRise
  try dsimp only
  with_reducible repeat' first | exact hz | refine keeps_ite (fun _ => ?_) (fun _ => ?_) | refine Keeps.of ?_ rfl rfl rfl rfl

theorem keeps_setPend {page mask : Nat} (hz : Keeps s₀ s) : Keeps s₀ (setPend page mask s) := by
  unfold setPend
  try dsimp only
  with_reducible repeat' first | exact hz | refine keeps_setReg ?_ | refine keeps_intRise ?_ | refine keeps_ite (fun _ => ?_) (fun _ => ?_)

theorem keeps_recErr {page ctx sub code : Nat} (hz : Keeps s₀ s) : Keeps s₀ (recErr page ctx sub code s) := by
  unfold recErr
  try dsimp only
  with_reducible repeat' first
    | exact hz | refine keeps_bumpSat ?_ | refine keeps_setPend ?_ | refine keeps_setReg ?_ | refine keeps_ite (fun _ => ?_) (fun _ => ?_)

theorem keeps_recContended {page : Nat} (hz : Keeps s₀ s) : Keeps s₀ (recContended page s) := by
  unfold recContended
  try dsimp only
  with_reducible repeat' first | exact hz | refine keeps_setPend ?_ | refine keeps_setField ?_

theorem keeps_setPoison {g : Nat} {p : Bool} (hz : Keeps s₀ s) : Keeps s₀ (setPoison g p s) := by
  unfold setPoison
  try dsimp only
  with_reducible repeat' first | exact hz | split | refine Keeps.of ?_ rfl rfl rfl rfl

theorem keeps_logDry {die cls code : Nat} {args : List Nat} (hz : Keeps s₀ s) : Keeps s₀ (logDry die cls code args s) := by
  unfold logDry
  try dsimp only
  with_reducible repeat' first | exact hz | refine keeps_setReg ?_ | split | refine Keeps.of ?_ rfl rfl rfl rfl

theorem keeps_chkProduce {pa w : Nat} (hz : Keeps s₀ s) : Keeps s₀ (chkProduce pa w s) := by
  unfold chkProduce
  try dsimp only
  with_reducible repeat' first | exact hz | refine keeps_bump ?_ | refine Keeps.of_put ?_ rfl rfl (Nat.le_refl _) rfl

theorem keeps_lineData {pa : Nat} {l : List Byte} (hz : Keeps s₀ s) : Keeps s₀ (lineData pa l s) := by
  unfold lineData
  try dsimp only
  with_reducible repeat' first
    | exact hz | refine keeps_ite (fun _ => ?_) (fun _ => ?_) | refine Keeps.of_put ?_ rfl rfl (Nat.le_refl _) rfl

theorem keeps_countUpdate {pa : Nat} (hz : Keeps s₀ s) : Keeps s₀ (countUpdate pa s) := by
  unfold countUpdate
  try dsimp only
  with_reducible repeat' first | exact hz | refine keeps_bump ?_ | refine keeps_ite (fun _ => ?_) (fun _ => ?_)

theorem keeps_lineWrite {pa : Nat} {l : List Byte} (hz : Keeps s₀ s) : Keeps s₀ (lineWrite pa l s) := by
  unfold lineWrite
  try dsimp only
  with_reducible repeat' first | exact hz | refine keeps_countUpdate ?_ | refine keeps_lineData ?_

theorem keeps_slotCreate {typ home slot : Nat} {owner : Word} (hz : Keeps s₀ s) : Keeps s₀ (slotCreate typ home slot owner s) := by
  unfold slotCreate
  try dsimp only
  with_reducible repeat' first | exact hz | refine Keeps.of ?_ rfl rfl rfl rfl

theorem keeps_slotDestroy {typ home slot : Nat} (hz : Keeps s₀ s) : Keeps s₀ (slotDestroy typ home slot s) := by
  unfold slotDestroy
  try dsimp only
  with_reducible repeat' first | exact hz | split | refine Keeps.of ?_ rfl rfl rfl rfl

theorem keeps_modCtx {c : Nat} {f : Ctx → Ctx} (hz : Keeps s₀ s) : Keeps s₀ (modCtx c f s) := by
  unfold modCtx
  try dsimp only
  with_reducible repeat' first | exact hz | refine Keeps.of ?_ rfl rfl rfl rfl

theorem keeps_modCtxDie {c die : Nat} {f : CtxDie → CtxDie} (hz : Keeps s₀ s) : Keeps s₀ (modCtxDie c die f s) := by
  unfold modCtxDie
  try dsimp only
  with_reducible repeat' first | exact hz | refine keeps_modCtx ?_

theorem keeps_countInvalid {c : Nat} (hz : Keeps s₀ s) : Keeps s₀ (countInvalid c s) := by
  unfold countInvalid
  try dsimp only
  with_reducible repeat' first | exact hz | refine keeps_modCtx ?_

theorem keeps_presentHandle {page c : Nat} {h : Word} {expect : Nat} (hz : Keeps s₀ s) : Keeps s₀ (presentHandle page c h expect s).2 :=
    by
  unfold presentHandle
  try dsimp only
  with_reducible repeat' first
    | exact hz | refine keeps_recErr ?_ | refine keeps_countInvalid ?_ | refine keeps_ite (fun _ => ?_) (fun _ => ?_) | split

theorem keeps_draw (hz : Keeps s₀ s) : Keeps s₀ (draw s).2 := by
  unfold draw
  try dsimp only
  with_reducible repeat' first | exact hz | refine Keeps.of_draw ?_ rfl rfl rfl rfl

theorem keeps_emit {o : Out} (hz : Keeps s₀ s) : Keeps s₀ (emit o s) := by
  unfold emit
  try dsimp only
  with_reducible repeat' first | exact hz | refine Keeps.of_emit ?_ rfl rfl rfl rfl

theorem keeps_modWeave {die : Nat} {f : Weave → Weave} (hz : Keeps s₀ s) : Keeps s₀ (modWeave die f s) := by
  unfold modWeave
  try dsimp only
  with_reducible repeat' first | exact hz | refine Keeps.of ?_ rfl rfl rfl rfl

theorem keeps_modSet {die la : Nat} {f : WSet → WSet} (hz : Keeps s₀ s) : Keeps s₀ (modSet die la f s) := by
  unfold modSet
  try dsimp only
  with_reducible repeat' first | exact hz | refine keeps_modWeave ?_

theorem keeps_modLine {die la : Nat} {f : WLine → WLine} (hz : Keeps s₀ s) : Keeps s₀ (modLine die la f s) := by
  unfold modLine
  try dsimp only
  with_reducible repeat' first | exact hz | refine keeps_modSet ?_

theorem keeps_invalidate {die la : Nat} (hz : Keeps s₀ s) : Keeps s₀ (invalidate die la s) := by
  unfold invalidate
  try dsimp only
  with_reducible repeat' first | exact hz | refine keeps_modSet ?_

theorem keeps_modLoom {loom : Nat} {f : Loom → Loom} (hz : Keeps s₀ s) : Keeps s₀ (modLoom loom f s) := by
  unfold modLoom
  try dsimp only
  with_reducible repeat' first | exact hz | refine Keeps.of ?_ rfl rfl rfl rfl

theorem keeps_modSkein {loom skein : Nat} {f : Skein → Skein} (hz : Keeps s₀ s) : Keeps s₀ (modSkein loom skein f s) := by
  unfold modSkein
  try dsimp only
  with_reducible repeat' first | exact hz | refine keeps_modLoom ?_

theorem keeps_lcvRelease {loom skein id : Nat} (hz : Keeps s₀ s) : Keeps s₀ (lcvRelease loom skein id s) := by
  unfold lcvRelease
  try dsimp only
  with_reducible repeat' first | exact hz | refine keeps_modSkein ?_

theorem keeps_mergeOut {die la : Nat} (hz : Keeps s₀ s) : Keeps s₀ (mergeOut die la s) := by
  unfold mergeOut
  try dsimp only
  with_reducible repeat' first
    | exact hz | refine keeps_lineWrite ?_ | refine keeps_setPoison ?_ | refine keeps_invalidate ?_ | refine keeps_bump ?_
    | refine keeps_ite (fun _ => ?_) (fun _ => ?_) | split

theorem keeps_writeBack {die la : Nat} (hz : Keeps s₀ s) : Keeps s₀ (writeBack die la s) := by
  unfold writeBack
  try dsimp only
  with_reducible repeat' first | exact hz | refine keeps_countUpdate ?_ | refine keeps_ite (fun _ => ?_) (fun _ => ?_)

theorem keeps_registerLine {die la : Nat} (hz : Keeps s₀ s) : Keeps s₀ (registerLine die la s) := by
  unfold registerLine
  try dsimp only
  with_reducible repeat' first
    | exact hz | assumption | refine keeps_forL ?_ ?_ | refine keeps_invalidate ?_ | refine keeps_writeBack ?_ | refine keeps_modLine ?_
    | intro _ | split

theorem keeps_ackLine {die la : Nat} (hz : Keeps s₀ s) : Keeps s₀ (ackLine die la s) := by
  unfold ackLine
  try dsimp only
  with_reducible repeat' first
    | exact hz | assumption | refine keeps_forL ?_ ?_ | refine keeps_modLine ?_ | refine keeps_lcvRelease ?_
    | refine keeps_ite (fun _ => ?_) (fun _ => ?_) | intro _ | split

theorem keeps_settleLine {die la : Nat} (hz : Keeps s₀ s) : Keeps s₀ (settleLine die la s) := by
  unfold settleLine
  try dsimp only
  with_reducible repeat' first
    | exact hz | refine keeps_ackLine ?_ | refine keeps_registerLine ?_ | refine keeps_ite (fun _ => ?_) (fun _ => ?_) | split

theorem keeps_recallReductions {la : Nat} (hz : Keeps s₀ s) : Keeps s₀ (recallReductions la s) := by
  unfold recallReductions
  try dsimp only
  with_reducible repeat' first
    | exact hz | assumption | refine keeps_forL ?_ ?_ | refine keeps_bump ?_ | refine keeps_mergeOut ?_ | refine keeps_settleLine ?_
    | intro _

theorem keeps_dirRead {die la : Nat} (hz : Keeps s₀ s) : Keeps s₀ (dirRead die la s) := by
  unfold dirRead
  try dsimp only
  with_reducible repeat' first
    | exact hz | assumption | refine keeps_forL ?_ ?_ | refine keeps_modLine ?_ | refine keeps_writeBack ?_
    | refine keeps_recallReductions ?_ | intro _ | split

theorem keeps_dirM {die la : Nat} (hz : Keeps s₀ s) : Keeps s₀ (dirM die la s) := by
  unfold dirM
  try dsimp only
  with_reducible repeat' first
    | exact hz | assumption | refine keeps_forL ?_ ?_ | refine keeps_invalidate ?_ | refine keeps_recallReductions ?_
    | refine keeps_ite (fun _ => ?_) (fun _ => ?_) | intro _

theorem keeps_memM {la : Nat} (hz : Keeps s₀ s) : Keeps s₀ (memM la s) := by
  unfold memM
  try dsimp only
  with_reducible repeat' first
    | exact hz | assumption | refine keeps_forL ?_ ?_ | refine keeps_invalidate ?_ | refine keeps_writeBack ?_
    | refine keeps_recallReductions ?_ | refine keeps_ite (fun _ => ?_) (fun _ => ?_) | intro _

theorem keeps_dirEvict {la : Nat} (hz : Keeps s₀ s) : Keeps s₀ (dirEvict la s) := by
  unfold dirEvict
  try dsimp only
  with_reducible repeat' first | exact hz | refine keeps_setPend ?_ | refine keeps_bump ?_ | refine keeps_memM ?_

theorem keeps_dirRoom {la : Nat} (hz : Keeps s₀ s) : Keeps s₀ (dirRoom la s) := by
  unfold dirRoom
  try dsimp only
  with_reducible repeat' first
    | exact hz | refine keeps_draw ?_ | refine keeps_dirEvict ?_ | refine keeps_ite (fun _ => ?_) (fun _ => ?_) | split

theorem keeps_evictWay {die la way : Nat} (hz : Keeps s₀ s) : Keeps s₀ (evictWay die la way s) := by
  unfold evictWay
  try dsimp only
  with_reducible repeat' first
    | exact hz | refine keeps_writeBack ?_ | refine keeps_mergeOut ?_ | refine keeps_settleLine ?_ | refine keeps_modSet ?_ | split

theorem keeps_allocLine {die la part : Nat} {streamWay : Bool} {byStream : Option Nat} {st : LineState} (hz : Keeps s₀ s) : Keeps s₀
    (allocLine die la part streamWay byStream st s) := by
  unfold allocLine
  try dsimp only
  with_reducible repeat' first
    | exact hz | refine keeps_setPend ?_ | refine keeps_bumpSat ?_ | refine keeps_evictWay ?_ | refine keeps_bump ?_
    | refine keeps_modSet ?_ | refine keeps_ite (fun _ => ?_) (fun _ => ?_) | split

theorem keeps_streamMiss {die la part : Nat} (hz : Keeps s₀ s) : Keeps s₀ (streamMiss die la part s).2 := by
  unfold streamMiss
  try dsimp only
  with_reducible repeat' first
    | exact hz | refine keeps_modWeave ?_ | refine keeps_bumpSat ?_ | refine keeps_ite (fun _ => ?_) (fun _ => ?_) | split

theorem keeps_streamHit {die la id : Nat} (hz : Keeps s₀ s) : Keeps s₀ (streamHit die la id s) := by
  unfold streamHit
  try dsimp only
  with_reducible repeat' first | exact hz | refine keeps_modWeave ?_

theorem keeps_thrashMiss {die la part : Nat} (hz : Keeps s₀ s) : Keeps s₀ (thrashMiss die la part s) := by
  unfold thrashMiss
  try dsimp only
  with_reducible repeat' first
    | exact hz | refine keeps_modWeave ?_ | refine keeps_setPend ?_ | refine keeps_setReg ?_ | refine keeps_logDry ?_
    | refine keeps_ite (fun _ => ?_) (fun _ => ?_)

theorem keeps_releaseWaiter {w : Waiter} (hz : Keeps s₀ s) : Keeps s₀ (releaseWaiter w s) := by
  unfold releaseWaiter
  try dsimp only
  with_reducible repeat' first | exact hz | refine keeps_lcvRelease ?_ | split

theorem keeps_modMiss {die la : Nat} {f : MissReg → MissReg} (hz : Keeps s₀ s) : Keeps s₀ (modMiss die la f s) := by
  unfold modMiss
  try dsimp only
  with_reducible repeat' first | exact hz | refine keeps_modWeave ?_

theorem keeps_holdInput {a : Acc} {la : Nat} {forM : Bool} (hz : Keeps s₀ s) : Keeps s₀ (holdInput a la forM s) := by
  unfold holdInput
  try dsimp only
  with_reducible repeat' first | exact hz | refine keeps_modWeave ?_

theorem keeps_joinMiss {a : Acc} {la : Nat} {forM : Bool} (hz : Keeps s₀ s) : Keeps s₀ (joinMiss a la forM s) := by
  unfold joinMiss
  try dsimp only
  with_reducible repeat' first
    | exact hz | refine keeps_holdInput ?_ | refine keeps_bumpSat ?_ | refine keeps_modMiss ?_
    | refine keeps_ite (fun _ => ?_) (fun _ => ?_)

theorem keeps_cachedWrite {die pa : Nat} {l : List Byte} (hz : Keeps s₀ s) : Keeps s₀ (cachedWrite die pa l s) := by
  unfold cachedWrite
  try dsimp only
  with_reducible repeat' first
    | exact hz | refine keeps_lineData ?_ | refine keeps_lineWrite ?_ | refine keeps_ite (fun _ => ?_) (fun _ => ?_)

theorem keeps_redInPlace {die la : Nat} {r : RedWait} (hz : Keeps s₀ s) : Keeps s₀ (redInPlace die la r s) := by
  unfold redInPlace
  try dsimp only
  with_reducible repeat' first
    | exact hz | refine keeps_cachedWrite ?_ | refine keeps_setPoison ?_ | refine keeps_ite (fun _ => ?_) (fun _ => ?_)

theorem keeps_flushReds {die la : Nat} (hz : Keeps s₀ s) : Keeps s₀ (flushReds die la s) := by
  unfold flushReds
  try dsimp only
  with_reducible repeat' first
    | exact hz | assumption | refine keeps_forL ?_ ?_ | refine keeps_modMiss ?_ | refine keeps_dirM ?_ | refine keeps_redInPlace ?_
    | refine keeps_lcvRelease ?_ | refine keeps_ite (fun _ => ?_) (fun _ => ?_) | intro _ | split

theorem keeps_openMiss {a : Acc} {la : Nat} {forM : Bool} (hz : Keeps s₀ s) : Keeps s₀ (openMiss a la forM s) := by
  unfold openMiss
  try dsimp only
  with_reducible repeat' first
    | exact hz | refine keeps_thrashMiss ?_ | refine keeps_bump ?_ | refine keeps_streamMiss ?_ | refine keeps_modWeave ?_
    | refine keeps_allocLine ?_ | refine keeps_ite (fun _ => ?_) (fun _ => ?_) | split

theorem keeps_countHit {die la : Nat} (hz : Keeps s₀ s) : Keeps s₀ (countHit die la s) := by
  unfold countHit
  try dsimp only
  with_reducible repeat' first | exact hz | refine keeps_bump ?_ | refine keeps_streamHit ?_ | split

theorem keeps_accessLine {a : Acc} {la : Nat} {forM : Bool} (hz : Keeps s₀ s) : Keeps s₀ (accessLine a la forM s).2 := by
  unfold accessLine
  try dsimp only
  with_reducible repeat' first
    | exact hz | refine keeps_countHit ?_ | refine keeps_dirM ?_ | refine keeps_modSet ?_ | refine keeps_modLine ?_
    | refine keeps_flushReds ?_ | refine keeps_dirRead ?_ | refine keeps_joinMiss ?_ | refine keeps_holdInput ?_ | refine keeps_bump ?_
    | refine keeps_openMiss ?_ | refine keeps_ite (fun _ => ?_) (fun _ => ?_) | split

theorem keeps_reduceLine {a : Acc} {la : Nat} {r : RedWait} (hz : Keeps s₀ s) : Keeps s₀ (reduceLine a la r s).2 := by
  unfold reduceLine
  try dsimp only
  with_reducible repeat' first
    | exact hz | refine keeps_redInPlace ?_ | refine keeps_dirM ?_ | refine keeps_setPend ?_ | refine keeps_bumpSat ?_
    | refine keeps_allocLine ?_ | refine keeps_modLine ?_ | refine keeps_joinMiss ?_ | refine keeps_accessLine ?_
    | refine keeps_countHit ?_ | refine keeps_mergeOut ?_ | refine keeps_settleLine ?_ | refine keeps_ite (fun _ => ?_) (fun _ => ?_)
    | split

theorem keeps_serveWaiter {die : Nat} {x : QAccess} (hz : Keeps s₀ s) : Keeps s₀ (serveWaiter die x s) := by
  unfold serveWaiter
  try dsimp only
  with_reducible repeat' first
    | exact hz | refine keeps_reduceLine ?_ | refine keeps_accessLine ?_ | refine keeps_releaseWaiter ?_
    | refine keeps_ite (fun _ => ?_) (fun _ => ?_) | split

theorem keeps_drainInput {die sl : Nat} (hz : Keeps s₀ s) : Keeps s₀ (drainInput die sl s) := by
  unfold drainInput
  try dsimp only
  with_reducible repeat' first
    | exact hz | assumption | refine keeps_forL ?_ ?_ | refine keeps_serveWaiter ?_ | refine keeps_modWeave ?_
    | refine keeps_ite (fun _ => ?_) (fun _ => ?_) | intro _

theorem keeps_deliverFill {die la : Nat} (hz : Keeps s₀ s) : Keeps s₀ (deliverFill die la s) := by
  unfold deliverFill
  try dsimp only
  with_reducible repeat' first
    | exact hz | assumption | refine keeps_forL ?_ ?_ | refine keeps_modWeave ?_ | refine keeps_dirM ?_ | refine keeps_dirRead ?_
    | refine keeps_allocLine ?_ | refine keeps_countUpdate ?_ | refine keeps_bump ?_ | refine keeps_drainInput ?_
    | refine keeps_serveWaiter ?_ | refine keeps_releaseWaiter ?_ | refine keeps_ite (fun _ => ?_) (fun _ => ?_) | intro _ | split

theorem keeps_settleSkein {die loom skein : Nat} (hz : Keeps s₀ s) : Keeps s₀ (settleSkein die loom skein s) := by
  unfold settleSkein
  try dsimp only
  with_reducible repeat' first
    | exact hz | assumption | refine keeps_forL ?_ ?_ | refine keeps_settleLine ?_ | refine keeps_flushReds ?_ | intro _

theorem keeps_settleFrames {pa n : Nat} (hz : Keeps s₀ s) : Keeps s₀ (settleFrames pa n s) := by
  unfold settleFrames
  try dsimp only
  with_reducible repeat' first
    | exact hz | assumption | refine keeps_forL ?_ ?_ | refine keeps_settleLine ?_ | refine keeps_flushReds ?_ | refine keeps_modWeave ?_
    | refine keeps_releaseWaiter ?_ | refine keeps_redInPlace ?_ | refine keeps_dirM ?_ | intro _ | split

theorem keeps_engRead {a : Acc} {pa n : Nat} (hz : Keeps s₀ s) : Keeps s₀ (engRead a pa n s).2 := by
  unfold engRead
  try dsimp only
  with_reducible repeat' first | exact hz | assumption | refine keeps_forL ?_ ?_ | refine keeps_accessLine ?_ | intro _

theorem keeps_engWrite {a : Acc} {pa : Nat} {l : List (Byte × Bool)} {carried : Nat → Option Nat} (hz : Keeps s₀ s) : Keeps s₀ (engWrite
    a pa l carried s) := by
  unfold engWrite
  try dsimp only
  with_reducible repeat' first
    | exact hz | assumption | refine keeps_forL ?_ ?_ | refine keeps_memM ?_ | refine keeps_accessLine ?_ | refine keeps_setPoison ?_
    | refine keeps_chkProduce ?_ | refine keeps_cachedWrite ?_ | refine keeps_ite (fun _ => ?_) (fun _ => ?_) | intro _
    | refine Keeps.of_put ?_ rfl rfl (Nat.le_refl _) rfl

theorem keeps_vRead {eng c va n : Nat} (hz : Keeps s₀ s) : Keeps s₀ (vRead eng c va n s).2 := by
  unfold vRead
  try dsimp only
  with_reducible repeat' first | exact hz | assumption | refine keeps_foldl_snd ?_ ?_ | refine keeps_engRead ?_ | intro _ | split

theorem keeps_vWriteC {eng c va : Nat} {l : List (Byte × Bool)} {carried : List (Nat × Nat)} (hz : Keeps s₀ s) : Keeps s₀ (vWriteC eng c
    va l carried s).2 := by
  unfold vWriteC
  try dsimp only
  with_reducible repeat' first | exact hz | assumption | refine keeps_foldl_snd ?_ ?_ | refine keeps_engWrite ?_ | intro _ | split

theorem keeps_vWrite {eng c va : Nat} {l : List (Byte × Bool)} (hz : Keeps s₀ s) : Keeps s₀ (vWrite eng c va l s).2 := by
  unfold vWrite
  try dsimp only
  with_reducible repeat' first | exact hz | refine keeps_vWriteC ?_

theorem keeps_dmaIdle {die eng : Nat} (hz : Keeps s₀ s) : Keeps s₀ (dmaIdle die eng s) := by
  unfold dmaIdle
  try dsimp only
  with_reducible repeat' first | exact hz | refine keeps_setReg ?_

theorem keeps_startTeardown {c : Nat} {answer : List (Nat × Nat)} (hz : Keeps s₀ s) : Keeps s₀ (startTeardown c answer s) := by
  unfold startTeardown
  try dsimp only
  with_reducible repeat' first
    | exact hz | assumption | refine keeps_forL ?_ ?_ | refine keeps_modCtx ?_ | refine keeps_dmaIdle ?_ | intro _ | split
    | refine Keeps.of ?_ rfl rfl rfl rfl

theorem keeps_logPage {page code : Nat} {args : List Nat} (hz : Keeps s₀ s) : Keeps s₀ (logPage page code args s) := by
  unfold logPage
  try dsimp only
  with_reducible repeat' first | exact hz | refine keeps_logDry ?_

theorem keeps_killForPoison {page c sub : Nat} (hz : Keeps s₀ s) : Keeps s₀ (killForPoison page c sub s) := by
  unfold killForPoison
  try dsimp only
  with_reducible repeat' first
    | exact hz | refine keeps_startTeardown ?_ | refine keeps_logPage ?_ | refine keeps_ite (fun _ => ?_) (fun _ => ?_) | split

theorem keeps_poisonKill {page c sub : Nat} (hz : Keeps s₀ s) : Keeps s₀ (poisonKill page c sub s) := by
  unfold poisonKill
  try dsimp only
  with_reducible repeat' first | exact hz | refine keeps_killForPoison ?_ | refine keeps_recErr ?_

theorem keeps_modQueue {h : Word} {f : Queue → Queue} (hz : Keeps s₀ s) : Keeps s₀ (modQueue h f s) := by
  unfold modQueue
  try dsimp only
  with_reducible repeat' first | exact hz | refine Keeps.of ?_ rfl rfl rfl rfl

theorem keeps_msgWrite {h : Word} {entry : List Byte} (hz : Keeps s₀ s) : Keeps s₀ (msgWrite h entry s).2.2 := by
  unfold msgWrite
  try dsimp only
  with_reducible repeat' first
    | exact hz | refine keeps_vWrite ?_ | refine keeps_modQueue ?_ | refine keeps_recErr ?_ | refine keeps_killForPoison ?_
    | refine keeps_pair (by assumption) ?_ | refine keeps_ite (fun _ => ?_) (fun _ => ?_) | split

theorem keeps_cplDrop {die : Nat} (hz : Keeps s₀ s) : Keeps s₀ (cplDrop die s) := by
  unfold cplDrop
  try dsimp only
  with_reducible repeat' first | exact hz | refine keeps_bumpSat ?_

theorem keeps_postEntry {h : Word} {entry : List Byte} (hz : Keeps s₀ s) : Keeps s₀ (postEntry h entry s) := by
  unfold postEntry
  try dsimp only
  with_reducible repeat' first
    | exact hz | refine keeps_cplDrop ?_ | refine keeps_msgWrite ?_ | refine keeps_ite (fun _ => ?_) (fun _ => ?_) | split
    | refine Keeps.of ?_ rfl rfl rfl rfl

theorem keeps_postCompletion {cplQ : Word} {status sub source : Nat} {queue : Word} {id : Nat} {results : List Nat} (hz : Keeps s₀ s) :
    Keeps s₀ (postCompletion cplQ status sub source queue id results s) := by
  unfold postCompletion
  try dsimp only
  with_reducible repeat' first | exact hz | refine keeps_postEntry ?_

theorem keeps_deliverFaults {fuel c : Nat} (hz : Keeps s₀ s) : Keeps s₀ (deliverFaults fuel c s) := by
  induction fuel generalizing s with
  | zero => exact hz
  | succ f ih =>
    unfold deliverFaults
    split
    · exact hz
    · split
      · exact hz
      · split
        · exact hz
        · split
          next h =>
          refine ih (keeps_ite (fun _ => ?_) (fun _ => ?_))
          · exact keeps_modCtx (keeps_pair2 h (keeps_msgWrite hz))
          · exact keeps_modCtxDie (keeps_modCtx (keeps_pair2 h (keeps_msgWrite hz)))

theorem keeps_postFault {c die : Nat} {record : List Byte} (hz : Keeps s₀ s) : Keeps s₀ (postFault c die record s) := by
  unfold postFault
  try dsimp only
  with_reducible repeat' first
    | exact hz | refine keeps_modCtxDie ?_ | refine keeps_deliverFaults ?_ | refine keeps_modCtx ?_
    | refine keeps_ite (fun _ => ?_) (fun _ => ?_) | split

theorem keeps_postDelayed (hz : Keeps s₀ s) : Keeps s₀ (postDelayed s) := by
  unfold postDelayed
  try dsimp only
  with_reducible repeat' first
    | exact hz | refine keeps_cplDrop ?_ | refine keeps_msgWrite ?_ | refine keeps_ite (fun _ => ?_) (fun _ => ?_) | split
    | refine Keeps.of ?_ rfl rfl rfl rfl

theorem keeps_modPort {k : Nat} {f : LinkPort → LinkPort} (hz : Keeps s₀ s) : Keeps s₀ (modPort k f s) := by
  unfold modPort
  try dsimp only
  with_reducible repeat' first | exact hz | refine Keeps.of ?_ rfl rfl rfl rfl

theorem keeps_sendCodewords {fuel k : Nat} {flits : List Byte} (hz : Keeps s₀ s) : Keeps s₀ (sendCodewords fuel k flits s) := by
  induction fuel generalizing flits s with
  | zero => exact hz
  | succ f ih =>
    unfold sendCodewords
    try dsimp only
    exact keeps_ite (fun _ => hz) (fun _ => ih (keeps_emit hz))

theorem keeps_sendFrame {k : Nat} {data : List Byte} (hz : Keeps s₀ s) : Keeps s₀ (sendFrame k data s) := by
  unfold sendFrame
  try dsimp only
  with_reducible repeat' first | exact hz | refine keeps_modPort ?_ | refine keeps_sendCodewords ?_

theorem keeps_closeFull {fuel k : Nat} (hz : Keeps s₀ s) : Keeps s₀ (closeFull fuel k s) := by
  induction fuel generalizing s with
  | zero => exact hz
  | succ f ih =>
    unfold closeFull
    try dsimp only
    exact keeps_ite (fun _ => hz) (fun _ => ih (keeps_modPort (keeps_sendFrame hz)))

theorem keeps_sendFlits {k : Nat} {flits : List Byte} (hz : Keeps s₀ s) : Keeps s₀ (sendFlits k flits s) := by
  unfold sendFlits
  try dsimp only
  with_reducible repeat' first | exact hz | refine keeps_closeFull ?_ | refine keeps_modPort ?_ | refine keeps_bump ?_

theorem keeps_sendControl {k kind : Nat} {args : List Nat} (hz : Keeps s₀ s) : Keeps s₀ (sendControl k kind args s) := by
  unfold sendControl
  try dsimp only
  with_reducible repeat' first | exact hz | refine keeps_emit ?_ | refine keeps_sendFlits ?_

theorem keeps_freeFlits {src : Option (Nat × Nat)} {n : Nat} (hz : Keeps s₀ s) : Keeps s₀ (freeFlits src n s) := by
  unfold freeFlits
  try dsimp only
  with_reducible repeat' first | exact hz | refine keeps_modPort ?_ | refine keeps_ite (fun _ => ?_) (fun _ => ?_) | split

theorem keeps_putOnLink {k : Nat} {x : TxEntry} (hz : Keeps s₀ s) : Keeps s₀ (putOnLink k x s) := by
  unfold putOnLink
  try dsimp only
  with_reducible repeat' first
    | exact hz | refine keeps_modPort ?_ | refine keeps_emit ?_ | refine keeps_sendFlits ?_ | refine keeps_freeFlits ?_

theorem keeps_pump {fuel k : Nat} (hz : Keeps s₀ s) : Keeps s₀ (pump fuel k s) := by
  induction fuel generalizing s with
  | zero => exact hz
  | succ f ih =>
    unfold pump
    try dsimp only
    split
    · exact hz
    · split
      · exact hz
      · exact ih (keeps_putOnLink (keeps_modPort hz))

theorem keeps_pumpPort {k : Nat} (hz : Keeps s₀ s) : Keeps s₀ (pumpPort k s) := by
  unfold pumpPort
  try dsimp only
  with_reducible repeat' first | exact hz | refine keeps_pump ?_

theorem keeps_enqueueOn {k : Nat} {src : Option (Nat × Nat)} {p : Packet} (hz : Keeps s₀ s) : Keeps s₀ (enqueueOn k src p s) := by
  unfold enqueueOn
  try dsimp only
  with_reducible repeat' first | exact hz | refine keeps_pumpPort ?_ | refine keeps_modPort ?_

theorem keeps_routePkt {arrival : Option Nat} {p : Packet} (hz : Keeps s₀ s) : Keeps s₀ (routePkt arrival p s).2 := by
  unfold routePkt
  try dsimp only
  with_reducible repeat' first
    | exact hz | refine keeps_freeFlits ?_ | refine keeps_enqueueOn ?_ | split | refine Keeps.of ?_ rfl rfl rfl rfl

theorem keeps_countUnreach {die : Nat} (hz : Keeps s₀ s) : Keeps s₀ (countUnreach die s) := by
  unfold countUnreach
  try dsimp only
  with_reducible repeat' first | exact hz | refine keeps_bumpSat ?_

theorem keeps_sendResponse {die dest op : Nat} {issuer : Word} {poison : Bool} {body : List Byte} (hz : Keeps s₀ s) : Keeps s₀
    (sendResponse die dest op issuer poison body s) := by
  unfold sendResponse
  try dsimp only
  with_reducible repeat' first
    | exact hz | refine keeps_routePkt ?_ | refine keeps_countUnreach ?_ | refine keeps_pair (by assumption) ?_ | split

theorem keeps_respond {die : Nat} {req : Packet} {issuer : Word} {op tag status sub poisonMask : Nat} {payload : List Byte} (hz : Keeps
    s₀ s) : Keeps s₀ (respond die req issuer op tag status sub poisonMask payload s) := by
  unfold respond
  try dsimp only
  with_reducible repeat' first | exact hz | refine keeps_sendResponse ?_

theorem keeps_nackPkt {die : Nat} {p : Packet} {status sub : Nat} (hz : Keeps s₀ s) : Keeps s₀ (nackPkt die p status sub s) := by
  unfold nackPkt
  try dsimp only
  with_reducible repeat' first | exact hz | refine keeps_respond ?_

theorem keeps_unreachable {die : Nat} {p : Packet} (hz : Keeps s₀ s) : Keeps s₀ (unreachable die p s) := by
  unfold unreachable
  try dsimp only
  with_reducible repeat' first
    | exact hz | refine keeps_countUnreach ?_ | refine keeps_nackPkt ?_ | refine keeps_ite (fun _ => ?_) (fun _ => ?_)

theorem keeps_fabIssue {req : FabReq} {p : Packet} (hz : Keeps s₀ s) : Keeps s₀ (fabIssue req p s).2 := by
  unfold fabIssue
  try dsimp only
  with_reducible repeat' first
    | exact hz | refine keeps_routePkt ?_ | refine keeps_countUnreach ?_ | refine keeps_pair (by assumption) ?_ | split
    | refine Keeps.of ?_ rfl rfl rfl rfl

theorem keeps_windowError {die slot : Nat} (hz : Keeps s₀ s) : Keeps s₀ (windowError die slot s) := by
  unfold windowError
  try dsimp only
  with_reducible repeat' first | exact hz | refine Keeps.of ?_ rfl rfl rfl rfl

theorem keeps_modChk {die : Nat} {f : CheckBlk → CheckBlk} (hz : Keeps s₀ s) : Keeps s₀ (modChk die f s) := by
  unfold modChk
  try dsimp only
  with_reducible repeat' first | exact hz | refine Keeps.of ?_ rfl rfl rfl rfl

theorem keeps_checkFailed {die page c sub : Nat} {block : Option Nat} (hz : Keeps s₀ s) : Keeps s₀ (checkFailed die page c sub block s)
    := by
  unfold checkFailed
  try dsimp only
  with_reducible repeat' first
    | exact hz | refine keeps_setPend ?_ | refine keeps_bumpSat ?_ | refine keeps_recErr ?_ | refine keeps_setReg ?_
    | refine keeps_modChk ?_ | refine keeps_logDry ?_ | refine keeps_ite (fun _ => ?_) (fun _ => ?_)

theorem keeps_checkReported {die page c sub : Nat} {block : Option Nat} (hz : Keeps s₀ s) : Keeps s₀ (checkReported die page c sub block
    s) := by
  unfold checkReported
  try dsimp only
  with_reducible repeat' first | exact hz | refine keeps_recErr ?_ | refine keeps_checkFailed ?_

theorem keeps_verifyBlock {die page c pa : Nat} (hz : Keeps s₀ s) : Keeps s₀ (verifyBlock die page c pa s).2 := by
  unfold verifyBlock
  try dsimp only
  with_reducible repeat' first
    | exact hz | assumption | refine keeps_forN ?_ ?_ | refine keeps_dirRead ?_ | refine keeps_bumpSat ?_ | refine keeps_bump ?_
    | refine keeps_checkFailed ?_ | intro _ | split

theorem keeps_verifyAll {die page c : Nat} {l : List Nat} (hz : Keeps s₀ s) : Keeps s₀ (verifyAll die page c l s).2 := by
  unfold verifyAll
  refine keeps_foldl_snd (fun acc b h => ?_) hz
  split
  · exact keeps_verifyBlock h
  · exact h

theorem keeps_vReadList {eng c : Nat} {rs : List (Nat × Nat)} (hz : Keeps s₀ s) : Keeps s₀ (vReadList eng c rs s).2 := by
  induction rs generalizing s with
  | nil => exact hz
  | cons x r ih =>
    unfold vReadList
    try dsimp only
    split
    · exact keeps_pair (by assumption) (keeps_vRead hz)
    · split
      · next h => exact keeps_pair h (ih (keeps_pair (by assumption) (keeps_vRead hz)))
      · next h => exact keeps_pair h (ih (keeps_pair (by assumption) (keeps_vRead hz)))

theorem keeps_opRead {eng page c : Nat} {rs : List (Nat × Nat)} (hz : Keeps s₀ s) : Keeps s₀ (opRead eng page c rs s).2 := by
  unfold opRead
  try dsimp only
  with_reducible repeat' first
    | exact hz | refine keeps_verifyAll ?_ | refine keeps_vReadList ?_ | refine keeps_pair (by assumption) ?_ | split

theorem keeps_opReadSeen {eng page c : Nat} {rs : List (Nat × Nat)} {seen : List Nat} (hz : Keeps s₀ s) : Keeps s₀ (opReadSeen eng page c
    rs seen s).2.2 := by
  unfold opReadSeen
  try dsimp only
  with_reducible repeat' first
    | exact hz | refine keeps_verifyAll ?_ | refine keeps_vReadList ?_ | refine keeps_pair (by assumption) ?_ | split

theorem keeps_countStale {slot die : Nat} (hz : Keeps s₀ s) : Keeps s₀ (countStale slot die s) := by
  unfold countStale
  try dsimp only
  with_reducible repeat' first | exact hz | refine Keeps.of ?_ rfl rfl rfl rfl

theorem keeps_judgeEntry {h : Word} {epoch : Nat} {entry stray : List Byte} (hz : Keeps s₀ s) : Keeps s₀ (judgeEntry h epoch entry stray
    s).2 := by
  unfold judgeEntry
  try dsimp only
  with_reducible repeat' first
    | exact hz | refine keeps_countStale ?_ | refine keeps_msgWrite ?_ | refine keeps_cplDrop ?_ | refine keeps_modCtxDie ?_
    | refine keeps_ite (fun _ => ?_) (fun _ => ?_) | split

theorem keeps_judgeMessage {h : Word} {epoch pos slot : Nat} {ack : Bool} {msg : List Byte} (hz : Keeps s₀ s) : Keeps s₀ (judgeMessage h
    epoch pos slot ack msg s).2 := by
  unfold judgeMessage
  try dsimp only
  with_reducible repeat' first | exact hz | refine keeps_judgeEntry ?_

theorem keeps_chargeV {die : Nat} (hz : Keeps s₀ s) : Keeps s₀ (chargeV die s) := by
  unfold chargeV
  try dsimp only
  with_reducible repeat' first
    | exact hz | assumption | refine keeps_forL ?_ ?_ | refine keeps_modCtxDie ?_ | intro _ | refine Keeps.of ?_ rfl rfl rfl rfl

theorem keeps_putSlot {loom n : Nat} {v : AccSlot} (hz : Keeps s₀ s) : Keeps s₀ (putSlot loom n v s) := by
  unfold putSlot
  try dsimp only
  with_reducible repeat' first | exact hz | refine keeps_modLoom ?_

theorem keeps_modHalf {loom : Nat} {east : Bool} {f : ArrayHalf → ArrayHalf} (hz : Keeps s₀ s) : Keeps s₀ (modHalf loom east f s) := by
  unfold modHalf
  try dsimp only
  with_reducible repeat' first | exact hz | refine keeps_modLoom ?_

theorem keeps_barRelease {loom b : Nat} (hz : Keeps s₀ s) : Keeps s₀ (barRelease loom b s) := by
  unfold barRelease
  try dsimp only
  with_reducible repeat' first | exact hz | refine keeps_modLoom ?_

theorem keeps_barCheck {loom b : Nat} (hz : Keeps s₀ s) : Keeps s₀ (barCheck loom b s) := by
  unfold barCheck
  try dsimp only
  with_reducible repeat' first
    | exact hz | refine keeps_barRelease ?_ | refine keeps_modLoom ?_ | refine keeps_ite (fun _ => ?_) (fun _ => ?_) | split

theorem keeps_barExit {loom skein t : Nat} (hz : Keeps s₀ s) : Keeps s₀ (barExit loom skein t s) := by
  unfold barExit
  try dsimp only
  with_reducible repeat' first
    | exact hz | assumption | refine keeps_forL ?_ ?_ | refine keeps_modLoom ?_ | refine keeps_barCheck ?_
    | refine keeps_ite (fun _ => ?_) (fun _ => ?_) | intro _

theorem keeps_reuseDrop {loom skein : Nat} (hz : Keeps s₀ s) : Keeps s₀ (reuseDrop loom skein s) := by
  unfold reuseDrop
  try dsimp only
  with_reducible repeat' first | exact hz | refine keeps_modLoom ?_

theorem keeps_releaseLease {loom : Nat} {east : Bool} (hz : Keeps s₀ s) : Keeps s₀ (releaseLease loom east s) := by
  unfold releaseLease
  try dsimp only
  with_reducible repeat' first | exact hz | refine keeps_chargeV ?_ | refine keeps_modLoom ?_ | refine keeps_ite (fun _ => ?_) (fun _ => ?_)

theorem keeps_skeinFinish {loom skein : Nat} (hz : Keeps s₀ s) : Keeps s₀ (skeinFinish loom skein s) := by
  unfold skeinFinish
  try dsimp only
  with_reducible repeat' first
    | exact hz | refine keeps_reuseDrop ?_ | refine keeps_modLoom ?_ | refine keeps_releaseLease ?_
    | refine keeps_ite (fun _ => ?_) (fun _ => ?_) | split | refine Keeps.of ?_ rfl rfl rfl rfl

theorem keeps_exitThreads {loom skein mask : Nat} (hz : Keeps s₀ s) : Keeps s₀ (exitThreads loom skein mask s) := by
  unfold exitThreads
  try dsimp only
  with_reducible repeat' first
    | exact hz | assumption | refine keeps_forL ?_ ?_ | refine keeps_modSkein ?_ | refine keeps_postFault ?_ | refine keeps_barExit ?_
    | refine keeps_skeinFinish ?_ | intro _ | split

theorem keeps_haltSkein {loom skein : Nat} (hz : Keeps s₀ s) : Keeps s₀ (haltSkein loom skein s) := by
  unfold haltSkein
  try dsimp only
  with_reducible repeat' first
    | exact hz | refine keeps_exitThreads ?_ | refine keeps_modSkein ?_ | refine keeps_modCtxDie ?_ | split

theorem keeps_loomFault {loom skein : Nat} {domain : List Nat} {code sub src pc va active thread : Nat} (hz : Keeps s₀ s) : Keeps s₀
    (loomFault loom skein domain code sub src pc va active thread s) := by
  unfold loomFault
  try dsimp only
  with_reducible repeat' first
    | exact hz | assumption | refine keeps_forL ?_ ?_ | refine keeps_setPend ?_ | refine keeps_recErr ?_ | refine keeps_postFault ?_
    | refine keeps_haltSkein ?_ | refine keeps_startTeardown ?_ | intro _ | split

theorem keeps_insFault {e : Env} {code sub va thread : Nat} (hz : Keeps s₀ s) : Keeps s₀ (insFault e code sub va thread s) := by
  unfold insFault
  try dsimp only
  with_reducible repeat' first | exact hz | refine keeps_loomFault ?_

theorem keeps_poisonFault {e : Env} {sub va thread : Nat} (hz : Keeps s₀ s) : Keeps s₀ (poisonFault e sub va thread s) := by
  unfold poisonFault
  try dsimp only
  with_reducible repeat' first | exact hz | refine keeps_killForPoison ?_ | refine keeps_insFault ?_

theorem keeps_xlFault {e : Env} {code sub va thread : Nat} (hz : Keeps s₀ s) : Keeps s₀ (xlFault e code sub va thread s) := by
  unfold xlFault
  try dsimp only
  with_reducible repeat' first
    | exact hz | refine keeps_poisonFault ?_ | refine keeps_insFault ?_ | refine keeps_ite (fun _ => ?_) (fun _ => ?_)

theorem keeps_reuseWrite {loom skein : Nat} {regs : List Nat} (hz : Keeps s₀ s) : Keeps s₀ (reuseWrite loom skein regs s) := by
  unfold reuseWrite
  try dsimp only
  with_reducible repeat' first | exact hz | refine keeps_modLoom ?_ | refine keeps_ite (fun _ => ?_) (fun _ => ?_)

theorem keeps_operandRead {e : Env} (hz : Keeps s₀ s) : Keeps s₀ (operandRead e s) := by
  unfold operandRead
  try dsimp only
  with_reducible repeat' first
    | exact hz | assumption | refine keeps_forL ?_ ?_ | refine keeps_bump ?_ | refine keeps_modLoom ?_ | refine keeps_reuseWrite ?_
    | refine keeps_ite (fun _ => ?_) (fun _ => ?_) | intro _

theorem keeps_countIssue {e : Env} (hz : Keeps s₀ s) : Keeps s₀ (countIssue e s) := by
  unfold countIssue
  try dsimp only
  with_reducible repeat' first | exact hz | refine keeps_bump ?_ | refine keeps_modSkein ?_

theorem keeps_issueRow {w : Who} {row : Nat} {may : Env → Bool} {body : Env → State → State} (hbody : ∀ x0 x1, Keeps s₀ x1 → Keeps s₀
    (body x0 x1)) (hz : Keeps s₀ s) : Keeps s₀ (issueRow w row may body s) := by
  unfold issueRow
  try dsimp only
  with_reducible repeat' first
    | exact hz | refine keeps_xlFault ?_ | refine keeps_countIssue ?_ | refine keeps_insFault ?_ | (apply hbody)
    | refine keeps_ite (fun _ => ?_) (fun _ => ?_) | split

theorem keeps_finish {e : Env} {f : Skein → Skein} (hz : Keeps s₀ s) : Keeps s₀ (finish e f s) := by
  unfold finish
  try dsimp only
  with_reducible repeat' first | exact hz | refine keeps_modSkein ?_ | refine keeps_operandRead ?_

theorem keeps_startLcv {e : Env} {wait : LcvWait} {tx : Nat} {dst : List Nat} {writes : List RegWrite} (hz : Keeps s₀ s) : Keeps s₀
    (startLcv e wait tx dst writes s) := by
  unfold startLcv
  try dsimp only
  with_reducible repeat' first | exact hz | refine keeps_modCtxDie ?_ | refine keeps_modSkein ?_

theorem keeps_completeLcv {loom skein id : Nat} {writes : List RegWrite} (hz : Keeps s₀ s) : Keeps s₀ (completeLcv loom skein id writes
    s) := by
  unfold completeLcv
  try dsimp only
  with_reducible repeat' first
    | exact hz | refine keeps_modCtxDie ?_ | refine keeps_modSkein ?_ | refine keeps_skeinFinish ?_ | refine keeps_reuseWrite ?_ | split

theorem keeps_perThread {e : Env} {n : Nat} {f : Nat → Nat} (hz : Keeps s₀ s) : Keeps s₀ (perThread e n f s) := by
  unfold perThread
  try dsimp only
  with_reducible repeat' first | exact hz | refine keeps_finish ?_

theorem keeps_perThreadP {e : Env} {f : Nat → Bool} (hz : Keeps s₀ s) : Keeps s₀ (perThreadP e f s) := by
  unfold perThreadP
  try dsimp only
  with_reducible repeat' first | exact hz | refine keeps_finish ?_

theorem keeps_execNop {w : Who} (hz : Keeps s₀ s) (he : execNop w s = .next t) : Keeps s₀ t := by
  unfold execNop at he; injection he with he; subst he; try dsimp only
  with_reducible repeat' first | exact hz | assumption | refine keeps_issueRow ?_ ?_ | refine keeps_finish ?_ | intro _

theorem keeps_execIalu {w : Who} (hz : Keeps s₀ s) (he : execIalu w s = .next t) : Keeps s₀ t := by
  unfold execIalu at he; injection he with he; subst he; try dsimp only
  with_reducible repeat' first | exact hz | assumption | refine keeps_issueRow ?_ ?_ | refine keeps_perThread ?_ | intro _

theorem keeps_execIshf {w : Who} (hz : Keeps s₀ s) (he : execIshf w s = .next t) : Keeps s₀ t := by
  unfold execIshf at he; injection he with he; subst he; try dsimp only
  with_reducible repeat' first | exact hz | assumption | refine keeps_issueRow ?_ ?_ | refine keeps_perThread ?_ | intro _

theorem keeps_execImul {w : Who} (hz : Keeps s₀ s) (he : execImul w s = .next t) : Keeps s₀ t := by
  unfold execImul at he; injection he with he; subst he; try dsimp only
  with_reducible repeat' first | exact hz | assumption | refine keeps_issueRow ?_ ?_ | refine keeps_perThread ?_ | intro _

theorem keeps_execIcmp {w : Who} (hz : Keeps s₀ s) (he : execIcmp w s = .next t) : Keeps s₀ t := by
  unfold execIcmp at he; injection he with he; subst he; try dsimp only
  with_reducible repeat' first | exact hz | assumption | refine keeps_issueRow ?_ ?_ | refine keeps_perThreadP ?_ | intro _

theorem keeps_execIbit {w : Who} (hz : Keeps s₀ s) (he : execIbit w s = .next t) : Keeps s₀ t := by
  unfold execIbit at he; injection he with he; subst he; try dsimp only
  with_reducible repeat' first | exact hz | assumption | refine keeps_issueRow ?_ ?_ | refine keeps_perThread ?_ | intro _

theorem keeps_execImov {w : Who} (hz : Keeps s₀ s) (he : execImov w s = .next t) : Keeps s₀ t := by
  unfold execImov at he; injection he with he; subst he; try dsimp only
  with_reducible repeat' first | exact hz | assumption | refine keeps_issueRow ?_ ?_ | refine keeps_perThread ?_ | intro _

theorem keeps_execPlop {w : Who} (hz : Keeps s₀ s) (he : execPlop w s = .next t) : Keeps s₀ t := by
  unfold execPlop at he; injection he with he; subst he; try dsimp only
  with_reducible repeat' first | exact hz | assumption | refine keeps_issueRow ?_ ?_ | refine keeps_perThreadP ?_ | intro _

theorem keeps_execVote {w : Who} (hz : Keeps s₀ s) (he : execVote w s = .next t) : Keeps s₀ t := by
  unfold execVote at he; injection he with he; subst he; try dsimp only
  with_reducible repeat' first
    | exact hz | assumption | refine keeps_issueRow ?_ ?_ | refine keeps_perThread ?_ | refine keeps_perThreadP ?_
    | refine keeps_ite (fun _ => ?_) (fun _ => ?_) | intro _

theorem keeps_execLxch {w : Who} (hz : Keeps s₀ s) (he : execLxch w s = .next t) : Keeps s₀ t := by
  unfold execLxch at he; injection he with he; subst he; try dsimp only
  with_reducible repeat' first | exact hz | assumption | refine keeps_issueRow ?_ ?_ | refine keeps_perThread ?_ | intro _

theorem keeps_modSys {f : Sys → Sys} (hz : Keeps s₀ s) : Keeps s₀ (modSys f s) := by
  unfold modSys
  try dsimp only
  with_reducible repeat' first | exact hz | refine Keeps.of ?_ rfl rfl rfl rfl

theorem keeps_addTime {n : Int} (hz : Keeps s₀ s) : Keeps s₀ (addTime n s) := by
  unfold addTime
  try dsimp only
  with_reducible repeat' first | exact hz | refine Keeps.of ?_ rfl rfl rfl rfl

theorem keeps_showServo {locked : Bool} (hz : Keeps s₀ s) : Keeps s₀ (showServo locked s) := by
  unfold showServo
  try dsimp only
  with_reducible repeat' first | exact hz | refine keeps_setReg ?_ | refine keeps_setField ?_

theorem keeps_servoMeasure {e : Int} (hz : Keeps s₀ s) : Keeps s₀ (servoMeasure e s) := by
  unfold servoMeasure
  try dsimp only
  with_reducible repeat' first
    | exact hz | refine keeps_setReg ?_ | refine keeps_modSys ?_ | refine keeps_logDry ?_ | refine keeps_bumpSat ?_
    | refine keeps_addTime ?_ | refine keeps_showServo ?_ | refine keeps_ite (fun _ => ?_) (fun _ => ?_)
    | refine Keeps.of_draw ?_ rfl rfl rfl rfl

theorem keeps_execSlewEnd (hz : Keeps s₀ s) (he : execSlewEnd s = .next t) : Keeps s₀ t := by
  unfold execSlewEnd at he; injection he with he; subst he; try dsimp only
  with_reducible repeat' first | exact hz | refine keeps_showServo ?_ | refine keeps_modSys ?_

theorem keeps_execDiscSourceLoss (hz : Keeps s₀ s) (he : execDiscSourceLoss s = .next t) : Keeps s₀ t := by
  unfold execDiscSourceLoss at he; injection he with he; subst he; try dsimp only
  with_reducible repeat' first
    | exact hz | refine keeps_showServo ?_ | refine keeps_modSys ?_ | refine keeps_ite (fun _ => ?_) (fun _ => ?_)

theorem keeps_execPpsEdge (hz : Keeps s₀ s) (he : execPpsEdge s = .next t) : Keeps s₀ t := by
  unfold execPpsEdge at he; injection he with he; subst he; try dsimp only
  with_reducible repeat' first
    | exact hz | refine keeps_bumpSat ?_ | refine keeps_modSys ?_ | refine keeps_servoMeasure ?_
    | refine keeps_ite (fun _ => ?_) (fun _ => ?_)

theorem keeps_modCmp {k : Nat} {f : Cmp → Cmp} (hz : Keeps s₀ s) : Keeps s₀ (modCmp k f s) := by
  unfold modCmp
  try dsimp only
  with_reducible repeat' first | exact hz | refine keeps_modSys ?_

theorem keeps_showCadCmp {page : Nat} (hz : Keeps s₀ s) : Keeps s₀ (showCadCmp page s) := by
  unfold showCadCmp
  try dsimp only
  with_reducible repeat' first | exact hz | refine keeps_setField ?_

theorem keeps_armCadence {page t : Nat} (hz : Keeps s₀ s) : Keeps s₀ (armCadence page t s) := by
  unfold armCadence
  try dsimp only
  with_reducible repeat' first | exact hz | refine keeps_modCmp ?_ | refine keeps_showCadCmp ?_ | split

theorem keeps_execBntPpsWrite {v : Nat} (hz : Keeps s₀ s) (he : execBntPpsWrite v s = .next t) : Keeps s₀ t := by
  unfold execBntPpsWrite at he; injection he with he; subst he; try dsimp only
  with_reducible repeat' first
    | exact hz | refine keeps_recContended ?_ | refine keeps_modSys ?_ | refine keeps_setReg ?_
    | refine keeps_ite (fun _ => ?_) (fun _ => ?_)

theorem keeps_execBntCmpCfgWrite {v : Nat} (hz : Keeps s₀ s) (he : execBntCmpCfgWrite v s = .next t) : Keeps s₀ t := by
  unfold execBntCmpCfgWrite at he; injection he with he; subst he; try dsimp only
  with_reducible repeat' first
    | exact hz | assumption | refine keeps_forL ?_ ?_ | refine keeps_recContended ?_ | refine keeps_modCmp ?_ | refine keeps_setField ?_
    | refine keeps_ite (fun _ => ?_) (fun _ => ?_) | intro _

theorem keeps_reStratum (hz : Keeps s₀ s) : Keeps s₀ (reStratum s) := by
  unfold reStratum
  try dsimp only
  with_reducible repeat' first | exact hz | assumption | refine keeps_forL ?_ ?_ | refine keeps_setReg ?_ | intro _

theorem keeps_setPortState {k st : Nat} (hz : Keeps s₀ s) : Keeps s₀ (setPortState k st s) := by
  unfold setPortState
  try dsimp only
  with_reducible repeat' first
    | exact hz | refine keeps_setPend ?_ | refine keeps_setField ?_ | refine keeps_reStratum ?_
    | refine keeps_ite (fun _ => ?_) (fun _ => ?_) | refine Keeps.of ?_ rfl rfl rfl rfl

theorem keeps_countRetrain {k : Nat} (hz : Keeps s₀ s) : Keeps s₀ (countRetrain k s) := by
  unfold countRetrain
  try dsimp only
  with_reducible repeat' first | exact hz | refine keeps_setPend ?_ | refine keeps_bumpSat ?_

theorem keeps_startTraining {k : Nat} (hz : Keeps s₀ s) : Keeps s₀ (startTraining k s) := by
  unfold startTraining
  try dsimp only
  with_reducible repeat' first | exact hz | refine keeps_setPortState ?_ | refine keeps_modPort ?_

theorem keeps_retrain {k cause : Nat} (hz : Keeps s₀ s) : Keeps s₀ (retrain k cause s) := by
  unfold retrain
  try dsimp only
  with_reducible repeat' first
    | exact hz | refine keeps_startTraining ?_ | refine keeps_countRetrain ?_ | refine keeps_logDry ?_
    | refine keeps_ite (fun _ => ?_) (fun _ => ?_)

theorem keeps_execLinkFrameRx {port flits corr uncorr : Nat} {tagOk : Bool} (hz : Keeps s₀ s) (he : execLinkFrameRx port flits corr
    uncorr tagOk s = .next t) : Keeps s₀ t := by
  unfold execLinkFrameRx at he; injection he with he; subst he; try dsimp only
  with_reducible repeat' first
    | exact hz | refine keeps_bump ?_ | refine keeps_bumpSat ?_ | refine keeps_modPort ?_ | refine keeps_ite (fun _ => ?_) (fun _ => ?_)

theorem keeps_execFrameCloseTimeout {port : Nat} (hz : Keeps s₀ s) (he : execFrameCloseTimeout port s = .next t) : Keeps s₀ t := by
  unfold execFrameCloseTimeout at he; injection he with he; subst he; try dsimp only
  with_reducible repeat' first
    | exact hz | refine keeps_modPort ?_ | refine keeps_sendFrame ?_ | refine keeps_ite (fun _ => ?_) (fun _ => ?_)

theorem keeps_execKeyRollover {port : Nat} (hz : Keeps s₀ s) (he : execKeyRollover port s = .next t) : Keeps s₀ t := by
  unfold execKeyRollover at he; injection he with he; subst he; try dsimp only
  with_reducible repeat' first | exact hz | refine keeps_modPort ?_ | refine keeps_ite (fun _ => ?_) (fun _ => ?_)

theorem keeps_onControl {port : Nat} {k : State → State} (hk : ∀ x0, Keeps s₀ x0 → Keeps s₀ (k x0)) (hz : Keeps s₀ s) : Keeps s₀
    (onControl port k s) := by
  unfold onControl
  try dsimp only
  with_reducible repeat' first | exact hz | refine keeps_modPort ?_ | (apply hk) | refine keeps_ite (fun _ => ?_) (fun _ => ?_)

theorem keeps_execControlFlitTimer {port : Nat} (hz : Keeps s₀ s) (he : execControlFlitTimer port s = .next t) : Keeps s₀ t := by
  unfold execControlFlitTimer at he; injection he with he; subst he; try dsimp only
  with_reducible repeat' first
    | exact hz | refine keeps_sendControl ?_ | refine keeps_modPort ?_ | refine keeps_ite (fun _ => ?_) (fun _ => ?_)

theorem keeps_execAck {port seq : Nat} (hz : Keeps s₀ s) (he : execAck port seq s = .next t) : Keeps s₀ t := by
  unfold execAck at he; injection he with he; subst he; try dsimp only
  with_reducible repeat' first
    | exact hz | assumption | refine keeps_onControl ?_ ?_ | refine keeps_pumpPort ?_ | refine keeps_modPort ?_ | intro _

theorem keeps_resendAll {k : Nat} (hz : Keeps s₀ s) : Keeps s₀ (resendAll k s) := by
  unfold resendAll
  try dsimp only
  with_reducible repeat' first
    | exact hz | assumption | refine keeps_forL ?_ ?_ | refine keeps_bump ?_ | refine keeps_emit ?_ | refine keeps_sendFlits ?_ | intro _

theorem keeps_resendFrom {k seq : Nat} (hz : Keeps s₀ s) : Keeps s₀ (resendFrom k seq s) := by
  unfold resendFrom
  try dsimp only
  with_reducible repeat' first
    | exact hz | refine keeps_modPort ?_ | refine keeps_resendAll ?_ | refine keeps_retrain ?_
    | refine keeps_ite (fun _ => ?_) (fun _ => ?_)

theorem keeps_execNak {port seq : Nat} (hz : Keeps s₀ s) (he : execNak port seq s = .next t) : Keeps s₀ t := by
  unfold execNak at he; injection he with he; subst he; try dsimp only
  with_reducible repeat' first
    | exact hz | assumption | refine keeps_onControl ?_ ?_ | refine keeps_resendFrom ?_ | refine keeps_modPort ?_ | intro _

theorem keeps_execReplayTimeout {port : Nat} (hz : Keeps s₀ s) (he : execReplayTimeout port s = .next t) : Keeps s₀ t := by
  unfold execReplayTimeout at he; injection he with he; subst he; try dsimp only
  with_reducible repeat' first | exact hz | refine keeps_resendFrom ?_ | refine keeps_ite (fun _ => ?_) (fun _ => ?_) | split

theorem keeps_execCredit {port : Nat} {counts : List Nat} (hz : Keeps s₀ s) (he : execCredit port counts s = .next t) : Keeps s₀ t := by
  unfold execCredit at he; injection he with he; subst he; try dsimp only
  with_reducible repeat' first
    | exact hz | assumption | refine keeps_onControl ?_ ?_ | refine keeps_pumpPort ?_ | refine keeps_modPort ?_ | intro _

theorem keeps_execIdle {port : Nat} (hz : Keeps s₀ s) (he : execIdle port s = .next t) : Keeps s₀ t := by
  unfold execIdle at he; injection he with he; subst he; try dsimp only
  with_reducible repeat' first | exact hz | assumption | refine keeps_onControl ?_ ?_ | intro _

theorem keeps_enterFlight {k f : Nat} (hz : Keeps s₀ s) : Keeps s₀ (enterFlight k f s) := by
  unfold enterFlight
  try dsimp only
  with_reducible repeat' first | exact hz | refine keeps_modPort ?_ | refine keeps_setField ?_

end Sys2Proof.Machine
end

