-- ==== Sys2Proof/Laws/Keeps2.lean ====
section
/-! SUPPORT. What every operation and meaning keeps (`Keeps`), part 2: one lemma each, in the order of the model. -/

set_option linter.all false

namespace Sys2Proof.Machine

variable {s₀ s t : State}

theorem keeps_sendTsync {port : Nat} {stamps : List Nat} (hz : Keeps s₀ s) : Keeps s₀ (sendTsync port stamps s) := by
  unfold sendTsync
  try dsimp only
  with_reducible repeat' first | exact hz | refine keeps_sendControl ?_

theorem keeps_execTsyncExchange {port : Nat} (hz : Keeps s₀ s) (he : execTsyncExchange port s = .next t) : Keeps s₀ t := by
  unfold execTsyncExchange at he; injection he with he; subst he; try dsimp only
  with_reducible repeat' first | exact hz | refine keeps_sendTsync ?_ | refine keeps_ite (fun _ => ?_) (fun _ => ?_)

theorem keeps_execTsync {port t1 : Nat} {t2 t3 : Option Nat} {t4 stratum : Nat} (hz : Keeps s₀ s) (he : execTsync port t1 t2 t3 t4
    stratum s = .next t) : Keeps s₀ t := by
  unfold execTsync at he; injection he with he; subst he; try dsimp only
  with_reducible repeat' first
    | exact hz | refine keeps_modPort ?_ | refine keeps_sendTsync ?_ | refine keeps_reStratum ?_ | refine keeps_enterFlight ?_
    | refine keeps_servoMeasure ?_ | refine keeps_ite (fun _ => ?_) (fun _ => ?_) | split

theorem keeps_execBntDiscWrite {v : Nat} (hz : Keeps s₀ s) (he : execBntDiscWrite v s = .next t) : Keeps s₀ t := by
  unfold execBntDiscWrite at he; injection he with he; subst he; try dsimp only
  with_reducible repeat' first
    | exact hz | refine keeps_setField ?_ | refine keeps_modSys ?_ | refine keeps_reStratum ?_ | refine keeps_showServo ?_
    | refine keeps_ite (fun _ => ?_) (fun _ => ?_)

theorem keeps_dropReplay {k : Nat} (hz : Keeps s₀ s) : Keeps s₀ (dropReplay k s) := by
  unfold dropReplay
  try dsimp only
  with_reducible repeat' first | exact hz | refine keeps_modPort ?_ | refine keeps_bumpSat ?_

theorem keeps_agreeEpoch {k : Nat} (hz : Keeps s₀ s) : Keeps s₀ (agreeEpoch k s) := by
  unfold agreeEpoch
  try dsimp only
  with_reducible repeat' first
    | exact hz | refine keeps_setField ?_ | refine keeps_modPort ?_ | refine keeps_dropReplay ?_
    | refine keeps_ite (fun _ => ?_) (fun _ => ?_)

theorem keeps_setTwinState {v : Nat} (hz : Keeps s₀ s) : Keeps s₀ (setTwinState v s) := by
  unfold setTwinState
  try dsimp only
  with_reducible repeat' first
    | exact hz | assumption | refine keeps_forL ?_ ?_ | refine keeps_setPend ?_ | refine keeps_setField ?_
    | refine keeps_ite (fun _ => ?_) (fun _ => ?_) | intro _

theorem keeps_twinTaken (hz : Keeps s₀ s) : Keeps s₀ (twinTaken s) := by
  unfold twinTaken
  exact keeps_ite (fun _ => keeps_setTwinState hz) (fun _ => hz)

theorem keeps_portComesUp {k : Nat} (hz : Keeps s₀ s) : Keeps s₀ (portComesUp k s) := by
  unfold portComesUp
  try dsimp only
  with_reducible repeat' first
    | exact hz | refine keeps_twinTaken ?_ | refine keeps_setPortState ?_ | refine keeps_modPort ?_ | refine keeps_resendAll ?_
    | refine keeps_pumpPort ?_ | refine keeps_ite (fun _ => ?_) (fun _ => ?_)

theorem keeps_sendShake {k identity n : Nat} (hz : Keeps s₀ s) : Keeps s₀ (sendShake k identity n s) := by
  unfold sendShake
  try dsimp only
  with_reducible repeat' first | exact hz | refine keeps_emit ?_ | split

theorem keeps_sendHello {k : Nat} (hz : Keeps s₀ s) : Keeps s₀ (sendHello k s) := by
  unfold sendHello
  try dsimp only
  with_reducible repeat' first | exact hz | refine keeps_emit ?_

theorem keeps_sendEpoch {k : Nat} (hz : Keeps s₀ s) : Keeps s₀ (sendEpoch k s) := by
  unfold sendEpoch
  try dsimp only
  with_reducible repeat' first | exact hz | refine keeps_emit ?_

theorem keeps_execBringupPhaseComplete {port : Nat} {h : PeerHello} (hz : Keeps s₀ s) (he : execBringupPhaseComplete port h s = .next t)
    : Keeps s₀ t := by
  unfold execBringupPhaseComplete at he; injection he with he; subst he; try dsimp only
  with_reducible repeat' first
    | exact hz | refine keeps_modPort ?_ | refine keeps_startTraining ?_ | refine keeps_sendHello ?_ | refine keeps_setPortState ?_
    | refine keeps_draw ?_ | refine keeps_sendShake ?_ | refine keeps_setReg ?_ | refine keeps_sendEpoch ?_ | refine keeps_agreeEpoch ?_
    | refine keeps_portComesUp ?_ | refine keeps_ite (fun _ => ?_) (fun _ => ?_) | split

theorem keeps_execTrainLimitExpiry {port : Nat} (hz : Keeps s₀ s) (he : execTrainLimitExpiry port s = .next t) : Keeps s₀ t := by
  unfold execTrainLimitExpiry at he; injection he with he; subst he; try dsimp only
  with_reducible repeat' first
    | exact hz | refine keeps_dropReplay ?_ | refine keeps_setPortState ?_ | refine keeps_countRetrain ?_ | refine keeps_modPort ?_
    | refine keeps_ite (fun _ => ?_) (fun _ => ?_)

theorem keeps_execTrainRetry {port : Nat} (hz : Keeps s₀ s) (he : execTrainRetry port s = .next t) : Keeps s₀ t := by
  unfold execTrainRetry at he; injection he with he; subst he; try dsimp only
  with_reducible repeat' first | exact hz | refine keeps_startTraining ?_ | refine keeps_ite (fun _ => ?_) (fun _ => ?_)

theorem keeps_execLossOfSignal {port lane : Nat} (hz : Keeps s₀ s) (he : execLossOfSignal port lane s = .next t) : Keeps s₀ t := by
  unfold execLossOfSignal at he; injection he with he; subst he; try dsimp only
  with_reducible repeat' first | exact hz | refine keeps_retrain ?_ | refine keeps_ite (fun _ => ?_) (fun _ => ?_)

theorem keeps_execUncorrCodewordLimit {port : Nat} (hz : Keeps s₀ s) (he : execUncorrCodewordLimit port s = .next t) : Keeps s₀ t := by
  unfold execUncorrCodewordLimit at he; injection he with he; subst he; try dsimp only
  with_reducible repeat' first | exact hz | refine keeps_retrain ?_

theorem keeps_execTagFailureLimit {port : Nat} (hz : Keeps s₀ s) (he : execTagFailureLimit port s = .next t) : Keeps s₀ t := by
  unfold execTagFailureLimit at he; injection he with he; subst he; try dsimp only
  with_reducible repeat' first | exact hz | refine keeps_retrain ?_

theorem keeps_execRxSilence {port : Nat} (hz : Keeps s₀ s) (he : execRxSilence port s = .next t) : Keeps s₀ t := by
  unfold execRxSilence at he; injection he with he; subst he; try dsimp only
  with_reducible repeat' first | exact hz | refine keeps_retrain ?_

theorem keeps_execRetrain {port : Nat} (hz : Keeps s₀ s) (he : execRetrain port s = .next t) : Keeps s₀ t := by
  unfold execRetrain at he; injection he with he; subst he; try dsimp only
  with_reducible repeat' first | exact hz | refine keeps_retrain ?_

theorem keeps_modSwitch {pair : Nat} {f : Switch → Switch} (hz : Keeps s₀ s) : Keeps s₀ (modSwitch pair f s) := by
  unfold modSwitch
  try dsimp only
  with_reducible repeat' first | exact hz | refine Keeps.of ?_ rfl rfl rfl rfl

theorem keeps_showSwitch {pair : Nat} {isIn moving openReq : Bool} (hz : Keeps s₀ s) : Keeps s₀ (showSwitch pair isIn moving openReq s)
    := by
  unfold showSwitch
  try dsimp only
  with_reducible repeat' first | exact hz | refine keeps_setField ?_

theorem keeps_toBypass {pair : Nat} (hz : Keeps s₀ s) : Keeps s₀ (toBypass pair s) := by
  unfold toBypass
  try dsimp only
  with_reducible repeat' first
    | exact hz | assumption | refine keeps_forL ?_ ?_ | refine keeps_showSwitch ?_ | refine keeps_modSwitch ?_
    | refine keeps_setPortState ?_ | refine keeps_modPort ?_ | refine keeps_ite (fun _ => ?_) (fun _ => ?_) | intro _

theorem keeps_allBypass (hz : Keeps s₀ s) : Keeps s₀ (allBypass s) := by
  unfold allBypass
  try dsimp only
  with_reducible repeat' first | exact hz | assumption | refine keeps_forN ?_ ?_ | refine keeps_toBypass ?_ | intro _

theorem keeps_restBypass {pair : Nat} (hz : Keeps s₀ s) : Keeps s₀ (restBypass pair s) := by
  unfold restBypass
  try dsimp only
  with_reducible repeat' first
    | exact hz | assumption | refine keeps_forL ?_ ?_ | refine keeps_showSwitch ?_ | refine keeps_modSwitch ?_
    | refine keeps_setPortState ?_ | refine keeps_modPort ?_ | intro _

theorem keeps_openPair {pair : Nat} (hz : Keeps s₀ s) : Keeps s₀ (openPair pair s) := by
  unfold openPair
  try dsimp only
  with_reducible repeat' first
    | exact hz | assumption | refine keeps_forL ?_ ?_ | refine keeps_recErr ?_ | refine keeps_setField ?_ | refine keeps_recContended ?_
    | refine keeps_showSwitch ?_ | refine keeps_modSwitch ?_ | refine keeps_modPort ?_ | refine keeps_ite (fun _ => ?_) (fun _ => ?_)
    | intro _

theorem keeps_execOpenBypass {pair : Nat} (hz : Keeps s₀ s) (he : execOpenBypass pair s = .next t) : Keeps s₀ t := by
  unfold execOpenBypass at he; injection he with he; subst he; try dsimp only
  with_reducible repeat' first | exact hz | refine keeps_openPair ?_ | refine keeps_ite (fun _ => ?_) (fun _ => ?_)

theorem keeps_setHold {pair : Nat} {v : Bool} (hz : Keeps s₀ s) : Keeps s₀ (setHold pair v s) := by
  unfold setHold
  try dsimp only
  with_reducible repeat' first
    | exact hz | assumption | refine keeps_forL ?_ ?_ | refine keeps_setField ?_ | refine keeps_toBypass ?_
    | refine keeps_ite (fun _ => ?_) (fun _ => ?_) | intro _

theorem keeps_execHold {pair : Nat} {v : Bool} (hz : Keeps s₀ s) (he : execHold pair v s = .next t) : Keeps s₀ t := by
  unfold execHold at he; injection he with he; subst he; try dsimp only
  with_reducible repeat' first | exact hz | refine keeps_setHold ?_ | refine keeps_ite (fun _ => ?_) (fun _ => ?_)

theorem keeps_execBypassSwitchSettled {pair : Nat} (hz : Keeps s₀ s) (he : execBypassSwitchSettled pair s = .next t) : Keeps s₀ t := by
  unfold execBypassSwitchSettled at he; injection he with he; subst he; try dsimp only
  with_reducible repeat' first
    | exact hz | refine keeps_showSwitch ?_ | refine keeps_modSwitch ?_ | refine keeps_restBypass ?_
    | refine keeps_ite (fun _ => ?_) (fun _ => ?_)

theorem keeps_execRvlRouteDataWrite {die v : Nat} (hz : Keeps s₀ s) (he : execRvlRouteDataWrite die v s = .next t) : Keeps s₀ t := by
  unfold execRvlRouteDataWrite at he; injection he with he; subst he; try dsimp only
  with_reducible repeat' first | exact hz | refine keeps_ite (fun _ => ?_) (fun _ => ?_) | split | refine Keeps.of ?_ rfl rfl rfl rfl

theorem keeps_setPosition {v : Nat} (hz : Keeps s₀ s) : Keeps s₀ (setPosition v s) := by
  unfold setPosition
  try dsimp only
  with_reducible repeat' first | exact hz | assumption | refine keeps_forL ?_ ?_ | refine keeps_setReg ?_ | intro _

theorem keeps_execRvlPositionWrite {die v : Nat} (hz : Keeps s₀ s) (he : execRvlPositionWrite die v s = .next t) : Keeps s₀ t := by
  unfold execRvlPositionWrite at he; injection he with he; subst he; try dsimp only
  with_reducible repeat' first | exact hz | refine keeps_setPosition ?_ | refine keeps_ite (fun _ => ?_) (fun _ => ?_)

theorem keeps_execRouteHoldEnd (hz : Keeps s₀ s) (he : execRouteHoldEnd s = .next t) : Keeps s₀ t := by
  unfold execRouteHoldEnd at he; injection he with he; subst he; try dsimp only
  with_reducible repeat' first
    | exact hz | assumption | refine keeps_forL ?_ ?_ | refine keeps_routePkt ?_ | refine keeps_unreachable ?_ | refine keeps_freeFlits ?_
    | refine keeps_pair (by assumption) ?_ | intro _ | split | refine Keeps.of ?_ rfl rfl rfl rfl

theorem keeps_setBank {i : Nat} {b : Bank} (hz : Keeps s₀ s) : Keeps s₀ (setBank i b s) := by
  unfold setBank
  try dsimp only
  with_reducible repeat' first | exact hz | refine keeps_modSys ?_

theorem keeps_bootImage {i : Nat} (hz : Keeps s₀ s) : Keeps s₀ (bootImage i s) := by
  unfold bootImage
  try dsimp only
  with_reducible repeat' first | exact hz | refine keeps_recErr ?_ | refine keeps_setReg ?_ | refine keeps_modSys ?_ | split

theorem keeps_settleFloors (hz : Keeps s₀ s) : Keeps s₀ (settleFloors s) := by
  unfold settleFloors
  try dsimp only
  with_reducible repeat' first | exact hz | refine keeps_modSys ?_

theorem keeps_newNonce (hz : Keeps s₀ s) : Keeps s₀ (newNonce s) := by
  unfold newNonce
  try dsimp only
  with_reducible repeat' first | exact hz | refine keeps_setReg ?_ | refine Keeps.of_draw ?_ rfl rfl rfl rfl

theorem keeps_newHandleKey (hz : Keeps s₀ s) : Keeps s₀ (newHandleKey s) := by
  unfold newHandleKey
  try dsimp only
  with_reducible repeat' first | exact hz | refine Keeps.of_draw ?_ rfl rfl rfl rfl

theorem keeps_discover {port : Nat} (hz : Keeps s₀ s) : Keeps s₀ (discover port s) := by
  unfold discover
  try dsimp only
  with_reducible repeat' first | exact hz | refine keeps_modSys ?_ | refine Keeps.of_draw ?_ rfl rfl rfl rfl

theorem keeps_rediscover (hz : Keeps s₀ s) : Keeps s₀ (rediscover s) := by
  unfold rediscover
  try dsimp only
  with_reducible repeat' first | exact hz | refine keeps_discover ?_

theorem keeps_sendPull {p : Pull} {op off len : Nat} {data : List Byte} (hz : Keeps s₀ s) : Keeps s₀ (sendPull p op off len data s) := by
  unfold sendPull
  try dsimp only
  with_reducible repeat' first | exact hz | refine keeps_emit ?_

theorem keeps_execDiscoverTimer (hz : Keeps s₀ s) (he : execDiscoverTimer s = .next t) : Keeps s₀ t := by
  unfold execDiscoverTimer at he; injection he with he; subst he; try dsimp only
  with_reducible repeat' first | exact hz | refine keeps_sendPull ?_ | refine keeps_ite (fun _ => ?_) (fun _ => ?_) | split

theorem keeps_issueReads (hz : Keeps s₀ s) : Keeps s₀ (issueReads s) := by
  unfold issueReads
  try dsimp only
  with_reducible repeat' first
    | exact hz | assumption | refine keeps_forL ?_ ?_ | refine keeps_sendPull ?_ | refine keeps_modSys ?_ | intro _ | split

theorem keeps_execOffer {port session device : Nat} {header : List Byte} (hz : Keeps s₀ s) (he : execOffer port session device header s =
    .next t) : Keeps s₀ t := by
  unfold execOffer at he; injection he with he; subst he; try dsimp only
  with_reducible repeat' first
    | exact hz | refine keeps_issueReads ?_ | refine keeps_modSys ?_ | refine keeps_setBank ?_
    | refine keeps_ite (fun _ => ?_) (fun _ => ?_) | split

theorem keeps_pullEnds {h : List Byte} (hz : Keeps s₀ s) : Keeps s₀ (pullEnds h s) := by
  unfold pullEnds
  try dsimp only
  with_reducible repeat' first
    | exact hz | refine keeps_rediscover ?_ | refine keeps_modSys ?_ | refine keeps_recErr ?_ | refine keeps_bumpSat ?_
    | refine keeps_setBank ?_ | refine keeps_ite (fun _ => ?_) (fun _ => ?_)

theorem keeps_execPullData {port session off : Nat} {data : List Byte} (hz : Keeps s₀ s) (he : execPullData port session off data s =
    .next t) : Keeps s₀ t := by
  unfold execPullData at he; injection he with he; subst he; try dsimp only
  with_reducible repeat' first
    | exact hz | refine keeps_setBank ?_ | refine keeps_modSys ?_ | refine keeps_pullEnds ?_ | refine keeps_issueReads ?_
    | refine keeps_ite (fun _ => ?_) (fun _ => ?_) | split

theorem keeps_execPullNak {port session : Nat} (hz : Keeps s₀ s) (he : execPullNak port session s = .next t) : Keeps s₀ t := by
  unfold execPullNak at he; injection he with he; subst he; try dsimp only
  with_reducible repeat' first | exact hz | refine keeps_rediscover ?_ | refine keeps_ite (fun _ => ?_) (fun _ => ?_)

theorem keeps_execReadTimeout {off : Nat} (hz : Keeps s₀ s) (he : execReadTimeout off s = .next t) : Keeps s₀ t := by
  unfold execReadTimeout at he; injection he with he; subst he; try dsimp only
  with_reducible repeat' first
    | exact hz | refine keeps_rediscover ?_ | refine keeps_sendPull ?_ | refine keeps_modSys ?_
    | refine keeps_ite (fun _ => ?_) (fun _ => ?_) | split

theorem keeps_execPullFaultLimit (hz : Keeps s₀ s) (he : execPullFaultLimit s = .next t) : Keeps s₀ t := by
  unfold execPullFaultLimit at he; injection he with he; subst he; try dsimp only
  with_reducible repeat' first | exact hz | refine keeps_modSys ?_ | refine keeps_ite (fun _ => ?_) (fun _ => ?_)

theorem keeps_selectCfg (hz : Keeps s₀ s) : Keeps s₀ (selectCfg s) := by
  unfold selectCfg
  try dsimp only
  with_reducible repeat' first | exact hz | refine keeps_modSys ?_ | refine keeps_ite (fun _ => ?_) (fun _ => ?_) | split

theorem keeps_loadAddress {port mac v4 v6 vlan : Nat} (hz : Keeps s₀ s) : Keeps s₀ (loadAddress port mac v4 v6 vlan s) := by
  unfold loadAddress
  try dsimp only
  with_reducible repeat' first | exact hz | assumption | refine keeps_forN ?_ ?_ | refine keeps_setReg ?_ | intro _

theorem keeps_loadAddresses (hz : Keeps s₀ s) : Keeps s₀ (loadAddresses s) := by
  unfold loadAddresses
  try dsimp only
  with_reducible repeat' first
    | exact hz | assumption | refine keeps_forL ?_ ?_ | refine keeps_loadAddress ?_ | refine keeps_ite (fun _ => ?_) (fun _ => ?_)
    | intro _ | split

theorem keeps_loadTwin (hz : Keeps s₀ s) : Keeps s₀ (loadTwin s) := by
  unfold loadTwin
  try dsimp only
  with_reducible repeat' first
    | exact hz | assumption | refine keeps_forL ?_ ?_ | refine keeps_forN ?_ ?_ | refine keeps_setReg ?_ | refine keeps_setTwinState ?_
    | refine keeps_setHold ?_ | refine keeps_setPosition ?_ | intro _ | split

theorem keeps_loadCfg (hz : Keeps s₀ s) : Keeps s₀ (loadCfg s) := by
  unfold loadCfg
  try dsimp only
  with_reducible repeat' first | exact hz | refine keeps_modSys ?_ | refine keeps_loadTwin ?_ | refine keeps_loadAddresses ?_

theorem keeps_execBra {w : Who} (hz : Keeps s₀ s) (he : execBra w s = .next t) : Keeps s₀ t := by
  unfold execBra at he; injection he with he; subst he; try dsimp only
  with_reducible repeat' first
    | exact hz | assumption | refine keeps_issueRow ?_ ?_ | refine keeps_modSkein ?_ | refine keeps_operandRead ?_ | intro _

theorem keeps_execCall {w : Who} (hz : Keeps s₀ s) (he : execCall w s = .next t) : Keeps s₀ t := by
  unfold execCall at he; injection he with he; subst he; try dsimp only
  with_reducible repeat' first
    | exact hz | assumption | refine keeps_issueRow ?_ ?_ | refine keeps_modSkein ?_ | refine keeps_operandRead ?_ | intro _

theorem keeps_indirect {e : Env} (hz : Keeps s₀ s) : Keeps s₀ (indirect e s) := by
  unfold indirect
  try dsimp only
  with_reducible repeat' first | exact hz | refine keeps_insFault ?_ | refine keeps_modSkein ?_ | refine keeps_operandRead ?_ | split

theorem keeps_execBrx {w : Who} (hz : Keeps s₀ s) (he : execBrx w s = .next t) : Keeps s₀ t := by
  unfold execBrx at he; injection he with he; subst he; try dsimp only
  with_reducible repeat' first | exact hz | assumption | refine keeps_issueRow ?_ ?_ | refine keeps_indirect ?_ | intro _

theorem keeps_execRet {w : Who} (hz : Keeps s₀ s) (he : execRet w s = .next t) : Keeps s₀ t := by
  unfold execRet at he; injection he with he; subst he; try dsimp only
  with_reducible repeat' first | exact hz | assumption | refine keeps_issueRow ?_ ?_ | refine keeps_indirect ?_ | intro _

theorem keeps_execJoin {w : Who} (hz : Keeps s₀ s) (he : execJoin w s = .next t) : Keeps s₀ t := by
  unfold execJoin at he; injection he with he; subst he; try dsimp only
  with_reducible repeat' first
    | exact hz | assumption | refine keeps_issueRow ?_ ?_ | refine keeps_modSkein ?_ | refine keeps_finish ?_ | intro _

theorem keeps_execExit {w : Who} (hz : Keeps s₀ s) (he : execExit w s = .next t) : Keeps s₀ t := by
  unfold execExit at he; injection he with he; subst he; try dsimp only
  with_reducible repeat' first
    | exact hz | assumption | refine keeps_issueRow ?_ ?_ | refine keeps_exitThreads ?_ | refine keeps_finish ?_ | intro _

theorem keeps_execYield {w : Who} (hz : Keeps s₀ s) (he : execYield w s = .next t) : Keeps s₀ t := by
  unfold execYield at he; injection he with he; subst he; try dsimp only
  with_reducible repeat' first | exact hz | assumption | refine keeps_issueRow ?_ ?_ | refine keeps_finish ?_ | intro _

theorem keeps_barrierSplit {loom skein : Nat} {east : Bool} {sub pc mask th : Nat} (hz : Keeps s₀ s) : Keeps s₀ (barrierSplit loom skein
    east sub pc mask th s) := by
  unfold barrierSplit
  try dsimp only
  with_reducible repeat' first | exact hz | refine keeps_loomFault ?_ | refine keeps_setReg ?_

theorem keeps_execBarInit {w : Who} (hz : Keeps s₀ s) (he : execBarInit w s = .next t) : Keeps s₀ t := by
  unfold execBarInit at he; injection he with he; subst he; try dsimp only
  with_reducible repeat' first
    | exact hz | assumption | refine keeps_issueRow ?_ ?_ | refine keeps_insFault ?_ | refine keeps_barrierSplit ?_ | refine keeps_finish ?_
    | refine keeps_modLoom ?_ | refine keeps_ite (fun _ => ?_) (fun _ => ?_) | intro _ | split

theorem keeps_barArrive {e : Env} {b : Nat} (hz : Keeps s₀ s) : Keeps s₀ (barArrive e b s) := by
  unfold barArrive
  try dsimp only
  with_reducible repeat' first | exact hz | refine keeps_modLoom ?_

theorem keeps_execBarSync {w : Who} (hz : Keeps s₀ s) (he : execBarSync w s = .next t) : Keeps s₀ t := by
  unfold execBarSync at he; injection he with he; subst he; try dsimp only
  with_reducible repeat' first
    | exact hz | assumption | refine keeps_issueRow ?_ ?_ | refine keeps_insFault ?_ | refine keeps_barCheck ?_
    | refine keeps_barArrive ?_ | refine keeps_finish ?_ | intro _ | split

theorem keeps_execBarArv {w : Who} (hz : Keeps s₀ s) (he : execBarArv w s = .next t) : Keeps s₀ t := by
  unfold execBarArv at he; injection he with he; subst he; try dsimp only
  with_reducible repeat' first
    | exact hz | assumption | refine keeps_issueRow ?_ ?_ | refine keeps_insFault ?_ | refine keeps_barCheck ?_
    | refine keeps_barArrive ?_ | refine keeps_finish ?_ | intro _ | split

theorem keeps_execJoinRelease {loom skein addr : Nat} (hz : Keeps s₀ s) (he : execJoinRelease loom skein addr s = .next t) : Keeps s₀ t
    := by
  unfold execJoinRelease at he; injection he with he; subst he; try dsimp only
  with_reducible repeat' first
    | exact hz | refine keeps_bumpSat ?_ | refine keeps_modSkein ?_ | refine keeps_ite (fun _ => ?_) (fun _ => ?_) | split

theorem keeps_execYieldExpiry {loom skein thread : Nat} (hz : Keeps s₀ s) (he : execYieldExpiry loom skein thread s = .next t) : Keeps s₀
    t := by
  unfold execYieldExpiry at he; injection he with he; subst he; try dsimp only
  with_reducible repeat' first | exact hz | refine keeps_modSkein ?_

theorem keeps_execBarrierStall {loom : Nat} {east : Bool} (hz : Keeps s₀ s) (he : execBarrierStall loom east s = .next t) : Keeps s₀ t :=
    by
  unfold execBarrierStall at he; injection he with he; subst he; try dsimp only
  with_reducible repeat' first
    | exact hz | refine keeps_barrierSplit ?_ | refine keeps_ite (fun _ => ?_) (fun _ => ?_) | split

theorem keeps_readWord {who : Nat} {p : PageRef} {off : Nat} (hz : Keeps s₀ s) : Keeps s₀ (readWord who p off s).2 := by
  unfold readWord
  try dsimp only
  with_reducible repeat' first | exact hz | split | refine Keeps.of ?_ rfl rfl rfl rfl

theorem keeps_doorbellWrite {slot off v : Nat} (hz : Keeps s₀ s) : Keeps s₀ (doorbellWrite slot off v s) := by
  unfold doorbellWrite
  try dsimp only
  with_reducible repeat' first
    | exact hz | refine keeps_modCtxDie ?_ | refine keeps_setPend ?_ | refine keeps_bumpSat ?_ | refine keeps_modQueue ?_
    | refine keeps_deliverFaults ?_ | refine keeps_ite (fun _ => ?_) (fun _ => ?_) | split

theorem keeps_devRead {page c n : Nat} {d : DevTgt} (hz : Keeps s₀ s) : Keeps s₀ (devRead page c n d s).2 := by
  unfold devRead
  try dsimp only
  with_reducible repeat' first | exact hz | refine keeps_readWord ?_ | refine keeps_recErr ?_ | split

theorem keeps_devWrite {page c n v : Nat} {d : DevTgt} (hz : Keeps s₀ s) : Keeps s₀ (devWrite page c n v d s) := by
  unfold devWrite
  try dsimp only
  with_reducible repeat' first
    | exact hz | refine keeps_doorbellWrite ?_ | refine keeps_recErr ?_ | refine keeps_ite (fun _ => ?_) (fun _ => ?_) | split

theorem keeps_devPieceRead {eng c : Nat} {p : Piece} (hz : Keeps s₀ s) : Keeps s₀ (devPieceRead eng c p s).2 := by
  unfold devPieceRead
  try dsimp only
  with_reducible repeat' first
    | exact hz | assumption | refine keeps_foldl_snd ?_ ?_ | refine keeps_devRead ?_ | intro _ | split

theorem keeps_devPieceWrite {eng c : Nat} {p : Piece} {l : List (Byte × Bool)} (hz : Keeps s₀ s) : Keeps s₀ (devPieceWrite eng c p l s).2
    := by
  unfold devPieceWrite
  try dsimp only
  with_reducible repeat' first
    | exact hz | assumption | refine keeps_foldl_snd ?_ ?_ | refine keeps_devWrite ?_ | intro _ | split

theorem keeps_gRead {eng c va n : Nat} (hz : Keeps s₀ s) : Keeps s₀ (gRead eng c va n s).2 := by
  unfold gRead
  split
  · exact hz
  · split
    · exact keeps_vRead hz
    · refine keeps_foldl_snd (fun acc p h => ?_) hz
      split
      · exact h
      · dsimp only
        split
        · exact keeps_devPieceRead h
        · exact keeps_vRead h

theorem keeps_gWriteC {eng c va : Nat} {l : List (Byte × Bool)} {carried : List (Nat × Nat)} (hz : Keeps s₀ s) : Keeps s₀ (gWriteC eng c
    va l carried s).2 := by
  unfold gWriteC
  split
  · exact hz
  · split
    · exact keeps_vWriteC hz
    · refine keeps_foldl_snd2 (fun acc p h => ?_) hz
      dsimp only
      split
      · exact h
      · split
        · exact keeps_devPieceWrite h
        · exact keeps_vWriteC h

theorem keeps_fabDrop {tag : Nat} (hz : Keeps s₀ s) : Keeps s₀ (fabDrop tag s) := by
  unfold fabDrop
  try dsimp only
  with_reducible repeat' first | exact hz | refine Keeps.of ?_ rfl rfl rfl rfl

theorem keeps_fabThreadDone {loom skein lcv thread : Nat} (hz : Keeps s₀ s) : Keeps s₀ (fabThreadDone loom skein lcv thread s) := by
  unfold fabThreadDone
  try dsimp only
  with_reducible repeat' first | exact hz | refine keeps_lcvRelease ?_ | refine keeps_modSkein ?_

theorem keeps_lcvAddWrites {loom skein lcv : Nat} {ws : List RegWrite} (hz : Keeps s₀ s) : Keeps s₀ (lcvAddWrites loom skein lcv ws s) :=
    by
  unfold lcvAddWrites
  try dsimp only
  with_reducible repeat' first | exact hz | refine keeps_modSkein ?_

theorem keeps_dmaTagDone {tag status sub : Nat} (hz : Keeps s₀ s) : Keeps s₀ (dmaTagDone tag status sub s) := by
  unfold dmaTagDone
  try dsimp only
  with_reducible repeat' first | exact hz | refine Keeps.of ?_ rfl rfl rfl rfl

theorem keeps_fabUncount {r : FabReq} (hz : Keeps s₀ s) : Keeps s₀ (fabUncount r s) := by
  unfold fabUncount
  try dsimp only
  with_reducible repeat' first | exact hz | refine keeps_ite (fun _ => ?_) (fun _ => ?_) | refine Keeps.of ?_ rfl rfl rfl rfl

theorem keeps_fabStale {r : FabReq} (hz : Keeps s₀ s) : Keeps s₀ (fabStale r s) := by
  unfold fabStale
  try dsimp only
  with_reducible repeat' first | exact hz | refine keeps_fabUncount ?_ | refine keeps_fabDrop ?_ | refine keeps_fabThreadDone ?_ | split

theorem keeps_sendAnswered {loom skein lcv status : Nat} (hz : Keeps s₀ s) : Keeps s₀ (sendAnswered loom skein lcv status s) := by
  unfold sendAnswered
  try dsimp only
  with_reducible repeat' first | exact hz | refine keeps_modSkein ?_

theorem keeps_fabFail {tag code sub : Nat} (hz : Keeps s₀ s) : Keeps s₀ (fabFail tag code sub s) := by
  unfold fabFail
  try dsimp only
  with_reducible repeat' first
    | exact hz | refine keeps_fabDrop ?_ | refine keeps_fabUncount ?_ | refine keeps_windowError ?_ | refine keeps_fabThreadDone ?_
    | refine keeps_insFault ?_ | refine keeps_postFault ?_ | refine keeps_modSkein ?_ | refine keeps_dmaTagDone ?_
    | refine keeps_sendAnswered ?_ | refine keeps_ite (fun _ => ?_) (fun _ => ?_) | split

theorem keeps_releaseEarlier {e : Env} (hz : Keeps s₀ s) : Keeps s₀ (releaseEarlier e s) := by
  unfold releaseEarlier
  try dsimp only
  with_reducible repeat' first | exact hz | refine keeps_settleSkein ?_ | refine keeps_ite (fun _ => ?_) (fun _ => ?_)

theorem keeps_touchLines {e : Env} {ls : List Loc} {forM : Bool} {id : Nat} (hz : Keeps s₀ s) : Keeps s₀ (touchLines e ls forM id s).2 :=
    by
  unfold touchLines
  try dsimp only
  with_reducible repeat' first | exact hz | assumption | refine keeps_foldl_snd ?_ ?_ | refine keeps_accessLine ?_ | intro _

theorem keeps_memStart {e : Env} {id held links tx n : Nat} {writes : List RegWrite} (hz : Keeps s₀ s) : Keeps s₀ (memStart e id held
    links tx n writes s) := by
  unfold memStart
  try dsimp only
  with_reducible repeat' first | exact hz | refine keeps_startLcv ?_ | refine keeps_finish ?_

theorem keeps_linkRequest {e : Env} {t va die slot off op : Nat} {kind : FabKind} {issuer : FabIssuer} {len atom : Nat} {payload : List
    Byte} (hz : Keeps s₀ s) : Keeps s₀ (linkRequest e t va die slot off op kind issuer len atom payload s) := by
  unfold linkRequest
  try dsimp only
  with_reducible repeat' first
    | exact hz | refine keeps_modSkein ?_ | refine keeps_fabIssue ?_ | refine keeps_fabFail ?_
    | refine keeps_ite (fun _ => ?_) (fun _ => ?_) | split

theorem keeps_scratchPut {loom off : Nat} {l : List Byte} (hz : Keeps s₀ s) : Keeps s₀ (scratchPut loom off l s) := by
  unfold scratchPut
  try dsimp only
  with_reducible repeat' first | exact hz | refine keeps_modLoom ?_

theorem keeps_loadLanes {e : Env} {ls : List (Nat × Loc)} (hz : Keeps s₀ s) : Keeps s₀ (loadLanes e ls s).2 := by
  unfold loadLanes; try dsimp only
  with_reducible repeat' first
    | exact hz | assumption | refine keeps_foldl_snd ?_ ?_ | refine keeps_devRead ?_ | intro _ | split

theorem keeps_loadSend {e : Env} {id : Nat} {ls : List (Nat × Loc)} (hz : Keeps s₀ s) : Keeps s₀ (loadSend e id ls s) := by
  unfold loadSend; try dsimp only
  with_reducible repeat' first
    | exact hz | assumption | refine keeps_forL ?_ ?_ | refine keeps_linkRequest ?_ | intro _ | split

theorem keeps_execLd {w : Who} (hz : Keeps s₀ s) (he : execLd w s = .next t) : Keeps s₀ t := by
  unfold execLd at he; injection he with he; subst he; try dsimp only
  with_reducible repeat' first
    | exact hz | assumption | refine keeps_issueRow ?_ ?_ | refine keeps_xlFault ?_ | refine keeps_insFault ?_ | refine keeps_modSkein ?_ | refine keeps_touchLines ?_
    | refine keeps_poisonFault ?_ | refine keeps_releaseEarlier ?_ | refine keeps_memStart ?_
    | refine keeps_loadLanes ?_ | refine keeps_loadSend ?_ | intro _ | split

theorem keeps_storeLanes {e : Env} {ls : List (Nat × Loc)} (hz : Keeps s₀ s) : Keeps s₀ (storeLanes e ls s) := by
  unfold storeLanes
  try dsimp only
  with_reducible repeat' first
    | exact hz | assumption | refine keeps_forL ?_ ?_ | refine keeps_scratchPut ?_ | refine keeps_cachedWrite ?_
    | refine keeps_devWrite ?_ | intro _ | split

theorem keeps_storeSend {e : Env} {id : Nat} {ls : List (Nat × Loc)} (hz : Keeps s₀ s) : Keeps s₀ (storeSend e id ls s) := by
  unfold storeSend; try dsimp only
  with_reducible repeat' first
    | exact hz | assumption | refine keeps_forL ?_ ?_ | refine keeps_linkRequest ?_ | intro _ | split

theorem keeps_execSt {w : Who} (hz : Keeps s₀ s) (he : execSt w s = .next t) : Keeps s₀ t := by
  unfold execSt at he; injection he with he; subst he; try dsimp only
  with_reducible repeat' first
    | exact hz | assumption | refine keeps_issueRow ?_ ?_ | refine keeps_xlFault ?_ | refine keeps_insFault ?_ | refine keeps_modSkein ?_ | refine keeps_touchLines ?_
    | refine keeps_poisonFault ?_ | refine keeps_releaseEarlier ?_ | refine keeps_memStart ?_
    | refine keeps_storeLanes ?_ | refine keeps_storeSend ?_ | intro _ | split

theorem keeps_atomLanes {e : Env} {ls : List (Nat × Loc)} (hz : Keeps s₀ s) : Keeps s₀ (atomLanes e ls s).2 := by
  unfold atomLanes
  try dsimp only
  with_reducible repeat' first
    | exact hz | assumption | refine keeps_foldl_snd ?_ ?_ | refine keeps_scratchPut ?_ | refine keeps_cachedWrite ?_ | intro _ | split

theorem keeps_atomSend {e : Env} {id : Nat} {ls : List (Nat × Loc)} (hz : Keeps s₀ s) : Keeps s₀ (atomSend e id ls s) := by
  unfold atomSend; try dsimp only
  with_reducible repeat' first
    | exact hz | assumption | refine keeps_forL ?_ ?_ | refine keeps_linkRequest ?_ | intro _ | split

theorem keeps_execAtom {w : Who} (hz : Keeps s₀ s) (he : execAtom w s = .next t) : Keeps s₀ t := by
  unfold execAtom at he; injection he with he; subst he; try dsimp only
  with_reducible repeat' first
    | exact hz | assumption | refine keeps_issueRow ?_ ?_ | refine keeps_xlFault ?_ | refine keeps_insFault ?_ | refine keeps_modSkein ?_ | refine keeps_touchLines ?_
    | refine keeps_poisonFault ?_ | refine keeps_releaseEarlier ?_ | refine keeps_memStart ?_
    | refine keeps_atomLanes ?_ | refine keeps_atomSend ?_ | intro _ | split

theorem keeps_redLanes {e : Env} {id held : Nat} {ls : List (Nat × Loc)} (hz : Keeps s₀ s) : Keeps s₀ (redLanes e id held ls s).2 := by
  unfold redLanes
  try dsimp only
  with_reducible repeat' first
    | exact hz | assumption | refine keeps_foldl_snd ?_ ?_ | refine keeps_scratchPut ?_ | refine keeps_reduceLine ?_
    | refine keeps_cachedWrite ?_ | intro _ | split

theorem keeps_redSend {e : Env} {id : Nat} {ls : List (Nat × Loc)} (hz : Keeps s₀ s) : Keeps s₀ (redSend e id ls s) := by
  unfold redSend; try dsimp only
  with_reducible repeat' first
    | exact hz | assumption | refine keeps_forL ?_ ?_ | refine keeps_linkRequest ?_ | intro _ | split

theorem keeps_execRed {w : Who} (hz : Keeps s₀ s) (he : execRed w s = .next t) : Keeps s₀ t := by
  unfold execRed at he; injection he with he; subst he; try dsimp only
  with_reducible repeat' first
    | exact hz | assumption | refine keeps_issueRow ?_ ?_ | refine keeps_xlFault ?_ | refine keeps_insFault ?_ | refine keeps_modSkein ?_ | refine keeps_touchLines ?_
    | refine keeps_poisonFault ?_ | refine keeps_releaseEarlier ?_ | refine keeps_memStart ?_
    | refine keeps_redLanes ?_ | refine keeps_redSend ?_ | intro _ | split

theorem keeps_execFence {w : Who} (hz : Keeps s₀ s) (he : execFence w s = .next t) : Keeps s₀ t := by
  unfold execFence at he; injection he with he; subst he; try dsimp only
  with_reducible repeat' first
    | exact hz | assumption | refine keeps_issueRow ?_ ?_ | refine keeps_settleSkein ?_ | refine keeps_startLcv ?_
    | refine keeps_finish ?_ | refine keeps_ite (fun _ => ?_) (fun _ => ?_) | intro _

theorem keeps_execFenceI {w : Who} (hz : Keeps s₀ s) (he : execFenceI w s = .next t) : Keeps s₀ t := by
  unfold execFenceI at he; injection he with he; subst he; try dsimp only
  with_reducible repeat' first
    | exact hz | assumption | refine keeps_issueRow ?_ ?_ | refine keeps_finish ?_ | refine keeps_startLcv ?_
    | refine keeps_ite (fun _ => ?_) (fun _ => ?_) | intro _

theorem keeps_Opnd_fetch {rd : Reader} {o : Opnd} {esc : Bool} {s : Reading} (hrd : ∀ l x, Keeps s₀ x.2 → Keeps s₀ (rd l x).2.2) (hz :
    Keeps s₀ s.2) : Keeps s₀ (Opnd.fetch rd o esc s).2.2 := by
  unfold Opnd.fetch
  try dsimp only
  with_reducible repeat' first | exact hz | (apply hrd) | refine keeps_pair2 (by assumption) ?_ | split

theorem keeps_convFetch {rd : Reader} {d : List Byte} {s : Reading} (hrd : ∀ l x, Keeps s₀ x.2 → Keeps s₀ (rd l x).2.2) (hz : Keeps s₀
    s.2) : Keeps s₀ (convFetch rd d s).2.2 := by
  unfold convFetch
  try dsimp only
  with_reducible repeat' first | exact hz | (apply hrd) | refine keeps_pair2 (by assumption) ?_ | split

theorem keeps_fetchA {rd : Reader} {d : List Byte} {s : Reading} (hrd : ∀ l x, Keeps s₀ x.2 → Keeps s₀ (rd l x).2.2) (hz : Keeps s₀ s.2)
    : Keeps s₀ (fetchA rd d s).2.2 := by
  unfold fetchA
  try dsimp only
  with_reducible repeat' first
    | exact hz | assumption | refine keeps_convFetch ?_ ?_ | refine keeps_Opnd_fetch ?_ ?_ | refine keeps_pair2 (by assumption) ?_ | split

theorem keeps_fetchB {rd : Reader} {d : List Byte} {s : Reading} (hrd : ∀ l x, Keeps s₀ x.2 → Keeps s₀ (rd l x).2.2) (hz : Keeps s₀ s.2)
    : Keeps s₀ (fetchB rd d s).2.2 := by
  unfold fetchB
  try dsimp only
  with_reducible repeat' first | exact hz | assumption | refine keeps_Opnd_fetch ?_ ?_ | refine keeps_pair2 (by assumption) ?_ | split

theorem keeps_opWrite {eng c : Nat} {l : List (Nat × List (Byte × Bool))} (hz : Keeps s₀ s) : Keeps s₀ (opWrite eng c l s).2 := by
  induction l generalizing s with
  | nil => exact hz
  | cons x r ih =>
    unfold opWrite
    try dsimp only
    split
    · exact keeps_pair (by assumption) (keeps_vWrite hz)
    · exact ih (keeps_pair (by assumption) (keeps_vWrite hz))

theorem keeps_skmRun {e : Env} {body : State → State} (hbody : ∀ x0, Keeps s₀ x0 → Keeps s₀ (body x0)) (hz : Keeps s₀ s) : Keeps s₀
    (skmRun e body s) := by
  unfold skmRun
  try dsimp only
  with_reducible repeat' first | exact hz | refine keeps_loomFault ?_ | (apply hbody) | refine keeps_ite (fun _ => ?_) (fun _ => ?_)

theorem keeps_execSkmMac {w : Who} (hz : Keeps s₀ s) (he : execSkmMac w s = .next t) : Keeps s₀ t := by
  unfold execSkmMac at he; injection he with he; subst he; try dsimp only
  with_reducible repeat' first
    | exact hz | assumption | refine keeps_issueRow ?_ ?_ | refine keeps_skmRun ?_ ?_ | refine keeps_perThread ?_ | intro _

theorem keeps_execSkmXpose {w : Who} (hz : Keeps s₀ s) (he : execSkmXpose w s = .next t) : Keeps s₀ t := by
  unfold execSkmXpose at he; injection he with he; subst he; try dsimp only
  with_reducible repeat' first
    | exact hz | assumption | refine keeps_issueRow ?_ ?_ | refine keeps_skmRun ?_ ?_ | refine keeps_perThread ?_ | intro _

theorem keeps_execSkmSum {w : Who} (hz : Keeps s₀ s) (he : execSkmSum w s = .next t) : Keeps s₀ t := by
  unfold execSkmSum at he; injection he with he; subst he; try dsimp only
  with_reducible repeat' first
    | exact hz | assumption | refine keeps_issueRow ?_ ?_ | refine keeps_skmRun ?_ ?_ | refine keeps_perThread ?_ | intro _

theorem keeps_execSkmMax {w : Who} (hz : Keeps s₀ s) (he : execSkmMax w s = .next t) : Keeps s₀ t := by
  unfold execSkmMax at he; injection he with he; subst he; try dsimp only
  with_reducible repeat' first
    | exact hz | assumption | refine keeps_issueRow ?_ ?_ | refine keeps_skmRun ?_ ?_ | refine keeps_perThread ?_ | intro _

theorem keeps_execTopk {w : Who} (hz : Keeps s₀ s) (he : execTopk w s = .next t) : Keeps s₀ t := by
  unfold execTopk at he; injection he with he; subst he; try dsimp only
  with_reducible repeat' first
    | exact hz | assumption | refine keeps_issueRow ?_ ?_ | refine keeps_skmRun ?_ ?_ | refine keeps_perThread ?_ | intro _

theorem keeps_accCount {loom ovf nan : Nat} (hz : Keeps s₀ s) : Keeps s₀ (accCount loom ovf nan s) := by
  unfold accCount
  try dsimp only
  with_reducible repeat' first | exact hz | refine keeps_setPend ?_ | refine keeps_bump ?_ | refine keeps_ite (fun _ => ?_) (fun _ => ?_)

theorem keeps_writeSlot {loom n : Nat} {l : List SlotWrite} (hz : Keeps s₀ s) : Keeps s₀ (writeSlot loom n l s) := by
  unfold writeSlot
  try dsimp only
  with_reducible repeat' first
    | exact hz | refine keeps_accCount ?_ | refine keeps_putSlot ?_ | refine keeps_ite (fun _ => ?_) (fun _ => ?_)

theorem keeps_nanFill {loom n : Nat} {topk : Bool} (hz : Keeps s₀ s) : Keeps s₀ (nanFill loom n topk s) := by
  unfold nanFill
  try dsimp only
  with_reducible repeat' first
    | exact hz | refine keeps_accCount ?_ | refine keeps_putSlot ?_ | refine keeps_ite (fun _ => ?_) (fun _ => ?_)

theorem keeps_drainReq {loom : Nat} {east : Bool} {ctx : Nat} {r : TileReq} {rows : List (List (Val × Bool))} (hz : Keeps s₀ s) : Keeps
    s₀ (drainReq loom east ctx r rows s) := by
  unfold drainReq
  try dsimp only
  with_reducible repeat' first
    | exact hz | refine keeps_bump ?_ | refine keeps_putSlot ?_ | refine keeps_writeSlot ?_ | refine keeps_ite (fun _ => ?_) (fun _ => ?_)

theorem keeps_failReq {loom : Nat} {east : Bool} {r : TileReq} (hz : Keeps s₀ s) : Keeps s₀ (failReq loom east r s) := by
  unfold failReq
  try dsimp only
  with_reducible repeat' first | exact hz | refine keeps_nanFill ?_ | refine keeps_putSlot ?_ | refine keeps_ite (fun _ => ?_) (fun _ => ?_)

theorem keeps_uniStart {e : Env} {wait : LcvWait} {hold : Bool} {n v : Nat} (hz : Keeps s₀ s) : Keeps s₀ (uniStart e wait hold n v s) :=
    by
  unfold uniStart
  try dsimp only
  with_reducible repeat' first | exact hz | refine keeps_startLcv ?_ | refine keeps_finish ?_

theorem keeps_takeTileStatus {loom : Nat} {east : Bool} {ctx t : Nat} (hz : Keeps s₀ s) : Keeps s₀ (takeTileStatus loom east ctx t s).2
    := by
  unfold takeTileStatus
  try dsimp only
  with_reducible repeat' first | exact hz | refine keeps_modCtx ?_ | split

theorem keeps_execTileSub {w : Who} (hz : Keeps s₀ s) (he : execTileSub w s = .next t) : Keeps s₀ t := by
  unfold execTileSub at he; injection he with he; subst he; try dsimp only
  with_reducible repeat' first
    | exact hz | assumption | refine keeps_issueRow ?_ ?_ | refine keeps_insFault ?_ | refine keeps_modCtx ?_
    | refine keeps_settleSkein ?_ | refine keeps_uniStart ?_ | refine keeps_modHalf ?_ | intro _ | split

theorem keeps_execTileWait {w : Who} (hz : Keeps s₀ s) (he : execTileWait w s = .next t) : Keeps s₀ t := by
  unfold execTileWait at he; injection he with he; subst he; try dsimp only
  with_reducible repeat' first
    | exact hz | assumption | refine keeps_issueRow ?_ ?_ | refine keeps_uniStart ?_ | refine keeps_countInvalid ?_
    | refine keeps_takeTileStatus ?_ | refine keeps_ite (fun _ => ?_) (fun _ => ?_) | intro _

theorem keeps_execTileTest {w : Who} (hz : Keeps s₀ s) (he : execTileTest w s = .next t) : Keeps s₀ t := by
  unfold execTileTest at he; injection he with he; subst he; try dsimp only
  with_reducible repeat' first
    | exact hz | assumption | refine keeps_issueRow ?_ ?_ | refine keeps_uniStart ?_ | refine keeps_countInvalid ?_
    | refine keeps_takeTileStatus ?_ | refine keeps_ite (fun _ => ?_) (fun _ => ?_) | intro _

theorem keeps_queHandle {e : Env} {h : Word} {allowed : QType → Bool} (hz : Keeps s₀ s) : Keeps s₀ (queHandle e h allowed s).2 := by
  unfold queHandle
  try dsimp only
  with_reducible repeat' first | exact hz | refine keeps_presentHandle ?_ | split

theorem keeps_popInto {loom ctx : Nat} {h : Word} {a : Nat} (hz : Keeps s₀ s) : Keeps s₀ (popInto loom ctx h a s).2 := by
  unfold popInto
  try dsimp only
  with_reducible repeat' first
    | exact hz | refine keeps_vRead ?_ | refine keeps_modQueue ?_ | refine keeps_scratchPut ?_ | refine keeps_deliverFaults ?_
    | refine keeps_pair (by assumption) ?_ | split

theorem keeps_execQuePush {w : Who} (hz : Keeps s₀ s) (he : execQuePush w s = .next t) : Keeps s₀ t := by
  unfold execQuePush at he; injection he with he; subst he; try dsimp only
  with_reducible repeat' first
    | exact hz | assumption | refine keeps_issueRow ?_ ?_ | refine keeps_queHandle ?_ | refine keeps_settleSkein ?_
    | refine keeps_uniStart ?_ | refine keeps_insFault ?_ | refine keeps_vWrite ?_ | refine keeps_xlFault ?_ | refine keeps_modQueue ?_
    | refine keeps_pair (by assumption) ?_ | refine keeps_ite (fun _ => ?_) (fun _ => ?_) | intro _ | split

theorem keeps_queTake {e : Env} {wait : Bool} (hz : Keeps s₀ s) : Keeps s₀ (queTake e wait s) := by
  unfold queTake
  try dsimp only
  with_reducible repeat' first
    | exact hz | refine keeps_queHandle ?_ | refine keeps_uniStart ?_ | refine keeps_insFault ?_ | refine keeps_popInto ?_
    | refine keeps_xlFault ?_ | refine keeps_pair (by assumption) ?_ | refine keeps_ite (fun _ => ?_) (fun _ => ?_) | split

theorem keeps_execQuePop {w : Who} (hz : Keeps s₀ s) (he : execQuePop w s = .next t) : Keeps s₀ t := by
  unfold execQuePop at he; injection he with he; subst he; try dsimp only
  with_reducible repeat' first | exact hz | assumption | refine keeps_issueRow ?_ ?_ | refine keeps_queTake ?_ | intro _

theorem keeps_execQueWait {w : Who} (hz : Keeps s₀ s) (he : execQueWait w s = .next t) : Keeps s₀ t := by
  unfold execQueWait at he; injection he with he; subst he; try dsimp only
  with_reducible repeat' first | exact hz | assumption | refine keeps_issueRow ?_ ?_ | refine keeps_queTake ?_ | intro _

theorem keeps_sendRemote {e : Env} {h : Word} {epoch : Nat} {ack : Bool} {msg : List Byte} (hz : Keeps s₀ s) : Keeps s₀ (sendRemote e h
    epoch ack msg s) := by
  unfold sendRemote
  try dsimp only
  with_reducible repeat' first
    | exact hz | refine keeps_uniStart ?_ | refine keeps_fabIssue ?_ | refine keeps_windowError ?_ | refine keeps_fabDrop ?_
    | refine keeps_ite (fun _ => ?_) (fun _ => ?_) | split

theorem keeps_execQueSend {w : Who} (hz : Keeps s₀ s) (he : execQueSend w s = .next t) : Keeps s₀ t := by
  unfold execQueSend at he; injection he with he; subst he; try dsimp only
  with_reducible repeat' first
    | exact hz | assumption | refine keeps_issueRow ?_ ?_ | refine keeps_settleSkein ?_ | refine keeps_presentHandle ?_
    | refine keeps_uniStart ?_ | refine keeps_insFault ?_ | refine keeps_sendRemote ?_ | refine keeps_judgeMessage ?_
    | refine keeps_ite (fun _ => ?_) (fun _ => ?_) | intro _ | split

theorem keeps_execChkCrc {w : Who} (hz : Keeps s₀ s) (he : execChkCrc w s = .next t) : Keeps s₀ t := by
  unfold execChkCrc at he; injection he with he; subst he; try dsimp only
  with_reducible repeat' first | exact hz | assumption | refine keeps_issueRow ?_ ?_ | refine keeps_perThread ?_ | intro _

theorem keeps_execChkCmb {w : Who} (hz : Keeps s₀ s) (he : execChkCmb w s = .next t) : Keeps s₀ t := by
  unfold execChkCmb at he; injection he with he; subst he; try dsimp only
  with_reducible repeat' first | exact hz | assumption | refine keeps_issueRow ?_ ?_ | refine keeps_perThread ?_ | intro _

theorem keeps_execChkVer {w : Who} (hz : Keeps s₀ s) (he : execChkVer w s = .next t) : Keeps s₀ t := by
  unfold execChkVer at he; injection he with he; subst he; try dsimp only
  with_reducible repeat' first
    | exact hz | assumption | refine keeps_issueRow ?_ ?_ | refine keeps_xlFault ?_ | refine keeps_uniStart ?_
    | refine keeps_verifyBlock ?_ | refine keeps_recErr ?_ | refine keeps_ite (fun _ => ?_) (fun _ => ?_) | intro _ | split

theorem keeps_issueBatch {loom : Nat} {east : Bool} (hz : Keeps s₀ s) : Keeps s₀ (issueBatch loom east s) := by
  unfold issueBatch
  try dsimp only
  with_reducible repeat' first | exact hz | refine keeps_bump ?_ | refine keeps_modHalf ?_ | split

theorem keeps_tileError {loom ctx code sub ticket : Nat} {after : Bool} (hz : Keeps s₀ s) : Keeps s₀ (tileError loom ctx code sub ticket
    after s) := by
  unfold tileError
  try dsimp only
  with_reducible repeat' first
    | exact hz | refine keeps_recErr ?_ | refine keeps_setReg ?_ | refine keeps_setPend ?_ | refine keeps_countInvalid ?_
    | refine keeps_ite (fun _ => ?_) (fun _ => ?_)

theorem keeps_completeReq {loom : Nat} {east : Bool} {ctx : Nat} {r : TileReq} {status sub result : Nat} {after : Bool} (hz : Keeps s₀ s)
    : Keeps s₀ (completeReq loom east ctx r status sub result after s) := by
  unfold completeReq
  try dsimp only
  with_reducible repeat' first
    | exact hz | refine keeps_modCtx ?_ | refine keeps_tileError ?_ | refine keeps_modCtxDie ?_ | refine keeps_postCompletion ?_
    | refine keeps_ite (fun _ => ?_) (fun _ => ?_)

theorem keeps_execTileOpComplete {loom : Nat} {east : Bool} (hz : Keeps s₀ s) (he : execTileOpComplete loom east s = .next t) : Keeps s₀
    t := by
  unfold execTileOpComplete at he; injection he with he; subst he; try dsimp only
  with_reducible repeat' first
    | exact hz | assumption | refine keeps_forL ?_ ?_ | refine keeps_releaseLease ?_ | refine keeps_modHalf ?_ | refine keeps_drainReq ?_
    | refine keeps_bump ?_ | refine keeps_completeReq ?_ | refine keeps_failReq ?_ | refine keeps_ite (fun _ => ?_) (fun _ => ?_)
    | intro _ | split

theorem keeps_execCompletionEntryPost (hz : Keeps s₀ s) (he : execCompletionEntryPost s = .next t) : Keeps s₀ t := by
  unfold execCompletionEntryPost at he; injection he with he; subst he; try dsimp only
  with_reducible repeat' first | exact hz | refine keeps_postDelayed ?_

theorem keeps_subAccepted {loom : Nat} {x : TileSub} (hz : Keeps s₀ s) : Keeps s₀ (subAccepted loom x s) := by
  unfold subAccepted
  try dsimp only
  with_reducible repeat' first | exact hz | refine keeps_modSkein ?_

theorem keeps_addOp {loom : Nat} {east : Bool} {o : TileOp} (hz : Keeps s₀ s) : Keeps s₀ (addOp loom east o s) := by
  unfold addOp
  try dsimp only
  with_reducible repeat' first | exact hz | refine keeps_modHalf ?_

theorem keeps_tileReader {loom ctx : Nat} {l : List (Nat × Nat)} {x : Reading} (hz : Keeps s₀ x.2) : Keeps s₀ (tileReader loom ctx l
    x).2.2 := by
  unfold tileReader
  try dsimp only
  with_reducible repeat' first | exact hz | refine keeps_opReadSeen ?_

theorem keeps_tileWalkPoison {loom : Nat} {east : Bool} {ctx : Nat} {reqs : List TileReq} {code : Nat} (hz : Keeps s₀ s) : Keeps s₀
    (tileWalkPoison loom east ctx reqs code s) := by
  unfold tileWalkPoison
  try dsimp only
  with_reducible repeat' first
    | exact hz | assumption | refine keeps_forL ?_ ?_ | refine keeps_killForPoison ?_ | refine keeps_completeReq ?_
    | refine keeps_ite (fun _ => ?_) (fun _ => ?_) | intro _

theorem keeps_acceptRequest {loom : Nat} {east : Bool} {ctx : Nat} {r : TileReq} (hz : Keeps s₀ s) : Keeps s₀ (acceptRequest loom east
    ctx r s) := by
  unfold acceptRequest
  try dsimp only
  with_reducible repeat' first
    | exact hz | assumption | refine keeps_fetchA ?_ ?_ | refine keeps_tileReader ?_ | refine keeps_tileWalkPoison ?_
    | refine keeps_addOp ?_ | refine keeps_issueBatch ?_ | refine keeps_modHalf ?_ | refine keeps_pair2 (by assumption) ?_
    | refine keeps_ite (fun _ => ?_) (fun _ => ?_) | intro _ | split

theorem keeps_execTileOpAccept {loom : Nat} {east : Bool} {pick : Nat} (hz : Keeps s₀ s) (he : execTileOpAccept loom east pick s = .next
    t) : Keeps s₀ t := by
  unfold execTileOpAccept at he; injection he with he; subst he; try dsimp only
  with_reducible repeat' first
    | exact hz | refine keeps_modHalf ?_ | refine keeps_modCtxDie ?_ | refine keeps_subAccepted ?_ | refine keeps_addOp ?_
    | refine keeps_issueBatch ?_ | refine keeps_acceptRequest ?_ | refine keeps_ite (fun _ => ?_) (fun _ => ?_) | split

theorem keeps_execTbTimeout {loom : Nat} {east : Bool} (hz : Keeps s₀ s) (he : execTbTimeout loom east s = .next t) : Keeps s₀ t := by
  unfold execTbTimeout at he; injection he with he; subst he; try dsimp only
  with_reducible repeat' first
    | exact hz | refine keeps_issueBatch ?_ | refine keeps_bumpSat ?_ | refine keeps_ite (fun _ => ?_) (fun _ => ?_)

theorem keeps_setStage {loom : Nat} {east : Bool} {i : Nat} {st : TileStage} (hz : Keeps s₀ s) : Keeps s₀ (setStage loom east i st s) :=
    by
  unfold setStage
  try dsimp only
  with_reducible repeat' first | exact hz | refine keeps_modHalf ?_

theorem keeps_execPreloadBegin {loom : Nat} {east : Bool} (hz : Keeps s₀ s) (he : execPreloadBegin loom east s = .next t) : Keeps s₀ t :=
    by
  unfold execPreloadBegin at he; injection he with he; subst he; try dsimp only
  with_reducible repeat' first
    | exact hz | assumption | refine keeps_fetchB ?_ ?_ | refine keeps_tileReader ?_ | refine keeps_tileWalkPoison ?_
    | refine keeps_setStage ?_ | refine keeps_modHalf ?_ | refine keeps_pair2 (by assumption) ?_
    | refine keeps_ite (fun _ => ?_) (fun _ => ?_) | intro _ | split

theorem keeps_opRows {loom : Nat} {o : TileOp} (hz : Keeps s₀ s) : Keeps s₀ (opRows loom o s).2 := by
  unfold opRows
  try dsimp only
  with_reducible repeat' first | exact hz | assumption | refine keeps_fetchA ?_ ?_ | refine keeps_tileReader ?_ | intro _ | split

theorem keeps_execPassStart {loom : Nat} {east : Bool} (hz : Keeps s₀ s) (he : execPassStart loom east s = .next t) : Keeps s₀ t := by
  unfold execPassStart at he; injection he with he; subst he; try dsimp only
  with_reducible repeat' first
    | exact hz | refine keeps_bumpSat ?_ | refine keeps_opRows ?_ | refine keeps_tileWalkPoison ?_ | refine keeps_setStage ?_
    | refine keeps_bump ?_ | refine keeps_pair (by assumption) ?_ | refine keeps_ite (fun _ => ?_) (fun _ => ?_) | split

theorem keeps_execFreezeAbandon {loom : Nat} {east : Bool} {late : Option Nat} (hz : Keeps s₀ s) (he : execFreezeAbandon loom east
    late s = .next t) : Keeps s₀ t := by
  unfold execFreezeAbandon at he; injection he with he; subst he; try dsimp only
  with_reducible repeat' first
    | exact hz | refine keeps_setStage ?_ | refine keeps_bump ?_ | refine keeps_setPend ?_ | refine keeps_bumpSat ?_ | split

theorem keeps_recordRepair {loom v : Nat} (hz : Keeps s₀ s) : Keeps s₀ (recordRepair loom v s) := by
  unfold recordRepair
  try dsimp only
  with_reducible repeat' first | exact hz | refine Keeps.of ?_ rfl rfl rfl rfl

theorem keeps_execTwlRepairWrite {loom v : Nat} (hz : Keeps s₀ s) (he : execTwlRepairWrite loom v s = .next t) : Keeps s₀ t := by
  unfold execTwlRepairWrite at he; injection he with he; subst he; try dsimp only
  with_reducible repeat' first
    | exact hz | refine keeps_recErr ?_ | refine keeps_bumpSat ?_ | refine keeps_setReg ?_ | refine keeps_recordRepair ?_
    | refine keeps_modLoom ?_ | refine keeps_ite (fun _ => ?_) (fun _ => ?_)

theorem keeps_execAlignRewriteDone {loom : Nat} (hz : Keeps s₀ s) (he : execAlignRewriteDone loom s = .next t) : Keeps s₀ t := by
  unfold execAlignRewriteDone at he; injection he with he; subst he; try dsimp only
  with_reducible repeat' first | exact hz | refine keeps_setField ?_

theorem keeps_execInServiceWrite {loom : Nat} {v : Bool} (hz : Keeps s₀ s) (he : execInServiceWrite loom v s = .next t) : Keeps s₀ t :=
    by
  unfold execInServiceWrite at he; injection he with he; subst he; try dsimp only
  with_reducible repeat' first | exact hz | refine keeps_setField ?_

theorem keeps_execRetiredSet {loom : Nat} (hz : Keeps s₀ s) (he : execRetiredSet loom s = .next t) : Keeps s₀ t := by
  unfold execRetiredSet at he; injection he with he; subst he; try dsimp only
  with_reducible repeat' first | exact hz | refine keeps_setField ?_

theorem keeps_dmaFinish {j : DmaJob} {status sub : Nat} {results : List Nat} (hz : Keeps s₀ s) : Keeps s₀ (dmaFinish j status sub results
    s) := by
  unfold dmaFinish
  try dsimp only
  with_reducible repeat' first
    | exact hz | refine keeps_dmaIdle ?_ | refine keeps_modCtxDie ?_ | refine keeps_bump ?_ | refine keeps_bumpSat ?_
    | refine keeps_setPend ?_ | refine keeps_postCompletion ?_ | refine keeps_ite (fun _ => ?_) (fun _ => ?_)
    | refine Keeps.of ?_ rfl rfl rfl rfl

theorem keeps_dmaError {page : Nat} {j : DmaJob} {status sub : Nat} (hz : Keeps s₀ s) : Keeps s₀ (dmaError page j status sub s) := by
  unfold dmaError
  try dsimp only
  with_reducible repeat' first
    | exact hz | refine keeps_recErr ?_ | refine keeps_killForPoison ?_ | refine keeps_ite (fun _ => ?_) (fun _ => ?_)

theorem keeps_dmaFail {page : Nat} {j : DmaJob} {status sub : Nat} {results : List Nat} (hz : Keeps s₀ s) : Keeps s₀ (dmaFail page j
    status sub results s) := by
  unfold dmaFail
  try dsimp only
  with_reducible repeat' first | exact hz | refine keeps_dmaFinish ?_ | refine keeps_dmaError ?_

theorem keeps_dmaTake {die slot : Nat} {ch : Channel} {q : Queue} {e : Nat} (hz : Keeps s₀ s) : Keeps s₀ (dmaTake die slot ch q e s) :=
    by
  unfold dmaTake
  dsimp only
  exact keeps_setReg (keeps_modCtxDie (keeps_modQueue (Keeps.of hz rfl rfl rfl rfl)))

theorem keeps_dmaStart {die slot : Nat} {mine : List Byte → Bool} {body : DmaJob → State → State} (hbody : ∀ x0 x1, Keeps s₀ x1 → Keeps
    s₀ (body x0 x1)) (hz : Keeps s₀ s) : Keeps s₀ (dmaStart die slot mine body s) := by
  unfold dmaStart
  dsimp only
  split
  · exact hz
  · split
    · split
      · exact hz
      · split
        · next h => exact keeps_dmaFail (keeps_dmaTake (keeps_pair h (keeps_vRead hz)))
        · next h => exact keeps_ite (fun _ => hz) (fun _ => hbody _ _ (keeps_dmaTake (keeps_pair h (keeps_vRead hz))))
    · exact hz

theorem keeps_modRun {channel : Nat} {f : DmaRun → DmaRun} (hz : Keeps s₀ s) : Keeps s₀ (modRun channel f s) := by
  unfold modRun
  try dsimp only
  with_reducible repeat' first | exact hz | refine Keeps.of ?_ rfl rfl rfl rfl

theorem keeps_dmaWrote {channel n : Nat} (hz : Keeps s₀ s) : Keeps s₀ (dmaWrote channel n s) := by
  unfold dmaWrote
  try dsimp only
  with_reducible repeat' first | exact hz | refine keeps_bump ?_ | refine keeps_modRun ?_ | split

theorem keeps_dmaStop {channel status sub : Nat} (hz : Keeps s₀ s) : Keeps s₀ (dmaStop channel status sub s) := by
  unfold dmaStop
  try dsimp only
  with_reducible repeat' first | exact hz | refine keeps_modRun ?_

theorem keeps_dmaIssue {fuel channel : Nat} (hz : Keeps s₀ s) : Keeps s₀ (dmaIssue fuel channel s) := by
  induction fuel generalizing s with
  | zero => exact hz
  | succ f ih =>
    unfold dmaIssue
    split
    · exact hz
    · split
      · exact hz
      · dsimp only
        split
        · exact hz
        · split
          · exact keeps_dmaStop hz
          · refine keeps_ite (fun _ => ?_) (fun _ => ?_)
            · exact ih (keeps_fabIssue (keeps_modCtxDie (keeps_modRun hz)))
            · exact keeps_dmaStop (keeps_fabFail (keeps_fabIssue (keeps_modCtxDie (keeps_modRun hz))))

theorem keeps_dmaPump (hz : Keeps s₀ s) : Keeps s₀ (dmaPump s) := by
  unfold dmaPump
  try dsimp only
  with_reducible repeat' first
    | exact hz | assumption | refine keeps_forL ?_ ?_ | refine keeps_dmaIssue ?_ | refine keeps_modRun ?_
    | refine keeps_ite (fun _ => ?_) (fun _ => ?_) | intro _

theorem keeps_dmaWrite {channel ctx va : Nat} {l : List (Byte × Bool)} {carried : List (Nat × Nat)} (hz : Keeps s₀ s) : Keeps s₀
    (dmaWrite channel ctx va l carried s) := by
  unfold dmaWrite
  try dsimp only
  with_reducible repeat' first
    | exact hz | assumption | refine keeps_foldl_snd ?_ ?_ | refine keeps_dmaStop ?_ | refine keeps_gWriteC ?_ | refine keeps_dmaWrote ?_
    | refine keeps_modRun ?_ | refine keeps_pair (by assumption) ?_ | refine keeps_ite (fun _ => ?_) (fun _ => ?_) | intro _ | split

theorem keeps_dmaReadRow {die eng ctx src dst n : Nat} {seen : List Nat} (hz : Keeps s₀ s) : Keeps s₀ (dmaReadRow die eng ctx src dst n
    seen s).2.2 := by
  unfold dmaReadRow
  try dsimp only
  with_reducible repeat' first | exact hz | refine keeps_verifyAll ?_ | refine keeps_gRead ?_ | refine keeps_pair (by assumption) ?_ | split

theorem keeps_dmaCopyRow {die eng channel ctx src dst n : Nat} {seen : List Nat} (hz : Keeps s₀ s) : Keeps s₀ (dmaCopyRow die eng channel
    ctx src dst n seen s).2 := by
  unfold dmaCopyRow
  try dsimp only
  with_reducible repeat' first
    | exact hz | assumption | refine keeps_foldl_snd ?_ ?_ | refine keeps_dmaStop ?_ | refine keeps_dmaReadRow ?_
    | refine keeps_dmaWrite ?_ | refine keeps_modRun ?_ | refine keeps_verifyAll ?_ | refine keeps_gRead ?_
    | refine keeps_pair (by assumption) ?_ | refine keeps_pair2 (by assumption) ?_ | intro _ | split

theorem keeps_dmaBegin {j : DmaJob} (hz : Keeps s₀ s) : Keeps s₀ (dmaBegin j s) := by
  unfold dmaBegin
  try dsimp only
  with_reducible repeat' first | exact hz | refine Keeps.of ?_ rfl rfl rfl rfl

end Sys2Proof.Machine
end

