-- ==== Sys2Proof/Laws/Keeps3.lean ====
section
/-! SUPPORT. What every operation and meaning keeps (`Keeps`), part 3: one lemma each, in the order of the model. -/

set_option linter.all false

namespace Sys2Proof.Machine

variable {s₀ s t : State}

theorem keeps_dmaFlush {channel ctx : Nat} {l : List (Nat × List (Byte × Bool))} {carried : List (Nat × Nat)} (hz : Keeps s₀ s) : Keeps
    s₀ (dmaFlush channel ctx l carried s) := by
  unfold dmaFlush
  try dsimp only
  with_reducible repeat' first
    | exact hz | assumption | refine keeps_forL ?_ ?_ | refine keeps_dmaWrite ?_ | refine keeps_ite (fun _ => ?_) (fun _ => ?_) | intro _

theorem keeps_copyRows {die eng channel ctx n : Nat} {joined : Bool} {rows : List (Nat × Nat)} {pend : List (Nat × List (Byte × Bool))}
    {carried : List (Nat × Nat)} {seen : List Nat} (hz : Keeps s₀ s) : Keeps s₀ (copyRows die eng channel ctx n joined rows pend carried
    seen s) := by
  induction rows generalizing pend carried seen s with
  | nil => exact keeps_dmaFlush hz
  | cons x rest ih =>
    obtain ⟨src, dst⟩ := x
    unfold copyRows
    try dsimp only
    refine keeps_ite (fun _ => hz) (fun _ => keeps_ite (fun _ => ih (keeps_dmaCopyRow (keeps_dmaFlush hz))) (fun _ => ?_))
    split
    · exact keeps_dmaStop (keeps_dmaFlush (keeps_pair2 (by assumption) (keeps_dmaReadRow hz)))
    · exact ih (keeps_pair2 (by assumption) (keeps_dmaReadRow hz))

theorem keeps_execCopy {die slot : Nat} (hz : Keeps s₀ s) (he : execCopy die slot s = .next t) : Keeps s₀ t := by
  unfold execCopy at he; injection he with he; subst he; try dsimp only
  with_reducible repeat' first
    | exact hz | assumption | refine keeps_dmaStart ?_ ?_ | refine keeps_dmaFail ?_ | refine keeps_dmaPump ?_ | refine keeps_copyRows ?_
    | refine keeps_dmaBegin ?_ | refine keeps_ite (fun _ => ?_) (fun _ => ?_) | intro _

theorem keeps_execFill {die slot : Nat} (hz : Keeps s₀ s) (he : execFill die slot s = .next t) : Keeps s₀ t := by
  unfold execFill at he; injection he with he; subst he; try dsimp only
  with_reducible repeat' first
    | exact hz | assumption | refine keeps_dmaStart ?_ ?_ | refine keeps_dmaFail ?_ | refine keeps_dmaPump ?_ | refine keeps_dmaFlush ?_
    | refine keeps_dmaBegin ?_ | refine keeps_ite (fun _ => ?_) (fun _ => ?_) | intro _

theorem keeps_execDmaEntryDone {die slot : Nat} (hz : Keeps s₀ s) (he : execDmaEntryDone die slot s = .next t) : Keeps s₀ t := by
  unfold execDmaEntryDone at he; injection he with he; subst he; try dsimp only
  with_reducible repeat' first
    | exact hz | refine keeps_dmaFinish ?_ | refine keeps_dmaError ?_ | refine keeps_ite (fun _ => ?_) (fun _ => ?_) | split
    | refine Keeps.of ?_ rfl rfl rfl rfl

theorem keeps_modConv {h : Word} {f : ConvChan → ConvChan} (hz : Keeps s₀ s) : Keeps s₀ (modConv h f s) := by
  unfold modConv
  try dsimp only
  with_reducible repeat' first | exact hz | refine Keeps.of ?_ rfl rfl rfl rfl

theorem keeps_amaxJump {die c : Nat} (hz : Keeps s₀ s) : Keeps s₀ (amaxJump die c s) := by
  unfold amaxJump
  try dsimp only
  with_reducible repeat' first | exact hz | refine keeps_modChk ?_ | refine keeps_bumpSat ?_

theorem keeps_pushAmax {die c : Nat} {h : Word} {amax : Option Nat} (hz : Keeps s₀ s) : Keeps s₀ (pushAmax die c h amax s) := by
  unfold pushAmax
  try dsimp only
  with_reducible repeat' first
    | exact hz | refine keeps_amaxJump ?_ | refine keeps_modConv ?_ | refine keeps_ite (fun _ => ?_) (fun _ => ?_) | split

theorem keeps_convDone {j : DmaJob} {status sub : Nat} {results : List Nat} (hz : Keeps s₀ s) : Keeps s₀ (convDone j status sub results
    s) := by
  unfold convDone
  try dsimp only
  with_reducible repeat' first
    | exact hz | refine keeps_bump ?_ | refine keeps_setPend ?_ | refine keeps_dmaFinish ?_ | refine keeps_dmaFail ?_
    | refine keeps_ite (fun _ => ?_) (fun _ => ?_)

theorem keeps_convCount {die : Nat} {r : EncRow} (hz : Keeps s₀ s) : Keeps s₀ (convCount die r s) := by
  unfold convCount
  try dsimp only
  with_reducible repeat' first | exact hz | refine keeps_bump ?_ | refine keeps_setPend ?_ | refine keeps_ite (fun _ => ?_) (fun _ => ?_)

theorem keeps_convStart {die slot : Nat} {mine : List Byte → Bool} {bad : List Byte → ConvChan → Option Nat} {body : DmaJob → ConvChan →
    State → State} (hbody : ∀ x0 x1 x2, Keeps s₀ x2 → Keeps s₀ (body x0 x1 x2)) (hz : Keeps s₀ s) : Keeps s₀ (convStart die slot mine bad
    body s) := by
  unfold convStart
  try dsimp only
  with_reducible repeat' first
    | exact hz | assumption | refine keeps_dmaStart ?_ ?_ | refine keeps_presentHandle ?_ | refine keeps_dmaFinish ?_
    | refine keeps_bump ?_ | refine keeps_convDone ?_ | (apply hbody) | refine keeps_ite (fun _ => ?_) (fun _ => ?_) | intro _ | split

theorem keeps_convertRow {j : DmaJob} {ch : ConvChan} {ex : Int} {joined : Bool} {i : Nat} {acc : ConvAcc × State} (hz : Keeps s₀ acc.2)
    : Keeps s₀ (convertRow j ch ex joined i acc).2 := by
  unfold convertRow
  try dsimp only
  with_reducible repeat' first
    | exact hz | refine keeps_opReadSeen ?_ | refine keeps_opWrite ?_ | refine keeps_convCount ?_ | refine keeps_pair (by assumption) ?_
    | refine keeps_pair2 (by assumption) ?_ | split

theorem keeps_convertBody {j : DmaJob} {ch : ConvChan} (hz : Keeps s₀ s) : Keeps s₀ (convertBody j ch s) := by
  unfold convertBody
  try dsimp only
  with_reducible repeat' first
    | exact hz | assumption | refine keeps_foldl_snd ?_ ?_ | refine keeps_modConv ?_ | refine keeps_convertRow ?_
    | refine keeps_opWrite ?_ | refine keeps_convDone ?_ | refine keeps_pushAmax ?_ | refine keeps_ite (fun _ => ?_) (fun _ => ?_)
    | intro _ | split

theorem keeps_execConvert {die slot : Nat} (hz : Keeps s₀ s) (he : execConvert die slot s = .next t) : Keeps s₀ t := by
  unfold execConvert at he; injection he with he; subst he; try dsimp only
  with_reducible repeat' first | exact hz | assumption | refine keeps_convStart ?_ ?_ | refine keeps_convertBody ?_ | intro _

theorem keeps_execMeasure {die slot : Nat} (hz : Keeps s₀ s) (he : execMeasure die slot s = .next t) : Keeps s₀ t := by
  unfold execMeasure at he; injection he with he; subst he; try dsimp only
  with_reducible repeat' first | exact hz | assumption | refine keeps_convStart ?_ ?_ | refine keeps_convertBody ?_ | intro _

theorem keeps_execHistRead {die slot : Nat} (hz : Keeps s₀ s) (he : execHistRead die slot s = .next t) : Keeps s₀ t := by
  unfold execHistRead at he; injection he with he; subst he; try dsimp only
  with_reducible repeat' first
    | exact hz | assumption | refine keeps_convStart ?_ ?_ | refine keeps_vWrite ?_ | refine keeps_convDone ?_
    | refine keeps_pair (by assumption) ?_ | intro _ | split

theorem keeps_execStashPack {die slot : Nat} (hz : Keeps s₀ s) (he : execStashPack die slot s = .next t) : Keeps s₀ t := by
  unfold execStashPack at he; injection he with he; subst he; try dsimp only
  with_reducible repeat' first
    | exact hz | assumption | refine keeps_convStart ?_ ?_ | refine keeps_opRead ?_ | refine keeps_convDone ?_ | refine keeps_opWrite ?_
    | refine keeps_convCount ?_ | refine keeps_pushAmax ?_ | refine keeps_pair (by assumption) ?_
    | refine keeps_ite (fun _ => ?_) (fun _ => ?_) | intro _ | split

theorem keeps_readSegment {j : DmaJob} {i n first : Nat} (hz : Keeps s₀ s) : Keeps s₀ (readSegment j i n first s).2 := by
  induction n generalizing i first s with
  | zero => exact hz
  | succ n ih =>
    unfold readSegment
    try dsimp only
    split
    · exact keeps_pair (by assumption) (keeps_opRead hz)
    · split
      · exact keeps_pair (by assumption) (keeps_opRead hz)
      · split
        · exact keeps_pair (by assumption) (keeps_vRead (keeps_pair (by assumption) (keeps_opRead hz)))
        · split
          · exact keeps_pair (by assumption) (keeps_vRead (keeps_pair (by assumption) (keeps_opRead hz)))
          · split
            · exact keeps_pair (by assumption) (keeps_vRead (keeps_pair (by assumption) (keeps_opRead hz)))
            · split
              · next h => exact keeps_pair h (ih (keeps_pair (by assumption) (keeps_vRead (keeps_pair (by assumption) (keeps_opRead hz)))))
              · next h => exact keeps_pair h (ih (keeps_pair (by assumption) (keeps_vRead (keeps_pair (by assumption) (keeps_opRead hz)))))

theorem keeps_execStashUnpack {die slot : Nat} (hz : Keeps s₀ s) (he : execStashUnpack die slot s = .next t) : Keeps s₀ t := by
  unfold execStashUnpack at he; injection he with he; subst he; try dsimp only
  with_reducible repeat' first
    | exact hz | assumption | refine keeps_convStart ?_ ?_ | refine keeps_readSegment ?_ | refine keeps_convDone ?_
    | refine keeps_opWrite ?_ | refine keeps_convCount ?_ | refine keeps_pair (by assumption) ?_
    | refine keeps_ite (fun _ => ?_) (fun _ => ?_) | intro _ | split

theorem keeps_modStack {die stack : Nat} {f : Stack → Stack} (hz : Keeps s₀ s) : Keeps s₀ (modStack die stack f s) := by
  unfold modStack
  try dsimp only
  with_reducible repeat' first | exact hz | refine Keeps.of ?_ rfl rfl rfl rfl

theorem keeps_nextRebuild {die stack : Nat} (hz : Keeps s₀ s) : Keeps s₀ (nextRebuild die stack s) := by
  unfold nextRebuild
  try dsimp only
  with_reducible repeat' first | exact hz | refine keeps_setReg ?_ | refine keeps_modStack ?_ | split

theorem keeps_markFailed {die stack n : Nat} (hz : Keeps s₀ s) : Keeps s₀ (markFailed die stack n s) := by
  unfold markFailed
  try dsimp only
  with_reducible repeat' first
    | exact hz | refine keeps_setReg ?_ | refine keeps_setPend ?_ | refine keeps_setField ?_ | refine keeps_nextRebuild ?_
    | refine keeps_modStack ?_ | refine keeps_ite (fun _ => ?_) (fun _ => ?_) | split

theorem keeps_countSymbols {die stack : Nat} {pcs : List (Option Nat)} {errs : List (Nat × Nat)} (hz : Keeps s₀ s) : Keeps s₀
    (countSymbols die stack pcs errs s) := by
  unfold countSymbols
  try dsimp only
  with_reducible repeat' first | exact hz | assumption | refine keeps_forL ?_ ?_ | refine keeps_modStack ?_ | intro _ | split

theorem keeps_granuleRead {die stack l g : Nat} {erased : List Nat} {pcs : List (Option Nat)} {errs : List (Nat × Nat)} (hz : Keeps s₀ s)
    : Keeps s₀ (granuleRead die stack l g erased pcs errs s).2 := by
  unfold granuleRead
  extract_lets page off pa free r s1 s2 poisonCount
  have h1 : Keeps s₀ s1 := Keeps.of_draw hz rfl rfl rfl rfl
  have h2 : Keeps s₀ s2 := keeps_ite (fun _ => keeps_bump h1) (fun _ => h1)
  have hp : ∀ x, Keeps s₀ x → Keeps s₀ (poisonCount x) := fun x hx => keeps_ite (fun _ => keeps_bumpSat hx) (fun _ => hx)
  clear_value s2 poisonCount r
  cases r
  · exact hp _ h2
  · exact hp _ (keeps_countSymbols (keeps_ite (fun _ => keeps_bump h2) (fun _ => h2)))
  · refine keeps_bumpSat (keeps_logDry (keeps_setPend (keeps_setReg (keeps_bumpSat (keeps_ite (fun _ => h2) (fun _ => keeps_setPoison ?_))))))
    exact Keeps.of_put h2 rfl rfl (Nat.le_refl _) rfl
  · refine hp _ (keeps_ite (fun _ => h2) (fun _ => ?_))
    exact Keeps.of_put h2 rfl rfl (Nat.le_succ _) rfl

theorem keeps_lineRead {die l : Nat} {forced inner : List Nat} {err0 err1 : List (Nat × Nat)} (hz : Keeps s₀ s) : Keeps s₀ (lineRead die
    l forced inner err0 err1 s).2 := by
  unfold lineRead
  dsimp only
  refine keeps_granuleRead (keeps_granuleRead (keeps_forL (fun p t ht => ?_) (keeps_bump hz)))
  split
  · exact keeps_modStack ht
  · exact ht

theorem keeps_execDramReadDecode {die line : Nat} {inner : List Nat} {err0 err1 : List (Nat × Nat)} (hz : Keeps s₀ s) (he :
    execDramReadDecode die line inner err0 err1 s = .next t) : Keeps s₀ t := by
  unfold execDramReadDecode at he; injection he with he; subst he; try dsimp only
  with_reducible repeat' first | exact hz | refine keeps_lineRead ?_ | refine keeps_ite (fun _ => ?_) (fun _ => ?_)

theorem keeps_execPcFailMark {die stack pc : Nat} (hz : Keeps s₀ s) (he : execPcFailMark die stack pc s = .next t) : Keeps s₀ t := by
  unfold execPcFailMark at he; injection he with he; subst he; try dsimp only
  with_reducible repeat' first | exact hz | refine keeps_markFailed ?_ | refine keeps_ite (fun _ => ?_) (fun _ => ?_)

theorem keeps_execMemcPcFailedWrite {die stack v : Nat} (hz : Keeps s₀ s) (he : execMemcPcFailedWrite die stack v s = .next t) : Keeps s₀
    t := by
  unfold execMemcPcFailedWrite at he; injection he with he; subst he; try dsimp only
  with_reducible repeat' first | exact hz | assumption | refine keeps_forL ?_ ?_ | refine keeps_markFailed ?_ | intro _

theorem keeps_execRebuildLine {die stack : Nat} {inner : List Nat} {err0 err1 : List (Nat × Nat)} (hz : Keeps s₀ s) (he : execRebuildLine
    die stack inner err0 err1 s = .next t) : Keeps s₀ t := by
  unfold execRebuildLine at he; injection he with he; subst he; try dsimp only
  with_reducible repeat' first
    | exact hz | refine keeps_lineRead ?_ | refine keeps_setReg ?_ | refine keeps_ite (fun _ => ?_) (fun _ => ?_) | split

theorem keeps_execRebuildComplete {die stack : Nat} (hz : Keeps s₀ s) (he : execRebuildComplete die stack s = .next t) : Keeps s₀ t := by
  unfold execRebuildComplete at he; injection he with he; subst he; try dsimp only
  with_reducible repeat' first
    | exact hz | refine keeps_nextRebuild ?_ | refine keeps_setReg ?_ | refine keeps_ite (fun _ => ?_) (fun _ => ?_) | split

theorem keeps_execPatrolScrub {die : Nat} {inner : List Nat} {err0 err1 : List (Nat × Nat)} (hz : Keeps s₀ s) (he : execPatrolScrub die
    inner err0 err1 s = .next t) : Keeps s₀ t := by
  unfold execPatrolScrub at he; injection he with he; subst he; try dsimp only
  with_reducible repeat' first
    | exact hz | assumption | refine keeps_forN ?_ ?_ | refine keeps_lineRead ?_ | refine keeps_memM ?_ | refine keeps_lineWrite ?_
    | refine keeps_setReg ?_ | refine keeps_modStack ?_ | refine keeps_bumpSat ?_ | refine keeps_ite (fun _ => ?_) (fun _ => ?_) | intro _

theorem keeps_execMemcPatrolWrite {die v : Nat} (hz : Keeps s₀ s) (he : execMemcPatrolWrite die v s = .next t) : Keeps s₀ t := by
  unfold execMemcPatrolWrite at he; injection he with he; subst he; try dsimp only
  with_reducible repeat' first | exact hz | refine keeps_setReg ?_ | refine keeps_recErr ?_ | refine keeps_ite (fun _ => ?_) (fun _ => ?_)

theorem keeps_execMemcSurvWrite {die : Nat} {size : Bool} {v : Nat} (hz : Keeps s₀ s) (he : execMemcSurvWrite die size v s = .next t) :
    Keeps s₀ t := by
  unfold execMemcSurvWrite at he; injection he with he; subst he; try dsimp only
  with_reducible repeat' first
    | exact hz | refine keeps_recErr ?_ | refine keeps_ite (fun _ => ?_) (fun _ => ?_) | split | refine Keeps.of ?_ rfl rfl rfl rfl

theorem keeps_execDramTempSample {die stack temp : Nat} (hz : Keeps s₀ s) (he : execDramTempSample die stack temp s = .next t) : Keeps s₀
    t := by
  unfold execDramTempSample at he; injection he with he; subst he; try dsimp only
  with_reducible repeat' first | exact hz | refine keeps_setReg ?_

theorem keeps_scrubRange {pa n : Nat} (hz : Keeps s₀ s) : Keeps s₀ (scrubRange pa n s) := by
  unfold scrubRange
  try dsimp only
  with_reducible repeat' first
    | exact hz | assumption | refine keeps_forN ?_ ?_ | refine keeps_bump ?_ | intro _ | refine Keeps.of_clear ?_ rfl rfl rfl rfl

theorem keeps_makeChecked {pa n : Nat} (hz : Keeps s₀ s) : Keeps s₀ (makeChecked pa n s) := by
  unfold makeChecked
  try dsimp only
  with_reducible repeat' first
    | exact hz | assumption | refine keeps_forN ?_ ?_ | intro _ | refine Keeps.of ?_ rfl rfl rfl rfl
    | refine Keeps.of_put ?_ rfl rfl (Nat.le_refl _) rfl

theorem keeps_tableRoom {c n : Nat} (hz : Keeps s₀ s) (he : (tableRoom c n s) = some (a0, t)) : Keeps s₀ t := by
  unfold tableRoom at he
  try dsimp only at he
  repeat' split at he
  all_goals first | (cases he; done) | (injection he with he; first | (injections; subst_vars) | subst he) | skip
  all_goals try dsimp only
  with_reducible repeat' first | exact hz | refine keeps_modCtx ?_ | refine keeps_scrubRange ?_

theorem keeps_putEntry {fuel c l tbl va last e : Nat} (hz : Keeps s₀ s) (he : (putEntry fuel c l tbl va last e s) = some t) : Keeps s₀ t
    := by
  induction fuel generalizing l tbl s with
  | zero => simp [putEntry] at he
  | succ f ih =>
    unfold putEntry at he
    dsimp only at he
    split at he
    · injection he with he; subst he; exact Keeps.of_put hz rfl rfl (Nat.le_refl _) rfl
    · split at he
      · split at he
        · cases he
        · exact ih hz he
      · split at he
        · cases he
        · refine ih ?_ he; exact Keeps.of_put (keeps_tableRoom hz (by assumption)) rfl rfl (Nat.le_refl _) rfl

theorem keeps_mapLeaf {c : Nat} {l : Leaf} (hz : Keeps s₀ s) (he : (mapLeaf c l s) = some t) : Keeps s₀ t :=
  keeps_putEntry (keeps_modCtx hz) he

theorem keeps_mapLeaves {c : Nat} {l : List Leaf} (hz : Keeps s₀ s) (he : (mapLeaves c l s) = some t) : Keeps s₀ t := by
  induction l generalizing s with
  | nil => injection he with he; subst he; exact hz
  | cons x r ih =>
    unfold mapLeaves at he
    rw [Option.bind_eq_some_iff] at he
    obtain ⟨u, hu, hv⟩ := he
    exact ih (keeps_mapLeaf hz hu) hv

theorem keeps_unmapLeaf {c : Nat} {l : Leaf} (hz : Keeps s₀ s) : Keeps s₀ (unmapLeaf c l s) := by
  have h : Keeps s₀ (if l.mt < 2 then settleFrames l.pa l.size s else s) := keeps_ite (fun _ => keeps_settleFrames hz) (fun _ => hz)
  unfold unmapLeaf
  exact keeps_modCtx (keeps_getD h fun u hu => keeps_putEntry h hu)

theorem keeps_setLeafPerm {c : Nat} {l : Leaf} {perm : Nat} (hz : Keeps s₀ s) : Keeps s₀ (setLeafPerm c l perm s) := by
  unfold setLeafPerm
  refine keeps_modCtx (keeps_getD hz fun u hu => keeps_putEntry hz hu)

theorem keeps_lcvFault {loom skein : Nat} {l : Lcv} {code sub va thread : Nat} (hz : Keeps s₀ s) : Keeps s₀ (lcvFault loom skein l code
    sub va thread s) := by
  unfold lcvFault
  try dsimp only
  with_reducible repeat' first
    | exact hz | refine keeps_completeLcv ?_ | refine keeps_modSkein ?_ | refine keeps_poisonFault ?_ | refine keeps_insFault ?_
    | refine keeps_ite (fun _ => ?_) (fun _ => ?_) | split

theorem keeps_execLcvCompletion {loom skein id : Nat} (hz : Keeps s₀ s) (he : execLcvCompletion loom skein id s = .next t) : Keeps s₀ t
    := by
  unfold execLcvCompletion at he; injection he with he; subst he; try dsimp only
  with_reducible repeat' first
    | exact hz | refine keeps_completeLcv ?_ | refine keeps_lcvFault ?_ | refine keeps_modSkein ?_ | refine keeps_takeTileStatus ?_
    | refine keeps_popInto ?_ | refine keeps_pair (by assumption) ?_ | refine keeps_ite (fun _ => ?_) (fun _ => ?_) | split

theorem keeps_execRequestWest {loom : Nat} (hz : Keeps s₀ s) (he : execRequestWest loom s = .next t) : Keeps s₀ t := by
  unfold execRequestWest at he; injection he with he; subst he; try dsimp only
  with_reducible repeat' first | exact hz | refine keeps_issueBatch ?_ | refine keeps_setField ?_ | refine keeps_modLoom ?_

theorem keeps_execRequestEast {loom : Nat} (hz : Keeps s₀ s) (he : execRequestEast loom s = .next t) : Keeps s₀ t := by
  unfold execRequestEast at he; injection he with he; subst he; try dsimp only
  with_reducible repeat' first
    | exact hz | refine keeps_issueBatch ?_ | refine keeps_setField ?_ | refine keeps_modLoom ?_
    | refine keeps_ite (fun _ => ?_) (fun _ => ?_)

theorem keeps_clearHalf {loom : Nat} {east : Bool} (hz : Keeps s₀ s) : Keeps s₀ (clearHalf loom east s) := by
  unfold clearHalf
  try dsimp only
  with_reducible repeat' first | exact hz | refine keeps_chargeV ?_ | refine keeps_modLoom ?_

theorem keeps_keepSaved {v : SavedLoom} (hz : Keeps s₀ s) : Keeps s₀ (keepSaved v s) := by
  unfold keepSaved
  try dsimp only
  with_reducible repeat' first | exact hz | refine keeps_modCtx ?_ | split | refine Keeps.of ?_ rfl rfl rfl rfl

theorem keeps_saveHalf {loom : Nat} {east : Bool} (hz : Keeps s₀ s) : Keeps s₀ (saveHalf loom east s) := by
  unfold saveHalf
  try dsimp only
  with_reducible repeat' first
    | exact hz | refine keeps_clearHalf ?_ | refine keeps_keepSaved ?_ | refine keeps_ite (fun _ => ?_) (fun _ => ?_) | split

theorem keeps_execPreemptSaveComplete {loom : Nat} {east : Bool} (hz : Keeps s₀ s) (he : execPreemptSaveComplete loom east s = .next t) :
    Keeps s₀ t := by
  unfold execPreemptSaveComplete at he; injection he with he; subst he; try dsimp only
  with_reducible repeat' first
    | exact hz | refine keeps_modLoom ?_ | refine keeps_saveHalf ?_ | refine keeps_setPend ?_ | refine keeps_setField ?_
    | refine keeps_ite (fun _ => ?_) (fun _ => ?_)

theorem keeps_clearTenant {page : Nat} (hz : Keeps s₀ s) : Keeps s₀ (clearTenant page s) := by
  unfold clearTenant
  try dsimp only
  with_reducible repeat' first | exact hz | refine keeps_setField ?_

theorem keeps_execLoomCfgSplit {loom : Nat} {v : Bool} (hz : Keeps s₀ s) (he : execLoomCfgSplit loom v s = .next t) : Keeps s₀ t := by
  unfold execLoomCfgSplit at he; injection he with he; subst he; try dsimp only
  with_reducible repeat' first
    | exact hz | refine keeps_recErr ?_ | refine keeps_setField ?_ | refine keeps_modLoom ?_ | refine keeps_clearTenant ?_
    | refine keeps_ite (fun _ => ?_) (fun _ => ?_)

theorem keeps_execIllegalInstruction {w : Who} (hz : Keeps s₀ s) (he : execIllegalInstruction w s = .next t) : Keeps s₀ t := by
  unfold execIllegalInstruction at he; injection he with he; subst he; try dsimp only
  with_reducible repeat' first | exact hz | assumption | refine keeps_issueRow ?_ ?_ | intro _

theorem keeps_execDoorbellWrite {slot rec : Nat} {consumer : Bool} {v : Nat} (hz : Keeps s₀ s) (he : execDoorbellWrite slot rec consumer
    v s = .next t) : Keeps s₀ t := by
  unfold execDoorbellWrite at he; injection he with he; subst he; try dsimp only
  with_reducible repeat' first | exact hz | refine keeps_doorbellWrite ?_

theorem keeps_consumeHead {h : Word} (hz : Keeps s₀ s) : Keeps s₀ (consumeHead h s) := by
  unfold consumeHead
  try dsimp only
  with_reducible repeat' first | exact hz | refine keeps_modQueue ?_

theorem keeps_headFail {die : Nat} {q : Queue} {c u : Nat} (hz : Keeps s₀ s) : Keeps s₀ (headFail die q c u s) := by
  unfold headFail
  try dsimp only
  with_reducible repeat' first
    | exact hz | refine keeps_recErr ?_ | refine keeps_killForPoison ?_ | refine keeps_postCompletion ?_ | refine keeps_consumeHead ?_
    | refine keeps_ite (fun _ => ?_) (fun _ => ?_)

theorem keeps_execDispatch {die slot : Nat} (hz : Keeps s₀ s) (he : execDispatch die slot s = .next t) : Keeps s₀ t := by
  unfold execDispatch at he; injection he with he; subst he; try dsimp only
  with_reducible repeat' first
    | exact hz | refine keeps_vRead ?_ | refine keeps_headFail ?_ | refine keeps_modQueue ?_ | refine keeps_pair (by assumption) ?_
    | refine keeps_ite (fun _ => ?_) (fun _ => ?_) | split

theorem keeps_execDispatchComplete {id : Nat} (hz : Keeps s₀ s) (he : execDispatchComplete id s = .next t) : Keeps s₀ t := by
  unfold execDispatchComplete at he; injection he with he; subst he; try dsimp only
  with_reducible repeat' first
    | exact hz | refine keeps_modLoom ?_ | refine keeps_postCompletion ?_ | refine keeps_ite (fun _ => ?_) (fun _ => ?_) | split
    | refine Keeps.of ?_ rfl rfl rfl rfl

theorem keeps_lend {loom : Nat} {east : Bool} {c slots : Nat} (hz : Keeps s₀ s) : Keeps s₀ (lend loom east c slots s) := by
  unfold lend
  try dsimp only
  with_reducible repeat' first | exact hz | refine keeps_chargeV ?_ | refine keeps_modChk ?_ | refine keeps_modLoom ?_

theorem keeps_placeDispatch {die : Nat} {q : Queue} {e : List Byte} {loom : Nat} {east : Bool} (hz : Keeps s₀ s) : Keeps s₀
    (placeDispatch die q e loom east s) := by
  unfold placeDispatch
  try dsimp only
  with_reducible repeat' first
    | exact hz | assumption | refine keeps_forL ?_ ?_ | refine keeps_lend ?_ | refine keeps_reuseDrop ?_ | refine keeps_modLoom ?_
    | refine keeps_bump ?_ | refine keeps_consumeHead ?_ | intro _ | split | refine Keeps.of ?_ rfl rfl rfl rfl

theorem keeps_resumeOn {v : SavedLoom} {loom : Nat} {east : Bool} (hz : Keeps s₀ s) : Keeps s₀ (resumeOn v loom east s) := by
  unfold resumeOn
  try dsimp only
  with_reducible repeat' first
    | exact hz | assumption | refine keeps_forL ?_ ?_ | refine keeps_lend ?_ | refine keeps_reuseDrop ?_ | refine keeps_modLoom ?_
    | refine keeps_modCtx ?_ | intro _ | split | refine Keeps.of ?_ rfl rfl rfl rfl

theorem keeps_placeJob {die : Nat} {j : Job} {loom : Nat} {east : Bool} (hz : Keeps s₀ s) : Keeps s₀ (placeJob die j loom east s) := by
  unfold placeJob
  try dsimp only
  with_reducible repeat' first | exact hz | refine keeps_resumeOn ?_ | refine keeps_placeDispatch ?_ | split

theorem keeps_advanceV {die : Nat} (hz : Keeps s₀ s) : Keeps s₀ (advanceV die s) := by
  unfold advanceV
  try dsimp only
  with_reducible repeat' first
    | exact hz | assumption | refine keeps_forL ?_ ?_ | refine keeps_chargeV ?_ | refine keeps_modCtxDie ?_ | intro _
    | refine Keeps.of ?_ rfl rfl rfl rfl

theorem keeps_placeAll {fuel die : Nat} {looms : List Nat} (hz : Keeps s₀ s) : Keeps s₀ (placeAll fuel die looms s) := by
  induction fuel generalizing s with
  | zero => exact hz
  | succ f ih =>
    unfold placeAll
    split
    · exact hz
    · exact ih (keeps_placeJob hz)

theorem keeps_failRetired {die : Nat} (hz : Keeps s₀ s) : Keeps s₀ (failRetired die s) := by
  unfold failRetired
  try dsimp only
  with_reducible repeat' first
    | exact hz | assumption | refine keeps_forL ?_ ?_ | refine keeps_headFail ?_ | refine keeps_ite (fun _ => ?_) (fun _ => ?_) | intro _
    | split

theorem keeps_execSchedulerRound {die : Nat} {prefer : List Nat} (hz : Keeps s₀ s) (he : execSchedulerRound die prefer s = .next t) :
    Keeps s₀ t := by
  unfold execSchedulerRound at he; injection he with he; subst he; try dsimp only
  with_reducible repeat' first
    | exact hz | refine keeps_advanceV ?_ | refine keeps_bump ?_ | refine keeps_failRetired ?_ | refine keeps_placeAll ?_
    | refine keeps_ite (fun _ => ?_) (fun _ => ?_)

theorem keeps_requestPreempt {loom : Nat} {east : Bool} (hz : Keeps s₀ s) : Keeps s₀ (requestPreempt loom east s) := by
  unfold requestPreempt execRequestEast execRequestWest
  split
  · next h =>
    split at h
    · injection h with h; subst h
      exact keeps_ite (fun _ => hz) (fun _ => keeps_issueBatch (keeps_setField (keeps_modLoom hz)))
    · injection h with h; subst h
      exact keeps_issueBatch (keeps_setField (keeps_modLoom hz))
  · exact hz

theorem keeps_execSchQuantum {die : Nat} (hz : Keeps s₀ s) (he : execSchQuantum die s = .next t) : Keeps s₀ t := by
  unfold execSchQuantum at he; injection he with he; subst he; try dsimp only
  with_reducible repeat' first
    | exact hz | refine keeps_advanceV ?_ | refine keeps_bump ?_ | refine keeps_modLoom ?_ | refine keeps_requestPreempt ?_
    | refine keeps_ite (fun _ => ?_) (fun _ => ?_) | split | refine Keeps.of ?_ rfl rfl rfl rfl

theorem keeps_execHandleHold {c : Nat} (hz : Keeps s₀ s) (he : execHandleHold c s = .next t) : Keeps s₀ t := by
  unfold execHandleHold at he; injection he with he; subst he; try dsimp only
  with_reducible repeat' first
    | exact hz | assumption | refine keeps_forL ?_ ?_ | refine keeps_modCtx ?_ | refine keeps_bumpSat ?_ | refine keeps_logDry ?_
    | refine keeps_ite (fun _ => ?_) (fun _ => ?_) | intro _ | split

theorem keeps_execHandleHoldEnd {c : Nat} (hz : Keeps s₀ s) (he : execHandleHoldEnd c s = .next t) : Keeps s₀ t := by
  unfold execHandleHoldEnd at he; injection he with he; subst he; try dsimp only
  with_reducible repeat' first | exact hz | refine keeps_modCtx ?_

theorem keeps_execHandleWindowEnd {c : Nat} (hz : Keeps s₀ s) (he : execHandleWindowEnd c s = .next t) : Keeps s₀ t := by
  unfold execHandleWindowEnd at he; injection he with he; subst he; try dsimp only
  with_reducible repeat' first | exact hz | refine keeps_modCtx ?_

theorem keeps_modSil {g : Nat} {f : SilGroup → SilGroup} (hz : Keeps s₀ s) : Keeps s₀ (modSil g f s) := by
  unfold modSil
  try dsimp only
  with_reducible repeat' first | exact hz | refine Keeps.of ?_ rfl rfl rfl rfl

theorem keeps_digest {gs : Nat} {x : SilSeg} {sent : Bool} (hz : Keeps s₀ s) : Keeps s₀ (digest gs x sent s) := by
  unfold digest
  try dsimp only
  with_reducible repeat' first | exact hz | refine keeps_modSil ?_ | refine keeps_ite (fun _ => ?_) (fun _ => ?_) | split

theorem keeps_modSilRun {gs run : Nat} {f : SilRun → SilRun} (hz : Keeps s₀ s) : Keeps s₀ (modSilRun gs run f s) := by
  unfold modSilRun
  try dsimp only
  with_reducible repeat' first | exact hz | refine keeps_modSil ?_

theorem keeps_runAnswer {gs run owner status sub : Nat} (hz : Keeps s₀ s) : Keeps s₀ (runAnswer gs run owner status sub s) := by
  unfold runAnswer
  try dsimp only
  with_reducible repeat' first | exact hz | refine keeps_modSilRun ?_

theorem keeps_silError {die c status sub : Nat} (hz : Keeps s₀ s) : Keeps s₀ (silError die c status sub s) := by
  unfold silError
  try dsimp only
  with_reducible repeat' first
    | exact hz | refine keeps_recErr ?_ | refine keeps_killForPoison ?_ | refine keeps_countInvalid ?_
    | refine keeps_ite (fun _ => ?_) (fun _ => ?_)

theorem keeps_runEnd {gs : Nat} {r : SilRun} {status sub : Nat} {results : List Nat} (hz : Keeps s₀ s) : Keeps s₀ (runEnd gs r status sub
    results s) := by
  unfold runEnd
  try dsimp only
  with_reducible repeat' first
    | exact hz | refine keeps_modSil ?_ | refine keeps_silError ?_ | refine keeps_postCompletion ?_
    | refine keeps_ite (fun _ => ?_) (fun _ => ?_)

theorem keeps_recDropped {g : SilGroup} (hz : Keeps s₀ s) : Keeps s₀ (recDropped g s) := by
  unfold recDropped
  try dsimp only
  with_reducible repeat' first | exact hz | assumption | refine keeps_forL ?_ ?_ | refine keeps_recErr ?_ | intro _

theorem keeps_losePending {gs : Nat} (hz : Keeps s₀ s) : Keeps s₀ (losePending gs s) := by
  unfold losePending
  try dsimp only
  with_reducible repeat' first
    | exact hz | assumption | refine keeps_forL ?_ ?_ | refine keeps_draw ?_ | refine keeps_vWrite ?_ | intro _ | split

theorem keeps_commitsEnd {gs status sub : Nat} {results : List Nat} (hz : Keeps s₀ s) : Keeps s₀ (commitsEnd gs status sub results s) :=
    by
  unfold commitsEnd
  try dsimp only
  with_reducible repeat' first
    | exact hz | assumption | refine keeps_forL ?_ ?_ | refine keeps_losePending ?_ | refine keeps_runEnd ?_
    | refine keeps_ite (fun _ => ?_) (fun _ => ?_) | intro _

theorem keeps_applyRetract {die gs : Nat} (hz : Keeps s₀ s) : Keeps s₀ (applyRetract die gs s) := by
  unfold applyRetract
  try dsimp only
  with_reducible repeat' first
    | exact hz | refine keeps_bumpSat ?_ | refine keeps_modSil ?_ | refine keeps_recDropped ?_ | refine keeps_commitsEnd ?_ | split

theorem keeps_modFrom {gs i : Nat} {f : SilFrom → SilFrom} (hz : Keeps s₀ s) : Keeps s₀ (modFrom gs i f s) := by
  unfold modFrom
  try dsimp only
  with_reducible repeat' first | exact hz | refine keeps_modSil ?_

theorem keeps_silArrive {gs i : Nat} (hz : Keeps s₀ s) : Keeps s₀ (silArrive gs i s) := by
  unfold silArrive
  try dsimp only
  with_reducible repeat' first
    | exact hz | refine keeps_modFrom ?_ | refine keeps_modSil ?_ | refine keeps_ite (fun _ => ?_) (fun _ => ?_) | split

theorem keeps_takeContribution {die gs : Nat} {x : SilSeg} (hz : Keeps s₀ s) : Keeps s₀ (takeContribution die gs x s).2 := by
  unfold takeContribution
  try dsimp only
  with_reducible repeat' first
    | exact hz | refine keeps_silArrive ?_ | refine keeps_modFrom ?_ | refine keeps_bumpSat ?_ | refine keeps_recErr ?_
    | refine keeps_vWrite ?_ | split

theorem keeps_takeUpdate {die gs : Nat} {x : SilSeg} (hz : Keeps s₀ s) : Keeps s₀ (takeUpdate die gs x s).2 := by
  unfold takeUpdate
  try dsimp only
  with_reducible repeat' first | exact hz | refine keeps_vWrite ?_ | refine keeps_modSil ?_ | refine keeps_pair (by assumption) ?_ | split

theorem keeps_takeSegment {die gs : Nat} {x : SilSeg} (hz : Keeps s₀ s) : Keeps s₀ (takeSegment die gs x s).2 := by
  unfold takeSegment
  try dsimp only
  with_reducible repeat' first
    | exact hz | refine keeps_digest ?_ | refine keeps_takeContribution ?_ | refine keeps_modSil ?_ | refine keeps_takeUpdate ?_
    | refine keeps_applyRetract ?_ | split

theorem keeps_judgeSeg {die gs : Nat} {x : SilSeg} (hz : Keeps s₀ s) : Keeps s₀ (judgeSeg die gs x s).2 := by
  unfold judgeSeg
  try dsimp only
  with_reducible repeat' first
    | exact hz | refine keeps_takeSegment ?_ | refine keeps_logPage ?_ | refine keeps_setPend ?_ | refine keeps_bumpSat ?_
    | refine keeps_recErr ?_ | split

theorem keeps_silSendOut {die gs i : Nat} {x : SilSeg} {run : Option Nat} (hz : Keeps s₀ s) : Keeps s₀ (silSendOut die gs i x run s) :=
    by
  unfold silSendOut
  try dsimp only
  with_reducible repeat' first
    | exact hz | refine keeps_bump ?_ | refine keeps_digest ?_ | refine keeps_modSilRun ?_ | refine keeps_fabIssue ?_
    | refine keeps_fabFail ?_ | refine keeps_runAnswer ?_ | refine keeps_ite (fun _ => ?_) (fun _ => ?_) | split

theorem keeps_retractStep {die gs : Nat} {run : Option Nat} (hz : Keeps s₀ s) : Keeps s₀ (retractStep die gs run s) := by
  unfold retractStep
  try dsimp only
  with_reducible repeat' first
    | exact hz | assumption | refine keeps_forL ?_ ?_ | refine keeps_bumpSat ?_ | refine keeps_silSendOut ?_ | refine keeps_bump ?_
    | refine keeps_digest ?_ | refine keeps_applyRetract ?_ | intro _ | split

theorem keeps_retractFor {die gs status sub : Nat} (hz : Keeps s₀ s) : Keeps s₀ (retractFor die gs status sub s) := by
  unfold retractFor
  try dsimp only
  with_reducible repeat' first | exact hz | refine keeps_retractStep ?_ | refine keeps_recErr ?_ | split

theorem keeps_silSend {die gs i : Nat} {x : SilSeg} {run : Option Nat} (hz : Keeps s₀ s) : Keeps s₀ (silSend die gs i x run s) := by
  unfold silSend
  try dsimp only
  with_reducible repeat' first
    | exact hz | refine keeps_runAnswer ?_ | refine keeps_recErr ?_ | refine keeps_silSendOut ?_ | refine keeps_bump ?_
    | refine keeps_digest ?_ | refine keeps_judgeSeg ?_ | refine keeps_retractFor ?_ | refine keeps_ite (fun _ => ?_) (fun _ => ?_)
    | split

theorem keeps_countSent {gs o : Nat} (hz : Keeps s₀ s) : Keeps s₀ (countSent gs o s) := by
  unfold countSent
  try dsimp only
  with_reducible repeat' first | exact hz | refine keeps_modSil ?_

theorem keeps_silRunPump {fuel gs run : Nat} (hz : Keeps s₀ s) : Keeps s₀ (silRunPump fuel gs run s) := by
  induction fuel generalizing s with
  | zero => exact hz
  | succ f ih =>
    unfold silRunPump
    try dsimp only
    split
    · exact hz
    · split
      · exact hz
      · split
        · exact hz
        · exact ih (keeps_silSend (keeps_countSent (keeps_modSilRun hz)))

theorem keeps_silPump {gs : Nat} (hz : Keeps s₀ s) : Keeps s₀ (silPump gs s) := by
  unfold silPump
  try dsimp only
  with_reducible repeat' first | exact hz | assumption | refine keeps_forL ?_ ?_ | refine keeps_silRunPump ?_ | intro _ | split

theorem keeps_ackSegment {gs : Nat} {p : Packet} (hz : Keeps s₀ s) : Keeps s₀ (ackSegment gs p s) := by
  unfold ackSegment
  try dsimp only
  with_reducible repeat' first | exact hz | refine keeps_sendResponse ?_

theorem keeps_silAnswer {gs : Nat} {p : Packet} {status sub : Nat} (hz : Keeps s₀ s) : Keeps s₀ (silAnswer gs p status sub s) := by
  unfold silAnswer
  try dsimp only
  with_reducible repeat' first
    | exact hz | refine keeps_ackSegment ?_ | refine keeps_nackPkt ?_ | refine keeps_ite (fun _ => ?_) (fun _ => ?_)

theorem keeps_returnCredit {gs : Nat} (hz : Keeps s₀ s) : Keeps s₀ (returnCredit gs s) := by
  unfold returnCredit
  try dsimp only
  with_reducible repeat' first | exact hz | assumption | refine keeps_forL ?_ ?_ | refine keeps_sendResponse ?_ | intro _ | split

theorem keeps_takeCredit {p : Packet} (hz : Keeps s₀ s) : Keeps s₀ (takeCredit p s).2 := by
  unfold takeCredit
  try dsimp only
  with_reducible repeat' first | exact hz | refine keeps_modSil ?_ | split

theorem keeps_rejudgeHeld {gs : Nat} (hz : Keeps s₀ s) : Keeps s₀ (rejudgeHeld gs s) := by
  unfold rejudgeHeld
  try dsimp only
  with_reducible repeat' first
    | exact hz | assumption | refine keeps_forL ?_ ?_ | refine keeps_modSil ?_ | refine keeps_judgeSeg ?_ | refine keeps_silAnswer ?_
    | refine keeps_retractFor ?_ | intro _ | split

theorem keeps_updateEnded {gs : Nat} {r : SilRun} (hz : Keeps s₀ s) : Keeps s₀ (updateEnded gs r s) := by
  unfold updateEnded
  try dsimp only
  with_reducible repeat' first
    | exact hz | refine keeps_retractStep ?_ | refine keeps_modSil ?_ | refine keeps_ite (fun _ => ?_) (fun _ => ?_) | split

theorem keeps_silFinish {gs : Nat} (hz : Keeps s₀ s) : Keeps s₀ (silFinish gs s) := by
  unfold silFinish
  try dsimp only
  with_reducible repeat' first
    | exact hz | assumption | refine keeps_forL ?_ ?_ | refine keeps_runEnd ?_ | refine keeps_updateEnded ?_
    | refine keeps_ite (fun _ => ?_) (fun _ => ?_) | intro _

theorem keeps_silSettle {gs : Nat} (hz : Keeps s₀ s) : Keeps s₀ (silSettle gs s) := by
  unfold silSettle
  try dsimp only
  with_reducible repeat' first | exact hz | refine keeps_silFinish ?_ | refine keeps_silPump ?_

theorem keeps_silAnswered {gs i tag status sub : Nat} (hz : Keeps s₀ s) : Keeps s₀ (silAnswered gs i tag status sub s) :=
    by
  unfold silAnswered
  try dsimp only
  with_reducible repeat' first
    | exact hz | refine keeps_modSil ?_ | refine keeps_silSettle ?_ | refine keeps_runAnswer ?_ | refine keeps_modSilRun ?_ | split

theorem keeps_silDone {j : SilJob} {status sub : Nat} {results : List Nat} (hz : Keeps s₀ s) : Keeps s₀ (silDone j status sub results s)
    := by
  unfold silDone
  try dsimp only
  with_reducible repeat' first
    | exact hz | refine keeps_silError ?_ | refine keeps_postCompletion ?_ | refine keeps_ite (fun _ => ?_) (fun _ => ?_)

theorem keeps_silStart {die slot : Nat} {mine : Nat → Bool} {body : SilJob → SilGroup → State → State} (hbody : ∀ x0 x1 x2, Keeps s₀ x2 →
    Keeps s₀ (body x0 x1 x2)) (hz : Keeps s₀ s) : Keeps s₀ (silStart die slot mine body s) := by
  unfold silStart
  try dsimp only
  with_reducible repeat' first
    | exact hz | refine keeps_vRead ?_ | refine keeps_consumeHead ?_ | refine keeps_silDone ?_ | (apply hbody)
    | refine keeps_ite (fun _ => ?_) (fun _ => ?_) | split

theorem keeps_silRunBegin {j : SilJob} {g : SilGroup} {slice bytes : Nat} {waits : List SilWait} (hz : Keeps s₀ s) : Keeps s₀
    (silRunBegin j g slice bytes waits s) := by
  unfold silRunBegin
  try dsimp only
  with_reducible repeat' first | exact hz | refine keeps_modSil ?_

theorem keeps_execContrib {die slot : Nat} (hz : Keeps s₀ s) (he : execContrib die slot s = .next t) : Keeps s₀ t := by
  unfold execContrib at he; injection he with he; subst he; try dsimp only
  with_reducible repeat' first
    | exact hz | assumption | refine keeps_silStart ?_ ?_ | refine keeps_opRead ?_ | refine keeps_silDone ?_ | refine keeps_silSettle ?_
    | refine keeps_silRunBegin ?_ | refine keeps_pair (by assumption) ?_ | refine keeps_ite (fun _ => ?_) (fun _ => ?_) | intro _ | split

theorem keeps_execClose {die slot : Nat} (hz : Keeps s₀ s) (he : execClose die slot s = .next t) : Keeps s₀ t := by
  unfold execClose at he; injection he with he; subst he; try dsimp only
  with_reducible repeat' first
    | exact hz | assumption | refine keeps_forL ?_ ?_ | refine keeps_silStart ?_ ?_ | refine keeps_silRunBegin ?_
    | refine keeps_silSettle ?_ | refine keeps_silSend ?_ | intro _

theorem keeps_execOpen {die slot : Nat} (hz : Keeps s₀ s) (he : execOpen die slot s = .next t) : Keeps s₀ t := by
  unfold execOpen at he; injection he with he; subst he; try dsimp only
  with_reducible repeat' first
    | exact hz | assumption | refine keeps_silStart ?_ ?_ | refine keeps_silDone ?_ | refine keeps_modSil ?_
    | refine keeps_ite (fun _ => ?_) (fun _ => ?_) | intro _

theorem keeps_execAwait {die slot : Nat} (hz : Keeps s₀ s) (he : execAwait die slot s = .next t) : Keeps s₀ t := by
  unfold execAwait at he; injection he with he; subst he; try dsimp only
  with_reducible repeat' first
    | exact hz | assumption | refine keeps_silStart ?_ ?_ | refine keeps_silDone ?_ | refine keeps_silRunBegin ?_
    | refine keeps_ite (fun _ => ?_) (fun _ => ?_) | intro _

theorem keeps_updateRefused {j : SilJob} {status sub : Nat} (hz : Keeps s₀ s) : Keeps s₀ (updateRefused j status sub s) := by
  unfold updateRefused
  try dsimp only
  with_reducible repeat' first
    | exact hz | refine keeps_silDone ?_ | refine keeps_silSettle ?_ | refine keeps_retractStep ?_ | refine keeps_modSil ?_
    | refine keeps_ite (fun _ => ?_) (fun _ => ?_)

theorem keeps_execUpdate {die slot : Nat} (hz : Keeps s₀ s) (he : execUpdate die slot s = .next t) : Keeps s₀ t := by
  unfold execUpdate at he; injection he with he; subst he; try dsimp only
  with_reducible repeat' first
    | exact hz | assumption | refine keeps_forL ?_ ?_ | refine keeps_silStart ?_ ?_ | refine keeps_silDone ?_
    | refine keeps_updateRefused ?_ | refine keeps_opRead ?_ | refine keeps_silRunBegin ?_ | refine keeps_silSettle ?_
    | refine keeps_silSend ?_ | refine keeps_pair (by assumption) ?_ | refine keeps_ite (fun _ => ?_) (fun _ => ?_) | intro _ | split

theorem keeps_execRetract {die slot : Nat} (hz : Keeps s₀ s) (he : execRetract die slot s = .next t) : Keeps s₀ t := by
  unfold execRetract at he; injection he with he; subst he; try dsimp only
  with_reducible repeat' first
    | exact hz | assumption | refine keeps_silStart ?_ ?_ | refine keeps_silDone ?_ | refine keeps_silSettle ?_
    | refine keeps_retractStep ?_ | refine keeps_silRunBegin ?_ | refine keeps_ite (fun _ => ?_) (fun _ => ?_) | intro _

theorem keeps_execDigest {die slot : Nat} (hz : Keeps s₀ s) (he : execDigest die slot s = .next t) : Keeps s₀ t := by
  unfold execDigest at he; injection he with he; subst he; try dsimp only
  with_reducible repeat' first
    | exact hz | assumption | refine keeps_silStart ?_ ?_ | refine keeps_silDone ?_ | refine keeps_vWrite ?_
    | refine keeps_pair (by assumption) ?_ | intro _ | split

theorem keeps_execSilDeadline {gs : Nat} (hz : Keeps s₀ s) (he : execSilDeadline gs s = .next t) : Keeps s₀ t := by
  unfold execSilDeadline at he; injection he with he; subst he; try dsimp only
  with_reducible repeat' first
    | exact hz | assumption | refine keeps_forL ?_ ?_ | refine keeps_modFrom ?_ | refine keeps_modSil ?_ | refine keeps_silSettle ?_
    | refine keeps_retractFor ?_ | refine keeps_ite (fun _ => ?_) (fun _ => ?_) | intro _ | split

theorem keeps_execSilStallLimit {gs : Nat} {entry : Bool} (hz : Keeps s₀ s) (he : execSilStallLimit gs entry s = .next t) : Keeps s₀ t :=
    by
  unfold execSilStallLimit at he; injection he with he; subst he; try dsimp only
  with_reducible repeat' first
    | exact hz | refine keeps_runEnd ?_ | refine keeps_silSettle ?_ | refine keeps_retractFor ?_
    | refine keeps_ite (fun _ => ?_) (fun _ => ?_) | split

theorem keeps_normSend {die gs : Nat} (hz : Keeps s₀ s) : Keeps s₀ (normSend die gs s) := by
  unfold normSend
  try dsimp only
  with_reducible repeat' first
    | exact hz | assumption | refine keeps_forL ?_ ?_ | refine keeps_modSil ?_ | refine keeps_silSend ?_
    | refine keeps_ite (fun _ => ?_) (fun _ => ?_) | intro _ | split

theorem keeps_execWindowReduce {gs w : Nat} (hz : Keeps s₀ s) (he : execWindowReduce gs w s = .next t) : Keeps s₀ t := by
  unfold execWindowReduce at he; injection he with he; subst he; try dsimp only
  with_reducible repeat' first
    | exact hz | assumption | refine keeps_forL ?_ ?_ | refine keeps_forN ?_ ?_ | refine keeps_modSil ?_ | refine keeps_recErr ?_
    | refine keeps_vWrite ?_ | refine keeps_bump ?_ | refine keeps_setPend ?_ | refine keeps_bumpSat ?_ | refine keeps_silSettle ?_
    | refine keeps_normSend ?_ | refine keeps_returnCredit ?_ | refine keeps_ite (fun _ => ?_) (fun _ => ?_) | intro _ | split

theorem keeps_execClipFactor {gs i : Nat} (hz : Keeps s₀ s) (he : execClipFactor gs i s = .next t) : Keeps s₀ t := by
  unfold execClipFactor at he; injection he with he; subst he; try dsimp only
  with_reducible repeat' first
    | exact hz | refine keeps_modSil ?_ | refine keeps_recErr ?_ | refine keeps_vRead ?_ | refine keeps_vWrite ?_
    | refine keeps_pair (by assumption) ?_ | refine keeps_ite (fun _ => ?_) (fun _ => ?_) | split

theorem keeps_execAwaitComplete {gs i : Nat} (hz : Keeps s₀ s) (he : execAwaitComplete gs i s = .next t) : Keeps s₀ t := by
  unfold execAwaitComplete at he; injection he with he; subst he; try dsimp only
  with_reducible repeat' first | exact hz | refine keeps_runEnd ?_ | refine keeps_ite (fun _ => ?_) (fun _ => ?_) | split

theorem keeps_execReadySend {gs : Nat} (hz : Keeps s₀ s) (he : execReadySend gs s = .next t) : Keeps s₀ t := by
  unfold execReadySend at he; injection he with he; subst he; try dsimp only
  with_reducible repeat' first
    | exact hz | assumption | refine keeps_forL ?_ ?_ | refine keeps_modSil ?_ | refine keeps_silSettle ?_ | refine keeps_silSend ?_
    | refine keeps_ite (fun _ => ?_) (fun _ => ?_) | intro _ | split

theorem keeps_withStream {e : Env} {body : Word → RngStream → State → State} (hbody : ∀ x0 x1 x2, Keeps s₀ x2 → Keeps s₀ (body x0 x1 x2))
    (hz : Keeps s₀ s) : Keeps s₀ (withStream e body s) := by
  unfold withStream
  try dsimp only
  with_reducible repeat' first
    | exact hz | refine keeps_presentHandle ?_ | refine keeps_insFault ?_ | (apply hbody) | refine keeps_ite (fun _ => ?_) (fun _ => ?_)
    | split

theorem keeps_execRngDraw {w : Who} (hz : Keeps s₀ s) (he : execRngDraw w s = .next t) : Keeps s₀ t := by
  unfold execRngDraw at he; injection he with he; subst he; try dsimp only
  with_reducible repeat' first
    | exact hz | assumption | refine keeps_issueRow ?_ ?_ | refine keeps_uniStart ?_ | refine keeps_withStream ?_ ?_
    | refine keeps_insFault ?_ | refine keeps_startLcv ?_ | refine keeps_finish ?_ | refine keeps_ite (fun _ => ?_) (fun _ => ?_)
    | intro _ | split

theorem keeps_execRngAdv {w : Who} (hz : Keeps s₀ s) (he : execRngAdv w s = .next t) : Keeps s₀ t := by
  unfold execRngAdv at he; injection he with he; subst he; try dsimp only
  with_reducible repeat' first
    | exact hz | assumption | refine keeps_issueRow ?_ ?_ | refine keeps_withStream ?_ ?_ | refine keeps_insFault ?_
    | refine keeps_finish ?_ | refine keeps_startLcv ?_ | refine keeps_ite (fun _ => ?_) (fun _ => ?_) | intro _
    | refine Keeps.of ?_ rfl rfl rfl rfl

theorem keeps_execRngBase {w : Who} (hz : Keeps s₀ s) (he : execRngBase w s = .next t) : Keeps s₀ t := by
  unfold execRngBase at he; injection he with he; subst he; try dsimp only
  with_reducible repeat' first
    | exact hz | assumption | refine keeps_issueRow ?_ ?_ | refine keeps_withStream ?_ ?_ | refine keeps_uniStart ?_ | intro _

theorem keeps_modStore {g : SilGroup} {f : RecStore → RecStore} (hz : Keeps s₀ s) : Keeps s₀ (modStore g f s) := by
  unfold modStore
  try dsimp only
  with_reducible repeat' first | exact hz | refine Keeps.of ?_ rfl rfl rfl rfl

theorem keeps_growSlot {g : SilGroup} {slot bytes : Nat} (hz : Keeps s₀ s) (he : (growSlot g slot bytes s) = some t) : Keeps s₀ t := by
  unfold growSlot at he
  try dsimp only at he
  repeat' split at he
  all_goals first | (cases he; done) | (injection he with he; first | (injections; subst_vars) | subst he) | skip
  all_goals try dsimp only
  with_reducible repeat' first
    | exact hz | assumption | refine keeps_forL ?_ ?_ | refine keeps_modStore ?_ | refine keeps_makeChecked ?_
    | refine keeps_scrubRange ?_ | refine keeps_mapLeaves ?_ (by assumption) | intro _

theorem keeps_ensureStore {g : SilGroup} {bytes : Nat} (hz : Keeps s₀ s) (he : (ensureStore g bytes s) = some t) : Keeps s₀ t := by
  unfold ensureStore at he
  dsimp only at he
  rw [Option.bind_eq_some_iff] at he
  obtain ⟨u, hu, hv⟩ := he
  refine keeps_growSlot (keeps_growSlot (keeps_ite (fun _ => hz) (fun _ => ?_)) hu) hv
  exact Keeps.of hz rfl rfl rfl rfl

theorem keeps_remapStore {g : SilGroup} {w : Bool} (hz : Keeps s₀ s) : Keeps s₀ (remapStore g w s) := by
  unfold remapStore
  try dsimp only
  with_reducible repeat' first | exact hz | assumption | refine keeps_forL ?_ ?_ | refine keeps_setLeafPerm ?_ | intro _ | split

theorem keeps_loseStore {g : SilGroup} (hz : Keeps s₀ s) : Keeps s₀ (loseStore g s) := by
  unfold loseStore
  try dsimp only
  with_reducible repeat' first
    | exact hz | assumption | refine keeps_forL ?_ ?_ | refine keeps_unmapLeaf ?_ | refine keeps_modStore ?_ | intro _ | split

theorem keeps_slotWrite {frames : List Nat} {off : Nat} {l : List (Byte × Bool)} (hz : Keeps s₀ s) : Keeps s₀ (slotWrite frames off l s)
    := by
  unfold slotWrite
  try dsimp only
  with_reducible repeat' first | exact hz | assumption | refine keeps_foldl_snd ?_ ?_ | refine keeps_engWrite ?_ | intro _

theorem keeps_cadStatus {i : Nat} {v : Bool} (hz : Keeps s₀ s) : Keeps s₀ (cadStatus i v s) := by
  unfold cadStatus
  try dsimp only
  with_reducible repeat' first | exact hz | refine keeps_setField ?_

theorem keeps_cadRetime (hz : Keeps s₀ s) : Keeps s₀ (cadRetime s) := by
  unfold cadRetime
  try dsimp only
  with_reducible repeat' first | exact hz | refine keeps_armCadence ?_ | refine keeps_setReg ?_

theorem keeps_cadEvent (hz : Keeps s₀ s) : Keeps s₀ (cadEvent s) := by
  unfold cadEvent
  try dsimp only
  with_reducible repeat' first
    | exact hz | refine keeps_cadRetime ?_ | refine keeps_bumpSat ?_ | refine keeps_setReg ?_
    | refine keeps_ite (fun _ => ?_) (fun _ => ?_) | split | refine Keeps.of ?_ rfl rfl rfl rfl

theorem keeps_secureNotice {g : SilGroup} {event status slot step lag : Nat} (hz : Keeps s₀ s) : Keeps s₀ (secureNotice g event status
    slot step lag s) := by
  unfold secureNotice
  try dsimp only
  with_reducible repeat' first | exact hz | refine keeps_postEntry ?_

theorem keeps_secureFailed {g : SilGroup} {status slot step : Nat} (hz : Keeps s₀ s) : Keeps s₀ (secureFailed g status slot step s) := by
  unfold secureFailed
  try dsimp only
  with_reducible repeat' first | exact hz | refine keeps_secureNotice ?_ | refine keeps_setPend ?_ | refine keeps_bumpSat ?_

theorem keeps_copySources {g : SilGroup} {frames : List Nat} {l : List (Nat × Nat × Nat)} (hz : Keeps s₀ s) : Keeps s₀ (copySources g
    frames l s).2 := by
  induction l generalizing s with
  | nil => exact hz
  | cons x r ih =>
    obtain ⟨off, va, n⟩ := x
    unfold copySources
    try dsimp only
    split
    · exact keeps_pair (by assumption) (keeps_vRead hz)
    · exact ih (keeps_slotWrite (keeps_pair (by assumption) (keeps_vRead hz)))

theorem keeps_startCapture {gs : Nat} (hz : Keeps s₀ s) : Keeps s₀ (startCapture gs s) := by
  unfold startCapture
  try dsimp only
  with_reducible repeat' first
    | exact hz | refine keeps_slotWrite ?_ | refine keeps_ensureStore ?_ (by assumption) | refine keeps_secureFailed ?_
    | refine keeps_copySources ?_ | refine keeps_cadStatus ?_ | refine keeps_modSil ?_ | refine keeps_pair (by assumption) ?_
    | refine keeps_ite (fun _ => ?_) (fun _ => ?_) | split

theorem keeps_settleSources {g : SilGroup} {frames : List Nat} {draw : Nat} {l : List (Nat × Nat × Nat)} (hz : Keeps s₀ s) : Keeps s₀
    (settleSources g frames draw l s) := by
  unfold settleSources
  try dsimp only
  with_reducible repeat' first
    | exact hz | assumption | refine keeps_forL ?_ ?_ | refine keeps_vRead ?_ | refine keeps_slotWrite ?_
    | refine keeps_pair (by assumption) ?_ | intro _ | split

theorem keeps_cadSealed {took : Nat} (hz : Keeps s₀ s) : Keeps s₀ (cadSealed took s) := by
  unfold cadSealed
  try dsimp only
  with_reducible repeat' first
    | exact hz | refine keeps_bumpSat ?_ | refine keeps_setReg ?_ | refine keeps_cadStatus ?_ | refine keeps_cadRetime ?_
    | refine keeps_ite (fun _ => ?_) (fun _ => ?_) | refine Keeps.of ?_ rfl rfl rfl rfl

theorem keeps_sealRecord {gs : Nat} (hz : Keeps s₀ s) : Keeps s₀ (sealRecord gs s) := by
  unfold sealRecord
  try dsimp only
  with_reducible repeat' first
    | exact hz | assumption | refine keeps_forL ?_ ?_ | refine keeps_settleSources ?_ | refine keeps_slotWrite ?_ | refine keeps_modSil ?_
    | refine keeps_secureNotice ?_ | refine keeps_cadSealed ?_ | intro _ | split | refine Keeps.of_draw ?_ rfl rfl rfl rfl

theorem keeps_execSecureSeal {gs : Nat} (hz : Keeps s₀ s) (he : execSecureSeal gs s = .next t) : Keeps s₀ t := by
  unfold execSecureSeal at he; injection he with he; subst he; try dsimp only
  with_reducible repeat' first | exact hz | refine keeps_sealRecord ?_

theorem keeps_execSecureNow (hz : Keeps s₀ s) (he : execSecureNow s = .next t) : Keeps s₀ t := by
  unfold execSecureNow at he; injection he with he; subst he; try dsimp only
  with_reducible repeat' first
    | exact hz | refine keeps_setPend ?_ | refine keeps_cadStatus ?_ | refine keeps_ite (fun _ => ?_) (fun _ => ?_)

theorem keeps_execCadEventIn (hz : Keeps s₀ s) (he : execCadEventIn s = .next t) : Keeps s₀ t := by
  unfold execCadEventIn at he; injection he with he; subst he; try dsimp only
  with_reducible repeat' first | exact hz | refine keeps_cadEvent ?_

theorem keeps_execClaimWindowExpiry {i : Nat} (hz : Keeps s₀ s) (he : execClaimWindowExpiry i s = .next t) : Keeps s₀ t := by
  unfold execClaimWindowExpiry at he; injection he with he; subst he; try dsimp only
  with_reducible repeat' first
    | exact hz | assumption | refine keeps_forL ?_ ?_ | refine keeps_scrubRange ?_ | refine keeps_ite (fun _ => ?_) (fun _ => ?_)
    | intro _ | split | refine Keeps.of ?_ rfl rfl rfl rfl

theorem keeps_verifyRecord {die c : Nat} {fs : List Nat} {bytes : Nat} (hz : Keeps s₀ s) : Keeps s₀ (verifyRecord die c fs bytes s).2 :=
    by
  unfold verifyRecord
  try dsimp only
  with_reducible repeat' first | exact hz | refine keeps_verifyAll ?_

theorem keeps_restoreBytes {g : SilGroup} {fs : List Nat} {off va n : Nat} (hz : Keeps s₀ s) : Keeps s₀ (restoreBytes g fs off va n s).2
    := by
  unfold restoreBytes
  try dsimp only
  with_reducible repeat' first | exact hz | refine keeps_vWrite ?_ | refine keeps_pair (by assumption) ?_ | split

theorem keeps_restoreAll {g : SilGroup} {fs : List Nat} {l : List (Nat × Nat × Nat)} (hz : Keeps s₀ s) : Keeps s₀ (restoreAll g fs l s).2
    := by
  induction l generalizing s with
  | nil => exact hz
  | cons x r ih =>
    obtain ⟨off, va, n⟩ := x
    unfold restoreAll
    try dsimp only
    split
    · exact keeps_pair (by assumption) (keeps_restoreBytes hz)
    · exact ih (keeps_pair (by assumption) (keeps_restoreBytes hz))

theorem keeps_beginStep {gs : Nat} (hz : Keeps s₀ s) : Keeps s₀ (beginStep gs s) := by
  unfold beginStep
  refine keeps_modSil ?_
  cases silAt s gs with
  | none => exact hz
  | some g => exact keeps_recDropped hz

theorem keeps_restoreGroup {gs : Nat} {params : Bool} (hz : Keeps s₀ s) : Keeps s₀ (restoreGroup gs params s).2.2.2 := by
  unfold restoreGroup
  try dsimp only
  with_reducible repeat' first
    | exact hz | assumption | refine keeps_forL ?_ ?_ | refine keeps_verifyRecord ?_ | refine keeps_restoreAll ?_
    | refine keeps_setPend ?_ | refine keeps_bumpSat ?_ | refine keeps_logPage ?_ | refine keeps_modCtx ?_ | refine keeps_remapStore ?_
    | refine keeps_beginStep ?_ | refine keeps_modSil ?_ | refine keeps_pair (by assumption) ?_
    | refine keeps_ite (fun _ => ?_) (fun _ => ?_) | intro _ | split | refine Keeps.of ?_ rfl rfl rfl rfl

theorem keeps_restoreOrFill {gs : Nat} (hz : Keeps s₀ s) : Keeps s₀ (restoreOrFill gs s).2.2 := by
  unfold restoreOrFill
  try dsimp only
  with_reducible repeat' first | exact hz | refine keeps_restoreGroup ?_ | refine keeps_modSil ?_ | refine keeps_secureNotice ?_ | split

theorem keeps_fillChanged (hz : Keeps s₀ s) : Keeps s₀ (fillChanged s) := by
  unfold fillChanged
  try dsimp only
  with_reducible repeat' first | exact hz | assumption | refine keeps_forL ?_ ?_ | refine keeps_setPend ?_ | intro _

theorem keeps_commitStep {gs : Nat} (hz : Keeps s₀ s) : Keeps s₀ (commitStep gs s) := by
  unfold commitStep
  try dsimp only
  with_reducible repeat' first
    | exact hz | refine keeps_modSil ?_ | refine keeps_modCtx ?_ | refine keeps_bump ?_ | refine keeps_fillChanged ?_
    | refine keeps_commitsEnd ?_ | refine keeps_beginStep ?_ | refine keeps_startCapture ?_ | refine keeps_silSettle ?_
    | refine keeps_rejudgeHeld ?_ | refine keeps_ite (fun _ => ?_) (fun _ => ?_) | split | refine Keeps.of ?_ rfl rfl rfl rfl

theorem keeps_execCommit {die slot : Nat} (hz : Keeps s₀ s) (he : execCommit die slot s = .next t) : Keeps s₀ t := by
  unfold execCommit at he; injection he with he; subst he; try dsimp only
  with_reducible repeat' first
    | exact hz | assumption | refine keeps_silStart ?_ ?_ | refine keeps_modSil ?_ | refine keeps_restoreOrFill ?_
    | refine keeps_silDone ?_ | refine keeps_bump ?_ | refine keeps_recErr ?_ | refine keeps_postCompletion ?_
    | refine keeps_losePending ?_ | refine keeps_silRunBegin ?_ | refine keeps_ite (fun _ => ?_) (fun _ => ?_) | intro _

theorem keeps_execCommitComplete {gs : Nat} (hz : Keeps s₀ s) (he : execCommitComplete gs s = .next t) : Keeps s₀ t := by
  unfold execCommitComplete at he; injection he with he; subst he; try dsimp only
  with_reducible repeat' first | exact hz | refine keeps_commitStep ?_ | refine keeps_ite (fun _ => ?_) (fun _ => ?_) | split

theorem keeps_execCommitTimeout {gs : Nat} (hz : Keeps s₀ s) (he : execCommitTimeout gs s = .next t) : Keeps s₀ t := by
  unfold execCommitTimeout at he; injection he with he; subst he; try dsimp only
  with_reducible repeat' first | exact hz | refine keeps_commitsEnd ?_ | refine keeps_ite (fun _ => ?_) (fun _ => ?_) | split

theorem keeps_takeRollback {gs step : Nat} (hz : Keeps s₀ s) : Keeps s₀ (takeRollback gs step s) := by
  unfold takeRollback
  split
  · exact hz
  · extract_lets s1
    have h1 : Keeps s₀ s1 := by
      dsimp only [s1]
      split
      · exact keeps_ite (fun _ => keeps_sealRecord hz) (fun _ => hz)
      · exact hz
    clear_value s1
    split
    · exact h1
    · dsimp only
      refine keeps_ite (fun _ => h1) (fun _ => ?_)
      refine keeps_secureNotice (keeps_remapStore (keeps_getD ?_ fun u hu => keeps_ensureStore ?_ hu)) <;>
        exact keeps_beginStep (keeps_modSil (keeps_commitsEnd h1))

theorem keeps_domainRollback {gs : Nat} (hz : Keeps s₀ s) : Keeps s₀ (domainRollback gs s) := by
  unfold domainRollback
  try dsimp only
  with_reducible repeat' first
    | exact hz | assumption | refine keeps_forL ?_ ?_ | refine keeps_silSendOut ?_ | refine keeps_takeRollback ?_ | intro _ | split

theorem keeps_memberFailed {gs k : Nat} (hz : Keeps s₀ s) : Keeps s₀ (memberFailed gs k s) := by
  unfold memberFailed
  try dsimp only
  with_reducible repeat' first
    | exact hz | refine keeps_domainRollback ?_ | refine keeps_fillChanged ?_ | refine keeps_modSil ?_ | refine keeps_secureNotice ?_
    | refine keeps_recErr ?_ | refine keeps_ite (fun _ => ?_) (fun _ => ?_) | split

theorem keeps_execMemberSilent {gs member : Nat} (hz : Keeps s₀ s) (he : execMemberSilent gs member s = .next t) : Keeps s₀ t := by
  unfold execMemberSilent at he; injection he with he; subst he; try dsimp only
  with_reducible repeat' first | exact hz | refine keeps_memberFailed ?_ | refine keeps_ite (fun _ => ?_) (fun _ => ?_) | split

theorem keeps_sendFill {gs i : Nat} (hz : Keeps s₀ s) : Keeps s₀ (sendFill gs i s) := by
  unfold sendFill
  split
  · exact hz
  · refine keeps_forL (fun x u hu => ?_) hz
    split
    split
    · next h => exact keeps_recErr (keeps_pair h (keeps_opRead hu))
    · next h =>
      have h1 := keeps_pair h (keeps_opRead hu)
      exact keeps_ite (fun _ => keeps_recErr h1) (fun _ => keeps_silSendOut h1)

theorem keeps_takeJoin {gs i : Nat} {endpoint : Word} {epoch : Nat} (hz : Keeps s₀ s) : Keeps s₀ (takeJoin gs i endpoint epoch s) := by
  unfold takeJoin
  try dsimp only
  with_reducible repeat' first
    | exact hz | refine keeps_cadEvent ?_ | refine keeps_domainRollback ?_ | refine keeps_memberFailed ?_ | refine keeps_modSil ?_ | refine keeps_sendFill ?_
    | refine keeps_ite (fun _ => ?_) (fun _ => ?_) | split

theorem keeps_joinAcked {gs member step : Nat} (hz : Keeps s₀ s) : Keeps s₀ (joinAcked gs member step s) := by
  unfold joinAcked
  try dsimp only
  with_reducible repeat' first | exact hz | refine keeps_fillChanged ?_ | refine keeps_modCtx ?_ | refine keeps_modSil ?_ | split

theorem keeps_takeFill {gs slice off : Nat} {data : List Byte} (hz : Keeps s₀ s) : Keeps s₀ (takeFill gs slice off data s).2.2 := by
  unfold takeFill
  try dsimp only
  with_reducible repeat' first
    | exact hz | refine keeps_vWrite ?_ | refine keeps_recErr ?_ | refine keeps_modSil ?_ | refine keeps_fillChanged ?_
    | refine keeps_pair (by assumption) ?_ | refine keeps_ite (fun _ => ?_) (fun _ => ?_) | split

theorem keeps_modSvc {port : Nat} {f : SvcPort → SvcPort} (hz : Keeps s₀ s) : Keeps s₀ (modSvc port f s) := by
  unfold modSvc
  try dsimp only
  with_reducible repeat' first | exact hz | refine Keeps.of ?_ rfl rfl rfl rfl

theorem keeps_setSvcState {port v : Nat} (hz : Keeps s₀ s) : Keeps s₀ (setSvcState port v s) := by
  unfold setSvcState
  try dsimp only
  with_reducible repeat' first
    | exact hz | refine keeps_setPend ?_ | refine keeps_setField ?_ | refine keeps_ite (fun _ => ?_) (fun _ => ?_)

theorem keeps_countRx {port n : Nat} (hz : Keeps s₀ s) : Keeps s₀ (countRx port n s) := by
  unfold countRx
  try dsimp only
  with_reducible repeat' first | exact hz | refine keeps_bump ?_

theorem keeps_countTx {port n : Nat} (hz : Keeps s₀ s) : Keeps s₀ (countTx port n s) := by
  unfold countTx
  try dsimp only
  with_reducible repeat' first | exact hz | refine keeps_bump ?_

theorem keeps_countDrop {port n : Nat} (hz : Keeps s₀ s) : Keeps s₀ (countDrop port n s) := by
  unfold countDrop
  try dsimp only
  with_reducible repeat' first | exact hz | refine keeps_bump ?_ | refine keeps_ite (fun _ => ?_) (fun _ => ?_)

theorem keeps_modCache {port : Nat} {f : ZjpCache → ZjpCache} (hz : Keeps s₀ s) : Keeps s₀ (modCache port f s) := by
  unfold modCache
  try dsimp only
  with_reducible repeat' first | exact hz | refine Keeps.of ?_ rfl rfl rfl rfl

theorem keeps_onFrame {port : Nat} {f : Frame} {k : State → State} (hk : ∀ x0, Keeps s₀ x0 → Keeps s₀ (k x0)) (hz : Keeps s₀ s) : Keeps
    s₀ (onFrame port f k s) := by
  unfold onFrame
  try dsimp only
  with_reducible repeat' first
    | exact hz | refine keeps_countRx ?_ | refine keeps_countDrop ?_ | (apply hk) | refine keeps_ite (fun _ => ?_) (fun _ => ?_)

theorem keeps_zjpError {port : Nat} {ctx : Word} {status sub : Nat} (hz : Keeps s₀ s) : Keeps s₀ (zjpError port ctx status sub s) := by
  unfold zjpError
  try dsimp only
  with_reducible repeat' first
    | exact hz | refine keeps_recErr ?_ | refine keeps_setPend ?_ | refine keeps_bumpSat ?_ | refine keeps_ite (fun _ => ?_) (fun _ => ?_)

theorem keeps_zjpSend {port : Nat} {r : ZjpResp} (hz : Keeps s₀ s) : Keeps s₀ (zjpSend port r s) := by
  unfold zjpSend
  try dsimp only
  with_reducible repeat' first | exact hz | refine keeps_emit ?_ | refine keeps_countTx ?_

end Sys2Proof.Machine
end

