-- ==== Sys2Proof/Laws/Keeps4.lean ====
section
/-! SUPPORT. What every operation and meaning keeps (`Keeps`), part 4: one lemma each, in the order of the model. -/

set_option linter.all false

namespace Sys2Proof.Machine

variable {s₀ s t : State}

theorem keeps_zjpKeep {port : Nat} {r : ZjpResp} (hz : Keeps s₀ s) : Keeps s₀ (zjpKeep port r s) := by
  unfold zjpKeep
  try dsimp only
  with_reducible repeat' first | exact hz | refine keeps_modCache ?_

theorem keeps_zjpDeliver {port reqId opcode : Nat} {ctx : Word} {status sub : Nat} {body : List Byte} (hz : Keeps s₀ s) : Keeps s₀
    (zjpDeliver port reqId opcode ctx status sub body s) := by
  unfold zjpDeliver
  try dsimp only
  with_reducible repeat' first | exact hz | refine keeps_zjpSend ?_ | refine keeps_zjpKeep ?_ | refine keeps_ite (fun _ => ?_) (fun _ => ?_)

theorem keeps_zjpAnswer {port reqId opcode : Nat} {ctx : Word} {status sub : Nat} {body : List Byte} (hz : Keeps s₀ s) : Keeps s₀
    (zjpAnswer port reqId opcode ctx status sub body s) := by
  unfold zjpAnswer
  try dsimp only
  with_reducible repeat' first | exact hz | refine keeps_zjpDeliver ?_ | refine keeps_zjpError ?_

theorem keeps_zjpPlain {port reqId opcode : Nat} {ctx : Word} {status sub : Nat} {body : List Byte} (hz : Keeps s₀ s) : Keeps s₀
    (zjpPlain port reqId opcode ctx status sub body s) := by
  unfold zjpPlain
  try dsimp only
  with_reducible repeat' first | exact hz | refine keeps_zjpSend ?_ | refine keeps_zjpError ?_

theorem keeps_zjpOk {body : List Byte} (hz : Keeps s₀ s) : Keeps s₀ (zjpOk body s).2 := by
  unfold zjpOk
  try dsimp only
  with_reducible exact hz

theorem keeps_zjpFail {status sub : Nat} (hz : Keeps s₀ s) : Keeps s₀ (zjpFail status sub s).2 := by
  unfold zjpFail
  try dsimp only
  with_reducible exact hz

theorem keeps_countDup {port : Nat} (hz : Keeps s₀ s) : Keeps s₀ (countDup port s) := by
  unfold countDup
  try dsimp only
  with_reducible repeat' first | exact hz | refine keeps_bumpSat ?_ | refine keeps_ite (fun _ => ?_) (fun _ => ?_)

theorem keeps_zjpHeard {port : Nat} (hz : Keeps s₀ s) : Keeps s₀ (zjpHeard port s) := by
  unfold zjpHeard
  try dsimp only
  with_reducible repeat' first | exact hz | refine keeps_modSvc ?_

theorem keeps_zjpNote {port opcode ident : Nat} (hz : Keeps s₀ s) : Keeps s₀ (zjpNote port opcode ident s) := by
  unfold zjpNote
  try dsimp only
  with_reducible repeat' first | exact hz | refine keeps_bumpSat ?_ | refine keeps_logPage ?_ | refine keeps_ite (fun _ => ?_) (fun _ => ?_)

theorem keeps_zjpTake {z : ZjpReq} {opcode ident : Nat} (hz : Keeps s₀ s) : Keeps s₀ (zjpTake z opcode ident s) := by
  unfold zjpTake
  try dsimp only
  with_reducible repeat' first | exact hz | refine keeps_modCache ?_ | refine keeps_zjpNote ?_

theorem keeps_zjpCached {z : ZjpReq} {opcode : Nat} {k : State → State} (hk : ∀ x0, Keeps s₀ x0 → Keeps s₀ (k x0)) (hz : Keeps s₀ s) :
    Keeps s₀ (zjpCached z opcode k s) := by
  unfold zjpCached
  try dsimp only
  with_reducible repeat' first
    | exact hz | refine keeps_zjpHeard ?_ | refine keeps_zjpSend ?_ | refine keeps_countDup ?_ | refine keeps_zjpPlain ?_ | (apply hk)
    | split

theorem keeps_zjpRun {z : ZjpReq} {opcode : Nat} {body : State → ZjpResult × State} (hbody : ∀ x0, Keeps s₀ x0 → Keeps s₀ (body x0).2)
    (hz : Keeps s₀ s) : Keeps s₀ (zjpRun z opcode body s) := by
  unfold zjpRun
  try dsimp only
  with_reducible repeat' first
    | exact hz | assumption | refine keeps_onFrame ?_ ?_ | refine keeps_zjpCached ?_ ?_ | refine keeps_zjpAnswer ?_
    | refine keeps_zjpTake ?_ | (apply hbody) | refine keeps_pair (by assumption) ?_ | refine keeps_ite (fun _ => ?_) (fun _ => ?_)
    | intro _ | split

theorem keeps_zjpCounted {c : Nat} {r : ZjpResult × State} (hz : Keeps s₀ r.2) : Keeps s₀ (zjpCounted c r).2 := by
  unfold zjpCounted
  try dsimp only
  with_reducible repeat' first | exact hz | refine keeps_countInvalid ?_ | refine keeps_ite (fun _ => ?_) (fun _ => ?_) | split

theorem keeps_zjpCtx {z : ZjpReq} {opcode : Nat} {body : Nat → State → ZjpResult × State} (hbody : ∀ x0 x1, Keeps s₀ x1 → Keeps s₀ (body
    x0 x1).2) (hz : Keeps s₀ s) : Keeps s₀ (zjpCtx z opcode body s) := by
  unfold zjpCtx
  try dsimp only
  with_reducible repeat' first
    | exact hz | assumption | refine keeps_zjpRun ?_ ?_ | refine keeps_zjpFail ?_ | refine keeps_zjpCounted ?_ | (apply hbody) | intro _
    | split

theorem keeps_zjpLive {z : ZjpReq} {opcode : Nat} {body : Nat → State → ZjpResult × State} (hbody : ∀ x0 x1, Keeps s₀ x1 → Keeps s₀ (body
    x0 x1).2) (hz : Keeps s₀ s) : Keeps s₀ (zjpLive z opcode body s) := by
  unfold zjpLive
  try dsimp only
  with_reducible repeat' first
    | exact hz | assumption | refine keeps_zjpCtx ?_ ?_ | refine keeps_zjpFail ?_ | (apply hbody) | intro _ | split

theorem keeps_settleUnmaps (hz : Keeps s₀ s) : Keeps s₀ (settleUnmaps s) := by
  unfold settleUnmaps
  try dsimp only
  with_reducible repeat' first
    | exact hz | assumption | refine keeps_forL ?_ ?_ | refine keeps_zjpAnswer ?_ | intro _ | refine Keeps.of ?_ rfl rfl rfl rfl

theorem keeps_svcComplete {port : Nat} {r : SvcRun} {status sub : Nat} {results : List Nat} (hz : Keeps s₀ s) : Keeps s₀ (svcComplete
    port r status sub results s) := by
  unfold svcComplete
  try dsimp only
  with_reducible repeat' first
    | exact hz | refine keeps_recErr ?_ | refine keeps_killForPoison ?_ | refine keeps_postCompletion ?_ | refine keeps_modSvc ?_
    | refine keeps_ite (fun _ => ?_) (fun _ => ?_)

theorem keeps_forgetAsker {port : Nat} (hz : Keeps s₀ s) : Keeps s₀ (forgetAsker port s) := by
  unfold forgetAsker
  try dsimp only
  with_reducible repeat' first | exact hz | refine keeps_modSys ?_ | refine Keeps.of ?_ rfl rfl rfl rfl

theorem keeps_unbindPort {port : Nat} (hz : Keeps s₀ s) : Keeps s₀ (unbindPort port s) := by
  unfold unbindPort
  try dsimp only
  with_reducible repeat' first
    | exact hz | assumption | refine keeps_forL ?_ ?_ | refine keeps_svcComplete ?_ | refine keeps_modSvc ?_ | refine keeps_modCache ?_
    | refine keeps_forgetAsker ?_ | refine keeps_setReg ?_ | refine keeps_setSvcState ?_ | refine keeps_ite (fun _ => ?_) (fun _ => ?_)
    | intro _ | split

theorem keeps_bindAnswer {own : Bool} {z : ZjpReq} {opcode st sub : Nat} {body : List Byte} (hz : Keeps s₀ s) : Keeps s₀ (bindAnswer own
    z opcode st sub body s) := by
  unfold bindAnswer
  try dsimp only
  with_reducible repeat' first
    | exact hz | refine keeps_zjpAnswer ?_ | refine keeps_zjpPlain ?_ | refine keeps_ite (fun _ => ?_) (fun _ => ?_)

theorem keeps_bindRun {own : Bool} {z : ZjpReq} {opcode ident : Nat} {k : Bool → State → State} (hk : ∀ x0 x1, Keeps s₀ x1 → Keeps s₀ (k
    x0 x1)) (hz : Keeps s₀ s) : Keeps s₀ (bindRun own z opcode ident k s) := by
  unfold bindRun
  try dsimp only
  with_reducible repeat' first
    | exact hz | refine keeps_bindAnswer ?_ | refine keeps_zjpNote ?_ | (apply hk) | refine keeps_ite (fun _ => ?_) (fun _ => ?_)

theorem keeps_onBind {z : ZjpReq} {opcode ident : Nat} {k : Bool → State → State} (hk : ∀ x0 x1, Keeps s₀ x1 → Keeps s₀ (k x0 x1)) (hz :
    Keeps s₀ s) : Keeps s₀ (onBind z opcode ident k s) := by
  unfold onBind
  try dsimp only
  with_reducible repeat' first
    | exact hz | assumption | refine keeps_onFrame ?_ ?_ | refine keeps_zjpCached ?_ ?_ | refine keeps_bindRun ?_ ?_
    | refine keeps_ite (fun _ => ?_) (fun _ => ?_) | intro _

theorem keeps_execBindHello {z : ZjpReq} {b : BindCert} (hz : Keeps s₀ s) (he : execBindHello z b s = .next t) : Keeps s₀ t := by
  unfold execBindHello at he; injection he with he; subst he; try dsimp only
  with_reducible repeat' first
    | exact hz | assumption | refine keeps_onBind ?_ ?_ | refine keeps_bindAnswer ?_ | refine keeps_draw ?_ | refine keeps_modSvc ?_
    | refine keeps_setSvcState ?_ | refine keeps_ite (fun _ => ?_) (fun _ => ?_) | intro _ | split

theorem keeps_execBindFinish {z : ZjpReq} {identity : Nat} {sigOk : Bool} (hz : Keeps s₀ s) (he : execBindFinish z identity sigOk s =
    .next t) : Keeps s₀ t := by
  unfold execBindFinish at he; injection he with he; subst he; try dsimp only
  with_reducible repeat' first
    | exact hz | assumption | refine keeps_forL ?_ ?_ | refine keeps_onBind ?_ ?_ | refine keeps_bindAnswer ?_ | refine keeps_modSvc ?_
    | refine keeps_unbindPort ?_ | refine keeps_zjpAnswer ?_ | refine keeps_setReg ?_ | refine keeps_setSvcState ?_
    | refine keeps_ite (fun _ => ?_) (fun _ => ?_) | intro _ | split

theorem keeps_execUnbind {z : ZjpReq} (hz : Keeps s₀ s) (he : execUnbind z s = .next t) : Keeps s₀ t := by
  unfold execUnbind at he; injection he with he; subst he; try dsimp only
  with_reducible repeat' first
    | exact hz | assumption | refine keeps_onFrame ?_ ?_ | refine keeps_zjpCached ?_ ?_ | refine keeps_zjpAnswer ?_
    | refine keeps_unbindPort ?_ | refine keeps_zjpNote ?_ | refine keeps_ite (fun _ => ?_) (fun _ => ?_) | intro _ | split

theorem keeps_execPing {z : ZjpReq} (hz : Keeps s₀ s) (he : execPing z s = .next t) : Keeps s₀ t := by
  unfold execPing at he; injection he with he; subst he; try dsimp only
  with_reducible repeat' first
    | exact hz | assumption | refine keeps_onFrame ?_ ?_ | refine keeps_zjpPlain ?_ | refine keeps_zjpNote ?_
    | refine keeps_zjpCached ?_ ?_ | refine keeps_zjpAnswer ?_ | refine keeps_ite (fun _ => ?_) (fun _ => ?_) | intro _ | split

theorem keeps_execPartnerTimeout {port : Nat} (hz : Keeps s₀ s) (he : execPartnerTimeout port s = .next t) : Keeps s₀ t := by
  unfold execPartnerTimeout at he; injection he with he; subst he; try dsimp only
  with_reducible repeat' first | exact hz | refine keeps_unbindPort ?_ | refine keeps_ite (fun _ => ?_) (fun _ => ?_)

theorem keeps_execServiceLinkDown {port : Nat} (hz : Keeps s₀ s) (he : execServiceLinkDown port s = .next t) : Keeps s₀ t := by
  unfold execServiceLinkDown at he; injection he with he; subst he; try dsimp only
  with_reducible repeat' first
    | exact hz | refine keeps_setSvcState ?_ | refine keeps_modSvc ?_ | refine keeps_ite (fun _ => ?_) (fun _ => ?_)

theorem keeps_execServiceLinkUp {up : PortUp} (hz : Keeps s₀ s) (he : execServiceLinkUp up s = .next t) : Keeps s₀
    t := by
  unfold execServiceLinkUp at he; injection he with he; subst he; try dsimp only
  with_reducible repeat' first
    | exact hz | refine keeps_setField ?_ | refine keeps_setSvcState ?_ | refine keeps_modSvc ?_
    | refine keeps_ite (fun _ => ?_) (fun _ => ?_)

theorem keeps_execZjpUnsupported {port : Nat} {f : Frame} {datagram : List Byte} (hz : Keeps s₀ s) (he : execZjpUnsupported port f
    datagram s = .next t) : Keeps s₀ t := by
  unfold execZjpUnsupported at he; injection he with he; subst he; try dsimp only
  with_reducible repeat' first
    | exact hz | assumption | refine keeps_onFrame ?_ ?_ | refine keeps_zjpCached ?_ ?_ | refine keeps_zjpAnswer ?_
    | refine keeps_ite (fun _ => ?_) (fun _ => ?_) | intro _ | split

theorem keeps_execNeighbourDiscovery {port : Nat} {f : Frame} {addr : Nat} (hz : Keeps s₀ s) (he : execNeighbourDiscovery port f addr s =
    .next t) : Keeps s₀ t := by
  unfold execNeighbourDiscovery at he; injection he with he; subst he; try dsimp only
  with_reducible repeat' first
    | exact hz | assumption | refine keeps_onFrame ?_ ?_ | refine keeps_emit ?_ | refine keeps_countTx ?_ | refine keeps_countDrop ?_
    | refine keeps_ite (fun _ => ?_) (fun _ => ?_) | intro _

theorem keeps_execIcmpEcho {port : Nat} {f : Frame} {addr : Nat} {data : List Byte} (hz : Keeps s₀ s) (he : execIcmpEcho port f addr data
    s = .next t) : Keeps s₀ t := by
  unfold execIcmpEcho at he; injection he with he; subst he; try dsimp only
  with_reducible repeat' first
    | exact hz | assumption | refine keeps_onFrame ?_ ?_ | refine keeps_emit ?_ | refine keeps_countTx ?_ | refine keeps_countDrop ?_
    | refine keeps_ite (fun _ => ?_) (fun _ => ?_) | intro _

theorem keeps_execUnsupportedFrame {port : Nat} {macsec : Bool} (hz : Keeps s₀ s) (he : execUnsupportedFrame port macsec s = .next t) :
    Keeps s₀ t := by
  unfold execUnsupportedFrame at he; injection he with he; subst he; try dsimp only
  with_reducible repeat' first
    | exact hz | refine keeps_countRx ?_ | refine keeps_countDrop ?_ | refine keeps_bump ?_ | refine keeps_ite (fun _ => ?_) (fun _ => ?_)

theorem keeps_queueTest {die i trigger : Nat} (hz : Keeps s₀ s) : Keeps s₀ (queueTest die i trigger s) := by
  unfold queueTest
  try dsimp only
  with_reducible repeat' first | exact hz | refine keeps_modChk ?_

theorem keeps_queueAnomaly {die trigger i : Nat} (hz : Keeps s₀ s) : Keeps s₀ (queueAnomaly die trigger i s) := by
  unfold queueAnomaly
  try dsimp only
  with_reducible repeat' first | exact hz | refine keeps_queueTest ?_ | refine keeps_ite (fun _ => ?_) (fun _ => ?_)

theorem keeps_evalNan {die : Nat} (hz : Keeps s₀ s) : Keeps s₀ (evalNan die s) := by
  unfold evalNan
  try dsimp only
  with_reducible repeat' first
    | exact hz | assumption | refine keeps_forL ?_ ?_ | refine keeps_queueAnomaly ?_ | refine keeps_modChk ?_ | intro _

theorem keeps_evalJump {die : Nat} (hz : Keeps s₀ s) : Keeps s₀ (evalJump die s) := by
  unfold evalJump
  try dsimp only
  with_reducible repeat' first
    | exact hz | assumption | refine keeps_forL ?_ ?_ | refine keeps_queueAnomaly ?_ | refine keeps_modChk ?_
    | refine keeps_ite (fun _ => ?_) (fun _ => ?_) | intro _

theorem keeps_evalFail {die : Nat} (hz : Keeps s₀ s) : Keeps s₀ (evalFail die s) := by
  unfold evalFail
  try dsimp only
  with_reducible repeat' first
    | exact hz | assumption | refine keeps_forL ?_ ?_ | refine keeps_queueAnomaly ?_ | refine keeps_modChk ?_
    | refine keeps_ite (fun _ => ?_) (fun _ => ?_) | intro _

theorem keeps_nextWindow {die : Nat} (hz : Keeps s₀ s) : Keeps s₀ (nextWindow die s) := by
  unfold nextWindow
  try dsimp only
  with_reducible repeat' first | exact hz | refine keeps_modChk ?_ | refine keeps_ite (fun _ => ?_) (fun _ => ?_)

theorem keeps_execAnomalyEvaluation {die : Nat} (hz : Keeps s₀ s) (he : execAnomalyEvaluation die s = .next t) : Keeps s₀ t := by
  unfold execAnomalyEvaluation at he; injection he with he; subst he; try dsimp only
  with_reducible repeat' first
    | exact hz | refine keeps_nextWindow ?_ | refine keeps_evalFail ?_ | refine keeps_evalJump ?_ | refine keeps_evalNan ?_
    | refine keeps_ite (fun _ => ?_) (fun _ => ?_)

theorem keeps_execChkFtStart {die mask : Nat} (hz : Keeps s₀ s) (he : execChkFtStart die mask s = .next t) : Keeps s₀ t := by
  unfold execChkFtStart at he; injection he with he; subst he; try dsimp only
  with_reducible repeat' first
    | exact hz | assumption | refine keeps_forL ?_ ?_ | refine keeps_queueTest ?_ | refine keeps_ite (fun _ => ?_) (fun _ => ?_) | intro _

theorem keeps_execTestSuspect {z : ZjpReq} (hz : Keeps s₀ s) (he : execTestSuspect z s = .next t) : Keeps s₀ t := by
  unfold execTestSuspect at he; injection he with he; subst he; try dsimp only
  with_reducible repeat' first
    | exact hz | assumption | refine keeps_forL ?_ ?_ | refine keeps_forN ?_ ?_ | refine keeps_zjpLive ?_ ?_ | refine keeps_zjpFail ?_
    | refine keeps_zjpOk ?_ | refine keeps_queueTest ?_ | intro _ | split | refine Keeps.of ?_ rfl rfl rfl rfl

theorem keeps_suspectDone {loom : Nat} {o : TestOutcome} (hz : Keeps s₀ s) : Keeps s₀ (suspectDone loom o s) := by
  unfold suspectDone
  try dsimp only
  with_reducible repeat' first
    | exact hz | assumption | refine keeps_forL ?_ ?_ | refine keeps_zjpAnswer ?_ | intro _ | split | refine Keeps.of ?_ rfl rfl rfl rfl

theorem keeps_startLoopbacks {die : Nat} (hz : Keeps s₀ s) : Keeps s₀ (startLoopbacks die s) := by
  unfold startLoopbacks
  try dsimp only
  with_reducible repeat' first | exact hz | assumption | refine keeps_forL ?_ ?_ | refine keeps_modSwitch ?_ | intro _

theorem keeps_execFieldTestBegin {die : Nat} (hz : Keeps s₀ s) (he : execFieldTestBegin die s = .next t) : Keeps s₀ t := by
  unfold execFieldTestBegin at he; injection he with he; subst he; try dsimp only
  with_reducible repeat' first
    | exact hz | refine keeps_modChk ?_ | refine keeps_startLoopbacks ?_ | refine keeps_issueBatch ?_ | refine keeps_modLoom ?_
    | refine keeps_ite (fun _ => ?_) (fun _ => ?_) | split

theorem keeps_modTest {loom : Nat} {f : RunningTest → RunningTest} (hz : Keeps s₀ s) : Keeps s₀ (modTest loom f s) := by
  unfold modTest
  try dsimp only
  with_reducible repeat' first | exact hz | refine keeps_modChk ?_

theorem keeps_execFtDrainComplete {loom : Nat} (hz : Keeps s₀ s) (he : execFtDrainComplete loom s = .next t) : Keeps s₀ t := by
  unfold execFtDrainComplete at he; injection he with he; subst he; try dsimp only
  with_reducible repeat' first
    | exact hz | refine keeps_saveHalf ?_ | refine keeps_modTest ?_ | refine keeps_modLoom ?_
    | refine keeps_ite (fun _ => ?_) (fun _ => ?_) | split

theorem keeps_execFtArrayScanComplete {loom : Nat} {found : Bool} {map : Option Nat} (hz : Keeps s₀ s) (he : execFtArrayScanComplete loom
    found map s = .next t) : Keeps s₀ t := by
  unfold execFtArrayScanComplete at he; injection he with he; subst he; try dsimp only
  with_reducible repeat' first | exact hz | refine keeps_modTest ?_ | split

theorem keeps_execFtSramMarchComplete {loom : Nat} {pass : Bool} (hz : Keeps s₀ s) (he : execFtSramMarchComplete loom pass s = .next t) :
    Keeps s₀ t := by
  unfold execFtSramMarchComplete at he; injection he with he; subst he; try dsimp only
  with_reducible repeat' first
    | exact hz | refine keeps_modTest ?_ | refine keeps_bumpSat ?_ | refine keeps_setReg ?_ | refine keeps_recordRepair ?_
    | refine keeps_ite (fun _ => ?_) (fun _ => ?_) | split

theorem keeps_reportTest {loom : Nat} {r : RunningTest} {o : TestOutcome} (hz : Keeps s₀ s) : Keeps s₀ (reportTest loom r o s) := by
  unfold reportTest
  try dsimp only
  with_reducible repeat' first
    | exact hz | assumption | refine keeps_forL ?_ ?_ | refine keeps_setReg ?_ | refine keeps_setPend ?_ | refine keeps_bumpSat ?_
    | refine keeps_logDry ?_ | refine keeps_modChk ?_ | refine keeps_postFault ?_ | refine keeps_suspectDone ?_
    | refine keeps_ite (fun _ => ?_) (fun _ => ?_) | intro _ | split

theorem keeps_execFtOutcome {loom : Nat} {verified : Bool} (hz : Keeps s₀ s) (he : execFtOutcome loom verified s = .next t) : Keeps s₀ t
    := by
  unfold execFtOutcome at he; injection he with he; subst he; try dsimp only
  with_reducible repeat' first
    | exact hz | refine keeps_setField ?_ | refine keeps_modChk ?_ | refine keeps_reportTest ?_ | refine keeps_modLoom ?_
    | refine keeps_ite (fun _ => ?_) (fun _ => ?_) | split

theorem keeps_execOpticalLoopbackEnd {pair : Nat} (hz : Keeps s₀ s) (he : execOpticalLoopbackEnd pair s = .next t) : Keeps s₀ t := by
  unfold execOpticalLoopbackEnd at he; injection he with he; subst he; try dsimp only
  with_reducible repeat' first | exact hz | refine keeps_modSwitch ?_

theorem keeps_abandonTests {die cause : Nat} (hz : Keeps s₀ s) : Keeps s₀ (abandonTests die cause s) := by
  unfold abandonTests
  try dsimp only
  with_reducible repeat' first
    | exact hz | assumption | refine keeps_forL ?_ ?_ | refine keeps_logDry ?_ | refine keeps_modLoom ?_ | refine keeps_modChk ?_
    | intro _

theorem keeps_fpArith {e : Env} {op : Rnd → Val → Val → Val → Val} (hz : Keeps s₀ s) : Keeps s₀ (fpArith e op s) := by
  unfold fpArith
  try dsimp only
  with_reducible repeat' first | exact hz | refine keeps_perThread ?_

theorem keeps_execFadd {w : Who} (hz : Keeps s₀ s) (he : execFadd w s = .next t) : Keeps s₀ t := by
  unfold execFadd at he; injection he with he; subst he; try dsimp only
  with_reducible repeat' first | exact hz | assumption | refine keeps_issueRow ?_ ?_ | refine keeps_fpArith ?_ | intro _

theorem keeps_execFmul {w : Who} (hz : Keeps s₀ s) (he : execFmul w s = .next t) : Keeps s₀ t := by
  unfold execFmul at he; injection he with he; subst he; try dsimp only
  with_reducible repeat' first | exact hz | assumption | refine keeps_issueRow ?_ ?_ | refine keeps_fpArith ?_ | intro _

theorem keeps_execFfma {w : Who} (hz : Keeps s₀ s) (he : execFfma w s = .next t) : Keeps s₀ t := by
  unfold execFfma at he; injection he with he; subst he; try dsimp only
  with_reducible repeat' first | exact hz | assumption | refine keeps_issueRow ?_ ?_ | refine keeps_fpArith ?_ | intro _

theorem keeps_execFmnmx {w : Who} (hz : Keeps s₀ s) (he : execFmnmx w s = .next t) : Keeps s₀ t := by
  unfold execFmnmx at he; injection he with he; subst he; try dsimp only
  with_reducible repeat' first
    | exact hz | assumption | refine keeps_issueRow ?_ ?_ | refine keeps_fpArith ?_ | refine keeps_perThread ?_
    | refine keeps_ite (fun _ => ?_) (fun _ => ?_) | intro _

theorem keeps_execFcmp {w : Who} (hz : Keeps s₀ s) (he : execFcmp w s = .next t) : Keeps s₀ t := by
  unfold execFcmp at he; injection he with he; subst he; try dsimp only
  with_reducible repeat' first | exact hz | assumption | refine keeps_issueRow ?_ ?_ | refine keeps_perThreadP ?_ | intro _

theorem keeps_execFcvt {w : Who} (hz : Keeps s₀ s) (he : execFcvt w s = .next t) : Keeps s₀ t := by
  unfold execFcvt at he; injection he with he; subst he; try dsimp only
  with_reducible repeat' first
    | exact hz | assumption | refine keeps_issueRow ?_ ?_ | refine keeps_insFault ?_ | refine keeps_perThread ?_
    | refine keeps_ite (fun _ => ?_) (fun _ => ?_) | intro _

theorem keeps_execAmax {w : Who} (hz : Keeps s₀ s) (he : execAmax w s = .next t) : Keeps s₀ t := by
  unfold execAmax at he; injection he with he; subst he; try dsimp only
  with_reducible repeat' first | exact hz | assumption | refine keeps_issueRow ?_ ?_ | refine keeps_finish ?_ | intro _

theorem keeps_execSfu {w : Who} (hz : Keeps s₀ s) (he : execSfu w s = .next t) : Keeps s₀ t := by
  unfold execSfu at he; injection he with he; subst he; try dsimp only
  with_reducible repeat' first | exact hz | assumption | refine keeps_issueRow ?_ ?_ | refine keeps_perThread ?_ | intro _

theorem keeps_furnish {c rootLog : Nat} (hz : Keeps s₀ s) (he : (furnish c rootLog s) = some t) : Keeps s₀ t := by
  unfold furnish at he
  generalize max 256 (8 * 2 ^ rootLog) = n at he
  cases h : tableRoom c n s with
  | none => rw [h] at he; cases he
  | some p =>
    obtain ⟨root, u⟩ := p
    rw [h] at he
    dsimp only at he
    split at he
    · cases he
    · exact keeps_mapLeaf (keeps_modCtx (keeps_tableRoom hz h)) he

theorem keeps_cadRefuse {c code sub : Nat} (hz : Keeps s₀ s) : Keeps s₀ (cadRefuse c code sub s).2 := by
  unfold cadRefuse
  try dsimp only
  with_reducible repeat' first | exact hz | refine keeps_zjpFail ?_ | refine keeps_recErr ?_

theorem keeps_admitCtx {ident : Nat} {body : List Byte} (hz : Keeps s₀ s) : Keeps s₀ (admitCtx ident body s).2 := by
  unfold admitCtx
  try dsimp only
  with_reducible repeat' first
    | exact hz | refine keeps_cadRefuse ?_ | refine keeps_zjpFail ?_ | refine keeps_recErr ?_ | refine keeps_slotCreate ?_ | refine keeps_furnish ?_ (by assumption)
    | refine keeps_zjpOk ?_ | split | refine Keeps.of ?_ rfl rfl rfl rfl

theorem keeps_execAdmit {z : ZjpReq} (hz : Keeps s₀ s) (he : execAdmit z s = .next t) : Keeps s₀ t := by
  unfold execAdmit at he; injection he with he; subst he; try dsimp only
  with_reducible repeat' first | exact hz | assumption | refine keeps_zjpRun ?_ ?_ | refine keeps_admitCtx ?_ | intro _

theorem keeps_execContextDestroy {z : ZjpReq} (hz : Keeps s₀ s) (he : execContextDestroy z s = .next t) : Keeps s₀ t := by
  unfold execContextDestroy at he; injection he with he; subst he; try dsimp only
  with_reducible repeat' first | exact hz | assumption | refine keeps_zjpCtx ?_ ?_ | refine keeps_startTeardown ?_ | intro _

theorem keeps_execContextInfo {z : ZjpReq} (hz : Keeps s₀ s) (he : execContextInfo z s = .next t) : Keeps s₀ t := by
  unfold execContextInfo at he; injection he with he; subst he; try dsimp only
  with_reducible repeat' first | exact hz | assumption | refine keeps_zjpCtx ?_ ?_ | refine keeps_zjpOk ?_ | intro _

theorem keeps_execContextKill {z : ZjpReq} (hz : Keeps s₀ s) (he : execContextKill z s = .next t) : Keeps s₀ t := by
  unfold execContextKill at he; injection he with he; subst he; try dsimp only
  with_reducible repeat' first
    | exact hz | assumption | refine keeps_zjpRun ?_ ?_ | refine keeps_zjpFail ?_ | refine keeps_zjpOk ?_ | refine keeps_startTeardown ?_
    | intro _ | split

theorem keeps_grantPages {n c : Nat} {g : MemGrant} {va : Nat} (hz : Keeps s₀ s) (he : (grantPages n c g va s) = some t) : Keeps s₀ t :=
    by
  induction n generalizing va s with
  | zero => injection he with he; subst he; exact hz
  | succ n ih =>
    unfold grantPages at he
    split at he
    · cases he
    · dsimp only at he
      split at he
      · cases he
      · next h =>
        refine ih (keeps_mapLeaf ?_ h) he
        exact keeps_ite (fun _ => keeps_makeChecked (keeps_scrubRange hz)) (fun _ => keeps_scrubRange hz)

theorem keeps_memGrant {c : Nat} {g : MemGrant} (hz : Keeps s₀ s) : Keeps s₀ (memGrant c g s).2 := by
  unfold memGrant
  try dsimp only
  with_reducible repeat' first
    | exact hz | refine keeps_cadRefuse ?_ | refine keeps_zjpFail ?_ | refine keeps_recErr ?_ | refine keeps_grantPages ?_ (by assumption) | refine keeps_zjpOk ?_
    | split

theorem keeps_execMemGrant {z : ZjpReq} {g : MemGrant} (hz : Keeps s₀ s) (he : execMemGrant z g s = .next t) : Keeps s₀ t := by
  unfold execMemGrant at he; injection he with he; subst he; try dsimp only
  with_reducible repeat' first | exact hz | assumption | refine keeps_zjpLive ?_ ?_ | refine keeps_memGrant ?_ | intro _

theorem keeps_releaseLeaves {fuel c va n : Nat} (hz : Keeps s₀ s) (he : (releaseLeaves fuel c va n s) = some t) : Keeps s₀ t := by
  induction fuel generalizing s with
  | zero => injection he with he; subst he; exact hz
  | succ f ih =>
    unfold releaseLeaves at he
    split at he
    · injection he with he; subst he; exact hz
    · dsimp only at he
      split at he
      · exact ih (Keeps.of (keeps_unmapLeaf hz) rfl rfl rfl rfl) he
      · rw [Option.bind_eq_some_iff] at he
        obtain ⟨u, hu, hv⟩ := he
        exact ih (keeps_mapLeaves (keeps_unmapLeaf hz) hu) hv

theorem keeps_memRelease {c va n : Nat} (hz : Keeps s₀ s) : Keeps s₀ (memRelease c va n s).2 := by
  unfold memRelease
  try dsimp only
  with_reducible repeat' first
    | exact hz | refine keeps_zjpFail ?_ | refine keeps_releaseLeaves ?_ (by assumption) | refine keeps_zjpOk ?_ | split

theorem keeps_execMemRelease {z : ZjpReq} {va n : Nat} (hz : Keeps s₀ s) (he : execMemRelease z va n s = .next t) : Keeps s₀ t := by
  unfold execMemRelease at he; injection he with he; subst he; try dsimp only
  with_reducible repeat' first | exact hz | assumption | refine keeps_zjpLive ?_ ?_ | refine keeps_memRelease ?_ | intro _

theorem keeps_loadLeaf {c va : Nat} {code : List Byte} {l : Leaf} (hz : Keeps s₀ s) : Keeps s₀ (loadLeaf c va code l s) := by
  unfold loadLeaf
  try dsimp only
  with_reducible repeat' first | exact hz | refine keeps_setLeafPerm ?_ | refine keeps_engWrite ?_

theorem keeps_codeLoad {c va : Nat} {code : List Byte} (hz : Keeps s₀ s) : Keeps s₀ (codeLoad c va code s).2 := by
  unfold codeLoad
  try dsimp only
  with_reducible repeat' first
    | exact hz | assumption | refine keeps_forL ?_ ?_ | refine keeps_zjpFail ?_ | refine keeps_loadLeaf ?_ | refine keeps_zjpOk ?_
    | refine keeps_modCtx ?_ | intro _ | split

theorem keeps_execCodeLoad {z : ZjpReq} {va : Nat} {code : List Byte} (hz : Keeps s₀ s) (he : execCodeLoad z va code s = .next t) : Keeps
    s₀ t := by
  unfold execCodeLoad at he; injection he with he; subst he; try dsimp only
  with_reducible repeat' first
    | exact hz | assumption | refine keeps_zjpLive ?_ ?_ | refine keeps_zjpFail ?_ | refine keeps_codeLoad ?_ | intro _ | split

theorem keeps_modEndpoint {h : Word} {f : Endpoint → Endpoint} (hz : Keeps s₀ s) : Keeps s₀ (modEndpoint h f s) := by
  unfold modEndpoint
  try dsimp only
  with_reducible repeat' first | exact hz | refine Keeps.of ?_ rfl rfl rfl rfl

theorem keeps_advanceRole {h : Word} (hz : Keeps s₀ s) : Keeps s₀ (advanceRole h s) := by
  unfold advanceRole
  try dsimp only
  with_reducible repeat' first | exact hz | refine keeps_modEndpoint ?_

theorem keeps_execRoleAssign {z : ZjpReq} {h : Word} (hz : Keeps s₀ s) (he : execRoleAssign z h s = .next t) : Keeps s₀ t := by
  unfold execRoleAssign at he; injection he with he; subst he; try dsimp only
  with_reducible repeat' first
    | exact hz | assumption | refine keeps_zjpLive ?_ ?_ | refine keeps_zjpFail ?_ | refine keeps_advanceRole ?_ | refine keeps_zjpOk ?_
    | intro _ | split | refine Keeps.of ?_ rfl rfl rfl rfl

theorem keeps_execRoleEpochAdvance {h : Word} (hz : Keeps s₀ s) (he : execRoleEpochAdvance h s = .next t) : Keeps s₀ t := by
  unfold execRoleEpochAdvance at he; injection he with he; subst he; try dsimp only
  with_reducible repeat' first
    | exact hz | refine keeps_zjpAnswer ?_ | refine keeps_advanceRole ?_ | refine keeps_ite (fun _ => ?_) (fun _ => ?_) | split
    | refine Keeps.of ?_ rfl rfl rfl rfl

theorem keeps_execShareEndpoint {z : ZjpReq} {h peer : Word} (hz : Keeps s₀ s) (he : execShareEndpoint z h peer s = .next t) : Keeps s₀ t
    := by
  unfold execShareEndpoint at he; injection he with he; subst he; try dsimp only
  with_reducible repeat' first
    | exact hz | assumption | refine keeps_zjpLive ?_ ?_ | refine keeps_zjpFail ?_ | refine keeps_zjpOk ?_ | intro _ | split
    | refine Keeps.of ?_ rfl rfl rfl rfl

theorem keeps_takeSlot {typ home c : Nat} {busy : Nat → Bool} (hz : Keeps s₀ s) (he : (takeSlot typ home c busy s) = some (a0, a1, t)) :
    Keeps s₀ t := by
  unfold takeSlot at he
  rw [Option.map_eq_some_iff] at he
  obtain ⟨u, hu, he⟩ := he
  injection he with _ he; injection he with _ he; subst he
  exact keeps_slotCreate hz

theorem keeps_createObj {typ home c : Nat} {busy : Nat → Bool} {put : Nat → Word → State → State} (hput : ∀ x0 x1 x2, Keeps s₀ x2 → Keeps
    s₀ (put x0 x1 x2)) (hz : Keeps s₀ s) : Keeps s₀ (createObj typ home c busy put s).2 := by
  unfold createObj
  try dsimp only
  with_reducible repeat' first
    | exact hz | refine keeps_zjpFail ?_ | refine keeps_takeSlot ?_ (by assumption) | refine keeps_zjpOk ?_ | (apply hput) | split

theorem keeps_designate {c : Nat} {h : Word} {d : Designation} (hz : Keeps s₀ s) : Keeps s₀ (designate c h d s) := by
  unfold designate
  try dsimp only
  with_reducible repeat' first
    | exact hz | refine keeps_deliverFaults ?_ | refine keeps_modCtx ?_ | split | refine Keeps.of ?_ rfl rfl rfl rfl

theorem keeps_createQueue {c home typ depth ring dbIndex : Nat} {cplQ channel : Word} {desig : Nat} (hz : Keeps s₀ s) : Keeps s₀
    (createQueue c home typ depth ring dbIndex cplQ channel desig s).2 := by
  unfold createQueue
  try dsimp only
  with_reducible repeat' first
    | exact hz | refine keeps_zjpFail ?_ | refine keeps_takeSlot ?_ (by assumption) | refine keeps_zjpOk ?_ | refine keeps_designate ?_
    | split | refine Keeps.of ?_ rfl rfl rfl rfl

theorem keeps_createChannel {c home : Nat} (hz : Keeps s₀ s) : Keeps s₀ (createChannel c home s).2 := by
  unfold createChannel
  try dsimp only
  with_reducible repeat' first
    | exact hz | assumption | refine keeps_zjpFail ?_ | refine keeps_createObj ?_ ?_ | intro _ | split
    | refine Keeps.of ?_ rfl rfl rfl rfl

theorem keeps_mapWindow {c home slot len : Nat} (hz : Keeps s₀ s) (he : (mapWindow c home slot len s) = some (a0, t)) : Keeps s₀ t := by
  unfold mapWindow at he
  rw [Option.bind_eq_some_iff] at he
  obtain ⟨va, _, he⟩ := he
  rw [Option.map_eq_some_iff] at he
  obtain ⟨u, hu, he⟩ := he
  injection he with _ he; subst he
  exact keeps_mapLeaves hz hu

theorem keeps_createWindow {c home : Nat} {d : List Byte} {s0 : State} (hz : Keeps s₀ s0) : Keeps s₀ (createWindow c home d s0).2 := by
  have hbad : ∀ a b, Keeps s₀ (zjpFail a b s0).2 := fun a b => keeps_zjpFail hz
  unfold createWindow
  split
  · exact hbad _ _
  · split
    · exact hbad _ _
    · split
      · exact hbad _ _
      · next h1 =>
        extract_lets len w s1
        have h2 : Keeps s₀ s1 := Keeps.of (keeps_takeSlot hz h1) rfl rfl rfl rfl
        clear_value s1 w len
        split
        · exact keeps_zjpOk h2
        · split
          · exact hbad _ _
          · split
            · exact keeps_zjpOk (keeps_mapWindow h2 (by assumption))
            · exact hbad _ _

theorem keeps_createConv {c home attr : Nat} (hz : Keeps s₀ s) : Keeps s₀ (createConv c home attr s).2 := by
  unfold createConv
  try dsimp only
  with_reducible repeat' first
    | exact hz | assumption | refine keeps_zjpFail ?_ | refine keeps_recErr ?_ | refine keeps_createObj ?_ ?_ | intro _ | split
    | refine Keeps.of ?_ rfl rfl rfl rfl

theorem keeps_createCursor {c : Nat} {d : List Byte} (hz : Keeps s₀ s) : Keeps s₀ (createCursor c d s).2 := by
  unfold createCursor
  try dsimp only
  with_reducible repeat' first
    | exact hz | assumption | refine keeps_cadRefuse ?_ | refine keeps_createObj ?_ ?_ | intro _ | split
    | refine Keeps.of ?_ rfl rfl rfl rfl

theorem keeps_createStream {c : Nat} {d : List Byte} (hz : Keeps s₀ s) : Keeps s₀ (createStream c d s).2 := by
  unfold createStream
  try dsimp only
  with_reducible repeat' first
    | exact hz | assumption | refine keeps_cadRefuse ?_ | refine keeps_createObj ?_ ?_ | intro _ | split
    | refine Keeps.of ?_ rfl rfl rfl rfl

theorem keeps_createEndpoint {c home : Nat} {q : Word} (hz : Keeps s₀ s) : Keeps s₀ (createEndpoint c home q s).2 := by
  unfold createEndpoint
  try dsimp only
  with_reducible repeat' first
    | exact hz | assumption | refine keeps_zjpFail ?_ | refine keeps_createObj ?_ ?_ | intro _ | split
    | refine Keeps.of ?_ rfl rfl rfl rfl

theorem keeps_claimStore {gs : Nat} {g : SilGroup} {r : RecStore} (hz : Keeps s₀ s) (he : (claimStore gs g r s) = some t) : Keeps s₀ t :=
    by
  unfold claimStore at he
  try dsimp only at he
  repeat' split at he
  all_goals first | (cases he; done) | (injection he with he; first | (injections; subst_vars) | subst he) | skip
  all_goals try dsimp only
  with_reducible repeat' first
    | exact hz | refine keeps_mapLeaves ?_ (by assumption) | refine keeps_modSil ?_ | refine Keeps.of ?_ rfl rfl rfl rfl

theorem keeps_sendJoin {gs : Nat} (hz : Keeps s₀ s) : Keeps s₀ (sendJoin gs s) := by
  unfold sendJoin
  try dsimp only
  with_reducible repeat' first | exact hz | assumption | refine keeps_forL ?_ ?_ | refine keeps_silSendOut ?_ | intro _ | split

theorem keeps_beginGroup {gs : Nat} {h : Word} {g : SilGroup} (hz : Keeps s₀ s) (he : (beginGroup gs h g s) = some t) : Keeps s₀ t := by
  unfold beginGroup at he
  extract_lets s1 s2 at he
  have h2 : Keeps s₀ s2 := keeps_beginStep (Keeps.of hz rfl rfl rfl rfl)
  clear_value s2
  split at he
  · exact keeps_claimStore h2 he
  · split at he
    · rw [Option.map_eq_some_iff] at he
      obtain ⟨u, hu, rfl⟩ := he
      exact keeps_sendJoin (keeps_ensureStore (keeps_fillChanged (keeps_modSil h2)) hu)
    · injection he with he; subst he; exact h2

theorem keeps_createGroup {c : Nat} {d : List Byte} {s0 : State} (hz : Keeps s₀ s0) : Keeps s₀ (createGroup c d s0).2 := by
  have hb : ∀ gs h g x, Keeps s₀ x →
      Keeps s₀ (((beginGroup gs h g x).map (zjpOk (toBytes 8 h.toNat))).getD (zjpFail zsQuota 0 s0)).2 := by
    intro gs h g x hx
    cases hbg : beginGroup gs h g x with
    | none => exact keeps_zjpFail hz
    | some u => exact keeps_zjpOk (keeps_beginGroup hx hbg)
  have hbad : ∀ a b, Keeps s₀ (zjpFail a b s0).2 := fun a b => keeps_zjpFail hz
  unfold createGroup
  dsimp only
  split
  · exact hbad _ _
  · split
    · exact hbad _ _
    · split
      · exact hbad _ _
      · split
        · exact hbad _ _
        · next h1 =>
          split
          · exact hbad _ _
          · next h2 =>
            split
            · exact hbad _ _
            · split
              · exact hbad _ _
              · next h3 =>
                have h := keeps_takeSlot (keeps_pair h2 (keeps_vRead (keeps_pair h1 (keeps_vRead hz)))) h3
                split
                · split
                  · exact keeps_cadRefuse hz
                  · split
                    · exact keeps_cadRefuse hz
                    · exact hb _ _ _ _ h
                · exact hb _ _ _ _ h

theorem keeps_createObject {c : Nat} {d : ObjDesc} (hz : Keeps s₀ s) : Keeps s₀ (createObject c d s).2 := by
  unfold createObject
  try dsimp only
  with_reducible repeat' first
    | exact hz | refine keeps_createQueue ?_ | refine keeps_createChannel ?_ | refine keeps_createWindow ?_ | refine keeps_createGroup ?_
    | refine keeps_createConv ?_ | refine keeps_createStream ?_ | refine keeps_createCursor ?_ | refine keeps_createEndpoint ?_
    | refine keeps_zjpFail ?_ | split

theorem keeps_execObjCreate {z : ZjpReq} {d : ObjDesc} (hz : Keeps s₀ s) (he : execObjCreate z d s = .next t) : Keeps s₀ t := by
  unfold execObjCreate at he; injection he with he; subst he; try dsimp only
  with_reducible repeat' first | exact hz | assumption | refine keeps_zjpLive ?_ ?_ | refine keeps_createObject ?_ | intro _

theorem keeps_destroyQueue {h : Word} (hz : Keeps s₀ s) : Keeps s₀ (destroyQueue h s) := by
  unfold destroyQueue
  try dsimp only
  with_reducible repeat' first
    | exact hz | assumption | refine keeps_forL ?_ ?_ | refine keeps_cplDrop ?_ | refine keeps_modCtx ?_ | intro _ | split
    | refine Keeps.of ?_ rfl rfl rfl rfl

theorem keeps_destroyGroup {gs : Nat} (hz : Keeps s₀ s) : Keeps s₀ (destroyGroup gs s) := by
  unfold destroyGroup
  try dsimp only
  with_reducible repeat' first
    | exact hz | assumption | refine keeps_forL ?_ ?_ | refine keeps_runEnd ?_ | refine keeps_loseStore ?_ | intro _ | split
    | refine Keeps.of ?_ rfl rfl rfl rfl

theorem keeps_destroyWindow {die slot : Nat} (hz : Keeps s₀ s) : Keeps s₀ (destroyWindow die slot s) := by
  unfold destroyWindow
  try dsimp only
  with_reducible repeat' first
    | exact hz | assumption | refine keeps_forL ?_ ?_ | refine keeps_unmapLeaf ?_ | intro _ | split | refine Keeps.of ?_ rfl rfl rfl rfl

theorem keeps_destroyObject {h : Word} (hz : Keeps s₀ s) : Keeps s₀ (destroyObject h s) := by
  unfold destroyObject
  try dsimp only
  with_reducible repeat' first
    | exact hz | refine keeps_slotDestroy ?_ | refine keeps_destroyQueue ?_ | refine keeps_destroyWindow ?_ | refine keeps_destroyGroup ?_
    | split | refine Keeps.of ?_ rfl rfl rfl rfl

theorem keeps_execObjDestroy {z : ZjpReq} {h : Word} (hz : Keeps s₀ s) (he : execObjDestroy z h s = .next t) : Keeps s₀ t := by
  unfold execObjDestroy at he; injection he with he; subst he; try dsimp only
  with_reducible repeat' first
    | exact hz | assumption | refine keeps_zjpLive ?_ ?_ | refine keeps_zjpFail ?_ | refine keeps_destroyObject ?_ | refine keeps_zjpOk ?_
    | intro _ | split | refine Keeps.of ?_ rfl rfl rfl rfl

theorem keeps_execServe {z : ZjpReq} (hz : Keeps s₀ s) (he : execServe z s = .next t) : Keeps s₀ t := by
  unfold execServe at he; injection he with he; subst he; try dsimp only
  with_reducible repeat' first
    | exact hz | assumption | refine keeps_zjpCtx ?_ ?_ | refine keeps_zjpFail ?_ | refine keeps_judgeEntry ?_ | refine keeps_modSvc ?_
    | intro _ | split

theorem keeps_serveEnd {port : Nat} {v : Serve} {status sub : Nat} {body : List Byte} (hz : Keeps s₀ s) : Keeps s₀ (serveEnd port v
    status sub body s) := by
  unfold serveEnd
  try dsimp only
  with_reducible repeat' first | exact hz | refine keeps_zjpDeliver ?_ | refine keeps_modSvc ?_

theorem keeps_execServeTimeout {port reqId : Nat} (hz : Keeps s₀ s) (he : execServeTimeout port reqId s = .next t) : Keeps s₀ t := by
  unfold execServeTimeout at he; injection he with he; subst he; try dsimp only
  with_reducible repeat' first | exact hz | refine keeps_serveEnd ?_ | refine keeps_zjpError ?_ | split

theorem keeps_svcDone {j : SvcJob} {status sub : Nat} (hz : Keeps s₀ s) : Keeps s₀ (svcDone j status sub s) := by
  unfold svcDone
  try dsimp only
  with_reducible repeat' first | exact hz | refine keeps_svcComplete ?_

theorem keeps_svcStart {die slot : Nat} {mine : Nat → Bool} {body : SvcJob → State → State} (hbody : ∀ x0 x1, Keeps s₀ x1 → Keeps s₀
    (body x0 x1)) (hz : Keeps s₀ s) : Keeps s₀ (svcStart die slot mine body s) := by
  unfold svcStart
  try dsimp only
  with_reducible repeat' first
    | exact hz | refine keeps_vRead ?_ | refine keeps_consumeHead ?_ | refine keeps_svcDone ?_ | (apply hbody)
    | refine keeps_ite (fun _ => ?_) (fun _ => ?_) | split

theorem keeps_svcRead {die c va n : Nat} (hz : Keeps s₀ s) : Keeps s₀ (svcRead die c va n s).2 := by
  unfold svcRead
  extract_lets r
  have h : Keeps s₀ r.2 := by
    dsimp only [r]
    split
    · exact hz
    · split
      · next e => exact keeps_pair e (keeps_verifyAll hz)
      · next e => exact keeps_gRead (keeps_pair e (keeps_verifyAll hz))
  clear_value r
  split
  · exact h
  · split <;> exact h

theorem keeps_execReply {die slot : Nat} (hz : Keeps s₀ s) (he : execReply die slot s = .next t) : Keeps s₀ t := by
  unfold execReply at he; injection he with he; subst he; try dsimp only
  with_reducible repeat' first
    | exact hz | assumption | refine keeps_svcStart ?_ ?_ | refine keeps_svcDone ?_ | refine keeps_serveEnd ?_ | refine keeps_svcRead ?_
    | refine keeps_pair (by assumption) ?_ | refine keeps_ite (fun _ => ?_) (fun _ => ?_) | intro _ | split

theorem keeps_modQp {port qpn : Nat} {f : QueuePair → QueuePair} (hz : Keeps s₀ s) : Keeps s₀ (modQp port qpn f s) := by
  unfold modQp
  try dsimp only
  with_reducible repeat' first | exact hz | refine keeps_modSvc ?_

theorem keeps_svcQp {j : SvcJob} {body : QueuePair → State → State} (hbody : ∀ x0 x1, Keeps s₀ x1 → Keeps s₀ (body x0 x1)) (hz : Keeps s₀
    s) : Keeps s₀ (svcQp j body s) := by
  unfold svcQp
  try dsimp only
  with_reducible repeat' first | exact hz | refine keeps_svcDone ?_ | (apply hbody) | refine keeps_ite (fun _ => ?_) (fun _ => ?_) | split

theorem keeps_svcLaunch {j : SvcJob} {q : QueuePair} {pkts : Nat} {data : List Byte} (hz : Keeps s₀ s) : Keeps s₀ (svcLaunch j q pkts
    data s) := by
  unfold svcLaunch
  try dsimp only
  with_reducible repeat' first | exact hz | refine keeps_modQp ?_ | refine keeps_countTx ?_ | refine keeps_emit ?_ | refine keeps_modSvc ?_

theorem keeps_svcTransmit {j : SvcJob} (hz : Keeps s₀ s) : Keeps s₀ (svcTransmit j s) := by
  unfold svcTransmit
  try dsimp only
  with_reducible repeat' first
    | exact hz | assumption | refine keeps_svcQp ?_ ?_ | refine keeps_svcRead ?_ | refine keeps_svcDone ?_ | refine keeps_svcLaunch ?_
    | refine keeps_pair (by assumption) ?_ | intro _ | split

theorem keeps_execRdmaWrite {die slot : Nat} (hz : Keeps s₀ s) (he : execRdmaWrite die slot s = .next t) : Keeps s₀ t := by
  unfold execRdmaWrite at he; injection he with he; subst he; try dsimp only
  with_reducible repeat' first | exact hz | assumption | refine keeps_svcStart ?_ ?_ | refine keeps_svcTransmit ?_ | intro _

theorem keeps_execRdmaRead {die slot : Nat} (hz : Keeps s₀ s) (he : execRdmaRead die slot s = .next t) : Keeps s₀ t := by
  unfold execRdmaRead at he; injection he with he; subst he; try dsimp only
  with_reducible repeat' first
    | exact hz | assumption | refine keeps_svcStart ?_ ?_ | refine keeps_svcQp ?_ ?_ | refine keeps_svcLaunch ?_ | intro _

theorem keeps_execSend {die slot : Nat} (hz : Keeps s₀ s) (he : execSend die slot s = .next t) : Keeps s₀ t := by
  unfold execSend at he; injection he with he; subst he; try dsimp only
  with_reducible repeat' first | exact hz | assumption | refine keeps_svcStart ?_ ?_ | refine keeps_svcTransmit ?_ | intro _

theorem keeps_onRoce {port : Nat} {f : Frame} {qpn : Nat} {k : State → State} (hk : ∀ x0, Keeps s₀ x0 → Keeps s₀ (k x0)) (hz : Keeps s₀
    s) : Keeps s₀ (onRoce port f qpn k s) := by
  unfold onRoce
  try dsimp only
  with_reducible repeat' first
    | exact hz | assumption | refine keeps_onFrame ?_ ?_ | refine keeps_zjpHeard ?_ | refine keeps_emit ?_ | refine keeps_countTx ?_
    | (apply hk) | refine keeps_ite (fun _ => ?_) (fun _ => ?_) | intro _

theorem keeps_execServiceEntryAcked {port : Nat} {h : RoceHead} {data : List Byte} (hz : Keeps s₀ s) (he : execServiceEntryAcked
    port h data s = .next t) : Keeps s₀ t := by
  unfold execServiceEntryAcked at he; injection he with he; subst he; try dsimp only
  with_reducible repeat' first
    | exact hz | assumption | refine keeps_onRoce ?_ ?_ | refine keeps_countRx ?_ | refine keeps_modQp ?_ | refine keeps_svcComplete ?_
    | refine keeps_gWriteC ?_ | refine keeps_pair (by assumption) ?_ | refine keeps_ite (fun _ => ?_) (fun _ => ?_) | intro _ | split

theorem keeps_execQpConnect {z : ZjpReq} {peer psn qpn : Nat} (hz : Keeps s₀ s) (he : execQpConnect z peer psn qpn s = .next t) : Keeps
    s₀ t := by
  unfold execQpConnect at he; injection he with he; subst he; try dsimp only
  with_reducible repeat' first
    | exact hz | assumption | refine keeps_zjpLive ?_ ?_ | refine keeps_zjpFail ?_ | refine keeps_recContended ?_ | refine keeps_draw ?_
    | refine keeps_zjpOk ?_ | refine keeps_modSvc ?_ | intro _ | split

theorem keeps_failRuns {port qpn status sub : Nat} (hz : Keeps s₀ s) : Keeps s₀ (failRuns port qpn status sub s) := by
  unfold failRuns
  try dsimp only
  with_reducible repeat' first | exact hz | assumption | refine keeps_forL ?_ ?_ | refine keeps_svcComplete ?_ | intro _

theorem keeps_execQpClose {z : ZjpReq} {qpn : Nat} (hz : Keeps s₀ s) (he : execQpClose z qpn s = .next t) : Keeps s₀ t := by
  unfold execQpClose at he; injection he with he; subst he; try dsimp only
  with_reducible repeat' first
    | exact hz | assumption | refine keeps_zjpLive ?_ ?_ | refine keeps_zjpFail ?_ | refine keeps_failRuns ?_ | refine keeps_zjpOk ?_
    | refine keeps_modSvc ?_ | intro _ | split

theorem keeps_execMrRegister {z : ZjpReq} {va len perm : Nat} (hz : Keeps s₀ s) (he : execMrRegister z va len perm s = .next t) : Keeps
    s₀ t := by
  unfold execMrRegister at he; injection he with he; subst he; try dsimp only
  with_reducible repeat' first
    | exact hz | assumption | refine keeps_zjpLive ?_ ?_ | refine keeps_zjpFail ?_ | refine keeps_zjpOk ?_ | refine keeps_modSvc ?_
    | intro _ | split

theorem keeps_execMrDeregister {z : ZjpReq} {rkey : Nat} (hz : Keeps s₀ s) (he : execMrDeregister z rkey s = .next t) : Keeps s₀ t := by
  unfold execMrDeregister at he; injection he with he; subst he; try dsimp only
  with_reducible repeat' first
    | exact hz | assumption | refine keeps_zjpLive ?_ ?_ | refine keeps_zjpFail ?_ | refine keeps_zjpOk ?_ | refine keeps_modSvc ?_
    | intro _ | split

theorem keeps_inboundNak {port qpn kind : Nat} (hz : Keeps s₀ s) : Keeps s₀ (inboundNak port qpn kind s) := by
  unfold inboundNak
  try dsimp only
  with_reducible repeat' first
    | exact hz | refine keeps_countDrop ?_ | refine keeps_emit ?_ | refine keeps_countTx ?_ | refine keeps_ite (fun _ => ?_) (fun _ => ?_)

theorem keeps_roceReply {port qpn kind : Nat} (hz : Keeps s₀ s) : Keeps s₀ (roceReply port qpn kind s) := by
  unfold roceReply
  try dsimp only
  with_reducible repeat' first | exact hz | refine keeps_emit ?_ | refine keeps_countTx ?_

theorem keeps_inPsn {port qpn psn pkts : Nat} {again k : State → State} (hagain : ∀ x0, Keeps s₀ x0 → Keeps s₀ (again x0)) (hk : ∀ x0,
    Keeps s₀ x0 → Keeps s₀ (k x0)) (hz : Keeps s₀ s) : Keeps s₀ (inPsn port qpn psn pkts again k s) := by
  unfold inPsn
  split
  · exact hk _ hz
  · exact keeps_ite (fun _ => hk _ (keeps_modQp hz)) (fun _ => keeps_ite (fun _ => keeps_roceReply hz) (fun _ => hagain _ hz))

theorem keeps_inboundPuts {c : Nat} {l : List (Byte × Bool)} {ms : List DmaMove} (hz : Keeps s₀ s) : Keeps s₀ (inboundPuts c l ms s) :=
    by
  unfold inboundPuts
  try dsimp only
  with_reducible repeat' first
    | exact hz | assumption | refine keeps_forL ?_ ?_ | refine keeps_fabIssue ?_ | refine keeps_fabFail ?_
    | refine keeps_ite (fun _ => ?_) (fun _ => ?_) | intro _ | split

theorem keeps_inboundWrite {port c va : Nat} {l : List (Byte × Bool)} (hz : Keeps s₀ s) : Keeps s₀ (inboundWrite port c va l s).2 := by
  unfold inboundWrite
  try dsimp only
  with_reducible repeat' first
    | exact hz | assumption | refine keeps_foldl_snd ?_ ?_ | refine keeps_gWriteC ?_ | refine keeps_inboundPuts ?_ | intro _ | split

theorem keeps_execInboundRdmaWrite {port : Nat} {h : RoceHead} {rkey va : Nat} {data : List Byte} (hz : Keeps s₀ s) (he :
    execInboundRdmaWrite port h rkey va data s = .next t) : Keeps s₀ t := by
  unfold execInboundRdmaWrite at he; injection he with he; subst he; try dsimp only
  with_reducible repeat' first
    | exact hz | assumption | refine keeps_onRoce ?_ ?_ | refine keeps_inPsn ?_ ?_ ?_ | refine keeps_roceReply ?_
    | refine keeps_countRx ?_ | refine keeps_inboundNak ?_ | refine keeps_inboundWrite ?_ | refine keeps_recErr ?_
    | refine keeps_killForPoison ?_ | refine keeps_pair (by assumption) ?_ | refine keeps_ite (fun _ => ?_) (fun _ => ?_) | intro _
    | split

theorem keeps_inboundRead {port qpn rkey va len : Nat} (hz : Keeps s₀ s) : Keeps s₀ (inboundRead port qpn rkey va len s) := by
  unfold inboundRead
  try dsimp only
  with_reducible repeat' first
    | exact hz | refine keeps_inboundNak ?_ | refine keeps_svcRead ?_ | refine keeps_emit ?_ | refine keeps_countTx ?_
    | refine keeps_recErr ?_ | refine keeps_poisonKill ?_ | refine keeps_pair (by assumption) ?_
    | refine keeps_ite (fun _ => ?_) (fun _ => ?_) | split

theorem keeps_execInboundRdmaRead {port : Nat} {h : RoceHead} {rkey va len : Nat} (hz : Keeps s₀ s) (he : execInboundRdmaRead port h
    rkey va len s = .next t) : Keeps s₀ t := by
  unfold execInboundRdmaRead at he; injection he with he; subst he; try dsimp only
  with_reducible repeat' first
    | exact hz | assumption | refine keeps_onRoce ?_ ?_ | refine keeps_inPsn ?_ ?_ ?_ | refine keeps_inboundRead ?_ | intro _

theorem keeps_execRoceRetryTimeout {port qpn acked : Nat} (hz : Keeps s₀ s) (he : execRoceRetryTimeout port qpn acked s = .next t) :
    Keeps s₀ t := by
  unfold execRoceRetryTimeout at he; injection he with he; subst he; try dsimp only
  with_reducible repeat' first
    | exact hz | refine keeps_bump ?_ | refine keeps_countTx ?_ | refine keeps_modQp ?_ | refine keeps_ite (fun _ => ?_) (fun _ => ?_)
    | split

theorem keeps_execQpRetryExhausted {port qpn : Nat} (hz : Keeps s₀ s) (he : execQpRetryExhausted port qpn s = .next t) : Keeps s₀ t := by
  unfold execQpRetryExhausted at he; injection he with he; subst he; try dsimp only
  with_reducible repeat' first
    | exact hz | refine keeps_failRuns ?_ | refine keeps_modQp ?_ | refine keeps_ite (fun _ => ?_) (fun _ => ?_) | split

theorem keeps_loseLines (hz : Keeps s₀ s) : Keeps s₀ (loseLines s) := by
  unfold loseLines
  refine keeps_forL (fun la t ht => Keeps.of_put ht rfl rfl (Nat.le_refl _) rfl) ?_
  exact Keeps.of_draw hz rfl rfl rfl rfl

theorem keeps_resetLogic {s0 : State} (hz : Keeps s₀ s0) : Keeps s₀ (resetLogic s0) := by
  unfold resetLogic
  try dsimp only
  with_reducible repeat' first
    | exact hz | assumption | refine keeps_forL ?_ ?_ | refine keeps_forN ?_ ?_ | refine keeps_loseLines ?_ | refine keeps_nextRebuild ?_
    | intro _ | refine Keeps.of ?_ rfl rfl rfl rfl

theorem keeps_fenceDie {cause d : Nat} (hz : Keeps s₀ s) : Keeps s₀ (fenceDie cause d s) := by
  unfold fenceDie
  try dsimp only
  with_reducible repeat' first
    | exact hz | assumption | refine keeps_forN ?_ ?_ | refine keeps_abandonTests ?_ | refine keeps_setReg ?_ | refine keeps_toBypass ?_
    | refine keeps_logDry ?_ | refine keeps_ite (fun _ => ?_) (fun _ => ?_) | intro _ | refine Keeps.of_clear ?_ rfl rfl rfl rfl

theorem keeps_fenceDies {cause : Nat} {l : List Nat} (hz : Keeps s₀ s) : Keeps s₀ (fenceDies cause l s) := by
  unfold fenceDies
  try dsimp only
  with_reducible repeat' first
    | exact hz | assumption | refine keeps_forL ?_ ?_ | refine keeps_fenceDie ?_ | refine keeps_ite (fun _ => ?_) (fun _ => ?_) | intro _

theorem keeps_bringLive {d : Nat} (hz : Keeps s₀ s) : Keeps s₀ (bringLive d s) := by
  unfold bringLive
  try dsimp only
  with_reducible repeat' first | exact hz | refine keeps_setReg ?_ | refine keeps_ite (fun _ => ?_) (fun _ => ?_)

theorem keeps_setPhase {n : Nat} (hz : Keeps s₀ s) : Keeps s₀ (setPhase n s) := by
  unfold setPhase
  try dsimp only
  with_reducible repeat' first | exact hz | refine keeps_modSys ?_ | refine keeps_setField ?_

theorem keeps_logPhase {restart : Bool} (hz : Keeps s₀ s) : Keeps s₀ (logPhase restart s) := by
  unfold logPhase
  try dsimp only
  with_reducible repeat' first | exact hz | refine keeps_logDry ?_

theorem keeps_declareFailed {cause : Nat} (hz : Keeps s₀ s) : Keeps s₀ (declareFailed cause s) := by
  unfold declareFailed
  try dsimp only
  with_reducible repeat' first
    | exact hz | assumption | refine keeps_forL ?_ ?_ | refine keeps_logDry ?_ | refine keeps_setPend ?_ | refine keeps_setField ?_
    | refine keeps_setPhase ?_ | refine keeps_allBypass ?_ | refine keeps_modSys ?_ | refine keeps_setSvcState ?_ | refine keeps_modSvc ?_
    | refine keeps_ite (fun _ => ?_) (fun _ => ?_) | intro _

theorem keeps_closeGate (hz : Keeps s₀ s) : Keeps s₀ (closeGate s) := by
  unfold closeGate
  try dsimp only
  with_reducible repeat' first | exact hz | refine keeps_setField ?_

theorem keeps_beginReset {trigger detail : Nat} (hz : Keeps s₀ s) : Keeps s₀ (beginReset trigger detail s) := by
  unfold beginReset
  try dsimp only
  with_reducible repeat' first
    | exact hz | refine keeps_bumpSat ?_ | refine keeps_logDry ?_ | refine keeps_setField ?_ | refine keeps_closeGate ?_
    | refine keeps_modSys ?_

theorem keeps_startWake (hz : Keeps s₀ s) : Keeps s₀ (startWake s) := by
  unfold startWake
  try dsimp only
  with_reducible repeat' first | exact hz | refine keeps_modSys ?_ | refine keeps_newHandleKey ?_ | refine keeps_beginReset ?_ | split

theorem keeps_phaseOne (hz : Keeps s₀ s) : Keeps s₀ (phaseOne s) := by
  unfold phaseOne
  try dsimp only
  with_reducible repeat' first
    | exact hz | assumption | refine keeps_forL ?_ ?_ | refine keeps_allBypass ?_ | refine keeps_abandonTests ?_
    | refine keeps_setPhase ?_ | intro _

theorem keeps_startRecovery {trigger detail : Nat} (hz : Keeps s₀ s) : Keeps s₀ (startRecovery trigger detail s) := by
  unfold startRecovery
  try dsimp only
  with_reducible repeat' first
    | exact hz | refine keeps_startWake ?_ | refine keeps_modSys ?_ | refine keeps_logDry ?_ | refine keeps_declareFailed ?_
    | refine keeps_beginReset ?_ | refine keeps_phaseOne ?_ | refine keeps_ite (fun _ => ?_) (fun _ => ?_) | split

theorem keeps_takeDump (hz : Keeps s₀ s) : Keeps s₀ (takeDump s) := by
  unfold takeDump
  try dsimp only
  with_reducible repeat' first | exact hz | refine keeps_setReg ?_ | refine keeps_modSys ?_

theorem keeps_execDumpNoResponse {page off : Nat} (hz : Keeps s₀ s) (he : execDumpNoResponse page off s = .next t) : Keeps s₀ t := by
  unfold execDumpNoResponse at he; injection he with he; subst he; try dsimp only
  with_reducible repeat' first
    | exact hz | refine keeps_logDry ?_ | refine keeps_modSys ?_ | refine keeps_ite (fun _ => ?_) (fun _ => ?_) | split

theorem keeps_execDumpCut {pages : Nat} (hz : Keeps s₀ s) (he : execDumpCut pages s = .next t) : Keeps s₀ t := by
  unfold execDumpCut at he; injection he with he; subst he; try dsimp only
  with_reducible repeat' first | exact hz | refine keeps_logDry ?_ | refine keeps_modSys ?_ | refine keeps_ite (fun _ => ?_) (fun _ => ?_)

theorem keeps_calibrate {bad : List Nat} (hz : Keeps s₀ s) : Keeps s₀ (calibrate bad s) := by
  unfold calibrate
  try dsimp only
  with_reducible repeat' first
    | exact hz | assumption | refine keeps_forL ?_ ?_ | refine keeps_forN ?_ ?_ | refine keeps_setField ?_ | refine keeps_bumpSat ?_
    | refine keeps_setReg ?_ | refine keeps_ite (fun _ => ?_) (fun _ => ?_) | intro _ | split

theorem keeps_openPairs (hz : Keeps s₀ s) : Keeps s₀ (openPairs s) := by
  unfold openPairs
  try dsimp only
  with_reducible repeat' first
    | exact hz | assumption | refine keeps_forN ?_ ?_ | refine keeps_openPair ?_ | refine keeps_ite (fun _ => ?_) (fun _ => ?_) | intro _

theorem keeps_bootPhase (hz : Keeps s₀ s) (he : (bootPhase s) = some t) : Keeps s₀ t := by
  unfold bootPhase at he
  rw [Option.map_eq_some_iff] at he
  obtain ⟨u, hu, rfl⟩ := he
  exact keeps_newNonce (keeps_newHandleKey (keeps_bootImage hz))

theorem keeps_endReset (hz : Keeps s₀ s) : Keeps s₀ (endReset s) := by
  unfold endReset
  try dsimp only
  with_reducible repeat' first
    | exact hz | refine keeps_modSys ?_ | refine keeps_setField ?_ | refine keeps_setPhase ?_ | refine keeps_setPend ?_
    | refine keeps_setReg ?_ | refine keeps_logDry ?_ | refine keeps_ite (fun _ => ?_) (fun _ => ?_)

theorem keeps_nextOrFail {n : Nat} (hz : Keeps s₀ s) : Keeps s₀ (nextOrFail n s) := by
  unfold nextOrFail
  try dsimp only
  with_reducible repeat' first
    | exact hz | refine keeps_declareFailed ?_ | refine keeps_setPhase ?_ | refine keeps_ite (fun _ => ?_) (fun _ => ?_)

theorem keeps_execRecoveryPhaseComplete {bad : List Nat} (hz : Keeps s₀ s) (he : execRecoveryPhaseComplete bad s = .next t) : Keeps s₀ t
    := by
  unfold execRecoveryPhaseComplete at he; injection he with he; subst he; try dsimp only
  with_reducible repeat' first
    | exact hz | assumption | refine keeps_forN ?_ ?_ | refine keeps_setPhase ?_ | refine keeps_logPhase ?_ | refine keeps_resetLogic ?_
    | refine keeps_takeDump ?_ | refine keeps_bootPhase ?_ (by assumption) | refine keeps_discover ?_ | refine keeps_bringLive ?_
    | refine keeps_nextOrFail ?_ | refine keeps_fenceDies ?_ | refine keeps_calibrate ?_ | refine keeps_loadCfg ?_
    | refine keeps_settleFloors ?_ | refine keeps_selectCfg ?_ | refine keeps_cadEvent ?_ | refine keeps_openPairs ?_
    | refine keeps_endReset ?_ | refine keeps_ite (fun _ => ?_) (fun _ => ?_) | intro _ | split

theorem keeps_execRecoveryPhaseOverrun (hz : Keeps s₀ s) (he : execRecoveryPhaseOverrun s = .next t) : Keeps s₀ t := by
  unfold execRecoveryPhaseOverrun at he; injection he with he; subst he; try dsimp only
  with_reducible repeat' first
    | exact hz | refine keeps_setPhase ?_ | refine keeps_resetLogic ?_ | refine keeps_allBypass ?_ | refine keeps_logPhase ?_
    | refine keeps_modSys ?_ | refine keeps_ite (fun _ => ?_) (fun _ => ?_)

theorem keeps_execResetLimitExpiry (hz : Keeps s₀ s) (he : execResetLimitExpiry s = .next t) : Keeps s₀ t := by
  unfold execResetLimitExpiry at he; injection he with he; subst he; try dsimp only
  with_reducible repeat' first | exact hz | refine keeps_declareFailed ?_ | refine keeps_ite (fun _ => ?_) (fun _ => ?_)

theorem keeps_execRstN (hz : Keeps s₀ s) (he : execRstN s = .next t) : Keeps s₀ t := by
  unfold execRstN at he; injection he with he; subst he; try dsimp only
  with_reducible repeat' first
    | exact hz | refine keeps_closeGate ?_ | refine keeps_modSys ?_ | refine keeps_startRecovery ?_
    | refine keeps_ite (fun _ => ?_) (fun _ => ?_)

theorem keeps_execRstNRelease (hz : Keeps s₀ s) (he : execRstNRelease s = .next t) : Keeps s₀ t := by
  unfold execRstNRelease at he; injection he with he; subst he; try dsimp only
  with_reducible repeat' first | exact hz | refine keeps_modSys ?_

theorem keeps_execResetReq (hz : Keeps s₀ s) (he : execResetReq s = .next t) : Keeps s₀ t := by
  unfold execResetReq at he; injection he with he; subst he; try dsimp only
  with_reducible repeat' first | exact hz | refine keeps_startRecovery ?_

theorem keeps_execHeartbeatTimeout {die : Nat} (hz : Keeps s₀ s) (he : execHeartbeatTimeout die s = .next t) : Keeps s₀ t := by
  unfold execHeartbeatTimeout at he; injection he with he; subst he; try dsimp only
  with_reducible repeat' first | exact hz | refine keeps_startRecovery ?_ | refine keeps_ite (fun _ => ?_) (fun _ => ?_)

theorem keeps_execCoreWdTimeout {die core : Nat} (hz : Keeps s₀ s) (he : execCoreWdTimeout die core s = .next t) : Keeps s₀ t := by
  unfold execCoreWdTimeout at he; injection he with he; subst he; try dsimp only
  with_reducible repeat' first | exact hz | refine keeps_startRecovery ?_ | refine keeps_ite (fun _ => ?_) (fun _ => ?_)

theorem keeps_execDryCoreKick {mask : Nat} (hz : Keeps s₀ s) (he : execDryCoreKick mask s = .next t) : Keeps s₀ t := by
  unfold execDryCoreKick at he; injection he with he; subst he; try dsimp only
  with_reducible repeat' first | exact hz | refine keeps_modSys ?_

theorem keeps_execOrrisWd {mismatch : Bool} (hz : Keeps s₀ s) (he : execOrrisWd mismatch s = .next t) : Keeps s₀ t := by
  unfold execOrrisWd at he; injection he with he; subst he; try dsimp only
  with_reducible repeat' first
    | exact hz | refine keeps_setPend ?_ | refine keeps_bumpSat ?_ | refine keeps_startRecovery ?_
    | refine keeps_ite (fun _ => ?_) (fun _ => ?_)

theorem keeps_execLinkTxStall {port : Nat} (hz : Keeps s₀ s) (he : execLinkTxStall port s = .next t) : Keeps s₀ t := by
  unfold execLinkTxStall at he; injection he with he; subst he; try dsimp only
  with_reducible repeat' first | exact hz | refine keeps_startRecovery ?_ | refine keeps_ite (fun _ => ?_) (fun _ => ?_)

theorem keeps_execLoomWdStage1 {loom : Nat} {east : Bool} (hz : Keeps s₀ s) (he : execLoomWdStage1 loom east s = .next t) : Keeps s₀ t :=
    by
  unfold execLoomWdStage1 at he; injection he with he; subst he; try dsimp only
  with_reducible repeat' first
    | exact hz | refine keeps_modLoom ?_ | refine keeps_logDry ?_ | refine keeps_loomFault ?_
    | refine keeps_ite (fun _ => ?_) (fun _ => ?_) | split

theorem keeps_execLoomWdStage2 {loom : Nat} {east : Bool} (hz : Keeps s₀ s) (he : execLoomWdStage2 loom east s = .next t) : Keeps s₀ t :=
    by
  unfold execLoomWdStage2 at he; injection he with he; subst he; try dsimp only
  with_reducible repeat' first | exact hz | refine keeps_startRecovery ?_ | refine keeps_ite (fun _ => ?_) (fun _ => ?_)

theorem keeps_execPllLockLoss (hz : Keeps s₀ s) (he : execPllLockLoss s = .next t) : Keeps s₀ t := by
  unfold execPllLockLoss at he; injection he with he; subst he; try dsimp only
  with_reducible repeat' first
    | exact hz | refine keeps_setPend ?_ | refine keeps_bumpSat ?_ | refine keeps_setField ?_ | refine keeps_modSys ?_
    | refine keeps_startRecovery ?_ | refine keeps_ite (fun _ => ?_) (fun _ => ?_)

theorem keeps_execPllRelock (hz : Keeps s₀ s) (he : execPllRelock s = .next t) : Keeps s₀ t := by
  unfold execPllRelock at he; injection he with he; subst he; try dsimp only
  with_reducible repeat' first
    | exact hz | refine keeps_setField ?_ | refine keeps_modSys ?_ | refine keeps_phaseOne ?_
    | refine keeps_ite (fun _ => ?_) (fun _ => ?_)

theorem keeps_flushRing (hz : Keeps s₀ s) : Keeps s₀ (flushRing s) := by
  unfold flushRing
  try dsimp only
  with_reducible repeat' first | exact hz | refine keeps_setReg ?_ | refine keeps_bumpSat ?_ | refine keeps_modSys ?_

end Sys2Proof.Machine
end

