-- ==== Sys2Proof/Laws/Keeps5.lean ====
section
/-! SUPPORT. What every operation and meaning keeps (`Keeps`), part 5: one lemma each, in the order of the model. -/

set_option linter.all false

namespace Sys2Proof.Machine

variable {s₀ s t : State}

theorem keeps_restoreRing (hz : Keeps s₀ s) : Keeps s₀ (restoreRing s) := by
  unfold restoreRing
  try dsimp only
  with_reducible repeat' first
    | exact hz | refine keeps_modSys ?_ | refine keeps_logDry ?_ | refine keeps_setReg ?_ | refine keeps_setPend ?_ | split
    | refine Keeps.of ?_ rfl rfl rfl rfl

theorem keeps_powerLost (hz : Keeps s₀ s) : Keeps s₀ (powerLost s) := by
  unfold powerLost
  refine keeps_forL (fun _ _ ht => keeps_setReg ht) ?_
  exact ⟨fun _ => rfl, hz.pending, hz.draws, hz.outbox⟩

theorem keeps_powerFails {mv : Nat} (hz : Keeps s₀ s) : Keeps s₀ (powerFails mv s) := by
  unfold powerFails
  try dsimp only
  with_reducible repeat' first
    | exact hz | refine keeps_powerLost ?_ | refine keeps_flushRing ?_ | refine keeps_logDry ?_
    | refine keeps_ite (fun _ => ?_) (fun _ => ?_)

theorem keeps_execPowerFail {mv : Nat} (hz : Keeps s₀ s) (he : execPowerFail mv s = .next t) : Keeps s₀ t := by
  unfold execPowerFail at he; injection he with he; subst he; try dsimp only
  with_reducible repeat' first | exact hz | refine keeps_powerFails ?_ | refine keeps_ite (fun _ => ?_) (fun _ => ?_)

theorem keeps_execVinOvervoltage {mv : Nat} (hz : Keeps s₀ s) (he : execVinOvervoltage mv s = .next t) : Keeps s₀ t := by
  unfold execVinOvervoltage at he; injection he with he; subst he; try dsimp only
  with_reducible repeat' first | exact hz | refine keeps_powerFails ?_ | refine keeps_ite (fun _ => ?_) (fun _ => ?_)

theorem keeps_execPowerUp {mv : Nat} (hz : Keeps s₀ s) (he : execPowerUp mv s = .next t) : Keeps s₀ t := by
  unfold execPowerUp at he; injection he with he; subst he; try dsimp only
  with_reducible repeat' first | exact hz | refine keeps_setReg ?_ | refine keeps_modSys ?_ | refine keeps_ite (fun _ => ?_) (fun _ => ?_)

theorem keeps_startReference (hz : Keeps s₀ s) : Keeps s₀ (startReference s) := by
  unfold startReference
  try dsimp only
  with_reducible repeat' first
    | exact hz | refine keeps_setField ?_ | refine keeps_ite (fun _ => ?_) (fun _ => ?_) | refine Keeps.of ?_ rfl rfl rfl rfl

theorem keeps_execPowerUpPhaseComplete {bad : List Nat} (hz : Keeps s₀ s) (he : execPowerUpPhaseComplete bad s = .next t) : Keeps s₀ t :=
    by
  unfold execPowerUpPhaseComplete at he; injection he with he; subst he; try dsimp only
  with_reducible repeat' first
    | exact hz | refine keeps_modSys ?_ | refine keeps_startReference ?_ | refine keeps_setReg ?_ | refine keeps_setField ?_
    | refine keeps_restoreRing ?_ | refine keeps_beginReset ?_ | refine keeps_bootPhase ?_ (by assumption) | refine keeps_discover ?_
    | refine keeps_selectCfg ?_ | refine keeps_setPhase ?_ | refine keeps_fenceDies ?_ | refine keeps_ite (fun _ => ?_) (fun _ => ?_)
    | split

theorem keeps_diesOff (hz : Keeps s₀ s) : Keeps s₀ (diesOff s) := by
  unfold diesOff
  try dsimp only
  with_reducible repeat' first | exact hz | refine keeps_resetLogic ?_ | refine Keeps.of ?_ rfl rfl rfl rfl

theorem keeps_pcdOff (hz : Keeps s₀ s) : Keeps s₀ (pcdOff s) := by
  unfold pcdOff
  have h := keeps_flushRing hz
  exact ⟨fun _ => rfl, h.pending, h.draws, h.outbox⟩

theorem keeps_execPowerStateReached (hz : Keeps s₀ s) (he : execPowerStateReached s = .next t) : Keeps s₀ t := by
  unfold execPowerStateReached at he; injection he with he; subst he; try dsimp only
  with_reducible repeat' first
    | exact hz | refine keeps_zjpAnswer ?_ | refine keeps_diesOff ?_ | refine keeps_allBypass ?_ | refine keeps_modSys ?_
    | refine keeps_setField ?_ | refine keeps_pcdOff ?_ | refine keeps_startWake ?_ | refine keeps_ite (fun _ => ?_) (fun _ => ?_) | split

theorem keeps_wakeSource (hz : Keeps s₀ s) : Keeps s₀ (wakeSource s) := by
  unfold wakeSource
  try dsimp only
  with_reducible repeat' first
    | exact hz | refine keeps_modSys ?_ | refine keeps_startWake ?_ | refine keeps_ite (fun _ => ?_) (fun _ => ?_)

theorem keeps_execWakeN {low : Bool} (hz : Keeps s₀ s) (he : execWakeN low s = .next t) : Keeps s₀ t := by
  unfold execWakeN at he; injection he with he; subst he; try dsimp only
  with_reducible repeat' first
    | exact hz | refine keeps_modSys ?_ | refine keeps_wakeSource ?_ | refine keeps_ite (fun _ => ?_) (fun _ => ?_)

theorem keeps_execDieIdleEntry {die : Nat} (hz : Keeps s₀ s) (he : execDieIdleEntry die s = .next t) : Keeps s₀ t := by
  unfold execDieIdleEntry at he; injection he with he; subst he; try dsimp only
  with_reducible repeat' first | exact hz | refine keeps_setField ?_ | refine keeps_ite (fun _ => ?_) (fun _ => ?_)

theorem keeps_execDieIdleExit {die : Nat} (hz : Keeps s₀ s) (he : execDieIdleExit die s = .next t) : Keeps s₀ t := by
  unfold execDieIdleExit at he; injection he with he; subst he; try dsimp only
  with_reducible repeat' first | exact hz | refine keeps_setField ?_ | refine keeps_ite (fun _ => ?_) (fun _ => ?_)

theorem keeps_modGate {die : Nat} {f : Gate → Gate} (hz : Keeps s₀ s) : Keeps s₀ (modGate die f s) := by
  unfold modGate
  try dsimp only
  with_reducible repeat' first
    | exact hz | refine keeps_modSys ?_ | refine keeps_setPend ?_ | refine keeps_logDry ?_ | refine keeps_ite (fun _ => ?_) (fun _ => ?_)

theorem keeps_execThermalGateStep {die temp : Nat} (hz : Keeps s₀ s) (he : execThermalGateStep die temp s = .next t) : Keeps s₀ t := by
  unfold execThermalGateStep at he; injection he with he; subst he; try dsimp only
  with_reducible repeat' first | exact hz | refine keeps_modSys ?_ | refine keeps_modGate ?_ | refine keeps_ite (fun _ => ?_) (fun _ => ?_)

theorem keeps_execPowerLimitGate {watts level : Nat} (hz : Keeps s₀ s) (he : execPowerLimitGate watts level s = .next t) : Keeps s₀ t :=
    by
  unfold execPowerLimitGate at he; injection he with he; subst he; try dsimp only
  with_reducible repeat' first
    | exact hz | assumption | refine keeps_forL ?_ ?_ | refine keeps_setReg ?_ | refine keeps_modGate ?_ | intro _

theorem keeps_execVinLowGate {mv level : Nat} (hz : Keeps s₀ s) (he : execVinLowGate mv level s = .next t) : Keeps s₀ t := by
  unfold execVinLowGate at he; injection he with he; subst he; try dsimp only
  with_reducible repeat' first
    | exact hz | assumption | refine keeps_forL ?_ ?_ | refine keeps_setReg ?_ | refine keeps_modSys ?_ | refine keeps_modGate ?_ | intro _

theorem keeps_cmpFire {k v : Nat} (hz : Keeps s₀ s) : Keeps s₀ (cmpFire k v s) := by
  unfold cmpFire
  try dsimp only
  with_reducible repeat' first
    | exact hz | assumption | refine keeps_forL ?_ ?_ | refine keeps_modCmp ?_ | refine keeps_setField ?_ | refine keeps_logDry ?_
    | refine keeps_setPend ?_ | refine keeps_wakeSource ?_ | refine keeps_ite (fun _ => ?_) (fun _ => ?_) | intro _

theorem keeps_execComparatorFire {k v : Nat} (hz : Keeps s₀ s) (he : execComparatorFire k v s = .next t) : Keeps s₀ t := by
  unfold execComparatorFire at he; injection he with he; subst he; try dsimp only
  with_reducible repeat' first
    | exact hz | refine keeps_modSys ?_ | refine keeps_modCmp ?_ | refine keeps_cmpFire ?_ | refine keeps_ite (fun _ => ?_) (fun _ => ?_)

theorem keeps_execThermalTrip {dram : Bool} {die stack temp : Nat} (hz : Keeps s₀ s) (he : execThermalTrip dram die stack temp s = .next
    t) : Keeps s₀ t := by
  unfold execThermalTrip at he; injection he with he; subst he; try dsimp only
  with_reducible repeat' first
    | exact hz | refine keeps_declareFailed ?_ | refine keeps_setField ?_ | refine keeps_modSys ?_
    | refine keeps_ite (fun _ => ?_) (fun _ => ?_)

theorem keeps_execMgmtStatus {z : ZjpReq} (hz : Keeps s₀ s) (he : execMgmtStatus z s = .next t) : Keeps s₀ t := by
  unfold execMgmtStatus at he; injection he with he; subst he; try dsimp only
  with_reducible repeat' first | exact hz | assumption | refine keeps_zjpRun ?_ ?_ | refine keeps_zjpOk ?_ | intro _

theorem keeps_execDrydownRead {z : ZjpReq} (hz : Keeps s₀ s) (he : execDrydownRead z s = .next t) : Keeps s₀ t := by
  unfold execDrydownRead at he; injection he with he; subst he; try dsimp only
  with_reducible repeat' first
    | exact hz | assumption | refine keeps_zjpRun ?_ ?_ | refine keeps_zjpFail ?_ | refine keeps_zjpOk ?_ | intro _ | split

theorem keeps_execPolicySet {z : ZjpReq} {p : Policy} (hz : Keeps s₀ s) (he : execPolicySet z p s = .next t) : Keeps s₀ t := by
  unfold execPolicySet at he; injection he with he; subst he; try dsimp only
  with_reducible repeat' first
    | exact hz | assumption | refine keeps_zjpRun ?_ ?_ | refine keeps_zjpOk ?_ | refine keeps_modSys ?_ | intro _

theorem keeps_fabricSet {f : FabricSet} (hz : Keeps s₀ s) : Keeps s₀ (fabricSet f s) := by
  unfold fabricSet
  extract_lets s1 s2 s3 s4
  have h1 : Keeps s₀ s1 := by
    show Keeps s₀ (Option.elim _ _ _)
    cases f.position with
    | none => exact hz
    | some v => exact keeps_setPosition hz
  have h2 : Keeps s₀ s2 := keeps_forL (fun _ _ ht => Keeps.of ht rfl rfl rfl rfl) h1
  have h3 : Keeps s₀ s3 := keeps_forL (fun _ _ ht => keeps_setField ht) h2
  have h4 : Keeps s₀ s4 := keeps_forL (fun _ _ ht => keeps_setHold ht) h3
  exact keeps_ite (fun _ => h4) (fun _ => keeps_cadEvent h4)

theorem keeps_execFabricSet {z : ZjpReq} {f : FabricSet} (hz : Keeps s₀ s) (he : execFabricSet z f s = .next t) : Keeps s₀ t := by
  unfold execFabricSet at he; injection he with he; subst he; try dsimp only
  with_reducible repeat' first
    | exact hz | assumption | refine keeps_zjpRun ?_ ?_ | refine keeps_zjpOk ?_ | refine keeps_fabricSet ?_ | intro _

theorem keeps_execRecoveryReset {z : ZjpReq} (hz : Keeps s₀ s) (he : execRecoveryReset z s = .next t) : Keeps s₀ t := by
  unfold execRecoveryReset at he; injection he with he; subst he; try dsimp only
  with_reducible repeat' first
    | exact hz | assumption | refine keeps_zjpRun ?_ ?_ | refine keeps_zjpFail ?_ | refine keeps_recErr ?_ | refine keeps_zjpOk ?_
    | refine keeps_startRecovery ?_ | refine keeps_ite (fun _ => ?_) (fun _ => ?_) | intro _ | split

theorem keeps_powerSet {z : ZjpReq} (hz : Keeps s₀ s) : Keeps s₀ (powerSet z s).2 := by
  unfold powerSet
  try dsimp only
  with_reducible repeat' first
    | exact hz | refine keeps_zjpFail ?_ | refine keeps_recContended ?_ | refine keeps_zjpOk ?_ | refine keeps_recErr ?_
    | refine keeps_modSys ?_ | split

theorem keeps_execPowerSet {z : ZjpReq} (hz : Keeps s₀ s) (he : execPowerSet z s = .next t) : Keeps s₀ t := by
  unfold execPowerSet at he; injection he with he; subst he; try dsimp only
  with_reducible repeat' first
    | exact hz | assumption | refine keeps_zjpRun ?_ ?_ | refine keeps_powerSet ?_ | refine keeps_startWake ?_
    | refine keeps_ite (fun _ => ?_) (fun _ => ?_) | intro _

theorem keeps_orsFail {f : Nat × Nat} (hz : Keeps s₀ s) : Keeps s₀ (orsFail f s).2 := by
  unfold orsFail
  try dsimp only
  with_reducible repeat' first | exact hz | refine keeps_zjpFail ?_ | refine keeps_recErr ?_

theorem keeps_imageWrite {z : ZjpReq} (hz : Keeps s₀ s) : Keeps s₀ (imageWrite z s).2 := by
  unfold imageWrite
  try dsimp only
  with_reducible repeat' first
    | exact hz | refine keeps_zjpFail ?_ | refine keeps_recContended ?_ | refine keeps_orsFail ?_ | refine keeps_modSys ?_
    | refine keeps_setBank ?_ | split

theorem keeps_execImageWrite {z : ZjpReq} (hz : Keeps s₀ s) (he : execImageWrite z s = .next t) : Keeps s₀ t := by
  unfold execImageWrite at he; injection he with he; subst he; try dsimp only
  with_reducible repeat' first | exact hz | assumption | refine keeps_zjpRun ?_ ?_ | refine keeps_imageWrite ?_ | intro _

theorem keeps_execImageWriteComplete (hz : Keeps s₀ s) (he : execImageWriteComplete s = .next t) : Keeps s₀ t := by
  unfold execImageWriteComplete at he; injection he with he; subst he; try dsimp only
  with_reducible repeat' first | exact hz | refine keeps_zjpAnswer ?_ | refine keeps_modSys ?_ | refine keeps_setBank ?_ | split

theorem keeps_configWrite {z : ZjpReq} {r : CfgRec} (hz : Keeps s₀ s) : Keeps s₀ (configWrite z r s).2 := by
  unfold configWrite
  try dsimp only
  with_reducible repeat' first | exact hz | refine keeps_zjpFail ?_ | refine keeps_recContended ?_ | refine keeps_modSys ?_ | split

theorem keeps_execConfigWrite {z : ZjpReq} {r : CfgRec} (hz : Keeps s₀ s) (he : execConfigWrite z r s = .next t) : Keeps s₀ t := by
  unfold execConfigWrite at he; injection he with he; subst he; try dsimp only
  with_reducible repeat' first | exact hz | assumption | refine keeps_zjpRun ?_ ?_ | refine keeps_configWrite ?_ | intro _

theorem keeps_execConfigWriteComplete (hz : Keeps s₀ s) (he : execConfigWriteComplete s = .next t) : Keeps s₀ t := by
  unfold execConfigWriteComplete at he; injection he with he; subst he; try dsimp only
  with_reducible repeat' first | exact hz | refine keeps_modSys ?_ | refine keeps_zjpAnswer ?_ | refine keeps_recErr ?_ | split

theorem keeps_attest {c : Option Nat} {z : ZjpReq} (hz : Keeps s₀ s) : Keeps s₀ (attest c z s).2 := by
  unfold attest
  try dsimp only
  with_reducible repeat' first
    | exact hz | refine keeps_zjpFail ?_ | refine keeps_zjpOk ?_ | split | refine Keeps.of_draw ?_ rfl rfl rfl rfl

theorem keeps_execAttest {z : ZjpReq} (hz : Keeps s₀ s) (he : execAttest z s = .next t) : Keeps s₀ t := by
  unfold execAttest at he; injection he with he; subst he; try dsimp only
  with_reducible repeat' first
    | exact hz | assumption | refine keeps_zjpRun ?_ ?_ | refine keeps_attest ?_ | refine keeps_zjpLive ?_ ?_
    | refine keeps_ite (fun _ => ?_) (fun _ => ?_) | intro _

theorem keeps_execPtr {v : Nat} (hz : Keeps s₀ s) (he : execPtr v s = .next t) : Keeps s₀ t := by
  unfold execPtr at he; injection he with he; subst he; try dsimp only
  with_reducible repeat' first | exact hz | refine keeps_modSys ?_ | refine keeps_ite (fun _ => ?_) (fun _ => ?_)

theorem keeps_execSmbData (hz : Keeps s₀ s) (he : execSmbData s = .next t) : Keeps s₀ t := by
  unfold execSmbData at he; injection he with he; subst he; try dsimp only
  with_reducible repeat' first | exact hz | refine keeps_emit ?_ | refine keeps_modSys ?_ | refine keeps_ite (fun _ => ?_) (fun _ => ?_)

theorem keeps_execSmbStatus (hz : Keeps s₀ s) (he : execSmbStatus s = .next t) : Keeps s₀ t := by
  unfold execSmbStatus at he; injection he with he; subst he; try dsimp only
  with_reducible repeat' first | exact hz | refine keeps_emit ?_ | refine keeps_ite (fun _ => ?_) (fun _ => ?_)

theorem keeps_execAlertResponseRead (hz : Keeps s₀ s) (he : execAlertResponseRead s = .next t) : Keeps s₀ t := by
  unfold execAlertResponseRead at he; injection he with he; subst he; try dsimp only
  with_reducible repeat' first | exact hz | refine keeps_emit ?_ | refine keeps_modSys ?_ | refine keeps_ite (fun _ => ?_) (fun _ => ?_)

theorem keeps_execBypass (hz : Keeps s₀ s) (he : execBypass s = .next t) : Keeps s₀ t := by
  unfold execBypass at he; injection he with he; subst he; try dsimp only
  with_reducible repeat' first | exact hz | refine keeps_modSys ?_ | refine keeps_ite (fun _ => ?_) (fun _ => ?_)

theorem keeps_execIdcode (hz : Keeps s₀ s) (he : execIdcode s = .next t) : Keeps s₀ t := by
  unfold execIdcode at he; injection he with he; subst he; try dsimp only
  with_reducible repeat' first | exact hz | refine keeps_emit ?_ | refine keeps_modSys ?_ | refine keeps_ite (fun _ => ?_) (fun _ => ?_)

theorem keeps_execTrstN {low : Bool} (hz : Keeps s₀ s) (he : execTrstN low s = .next t) : Keeps s₀ t := by
  unfold execTrstN at he; injection he with he; subst he; try dsimp only
  with_reducible repeat' first | exact hz | refine keeps_modSys ?_

theorem keeps_execAuth {a : DbgAuth} (hz : Keeps s₀ s) (he : execAuth a s = .next t) : Keeps s₀ t := by
  unfold execAuth at he; injection he with he; subst he; try dsimp only
  with_reducible repeat' first
    | exact hz | refine keeps_modSys ?_ | refine keeps_setPend ?_ | refine keeps_setField ?_ | refine keeps_recErr ?_
    | refine keeps_newNonce ?_ | refine keeps_ite (fun _ => ?_) (fun _ => ?_)

theorem keeps_execDebugDurationExpiry (hz : Keeps s₀ s) (he : execDebugDurationExpiry s = .next t) : Keeps s₀ t := by
  unfold execDebugDurationExpiry at he; injection he with he; subst he; try dsimp only
  with_reducible repeat' first | exact hz | refine keeps_ite (fun _ => ?_) (fun _ => ?_) | refine keeps_closeGate ?_

theorem keeps_takeover (hz : Keeps s₀ s) : Keeps s₀ (takeover s) := by
  unfold takeover
  try dsimp only
  with_reducible repeat' first
    | exact hz | assumption | refine keeps_forL ?_ ?_ | refine keeps_setTwinState ?_ | refine keeps_modSys ?_ | refine keeps_openPair ?_
    | refine keeps_setHold ?_ | refine keeps_cadEvent ?_ | refine keeps_ite (fun _ => ?_) (fun _ => ?_) | intro _

theorem keeps_execTwinFail (hz : Keeps s₀ s) (he : execTwinFail s = .next t) : Keeps s₀ t := by
  unfold execTwinFail at he; injection he with he; subst he; try dsimp only
  with_reducible repeat' first | exact hz | refine keeps_takeover ?_ | refine keeps_modSys ?_ | refine keeps_ite (fun _ => ?_) (fun _ => ?_)

theorem keeps_execCadTwinTakeover (hz : Keeps s₀ s) (he : execCadTwinTakeover s = .next t) : Keeps s₀ t := by
  unfold execCadTwinTakeover at he; injection he with he; subst he; try dsimp only
  with_reducible repeat' first | exact hz | refine keeps_takeover ?_

theorem keeps_portReader {loom : Nat} {l : List (Nat × Nat)} {x : Reading} (hz : Keeps s₀ x.2) : Keeps s₀ (portReader loom l x).2.2 := by
  unfold portReader
  try dsimp only
  with_reducible repeat' first
    | exact hz | assumption | refine keeps_foldl_snd ?_ ?_ | refine keeps_verifyAll ?_ | refine keeps_engRead ?_
    | refine keeps_pair (by assumption) ?_ | intro _ | split

theorem keeps_execGo {loom : Nat} (hz : Keeps s₀ s) (he : execGo loom s = .next t) : Keeps s₀ t := by
  unfold execGo at he; injection he with he; subst he; try dsimp only
  with_reducible repeat' first
    | exact hz | refine keeps_recContended ?_ | refine keeps_setField ?_ | refine keeps_modLoom ?_
    | refine keeps_ite (fun _ => ?_) (fun _ => ?_)

theorem keeps_portRun {loom : Nat} {d : List Byte} (hz : Keeps s₀ s) : Keeps s₀ (portRun loom d s).2.2.2 := by
  unfold portRun
  try dsimp only
  with_reducible repeat' first
    | exact hz | assumption | refine keeps_forL ?_ ?_ | refine keeps_fetchA ?_ ?_ | refine keeps_portReader ?_ | refine keeps_fetchB ?_ ?_
    | refine keeps_engWrite ?_ | refine keeps_pair2 (by assumption) ?_ | intro _ | split

theorem keeps_execPortOpDone {loom : Nat} (hz : Keeps s₀ s) (he : execPortOpDone loom s = .next t) : Keeps s₀ t := by
  unfold execPortOpDone at he; injection he with he; subst he; try dsimp only
  with_reducible repeat' first
    | exact hz | refine keeps_portRun ?_ | refine keeps_recErr ?_ | refine keeps_setReg ?_ | refine keeps_setPend ?_
    | refine keeps_setField ?_ | refine keeps_modLoom ?_ | refine keeps_ite (fun _ => ?_) (fun _ => ?_) | split

theorem keeps_execFillDelivery {die la : Nat} (hz : Keeps s₀ s) (he : execFillDelivery die la s = .next t) : Keeps s₀ t := by
  unfold execFillDelivery at he; injection he with he; subst he; try dsimp only
  with_reducible repeat' first | exact hz | refine keeps_deliverFill ?_

theorem keeps_execDirReadRequest {die la : Nat} (hz : Keeps s₀ s) (he : execDirReadRequest die la s = .next t) : Keeps s₀ t := by
  unfold execDirReadRequest at he; injection he with he; subst he; try dsimp only
  with_reducible repeat' first | exact hz | refine keeps_dirRead ?_ | refine keeps_dirRoom ?_

theorem keeps_execDirMRequest {die la : Nat} (hz : Keeps s₀ s) (he : execDirMRequest die la s = .next t) : Keeps s₀ t := by
  unfold execDirMRequest at he; injection he with he; subst he; try dsimp only
  with_reducible repeat' first | exact hz | refine keeps_dirM ?_ | refine keeps_dirRoom ?_

theorem keeps_execReductionRegistration {die la : Nat} (hz : Keeps s₀ s) (he : execReductionRegistration die la s = .next t) : Keeps s₀ t
    := by
  unfold execReductionRegistration at he; injection he with he; subst he; try dsimp only
  with_reducible repeat' first
    | exact hz | refine keeps_registerLine ?_ | refine keeps_dirRoom ?_ | refine keeps_ite (fun _ => ?_) (fun _ => ?_)

theorem keeps_execRegistrationAck {die la : Nat} (hz : Keeps s₀ s) (he : execRegistrationAck die la s = .next t) : Keeps s₀ t := by
  unfold execRegistrationAck at he; injection he with he; subst he; try dsimp only
  with_reducible repeat' first | exact hz | refine keeps_ackLine ?_ | refine keeps_ite (fun _ => ?_) (fun _ => ?_)

theorem keeps_execMergeWriteback {die la : Nat} (hz : Keeps s₀ s) (he : execMergeWriteback die la s = .next t) : Keeps s₀ t := by
  unfold execMergeWriteback at he; injection he with he; subst he; try dsimp only
  with_reducible repeat' first | exact hz | refine keeps_mergeOut ?_ | refine keeps_settleLine ?_

theorem keeps_fetchLine {die ctx la : Nat} (hz : Keeps s₀ s) : Keeps s₀ (fetchLine die ctx la s) := by
  unfold fetchLine
  try dsimp only
  with_reducible repeat' first | exact hz | refine keeps_accessLine ?_

theorem keeps_pinRefused {die ctx la : Nat} (hz : Keeps s₀ s) : Keeps s₀ (pinRefused die ctx la s) := by
  unfold pinRefused
  try dsimp only
  with_reducible repeat' first | exact hz | refine keeps_fetchLine ?_ | refine keeps_bump ?_

theorem keeps_pinPlace {die ctx la : Nat} (hz : Keeps s₀ s) : Keeps s₀ (pinPlace die ctx la s).2 := by
  have hf : ∀ x, Keeps s₀ x → Keeps s₀ (pinPlace.pinFetch die ctx la x).2 := by
    intro x hx
    unfold pinPlace.pinFetch
    try dsimp only
    split
    · exact keeps_setPend (keeps_bumpSat (keeps_thrashMiss (keeps_bump hx)))
    · exact keeps_modSet (keeps_evictWay (keeps_thrashMiss (keeps_bump hx)))
  unfold pinPlace
  split
  · split
    · exact keeps_modLine (keeps_fetchLine hz)
    · exact hf _ (keeps_invalidate (keeps_dirRead hz))
  · exact hf _ (keeps_dirRead hz)

theorem keeps_pinPlace_pinFetch {die ctx la : Nat} (hz : Keeps s₀ s) : Keeps s₀ (pinPlace.pinFetch die ctx la s).2 := by
  unfold pinPlace.pinFetch
  try dsimp only
  with_reducible repeat' first
    | exact hz | refine keeps_thrashMiss ?_ | refine keeps_bump ?_ | refine keeps_setPend ?_ | refine keeps_bumpSat ?_
    | refine keeps_modSet ?_ | refine keeps_evictWay ?_ | split

theorem keeps_pinLine {die ctx la : Nat} (hz : Keeps s₀ s) : Keeps s₀ (pinLine die ctx la s).2 := by
  unfold pinLine
  try dsimp only
  with_reducible repeat' first
    | exact hz | refine keeps_pinRefused ?_ | refine keeps_pinPlace ?_ | refine keeps_bump ?_ | refine keeps_pair (by assumption) ?_
    | split

theorem keeps_unpinLine {die ctx la : Nat} (hz : Keeps s₀ s) : Keeps s₀ (unpinLine die ctx la s).2 := by
  unfold unpinLine
  try dsimp only
  with_reducible repeat' first | exact hz | refine keeps_modSet ?_ | split

theorem keeps_pinWalk {die ctx : Nat} {f : Nat → State → Nat × State} {n va : Nat} {counts : List Nat} (hf : ∀ x0 x1, Keeps s₀ x1 → Keeps
    s₀ (f x0 x1).2) (hz : Keeps s₀ s) : Keeps s₀ (pinWalk die ctx f n va counts s).2.2 := by
  induction n generalizing va counts s with
  | zero => exact hz
  | succ n ih =>
    unfold pinWalk
    try dsimp only
    split
    · exact hz
    · split
      · exact hz
      · split
        · exact ih (hf _ _ hz)
        · exact hz

theorem keeps_execPin {die slot : Nat} (hz : Keeps s₀ s) (he : execPin die slot s = .next t) : Keeps s₀ t := by
  unfold execPin at he; injection he with he; subst he; try dsimp only
  with_reducible repeat' first
    | exact hz | assumption | refine keeps_dmaStart ?_ ?_ | refine keeps_dmaFail ?_ | refine keeps_pinWalk ?_ ?_ | refine keeps_pinLine ?_
    | refine keeps_dmaFinish ?_ | refine keeps_pair2 (by assumption) ?_ | refine keeps_ite (fun _ => ?_) (fun _ => ?_) | intro _ | split

theorem keeps_execUnpin {die slot : Nat} (hz : Keeps s₀ s) (he : execUnpin die slot s = .next t) : Keeps s₀ t := by
  unfold execUnpin at he; injection he with he; subst he; try dsimp only
  with_reducible repeat' first
    | exact hz | assumption | refine keeps_dmaStart ?_ ?_ | refine keeps_dmaFail ?_ | refine keeps_pinWalk ?_ ?_
    | refine keeps_unpinLine ?_ | refine keeps_dmaFinish ?_ | refine keeps_pair2 (by assumption) ?_
    | refine keeps_ite (fun _ => ?_) (fun _ => ?_) | intro _ | split

theorem keeps_execThrashWindowEnd {die : Nat} (hz : Keeps s₀ s) (he : execThrashWindowEnd die s = .next t) : Keeps s₀ t := by
  unfold execThrashWindowEnd at he; injection he with he; subst he; try dsimp only
  with_reducible repeat' first | exact hz | refine keeps_modWeave ?_

theorem keeps_wvcDieCfg {die v : Nat} (hz : Keeps s₀ s) : Keeps s₀ (wvcDieCfg die v s) := by
  unfold wvcDieCfg
  try dsimp only
  with_reducible repeat' first | exact hz | refine keeps_recErr ?_ | refine keeps_setReg ?_ | refine keeps_ite (fun _ => ?_) (fun _ => ?_)

theorem keeps_wvcPartCfg {die v : Nat} (hz : Keeps s₀ s) : Keeps s₀ (wvcPartCfg die v s) := by
  unfold wvcPartCfg
  try dsimp only
  with_reducible repeat' first | exact hz | refine keeps_recErr ?_ | refine keeps_modWeave ?_ | refine keeps_ite (fun _ => ?_) (fun _ => ?_)

theorem keeps_execWvcConfigWrite {die : Nat} {dieCfg : Bool} {v : Nat} (hz : Keeps s₀ s) (he : execWvcConfigWrite die dieCfg v s = .next
    t) : Keeps s₀ t := by
  unfold execWvcConfigWrite at he; injection he with he; subst he; try dsimp only
  with_reducible repeat' first
    | exact hz | refine keeps_wvcDieCfg ?_ | refine keeps_wvcPartCfg ?_ | refine keeps_ite (fun _ => ?_) (fun _ => ?_)

theorem keeps_after {o : Host.Outcome State Fault Refusal} (ho : ∀ t, o = .next t → Keeps s₀ t) (hz : Keeps s₀ s) : Keeps s₀ (after o s)
    := by
  unfold after
  split
  · exact ho _ rfl
  · exact hz

theorem keeps_unbacked {who : Nat} (hz : Keeps s₀ s) : Keeps s₀ (unbacked who s) := by
  unfold unbacked
  try dsimp only
  with_reducible repeat' first | exact hz | refine keeps_recErr ?_ | refine keeps_ite (fun _ => ?_) (fun _ => ?_)

theorem keeps_pageRead {who n a : Nat} (hz : Keeps s₀ s) : Keeps s₀ (pageRead who n a s) := by
  unfold pageRead
  try dsimp only
  with_reducible repeat' first
    | exact hz | refine keeps_emit ?_ | refine keeps_unbacked ?_ | refine keeps_devRead ?_ | refine keeps_recErr ?_
    | refine keeps_readWord ?_ | refine keeps_ite (fun _ => ?_) (fun _ => ?_) | split

theorem keeps_execLowWordRead {who n a : Nat} (hz : Keeps s₀ s) (he : execLowWordRead who n a s = .next t) : Keeps s₀ t := by
  unfold execLowWordRead at he; injection he with he; subst he; try dsimp only
  with_reducible repeat' first | exact hz | refine keeps_pageRead ?_ | refine keeps_ite (fun _ => ?_) (fun _ => ?_)

theorem keeps_execHighWordRead {who a : Nat} (hz : Keeps s₀ s) (he : execHighWordRead who a s = .next t) : Keeps s₀ t := by
  unfold execHighWordRead at he; injection he with he; subst he; try dsimp only
  with_reducible repeat' first | exact hz | refine keeps_pageRead ?_ | refine keeps_ite (fun _ => ?_) (fun _ => ?_)

theorem keeps_alertsLeft (hz : Keeps s₀ s) : Keeps s₀ (alertsLeft s) := by
  unfold alertsLeft
  try dsimp only
  with_reducible repeat' first | exact hz | refine keeps_modSys ?_

theorem keeps_pendClear {page mask : Nat} (hz : Keeps s₀ s) : Keeps s₀ (pendClear page mask s) := by
  unfold pendClear
  try dsimp only
  with_reducible repeat' first
    | exact hz | refine keeps_setReg ?_ | refine keeps_setField ?_ | refine keeps_alertsLeft ?_ | refine keeps_intRise ?_
    | refine keeps_ite (fun _ => ?_) (fun _ => ?_) | split | refine Keeps.of ?_ rfl rfl rfl rfl

theorem keeps_maskWrite {page v : Nat} (hz : Keeps s₀ s) : Keeps s₀ (maskWrite page v s) := by
  unfold maskWrite
  try dsimp only
  with_reducible repeat' first
    | exact hz | refine keeps_setReg ?_ | refine keeps_alertsLeft ?_ | refine keeps_intRise ?_
    | refine keeps_ite (fun _ => ?_) (fun _ => ?_)

theorem keeps_ownerWrite {p : PageRef} {v : Nat} (hz : Keeps s₀ s) : Keeps s₀ (ownerWrite p v s) := by
  unfold ownerWrite
  try dsimp only
  with_reducible repeat' first | exact hz | refine keeps_setReg ?_ | refine keeps_ite (fun _ => ?_) (fun _ => ?_)

theorem keeps_dropSlice {die slice : Nat} (hz : Keeps s₀ s) : Keeps s₀ (dropSlice die slice s) := by
  unfold dropSlice
  refine Keeps.of ?_ rfl rfl rfl rfl
  refine keeps_forL (fun la t ht => Keeps.of_put ht rfl rfl (Nat.le_refl _) rfl) ?_
  exact Keeps.of_draw hz rfl rfl rfl rfl

theorem keeps_softPort {p : PageRef} (hz : Keeps s₀ s) : Keeps s₀ (softPort p s) := by
  unfold softPort
  try dsimp only
  with_reducible repeat' first
    | exact hz | refine keeps_setSvcState ?_ | refine keeps_unbindPort ?_ | refine keeps_modSvc ?_
    | refine keeps_ite (fun _ => ?_) (fun _ => ?_)

theorem keeps_softState {p : PageRef} (hz : Keeps s₀ s) : Keeps s₀ (softState p s) := by
  unfold softState
  try dsimp only
  with_reducible repeat' first
    | exact hz | assumption | refine keeps_forL ?_ ?_ | refine keeps_modLoom ?_ | refine keeps_dropSlice ?_ | refine keeps_modPort ?_
    | refine keeps_startTraining ?_ | refine keeps_modChk ?_ | refine keeps_abandonTests ?_ | refine keeps_beginStep ?_
    | refine keeps_modSil ?_ | refine keeps_modSys ?_ | refine keeps_ite (fun _ => ?_) (fun _ => ?_) | intro _ | split
    | refine Keeps.of ?_ rfl rfl rfl rfl

theorem keeps_softReset {p : PageRef} (hz : Keeps s₀ s) : Keeps s₀ (softReset p s) := by
  unfold softReset
  try dsimp only
  with_reducible repeat' first | exact hz | refine keeps_softPort ?_ | refine keeps_softState ?_ | refine Keeps.of ?_ rfl rfl rfl rfl

theorem keeps_ctrlWrite {p : PageRef} {v : Nat} (hz : Keeps s₀ s) : Keeps s₀ (ctrlWrite p v s) := by
  unfold ctrlWrite
  try dsimp only
  with_reducible repeat' first
    | exact hz | refine keeps_setReg ?_ | refine keeps_issueBatch ?_ | refine keeps_softReset ?_ | refine keeps_recErr ?_
    | refine keeps_ite (fun _ => ?_) (fun _ => ?_)

theorem keeps_headerWrite {p : PageRef} {off v : Nat} (hz : Keeps s₀ s) : Keeps s₀ (headerWrite p off v s) := by
  unfold headerWrite
  try dsimp only
  with_reducible repeat' first
    | exact hz | refine keeps_ownerWrite ?_ | refine keeps_ctrlWrite ?_ | refine keeps_pendClear ?_ | refine keeps_maskWrite ?_
    | refine keeps_setPend ?_ | refine keeps_setReg ?_ | refine keeps_setField ?_ | refine keeps_ite (fun _ => ?_) (fun _ => ?_)

theorem keeps_plainWrite {p : PageRef} {r : RegRow} {v : Nat} (hz : Keeps s₀ s) : Keeps s₀ (plainWrite p r v s) := by
  unfold plainWrite
  try dsimp only
  with_reducible repeat' first | exact hz | refine keeps_setReg ?_

theorem keeps_everyDie {p : PageRef} {r : RegRow} {v : Nat} (hz : Keeps s₀ s) : Keeps s₀ (everyDie p r v s) := by
  unfold everyDie
  try dsimp only
  with_reducible repeat' first | exact hz | assumption | refine keeps_forL ?_ ?_ | refine keeps_setReg ?_ | intro _

theorem keeps_bypassWrite {k v : Nat} (hz : Keeps s₀ s) : Keeps s₀ (bypassWrite k v s) := by
  have h : Keeps s₀ (if pairHeld s (k / 2) = bit v 1 then s else after (execHold (k / 2) (bit v 1) s) s) :=
    keeps_ite (fun _ => hz) (fun _ => keeps_after (fun t he => keeps_execHold hz he) hz)
  unfold bypassWrite
  extract_lets s1
  refine keeps_ite (fun _ => h) (fun _ => keeps_ite (fun _ => keeps_after (fun t he => keeps_execOpenBypass h he) h) (fun _ => keeps_setField h))

theorem keeps_cmpWrite {f : Cmp → Cmp} (hz : Keeps s₀ s) : Keeps s₀ (cmpWrite f s) := by
  unfold cmpWrite
  try dsimp only
  with_reducible repeat' first
    | exact hz | refine keeps_recContended ?_ | refine keeps_modCmp ?_ | refine keeps_ite (fun _ => ?_) (fun _ => ?_)

theorem keeps_ownWrite {p : PageRef} {r : RegRow} {v : Nat} (hz : Keeps s₀ s) (he : (ownWrite p r v s) = some t) : Keeps s₀ t := by
  unfold ownWrite at he
  extract_lets off d loom at he
  split at he <;> (repeat' split at he) <;> (try (cases he; done)) <;> injection he with he <;> subst he <;> (try dsimp only) <;>
  repeat' first
    | with_reducible exact hz
    | with_reducible assumption
    | with_reducible refine keeps_ite (fun _ => ?_) (fun _ => ?_)
    | with_reducible refine keeps_bypassWrite ?_
    | with_reducible refine keeps_everyDie ?_
    | with_reducible refine keeps_cmpWrite ?_
    | with_reducible refine keeps_plainWrite ?_
    | with_reducible refine keeps_cadRetime ?_
    | with_reducible refine keeps_setField ?_
    | with_reducible refine keeps_setReg ?_
    | with_reducible refine keeps_modGate ?_
    | with_reducible refine keeps_after (fun t he => ?_) ?_
    | with_reducible refine keeps_execBntCmpCfgWrite ?_ (by assumption)
    | with_reducible refine keeps_execBntDiscWrite ?_ (by assumption)
    | with_reducible refine keeps_execBntPpsWrite ?_ (by assumption)
    | with_reducible refine keeps_execCadEventIn ?_ (by assumption)
    | with_reducible refine keeps_execCadTwinTakeover ?_ (by assumption)
    | with_reducible refine keeps_execChkFtStart ?_ (by assumption)
    | with_reducible refine keeps_execDryCoreKick ?_ (by assumption)
    | with_reducible refine keeps_execGo ?_ (by assumption)
    | with_reducible refine keeps_execInServiceWrite ?_ (by assumption)
    | with_reducible refine keeps_execLoomCfgSplit ?_ (by assumption)
    | with_reducible refine keeps_execMemcPatrolWrite ?_ (by assumption)
    | with_reducible refine keeps_execMemcPcFailedWrite ?_ (by assumption)
    | with_reducible refine keeps_execMemcSurvWrite ?_ (by assumption)
    | with_reducible refine keeps_execRequestEast ?_ (by assumption)
    | with_reducible refine keeps_execRequestWest ?_ (by assumption)
    | with_reducible refine keeps_execResetReq ?_ (by assumption)
    | with_reducible refine keeps_execRetiredSet ?_ (by assumption)
    | with_reducible refine keeps_execRetrain ?_ (by assumption)
    | with_reducible refine keeps_execRvlPositionWrite ?_ (by assumption)
    | with_reducible refine keeps_execRvlRouteDataWrite ?_ (by assumption)
    | with_reducible refine keeps_execTwlRepairWrite ?_ (by assumption)
    | with_reducible refine keeps_execWvcConfigWrite ?_ (by assumption)

theorem keeps_regWrite {p : PageRef} {r : RegRow} {v : Nat} (hz : Keeps s₀ s) : Keeps s₀ (regWrite p r v s) := by
  unfold regWrite
  refine keeps_ite (fun _ => keeps_headerWrite hz) (fun _ => keeps_getD (keeps_plainWrite hz) fun u hu => keeps_ownWrite hz hu)

theorem keeps_pageWrite {who n a : Nat} {k : PageRef → RegRow → State → State} (hk : ∀ x0 x1 x2, Keeps s₀ x2 → Keeps s₀ (k x0 x1 x2)) (hz
    : Keeps s₀ s) : Keeps s₀ (pageWrite who n a k s) := by
  unfold pageWrite
  try dsimp only
  with_reducible repeat' first
    | exact hz | refine keeps_unbacked ?_ | refine keeps_recErr ?_ | (apply hk) | refine keeps_ite (fun _ => ?_) (fun _ => ?_) | split

theorem keeps_execEnable {who a : Nat} {quiesce : Bool} (hz : Keeps s₀ s) (he : execEnable who a quiesce s = .next t) : Keeps s₀ t := by
  unfold execEnable at he; injection he with he; subst he; try dsimp only
  with_reducible repeat' first | exact hz | assumption | refine keeps_pageWrite ?_ ?_ | refine keeps_ctrlWrite ?_ | intro _

theorem keeps_execQuiesce {who a : Nat} {enable : Bool} (hz : Keeps s₀ s) (he : execQuiesce who a enable s = .next t) : Keeps s₀ t := by
  unfold execQuiesce at he; injection he with he; subst he; try dsimp only
  with_reducible repeat' first | exact hz | assumption | refine keeps_pageWrite ?_ ?_ | refine keeps_ctrlWrite ?_ | intro _

theorem keeps_execSoftReset {who a v : Nat} (hz : Keeps s₀ s) (he : execSoftReset who a v s = .next t) : Keeps s₀ t := by
  unfold execSoftReset at he; injection he with he; subst he; try dsimp only
  with_reducible repeat' first | exact hz | assumption | refine keeps_pageWrite ?_ ?_ | refine keeps_ctrlWrite ?_ | intro _

theorem keeps_execIntPendClear {who a mask : Nat} (hz : Keeps s₀ s) (he : execIntPendClear who a mask s = .next t) : Keeps s₀ t := by
  unfold execIntPendClear at he; injection he with he; subst he; try dsimp only
  with_reducible repeat' first | exact hz | assumption | refine keeps_pageWrite ?_ ?_ | refine keeps_pendClear ?_ | intro _

theorem keeps_execIntTest {who a mask : Nat} (hz : Keeps s₀ s) (he : execIntTest who a mask s = .next t) : Keeps s₀ t := by
  unfold execIntTest at he; injection he with he; subst he; try dsimp only
  with_reducible repeat' first | exact hz | assumption | refine keeps_pageWrite ?_ ?_ | refine keeps_setPend ?_ | intro _

theorem keeps_execInterruptQueueEntry {page : Nat} (hz : Keeps s₀ s) (he : execInterruptQueueEntry page s = .next t) : Keeps s₀ t := by
  unfold execInterruptQueueEntry at he; injection he with he; subst he; try dsimp only
  with_reducible repeat' first | exact hz | refine keeps_ite (fun _ => ?_) (fun _ => ?_) | refine Keeps.of ?_ rfl rfl rfl rfl

theorem keeps_execErrFirstRearm {who a : Nat} (hz : Keeps s₀ s) (he : execErrFirstRearm who a s = .next t) : Keeps s₀ t := by
  unfold execErrFirstRearm at he; injection he with he; subst he; try dsimp only
  with_reducible repeat' first | exact hz | assumption | refine keeps_pageWrite ?_ ?_ | refine keeps_setReg ?_ | intro _

theorem keeps_execLock {who a : Nat} (hz : Keeps s₀ s) (he : execLock who a s = .next t) : Keeps s₀ t := by
  unfold execLock at he; injection he with he; subst he; try dsimp only
  with_reducible repeat' first | exact hz | assumption | refine keeps_pageWrite ?_ ?_ | refine keeps_setField ?_ | intro _

theorem keeps_execLowWordWrite {who a v : Nat} (hz : Keeps s₀ s) (he : execLowWordWrite who a v s = .next t) : Keeps s₀ t := by
  unfold execLowWordWrite at he; injection he with he; subst he; try dsimp only
  with_reducible repeat' first
    | exact hz | assumption | refine keeps_pageWrite ?_ ?_ | refine keeps_ite (fun _ => ?_) (fun _ => ?_) | intro _
    | refine Keeps.of ?_ rfl rfl rfl rfl

theorem keeps_execHighWordWrite {who a v : Nat} (hz : Keeps s₀ s) (he : execHighWordWrite who a v s = .next t) : Keeps s₀ t := by
  unfold execHighWordWrite at he; injection he with he; subst he; try dsimp only
  with_reducible repeat' first
    | exact hz | assumption | refine keeps_pageWrite ?_ ?_ | refine keeps_regWrite ?_ | refine keeps_ite (fun _ => ?_) (fun _ => ?_)
    | intro _ | refine Keeps.of ?_ rfl rfl rfl rfl

theorem keeps_execRegisterWrite {who n a v : Nat} (hz : Keeps s₀ s) (he : execRegisterWrite who n a v s = .next t) : Keeps s₀ t := by
  unfold execRegisterWrite at he; injection he with he; subst he; try dsimp only
  with_reducible repeat' first
    | exact hz | assumption | refine keeps_pageWrite ?_ ?_ | refine keeps_regWrite ?_ | refine keeps_ite (fun _ => ?_) (fun _ => ?_)
    | intro _

theorem keeps_badPacket {die : Nat} (hz : Keeps s₀ s) : Keeps s₀ (badPacket die s) := by
  unfold badPacket
  try dsimp only
  with_reducible repeat' first | exact hz | refine keeps_setPend ?_ | refine keeps_bumpSat ?_

theorem keeps_checkFail {die : Nat} {p : Packet} (hz : Keeps s₀ s) : Keeps s₀ (checkFail die p s) := by
  unfold checkFail
  try dsimp only
  with_reducible repeat' first | exact hz | refine keeps_checkReported ?_ | refine keeps_badPacket ?_

theorem keeps_linkAccept {k : Nat} {p : Packet} (hz : Keeps s₀ s) : Keeps s₀ (linkAccept k p s).2 := by
  unfold linkAccept
  try dsimp only
  with_reducible repeat' first
    | exact hz | refine keeps_modPort ?_ | refine keeps_bumpSat ?_ | refine keeps_sendControl ?_ | split
    | refine Keeps.of ?_ rfl rfl rfl rfl

theorem keeps_takeOff {k : Nat} {p : Packet} (hz : Keeps s₀ s) : Keeps s₀ (takeOff k p s) := by
  unfold takeOff
  try dsimp only
  with_reducible repeat' first | exact hz | refine keeps_freeFlits ?_

theorem keeps_forwardPkt {k : Nat} {p : Packet} (hz : Keeps s₀ s) : Keeps s₀ (forwardPkt k p s) := by
  unfold forwardPkt
  try dsimp only
  with_reducible repeat' first
    | exact hz | refine keeps_unreachable ?_ | refine keeps_takeOff ?_ | refine keeps_routePkt ?_ | refine keeps_bump ?_
    | refine keeps_pair (by assumption) ?_ | refine keeps_ite (fun _ => ?_) (fun _ => ?_) | split

theorem keeps_arrive {op k : Nat} {p : Packet} {deliver : State → State} (hdeliver : ∀ x0, Keeps s₀ x0 → Keeps s₀ (deliver x0)) (hz :
    Keeps s₀ s) : Keeps s₀ (arrive op k p deliver s) := by
  unfold arrive
  try dsimp only
  with_reducible repeat' first
    | exact hz | refine keeps_linkAccept ?_ | refine keeps_badPacket ?_ | refine keeps_takeOff ?_ | refine keeps_forwardPkt ?_
    | (apply hdeliver) | refine keeps_pair (by assumption) ?_ | refine keeps_ite (fun _ => ?_) (fun _ => ?_) | split

theorem keeps_memNack {die : Nat} {p : Packet} {status sub : Nat} (hz : Keeps s₀ s) : Keeps s₀ (memNack die p status sub s) := by
  unfold memNack
  try dsimp only
  with_reducible repeat' first | exact hz | refine keeps_nackPkt ?_ | refine keeps_windowError ?_

theorem keeps_recInbound {die : Nat} {p : Packet} {code : Nat} (hz : Keeps s₀ s) : Keeps s₀ (recInbound die p code s) := by
  unfold recInbound
  try dsimp only
  with_reducible repeat' first
    | exact hz | refine keeps_countStale ?_ | refine keeps_countInvalid ?_ | refine keeps_recErr ?_
    | refine keeps_ite (fun _ => ?_) (fun _ => ?_)

theorem keeps_memRequest {k : Nat} {p : Packet} {act : Window → Nat → State → State} (hact : ∀ x0 x1 x2, Keeps s₀ x2 → Keeps s₀ (act x0
    x1 x2)) (hz : Keeps s₀ s) : Keeps s₀ (memRequest k p act s) := by
  unfold memRequest
  try dsimp only
  with_reducible repeat' first
    | exact hz | refine keeps_memNack ?_ | refine keeps_checkFail ?_ | refine keeps_recInbound ?_ | (apply hact)
    | refine keeps_ite (fun _ => ?_) (fun _ => ?_) | split

theorem keeps_memAnswer {p : Packet} {op mask : Nat} {payload : List Byte} (hz : Keeps s₀ s) : Keeps s₀ (memAnswer p op mask payload s)
    := by
  unfold memAnswer
  try dsimp only
  with_reducible repeat' first | exact hz | refine keeps_respond ?_

theorem keeps_memUntranslated {p : Packet} {w : Window} {code sub : Nat} (hz : Keeps s₀ s) : Keeps s₀ (memUntranslated p w code sub s) :=
    by
  unfold memUntranslated
  try dsimp only
  with_reducible repeat' first
    | exact hz | refine keeps_memNack ?_ | refine keeps_countStale ?_ | refine keeps_poisonKill ?_
    | refine keeps_ite (fun _ => ?_) (fun _ => ?_)

theorem keeps_countPut {die : Nat} {carries : Bool} {data : List (Byte × Bool)} (hz : Keeps s₀ s) : Keeps s₀ (countPut die carries data
    s) := by
  unfold countPut
  try dsimp only
  with_reducible repeat' first | exact hz | refine keeps_bumpSat ?_ | refine keeps_bump ?_ | refine keeps_ite (fun _ => ?_) (fun _ => ?_)

theorem keeps_takePut {p : Packet} {w : Window} {va : Nat} (hz : Keeps s₀ s) : Keeps s₀ (takePut p w va s) := by
  unfold takePut
  try dsimp only
  with_reducible repeat' first
    | exact hz | refine keeps_countPut ?_ | refine keeps_memNack ?_ | refine keeps_checkReported ?_ | refine keeps_gWriteC ?_
    | refine keeps_memUntranslated ?_ | refine keeps_memAnswer ?_ | refine keeps_pair (by assumption) ?_
    | refine keeps_ite (fun _ => ?_) (fun _ => ?_) | split

theorem keeps_takeGet {p : Packet} {w : Window} {va : Nat} (hz : Keeps s₀ s) : Keeps s₀ (takeGet p w va s) := by
  unfold takeGet
  try dsimp only
  with_reducible repeat' first
    | exact hz | refine keeps_gRead ?_ | refine keeps_memUntranslated ?_ | refine keeps_memAnswer ?_
    | refine keeps_pair (by assumption) ?_ | split

theorem keeps_takeAtom {red : Bool} {p : Packet} {w : Window} {va : Nat} (hz : Keeps s₀ s) : Keeps s₀ (takeAtom red p w va s) := by
  unfold takeAtom
  try dsimp only
  with_reducible repeat' first
    | exact hz | refine keeps_memUntranslated ?_ | refine keeps_memAnswer ?_ | refine keeps_accessLine ?_ | refine keeps_reduceLine ?_
    | refine keeps_settleLine ?_ | refine keeps_cachedWrite ?_ | refine keeps_setPoison ?_ | refine keeps_memNack ?_
    | refine keeps_ite (fun _ => ?_) (fun _ => ?_) | split

theorem keeps_execPut {port : Nat} {p : Packet} (hz : Keeps s₀ s) (he : execPut port p s = .next t) : Keeps s₀ t := by
  unfold execPut at he; injection he with he; subst he; try dsimp only
  with_reducible repeat' first
    | exact hz | assumption | refine keeps_arrive ?_ ?_ | refine keeps_memRequest ?_ ?_ | refine keeps_takePut ?_ | intro _

theorem keeps_execGet {port : Nat} {p : Packet} (hz : Keeps s₀ s) (he : execGet port p s = .next t) : Keeps s₀ t := by
  unfold execGet at he; injection he with he; subst he; try dsimp only
  with_reducible repeat' first
    | exact hz | assumption | refine keeps_arrive ?_ ?_ | refine keeps_memRequest ?_ ?_ | refine keeps_takeGet ?_ | intro _

theorem keeps_execAtomPacket {port : Nat} {p : Packet} (hz : Keeps s₀ s) (he : execAtomPacket port p s = .next t) : Keeps s₀ t := by
  unfold execAtomPacket at he; injection he with he; subst he; try dsimp only
  with_reducible repeat' first
    | exact hz | assumption | refine keeps_arrive ?_ ?_ | refine keeps_memRequest ?_ ?_ | refine keeps_takeAtom ?_ | intro _

theorem keeps_execRedPacket {port : Nat} {p : Packet} (hz : Keeps s₀ s) (he : execRedPacket port p s = .next t) : Keeps s₀ t := by
  unfold execRedPacket at he; injection he with he; subst he; try dsimp only
  with_reducible repeat' first
    | exact hz | assumption | refine keeps_arrive ?_ ?_ | refine keeps_memRequest ?_ ?_ | refine keeps_takeAtom ?_ | intro _

theorem keeps_takeMsg {k : Nat} {p : Packet} (hz : Keeps s₀ s) : Keeps s₀ (takeMsg k p s) := by
  unfold takeMsg
  try dsimp only
  with_reducible repeat' first
    | exact hz | refine keeps_nackPkt ?_ | refine keeps_checkFail ?_ | refine keeps_countStale ?_ | refine keeps_recInbound ?_
    | refine keeps_judgeMessage ?_ | refine keeps_respond ?_ | refine keeps_ite (fun _ => ?_) (fun _ => ?_)

theorem keeps_execMsg {port : Nat} {p : Packet} (hz : Keeps s₀ s) (he : execMsg port p s = .next t) : Keeps s₀ t := by
  unfold execMsg at he; injection he with he; subst he; try dsimp only
  with_reducible repeat' first | exact hz | assumption | refine keeps_arrive ?_ ?_ | refine keeps_takeMsg ?_ | intro _

theorem keeps_silCheckFail {k : Nat} {p : Packet} (hz : Keeps s₀ s) : Keeps s₀ (silCheckFail k p s) := by
  unfold silCheckFail
  try dsimp only
  with_reducible repeat' first
    | exact hz | refine keeps_nackPkt ?_ | refine keeps_checkFail ?_ | refine keeps_setPend ?_ | refine keeps_bumpSat ?_
    | refine keeps_retractFor ?_ | refine keeps_ite (fun _ => ?_) (fun _ => ?_) | split

theorem keeps_silSegment {k : Nat} {p : Packet} {act : Nat → SilGroup → SilSeg → State → State} (hact : ∀ x0 x1 x2 x3, Keeps s₀ x3 →
    Keeps s₀ (act x0 x1 x2 x3)) (hz : Keeps s₀ s) : Keeps s₀ (silSegment k p act s) := by
  unfold silSegment
  try dsimp only
  with_reducible repeat' first
    | exact hz | refine keeps_silCheckFail ?_ | refine keeps_nackPkt ?_ | refine keeps_countStale ?_ | refine keeps_recInbound ?_
    | refine keeps_bumpSat ?_ | refine keeps_bump ?_ | (apply hact) | refine keeps_ite (fun _ => ?_) (fun _ => ?_) | split

theorem keeps_takeSil {gs : Nat} {g : SilGroup} {x : SilSeg} {p : Packet} (hz : Keeps s₀ s) : Keeps s₀ (takeSil gs g x p s) := by
  unfold takeSil
  try dsimp only
  with_reducible repeat' first
    | exact hz | refine keeps_modSil ?_ | refine keeps_judgeSeg ?_ | refine keeps_silAnswer ?_ | refine keeps_retractFor ?_
    | refine keeps_ite (fun _ => ?_) (fun _ => ?_) | split

theorem keeps_execSil {port : Nat} {p : Packet} (hz : Keeps s₀ s) (he : execSil port p s = .next t) : Keeps s₀ t := by
  unfold execSil at he; injection he with he; subst he; try dsimp only
  with_reducible repeat' first
    | exact hz | assumption | refine keeps_arrive ?_ ?_ | refine keeps_silSegment ?_ ?_ | refine keeps_takeSil ?_
    | refine keeps_nackPkt ?_ | refine keeps_bumpSat ?_ | refine keeps_ite (fun _ => ?_) (fun _ => ?_) | intro _

theorem keeps_execJoinSegment {port : Nat} {p : Packet} (hz : Keeps s₀ s) (he : execJoinSegment port p s = .next t) : Keeps s₀ t := by
  unfold execJoinSegment at he; injection he with he; subst he; try dsimp only
  with_reducible repeat' first
    | exact hz | assumption | refine keeps_arrive ?_ ?_ | refine keeps_silSegment ?_ ?_ | refine keeps_sendResponse ?_
    | refine keeps_takeJoin ?_ | refine keeps_ite (fun _ => ?_) (fun _ => ?_) | intro _

theorem keeps_execRollback {port : Nat} {p : Packet} (hz : Keeps s₀ s) (he : execRollback port p s = .next t) : Keeps s₀ t := by
  unfold execRollback at he; injection he with he; subst he; try dsimp only
  with_reducible repeat' first
    | exact hz | assumption | refine keeps_arrive ?_ ?_ | refine keeps_silSegment ?_ ?_ | refine keeps_silAnswer ?_
    | refine keeps_takeRollback ?_ | refine keeps_cadEvent ?_ | refine keeps_ite (fun _ => ?_) (fun _ => ?_) | intro _

theorem keeps_execFillSegment {port : Nat} {head : Packet} {ext payload : List Byte} (hz : Keeps s₀ s) (he : execFillSegment port head ext
    payload s = .next t) : Keeps s₀ t := by
  unfold execFillSegment at he; injection he with he; subst he; try dsimp only
  with_reducible repeat' first
    | exact hz | assumption | refine keeps_arrive ?_ ?_ | refine keeps_silSegment ?_ ?_ | refine keeps_takeFill ?_
    | refine keeps_silAnswer ?_ | refine keeps_ite (fun _ => ?_) (fun _ => ?_) | intro _

theorem keeps_fabFailed {tag code sub : Nat} (hz : Keeps s₀ s) : Keeps s₀ (fabFailed tag code sub s) := by
  unfold fabFailed
  try dsimp only
  with_reducible repeat' first
    | exact hz | refine keeps_fabFail ?_ | refine keeps_silAnswered ?_ | refine keeps_memberFailed ?_ | refine keeps_dmaPump ?_
    | refine keeps_ite (fun _ => ?_) (fun _ => ?_) | split

theorem keeps_takeResponse {k : Nat} {p : Packet} {act : FabReq → State → State} (hact : ∀ x0 x1, Keeps s₀ x1 → Keeps s₀ (act x0 x1)) (hz
    : Keeps s₀ s) : Keeps s₀ (takeResponse k p act s) := by
  unfold takeResponse
  try dsimp only
  with_reducible repeat' first
    | exact hz | refine keeps_settleUnmaps ?_ | refine keeps_checkFail ?_ | refine keeps_countStale ?_ | refine keeps_fabFailed ?_
    | refine keeps_fabStale ?_ | (apply hact) | refine keeps_ite (fun _ => ?_) (fun _ => ?_) | split

theorem keeps_fabOk {r : FabReq} (hz : Keeps s₀ s) : Keeps s₀ (fabOk r s) := by
  unfold fabOk
  try dsimp only
  with_reducible repeat' first | exact hz | refine keeps_fabUncount ?_ | refine keeps_fabDrop ?_

theorem keeps_execDone {port : Nat} {p : Packet} (hz : Keeps s₀ s) (he : execDone port p s = .next t) : Keeps s₀ t := by
  unfold execDone at he; injection he with he; subst he; try dsimp only
  with_reducible repeat' first
    | exact hz | assumption | refine keeps_arrive ?_ ?_ | refine keeps_takeResponse ?_ ?_ | refine keeps_fabThreadDone ?_
    | refine keeps_fabOk ?_ | refine keeps_dmaPump ?_ | refine keeps_dmaWrote ?_ | refine keeps_dmaTagDone ?_ | intro _ | split

theorem keeps_threadData {r : FabReq} {loom skein lcv thread : Nat} {regs : List Nat} {width mask : Nat} {data : List Byte} (hz : Keeps
    s₀ s) : Keeps s₀ (threadData r loom skein lcv thread regs width mask data s) := by
  unfold threadData
  try dsimp only
  with_reducible repeat' first
    | exact hz | refine keeps_fabOk ?_ | refine keeps_fabThreadDone ?_ | refine keeps_poisonFault ?_ | refine keeps_lcvAddWrites ?_
    | refine keeps_ite (fun _ => ?_) (fun _ => ?_) | split

theorem keeps_execData {port : Nat} {p : Packet} (hz : Keeps s₀ s) (he : execData port p s = .next t) : Keeps s₀ t := by
  unfold execData at he; injection he with he; subst he; try dsimp only
  with_reducible repeat' first
    | exact hz | assumption | refine keeps_arrive ?_ ?_ | refine keeps_takeResponse ?_ ?_ | refine keeps_threadData ?_
    | refine keeps_dmaTagDone ?_ | refine keeps_fabOk ?_ | refine keeps_dmaWrite ?_ | refine keeps_dmaPump ?_
    | refine keeps_ite (fun _ => ?_) (fun _ => ?_) | intro _ | split

theorem keeps_execNack {port : Nat} {p : Packet} (hz : Keeps s₀ s) (he : execNack port p s = .next t) : Keeps s₀ t := by
  unfold execNack at he; injection he with he; subst he; try dsimp only
  with_reducible repeat' first
    | exact hz | assumption | refine keeps_arrive ?_ ?_ | refine keeps_takeResponse ?_ ?_ | refine keeps_fabFailed ?_ | intro _

theorem keeps_execMsgAck {port : Nat} {p : Packet} (hz : Keeps s₀ s) (he : execMsgAck port p s = .next t) : Keeps s₀ t := by
  unfold execMsgAck at he; injection he with he; subst he; try dsimp only
  with_reducible repeat' first
    | exact hz | assumption | refine keeps_arrive ?_ ?_ | refine keeps_takeResponse ?_ ?_ | refine keeps_sendAnswered ?_
    | refine keeps_fabOk ?_ | intro _ | split

theorem keeps_creditOnly {k : Nat} {p : Packet} (hz : Keeps s₀ s) : Keeps s₀ (creditOnly k p s) := by
  unfold creditOnly
  try dsimp only
  with_reducible repeat' first
    | exact hz | refine keeps_checkFail ?_ | refine keeps_countStale ?_ | refine keeps_takeCredit ?_ | refine keeps_silSettle ?_
    | refine keeps_pair (by assumption) ?_ | refine keeps_ite (fun _ => ?_) (fun _ => ?_) | split

theorem keeps_takeSilAck {port : Nat} {p : Packet} (hz : Keeps s₀ s) : Keeps s₀ (takeSilAck port p s) := by
  unfold takeSilAck
  try dsimp only
  with_reducible repeat' first
    | exact hz | assumption | refine keeps_arrive ?_ ?_ | refine keeps_creditOnly ?_ | refine keeps_takeResponse ?_ ?_
    | refine keeps_silAnswered ?_ | refine keeps_takeCredit ?_ | refine keeps_fabOk ?_ | refine keeps_joinAcked ?_
    | refine keeps_ite (fun _ => ?_) (fun _ => ?_) | intro _ | split

theorem keeps_execSilAck {port : Nat} {head : Packet} {body : List Byte} (hz : Keeps s₀ s) (he : execSilAck port head body s = .next t) :
    Keeps s₀ t := by
  unfold execSilAck at he; injection he with he; subst he; try dsimp only
  with_reducible repeat' first | exact hz | refine keeps_takeSilAck ?_

theorem keeps_execJoinAck {port : Nat} {head : Packet} {body : List Byte} (hz : Keeps s₀ s) (he : execJoinAck port head body s = .next t) :
    Keeps s₀ t := by
  unfold execJoinAck at he; injection he with he; subst he; try dsimp only
  with_reducible repeat' first | exact hz | refine keeps_takeSilAck ?_ | refine keeps_ite (fun _ => ?_) (fun _ => ?_)

theorem keeps_execFabricTimeout {tag : Nat} (hz : Keeps s₀ s) (he : execFabricTimeout tag s = .next t) : Keeps s₀ t := by
  unfold execFabricTimeout at he; injection he with he; subst he; try dsimp only
  with_reducible repeat' first | exact hz | refine keeps_settleUnmaps ?_ | refine keeps_fabFailed ?_

theorem keeps_settleContext {c : Nat} (hz : Keeps s₀ s) : Keeps s₀ (settleContext c s) := by
  unfold settleContext
  try dsimp only
  with_reducible repeat' first | exact hz | assumption | refine keeps_forL ?_ ?_ | refine keeps_settleSkein ?_ | intro _

theorem keeps_execTeardownWritesDone {c : Nat} (hz : Keeps s₀ s) (he : execTeardownWritesDone c s = .next t) : Keeps s₀ t := by
  unfold execTeardownWritesDone at he; injection he with he; subst he; try dsimp only
  with_reducible repeat' first
    | exact hz | refine keeps_modCtx ?_ | refine keeps_settleContext ?_ | refine keeps_ite (fun _ => ?_) (fun _ => ?_) | split

theorem keeps_execTeardownQuietEnd {c : Nat} (hz : Keeps s₀ s) (he : execTeardownQuietEnd c s = .next t) : Keeps s₀ t := by
  unfold execTeardownQuietEnd at he; injection he with he; subst he; try dsimp only
  with_reducible repeat' first
    | exact hz | assumption | refine keeps_forL ?_ ?_ | refine keeps_modCtxDie ?_ | refine keeps_modCtx ?_
    | refine keeps_ite (fun _ => ?_) (fun _ => ?_) | intro _ | split

theorem keeps_releasePins {c : Nat} (hz : Keeps s₀ s) : Keeps s₀ (releasePins c s) := by
  unfold releasePins
  try dsimp only
  with_reducible repeat' first | exact hz | refine Keeps.of ?_ rfl rfl rfl rfl

theorem keeps_execClearScrubDone {c : Nat} (hz : Keeps s₀ s) (he : execClearScrubDone c s = .next t) : Keeps s₀ t := by
  unfold execClearScrubDone at he; injection he with he; subst he; try dsimp only
  with_reducible repeat' first
    | exact hz | assumption | refine keeps_forL ?_ ?_ | refine keeps_modCtxDie ?_ | refine keeps_releasePins ?_
    | refine keeps_scrubRange ?_ | intro _ | split

theorem keeps_loomLose {c loom : Nat} (hz : Keeps s₀ s) : Keeps s₀ (loomLose c loom s) := by
  unfold loomLose
  try dsimp only
  with_reducible repeat' first | exact hz | refine keeps_clearHalf ?_ | refine keeps_ite (fun _ => ?_) (fun _ => ?_)

theorem keeps_removeCtx {c : Nat} (hz : Keeps s₀ s) : Keeps s₀ (removeCtx c s) := by
  unfold removeCtx
  try dsimp only
  with_reducible repeat' first
    | exact hz | assumption | refine keeps_forL ?_ ?_ | refine keeps_destroyObject ?_ | refine keeps_loomLose ?_
    | refine keeps_slotDestroy ?_ | intro _ | refine Keeps.of ?_ rfl rfl rfl rfl

theorem keeps_execTeardownComplete {c : Nat} (hz : Keeps s₀ s) (he : execTeardownComplete c s = .next t) : Keeps s₀ t := by
  unfold execTeardownComplete at he; injection he with he; subst he; try dsimp only
  with_reducible repeat' first
    | exact hz | assumption | refine keeps_forL ?_ ?_ | refine keeps_removeCtx ?_ | refine keeps_setPend ?_ | refine keeps_zjpAnswer ?_
    | refine keeps_ite (fun _ => ?_) (fun _ => ?_) | intro _ | split | refine Keeps.of ?_ rfl rfl rfl rfl

theorem keeps_storeMax {loom ctx : Nat} {d : List Byte} {amax : Nat} {bad : Bool} (hz : Keeps s₀ s) : Keeps s₀ (storeMax loom ctx d amax
    bad s).2 := by
  unfold storeMax
  try dsimp only
  with_reducible repeat' first | exact hz | refine keeps_reduceLine ?_ | refine keeps_settleLine ?_ | split

theorem keeps_handOver {die gs : Nat} {l : List SilWait} (hz : Keeps s₀ s) : Keeps s₀ (handOver die gs l s).2 := by
  unfold handOver
  try dsimp only
  with_reducible repeat' first
    | exact hz | assumption | refine keeps_foldl_snd ?_ ?_ | refine keeps_silSend ?_ | refine keeps_countSent ?_
    | refine keeps_silSettle ?_ | intro _ | split

theorem keeps_abortTile {gs : Nat} {l : List SilWait} (hz : Keeps s₀ s) : Keeps s₀ (abortTile gs l s) := by
  unfold abortTile
  try dsimp only
  with_reducible repeat' first | exact hz | assumption | refine keeps_forL ?_ ?_ | refine keeps_modSil ?_ | intro _

theorem keeps_moveFail {loom : Nat} {east : Bool} {i ctx code sub : Nat} (hz : Keeps s₀ s) : Keeps s₀ (moveFail loom east i ctx code sub
    s) := by
  unfold moveFail
  try dsimp only
  with_reducible repeat' first | exact hz | refine keeps_tileWalkPoison ?_ | refine keeps_setStage ?_

theorem keeps_countStored {loom n : Nat} (hz : Keeps s₀ s) : Keeps s₀ (countStored loom n s) := by
  unfold countStored
  try dsimp only
  with_reducible repeat' first | exact hz | refine keeps_bump ?_

theorem keeps_storeDone {loom : Nat} {east : Bool} {i : Nat} {d : List Byte} {result : Nat} (hz : Keeps s₀ s) : Keeps s₀ (storeDone loom
    east i d result s) := by
  unfold storeDone
  try dsimp only
  with_reducible repeat' first
    | exact hz | refine keeps_bump ?_ | refine keeps_putSlot ?_ | refine keeps_setStage ?_ | refine keeps_ite (fun _ => ?_) (fun _ => ?_)

theorem keeps_storeEnd {loom : Nat} {east : Bool} {i ctx : Nat} {d : List Byte} {amax : Nat} {bad : Bool} {result : Nat} (hz : Keeps s₀
    s) : Keeps s₀ (storeEnd loom east i ctx d amax bad result s) := by
  unfold storeEnd
  try dsimp only
  with_reducible repeat' first
    | exact hz | refine keeps_storeMax ?_ | refine keeps_moveFail ?_ | refine keeps_storeDone ?_ | refine keeps_pair (by assumption) ?_
    | split

theorem keeps_storeHand {loom : Nat} {east : Bool} {i ctx : Nat} {d : List Byte} {amax : Nat} {l handed : List SilWait} {since : Nat} (hz
    : Keeps s₀ s) : Keeps s₀ (storeHand loom east i ctx d amax l handed since s) := by
  unfold storeHand
  try dsimp only
  with_reducible repeat' first
    | exact hz | refine keeps_bump ?_ | refine keeps_moveFail ?_ | refine keeps_abortTile ?_ | refine keeps_handOver ?_
    | refine keeps_countStored ?_ | refine keeps_storeEnd ?_ | refine keeps_setStage ?_ | refine keeps_ite (fun _ => ?_) (fun _ => ?_)
    | split

theorem keeps_storeSillage {loom : Nat} {east : Bool} {i ctx : Nat} {d : List Byte} {amax : Nat} {rows : List EncRow} (hz : Keeps s₀ s) :
    Keeps s₀ (storeSillage loom east i ctx d amax rows s) := by
  unfold storeSillage
  try dsimp only
  with_reducible repeat' first
    | exact hz | assumption | refine keeps_forL ?_ ?_ | refine keeps_moveFail ?_ | refine keeps_silError ?_ | refine keeps_completeReq ?_
    | refine keeps_setStage ?_ | refine keeps_storeHand ?_ | refine keeps_ite (fun _ => ?_) (fun _ => ?_) | intro _ | split

theorem keeps_storeStart {loom : Nat} {east : Bool} {i : Nat} {o : TileOp} (hz : Keeps s₀ s) : Keeps s₀ (storeStart loom east i o s) :=
    by
  unfold storeStart
  try dsimp only
  with_reducible repeat' first
    | exact hz | refine keeps_storeSillage ?_ | refine keeps_opWrite ?_ | refine keeps_countStored ?_ | refine keeps_moveFail ?_
    | refine keeps_storeEnd ?_ | refine keeps_ite (fun _ => ?_) (fun _ => ?_) | split

theorem keeps_loadStart {loom : Nat} {east : Bool} {i : Nat} {o : TileOp} (hz : Keeps s₀ s) : Keeps s₀ (loadStart loom east i o s) := by
  unfold loadStart
  try dsimp only
  with_reducible repeat' first
    | exact hz | assumption | refine keeps_Opnd_fetch ?_ ?_ | refine keeps_tileReader ?_ | refine keeps_moveFail ?_
    | refine keeps_nanFill ?_ | refine keeps_writeSlot ?_ | refine keeps_putSlot ?_ | refine keeps_bump ?_ | refine keeps_setStage ?_
    | refine keeps_pair2 (by assumption) ?_ | refine keeps_ite (fun _ => ?_) (fun _ => ?_) | intro _ | split

theorem keeps_execSlotStoreStart {loom : Nat} {east : Bool} (hz : Keeps s₀ s) (he : execSlotStoreStart loom east s = .next t) : Keeps s₀
    t := by
  unfold execSlotStoreStart at he; injection he with he; subst he; try dsimp only
  with_reducible repeat' first
    | exact hz | refine keeps_storeHand ?_ | refine keeps_storeStart ?_ | refine keeps_ite (fun _ => ?_) (fun _ => ?_) | split

theorem keeps_execSlotLoadStart {loom : Nat} {east : Bool} (hz : Keeps s₀ s) (he : execSlotLoadStart loom east s = .next t) : Keeps s₀ t
    := by
  unfold execSlotLoadStart at he; injection he with he; subst he; try dsimp only
  with_reducible repeat' first | exact hz | refine keeps_loadStart ?_ | refine keeps_ite (fun _ => ?_) (fun _ => ?_) | split

theorem keeps_countGated (hz : Keeps s₀ s) : Keeps s₀ (countGated s) := by
  unfold countGated
  try dsimp only
  with_reducible repeat' first | exact hz | refine keeps_modSys ?_

theorem keeps_tick (hz : Keeps s₀ s) : Keeps s₀ (tick s) := by
  unfold tick
  try dsimp only
  with_reducible repeat' first
    | exact hz | refine keeps_countGated ?_ | refine keeps_addTime ?_ | refine keeps_ite (fun _ => ?_) (fun _ => ?_)
    | refine Keeps.of ?_ rfl rfl rfl rfl

end Sys2Proof.Machine
end

