-- ==== Sys2Proof/Laws/State.lean ====
section
/-! SUPPORT. What each record update leaves alone: for every small update of the state, every field that it does not write. -/

namespace Sys2Proof.Machine

@[simp] theorem setReg_frame (a v : Nat) (s : State) :
    (setReg a v s).mem = s.mem ∧ (setReg a v s).poison = s.poison ∧ (setReg a v s).slots = s.slots ∧ (setReg a v s).hkey = s.hkey ∧
    (setReg a v s).draws = s.draws ∧ (setReg a v s).intRaised = s.intRaised ∧ (setReg a v s).intQueue = s.intQueue ∧
    (setReg a v s).captures = s.captures ∧ (setReg a v s).heldLow = s.heldLow ∧ (setReg a v s).ctxs = s.ctxs ∧
    (setReg a v s).ctxIdents = s.ctxIdents ∧ (setReg a v s).teardownTicks = s.teardownTicks ∧ (setReg a v s).staleRx = s.staleRx ∧
    (setReg a v s).ctxKept = s.ctxKept ∧ (setReg a v s).unmaps = s.unmaps ∧ (setReg a v s).queues = s.queues ∧
    (setReg a v s).endpoints = s.endpoints ∧ (setReg a v s).channels = s.channels ∧ (setReg a v s).dmaRuns = s.dmaRuns ∧
    (setReg a v s).conv = s.conv ∧ (setReg a v s).dispatches = s.dispatches ∧ (setReg a v s).nextDispatch = s.nextDispatch ∧
    (setReg a v s).schedAt = s.schedAt ∧ (setReg a v s).delayed = s.delayed ∧ (setReg a v s).heldRoles = s.heldRoles ∧
    (setReg a v s).looms = s.looms ∧ (setReg a v s).saved = s.saved ∧ (setReg a v s).weaves = s.weaves ∧
    (setReg a v s).drams = s.drams ∧ (setReg a v s).survivors = s.survivors ∧ (setReg a v s).checked = s.checked ∧
    (setReg a v s).chk = s.chk ∧ (setReg a v s).suspects = s.suspects ∧ (setReg a v s).windows = s.windows ∧
    (setReg a v s).ports = s.ports ∧ (setReg a v s).switches = s.switches ∧ (setReg a v s).routeHolds = s.routeHolds ∧
    (setReg a v s).heldPkts = s.heldPkts ∧ (setReg a v s).loop = s.loop ∧ (setReg a v s).fabric = s.fabric ∧
    (setReg a v s).nextTag = s.nextTag ∧ (setReg a v s).routes = s.routes ∧ (setReg a v s).groups = s.groups ∧
    (setReg a v s).cursors = s.cursors ∧ (setReg a v s).streams = s.streams ∧ (setReg a v s).stores = s.stores ∧
    (setReg a v s).cadence = s.cadence ∧ (setReg a v s).svc = s.svc ∧ (setReg a v s).zjp = s.zjp ∧
    (setReg a v s).suspectAt = s.suspectAt ∧ (setReg a v s).sys = s.sys ∧ (setReg a v s).dryRing = s.dryRing ∧
    (setReg a v s).time = s.time ∧ (setReg a v s).frac = s.frac ∧ (setReg a v s).refCount = s.refCount ∧
    (setReg a v s).outbox = s.outbox ∧ (setReg a v s).pending = s.pending := by
  exact ⟨rfl, rfl, rfl, rfl, rfl, rfl, rfl, rfl, rfl, rfl, rfl, rfl, rfl, rfl, rfl, rfl, rfl, rfl, rfl, rfl, rfl, rfl, rfl, rfl, rfl, rfl, rfl, rfl, rfl, rfl, rfl, rfl, rfl, rfl, rfl, rfl, rfl, rfl, rfl, rfl, rfl, rfl, rfl, rfl, rfl, rfl, rfl, rfl, rfl, rfl, rfl, rfl, rfl, rfl, rfl, rfl, rfl⟩

@[simp] theorem setField_frame (a hi lo v : Nat) (s : State) :
    (setField a hi lo v s).mem = s.mem ∧ (setField a hi lo v s).poison = s.poison ∧ (setField a hi lo v s).slots = s.slots ∧
    (setField a hi lo v s).hkey = s.hkey ∧ (setField a hi lo v s).draws = s.draws ∧ (setField a hi lo v s).intRaised = s.intRaised ∧
    (setField a hi lo v s).intQueue = s.intQueue ∧ (setField a hi lo v s).captures = s.captures ∧
    (setField a hi lo v s).heldLow = s.heldLow ∧ (setField a hi lo v s).ctxs = s.ctxs ∧
    (setField a hi lo v s).ctxIdents = s.ctxIdents ∧ (setField a hi lo v s).teardownTicks = s.teardownTicks ∧
    (setField a hi lo v s).staleRx = s.staleRx ∧ (setField a hi lo v s).ctxKept = s.ctxKept ∧
    (setField a hi lo v s).unmaps = s.unmaps ∧ (setField a hi lo v s).queues = s.queues ∧
    (setField a hi lo v s).endpoints = s.endpoints ∧ (setField a hi lo v s).channels = s.channels ∧
    (setField a hi lo v s).dmaRuns = s.dmaRuns ∧ (setField a hi lo v s).conv = s.conv ∧
    (setField a hi lo v s).dispatches = s.dispatches ∧ (setField a hi lo v s).nextDispatch = s.nextDispatch ∧
    (setField a hi lo v s).schedAt = s.schedAt ∧ (setField a hi lo v s).delayed = s.delayed ∧
    (setField a hi lo v s).heldRoles = s.heldRoles ∧ (setField a hi lo v s).looms = s.looms ∧ (setField a hi lo v s).saved = s.saved ∧
    (setField a hi lo v s).weaves = s.weaves ∧ (setField a hi lo v s).drams = s.drams ∧
    (setField a hi lo v s).survivors = s.survivors ∧ (setField a hi lo v s).checked = s.checked ∧ (setField a hi lo v s).chk = s.chk ∧
    (setField a hi lo v s).suspects = s.suspects ∧ (setField a hi lo v s).windows = s.windows ∧
    (setField a hi lo v s).ports = s.ports ∧ (setField a hi lo v s).switches = s.switches ∧
    (setField a hi lo v s).routeHolds = s.routeHolds ∧ (setField a hi lo v s).heldPkts = s.heldPkts ∧
    (setField a hi lo v s).loop = s.loop ∧ (setField a hi lo v s).fabric = s.fabric ∧ (setField a hi lo v s).nextTag = s.nextTag ∧
    (setField a hi lo v s).routes = s.routes ∧ (setField a hi lo v s).groups = s.groups ∧ (setField a hi lo v s).cursors = s.cursors ∧
    (setField a hi lo v s).streams = s.streams ∧ (setField a hi lo v s).stores = s.stores ∧
    (setField a hi lo v s).cadence = s.cadence ∧ (setField a hi lo v s).svc = s.svc ∧ (setField a hi lo v s).zjp = s.zjp ∧
    (setField a hi lo v s).suspectAt = s.suspectAt ∧ (setField a hi lo v s).sys = s.sys ∧ (setField a hi lo v s).dryRing = s.dryRing ∧
    (setField a hi lo v s).time = s.time ∧ (setField a hi lo v s).frac = s.frac ∧ (setField a hi lo v s).refCount = s.refCount ∧
    (setField a hi lo v s).outbox = s.outbox ∧ (setField a hi lo v s).pending = s.pending := by
  exact ⟨rfl, rfl, rfl, rfl, rfl, rfl, rfl, rfl, rfl, rfl, rfl, rfl, rfl, rfl, rfl, rfl, rfl, rfl, rfl, rfl, rfl, rfl, rfl, rfl, rfl, rfl, rfl, rfl, rfl, rfl, rfl, rfl, rfl, rfl, rfl, rfl, rfl, rfl, rfl, rfl, rfl, rfl, rfl, rfl, rfl, rfl, rfl, rfl, rfl, rfl, rfl, rfl, rfl, rfl, rfl, rfl, rfl⟩

@[simp] theorem bump_frame (a n : Nat) (s : State) :
    (bump a n s).mem = s.mem ∧ (bump a n s).poison = s.poison ∧ (bump a n s).slots = s.slots ∧ (bump a n s).hkey = s.hkey ∧
    (bump a n s).draws = s.draws ∧ (bump a n s).intRaised = s.intRaised ∧ (bump a n s).intQueue = s.intQueue ∧
    (bump a n s).captures = s.captures ∧ (bump a n s).heldLow = s.heldLow ∧ (bump a n s).ctxs = s.ctxs ∧
    (bump a n s).ctxIdents = s.ctxIdents ∧ (bump a n s).teardownTicks = s.teardownTicks ∧ (bump a n s).staleRx = s.staleRx ∧
    (bump a n s).ctxKept = s.ctxKept ∧ (bump a n s).unmaps = s.unmaps ∧ (bump a n s).queues = s.queues ∧
    (bump a n s).endpoints = s.endpoints ∧ (bump a n s).channels = s.channels ∧ (bump a n s).dmaRuns = s.dmaRuns ∧
    (bump a n s).conv = s.conv ∧ (bump a n s).dispatches = s.dispatches ∧ (bump a n s).nextDispatch = s.nextDispatch ∧
    (bump a n s).schedAt = s.schedAt ∧ (bump a n s).delayed = s.delayed ∧ (bump a n s).heldRoles = s.heldRoles ∧
    (bump a n s).looms = s.looms ∧ (bump a n s).saved = s.saved ∧ (bump a n s).weaves = s.weaves ∧ (bump a n s).drams = s.drams ∧
    (bump a n s).survivors = s.survivors ∧ (bump a n s).checked = s.checked ∧ (bump a n s).chk = s.chk ∧
    (bump a n s).suspects = s.suspects ∧ (bump a n s).windows = s.windows ∧ (bump a n s).ports = s.ports ∧
    (bump a n s).switches = s.switches ∧ (bump a n s).routeHolds = s.routeHolds ∧ (bump a n s).heldPkts = s.heldPkts ∧
    (bump a n s).loop = s.loop ∧ (bump a n s).fabric = s.fabric ∧ (bump a n s).nextTag = s.nextTag ∧ (bump a n s).routes = s.routes ∧
    (bump a n s).groups = s.groups ∧ (bump a n s).cursors = s.cursors ∧ (bump a n s).streams = s.streams ∧
    (bump a n s).stores = s.stores ∧ (bump a n s).cadence = s.cadence ∧ (bump a n s).svc = s.svc ∧ (bump a n s).zjp = s.zjp ∧
    (bump a n s).suspectAt = s.suspectAt ∧ (bump a n s).sys = s.sys ∧ (bump a n s).dryRing = s.dryRing ∧ (bump a n s).time = s.time ∧
    (bump a n s).frac = s.frac ∧ (bump a n s).refCount = s.refCount ∧ (bump a n s).outbox = s.outbox ∧
    (bump a n s).pending = s.pending := by
  exact ⟨rfl, rfl, rfl, rfl, rfl, rfl, rfl, rfl, rfl, rfl, rfl, rfl, rfl, rfl, rfl, rfl, rfl, rfl, rfl, rfl, rfl, rfl, rfl, rfl, rfl, rfl, rfl, rfl, rfl, rfl, rfl, rfl, rfl, rfl, rfl, rfl, rfl, rfl, rfl, rfl, rfl, rfl, rfl, rfl, rfl, rfl, rfl, rfl, rfl, rfl, rfl, rfl, rfl, rfl, rfl, rfl, rfl⟩

@[simp] theorem bumpSat_frame (a n : Nat) (s : State) :
    (bumpSat a n s).mem = s.mem ∧ (bumpSat a n s).poison = s.poison ∧ (bumpSat a n s).slots = s.slots ∧ (bumpSat a n s).hkey = s.hkey ∧
    (bumpSat a n s).draws = s.draws ∧ (bumpSat a n s).intRaised = s.intRaised ∧ (bumpSat a n s).intQueue = s.intQueue ∧
    (bumpSat a n s).captures = s.captures ∧ (bumpSat a n s).heldLow = s.heldLow ∧ (bumpSat a n s).ctxs = s.ctxs ∧
    (bumpSat a n s).ctxIdents = s.ctxIdents ∧ (bumpSat a n s).teardownTicks = s.teardownTicks ∧ (bumpSat a n s).staleRx = s.staleRx ∧
    (bumpSat a n s).ctxKept = s.ctxKept ∧ (bumpSat a n s).unmaps = s.unmaps ∧ (bumpSat a n s).queues = s.queues ∧
    (bumpSat a n s).endpoints = s.endpoints ∧ (bumpSat a n s).channels = s.channels ∧ (bumpSat a n s).dmaRuns = s.dmaRuns ∧
    (bumpSat a n s).conv = s.conv ∧ (bumpSat a n s).dispatches = s.dispatches ∧ (bumpSat a n s).nextDispatch = s.nextDispatch ∧
    (bumpSat a n s).schedAt = s.schedAt ∧ (bumpSat a n s).delayed = s.delayed ∧ (bumpSat a n s).heldRoles = s.heldRoles ∧
    (bumpSat a n s).looms = s.looms ∧ (bumpSat a n s).saved = s.saved ∧ (bumpSat a n s).weaves = s.weaves ∧
    (bumpSat a n s).drams = s.drams ∧ (bumpSat a n s).survivors = s.survivors ∧ (bumpSat a n s).checked = s.checked ∧
    (bumpSat a n s).chk = s.chk ∧ (bumpSat a n s).suspects = s.suspects ∧ (bumpSat a n s).windows = s.windows ∧
    (bumpSat a n s).ports = s.ports ∧ (bumpSat a n s).switches = s.switches ∧ (bumpSat a n s).routeHolds = s.routeHolds ∧
    (bumpSat a n s).heldPkts = s.heldPkts ∧ (bumpSat a n s).loop = s.loop ∧ (bumpSat a n s).fabric = s.fabric ∧
    (bumpSat a n s).nextTag = s.nextTag ∧ (bumpSat a n s).routes = s.routes ∧ (bumpSat a n s).groups = s.groups ∧
    (bumpSat a n s).cursors = s.cursors ∧ (bumpSat a n s).streams = s.streams ∧ (bumpSat a n s).stores = s.stores ∧
    (bumpSat a n s).cadence = s.cadence ∧ (bumpSat a n s).svc = s.svc ∧ (bumpSat a n s).zjp = s.zjp ∧
    (bumpSat a n s).suspectAt = s.suspectAt ∧ (bumpSat a n s).sys = s.sys ∧ (bumpSat a n s).dryRing = s.dryRing ∧
    (bumpSat a n s).time = s.time ∧ (bumpSat a n s).frac = s.frac ∧ (bumpSat a n s).refCount = s.refCount ∧
    (bumpSat a n s).outbox = s.outbox ∧ (bumpSat a n s).pending = s.pending := by
  exact ⟨rfl, rfl, rfl, rfl, rfl, rfl, rfl, rfl, rfl, rfl, rfl, rfl, rfl, rfl, rfl, rfl, rfl, rfl, rfl, rfl, rfl, rfl, rfl, rfl, rfl, rfl, rfl, rfl, rfl, rfl, rfl, rfl, rfl, rfl, rfl, rfl, rfl, rfl, rfl, rfl, rfl, rfl, rfl, rfl, rfl, rfl, rfl, rfl, rfl, rfl, rfl, rfl, rfl, rfl, rfl, rfl, rfl⟩

@[simp] theorem setPoison_frame (g : Nat) (p : Bool) (s : State) :
    (setPoison g p s).regs = s.regs ∧ (setPoison g p s).mem = s.mem ∧ (setPoison g p s).slots = s.slots ∧
    (setPoison g p s).hkey = s.hkey ∧ (setPoison g p s).draws = s.draws ∧ (setPoison g p s).intRaised = s.intRaised ∧
    (setPoison g p s).intQueue = s.intQueue ∧ (setPoison g p s).captures = s.captures ∧ (setPoison g p s).heldLow = s.heldLow ∧
    (setPoison g p s).ctxs = s.ctxs ∧ (setPoison g p s).ctxIdents = s.ctxIdents ∧ (setPoison g p s).teardownTicks = s.teardownTicks ∧
    (setPoison g p s).staleRx = s.staleRx ∧ (setPoison g p s).ctxKept = s.ctxKept ∧ (setPoison g p s).unmaps = s.unmaps ∧
    (setPoison g p s).queues = s.queues ∧ (setPoison g p s).endpoints = s.endpoints ∧ (setPoison g p s).channels = s.channels ∧
    (setPoison g p s).dmaRuns = s.dmaRuns ∧ (setPoison g p s).conv = s.conv ∧ (setPoison g p s).dispatches = s.dispatches ∧
    (setPoison g p s).nextDispatch = s.nextDispatch ∧ (setPoison g p s).schedAt = s.schedAt ∧ (setPoison g p s).delayed = s.delayed ∧
    (setPoison g p s).heldRoles = s.heldRoles ∧ (setPoison g p s).looms = s.looms ∧ (setPoison g p s).saved = s.saved ∧
    (setPoison g p s).weaves = s.weaves ∧ (setPoison g p s).drams = s.drams ∧ (setPoison g p s).survivors = s.survivors ∧
    (setPoison g p s).checked = s.checked ∧ (setPoison g p s).chk = s.chk ∧ (setPoison g p s).suspects = s.suspects ∧
    (setPoison g p s).windows = s.windows ∧ (setPoison g p s).ports = s.ports ∧ (setPoison g p s).switches = s.switches ∧
    (setPoison g p s).routeHolds = s.routeHolds ∧ (setPoison g p s).heldPkts = s.heldPkts ∧ (setPoison g p s).loop = s.loop ∧
    (setPoison g p s).fabric = s.fabric ∧ (setPoison g p s).nextTag = s.nextTag ∧ (setPoison g p s).routes = s.routes ∧
    (setPoison g p s).groups = s.groups ∧ (setPoison g p s).cursors = s.cursors ∧ (setPoison g p s).streams = s.streams ∧
    (setPoison g p s).stores = s.stores ∧ (setPoison g p s).cadence = s.cadence ∧ (setPoison g p s).svc = s.svc ∧
    (setPoison g p s).zjp = s.zjp ∧ (setPoison g p s).suspectAt = s.suspectAt ∧ (setPoison g p s).sys = s.sys ∧
    (setPoison g p s).dryRing = s.dryRing ∧ (setPoison g p s).time = s.time ∧ (setPoison g p s).frac = s.frac ∧
    (setPoison g p s).refCount = s.refCount ∧ (setPoison g p s).outbox = s.outbox ∧ (setPoison g p s).pending = s.pending ∧ (∀ r, reg (setPoison g p s) r = reg s r) := by
  exact ⟨rfl, rfl, rfl, rfl, rfl, rfl, rfl, rfl, rfl, rfl, rfl, rfl, rfl, rfl, rfl, rfl, rfl, rfl, rfl, rfl, rfl, rfl, rfl, rfl, rfl, rfl, rfl, rfl, rfl, rfl, rfl, rfl, rfl, rfl, rfl, rfl, rfl, rfl, rfl, rfl, rfl, rfl, rfl, rfl, rfl, rfl, rfl, rfl, rfl, rfl, rfl, rfl, rfl, rfl, rfl, rfl, rfl, fun _ => rfl⟩

@[simp] theorem slotCreate_frame (y h n : Nat) (o : Word) (s : State) :
    (slotCreate y h n o s).regs = s.regs ∧ (slotCreate y h n o s).mem = s.mem ∧ (slotCreate y h n o s).poison = s.poison ∧
    (slotCreate y h n o s).hkey = s.hkey ∧ (slotCreate y h n o s).draws = s.draws ∧ (slotCreate y h n o s).intRaised = s.intRaised ∧
    (slotCreate y h n o s).intQueue = s.intQueue ∧ (slotCreate y h n o s).captures = s.captures ∧
    (slotCreate y h n o s).heldLow = s.heldLow ∧ (slotCreate y h n o s).ctxs = s.ctxs ∧
    (slotCreate y h n o s).ctxIdents = s.ctxIdents ∧ (slotCreate y h n o s).teardownTicks = s.teardownTicks ∧
    (slotCreate y h n o s).staleRx = s.staleRx ∧ (slotCreate y h n o s).ctxKept = s.ctxKept ∧
    (slotCreate y h n o s).unmaps = s.unmaps ∧ (slotCreate y h n o s).queues = s.queues ∧
    (slotCreate y h n o s).endpoints = s.endpoints ∧ (slotCreate y h n o s).channels = s.channels ∧
    (slotCreate y h n o s).dmaRuns = s.dmaRuns ∧ (slotCreate y h n o s).conv = s.conv ∧
    (slotCreate y h n o s).dispatches = s.dispatches ∧ (slotCreate y h n o s).nextDispatch = s.nextDispatch ∧
    (slotCreate y h n o s).schedAt = s.schedAt ∧ (slotCreate y h n o s).delayed = s.delayed ∧
    (slotCreate y h n o s).heldRoles = s.heldRoles ∧ (slotCreate y h n o s).looms = s.looms ∧ (slotCreate y h n o s).saved = s.saved ∧
    (slotCreate y h n o s).weaves = s.weaves ∧ (slotCreate y h n o s).drams = s.drams ∧
    (slotCreate y h n o s).survivors = s.survivors ∧ (slotCreate y h n o s).checked = s.checked ∧ (slotCreate y h n o s).chk = s.chk ∧
    (slotCreate y h n o s).suspects = s.suspects ∧ (slotCreate y h n o s).windows = s.windows ∧
    (slotCreate y h n o s).ports = s.ports ∧ (slotCreate y h n o s).switches = s.switches ∧
    (slotCreate y h n o s).routeHolds = s.routeHolds ∧ (slotCreate y h n o s).heldPkts = s.heldPkts ∧
    (slotCreate y h n o s).loop = s.loop ∧ (slotCreate y h n o s).fabric = s.fabric ∧ (slotCreate y h n o s).nextTag = s.nextTag ∧
    (slotCreate y h n o s).routes = s.routes ∧ (slotCreate y h n o s).groups = s.groups ∧ (slotCreate y h n o s).cursors = s.cursors ∧
    (slotCreate y h n o s).streams = s.streams ∧ (slotCreate y h n o s).stores = s.stores ∧
    (slotCreate y h n o s).cadence = s.cadence ∧ (slotCreate y h n o s).svc = s.svc ∧ (slotCreate y h n o s).zjp = s.zjp ∧
    (slotCreate y h n o s).suspectAt = s.suspectAt ∧ (slotCreate y h n o s).sys = s.sys ∧ (slotCreate y h n o s).dryRing = s.dryRing ∧
    (slotCreate y h n o s).time = s.time ∧ (slotCreate y h n o s).frac = s.frac ∧ (slotCreate y h n o s).refCount = s.refCount ∧
    (slotCreate y h n o s).outbox = s.outbox ∧ (slotCreate y h n o s).pending = s.pending ∧ (∀ r, reg (slotCreate y h n o s) r = reg s r) := by
  exact ⟨rfl, rfl, rfl, rfl, rfl, rfl, rfl, rfl, rfl, rfl, rfl, rfl, rfl, rfl, rfl, rfl, rfl, rfl, rfl, rfl, rfl, rfl, rfl, rfl, rfl, rfl, rfl, rfl, rfl, rfl, rfl, rfl, rfl, rfl, rfl, rfl, rfl, rfl, rfl, rfl, rfl, rfl, rfl, rfl, rfl, rfl, rfl, rfl, rfl, rfl, rfl, rfl, rfl, rfl, rfl, rfl, rfl, fun _ => rfl⟩

@[simp] theorem slotDestroy_frame (y h n : Nat) (s : State) :
    (slotDestroy y h n s).regs = s.regs ∧ (slotDestroy y h n s).mem = s.mem ∧ (slotDestroy y h n s).poison = s.poison ∧
    (slotDestroy y h n s).hkey = s.hkey ∧ (slotDestroy y h n s).draws = s.draws ∧ (slotDestroy y h n s).intRaised = s.intRaised ∧
    (slotDestroy y h n s).intQueue = s.intQueue ∧ (slotDestroy y h n s).captures = s.captures ∧
    (slotDestroy y h n s).heldLow = s.heldLow ∧ (slotDestroy y h n s).ctxs = s.ctxs ∧ (slotDestroy y h n s).ctxIdents = s.ctxIdents ∧
    (slotDestroy y h n s).teardownTicks = s.teardownTicks ∧ (slotDestroy y h n s).staleRx = s.staleRx ∧
    (slotDestroy y h n s).ctxKept = s.ctxKept ∧ (slotDestroy y h n s).unmaps = s.unmaps ∧ (slotDestroy y h n s).queues = s.queues ∧
    (slotDestroy y h n s).endpoints = s.endpoints ∧ (slotDestroy y h n s).channels = s.channels ∧
    (slotDestroy y h n s).dmaRuns = s.dmaRuns ∧ (slotDestroy y h n s).conv = s.conv ∧ (slotDestroy y h n s).dispatches = s.dispatches ∧
    (slotDestroy y h n s).nextDispatch = s.nextDispatch ∧ (slotDestroy y h n s).schedAt = s.schedAt ∧
    (slotDestroy y h n s).delayed = s.delayed ∧ (slotDestroy y h n s).heldRoles = s.heldRoles ∧ (slotDestroy y h n s).looms = s.looms ∧
    (slotDestroy y h n s).saved = s.saved ∧ (slotDestroy y h n s).weaves = s.weaves ∧ (slotDestroy y h n s).drams = s.drams ∧
    (slotDestroy y h n s).survivors = s.survivors ∧ (slotDestroy y h n s).checked = s.checked ∧ (slotDestroy y h n s).chk = s.chk ∧
    (slotDestroy y h n s).suspects = s.suspects ∧ (slotDestroy y h n s).windows = s.windows ∧ (slotDestroy y h n s).ports = s.ports ∧
    (slotDestroy y h n s).switches = s.switches ∧ (slotDestroy y h n s).routeHolds = s.routeHolds ∧
    (slotDestroy y h n s).heldPkts = s.heldPkts ∧ (slotDestroy y h n s).loop = s.loop ∧ (slotDestroy y h n s).fabric = s.fabric ∧
    (slotDestroy y h n s).nextTag = s.nextTag ∧ (slotDestroy y h n s).routes = s.routes ∧ (slotDestroy y h n s).groups = s.groups ∧
    (slotDestroy y h n s).cursors = s.cursors ∧ (slotDestroy y h n s).streams = s.streams ∧ (slotDestroy y h n s).stores = s.stores ∧
    (slotDestroy y h n s).cadence = s.cadence ∧ (slotDestroy y h n s).svc = s.svc ∧ (slotDestroy y h n s).zjp = s.zjp ∧
    (slotDestroy y h n s).suspectAt = s.suspectAt ∧ (slotDestroy y h n s).sys = s.sys ∧ (slotDestroy y h n s).dryRing = s.dryRing ∧
    (slotDestroy y h n s).time = s.time ∧ (slotDestroy y h n s).frac = s.frac ∧ (slotDestroy y h n s).refCount = s.refCount ∧
    (slotDestroy y h n s).outbox = s.outbox ∧ (slotDestroy y h n s).pending = s.pending ∧ (∀ r, reg (slotDestroy y h n s) r = reg s r) := by
  exact ⟨rfl, rfl, rfl, rfl, rfl, rfl, rfl, rfl, rfl, rfl, rfl, rfl, rfl, rfl, rfl, rfl, rfl, rfl, rfl, rfl, rfl, rfl, rfl, rfl, rfl, rfl, rfl, rfl, rfl, rfl, rfl, rfl, rfl, rfl, rfl, rfl, rfl, rfl, rfl, rfl, rfl, rfl, rfl, rfl, rfl, rfl, rfl, rfl, rfl, rfl, rfl, rfl, rfl, rfl, rfl, rfl, rfl, fun _ => rfl⟩

@[simp] theorem modCtx_frame (c : Nat) (f : Ctx → Ctx) (s : State) :
    (modCtx c f s).regs = s.regs ∧ (modCtx c f s).mem = s.mem ∧ (modCtx c f s).poison = s.poison ∧ (modCtx c f s).slots = s.slots ∧
    (modCtx c f s).hkey = s.hkey ∧ (modCtx c f s).draws = s.draws ∧ (modCtx c f s).intRaised = s.intRaised ∧
    (modCtx c f s).intQueue = s.intQueue ∧ (modCtx c f s).captures = s.captures ∧ (modCtx c f s).heldLow = s.heldLow ∧
    (modCtx c f s).ctxIdents = s.ctxIdents ∧ (modCtx c f s).teardownTicks = s.teardownTicks ∧ (modCtx c f s).staleRx = s.staleRx ∧
    (modCtx c f s).ctxKept = s.ctxKept ∧ (modCtx c f s).unmaps = s.unmaps ∧ (modCtx c f s).queues = s.queues ∧
    (modCtx c f s).endpoints = s.endpoints ∧ (modCtx c f s).channels = s.channels ∧ (modCtx c f s).dmaRuns = s.dmaRuns ∧
    (modCtx c f s).conv = s.conv ∧ (modCtx c f s).dispatches = s.dispatches ∧ (modCtx c f s).nextDispatch = s.nextDispatch ∧
    (modCtx c f s).schedAt = s.schedAt ∧ (modCtx c f s).delayed = s.delayed ∧ (modCtx c f s).heldRoles = s.heldRoles ∧
    (modCtx c f s).looms = s.looms ∧ (modCtx c f s).saved = s.saved ∧ (modCtx c f s).weaves = s.weaves ∧
    (modCtx c f s).drams = s.drams ∧ (modCtx c f s).survivors = s.survivors ∧ (modCtx c f s).checked = s.checked ∧
    (modCtx c f s).chk = s.chk ∧ (modCtx c f s).suspects = s.suspects ∧ (modCtx c f s).windows = s.windows ∧
    (modCtx c f s).ports = s.ports ∧ (modCtx c f s).switches = s.switches ∧ (modCtx c f s).routeHolds = s.routeHolds ∧
    (modCtx c f s).heldPkts = s.heldPkts ∧ (modCtx c f s).loop = s.loop ∧ (modCtx c f s).fabric = s.fabric ∧
    (modCtx c f s).nextTag = s.nextTag ∧ (modCtx c f s).routes = s.routes ∧ (modCtx c f s).groups = s.groups ∧
    (modCtx c f s).cursors = s.cursors ∧ (modCtx c f s).streams = s.streams ∧ (modCtx c f s).stores = s.stores ∧
    (modCtx c f s).cadence = s.cadence ∧ (modCtx c f s).svc = s.svc ∧ (modCtx c f s).zjp = s.zjp ∧
    (modCtx c f s).suspectAt = s.suspectAt ∧ (modCtx c f s).sys = s.sys ∧ (modCtx c f s).dryRing = s.dryRing ∧
    (modCtx c f s).time = s.time ∧ (modCtx c f s).frac = s.frac ∧ (modCtx c f s).refCount = s.refCount ∧
    (modCtx c f s).outbox = s.outbox ∧ (modCtx c f s).pending = s.pending ∧ (∀ r, reg (modCtx c f s) r = reg s r) := by
  exact ⟨rfl, rfl, rfl, rfl, rfl, rfl, rfl, rfl, rfl, rfl, rfl, rfl, rfl, rfl, rfl, rfl, rfl, rfl, rfl, rfl, rfl, rfl, rfl, rfl, rfl, rfl, rfl, rfl, rfl, rfl, rfl, rfl, rfl, rfl, rfl, rfl, rfl, rfl, rfl, rfl, rfl, rfl, rfl, rfl, rfl, rfl, rfl, rfl, rfl, rfl, rfl, rfl, rfl, rfl, rfl, rfl, rfl, fun _ => rfl⟩

@[simp] theorem modCtxDie_frame (c d : Nat) (f : CtxDie → CtxDie) (s : State) :
    (modCtxDie c d f s).regs = s.regs ∧ (modCtxDie c d f s).mem = s.mem ∧ (modCtxDie c d f s).poison = s.poison ∧
    (modCtxDie c d f s).slots = s.slots ∧ (modCtxDie c d f s).hkey = s.hkey ∧ (modCtxDie c d f s).draws = s.draws ∧
    (modCtxDie c d f s).intRaised = s.intRaised ∧ (modCtxDie c d f s).intQueue = s.intQueue ∧
    (modCtxDie c d f s).captures = s.captures ∧ (modCtxDie c d f s).heldLow = s.heldLow ∧ (modCtxDie c d f s).ctxIdents = s.ctxIdents ∧
    (modCtxDie c d f s).teardownTicks = s.teardownTicks ∧ (modCtxDie c d f s).staleRx = s.staleRx ∧
    (modCtxDie c d f s).ctxKept = s.ctxKept ∧ (modCtxDie c d f s).unmaps = s.unmaps ∧ (modCtxDie c d f s).queues = s.queues ∧
    (modCtxDie c d f s).endpoints = s.endpoints ∧ (modCtxDie c d f s).channels = s.channels ∧ (modCtxDie c d f s).dmaRuns = s.dmaRuns ∧
    (modCtxDie c d f s).conv = s.conv ∧ (modCtxDie c d f s).dispatches = s.dispatches ∧
    (modCtxDie c d f s).nextDispatch = s.nextDispatch ∧ (modCtxDie c d f s).schedAt = s.schedAt ∧
    (modCtxDie c d f s).delayed = s.delayed ∧ (modCtxDie c d f s).heldRoles = s.heldRoles ∧ (modCtxDie c d f s).looms = s.looms ∧
    (modCtxDie c d f s).saved = s.saved ∧ (modCtxDie c d f s).weaves = s.weaves ∧ (modCtxDie c d f s).drams = s.drams ∧
    (modCtxDie c d f s).survivors = s.survivors ∧ (modCtxDie c d f s).checked = s.checked ∧ (modCtxDie c d f s).chk = s.chk ∧
    (modCtxDie c d f s).suspects = s.suspects ∧ (modCtxDie c d f s).windows = s.windows ∧ (modCtxDie c d f s).ports = s.ports ∧
    (modCtxDie c d f s).switches = s.switches ∧ (modCtxDie c d f s).routeHolds = s.routeHolds ∧
    (modCtxDie c d f s).heldPkts = s.heldPkts ∧ (modCtxDie c d f s).loop = s.loop ∧ (modCtxDie c d f s).fabric = s.fabric ∧
    (modCtxDie c d f s).nextTag = s.nextTag ∧ (modCtxDie c d f s).routes = s.routes ∧ (modCtxDie c d f s).groups = s.groups ∧
    (modCtxDie c d f s).cursors = s.cursors ∧ (modCtxDie c d f s).streams = s.streams ∧ (modCtxDie c d f s).stores = s.stores ∧
    (modCtxDie c d f s).cadence = s.cadence ∧ (modCtxDie c d f s).svc = s.svc ∧ (modCtxDie c d f s).zjp = s.zjp ∧
    (modCtxDie c d f s).suspectAt = s.suspectAt ∧ (modCtxDie c d f s).sys = s.sys ∧ (modCtxDie c d f s).dryRing = s.dryRing ∧
    (modCtxDie c d f s).time = s.time ∧ (modCtxDie c d f s).frac = s.frac ∧ (modCtxDie c d f s).refCount = s.refCount ∧
    (modCtxDie c d f s).outbox = s.outbox ∧ (modCtxDie c d f s).pending = s.pending ∧ (∀ r, reg (modCtxDie c d f s) r = reg s r) := by
  exact ⟨rfl, rfl, rfl, rfl, rfl, rfl, rfl, rfl, rfl, rfl, rfl, rfl, rfl, rfl, rfl, rfl, rfl, rfl, rfl, rfl, rfl, rfl, rfl, rfl, rfl, rfl, rfl, rfl, rfl, rfl, rfl, rfl, rfl, rfl, rfl, rfl, rfl, rfl, rfl, rfl, rfl, rfl, rfl, rfl, rfl, rfl, rfl, rfl, rfl, rfl, rfl, rfl, rfl, rfl, rfl, rfl, rfl, fun _ => rfl⟩

@[simp] theorem countInvalid_frame (c : Nat) (s : State) :
    (countInvalid c s).regs = s.regs ∧ (countInvalid c s).mem = s.mem ∧ (countInvalid c s).poison = s.poison ∧
    (countInvalid c s).slots = s.slots ∧ (countInvalid c s).hkey = s.hkey ∧ (countInvalid c s).draws = s.draws ∧
    (countInvalid c s).intRaised = s.intRaised ∧ (countInvalid c s).intQueue = s.intQueue ∧ (countInvalid c s).captures = s.captures ∧
    (countInvalid c s).heldLow = s.heldLow ∧ (countInvalid c s).ctxIdents = s.ctxIdents ∧
    (countInvalid c s).teardownTicks = s.teardownTicks ∧ (countInvalid c s).staleRx = s.staleRx ∧
    (countInvalid c s).ctxKept = s.ctxKept ∧ (countInvalid c s).unmaps = s.unmaps ∧ (countInvalid c s).queues = s.queues ∧
    (countInvalid c s).endpoints = s.endpoints ∧ (countInvalid c s).channels = s.channels ∧ (countInvalid c s).dmaRuns = s.dmaRuns ∧
    (countInvalid c s).conv = s.conv ∧ (countInvalid c s).dispatches = s.dispatches ∧
    (countInvalid c s).nextDispatch = s.nextDispatch ∧ (countInvalid c s).schedAt = s.schedAt ∧
    (countInvalid c s).delayed = s.delayed ∧ (countInvalid c s).heldRoles = s.heldRoles ∧ (countInvalid c s).looms = s.looms ∧
    (countInvalid c s).saved = s.saved ∧ (countInvalid c s).weaves = s.weaves ∧ (countInvalid c s).drams = s.drams ∧
    (countInvalid c s).survivors = s.survivors ∧ (countInvalid c s).checked = s.checked ∧ (countInvalid c s).chk = s.chk ∧
    (countInvalid c s).suspects = s.suspects ∧ (countInvalid c s).windows = s.windows ∧ (countInvalid c s).ports = s.ports ∧
    (countInvalid c s).switches = s.switches ∧ (countInvalid c s).routeHolds = s.routeHolds ∧
    (countInvalid c s).heldPkts = s.heldPkts ∧ (countInvalid c s).loop = s.loop ∧ (countInvalid c s).fabric = s.fabric ∧
    (countInvalid c s).nextTag = s.nextTag ∧ (countInvalid c s).routes = s.routes ∧ (countInvalid c s).groups = s.groups ∧
    (countInvalid c s).cursors = s.cursors ∧ (countInvalid c s).streams = s.streams ∧ (countInvalid c s).stores = s.stores ∧
    (countInvalid c s).cadence = s.cadence ∧ (countInvalid c s).svc = s.svc ∧ (countInvalid c s).zjp = s.zjp ∧
    (countInvalid c s).suspectAt = s.suspectAt ∧ (countInvalid c s).sys = s.sys ∧ (countInvalid c s).dryRing = s.dryRing ∧
    (countInvalid c s).time = s.time ∧ (countInvalid c s).frac = s.frac ∧ (countInvalid c s).refCount = s.refCount ∧
    (countInvalid c s).outbox = s.outbox ∧ (countInvalid c s).pending = s.pending ∧ (∀ r, reg (countInvalid c s) r = reg s r) := by
  exact ⟨rfl, rfl, rfl, rfl, rfl, rfl, rfl, rfl, rfl, rfl, rfl, rfl, rfl, rfl, rfl, rfl, rfl, rfl, rfl, rfl, rfl, rfl, rfl, rfl, rfl, rfl, rfl, rfl, rfl, rfl, rfl, rfl, rfl, rfl, rfl, rfl, rfl, rfl, rfl, rfl, rfl, rfl, rfl, rfl, rfl, rfl, rfl, rfl, rfl, rfl, rfl, rfl, rfl, rfl, rfl, rfl, rfl, fun _ => rfl⟩

@[simp] theorem emit_frame (o : Out) (s : State) :
    (emit o s).regs = s.regs ∧ (emit o s).mem = s.mem ∧ (emit o s).poison = s.poison ∧ (emit o s).slots = s.slots ∧
    (emit o s).hkey = s.hkey ∧ (emit o s).draws = s.draws ∧ (emit o s).intRaised = s.intRaised ∧ (emit o s).intQueue = s.intQueue ∧
    (emit o s).captures = s.captures ∧ (emit o s).heldLow = s.heldLow ∧ (emit o s).ctxs = s.ctxs ∧ (emit o s).ctxIdents = s.ctxIdents ∧
    (emit o s).teardownTicks = s.teardownTicks ∧ (emit o s).staleRx = s.staleRx ∧ (emit o s).ctxKept = s.ctxKept ∧
    (emit o s).unmaps = s.unmaps ∧ (emit o s).queues = s.queues ∧ (emit o s).endpoints = s.endpoints ∧
    (emit o s).channels = s.channels ∧ (emit o s).dmaRuns = s.dmaRuns ∧ (emit o s).conv = s.conv ∧
    (emit o s).dispatches = s.dispatches ∧ (emit o s).nextDispatch = s.nextDispatch ∧ (emit o s).schedAt = s.schedAt ∧
    (emit o s).delayed = s.delayed ∧ (emit o s).heldRoles = s.heldRoles ∧ (emit o s).looms = s.looms ∧ (emit o s).saved = s.saved ∧
    (emit o s).weaves = s.weaves ∧ (emit o s).drams = s.drams ∧ (emit o s).survivors = s.survivors ∧ (emit o s).checked = s.checked ∧
    (emit o s).chk = s.chk ∧ (emit o s).suspects = s.suspects ∧ (emit o s).windows = s.windows ∧ (emit o s).ports = s.ports ∧
    (emit o s).switches = s.switches ∧ (emit o s).routeHolds = s.routeHolds ∧ (emit o s).heldPkts = s.heldPkts ∧
    (emit o s).loop = s.loop ∧ (emit o s).fabric = s.fabric ∧ (emit o s).nextTag = s.nextTag ∧ (emit o s).routes = s.routes ∧
    (emit o s).groups = s.groups ∧ (emit o s).cursors = s.cursors ∧ (emit o s).streams = s.streams ∧ (emit o s).stores = s.stores ∧
    (emit o s).cadence = s.cadence ∧ (emit o s).svc = s.svc ∧ (emit o s).zjp = s.zjp ∧ (emit o s).suspectAt = s.suspectAt ∧
    (emit o s).sys = s.sys ∧ (emit o s).dryRing = s.dryRing ∧ (emit o s).time = s.time ∧ (emit o s).frac = s.frac ∧
    (emit o s).refCount = s.refCount ∧ (emit o s).pending = s.pending ∧ (∀ r, reg (emit o s) r = reg s r) := by
  exact ⟨rfl, rfl, rfl, rfl, rfl, rfl, rfl, rfl, rfl, rfl, rfl, rfl, rfl, rfl, rfl, rfl, rfl, rfl, rfl, rfl, rfl, rfl, rfl, rfl, rfl, rfl, rfl, rfl, rfl, rfl, rfl, rfl, rfl, rfl, rfl, rfl, rfl, rfl, rfl, rfl, rfl, rfl, rfl, rfl, rfl, rfl, rfl, rfl, rfl, rfl, rfl, rfl, rfl, rfl, rfl, rfl, rfl, fun _ => rfl⟩

@[simp] theorem logDry_frame (d c n : Nat) (l : List Nat) (s : State) :
    (logDry d c n l s).mem = s.mem ∧ (logDry d c n l s).poison = s.poison ∧ (logDry d c n l s).slots = s.slots ∧
    (logDry d c n l s).hkey = s.hkey ∧ (logDry d c n l s).draws = s.draws ∧ (logDry d c n l s).intRaised = s.intRaised ∧
    (logDry d c n l s).intQueue = s.intQueue ∧ (logDry d c n l s).captures = s.captures ∧ (logDry d c n l s).heldLow = s.heldLow ∧
    (logDry d c n l s).ctxs = s.ctxs ∧ (logDry d c n l s).ctxIdents = s.ctxIdents ∧
    (logDry d c n l s).teardownTicks = s.teardownTicks ∧ (logDry d c n l s).staleRx = s.staleRx ∧
    (logDry d c n l s).ctxKept = s.ctxKept ∧ (logDry d c n l s).unmaps = s.unmaps ∧ (logDry d c n l s).queues = s.queues ∧
    (logDry d c n l s).endpoints = s.endpoints ∧ (logDry d c n l s).channels = s.channels ∧ (logDry d c n l s).dmaRuns = s.dmaRuns ∧
    (logDry d c n l s).conv = s.conv ∧ (logDry d c n l s).dispatches = s.dispatches ∧
    (logDry d c n l s).nextDispatch = s.nextDispatch ∧ (logDry d c n l s).schedAt = s.schedAt ∧
    (logDry d c n l s).delayed = s.delayed ∧ (logDry d c n l s).heldRoles = s.heldRoles ∧ (logDry d c n l s).looms = s.looms ∧
    (logDry d c n l s).saved = s.saved ∧ (logDry d c n l s).weaves = s.weaves ∧ (logDry d c n l s).drams = s.drams ∧
    (logDry d c n l s).survivors = s.survivors ∧ (logDry d c n l s).checked = s.checked ∧ (logDry d c n l s).chk = s.chk ∧
    (logDry d c n l s).suspects = s.suspects ∧ (logDry d c n l s).windows = s.windows ∧ (logDry d c n l s).ports = s.ports ∧
    (logDry d c n l s).switches = s.switches ∧ (logDry d c n l s).routeHolds = s.routeHolds ∧
    (logDry d c n l s).heldPkts = s.heldPkts ∧ (logDry d c n l s).loop = s.loop ∧ (logDry d c n l s).fabric = s.fabric ∧
    (logDry d c n l s).nextTag = s.nextTag ∧ (logDry d c n l s).routes = s.routes ∧ (logDry d c n l s).groups = s.groups ∧
    (logDry d c n l s).cursors = s.cursors ∧ (logDry d c n l s).streams = s.streams ∧ (logDry d c n l s).stores = s.stores ∧
    (logDry d c n l s).cadence = s.cadence ∧ (logDry d c n l s).svc = s.svc ∧ (logDry d c n l s).zjp = s.zjp ∧
    (logDry d c n l s).suspectAt = s.suspectAt ∧ (logDry d c n l s).sys = s.sys ∧ (logDry d c n l s).time = s.time ∧
    (logDry d c n l s).frac = s.frac ∧ (logDry d c n l s).refCount = s.refCount ∧ (logDry d c n l s).outbox = s.outbox ∧
    (logDry d c n l s).pending = s.pending := by
  exact ⟨rfl, rfl, rfl, rfl, rfl, rfl, rfl, rfl, rfl, rfl, rfl, rfl, rfl, rfl, rfl, rfl, rfl, rfl, rfl, rfl, rfl, rfl, rfl, rfl, rfl, rfl, rfl, rfl, rfl, rfl, rfl, rfl, rfl, rfl, rfl, rfl, rfl, rfl, rfl, rfl, rfl, rfl, rfl, rfl, rfl, rfl, rfl, rfl, rfl, rfl, rfl, rfl, rfl, rfl, rfl, rfl⟩

@[simp] theorem modWeave_frame (d : Nat) (f : Weave → Weave) (s : State) :
    (modWeave d f s).regs = s.regs ∧ (modWeave d f s).mem = s.mem ∧ (modWeave d f s).poison = s.poison ∧
    (modWeave d f s).slots = s.slots ∧ (modWeave d f s).hkey = s.hkey ∧ (modWeave d f s).draws = s.draws ∧
    (modWeave d f s).intRaised = s.intRaised ∧ (modWeave d f s).intQueue = s.intQueue ∧ (modWeave d f s).captures = s.captures ∧
    (modWeave d f s).heldLow = s.heldLow ∧ (modWeave d f s).ctxs = s.ctxs ∧ (modWeave d f s).ctxIdents = s.ctxIdents ∧
    (modWeave d f s).teardownTicks = s.teardownTicks ∧ (modWeave d f s).staleRx = s.staleRx ∧ (modWeave d f s).ctxKept = s.ctxKept ∧
    (modWeave d f s).unmaps = s.unmaps ∧ (modWeave d f s).queues = s.queues ∧ (modWeave d f s).endpoints = s.endpoints ∧
    (modWeave d f s).channels = s.channels ∧ (modWeave d f s).dmaRuns = s.dmaRuns ∧ (modWeave d f s).conv = s.conv ∧
    (modWeave d f s).dispatches = s.dispatches ∧ (modWeave d f s).nextDispatch = s.nextDispatch ∧
    (modWeave d f s).schedAt = s.schedAt ∧ (modWeave d f s).delayed = s.delayed ∧ (modWeave d f s).heldRoles = s.heldRoles ∧
    (modWeave d f s).looms = s.looms ∧ (modWeave d f s).saved = s.saved ∧ (modWeave d f s).drams = s.drams ∧
    (modWeave d f s).survivors = s.survivors ∧ (modWeave d f s).checked = s.checked ∧ (modWeave d f s).chk = s.chk ∧
    (modWeave d f s).suspects = s.suspects ∧ (modWeave d f s).windows = s.windows ∧ (modWeave d f s).ports = s.ports ∧
    (modWeave d f s).switches = s.switches ∧ (modWeave d f s).routeHolds = s.routeHolds ∧ (modWeave d f s).heldPkts = s.heldPkts ∧
    (modWeave d f s).loop = s.loop ∧ (modWeave d f s).fabric = s.fabric ∧ (modWeave d f s).nextTag = s.nextTag ∧
    (modWeave d f s).routes = s.routes ∧ (modWeave d f s).groups = s.groups ∧ (modWeave d f s).cursors = s.cursors ∧
    (modWeave d f s).streams = s.streams ∧ (modWeave d f s).stores = s.stores ∧ (modWeave d f s).cadence = s.cadence ∧
    (modWeave d f s).svc = s.svc ∧ (modWeave d f s).zjp = s.zjp ∧ (modWeave d f s).suspectAt = s.suspectAt ∧
    (modWeave d f s).sys = s.sys ∧ (modWeave d f s).dryRing = s.dryRing ∧ (modWeave d f s).time = s.time ∧
    (modWeave d f s).frac = s.frac ∧ (modWeave d f s).refCount = s.refCount ∧ (modWeave d f s).outbox = s.outbox ∧
    (modWeave d f s).pending = s.pending ∧ (∀ r, reg (modWeave d f s) r = reg s r) := by
  exact ⟨rfl, rfl, rfl, rfl, rfl, rfl, rfl, rfl, rfl, rfl, rfl, rfl, rfl, rfl, rfl, rfl, rfl, rfl, rfl, rfl, rfl, rfl, rfl, rfl, rfl, rfl, rfl, rfl, rfl, rfl, rfl, rfl, rfl, rfl, rfl, rfl, rfl, rfl, rfl, rfl, rfl, rfl, rfl, rfl, rfl, rfl, rfl, rfl, rfl, rfl, rfl, rfl, rfl, rfl, rfl, rfl, rfl, fun _ => rfl⟩

@[simp] theorem modSet_frame (d la : Nat) (f : WSet → WSet) (s : State) :
    (modSet d la f s).regs = s.regs ∧ (modSet d la f s).mem = s.mem ∧ (modSet d la f s).poison = s.poison ∧
    (modSet d la f s).slots = s.slots ∧ (modSet d la f s).hkey = s.hkey ∧ (modSet d la f s).draws = s.draws ∧
    (modSet d la f s).intRaised = s.intRaised ∧ (modSet d la f s).intQueue = s.intQueue ∧ (modSet d la f s).captures = s.captures ∧
    (modSet d la f s).heldLow = s.heldLow ∧ (modSet d la f s).ctxs = s.ctxs ∧ (modSet d la f s).ctxIdents = s.ctxIdents ∧
    (modSet d la f s).teardownTicks = s.teardownTicks ∧ (modSet d la f s).staleRx = s.staleRx ∧ (modSet d la f s).ctxKept = s.ctxKept ∧
    (modSet d la f s).unmaps = s.unmaps ∧ (modSet d la f s).queues = s.queues ∧ (modSet d la f s).endpoints = s.endpoints ∧
    (modSet d la f s).channels = s.channels ∧ (modSet d la f s).dmaRuns = s.dmaRuns ∧ (modSet d la f s).conv = s.conv ∧
    (modSet d la f s).dispatches = s.dispatches ∧ (modSet d la f s).nextDispatch = s.nextDispatch ∧
    (modSet d la f s).schedAt = s.schedAt ∧ (modSet d la f s).delayed = s.delayed ∧ (modSet d la f s).heldRoles = s.heldRoles ∧
    (modSet d la f s).looms = s.looms ∧ (modSet d la f s).saved = s.saved ∧ (modSet d la f s).drams = s.drams ∧
    (modSet d la f s).survivors = s.survivors ∧ (modSet d la f s).checked = s.checked ∧ (modSet d la f s).chk = s.chk ∧
    (modSet d la f s).suspects = s.suspects ∧ (modSet d la f s).windows = s.windows ∧ (modSet d la f s).ports = s.ports ∧
    (modSet d la f s).switches = s.switches ∧ (modSet d la f s).routeHolds = s.routeHolds ∧ (modSet d la f s).heldPkts = s.heldPkts ∧
    (modSet d la f s).loop = s.loop ∧ (modSet d la f s).fabric = s.fabric ∧ (modSet d la f s).nextTag = s.nextTag ∧
    (modSet d la f s).routes = s.routes ∧ (modSet d la f s).groups = s.groups ∧ (modSet d la f s).cursors = s.cursors ∧
    (modSet d la f s).streams = s.streams ∧ (modSet d la f s).stores = s.stores ∧ (modSet d la f s).cadence = s.cadence ∧
    (modSet d la f s).svc = s.svc ∧ (modSet d la f s).zjp = s.zjp ∧ (modSet d la f s).suspectAt = s.suspectAt ∧
    (modSet d la f s).sys = s.sys ∧ (modSet d la f s).dryRing = s.dryRing ∧ (modSet d la f s).time = s.time ∧
    (modSet d la f s).frac = s.frac ∧ (modSet d la f s).refCount = s.refCount ∧ (modSet d la f s).outbox = s.outbox ∧
    (modSet d la f s).pending = s.pending ∧ (∀ r, reg (modSet d la f s) r = reg s r) := by
  exact ⟨rfl, rfl, rfl, rfl, rfl, rfl, rfl, rfl, rfl, rfl, rfl, rfl, rfl, rfl, rfl, rfl, rfl, rfl, rfl, rfl, rfl, rfl, rfl, rfl, rfl, rfl, rfl, rfl, rfl, rfl, rfl, rfl, rfl, rfl, rfl, rfl, rfl, rfl, rfl, rfl, rfl, rfl, rfl, rfl, rfl, rfl, rfl, rfl, rfl, rfl, rfl, rfl, rfl, rfl, rfl, rfl, rfl, fun _ => rfl⟩

@[simp] theorem modLine_frame (d la : Nat) (f : WLine → WLine) (s : State) :
    (modLine d la f s).regs = s.regs ∧ (modLine d la f s).mem = s.mem ∧ (modLine d la f s).poison = s.poison ∧
    (modLine d la f s).slots = s.slots ∧ (modLine d la f s).hkey = s.hkey ∧ (modLine d la f s).draws = s.draws ∧
    (modLine d la f s).intRaised = s.intRaised ∧ (modLine d la f s).intQueue = s.intQueue ∧ (modLine d la f s).captures = s.captures ∧
    (modLine d la f s).heldLow = s.heldLow ∧ (modLine d la f s).ctxs = s.ctxs ∧ (modLine d la f s).ctxIdents = s.ctxIdents ∧
    (modLine d la f s).teardownTicks = s.teardownTicks ∧ (modLine d la f s).staleRx = s.staleRx ∧
    (modLine d la f s).ctxKept = s.ctxKept ∧ (modLine d la f s).unmaps = s.unmaps ∧ (modLine d la f s).queues = s.queues ∧
    (modLine d la f s).endpoints = s.endpoints ∧ (modLine d la f s).channels = s.channels ∧ (modLine d la f s).dmaRuns = s.dmaRuns ∧
    (modLine d la f s).conv = s.conv ∧ (modLine d la f s).dispatches = s.dispatches ∧
    (modLine d la f s).nextDispatch = s.nextDispatch ∧ (modLine d la f s).schedAt = s.schedAt ∧
    (modLine d la f s).delayed = s.delayed ∧ (modLine d la f s).heldRoles = s.heldRoles ∧ (modLine d la f s).looms = s.looms ∧
    (modLine d la f s).saved = s.saved ∧ (modLine d la f s).drams = s.drams ∧ (modLine d la f s).survivors = s.survivors ∧
    (modLine d la f s).checked = s.checked ∧ (modLine d la f s).chk = s.chk ∧ (modLine d la f s).suspects = s.suspects ∧
    (modLine d la f s).windows = s.windows ∧ (modLine d la f s).ports = s.ports ∧ (modLine d la f s).switches = s.switches ∧
    (modLine d la f s).routeHolds = s.routeHolds ∧ (modLine d la f s).heldPkts = s.heldPkts ∧ (modLine d la f s).loop = s.loop ∧
    (modLine d la f s).fabric = s.fabric ∧ (modLine d la f s).nextTag = s.nextTag ∧ (modLine d la f s).routes = s.routes ∧
    (modLine d la f s).groups = s.groups ∧ (modLine d la f s).cursors = s.cursors ∧ (modLine d la f s).streams = s.streams ∧
    (modLine d la f s).stores = s.stores ∧ (modLine d la f s).cadence = s.cadence ∧ (modLine d la f s).svc = s.svc ∧
    (modLine d la f s).zjp = s.zjp ∧ (modLine d la f s).suspectAt = s.suspectAt ∧ (modLine d la f s).sys = s.sys ∧
    (modLine d la f s).dryRing = s.dryRing ∧ (modLine d la f s).time = s.time ∧ (modLine d la f s).frac = s.frac ∧
    (modLine d la f s).refCount = s.refCount ∧ (modLine d la f s).outbox = s.outbox ∧ (modLine d la f s).pending = s.pending ∧ (∀ r, reg (modLine d la f s) r = reg s r) := by
  exact ⟨rfl, rfl, rfl, rfl, rfl, rfl, rfl, rfl, rfl, rfl, rfl, rfl, rfl, rfl, rfl, rfl, rfl, rfl, rfl, rfl, rfl, rfl, rfl, rfl, rfl, rfl, rfl, rfl, rfl, rfl, rfl, rfl, rfl, rfl, rfl, rfl, rfl, rfl, rfl, rfl, rfl, rfl, rfl, rfl, rfl, rfl, rfl, rfl, rfl, rfl, rfl, rfl, rfl, rfl, rfl, rfl, rfl, fun _ => rfl⟩

@[simp] theorem modLoom_frame (m : Nat) (f : Loom → Loom) (s : State) :
    (modLoom m f s).regs = s.regs ∧ (modLoom m f s).mem = s.mem ∧ (modLoom m f s).poison = s.poison ∧ (modLoom m f s).slots = s.slots ∧
    (modLoom m f s).hkey = s.hkey ∧ (modLoom m f s).draws = s.draws ∧ (modLoom m f s).intRaised = s.intRaised ∧
    (modLoom m f s).intQueue = s.intQueue ∧ (modLoom m f s).captures = s.captures ∧ (modLoom m f s).heldLow = s.heldLow ∧
    (modLoom m f s).ctxs = s.ctxs ∧ (modLoom m f s).ctxIdents = s.ctxIdents ∧ (modLoom m f s).teardownTicks = s.teardownTicks ∧
    (modLoom m f s).staleRx = s.staleRx ∧ (modLoom m f s).ctxKept = s.ctxKept ∧ (modLoom m f s).unmaps = s.unmaps ∧
    (modLoom m f s).queues = s.queues ∧ (modLoom m f s).endpoints = s.endpoints ∧ (modLoom m f s).channels = s.channels ∧
    (modLoom m f s).dmaRuns = s.dmaRuns ∧ (modLoom m f s).conv = s.conv ∧ (modLoom m f s).dispatches = s.dispatches ∧
    (modLoom m f s).nextDispatch = s.nextDispatch ∧ (modLoom m f s).schedAt = s.schedAt ∧ (modLoom m f s).delayed = s.delayed ∧
    (modLoom m f s).heldRoles = s.heldRoles ∧ (modLoom m f s).saved = s.saved ∧ (modLoom m f s).weaves = s.weaves ∧
    (modLoom m f s).drams = s.drams ∧ (modLoom m f s).survivors = s.survivors ∧ (modLoom m f s).checked = s.checked ∧
    (modLoom m f s).chk = s.chk ∧ (modLoom m f s).suspects = s.suspects ∧ (modLoom m f s).windows = s.windows ∧
    (modLoom m f s).ports = s.ports ∧ (modLoom m f s).switches = s.switches ∧ (modLoom m f s).routeHolds = s.routeHolds ∧
    (modLoom m f s).heldPkts = s.heldPkts ∧ (modLoom m f s).loop = s.loop ∧ (modLoom m f s).fabric = s.fabric ∧
    (modLoom m f s).nextTag = s.nextTag ∧ (modLoom m f s).routes = s.routes ∧ (modLoom m f s).groups = s.groups ∧
    (modLoom m f s).cursors = s.cursors ∧ (modLoom m f s).streams = s.streams ∧ (modLoom m f s).stores = s.stores ∧
    (modLoom m f s).cadence = s.cadence ∧ (modLoom m f s).svc = s.svc ∧ (modLoom m f s).zjp = s.zjp ∧
    (modLoom m f s).suspectAt = s.suspectAt ∧ (modLoom m f s).sys = s.sys ∧ (modLoom m f s).dryRing = s.dryRing ∧
    (modLoom m f s).time = s.time ∧ (modLoom m f s).frac = s.frac ∧ (modLoom m f s).refCount = s.refCount ∧
    (modLoom m f s).outbox = s.outbox ∧ (modLoom m f s).pending = s.pending ∧ (∀ r, reg (modLoom m f s) r = reg s r) := by
  exact ⟨rfl, rfl, rfl, rfl, rfl, rfl, rfl, rfl, rfl, rfl, rfl, rfl, rfl, rfl, rfl, rfl, rfl, rfl, rfl, rfl, rfl, rfl, rfl, rfl, rfl, rfl, rfl, rfl, rfl, rfl, rfl, rfl, rfl, rfl, rfl, rfl, rfl, rfl, rfl, rfl, rfl, rfl, rfl, rfl, rfl, rfl, rfl, rfl, rfl, rfl, rfl, rfl, rfl, rfl, rfl, rfl, rfl, fun _ => rfl⟩

@[simp] theorem modSkein_frame (m k : Nat) (f : Skein → Skein) (s : State) :
    (modSkein m k f s).regs = s.regs ∧ (modSkein m k f s).mem = s.mem ∧ (modSkein m k f s).poison = s.poison ∧
    (modSkein m k f s).slots = s.slots ∧ (modSkein m k f s).hkey = s.hkey ∧ (modSkein m k f s).draws = s.draws ∧
    (modSkein m k f s).intRaised = s.intRaised ∧ (modSkein m k f s).intQueue = s.intQueue ∧ (modSkein m k f s).captures = s.captures ∧
    (modSkein m k f s).heldLow = s.heldLow ∧ (modSkein m k f s).ctxs = s.ctxs ∧ (modSkein m k f s).ctxIdents = s.ctxIdents ∧
    (modSkein m k f s).teardownTicks = s.teardownTicks ∧ (modSkein m k f s).staleRx = s.staleRx ∧
    (modSkein m k f s).ctxKept = s.ctxKept ∧ (modSkein m k f s).unmaps = s.unmaps ∧ (modSkein m k f s).queues = s.queues ∧
    (modSkein m k f s).endpoints = s.endpoints ∧ (modSkein m k f s).channels = s.channels ∧ (modSkein m k f s).dmaRuns = s.dmaRuns ∧
    (modSkein m k f s).conv = s.conv ∧ (modSkein m k f s).dispatches = s.dispatches ∧
    (modSkein m k f s).nextDispatch = s.nextDispatch ∧ (modSkein m k f s).schedAt = s.schedAt ∧
    (modSkein m k f s).delayed = s.delayed ∧ (modSkein m k f s).heldRoles = s.heldRoles ∧ (modSkein m k f s).saved = s.saved ∧
    (modSkein m k f s).weaves = s.weaves ∧ (modSkein m k f s).drams = s.drams ∧ (modSkein m k f s).survivors = s.survivors ∧
    (modSkein m k f s).checked = s.checked ∧ (modSkein m k f s).chk = s.chk ∧ (modSkein m k f s).suspects = s.suspects ∧
    (modSkein m k f s).windows = s.windows ∧ (modSkein m k f s).ports = s.ports ∧ (modSkein m k f s).switches = s.switches ∧
    (modSkein m k f s).routeHolds = s.routeHolds ∧ (modSkein m k f s).heldPkts = s.heldPkts ∧ (modSkein m k f s).loop = s.loop ∧
    (modSkein m k f s).fabric = s.fabric ∧ (modSkein m k f s).nextTag = s.nextTag ∧ (modSkein m k f s).routes = s.routes ∧
    (modSkein m k f s).groups = s.groups ∧ (modSkein m k f s).cursors = s.cursors ∧ (modSkein m k f s).streams = s.streams ∧
    (modSkein m k f s).stores = s.stores ∧ (modSkein m k f s).cadence = s.cadence ∧ (modSkein m k f s).svc = s.svc ∧
    (modSkein m k f s).zjp = s.zjp ∧ (modSkein m k f s).suspectAt = s.suspectAt ∧ (modSkein m k f s).sys = s.sys ∧
    (modSkein m k f s).dryRing = s.dryRing ∧ (modSkein m k f s).time = s.time ∧ (modSkein m k f s).frac = s.frac ∧
    (modSkein m k f s).refCount = s.refCount ∧ (modSkein m k f s).outbox = s.outbox ∧ (modSkein m k f s).pending = s.pending ∧ (∀ r, reg (modSkein m k f s) r = reg s r) := by
  exact ⟨rfl, rfl, rfl, rfl, rfl, rfl, rfl, rfl, rfl, rfl, rfl, rfl, rfl, rfl, rfl, rfl, rfl, rfl, rfl, rfl, rfl, rfl, rfl, rfl, rfl, rfl, rfl, rfl, rfl, rfl, rfl, rfl, rfl, rfl, rfl, rfl, rfl, rfl, rfl, rfl, rfl, rfl, rfl, rfl, rfl, rfl, rfl, rfl, rfl, rfl, rfl, rfl, rfl, rfl, rfl, rfl, rfl, fun _ => rfl⟩

@[simp] theorem modHalf_frame (m : Nat) (east : Bool) (f : ArrayHalf → ArrayHalf) (s : State) :
    (modHalf m east f s).regs = s.regs ∧ (modHalf m east f s).mem = s.mem ∧ (modHalf m east f s).poison = s.poison ∧
    (modHalf m east f s).slots = s.slots ∧ (modHalf m east f s).hkey = s.hkey ∧ (modHalf m east f s).draws = s.draws ∧
    (modHalf m east f s).intRaised = s.intRaised ∧ (modHalf m east f s).intQueue = s.intQueue ∧
    (modHalf m east f s).captures = s.captures ∧ (modHalf m east f s).heldLow = s.heldLow ∧ (modHalf m east f s).ctxs = s.ctxs ∧
    (modHalf m east f s).ctxIdents = s.ctxIdents ∧ (modHalf m east f s).teardownTicks = s.teardownTicks ∧
    (modHalf m east f s).staleRx = s.staleRx ∧ (modHalf m east f s).ctxKept = s.ctxKept ∧ (modHalf m east f s).unmaps = s.unmaps ∧
    (modHalf m east f s).queues = s.queues ∧ (modHalf m east f s).endpoints = s.endpoints ∧
    (modHalf m east f s).channels = s.channels ∧ (modHalf m east f s).dmaRuns = s.dmaRuns ∧ (modHalf m east f s).conv = s.conv ∧
    (modHalf m east f s).dispatches = s.dispatches ∧ (modHalf m east f s).nextDispatch = s.nextDispatch ∧
    (modHalf m east f s).schedAt = s.schedAt ∧ (modHalf m east f s).delayed = s.delayed ∧
    (modHalf m east f s).heldRoles = s.heldRoles ∧ (modHalf m east f s).saved = s.saved ∧ (modHalf m east f s).weaves = s.weaves ∧
    (modHalf m east f s).drams = s.drams ∧ (modHalf m east f s).survivors = s.survivors ∧ (modHalf m east f s).checked = s.checked ∧
    (modHalf m east f s).chk = s.chk ∧ (modHalf m east f s).suspects = s.suspects ∧ (modHalf m east f s).windows = s.windows ∧
    (modHalf m east f s).ports = s.ports ∧ (modHalf m east f s).switches = s.switches ∧
    (modHalf m east f s).routeHolds = s.routeHolds ∧ (modHalf m east f s).heldPkts = s.heldPkts ∧ (modHalf m east f s).loop = s.loop ∧
    (modHalf m east f s).fabric = s.fabric ∧ (modHalf m east f s).nextTag = s.nextTag ∧ (modHalf m east f s).routes = s.routes ∧
    (modHalf m east f s).groups = s.groups ∧ (modHalf m east f s).cursors = s.cursors ∧ (modHalf m east f s).streams = s.streams ∧
    (modHalf m east f s).stores = s.stores ∧ (modHalf m east f s).cadence = s.cadence ∧ (modHalf m east f s).svc = s.svc ∧
    (modHalf m east f s).zjp = s.zjp ∧ (modHalf m east f s).suspectAt = s.suspectAt ∧ (modHalf m east f s).sys = s.sys ∧
    (modHalf m east f s).dryRing = s.dryRing ∧ (modHalf m east f s).time = s.time ∧ (modHalf m east f s).frac = s.frac ∧
    (modHalf m east f s).refCount = s.refCount ∧ (modHalf m east f s).outbox = s.outbox ∧ (modHalf m east f s).pending = s.pending ∧ (∀ r, reg (modHalf m east f s) r = reg s r) := by
  exact ⟨rfl, rfl, rfl, rfl, rfl, rfl, rfl, rfl, rfl, rfl, rfl, rfl, rfl, rfl, rfl, rfl, rfl, rfl, rfl, rfl, rfl, rfl, rfl, rfl, rfl, rfl, rfl, rfl, rfl, rfl, rfl, rfl, rfl, rfl, rfl, rfl, rfl, rfl, rfl, rfl, rfl, rfl, rfl, rfl, rfl, rfl, rfl, rfl, rfl, rfl, rfl, rfl, rfl, rfl, rfl, rfl, rfl, fun _ => rfl⟩

@[simp] theorem putSlot_frame (m n : Nat) (v : AccSlot) (s : State) :
    (putSlot m n v s).regs = s.regs ∧ (putSlot m n v s).mem = s.mem ∧ (putSlot m n v s).poison = s.poison ∧
    (putSlot m n v s).slots = s.slots ∧ (putSlot m n v s).hkey = s.hkey ∧ (putSlot m n v s).draws = s.draws ∧
    (putSlot m n v s).intRaised = s.intRaised ∧ (putSlot m n v s).intQueue = s.intQueue ∧ (putSlot m n v s).captures = s.captures ∧
    (putSlot m n v s).heldLow = s.heldLow ∧ (putSlot m n v s).ctxs = s.ctxs ∧ (putSlot m n v s).ctxIdents = s.ctxIdents ∧
    (putSlot m n v s).teardownTicks = s.teardownTicks ∧ (putSlot m n v s).staleRx = s.staleRx ∧ (putSlot m n v s).ctxKept = s.ctxKept ∧
    (putSlot m n v s).unmaps = s.unmaps ∧ (putSlot m n v s).queues = s.queues ∧ (putSlot m n v s).endpoints = s.endpoints ∧
    (putSlot m n v s).channels = s.channels ∧ (putSlot m n v s).dmaRuns = s.dmaRuns ∧ (putSlot m n v s).conv = s.conv ∧
    (putSlot m n v s).dispatches = s.dispatches ∧ (putSlot m n v s).nextDispatch = s.nextDispatch ∧
    (putSlot m n v s).schedAt = s.schedAt ∧ (putSlot m n v s).delayed = s.delayed ∧ (putSlot m n v s).heldRoles = s.heldRoles ∧
    (putSlot m n v s).saved = s.saved ∧ (putSlot m n v s).weaves = s.weaves ∧ (putSlot m n v s).drams = s.drams ∧
    (putSlot m n v s).survivors = s.survivors ∧ (putSlot m n v s).checked = s.checked ∧ (putSlot m n v s).chk = s.chk ∧
    (putSlot m n v s).suspects = s.suspects ∧ (putSlot m n v s).windows = s.windows ∧ (putSlot m n v s).ports = s.ports ∧
    (putSlot m n v s).switches = s.switches ∧ (putSlot m n v s).routeHolds = s.routeHolds ∧ (putSlot m n v s).heldPkts = s.heldPkts ∧
    (putSlot m n v s).loop = s.loop ∧ (putSlot m n v s).fabric = s.fabric ∧ (putSlot m n v s).nextTag = s.nextTag ∧
    (putSlot m n v s).routes = s.routes ∧ (putSlot m n v s).groups = s.groups ∧ (putSlot m n v s).cursors = s.cursors ∧
    (putSlot m n v s).streams = s.streams ∧ (putSlot m n v s).stores = s.stores ∧ (putSlot m n v s).cadence = s.cadence ∧
    (putSlot m n v s).svc = s.svc ∧ (putSlot m n v s).zjp = s.zjp ∧ (putSlot m n v s).suspectAt = s.suspectAt ∧
    (putSlot m n v s).sys = s.sys ∧ (putSlot m n v s).dryRing = s.dryRing ∧ (putSlot m n v s).time = s.time ∧
    (putSlot m n v s).frac = s.frac ∧ (putSlot m n v s).refCount = s.refCount ∧ (putSlot m n v s).outbox = s.outbox ∧
    (putSlot m n v s).pending = s.pending ∧ (∀ r, reg (putSlot m n v s) r = reg s r) := by
  exact ⟨rfl, rfl, rfl, rfl, rfl, rfl, rfl, rfl, rfl, rfl, rfl, rfl, rfl, rfl, rfl, rfl, rfl, rfl, rfl, rfl, rfl, rfl, rfl, rfl, rfl, rfl, rfl, rfl, rfl, rfl, rfl, rfl, rfl, rfl, rfl, rfl, rfl, rfl, rfl, rfl, rfl, rfl, rfl, rfl, rfl, rfl, rfl, rfl, rfl, rfl, rfl, rfl, rfl, rfl, rfl, rfl, rfl, fun _ => rfl⟩

@[simp] theorem modChk_frame (d : Nat) (f : CheckBlk → CheckBlk) (s : State) :
    (modChk d f s).regs = s.regs ∧ (modChk d f s).mem = s.mem ∧ (modChk d f s).poison = s.poison ∧ (modChk d f s).slots = s.slots ∧
    (modChk d f s).hkey = s.hkey ∧ (modChk d f s).draws = s.draws ∧ (modChk d f s).intRaised = s.intRaised ∧
    (modChk d f s).intQueue = s.intQueue ∧ (modChk d f s).captures = s.captures ∧ (modChk d f s).heldLow = s.heldLow ∧
    (modChk d f s).ctxs = s.ctxs ∧ (modChk d f s).ctxIdents = s.ctxIdents ∧ (modChk d f s).teardownTicks = s.teardownTicks ∧
    (modChk d f s).staleRx = s.staleRx ∧ (modChk d f s).ctxKept = s.ctxKept ∧ (modChk d f s).unmaps = s.unmaps ∧
    (modChk d f s).queues = s.queues ∧ (modChk d f s).endpoints = s.endpoints ∧ (modChk d f s).channels = s.channels ∧
    (modChk d f s).dmaRuns = s.dmaRuns ∧ (modChk d f s).conv = s.conv ∧ (modChk d f s).dispatches = s.dispatches ∧
    (modChk d f s).nextDispatch = s.nextDispatch ∧ (modChk d f s).schedAt = s.schedAt ∧ (modChk d f s).delayed = s.delayed ∧
    (modChk d f s).heldRoles = s.heldRoles ∧ (modChk d f s).looms = s.looms ∧ (modChk d f s).saved = s.saved ∧
    (modChk d f s).weaves = s.weaves ∧ (modChk d f s).drams = s.drams ∧ (modChk d f s).survivors = s.survivors ∧
    (modChk d f s).checked = s.checked ∧ (modChk d f s).suspects = s.suspects ∧ (modChk d f s).windows = s.windows ∧
    (modChk d f s).ports = s.ports ∧ (modChk d f s).switches = s.switches ∧ (modChk d f s).routeHolds = s.routeHolds ∧
    (modChk d f s).heldPkts = s.heldPkts ∧ (modChk d f s).loop = s.loop ∧ (modChk d f s).fabric = s.fabric ∧
    (modChk d f s).nextTag = s.nextTag ∧ (modChk d f s).routes = s.routes ∧ (modChk d f s).groups = s.groups ∧
    (modChk d f s).cursors = s.cursors ∧ (modChk d f s).streams = s.streams ∧ (modChk d f s).stores = s.stores ∧
    (modChk d f s).cadence = s.cadence ∧ (modChk d f s).svc = s.svc ∧ (modChk d f s).zjp = s.zjp ∧
    (modChk d f s).suspectAt = s.suspectAt ∧ (modChk d f s).sys = s.sys ∧ (modChk d f s).dryRing = s.dryRing ∧
    (modChk d f s).time = s.time ∧ (modChk d f s).frac = s.frac ∧ (modChk d f s).refCount = s.refCount ∧
    (modChk d f s).outbox = s.outbox ∧ (modChk d f s).pending = s.pending ∧ (∀ r, reg (modChk d f s) r = reg s r) := by
  exact ⟨rfl, rfl, rfl, rfl, rfl, rfl, rfl, rfl, rfl, rfl, rfl, rfl, rfl, rfl, rfl, rfl, rfl, rfl, rfl, rfl, rfl, rfl, rfl, rfl, rfl, rfl, rfl, rfl, rfl, rfl, rfl, rfl, rfl, rfl, rfl, rfl, rfl, rfl, rfl, rfl, rfl, rfl, rfl, rfl, rfl, rfl, rfl, rfl, rfl, rfl, rfl, rfl, rfl, rfl, rfl, rfl, rfl, fun _ => rfl⟩

@[simp] theorem modQueue_frame (h : Word) (f : Queue → Queue) (s : State) :
    (modQueue h f s).regs = s.regs ∧ (modQueue h f s).mem = s.mem ∧ (modQueue h f s).poison = s.poison ∧
    (modQueue h f s).slots = s.slots ∧ (modQueue h f s).hkey = s.hkey ∧ (modQueue h f s).draws = s.draws ∧
    (modQueue h f s).intRaised = s.intRaised ∧ (modQueue h f s).intQueue = s.intQueue ∧ (modQueue h f s).captures = s.captures ∧
    (modQueue h f s).heldLow = s.heldLow ∧ (modQueue h f s).ctxs = s.ctxs ∧ (modQueue h f s).ctxIdents = s.ctxIdents ∧
    (modQueue h f s).teardownTicks = s.teardownTicks ∧ (modQueue h f s).staleRx = s.staleRx ∧ (modQueue h f s).ctxKept = s.ctxKept ∧
    (modQueue h f s).unmaps = s.unmaps ∧ (modQueue h f s).endpoints = s.endpoints ∧ (modQueue h f s).channels = s.channels ∧
    (modQueue h f s).dmaRuns = s.dmaRuns ∧ (modQueue h f s).conv = s.conv ∧ (modQueue h f s).dispatches = s.dispatches ∧
    (modQueue h f s).nextDispatch = s.nextDispatch ∧ (modQueue h f s).schedAt = s.schedAt ∧ (modQueue h f s).delayed = s.delayed ∧
    (modQueue h f s).heldRoles = s.heldRoles ∧ (modQueue h f s).looms = s.looms ∧ (modQueue h f s).saved = s.saved ∧
    (modQueue h f s).weaves = s.weaves ∧ (modQueue h f s).drams = s.drams ∧ (modQueue h f s).survivors = s.survivors ∧
    (modQueue h f s).checked = s.checked ∧ (modQueue h f s).chk = s.chk ∧ (modQueue h f s).suspects = s.suspects ∧
    (modQueue h f s).windows = s.windows ∧ (modQueue h f s).ports = s.ports ∧ (modQueue h f s).switches = s.switches ∧
    (modQueue h f s).routeHolds = s.routeHolds ∧ (modQueue h f s).heldPkts = s.heldPkts ∧ (modQueue h f s).loop = s.loop ∧
    (modQueue h f s).fabric = s.fabric ∧ (modQueue h f s).nextTag = s.nextTag ∧ (modQueue h f s).routes = s.routes ∧
    (modQueue h f s).groups = s.groups ∧ (modQueue h f s).cursors = s.cursors ∧ (modQueue h f s).streams = s.streams ∧
    (modQueue h f s).stores = s.stores ∧ (modQueue h f s).cadence = s.cadence ∧ (modQueue h f s).svc = s.svc ∧
    (modQueue h f s).zjp = s.zjp ∧ (modQueue h f s).suspectAt = s.suspectAt ∧ (modQueue h f s).sys = s.sys ∧
    (modQueue h f s).dryRing = s.dryRing ∧ (modQueue h f s).time = s.time ∧ (modQueue h f s).frac = s.frac ∧
    (modQueue h f s).refCount = s.refCount ∧ (modQueue h f s).outbox = s.outbox ∧ (modQueue h f s).pending = s.pending ∧ (∀ r, reg (modQueue h f s) r = reg s r) := by
  exact ⟨rfl, rfl, rfl, rfl, rfl, rfl, rfl, rfl, rfl, rfl, rfl, rfl, rfl, rfl, rfl, rfl, rfl, rfl, rfl, rfl, rfl, rfl, rfl, rfl, rfl, rfl, rfl, rfl, rfl, rfl, rfl, rfl, rfl, rfl, rfl, rfl, rfl, rfl, rfl, rfl, rfl, rfl, rfl, rfl, rfl, rfl, rfl, rfl, rfl, rfl, rfl, rfl, rfl, rfl, rfl, rfl, rfl, fun _ => rfl⟩

@[simp] theorem modSys_frame (f : Sys → Sys) (s : State) :
    (modSys f s).regs = s.regs ∧ (modSys f s).mem = s.mem ∧ (modSys f s).poison = s.poison ∧ (modSys f s).slots = s.slots ∧
    (modSys f s).hkey = s.hkey ∧ (modSys f s).draws = s.draws ∧ (modSys f s).intRaised = s.intRaised ∧
    (modSys f s).intQueue = s.intQueue ∧ (modSys f s).captures = s.captures ∧ (modSys f s).heldLow = s.heldLow ∧
    (modSys f s).ctxs = s.ctxs ∧ (modSys f s).ctxIdents = s.ctxIdents ∧ (modSys f s).teardownTicks = s.teardownTicks ∧
    (modSys f s).staleRx = s.staleRx ∧ (modSys f s).ctxKept = s.ctxKept ∧ (modSys f s).unmaps = s.unmaps ∧
    (modSys f s).queues = s.queues ∧ (modSys f s).endpoints = s.endpoints ∧ (modSys f s).channels = s.channels ∧
    (modSys f s).dmaRuns = s.dmaRuns ∧ (modSys f s).conv = s.conv ∧ (modSys f s).dispatches = s.dispatches ∧
    (modSys f s).nextDispatch = s.nextDispatch ∧ (modSys f s).schedAt = s.schedAt ∧ (modSys f s).delayed = s.delayed ∧
    (modSys f s).heldRoles = s.heldRoles ∧ (modSys f s).looms = s.looms ∧ (modSys f s).saved = s.saved ∧
    (modSys f s).weaves = s.weaves ∧ (modSys f s).drams = s.drams ∧ (modSys f s).survivors = s.survivors ∧
    (modSys f s).checked = s.checked ∧ (modSys f s).chk = s.chk ∧ (modSys f s).suspects = s.suspects ∧
    (modSys f s).windows = s.windows ∧ (modSys f s).ports = s.ports ∧ (modSys f s).switches = s.switches ∧
    (modSys f s).routeHolds = s.routeHolds ∧ (modSys f s).heldPkts = s.heldPkts ∧ (modSys f s).loop = s.loop ∧
    (modSys f s).fabric = s.fabric ∧ (modSys f s).nextTag = s.nextTag ∧ (modSys f s).routes = s.routes ∧
    (modSys f s).groups = s.groups ∧ (modSys f s).cursors = s.cursors ∧ (modSys f s).streams = s.streams ∧
    (modSys f s).stores = s.stores ∧ (modSys f s).cadence = s.cadence ∧ (modSys f s).svc = s.svc ∧ (modSys f s).zjp = s.zjp ∧
    (modSys f s).suspectAt = s.suspectAt ∧ (modSys f s).dryRing = s.dryRing ∧ (modSys f s).time = s.time ∧ (modSys f s).frac = s.frac ∧
    (modSys f s).refCount = s.refCount ∧ (modSys f s).outbox = s.outbox ∧ (modSys f s).pending = s.pending ∧ (∀ r, reg (modSys f s) r = reg s r) := by
  exact ⟨rfl, rfl, rfl, rfl, rfl, rfl, rfl, rfl, rfl, rfl, rfl, rfl, rfl, rfl, rfl, rfl, rfl, rfl, rfl, rfl, rfl, rfl, rfl, rfl, rfl, rfl, rfl, rfl, rfl, rfl, rfl, rfl, rfl, rfl, rfl, rfl, rfl, rfl, rfl, rfl, rfl, rfl, rfl, rfl, rfl, rfl, rfl, rfl, rfl, rfl, rfl, rfl, rfl, rfl, rfl, rfl, rfl, fun _ => rfl⟩

@[simp] theorem modCmp_frame (k : Nat) (f : Cmp → Cmp) (s : State) :
    (modCmp k f s).regs = s.regs ∧ (modCmp k f s).mem = s.mem ∧ (modCmp k f s).poison = s.poison ∧ (modCmp k f s).slots = s.slots ∧
    (modCmp k f s).hkey = s.hkey ∧ (modCmp k f s).draws = s.draws ∧ (modCmp k f s).intRaised = s.intRaised ∧
    (modCmp k f s).intQueue = s.intQueue ∧ (modCmp k f s).captures = s.captures ∧ (modCmp k f s).heldLow = s.heldLow ∧
    (modCmp k f s).ctxs = s.ctxs ∧ (modCmp k f s).ctxIdents = s.ctxIdents ∧ (modCmp k f s).teardownTicks = s.teardownTicks ∧
    (modCmp k f s).staleRx = s.staleRx ∧ (modCmp k f s).ctxKept = s.ctxKept ∧ (modCmp k f s).unmaps = s.unmaps ∧
    (modCmp k f s).queues = s.queues ∧ (modCmp k f s).endpoints = s.endpoints ∧ (modCmp k f s).channels = s.channels ∧
    (modCmp k f s).dmaRuns = s.dmaRuns ∧ (modCmp k f s).conv = s.conv ∧ (modCmp k f s).dispatches = s.dispatches ∧
    (modCmp k f s).nextDispatch = s.nextDispatch ∧ (modCmp k f s).schedAt = s.schedAt ∧ (modCmp k f s).delayed = s.delayed ∧
    (modCmp k f s).heldRoles = s.heldRoles ∧ (modCmp k f s).looms = s.looms ∧ (modCmp k f s).saved = s.saved ∧
    (modCmp k f s).weaves = s.weaves ∧ (modCmp k f s).drams = s.drams ∧ (modCmp k f s).survivors = s.survivors ∧
    (modCmp k f s).checked = s.checked ∧ (modCmp k f s).chk = s.chk ∧ (modCmp k f s).suspects = s.suspects ∧
    (modCmp k f s).windows = s.windows ∧ (modCmp k f s).ports = s.ports ∧ (modCmp k f s).switches = s.switches ∧
    (modCmp k f s).routeHolds = s.routeHolds ∧ (modCmp k f s).heldPkts = s.heldPkts ∧ (modCmp k f s).loop = s.loop ∧
    (modCmp k f s).fabric = s.fabric ∧ (modCmp k f s).nextTag = s.nextTag ∧ (modCmp k f s).routes = s.routes ∧
    (modCmp k f s).groups = s.groups ∧ (modCmp k f s).cursors = s.cursors ∧ (modCmp k f s).streams = s.streams ∧
    (modCmp k f s).stores = s.stores ∧ (modCmp k f s).cadence = s.cadence ∧ (modCmp k f s).svc = s.svc ∧ (modCmp k f s).zjp = s.zjp ∧
    (modCmp k f s).suspectAt = s.suspectAt ∧ (modCmp k f s).dryRing = s.dryRing ∧ (modCmp k f s).time = s.time ∧
    (modCmp k f s).frac = s.frac ∧ (modCmp k f s).refCount = s.refCount ∧ (modCmp k f s).outbox = s.outbox ∧
    (modCmp k f s).pending = s.pending ∧ (∀ r, reg (modCmp k f s) r = reg s r) := by
  exact ⟨rfl, rfl, rfl, rfl, rfl, rfl, rfl, rfl, rfl, rfl, rfl, rfl, rfl, rfl, rfl, rfl, rfl, rfl, rfl, rfl, rfl, rfl, rfl, rfl, rfl, rfl, rfl, rfl, rfl, rfl, rfl, rfl, rfl, rfl, rfl, rfl, rfl, rfl, rfl, rfl, rfl, rfl, rfl, rfl, rfl, rfl, rfl, rfl, rfl, rfl, rfl, rfl, rfl, rfl, rfl, rfl, rfl, fun _ => rfl⟩

@[simp] theorem addTime_frame (n : Int) (s : State) :
    (addTime n s).regs = s.regs ∧ (addTime n s).mem = s.mem ∧ (addTime n s).poison = s.poison ∧ (addTime n s).slots = s.slots ∧
    (addTime n s).hkey = s.hkey ∧ (addTime n s).draws = s.draws ∧ (addTime n s).intRaised = s.intRaised ∧
    (addTime n s).intQueue = s.intQueue ∧ (addTime n s).captures = s.captures ∧ (addTime n s).heldLow = s.heldLow ∧
    (addTime n s).ctxs = s.ctxs ∧ (addTime n s).ctxIdents = s.ctxIdents ∧ (addTime n s).teardownTicks = s.teardownTicks ∧
    (addTime n s).staleRx = s.staleRx ∧ (addTime n s).ctxKept = s.ctxKept ∧ (addTime n s).unmaps = s.unmaps ∧
    (addTime n s).queues = s.queues ∧ (addTime n s).endpoints = s.endpoints ∧ (addTime n s).channels = s.channels ∧
    (addTime n s).dmaRuns = s.dmaRuns ∧ (addTime n s).conv = s.conv ∧ (addTime n s).dispatches = s.dispatches ∧
    (addTime n s).nextDispatch = s.nextDispatch ∧ (addTime n s).schedAt = s.schedAt ∧ (addTime n s).delayed = s.delayed ∧
    (addTime n s).heldRoles = s.heldRoles ∧ (addTime n s).looms = s.looms ∧ (addTime n s).saved = s.saved ∧
    (addTime n s).weaves = s.weaves ∧ (addTime n s).drams = s.drams ∧ (addTime n s).survivors = s.survivors ∧
    (addTime n s).checked = s.checked ∧ (addTime n s).chk = s.chk ∧ (addTime n s).suspects = s.suspects ∧
    (addTime n s).windows = s.windows ∧ (addTime n s).ports = s.ports ∧ (addTime n s).switches = s.switches ∧
    (addTime n s).routeHolds = s.routeHolds ∧ (addTime n s).heldPkts = s.heldPkts ∧ (addTime n s).loop = s.loop ∧
    (addTime n s).fabric = s.fabric ∧ (addTime n s).nextTag = s.nextTag ∧ (addTime n s).routes = s.routes ∧
    (addTime n s).groups = s.groups ∧ (addTime n s).cursors = s.cursors ∧ (addTime n s).streams = s.streams ∧
    (addTime n s).stores = s.stores ∧ (addTime n s).cadence = s.cadence ∧ (addTime n s).svc = s.svc ∧ (addTime n s).zjp = s.zjp ∧
    (addTime n s).suspectAt = s.suspectAt ∧ (addTime n s).sys = s.sys ∧ (addTime n s).dryRing = s.dryRing ∧
    (addTime n s).refCount = s.refCount ∧ (addTime n s).outbox = s.outbox ∧ (addTime n s).pending = s.pending ∧ (∀ r, reg (addTime n s) r = reg s r) := by
  exact ⟨rfl, rfl, rfl, rfl, rfl, rfl, rfl, rfl, rfl, rfl, rfl, rfl, rfl, rfl, rfl, rfl, rfl, rfl, rfl, rfl, rfl, rfl, rfl, rfl, rfl, rfl, rfl, rfl, rfl, rfl, rfl, rfl, rfl, rfl, rfl, rfl, rfl, rfl, rfl, rfl, rfl, rfl, rfl, rfl, rfl, rfl, rfl, rfl, rfl, rfl, rfl, rfl, rfl, rfl, rfl, rfl, fun _ => rfl⟩

@[simp] theorem showServo_frame (b : Bool) (s : State) :
    (showServo b s).mem = s.mem ∧ (showServo b s).poison = s.poison ∧ (showServo b s).slots = s.slots ∧ (showServo b s).hkey = s.hkey ∧
    (showServo b s).draws = s.draws ∧ (showServo b s).intRaised = s.intRaised ∧ (showServo b s).intQueue = s.intQueue ∧
    (showServo b s).captures = s.captures ∧ (showServo b s).heldLow = s.heldLow ∧ (showServo b s).ctxs = s.ctxs ∧
    (showServo b s).ctxIdents = s.ctxIdents ∧ (showServo b s).teardownTicks = s.teardownTicks ∧ (showServo b s).staleRx = s.staleRx ∧
    (showServo b s).ctxKept = s.ctxKept ∧ (showServo b s).unmaps = s.unmaps ∧ (showServo b s).queues = s.queues ∧
    (showServo b s).endpoints = s.endpoints ∧ (showServo b s).channels = s.channels ∧ (showServo b s).dmaRuns = s.dmaRuns ∧
    (showServo b s).conv = s.conv ∧ (showServo b s).dispatches = s.dispatches ∧ (showServo b s).nextDispatch = s.nextDispatch ∧
    (showServo b s).schedAt = s.schedAt ∧ (showServo b s).delayed = s.delayed ∧ (showServo b s).heldRoles = s.heldRoles ∧
    (showServo b s).looms = s.looms ∧ (showServo b s).saved = s.saved ∧ (showServo b s).weaves = s.weaves ∧
    (showServo b s).drams = s.drams ∧ (showServo b s).survivors = s.survivors ∧ (showServo b s).checked = s.checked ∧
    (showServo b s).chk = s.chk ∧ (showServo b s).suspects = s.suspects ∧ (showServo b s).windows = s.windows ∧
    (showServo b s).ports = s.ports ∧ (showServo b s).switches = s.switches ∧ (showServo b s).routeHolds = s.routeHolds ∧
    (showServo b s).heldPkts = s.heldPkts ∧ (showServo b s).loop = s.loop ∧ (showServo b s).fabric = s.fabric ∧
    (showServo b s).nextTag = s.nextTag ∧ (showServo b s).routes = s.routes ∧ (showServo b s).groups = s.groups ∧
    (showServo b s).cursors = s.cursors ∧ (showServo b s).streams = s.streams ∧ (showServo b s).stores = s.stores ∧
    (showServo b s).cadence = s.cadence ∧ (showServo b s).svc = s.svc ∧ (showServo b s).zjp = s.zjp ∧
    (showServo b s).suspectAt = s.suspectAt ∧ (showServo b s).sys = s.sys ∧ (showServo b s).dryRing = s.dryRing ∧
    (showServo b s).time = s.time ∧ (showServo b s).frac = s.frac ∧ (showServo b s).refCount = s.refCount ∧
    (showServo b s).outbox = s.outbox ∧ (showServo b s).pending = s.pending := by
  exact ⟨rfl, rfl, rfl, rfl, rfl, rfl, rfl, rfl, rfl, rfl, rfl, rfl, rfl, rfl, rfl, rfl, rfl, rfl, rfl, rfl, rfl, rfl, rfl, rfl, rfl, rfl, rfl, rfl, rfl, rfl, rfl, rfl, rfl, rfl, rfl, rfl, rfl, rfl, rfl, rfl, rfl, rfl, rfl, rfl, rfl, rfl, rfl, rfl, rfl, rfl, rfl, rfl, rfl, rfl, rfl, rfl, rfl⟩

@[simp] theorem modPort_frame (k : Nat) (f : LinkPort → LinkPort) (s : State) :
    (modPort k f s).regs = s.regs ∧ (modPort k f s).mem = s.mem ∧ (modPort k f s).poison = s.poison ∧ (modPort k f s).slots = s.slots ∧
    (modPort k f s).hkey = s.hkey ∧ (modPort k f s).draws = s.draws ∧ (modPort k f s).intRaised = s.intRaised ∧
    (modPort k f s).intQueue = s.intQueue ∧ (modPort k f s).captures = s.captures ∧ (modPort k f s).heldLow = s.heldLow ∧
    (modPort k f s).ctxs = s.ctxs ∧ (modPort k f s).ctxIdents = s.ctxIdents ∧ (modPort k f s).teardownTicks = s.teardownTicks ∧
    (modPort k f s).staleRx = s.staleRx ∧ (modPort k f s).ctxKept = s.ctxKept ∧ (modPort k f s).unmaps = s.unmaps ∧
    (modPort k f s).queues = s.queues ∧ (modPort k f s).endpoints = s.endpoints ∧ (modPort k f s).channels = s.channels ∧
    (modPort k f s).dmaRuns = s.dmaRuns ∧ (modPort k f s).conv = s.conv ∧ (modPort k f s).dispatches = s.dispatches ∧
    (modPort k f s).nextDispatch = s.nextDispatch ∧ (modPort k f s).schedAt = s.schedAt ∧ (modPort k f s).delayed = s.delayed ∧
    (modPort k f s).heldRoles = s.heldRoles ∧ (modPort k f s).looms = s.looms ∧ (modPort k f s).saved = s.saved ∧
    (modPort k f s).weaves = s.weaves ∧ (modPort k f s).drams = s.drams ∧ (modPort k f s).survivors = s.survivors ∧
    (modPort k f s).checked = s.checked ∧ (modPort k f s).chk = s.chk ∧ (modPort k f s).suspects = s.suspects ∧
    (modPort k f s).windows = s.windows ∧ (modPort k f s).switches = s.switches ∧ (modPort k f s).routeHolds = s.routeHolds ∧
    (modPort k f s).heldPkts = s.heldPkts ∧ (modPort k f s).loop = s.loop ∧ (modPort k f s).fabric = s.fabric ∧
    (modPort k f s).nextTag = s.nextTag ∧ (modPort k f s).routes = s.routes ∧ (modPort k f s).groups = s.groups ∧
    (modPort k f s).cursors = s.cursors ∧ (modPort k f s).streams = s.streams ∧ (modPort k f s).stores = s.stores ∧
    (modPort k f s).cadence = s.cadence ∧ (modPort k f s).svc = s.svc ∧ (modPort k f s).zjp = s.zjp ∧
    (modPort k f s).suspectAt = s.suspectAt ∧ (modPort k f s).sys = s.sys ∧ (modPort k f s).dryRing = s.dryRing ∧
    (modPort k f s).time = s.time ∧ (modPort k f s).frac = s.frac ∧ (modPort k f s).refCount = s.refCount ∧
    (modPort k f s).outbox = s.outbox ∧ (modPort k f s).pending = s.pending ∧ (∀ r, reg (modPort k f s) r = reg s r) := by
  exact ⟨rfl, rfl, rfl, rfl, rfl, rfl, rfl, rfl, rfl, rfl, rfl, rfl, rfl, rfl, rfl, rfl, rfl, rfl, rfl, rfl, rfl, rfl, rfl, rfl, rfl, rfl, rfl, rfl, rfl, rfl, rfl, rfl, rfl, rfl, rfl, rfl, rfl, rfl, rfl, rfl, rfl, rfl, rfl, rfl, rfl, rfl, rfl, rfl, rfl, rfl, rfl, rfl, rfl, rfl, rfl, rfl, rfl, fun _ => rfl⟩

@[simp] theorem modSwitch_frame (k : Nat) (f : Switch → Switch) (s : State) :
    (modSwitch k f s).regs = s.regs ∧ (modSwitch k f s).mem = s.mem ∧ (modSwitch k f s).poison = s.poison ∧
    (modSwitch k f s).slots = s.slots ∧ (modSwitch k f s).hkey = s.hkey ∧ (modSwitch k f s).draws = s.draws ∧
    (modSwitch k f s).intRaised = s.intRaised ∧ (modSwitch k f s).intQueue = s.intQueue ∧ (modSwitch k f s).captures = s.captures ∧
    (modSwitch k f s).heldLow = s.heldLow ∧ (modSwitch k f s).ctxs = s.ctxs ∧ (modSwitch k f s).ctxIdents = s.ctxIdents ∧
    (modSwitch k f s).teardownTicks = s.teardownTicks ∧ (modSwitch k f s).staleRx = s.staleRx ∧ (modSwitch k f s).ctxKept = s.ctxKept ∧
    (modSwitch k f s).unmaps = s.unmaps ∧ (modSwitch k f s).queues = s.queues ∧ (modSwitch k f s).endpoints = s.endpoints ∧
    (modSwitch k f s).channels = s.channels ∧ (modSwitch k f s).dmaRuns = s.dmaRuns ∧ (modSwitch k f s).conv = s.conv ∧
    (modSwitch k f s).dispatches = s.dispatches ∧ (modSwitch k f s).nextDispatch = s.nextDispatch ∧
    (modSwitch k f s).schedAt = s.schedAt ∧ (modSwitch k f s).delayed = s.delayed ∧ (modSwitch k f s).heldRoles = s.heldRoles ∧
    (modSwitch k f s).looms = s.looms ∧ (modSwitch k f s).saved = s.saved ∧ (modSwitch k f s).weaves = s.weaves ∧
    (modSwitch k f s).drams = s.drams ∧ (modSwitch k f s).survivors = s.survivors ∧ (modSwitch k f s).checked = s.checked ∧
    (modSwitch k f s).chk = s.chk ∧ (modSwitch k f s).suspects = s.suspects ∧ (modSwitch k f s).windows = s.windows ∧
    (modSwitch k f s).ports = s.ports ∧ (modSwitch k f s).routeHolds = s.routeHolds ∧ (modSwitch k f s).heldPkts = s.heldPkts ∧
    (modSwitch k f s).loop = s.loop ∧ (modSwitch k f s).fabric = s.fabric ∧ (modSwitch k f s).nextTag = s.nextTag ∧
    (modSwitch k f s).routes = s.routes ∧ (modSwitch k f s).groups = s.groups ∧ (modSwitch k f s).cursors = s.cursors ∧
    (modSwitch k f s).streams = s.streams ∧ (modSwitch k f s).stores = s.stores ∧ (modSwitch k f s).cadence = s.cadence ∧
    (modSwitch k f s).svc = s.svc ∧ (modSwitch k f s).zjp = s.zjp ∧ (modSwitch k f s).suspectAt = s.suspectAt ∧
    (modSwitch k f s).sys = s.sys ∧ (modSwitch k f s).dryRing = s.dryRing ∧ (modSwitch k f s).time = s.time ∧
    (modSwitch k f s).frac = s.frac ∧ (modSwitch k f s).refCount = s.refCount ∧ (modSwitch k f s).outbox = s.outbox ∧
    (modSwitch k f s).pending = s.pending ∧ (∀ r, reg (modSwitch k f s) r = reg s r) := by
  exact ⟨rfl, rfl, rfl, rfl, rfl, rfl, rfl, rfl, rfl, rfl, rfl, rfl, rfl, rfl, rfl, rfl, rfl, rfl, rfl, rfl, rfl, rfl, rfl, rfl, rfl, rfl, rfl, rfl, rfl, rfl, rfl, rfl, rfl, rfl, rfl, rfl, rfl, rfl, rfl, rfl, rfl, rfl, rfl, rfl, rfl, rfl, rfl, rfl, rfl, rfl, rfl, rfl, rfl, rfl, rfl, rfl, rfl, fun _ => rfl⟩

@[simp] theorem showSwitch_frame (k : Nat) (a b c : Bool) (s : State) :
    (showSwitch k a b c s).mem = s.mem ∧ (showSwitch k a b c s).poison = s.poison ∧ (showSwitch k a b c s).slots = s.slots ∧
    (showSwitch k a b c s).hkey = s.hkey ∧ (showSwitch k a b c s).draws = s.draws ∧ (showSwitch k a b c s).intRaised = s.intRaised ∧
    (showSwitch k a b c s).intQueue = s.intQueue ∧ (showSwitch k a b c s).captures = s.captures ∧
    (showSwitch k a b c s).heldLow = s.heldLow ∧ (showSwitch k a b c s).ctxs = s.ctxs ∧
    (showSwitch k a b c s).ctxIdents = s.ctxIdents ∧ (showSwitch k a b c s).teardownTicks = s.teardownTicks ∧
    (showSwitch k a b c s).staleRx = s.staleRx ∧ (showSwitch k a b c s).ctxKept = s.ctxKept ∧
    (showSwitch k a b c s).unmaps = s.unmaps ∧ (showSwitch k a b c s).queues = s.queues ∧
    (showSwitch k a b c s).endpoints = s.endpoints ∧ (showSwitch k a b c s).channels = s.channels ∧
    (showSwitch k a b c s).dmaRuns = s.dmaRuns ∧ (showSwitch k a b c s).conv = s.conv ∧
    (showSwitch k a b c s).dispatches = s.dispatches ∧ (showSwitch k a b c s).nextDispatch = s.nextDispatch ∧
    (showSwitch k a b c s).schedAt = s.schedAt ∧ (showSwitch k a b c s).delayed = s.delayed ∧
    (showSwitch k a b c s).heldRoles = s.heldRoles ∧ (showSwitch k a b c s).looms = s.looms ∧ (showSwitch k a b c s).saved = s.saved ∧
    (showSwitch k a b c s).weaves = s.weaves ∧ (showSwitch k a b c s).drams = s.drams ∧
    (showSwitch k a b c s).survivors = s.survivors ∧ (showSwitch k a b c s).checked = s.checked ∧ (showSwitch k a b c s).chk = s.chk ∧
    (showSwitch k a b c s).suspects = s.suspects ∧ (showSwitch k a b c s).windows = s.windows ∧
    (showSwitch k a b c s).ports = s.ports ∧ (showSwitch k a b c s).switches = s.switches ∧
    (showSwitch k a b c s).routeHolds = s.routeHolds ∧ (showSwitch k a b c s).heldPkts = s.heldPkts ∧
    (showSwitch k a b c s).loop = s.loop ∧ (showSwitch k a b c s).fabric = s.fabric ∧ (showSwitch k a b c s).nextTag = s.nextTag ∧
    (showSwitch k a b c s).routes = s.routes ∧ (showSwitch k a b c s).groups = s.groups ∧ (showSwitch k a b c s).cursors = s.cursors ∧
    (showSwitch k a b c s).streams = s.streams ∧ (showSwitch k a b c s).stores = s.stores ∧
    (showSwitch k a b c s).cadence = s.cadence ∧ (showSwitch k a b c s).svc = s.svc ∧ (showSwitch k a b c s).zjp = s.zjp ∧
    (showSwitch k a b c s).suspectAt = s.suspectAt ∧ (showSwitch k a b c s).sys = s.sys ∧ (showSwitch k a b c s).dryRing = s.dryRing ∧
    (showSwitch k a b c s).time = s.time ∧ (showSwitch k a b c s).frac = s.frac ∧ (showSwitch k a b c s).refCount = s.refCount ∧
    (showSwitch k a b c s).outbox = s.outbox ∧ (showSwitch k a b c s).pending = s.pending := by
  exact ⟨rfl, rfl, rfl, rfl, rfl, rfl, rfl, rfl, rfl, rfl, rfl, rfl, rfl, rfl, rfl, rfl, rfl, rfl, rfl, rfl, rfl, rfl, rfl, rfl, rfl, rfl, rfl, rfl, rfl, rfl, rfl, rfl, rfl, rfl, rfl, rfl, rfl, rfl, rfl, rfl, rfl, rfl, rfl, rfl, rfl, rfl, rfl, rfl, rfl, rfl, rfl, rfl, rfl, rfl, rfl, rfl, rfl⟩

@[simp] theorem setBank_frame (i : Nat) (b : Bank) (s : State) :
    (setBank i b s).regs = s.regs ∧ (setBank i b s).mem = s.mem ∧ (setBank i b s).poison = s.poison ∧ (setBank i b s).slots = s.slots ∧
    (setBank i b s).hkey = s.hkey ∧ (setBank i b s).draws = s.draws ∧ (setBank i b s).intRaised = s.intRaised ∧
    (setBank i b s).intQueue = s.intQueue ∧ (setBank i b s).captures = s.captures ∧ (setBank i b s).heldLow = s.heldLow ∧
    (setBank i b s).ctxs = s.ctxs ∧ (setBank i b s).ctxIdents = s.ctxIdents ∧ (setBank i b s).teardownTicks = s.teardownTicks ∧
    (setBank i b s).staleRx = s.staleRx ∧ (setBank i b s).ctxKept = s.ctxKept ∧ (setBank i b s).unmaps = s.unmaps ∧
    (setBank i b s).queues = s.queues ∧ (setBank i b s).endpoints = s.endpoints ∧ (setBank i b s).channels = s.channels ∧
    (setBank i b s).dmaRuns = s.dmaRuns ∧ (setBank i b s).conv = s.conv ∧ (setBank i b s).dispatches = s.dispatches ∧
    (setBank i b s).nextDispatch = s.nextDispatch ∧ (setBank i b s).schedAt = s.schedAt ∧ (setBank i b s).delayed = s.delayed ∧
    (setBank i b s).heldRoles = s.heldRoles ∧ (setBank i b s).looms = s.looms ∧ (setBank i b s).saved = s.saved ∧
    (setBank i b s).weaves = s.weaves ∧ (setBank i b s).drams = s.drams ∧ (setBank i b s).survivors = s.survivors ∧
    (setBank i b s).checked = s.checked ∧ (setBank i b s).chk = s.chk ∧ (setBank i b s).suspects = s.suspects ∧
    (setBank i b s).windows = s.windows ∧ (setBank i b s).ports = s.ports ∧ (setBank i b s).switches = s.switches ∧
    (setBank i b s).routeHolds = s.routeHolds ∧ (setBank i b s).heldPkts = s.heldPkts ∧ (setBank i b s).loop = s.loop ∧
    (setBank i b s).fabric = s.fabric ∧ (setBank i b s).nextTag = s.nextTag ∧ (setBank i b s).routes = s.routes ∧
    (setBank i b s).groups = s.groups ∧ (setBank i b s).cursors = s.cursors ∧ (setBank i b s).streams = s.streams ∧
    (setBank i b s).stores = s.stores ∧ (setBank i b s).cadence = s.cadence ∧ (setBank i b s).svc = s.svc ∧
    (setBank i b s).zjp = s.zjp ∧ (setBank i b s).suspectAt = s.suspectAt ∧ (setBank i b s).dryRing = s.dryRing ∧
    (setBank i b s).time = s.time ∧ (setBank i b s).frac = s.frac ∧ (setBank i b s).refCount = s.refCount ∧
    (setBank i b s).outbox = s.outbox ∧ (setBank i b s).pending = s.pending ∧ (∀ r, reg (setBank i b s) r = reg s r) := by
  exact ⟨rfl, rfl, rfl, rfl, rfl, rfl, rfl, rfl, rfl, rfl, rfl, rfl, rfl, rfl, rfl, rfl, rfl, rfl, rfl, rfl, rfl, rfl, rfl, rfl, rfl, rfl, rfl, rfl, rfl, rfl, rfl, rfl, rfl, rfl, rfl, rfl, rfl, rfl, rfl, rfl, rfl, rfl, rfl, rfl, rfl, rfl, rfl, rfl, rfl, rfl, rfl, rfl, rfl, rfl, rfl, rfl, rfl, fun _ => rfl⟩

@[simp] theorem modConv_frame (h : Word) (f : ConvChan → ConvChan) (s : State) :
    (modConv h f s).regs = s.regs ∧ (modConv h f s).mem = s.mem ∧ (modConv h f s).poison = s.poison ∧ (modConv h f s).slots = s.slots ∧
    (modConv h f s).hkey = s.hkey ∧ (modConv h f s).draws = s.draws ∧ (modConv h f s).intRaised = s.intRaised ∧
    (modConv h f s).intQueue = s.intQueue ∧ (modConv h f s).captures = s.captures ∧ (modConv h f s).heldLow = s.heldLow ∧
    (modConv h f s).ctxs = s.ctxs ∧ (modConv h f s).ctxIdents = s.ctxIdents ∧ (modConv h f s).teardownTicks = s.teardownTicks ∧
    (modConv h f s).staleRx = s.staleRx ∧ (modConv h f s).ctxKept = s.ctxKept ∧ (modConv h f s).unmaps = s.unmaps ∧
    (modConv h f s).queues = s.queues ∧ (modConv h f s).endpoints = s.endpoints ∧ (modConv h f s).channels = s.channels ∧
    (modConv h f s).dmaRuns = s.dmaRuns ∧ (modConv h f s).dispatches = s.dispatches ∧ (modConv h f s).nextDispatch = s.nextDispatch ∧
    (modConv h f s).schedAt = s.schedAt ∧ (modConv h f s).delayed = s.delayed ∧ (modConv h f s).heldRoles = s.heldRoles ∧
    (modConv h f s).looms = s.looms ∧ (modConv h f s).saved = s.saved ∧ (modConv h f s).weaves = s.weaves ∧
    (modConv h f s).drams = s.drams ∧ (modConv h f s).survivors = s.survivors ∧ (modConv h f s).checked = s.checked ∧
    (modConv h f s).chk = s.chk ∧ (modConv h f s).suspects = s.suspects ∧ (modConv h f s).windows = s.windows ∧
    (modConv h f s).ports = s.ports ∧ (modConv h f s).switches = s.switches ∧ (modConv h f s).routeHolds = s.routeHolds ∧
    (modConv h f s).heldPkts = s.heldPkts ∧ (modConv h f s).loop = s.loop ∧ (modConv h f s).fabric = s.fabric ∧
    (modConv h f s).nextTag = s.nextTag ∧ (modConv h f s).routes = s.routes ∧ (modConv h f s).groups = s.groups ∧
    (modConv h f s).cursors = s.cursors ∧ (modConv h f s).streams = s.streams ∧ (modConv h f s).stores = s.stores ∧
    (modConv h f s).cadence = s.cadence ∧ (modConv h f s).svc = s.svc ∧ (modConv h f s).zjp = s.zjp ∧
    (modConv h f s).suspectAt = s.suspectAt ∧ (modConv h f s).sys = s.sys ∧ (modConv h f s).dryRing = s.dryRing ∧
    (modConv h f s).time = s.time ∧ (modConv h f s).frac = s.frac ∧ (modConv h f s).refCount = s.refCount ∧
    (modConv h f s).outbox = s.outbox ∧ (modConv h f s).pending = s.pending ∧ (∀ r, reg (modConv h f s) r = reg s r) := by
  exact ⟨rfl, rfl, rfl, rfl, rfl, rfl, rfl, rfl, rfl, rfl, rfl, rfl, rfl, rfl, rfl, rfl, rfl, rfl, rfl, rfl, rfl, rfl, rfl, rfl, rfl, rfl, rfl, rfl, rfl, rfl, rfl, rfl, rfl, rfl, rfl, rfl, rfl, rfl, rfl, rfl, rfl, rfl, rfl, rfl, rfl, rfl, rfl, rfl, rfl, rfl, rfl, rfl, rfl, rfl, rfl, rfl, rfl, fun _ => rfl⟩

@[simp] theorem modRun_frame (c : Nat) (f : DmaRun → DmaRun) (s : State) :
    (modRun c f s).regs = s.regs ∧ (modRun c f s).mem = s.mem ∧ (modRun c f s).poison = s.poison ∧ (modRun c f s).slots = s.slots ∧
    (modRun c f s).hkey = s.hkey ∧ (modRun c f s).draws = s.draws ∧ (modRun c f s).intRaised = s.intRaised ∧
    (modRun c f s).intQueue = s.intQueue ∧ (modRun c f s).captures = s.captures ∧ (modRun c f s).heldLow = s.heldLow ∧
    (modRun c f s).ctxs = s.ctxs ∧ (modRun c f s).ctxIdents = s.ctxIdents ∧ (modRun c f s).teardownTicks = s.teardownTicks ∧
    (modRun c f s).staleRx = s.staleRx ∧ (modRun c f s).ctxKept = s.ctxKept ∧ (modRun c f s).unmaps = s.unmaps ∧
    (modRun c f s).queues = s.queues ∧ (modRun c f s).endpoints = s.endpoints ∧ (modRun c f s).channels = s.channels ∧
    (modRun c f s).conv = s.conv ∧ (modRun c f s).dispatches = s.dispatches ∧ (modRun c f s).nextDispatch = s.nextDispatch ∧
    (modRun c f s).schedAt = s.schedAt ∧ (modRun c f s).delayed = s.delayed ∧ (modRun c f s).heldRoles = s.heldRoles ∧
    (modRun c f s).looms = s.looms ∧ (modRun c f s).saved = s.saved ∧ (modRun c f s).weaves = s.weaves ∧
    (modRun c f s).drams = s.drams ∧ (modRun c f s).survivors = s.survivors ∧ (modRun c f s).checked = s.checked ∧
    (modRun c f s).chk = s.chk ∧ (modRun c f s).suspects = s.suspects ∧ (modRun c f s).windows = s.windows ∧
    (modRun c f s).ports = s.ports ∧ (modRun c f s).switches = s.switches ∧ (modRun c f s).routeHolds = s.routeHolds ∧
    (modRun c f s).heldPkts = s.heldPkts ∧ (modRun c f s).loop = s.loop ∧ (modRun c f s).fabric = s.fabric ∧
    (modRun c f s).nextTag = s.nextTag ∧ (modRun c f s).routes = s.routes ∧ (modRun c f s).groups = s.groups ∧
    (modRun c f s).cursors = s.cursors ∧ (modRun c f s).streams = s.streams ∧ (modRun c f s).stores = s.stores ∧
    (modRun c f s).cadence = s.cadence ∧ (modRun c f s).svc = s.svc ∧ (modRun c f s).zjp = s.zjp ∧
    (modRun c f s).suspectAt = s.suspectAt ∧ (modRun c f s).sys = s.sys ∧ (modRun c f s).dryRing = s.dryRing ∧
    (modRun c f s).time = s.time ∧ (modRun c f s).frac = s.frac ∧ (modRun c f s).refCount = s.refCount ∧
    (modRun c f s).outbox = s.outbox ∧ (modRun c f s).pending = s.pending ∧ (∀ r, reg (modRun c f s) r = reg s r) := by
  exact ⟨rfl, rfl, rfl, rfl, rfl, rfl, rfl, rfl, rfl, rfl, rfl, rfl, rfl, rfl, rfl, rfl, rfl, rfl, rfl, rfl, rfl, rfl, rfl, rfl, rfl, rfl, rfl, rfl, rfl, rfl, rfl, rfl, rfl, rfl, rfl, rfl, rfl, rfl, rfl, rfl, rfl, rfl, rfl, rfl, rfl, rfl, rfl, rfl, rfl, rfl, rfl, rfl, rfl, rfl, rfl, rfl, rfl, fun _ => rfl⟩

@[simp] theorem modStack_frame (d k : Nat) (f : Stack → Stack) (s : State) :
    (modStack d k f s).regs = s.regs ∧ (modStack d k f s).mem = s.mem ∧ (modStack d k f s).poison = s.poison ∧
    (modStack d k f s).slots = s.slots ∧ (modStack d k f s).hkey = s.hkey ∧ (modStack d k f s).draws = s.draws ∧
    (modStack d k f s).intRaised = s.intRaised ∧ (modStack d k f s).intQueue = s.intQueue ∧ (modStack d k f s).captures = s.captures ∧
    (modStack d k f s).heldLow = s.heldLow ∧ (modStack d k f s).ctxs = s.ctxs ∧ (modStack d k f s).ctxIdents = s.ctxIdents ∧
    (modStack d k f s).teardownTicks = s.teardownTicks ∧ (modStack d k f s).staleRx = s.staleRx ∧
    (modStack d k f s).ctxKept = s.ctxKept ∧ (modStack d k f s).unmaps = s.unmaps ∧ (modStack d k f s).queues = s.queues ∧
    (modStack d k f s).endpoints = s.endpoints ∧ (modStack d k f s).channels = s.channels ∧ (modStack d k f s).dmaRuns = s.dmaRuns ∧
    (modStack d k f s).conv = s.conv ∧ (modStack d k f s).dispatches = s.dispatches ∧
    (modStack d k f s).nextDispatch = s.nextDispatch ∧ (modStack d k f s).schedAt = s.schedAt ∧
    (modStack d k f s).delayed = s.delayed ∧ (modStack d k f s).heldRoles = s.heldRoles ∧ (modStack d k f s).looms = s.looms ∧
    (modStack d k f s).saved = s.saved ∧ (modStack d k f s).weaves = s.weaves ∧ (modStack d k f s).survivors = s.survivors ∧
    (modStack d k f s).checked = s.checked ∧ (modStack d k f s).chk = s.chk ∧ (modStack d k f s).suspects = s.suspects ∧
    (modStack d k f s).windows = s.windows ∧ (modStack d k f s).ports = s.ports ∧ (modStack d k f s).switches = s.switches ∧
    (modStack d k f s).routeHolds = s.routeHolds ∧ (modStack d k f s).heldPkts = s.heldPkts ∧ (modStack d k f s).loop = s.loop ∧
    (modStack d k f s).fabric = s.fabric ∧ (modStack d k f s).nextTag = s.nextTag ∧ (modStack d k f s).routes = s.routes ∧
    (modStack d k f s).groups = s.groups ∧ (modStack d k f s).cursors = s.cursors ∧ (modStack d k f s).streams = s.streams ∧
    (modStack d k f s).stores = s.stores ∧ (modStack d k f s).cadence = s.cadence ∧ (modStack d k f s).svc = s.svc ∧
    (modStack d k f s).zjp = s.zjp ∧ (modStack d k f s).suspectAt = s.suspectAt ∧ (modStack d k f s).sys = s.sys ∧
    (modStack d k f s).dryRing = s.dryRing ∧ (modStack d k f s).time = s.time ∧ (modStack d k f s).frac = s.frac ∧
    (modStack d k f s).refCount = s.refCount ∧ (modStack d k f s).outbox = s.outbox ∧ (modStack d k f s).pending = s.pending ∧ (∀ r, reg (modStack d k f s) r = reg s r) := by
  exact ⟨rfl, rfl, rfl, rfl, rfl, rfl, rfl, rfl, rfl, rfl, rfl, rfl, rfl, rfl, rfl, rfl, rfl, rfl, rfl, rfl, rfl, rfl, rfl, rfl, rfl, rfl, rfl, rfl, rfl, rfl, rfl, rfl, rfl, rfl, rfl, rfl, rfl, rfl, rfl, rfl, rfl, rfl, rfl, rfl, rfl, rfl, rfl, rfl, rfl, rfl, rfl, rfl, rfl, rfl, rfl, rfl, rfl, fun _ => rfl⟩

@[simp] theorem modSil_frame (g : Nat) (f : SilGroup → SilGroup) (s : State) :
    (modSil g f s).regs = s.regs ∧ (modSil g f s).mem = s.mem ∧ (modSil g f s).poison = s.poison ∧ (modSil g f s).slots = s.slots ∧
    (modSil g f s).hkey = s.hkey ∧ (modSil g f s).draws = s.draws ∧ (modSil g f s).intRaised = s.intRaised ∧
    (modSil g f s).intQueue = s.intQueue ∧ (modSil g f s).captures = s.captures ∧ (modSil g f s).heldLow = s.heldLow ∧
    (modSil g f s).ctxs = s.ctxs ∧ (modSil g f s).ctxIdents = s.ctxIdents ∧ (modSil g f s).teardownTicks = s.teardownTicks ∧
    (modSil g f s).staleRx = s.staleRx ∧ (modSil g f s).ctxKept = s.ctxKept ∧ (modSil g f s).unmaps = s.unmaps ∧
    (modSil g f s).queues = s.queues ∧ (modSil g f s).endpoints = s.endpoints ∧ (modSil g f s).channels = s.channels ∧
    (modSil g f s).dmaRuns = s.dmaRuns ∧ (modSil g f s).conv = s.conv ∧ (modSil g f s).dispatches = s.dispatches ∧
    (modSil g f s).nextDispatch = s.nextDispatch ∧ (modSil g f s).schedAt = s.schedAt ∧ (modSil g f s).delayed = s.delayed ∧
    (modSil g f s).heldRoles = s.heldRoles ∧ (modSil g f s).looms = s.looms ∧ (modSil g f s).saved = s.saved ∧
    (modSil g f s).weaves = s.weaves ∧ (modSil g f s).drams = s.drams ∧ (modSil g f s).survivors = s.survivors ∧
    (modSil g f s).checked = s.checked ∧ (modSil g f s).chk = s.chk ∧ (modSil g f s).suspects = s.suspects ∧
    (modSil g f s).windows = s.windows ∧ (modSil g f s).ports = s.ports ∧ (modSil g f s).switches = s.switches ∧
    (modSil g f s).routeHolds = s.routeHolds ∧ (modSil g f s).heldPkts = s.heldPkts ∧ (modSil g f s).loop = s.loop ∧
    (modSil g f s).fabric = s.fabric ∧ (modSil g f s).nextTag = s.nextTag ∧ (modSil g f s).routes = s.routes ∧
    (modSil g f s).cursors = s.cursors ∧ (modSil g f s).streams = s.streams ∧ (modSil g f s).stores = s.stores ∧
    (modSil g f s).cadence = s.cadence ∧ (modSil g f s).svc = s.svc ∧ (modSil g f s).zjp = s.zjp ∧
    (modSil g f s).suspectAt = s.suspectAt ∧ (modSil g f s).sys = s.sys ∧ (modSil g f s).dryRing = s.dryRing ∧
    (modSil g f s).time = s.time ∧ (modSil g f s).frac = s.frac ∧ (modSil g f s).refCount = s.refCount ∧
    (modSil g f s).outbox = s.outbox ∧ (modSil g f s).pending = s.pending ∧ (∀ r, reg (modSil g f s) r = reg s r) := by
  exact ⟨rfl, rfl, rfl, rfl, rfl, rfl, rfl, rfl, rfl, rfl, rfl, rfl, rfl, rfl, rfl, rfl, rfl, rfl, rfl, rfl, rfl, rfl, rfl, rfl, rfl, rfl, rfl, rfl, rfl, rfl, rfl, rfl, rfl, rfl, rfl, rfl, rfl, rfl, rfl, rfl, rfl, rfl, rfl, rfl, rfl, rfl, rfl, rfl, rfl, rfl, rfl, rfl, rfl, rfl, rfl, rfl, rfl, fun _ => rfl⟩

@[simp] theorem modStore_frame (g : SilGroup) (f : RecStore → RecStore) (s : State) :
    (modStore g f s).regs = s.regs ∧ (modStore g f s).mem = s.mem ∧ (modStore g f s).poison = s.poison ∧
    (modStore g f s).slots = s.slots ∧ (modStore g f s).hkey = s.hkey ∧ (modStore g f s).draws = s.draws ∧
    (modStore g f s).intRaised = s.intRaised ∧ (modStore g f s).intQueue = s.intQueue ∧ (modStore g f s).captures = s.captures ∧
    (modStore g f s).heldLow = s.heldLow ∧ (modStore g f s).ctxs = s.ctxs ∧ (modStore g f s).ctxIdents = s.ctxIdents ∧
    (modStore g f s).teardownTicks = s.teardownTicks ∧ (modStore g f s).staleRx = s.staleRx ∧ (modStore g f s).ctxKept = s.ctxKept ∧
    (modStore g f s).unmaps = s.unmaps ∧ (modStore g f s).queues = s.queues ∧ (modStore g f s).endpoints = s.endpoints ∧
    (modStore g f s).channels = s.channels ∧ (modStore g f s).dmaRuns = s.dmaRuns ∧ (modStore g f s).conv = s.conv ∧
    (modStore g f s).dispatches = s.dispatches ∧ (modStore g f s).nextDispatch = s.nextDispatch ∧
    (modStore g f s).schedAt = s.schedAt ∧ (modStore g f s).delayed = s.delayed ∧ (modStore g f s).heldRoles = s.heldRoles ∧
    (modStore g f s).looms = s.looms ∧ (modStore g f s).saved = s.saved ∧ (modStore g f s).weaves = s.weaves ∧
    (modStore g f s).drams = s.drams ∧ (modStore g f s).survivors = s.survivors ∧ (modStore g f s).checked = s.checked ∧
    (modStore g f s).chk = s.chk ∧ (modStore g f s).suspects = s.suspects ∧ (modStore g f s).windows = s.windows ∧
    (modStore g f s).ports = s.ports ∧ (modStore g f s).switches = s.switches ∧ (modStore g f s).routeHolds = s.routeHolds ∧
    (modStore g f s).heldPkts = s.heldPkts ∧ (modStore g f s).loop = s.loop ∧ (modStore g f s).fabric = s.fabric ∧
    (modStore g f s).nextTag = s.nextTag ∧ (modStore g f s).routes = s.routes ∧ (modStore g f s).groups = s.groups ∧
    (modStore g f s).cursors = s.cursors ∧ (modStore g f s).streams = s.streams ∧ (modStore g f s).cadence = s.cadence ∧
    (modStore g f s).svc = s.svc ∧ (modStore g f s).zjp = s.zjp ∧ (modStore g f s).suspectAt = s.suspectAt ∧
    (modStore g f s).sys = s.sys ∧ (modStore g f s).dryRing = s.dryRing ∧ (modStore g f s).time = s.time ∧
    (modStore g f s).frac = s.frac ∧ (modStore g f s).refCount = s.refCount ∧ (modStore g f s).outbox = s.outbox ∧
    (modStore g f s).pending = s.pending ∧ (∀ r, reg (modStore g f s) r = reg s r) := by
  exact ⟨rfl, rfl, rfl, rfl, rfl, rfl, rfl, rfl, rfl, rfl, rfl, rfl, rfl, rfl, rfl, rfl, rfl, rfl, rfl, rfl, rfl, rfl, rfl, rfl, rfl, rfl, rfl, rfl, rfl, rfl, rfl, rfl, rfl, rfl, rfl, rfl, rfl, rfl, rfl, rfl, rfl, rfl, rfl, rfl, rfl, rfl, rfl, rfl, rfl, rfl, rfl, rfl, rfl, rfl, rfl, rfl, rfl, fun _ => rfl⟩

@[simp] theorem modSvc_frame (p : Nat) (f : SvcPort → SvcPort) (s : State) :
    (modSvc p f s).regs = s.regs ∧ (modSvc p f s).mem = s.mem ∧ (modSvc p f s).poison = s.poison ∧ (modSvc p f s).slots = s.slots ∧
    (modSvc p f s).hkey = s.hkey ∧ (modSvc p f s).draws = s.draws ∧ (modSvc p f s).intRaised = s.intRaised ∧
    (modSvc p f s).intQueue = s.intQueue ∧ (modSvc p f s).captures = s.captures ∧ (modSvc p f s).heldLow = s.heldLow ∧
    (modSvc p f s).ctxs = s.ctxs ∧ (modSvc p f s).ctxIdents = s.ctxIdents ∧ (modSvc p f s).teardownTicks = s.teardownTicks ∧
    (modSvc p f s).staleRx = s.staleRx ∧ (modSvc p f s).ctxKept = s.ctxKept ∧ (modSvc p f s).unmaps = s.unmaps ∧
    (modSvc p f s).queues = s.queues ∧ (modSvc p f s).endpoints = s.endpoints ∧ (modSvc p f s).channels = s.channels ∧
    (modSvc p f s).dmaRuns = s.dmaRuns ∧ (modSvc p f s).conv = s.conv ∧ (modSvc p f s).dispatches = s.dispatches ∧
    (modSvc p f s).nextDispatch = s.nextDispatch ∧ (modSvc p f s).schedAt = s.schedAt ∧ (modSvc p f s).delayed = s.delayed ∧
    (modSvc p f s).heldRoles = s.heldRoles ∧ (modSvc p f s).looms = s.looms ∧ (modSvc p f s).saved = s.saved ∧
    (modSvc p f s).weaves = s.weaves ∧ (modSvc p f s).drams = s.drams ∧ (modSvc p f s).survivors = s.survivors ∧
    (modSvc p f s).checked = s.checked ∧ (modSvc p f s).chk = s.chk ∧ (modSvc p f s).suspects = s.suspects ∧
    (modSvc p f s).windows = s.windows ∧ (modSvc p f s).ports = s.ports ∧ (modSvc p f s).switches = s.switches ∧
    (modSvc p f s).routeHolds = s.routeHolds ∧ (modSvc p f s).heldPkts = s.heldPkts ∧ (modSvc p f s).loop = s.loop ∧
    (modSvc p f s).fabric = s.fabric ∧ (modSvc p f s).nextTag = s.nextTag ∧ (modSvc p f s).routes = s.routes ∧
    (modSvc p f s).groups = s.groups ∧ (modSvc p f s).cursors = s.cursors ∧ (modSvc p f s).streams = s.streams ∧
    (modSvc p f s).stores = s.stores ∧ (modSvc p f s).cadence = s.cadence ∧ (modSvc p f s).zjp = s.zjp ∧
    (modSvc p f s).suspectAt = s.suspectAt ∧ (modSvc p f s).sys = s.sys ∧ (modSvc p f s).dryRing = s.dryRing ∧
    (modSvc p f s).time = s.time ∧ (modSvc p f s).frac = s.frac ∧ (modSvc p f s).refCount = s.refCount ∧
    (modSvc p f s).outbox = s.outbox ∧ (modSvc p f s).pending = s.pending ∧ (∀ r, reg (modSvc p f s) r = reg s r) := by
  exact ⟨rfl, rfl, rfl, rfl, rfl, rfl, rfl, rfl, rfl, rfl, rfl, rfl, rfl, rfl, rfl, rfl, rfl, rfl, rfl, rfl, rfl, rfl, rfl, rfl, rfl, rfl, rfl, rfl, rfl, rfl, rfl, rfl, rfl, rfl, rfl, rfl, rfl, rfl, rfl, rfl, rfl, rfl, rfl, rfl, rfl, rfl, rfl, rfl, rfl, rfl, rfl, rfl, rfl, rfl, rfl, rfl, rfl, fun _ => rfl⟩

@[simp] theorem modCache_frame (p : Nat) (f : ZjpCache → ZjpCache) (s : State) :
    (modCache p f s).regs = s.regs ∧ (modCache p f s).mem = s.mem ∧ (modCache p f s).poison = s.poison ∧
    (modCache p f s).slots = s.slots ∧ (modCache p f s).hkey = s.hkey ∧ (modCache p f s).draws = s.draws ∧
    (modCache p f s).intRaised = s.intRaised ∧ (modCache p f s).intQueue = s.intQueue ∧ (modCache p f s).captures = s.captures ∧
    (modCache p f s).heldLow = s.heldLow ∧ (modCache p f s).ctxs = s.ctxs ∧ (modCache p f s).ctxIdents = s.ctxIdents ∧
    (modCache p f s).teardownTicks = s.teardownTicks ∧ (modCache p f s).staleRx = s.staleRx ∧ (modCache p f s).ctxKept = s.ctxKept ∧
    (modCache p f s).unmaps = s.unmaps ∧ (modCache p f s).queues = s.queues ∧ (modCache p f s).endpoints = s.endpoints ∧
    (modCache p f s).channels = s.channels ∧ (modCache p f s).dmaRuns = s.dmaRuns ∧ (modCache p f s).conv = s.conv ∧
    (modCache p f s).dispatches = s.dispatches ∧ (modCache p f s).nextDispatch = s.nextDispatch ∧
    (modCache p f s).schedAt = s.schedAt ∧ (modCache p f s).delayed = s.delayed ∧ (modCache p f s).heldRoles = s.heldRoles ∧
    (modCache p f s).looms = s.looms ∧ (modCache p f s).saved = s.saved ∧ (modCache p f s).weaves = s.weaves ∧
    (modCache p f s).drams = s.drams ∧ (modCache p f s).survivors = s.survivors ∧ (modCache p f s).checked = s.checked ∧
    (modCache p f s).chk = s.chk ∧ (modCache p f s).suspects = s.suspects ∧ (modCache p f s).windows = s.windows ∧
    (modCache p f s).ports = s.ports ∧ (modCache p f s).switches = s.switches ∧ (modCache p f s).routeHolds = s.routeHolds ∧
    (modCache p f s).heldPkts = s.heldPkts ∧ (modCache p f s).loop = s.loop ∧ (modCache p f s).fabric = s.fabric ∧
    (modCache p f s).nextTag = s.nextTag ∧ (modCache p f s).routes = s.routes ∧ (modCache p f s).groups = s.groups ∧
    (modCache p f s).cursors = s.cursors ∧ (modCache p f s).streams = s.streams ∧ (modCache p f s).stores = s.stores ∧
    (modCache p f s).cadence = s.cadence ∧ (modCache p f s).svc = s.svc ∧ (modCache p f s).suspectAt = s.suspectAt ∧
    (modCache p f s).sys = s.sys ∧ (modCache p f s).dryRing = s.dryRing ∧ (modCache p f s).time = s.time ∧
    (modCache p f s).frac = s.frac ∧ (modCache p f s).refCount = s.refCount ∧ (modCache p f s).outbox = s.outbox ∧
    (modCache p f s).pending = s.pending ∧ (∀ r, reg (modCache p f s) r = reg s r) := by
  exact ⟨rfl, rfl, rfl, rfl, rfl, rfl, rfl, rfl, rfl, rfl, rfl, rfl, rfl, rfl, rfl, rfl, rfl, rfl, rfl, rfl, rfl, rfl, rfl, rfl, rfl, rfl, rfl, rfl, rfl, rfl, rfl, rfl, rfl, rfl, rfl, rfl, rfl, rfl, rfl, rfl, rfl, rfl, rfl, rfl, rfl, rfl, rfl, rfl, rfl, rfl, rfl, rfl, rfl, rfl, rfl, rfl, rfl, fun _ => rfl⟩

@[simp] theorem modEndpoint_frame (h : Word) (f : Endpoint → Endpoint) (s : State) :
    (modEndpoint h f s).regs = s.regs ∧ (modEndpoint h f s).mem = s.mem ∧ (modEndpoint h f s).poison = s.poison ∧
    (modEndpoint h f s).slots = s.slots ∧ (modEndpoint h f s).hkey = s.hkey ∧ (modEndpoint h f s).draws = s.draws ∧
    (modEndpoint h f s).intRaised = s.intRaised ∧ (modEndpoint h f s).intQueue = s.intQueue ∧
    (modEndpoint h f s).captures = s.captures ∧ (modEndpoint h f s).heldLow = s.heldLow ∧ (modEndpoint h f s).ctxs = s.ctxs ∧
    (modEndpoint h f s).ctxIdents = s.ctxIdents ∧ (modEndpoint h f s).teardownTicks = s.teardownTicks ∧
    (modEndpoint h f s).staleRx = s.staleRx ∧ (modEndpoint h f s).ctxKept = s.ctxKept ∧ (modEndpoint h f s).unmaps = s.unmaps ∧
    (modEndpoint h f s).queues = s.queues ∧ (modEndpoint h f s).channels = s.channels ∧ (modEndpoint h f s).dmaRuns = s.dmaRuns ∧
    (modEndpoint h f s).conv = s.conv ∧ (modEndpoint h f s).dispatches = s.dispatches ∧
    (modEndpoint h f s).nextDispatch = s.nextDispatch ∧ (modEndpoint h f s).schedAt = s.schedAt ∧
    (modEndpoint h f s).delayed = s.delayed ∧ (modEndpoint h f s).heldRoles = s.heldRoles ∧ (modEndpoint h f s).looms = s.looms ∧
    (modEndpoint h f s).saved = s.saved ∧ (modEndpoint h f s).weaves = s.weaves ∧ (modEndpoint h f s).drams = s.drams ∧
    (modEndpoint h f s).survivors = s.survivors ∧ (modEndpoint h f s).checked = s.checked ∧ (modEndpoint h f s).chk = s.chk ∧
    (modEndpoint h f s).suspects = s.suspects ∧ (modEndpoint h f s).windows = s.windows ∧ (modEndpoint h f s).ports = s.ports ∧
    (modEndpoint h f s).switches = s.switches ∧ (modEndpoint h f s).routeHolds = s.routeHolds ∧
    (modEndpoint h f s).heldPkts = s.heldPkts ∧ (modEndpoint h f s).loop = s.loop ∧ (modEndpoint h f s).fabric = s.fabric ∧
    (modEndpoint h f s).nextTag = s.nextTag ∧ (modEndpoint h f s).routes = s.routes ∧ (modEndpoint h f s).groups = s.groups ∧
    (modEndpoint h f s).cursors = s.cursors ∧ (modEndpoint h f s).streams = s.streams ∧ (modEndpoint h f s).stores = s.stores ∧
    (modEndpoint h f s).cadence = s.cadence ∧ (modEndpoint h f s).svc = s.svc ∧ (modEndpoint h f s).zjp = s.zjp ∧
    (modEndpoint h f s).suspectAt = s.suspectAt ∧ (modEndpoint h f s).sys = s.sys ∧ (modEndpoint h f s).dryRing = s.dryRing ∧
    (modEndpoint h f s).time = s.time ∧ (modEndpoint h f s).frac = s.frac ∧ (modEndpoint h f s).refCount = s.refCount ∧
    (modEndpoint h f s).outbox = s.outbox ∧ (modEndpoint h f s).pending = s.pending ∧ (∀ r, reg (modEndpoint h f s) r = reg s r) := by
  exact ⟨rfl, rfl, rfl, rfl, rfl, rfl, rfl, rfl, rfl, rfl, rfl, rfl, rfl, rfl, rfl, rfl, rfl, rfl, rfl, rfl, rfl, rfl, rfl, rfl, rfl, rfl, rfl, rfl, rfl, rfl, rfl, rfl, rfl, rfl, rfl, rfl, rfl, rfl, rfl, rfl, rfl, rfl, rfl, rfl, rfl, rfl, rfl, rfl, rfl, rfl, rfl, rfl, rfl, rfl, rfl, rfl, rfl, fun _ => rfl⟩

@[simp] theorem intRise_frame (p : Nat) (s : State) :
    (intRise p s).regs = s.regs ∧ (intRise p s).mem = s.mem ∧ (intRise p s).poison = s.poison ∧ (intRise p s).slots = s.slots ∧
    (intRise p s).hkey = s.hkey ∧ (intRise p s).draws = s.draws ∧ (intRise p s).intQueue = s.intQueue ∧
    (intRise p s).captures = s.captures ∧ (intRise p s).heldLow = s.heldLow ∧ (intRise p s).ctxs = s.ctxs ∧
    (intRise p s).ctxIdents = s.ctxIdents ∧ (intRise p s).teardownTicks = s.teardownTicks ∧ (intRise p s).staleRx = s.staleRx ∧
    (intRise p s).ctxKept = s.ctxKept ∧ (intRise p s).unmaps = s.unmaps ∧ (intRise p s).queues = s.queues ∧
    (intRise p s).endpoints = s.endpoints ∧ (intRise p s).channels = s.channels ∧ (intRise p s).dmaRuns = s.dmaRuns ∧
    (intRise p s).conv = s.conv ∧ (intRise p s).dispatches = s.dispatches ∧ (intRise p s).nextDispatch = s.nextDispatch ∧
    (intRise p s).schedAt = s.schedAt ∧ (intRise p s).delayed = s.delayed ∧ (intRise p s).heldRoles = s.heldRoles ∧
    (intRise p s).looms = s.looms ∧ (intRise p s).saved = s.saved ∧ (intRise p s).weaves = s.weaves ∧ (intRise p s).drams = s.drams ∧
    (intRise p s).survivors = s.survivors ∧ (intRise p s).checked = s.checked ∧ (intRise p s).chk = s.chk ∧
    (intRise p s).suspects = s.suspects ∧ (intRise p s).windows = s.windows ∧ (intRise p s).ports = s.ports ∧
    (intRise p s).switches = s.switches ∧ (intRise p s).routeHolds = s.routeHolds ∧ (intRise p s).heldPkts = s.heldPkts ∧
    (intRise p s).loop = s.loop ∧ (intRise p s).fabric = s.fabric ∧ (intRise p s).nextTag = s.nextTag ∧
    (intRise p s).routes = s.routes ∧ (intRise p s).groups = s.groups ∧ (intRise p s).cursors = s.cursors ∧
    (intRise p s).streams = s.streams ∧ (intRise p s).stores = s.stores ∧ (intRise p s).cadence = s.cadence ∧
    (intRise p s).svc = s.svc ∧ (intRise p s).zjp = s.zjp ∧ (intRise p s).suspectAt = s.suspectAt ∧ (intRise p s).sys = s.sys ∧
    (intRise p s).dryRing = s.dryRing ∧ (intRise p s).time = s.time ∧ (intRise p s).frac = s.frac ∧
    (intRise p s).refCount = s.refCount ∧ (intRise p s).outbox = s.outbox ∧ (intRise p s).pending = s.pending ∧ (∀ r, reg (intRise p s) r = reg s r) := by
  unfold intRise; split <;> exact ⟨rfl, rfl, rfl, rfl, rfl, rfl, rfl, rfl, rfl, rfl, rfl, rfl, rfl, rfl, rfl, rfl, rfl, rfl, rfl, rfl, rfl, rfl, rfl, rfl, rfl, rfl, rfl, rfl, rfl, rfl, rfl, rfl, rfl, rfl, rfl, rfl, rfl, rfl, rfl, rfl, rfl, rfl, rfl, rfl, rfl, rfl, rfl, rfl, rfl, rfl, rfl, rfl, rfl, rfl, rfl, rfl, rfl, fun _ => rfl⟩

@[simp] theorem setPend_frame (p m : Nat) (s : State) :
    (setPend p m s).mem = s.mem ∧ (setPend p m s).poison = s.poison ∧ (setPend p m s).slots = s.slots ∧ (setPend p m s).hkey = s.hkey ∧
    (setPend p m s).draws = s.draws ∧ (setPend p m s).intQueue = s.intQueue ∧ (setPend p m s).captures = s.captures ∧
    (setPend p m s).heldLow = s.heldLow ∧ (setPend p m s).ctxs = s.ctxs ∧ (setPend p m s).ctxIdents = s.ctxIdents ∧
    (setPend p m s).teardownTicks = s.teardownTicks ∧ (setPend p m s).staleRx = s.staleRx ∧ (setPend p m s).ctxKept = s.ctxKept ∧
    (setPend p m s).unmaps = s.unmaps ∧ (setPend p m s).queues = s.queues ∧ (setPend p m s).endpoints = s.endpoints ∧
    (setPend p m s).channels = s.channels ∧ (setPend p m s).dmaRuns = s.dmaRuns ∧ (setPend p m s).conv = s.conv ∧
    (setPend p m s).dispatches = s.dispatches ∧ (setPend p m s).nextDispatch = s.nextDispatch ∧ (setPend p m s).schedAt = s.schedAt ∧
    (setPend p m s).delayed = s.delayed ∧ (setPend p m s).heldRoles = s.heldRoles ∧ (setPend p m s).looms = s.looms ∧
    (setPend p m s).saved = s.saved ∧ (setPend p m s).weaves = s.weaves ∧ (setPend p m s).drams = s.drams ∧
    (setPend p m s).survivors = s.survivors ∧ (setPend p m s).checked = s.checked ∧ (setPend p m s).chk = s.chk ∧
    (setPend p m s).suspects = s.suspects ∧ (setPend p m s).windows = s.windows ∧ (setPend p m s).ports = s.ports ∧
    (setPend p m s).switches = s.switches ∧ (setPend p m s).routeHolds = s.routeHolds ∧ (setPend p m s).heldPkts = s.heldPkts ∧
    (setPend p m s).loop = s.loop ∧ (setPend p m s).fabric = s.fabric ∧ (setPend p m s).nextTag = s.nextTag ∧
    (setPend p m s).routes = s.routes ∧ (setPend p m s).groups = s.groups ∧ (setPend p m s).cursors = s.cursors ∧
    (setPend p m s).streams = s.streams ∧ (setPend p m s).stores = s.stores ∧ (setPend p m s).cadence = s.cadence ∧
    (setPend p m s).svc = s.svc ∧ (setPend p m s).zjp = s.zjp ∧ (setPend p m s).suspectAt = s.suspectAt ∧ (setPend p m s).sys = s.sys ∧
    (setPend p m s).dryRing = s.dryRing ∧ (setPend p m s).time = s.time ∧ (setPend p m s).frac = s.frac ∧
    (setPend p m s).refCount = s.refCount ∧ (setPend p m s).outbox = s.outbox ∧ (setPend p m s).pending = s.pending := by
  unfold setPend; dsimp only; split <;> simp

@[simp] theorem recErr_frame (p c u n : Nat) (s : State) :
    (recErr p c u n s).mem = s.mem ∧ (recErr p c u n s).poison = s.poison ∧ (recErr p c u n s).slots = s.slots ∧
    (recErr p c u n s).hkey = s.hkey ∧ (recErr p c u n s).draws = s.draws ∧ (recErr p c u n s).intQueue = s.intQueue ∧
    (recErr p c u n s).captures = s.captures ∧ (recErr p c u n s).heldLow = s.heldLow ∧ (recErr p c u n s).ctxs = s.ctxs ∧
    (recErr p c u n s).ctxIdents = s.ctxIdents ∧ (recErr p c u n s).teardownTicks = s.teardownTicks ∧
    (recErr p c u n s).staleRx = s.staleRx ∧ (recErr p c u n s).ctxKept = s.ctxKept ∧ (recErr p c u n s).unmaps = s.unmaps ∧
    (recErr p c u n s).queues = s.queues ∧ (recErr p c u n s).endpoints = s.endpoints ∧ (recErr p c u n s).channels = s.channels ∧
    (recErr p c u n s).dmaRuns = s.dmaRuns ∧ (recErr p c u n s).conv = s.conv ∧ (recErr p c u n s).dispatches = s.dispatches ∧
    (recErr p c u n s).nextDispatch = s.nextDispatch ∧ (recErr p c u n s).schedAt = s.schedAt ∧
    (recErr p c u n s).delayed = s.delayed ∧ (recErr p c u n s).heldRoles = s.heldRoles ∧ (recErr p c u n s).looms = s.looms ∧
    (recErr p c u n s).saved = s.saved ∧ (recErr p c u n s).weaves = s.weaves ∧ (recErr p c u n s).drams = s.drams ∧
    (recErr p c u n s).survivors = s.survivors ∧ (recErr p c u n s).checked = s.checked ∧ (recErr p c u n s).chk = s.chk ∧
    (recErr p c u n s).suspects = s.suspects ∧ (recErr p c u n s).windows = s.windows ∧ (recErr p c u n s).ports = s.ports ∧
    (recErr p c u n s).switches = s.switches ∧ (recErr p c u n s).routeHolds = s.routeHolds ∧
    (recErr p c u n s).heldPkts = s.heldPkts ∧ (recErr p c u n s).loop = s.loop ∧ (recErr p c u n s).fabric = s.fabric ∧
    (recErr p c u n s).nextTag = s.nextTag ∧ (recErr p c u n s).routes = s.routes ∧ (recErr p c u n s).groups = s.groups ∧
    (recErr p c u n s).cursors = s.cursors ∧ (recErr p c u n s).streams = s.streams ∧ (recErr p c u n s).stores = s.stores ∧
    (recErr p c u n s).cadence = s.cadence ∧ (recErr p c u n s).svc = s.svc ∧ (recErr p c u n s).zjp = s.zjp ∧
    (recErr p c u n s).suspectAt = s.suspectAt ∧ (recErr p c u n s).sys = s.sys ∧ (recErr p c u n s).dryRing = s.dryRing ∧
    (recErr p c u n s).time = s.time ∧ (recErr p c u n s).frac = s.frac ∧ (recErr p c u n s).refCount = s.refCount ∧
    (recErr p c u n s).outbox = s.outbox ∧ (recErr p c u n s).pending = s.pending := by
  unfold recErr; dsimp only; split <;> simp

@[simp] theorem recContended_frame (p : Nat) (s : State) :
    (recContended p s).mem = s.mem ∧ (recContended p s).poison = s.poison ∧ (recContended p s).slots = s.slots ∧
    (recContended p s).hkey = s.hkey ∧ (recContended p s).draws = s.draws ∧ (recContended p s).intQueue = s.intQueue ∧
    (recContended p s).captures = s.captures ∧ (recContended p s).heldLow = s.heldLow ∧ (recContended p s).ctxs = s.ctxs ∧
    (recContended p s).ctxIdents = s.ctxIdents ∧ (recContended p s).teardownTicks = s.teardownTicks ∧
    (recContended p s).staleRx = s.staleRx ∧ (recContended p s).ctxKept = s.ctxKept ∧ (recContended p s).unmaps = s.unmaps ∧
    (recContended p s).queues = s.queues ∧ (recContended p s).endpoints = s.endpoints ∧ (recContended p s).channels = s.channels ∧
    (recContended p s).dmaRuns = s.dmaRuns ∧ (recContended p s).conv = s.conv ∧ (recContended p s).dispatches = s.dispatches ∧
    (recContended p s).nextDispatch = s.nextDispatch ∧ (recContended p s).schedAt = s.schedAt ∧
    (recContended p s).delayed = s.delayed ∧ (recContended p s).heldRoles = s.heldRoles ∧ (recContended p s).looms = s.looms ∧
    (recContended p s).saved = s.saved ∧ (recContended p s).weaves = s.weaves ∧ (recContended p s).drams = s.drams ∧
    (recContended p s).survivors = s.survivors ∧ (recContended p s).checked = s.checked ∧ (recContended p s).chk = s.chk ∧
    (recContended p s).suspects = s.suspects ∧ (recContended p s).windows = s.windows ∧ (recContended p s).ports = s.ports ∧
    (recContended p s).switches = s.switches ∧ (recContended p s).routeHolds = s.routeHolds ∧
    (recContended p s).heldPkts = s.heldPkts ∧ (recContended p s).loop = s.loop ∧ (recContended p s).fabric = s.fabric ∧
    (recContended p s).nextTag = s.nextTag ∧ (recContended p s).routes = s.routes ∧ (recContended p s).groups = s.groups ∧
    (recContended p s).cursors = s.cursors ∧ (recContended p s).streams = s.streams ∧ (recContended p s).stores = s.stores ∧
    (recContended p s).cadence = s.cadence ∧ (recContended p s).svc = s.svc ∧ (recContended p s).zjp = s.zjp ∧
    (recContended p s).suspectAt = s.suspectAt ∧ (recContended p s).sys = s.sys ∧ (recContended p s).dryRing = s.dryRing ∧
    (recContended p s).time = s.time ∧ (recContended p s).frac = s.frac ∧ (recContended p s).refCount = s.refCount ∧
    (recContended p s).outbox = s.outbox ∧ (recContended p s).pending = s.pending := by
  simp [recContended]

@[simp] theorem modGate_frame (d : Nat) (f : Gate → Gate) (s : State) :
    (modGate d f s).mem = s.mem ∧ (modGate d f s).poison = s.poison ∧ (modGate d f s).slots = s.slots ∧ (modGate d f s).hkey = s.hkey ∧
    (modGate d f s).draws = s.draws ∧ (modGate d f s).intQueue = s.intQueue ∧ (modGate d f s).captures = s.captures ∧
    (modGate d f s).heldLow = s.heldLow ∧ (modGate d f s).ctxs = s.ctxs ∧ (modGate d f s).ctxIdents = s.ctxIdents ∧
    (modGate d f s).teardownTicks = s.teardownTicks ∧ (modGate d f s).staleRx = s.staleRx ∧ (modGate d f s).ctxKept = s.ctxKept ∧
    (modGate d f s).unmaps = s.unmaps ∧ (modGate d f s).queues = s.queues ∧ (modGate d f s).endpoints = s.endpoints ∧
    (modGate d f s).channels = s.channels ∧ (modGate d f s).dmaRuns = s.dmaRuns ∧ (modGate d f s).conv = s.conv ∧
    (modGate d f s).dispatches = s.dispatches ∧ (modGate d f s).nextDispatch = s.nextDispatch ∧ (modGate d f s).schedAt = s.schedAt ∧
    (modGate d f s).delayed = s.delayed ∧ (modGate d f s).heldRoles = s.heldRoles ∧ (modGate d f s).looms = s.looms ∧
    (modGate d f s).saved = s.saved ∧ (modGate d f s).weaves = s.weaves ∧ (modGate d f s).drams = s.drams ∧
    (modGate d f s).survivors = s.survivors ∧ (modGate d f s).checked = s.checked ∧ (modGate d f s).chk = s.chk ∧
    (modGate d f s).suspects = s.suspects ∧ (modGate d f s).windows = s.windows ∧ (modGate d f s).ports = s.ports ∧
    (modGate d f s).switches = s.switches ∧ (modGate d f s).routeHolds = s.routeHolds ∧ (modGate d f s).heldPkts = s.heldPkts ∧
    (modGate d f s).loop = s.loop ∧ (modGate d f s).fabric = s.fabric ∧ (modGate d f s).nextTag = s.nextTag ∧
    (modGate d f s).routes = s.routes ∧ (modGate d f s).groups = s.groups ∧ (modGate d f s).cursors = s.cursors ∧
    (modGate d f s).streams = s.streams ∧ (modGate d f s).stores = s.stores ∧ (modGate d f s).cadence = s.cadence ∧
    (modGate d f s).svc = s.svc ∧ (modGate d f s).zjp = s.zjp ∧ (modGate d f s).suspectAt = s.suspectAt ∧
    (modGate d f s).time = s.time ∧ (modGate d f s).frac = s.frac ∧ (modGate d f s).refCount = s.refCount ∧
    (modGate d f s).outbox = s.outbox ∧ (modGate d f s).pending = s.pending := by
  unfold modGate; dsimp only; split <;> simp

@[simp] theorem countRetrain_frame (k : Nat) (s : State) :
    (countRetrain k s).mem = s.mem ∧ (countRetrain k s).poison = s.poison ∧ (countRetrain k s).slots = s.slots ∧
    (countRetrain k s).hkey = s.hkey ∧ (countRetrain k s).draws = s.draws ∧ (countRetrain k s).intQueue = s.intQueue ∧
    (countRetrain k s).captures = s.captures ∧ (countRetrain k s).heldLow = s.heldLow ∧ (countRetrain k s).ctxs = s.ctxs ∧
    (countRetrain k s).ctxIdents = s.ctxIdents ∧ (countRetrain k s).teardownTicks = s.teardownTicks ∧
    (countRetrain k s).staleRx = s.staleRx ∧ (countRetrain k s).ctxKept = s.ctxKept ∧ (countRetrain k s).unmaps = s.unmaps ∧
    (countRetrain k s).queues = s.queues ∧ (countRetrain k s).endpoints = s.endpoints ∧ (countRetrain k s).channels = s.channels ∧
    (countRetrain k s).dmaRuns = s.dmaRuns ∧ (countRetrain k s).conv = s.conv ∧ (countRetrain k s).dispatches = s.dispatches ∧
    (countRetrain k s).nextDispatch = s.nextDispatch ∧ (countRetrain k s).schedAt = s.schedAt ∧
    (countRetrain k s).delayed = s.delayed ∧ (countRetrain k s).heldRoles = s.heldRoles ∧ (countRetrain k s).looms = s.looms ∧
    (countRetrain k s).saved = s.saved ∧ (countRetrain k s).weaves = s.weaves ∧ (countRetrain k s).drams = s.drams ∧
    (countRetrain k s).survivors = s.survivors ∧ (countRetrain k s).checked = s.checked ∧ (countRetrain k s).chk = s.chk ∧
    (countRetrain k s).suspects = s.suspects ∧ (countRetrain k s).windows = s.windows ∧ (countRetrain k s).ports = s.ports ∧
    (countRetrain k s).switches = s.switches ∧ (countRetrain k s).routeHolds = s.routeHolds ∧
    (countRetrain k s).heldPkts = s.heldPkts ∧ (countRetrain k s).loop = s.loop ∧ (countRetrain k s).fabric = s.fabric ∧
    (countRetrain k s).nextTag = s.nextTag ∧ (countRetrain k s).routes = s.routes ∧ (countRetrain k s).groups = s.groups ∧
    (countRetrain k s).cursors = s.cursors ∧ (countRetrain k s).streams = s.streams ∧ (countRetrain k s).stores = s.stores ∧
    (countRetrain k s).cadence = s.cadence ∧ (countRetrain k s).svc = s.svc ∧ (countRetrain k s).zjp = s.zjp ∧
    (countRetrain k s).suspectAt = s.suspectAt ∧ (countRetrain k s).sys = s.sys ∧ (countRetrain k s).dryRing = s.dryRing ∧
    (countRetrain k s).time = s.time ∧ (countRetrain k s).frac = s.frac ∧ (countRetrain k s).refCount = s.refCount ∧
    (countRetrain k s).outbox = s.outbox ∧ (countRetrain k s).pending = s.pending := by
  simp [countRetrain]

@[simp] theorem setSvcState_frame (p v : Nat) (s : State) :
    (setSvcState p v s).mem = s.mem ∧ (setSvcState p v s).poison = s.poison ∧ (setSvcState p v s).slots = s.slots ∧
    (setSvcState p v s).hkey = s.hkey ∧ (setSvcState p v s).draws = s.draws ∧ (setSvcState p v s).intQueue = s.intQueue ∧
    (setSvcState p v s).captures = s.captures ∧ (setSvcState p v s).heldLow = s.heldLow ∧ (setSvcState p v s).ctxs = s.ctxs ∧
    (setSvcState p v s).ctxIdents = s.ctxIdents ∧ (setSvcState p v s).teardownTicks = s.teardownTicks ∧
    (setSvcState p v s).staleRx = s.staleRx ∧ (setSvcState p v s).ctxKept = s.ctxKept ∧ (setSvcState p v s).unmaps = s.unmaps ∧
    (setSvcState p v s).queues = s.queues ∧ (setSvcState p v s).endpoints = s.endpoints ∧ (setSvcState p v s).channels = s.channels ∧
    (setSvcState p v s).dmaRuns = s.dmaRuns ∧ (setSvcState p v s).conv = s.conv ∧ (setSvcState p v s).dispatches = s.dispatches ∧
    (setSvcState p v s).nextDispatch = s.nextDispatch ∧ (setSvcState p v s).schedAt = s.schedAt ∧
    (setSvcState p v s).delayed = s.delayed ∧ (setSvcState p v s).heldRoles = s.heldRoles ∧ (setSvcState p v s).looms = s.looms ∧
    (setSvcState p v s).saved = s.saved ∧ (setSvcState p v s).weaves = s.weaves ∧ (setSvcState p v s).drams = s.drams ∧
    (setSvcState p v s).survivors = s.survivors ∧ (setSvcState p v s).checked = s.checked ∧ (setSvcState p v s).chk = s.chk ∧
    (setSvcState p v s).suspects = s.suspects ∧ (setSvcState p v s).windows = s.windows ∧ (setSvcState p v s).ports = s.ports ∧
    (setSvcState p v s).switches = s.switches ∧ (setSvcState p v s).routeHolds = s.routeHolds ∧
    (setSvcState p v s).heldPkts = s.heldPkts ∧ (setSvcState p v s).loop = s.loop ∧ (setSvcState p v s).fabric = s.fabric ∧
    (setSvcState p v s).nextTag = s.nextTag ∧ (setSvcState p v s).routes = s.routes ∧ (setSvcState p v s).groups = s.groups ∧
    (setSvcState p v s).cursors = s.cursors ∧ (setSvcState p v s).streams = s.streams ∧ (setSvcState p v s).stores = s.stores ∧
    (setSvcState p v s).cadence = s.cadence ∧ (setSvcState p v s).svc = s.svc ∧ (setSvcState p v s).zjp = s.zjp ∧
    (setSvcState p v s).suspectAt = s.suspectAt ∧ (setSvcState p v s).sys = s.sys ∧ (setSvcState p v s).dryRing = s.dryRing ∧
    (setSvcState p v s).time = s.time ∧ (setSvcState p v s).frac = s.frac ∧ (setSvcState p v s).refCount = s.refCount ∧
    (setSvcState p v s).outbox = s.outbox ∧ (setSvcState p v s).pending = s.pending := by
  unfold setSvcState; split <;> simp

end Sys2Proof.Machine
end

