-- ==== Sys2Proof/Laws/Regs.lean ====
section
/-! SUPPORT. Fields of a word, and what a register reads as after each operation that writes registers. -/

namespace Sys2Proof.Machine

/-! ## Fields -/

theorem bits_lt (w hi lo : Nat) : bits w hi lo < 2 ^ (hi + 1 - lo) := Nat.mod_lt _ (Nat.two_pow_pos _)

@[simp] theorem bits_zero (hi lo : Nat) : bits 0 hi lo = 0 := by simp [bits]

/-- Bit `k` of a field. -/
theorem testBit_bits (w hi lo k : Nat) : (bits w hi lo).testBit k = (decide (k < hi + 1 - lo) && w.testBit (lo + k)) := by
  simp [bits, Nat.testBit_mod_two_pow, Nat.testBit_shiftRight]

theorem bit_eq_testBit (w i : Nat) : bit w i = w.testBit i := by
  simp only [bit, Nat.testBit, Nat.and_comm, Nat.and_one_is_mod]
  rcases Nat.mod_two_eq_zero_or_one (w >>> i) with h | h <;> simp [h]

/-- Bit `k` of a word after a field was replaced. -/
theorem testBit_setBits (w v k : Nat) {hi lo : Nat} (h : lo ≤ hi) :
    (setBits w hi lo v).testBit k = if lo ≤ k ∧ k ≤ hi then v.testBit (k - lo) else w.testBit k := by
  have e : setBits w hi lo v = 2 ^ (hi + 1) * (w >>> (hi + 1)) + (2 ^ lo * (v % 2 ^ (hi + 1 - lo)) + w % 2 ^ lo) := by
    simp only [setBits, Nat.shiftLeft_eq]; rw [Nat.mul_comm, Nat.mul_comm (v % _)]; omega
  have hl : w % 2 ^ lo < 2 ^ lo := Nat.mod_lt _ (Nat.two_pow_pos _)
  have hv : v % 2 ^ (hi + 1 - lo) < 2 ^ (hi + 1 - lo) := Nat.mod_lt _ (Nat.two_pow_pos _)
  have hm : 2 ^ lo * (v % 2 ^ (hi + 1 - lo)) + w % 2 ^ lo < 2 ^ (hi + 1) := by
    have : 2 ^ (hi + 1) = 2 ^ lo * 2 ^ (hi + 1 - lo) := by rw [← Nat.pow_add]; congr 1; omega
    rw [this]
    calc _ < 2 ^ lo * (v % 2 ^ (hi + 1 - lo)) + 2 ^ lo := by omega
      _ = 2 ^ lo * (v % 2 ^ (hi + 1 - lo) + 1) := by rw [Nat.mul_add, Nat.mul_one]
      _ ≤ _ := Nat.mul_le_mul_left _ hv
  rw [e, Nat.testBit_two_pow_mul_add _ hm, Nat.testBit_two_pow_mul_add _ hl]
  by_cases h1 : k < hi + 1
  · rw [if_pos h1]
    by_cases h2 : k < lo
    · rw [if_pos h2, if_neg (by omega), Nat.testBit_mod_two_pow]; simp [h2]
    · rw [if_neg h2, if_pos (by omega), Nat.testBit_mod_two_pow]; simp; omega
  · rw [if_neg h1, if_neg (by omega), Nat.testBit_shiftRight]; congr 1; omega

/-- A replaced field reads as written. -/
@[simp] theorem bits_setBits_self (w v : Nat) {hi lo : Nat} (h : lo ≤ hi := by omega) : bits (setBits w hi lo v) hi lo = v % 2 ^ (hi + 1 - lo) := by
  apply Nat.eq_of_testBit_eq; intro k
  rw [testBit_bits, testBit_setBits _ _ _ h, Nat.testBit_mod_two_pow]
  by_cases hk : k < hi + 1 - lo
  · rw [if_pos (by omega)]; simp
  · simp [hk]

/-- Replacing a field leaves a disjoint field alone. -/
theorem bits_setBits_other (w v : Nat) {hi lo h' l' : Nat} (h : lo ≤ hi) (d : h' < lo ∨ hi < l') (hl : l' ≤ h') :
    bits (setBits w hi lo v) h' l' = bits w h' l' := by
  apply Nat.eq_of_testBit_eq; intro k
  rw [testBit_bits, testBit_bits, testBit_setBits _ _ _ h]
  by_cases hk : k < h' + 1 - l'
  · rw [if_neg (by omega)]
  · simp [hk]

theorem bits_mod (w : Nat) {n hi lo : Nat} (h : hi < n) (hl : lo ≤ hi) : bits (w % 2 ^ n) hi lo = bits w hi lo := by
  apply Nat.eq_of_testBit_eq; intro k
  rw [testBit_bits, testBit_bits, Nat.testBit_mod_two_pow]
  by_cases hk : k < hi + 1 - lo
  · have : lo + k < n := by omega
    simp [hk, this]
  · simp [hk]

/-- A word stays below a power of two when a field below it is replaced. -/
theorem setBits_lt (w v : Nat) {n hi lo : Nat} (h : lo ≤ hi) (hn : hi < n) (hw : w < 2 ^ n) : setBits w hi lo v < 2 ^ n := by
  apply Nat.lt_pow_two_of_testBit
  intro k hk
  rw [testBit_setBits _ _ _ h, if_neg (by omega)]
  exact Nat.testBit_lt_two_pow (Nat.lt_of_lt_of_le hw (Nat.pow_le_pow_right (by omega) hk))

/-! ## Registers -/

/-- A register after a write of one. -/
theorem reg_setReg (a v : Nat) (s : State) (b : Nat) : reg (setReg a v s) b = if b = a then v % 2 ^ 64 else reg s b := by
  unfold reg setReg
  by_cases h : b = a <;> simp [h, tget?_tset]

@[simp] theorem reg_setReg_self (a v : Nat) (s : State) : reg (setReg a v s) a = v % 2 ^ 64 := by simp [reg_setReg]

theorem reg_setReg_ne {a b : Nat} (v : Nat) (s : State) (h : b ≠ a) : reg (setReg a v s) b = reg s b := by simp [reg_setReg, h]

theorem reg_setField_ne {a b : Nat} (hi lo v : Nat) (s : State) (h : b ≠ a) : reg (setField a hi lo v s) b = reg s b :=
  reg_setReg_ne _ s h

/-- A written field of a register reads as written. -/
theorem bits_reg_setField (a v : Nat) {hi lo : Nat} (s : State) (h : lo ≤ hi) (h64 : hi < 64) :
    bits (reg (setField a hi lo v s) a) hi lo = v % 2 ^ (hi + 1 - lo) := by
  rw [setField, reg_setReg_self, bits_mod _ h64 h, bits_setBits_self _ _ h]

theorem bits_reg_setField_other (a v : Nat) {hi lo h' l' : Nat} (s : State) (h : lo ≤ hi) (d : h' < lo ∨ hi < l') (hl : l' ≤ h')
    (h64 : h' < 64) : bits (reg (setField a hi lo v s) a) h' l' = bits (reg s a) h' l' := by
  rw [setField, reg_setReg_self, bits_mod _ h64 hl, bits_setBits_other _ _ h d hl]

@[simp] theorem reg_bump_self (a n : Nat) (s : State) : reg (bump a n s) a = (reg s a + n) % 2 ^ 64 := by simp [bump]

theorem reg_bump_ne {a b : Nat} (n : Nat) (s : State) (h : b ≠ a) : reg (bump a n s) b = reg s b := reg_setReg_ne _ s h

theorem sat32_lt (n : Nat) : sat32 n < 2 ^ 64 := by unfold sat32; omega

@[simp] theorem reg_bumpSat_self (a n : Nat) (s : State) : reg (bumpSat a n s) a = sat32 (reg s a + n) := by
  rw [bumpSat, reg_setReg_self, Nat.mod_eq_of_lt (sat32_lt _)]

theorem reg_bumpSat_ne {a b : Nat} (n : Nat) (s : State) (h : b ≠ a) : reg (bumpSat a n s) b = reg s b := reg_setReg_ne _ s h

@[simp] theorem reg_intRise (p : Nat) (s : State) (a : Nat) : reg (intRise p s) a = reg s a := by
  unfold intRise; split <;> rfl

/-- A register after bits of a page's INT_PEND were set. -/
theorem reg_setPend (p m : Nat) (s : State) (a : Nat) :
    reg (setPend p m s) a = if a = p + hdrPend then (reg s (p + hdrPend) ||| m) % 2 ^ 64 else reg s a := by
  unfold setPend; dsimp only; split <;> simp [reg_setReg]

theorem reg_setPend_ne {p a : Nat} (m : Nat) (s : State) (h : a ≠ p + hdrPend) : reg (setPend p m s) a = reg s a := by
  simp [reg_setPend, h]

/-- A recorded error writes only the page's error registers and INT_PEND. -/
theorem reg_recErr_ne {p a : Nat} (c u n : Nat) (s : State) (h1 : a ≠ p + hdrErrCount) (h2 : a ≠ p + hdrErrFirst) (h3 : a ≠ p + hdrPend) :
    reg (recErr p c u n s) a = reg s a := by
  unfold recErr; dsimp only; split
  · exact reg_bumpSat_ne _ _ h1
  · rw [reg_setPend_ne _ _ h3, reg_setReg_ne _ _ h2, reg_bumpSat_ne _ _ h1]

theorem reg_logDry_ne {a : Nat} (d c n : Nat) (l : List Nat) (s : State) (h : a ≠ dryPage + Reg.DRY_NEXT_SEQ) :
    reg (logDry d c n l s) a = reg s a := reg_setReg_ne _ _ h

/-- What stands in a register does not change where the register table does not. -/
theorem reg_congr {s t : State} (h : t.regs = s.regs) (a : Nat) : reg t a = reg s a := by unfold reg; rw [h]

end Sys2Proof.Machine
end

