-- ==== Sys2Proof/Laws/Takes.lean ====
section
/-! SUPPORT. What each way of taking work comes to: the operation that judges a command first, on the states in which Safety says that the
command is taken, is the command's own action on the state that follows. -/

namespace Sys2Proof.Machine

/-- An instruction that issues is performed on the state with its issue counted (R112). -/
theorem issueRow_of_issues {w : Who} {row : Nat} {s : State} {e : Env} (h : Issues w row s e) (may : Env → Bool) (hm : may e = true)
    (body : Env → State → State) : issueRow w row may body s = body e (countIssue e s) := by
  obtain ⟨h1, h2, h3⟩ := h
  simp [issueRow, h1, h2, h3, hm]

/-- A DMA entry that is taken runs (R277, R280). -/
theorem dmaStart_of_takes {die slot : Nat} {s : State} {j : DmaJob} {t : State} (h : DmaTakes die slot s j t) (mine : List Byte → Bool)
    (hm : mine j.entry = true) (body : DmaJob → State → State) : dmaStart die slot mine body s = body j t := by
  obtain ⟨ch, q, e, b, s', h1, h2, h3, h4, h5, h6, h7, h8, h9, h10⟩ := h
  subst h9 h10
  simp only at hm
  simp [dmaStart, h1, h2, h3, h4, h5, h6, h7, h8, hm]

/-- A conversion entry that is taken is judged by its own checks (R149, R151). -/
theorem convStart_of_takes {die slot : Nat} {s : State} {j : DmaJob} {ch : ConvChan} {t : State} (h : ConvTakes die slot s j ch t)
    (mine : List Byte → Bool) (hm : mine j.entry = true) (bad : List Byte → ConvChan → Option Nat) (body : DmaJob → ConvChan → State → State) :
    convStart die slot mine bad body s =
      match bad j.entry ch with
      | some sub => convDone j zsBadFormat sub [] t
      | none => body j ch t := by
  obtain ⟨h1, s1, h2, h3, h4⟩ := h
  simp only [convStart, h1, dmaStart_of_takes h2 mine hm, h3, h4]
  cases bad j.entry ch <;> rfl

/-- A COLLECTIVE entry that is taken runs (R305, R306). -/
theorem silStart_of_takes {die slot : Nat} {s : State} {j : SilJob} {g : SilGroup} {t : State} (h : SilTakes die slot s j g t)
    (mine : Nat → Bool) (hm : mine (bytesAt j.entry 0 1) = true) (body : SilJob → SilGroup → State → State) :
    silStart die slot mine body s = body j g t := by
  obtain ⟨q, b, s', h1, h2, h3, h4, h5, h6, h7, h8, h9, h10, h11, h12⟩ := h
  subst h10
  simp only at hm h12
  have h3' : occupancy q = 0 ↔ False := by simp [h3]
  simp [silStart, h1, h2, h3', h4, h5, h6, h7, ← h8, h9, h11, h12, hm]

/-- A SERVICE entry that is taken runs (R366). -/
theorem svcStart_of_takes {die slot : Nat} {s : State} {j : SvcJob} {t : State} (h : SvcTakes die slot s j t) (mine : Nat → Bool)
    (hm : mine (svOp j.entry) = true) (body : SvcJob → State → State) : svcStart die slot mine body s = body j t := by
  obtain ⟨q, b, s', h1, h2, h3, h4, h5, h6, h7, h8, h9, h10, h11⟩ := h
  subst h11
  simp only at hm
  have h3' : occupancy q = 0 ↔ False := by simp [h3]
  simp only [svcStart, h1, h2, h4, h5, h6, h7, h9, ← h8, hm]
  rcases h10 with h10 | ⟨h10, h10'⟩
  · simp [h10, h3']
  · simp [h10', Option.isSome_iff_ne_none.mp h10, h3']

/-- A packet that is delivered acts at its destination (R327, R333 to R341). -/
theorem arrive_of_delivers {op port : Nat} {p : Packet} {s t : State} (h : Delivers op port p s t) (act : State → State) :
    arrive op port p act s = act t := by
  obtain ⟨h1, h2, h3, h4, h5⟩ := h
  subst h5
  have h6 : linkAccept port p s = (true, (linkAccept port p s).2) := by rw [← h2]
  rw [arrive, if_neg (by simp [h1]), h6]
  simp [h3, h4]

/-- A segment that reaches its group is taken there (R321, R329). -/
theorem silSegment_of_segmentFor {port : Nat} {p : Packet} {s : State} {gs : Nat} {g : SilGroup} {t : State} (h : SegmentFor port p s gs g t)
    (act : Nat → SilGroup → SilSeg → State → State) : arrive opSil port p (silSegment port p act) s = act gs g (segOf p.body) t := by
  obtain ⟨t0, h1, h2, h3, h4, h5, h6, h7, h8⟩ := h
  subst h8
  rw [arrive_of_delivers h1]
  simp [silSegment, h2, h3, h4, h5, h6, h7]

/-- A response that answers a request is taken by it (R332). -/
theorem takeResponse_of_answers {op port : Nat} {p : Packet} {r : FabReq} {s t : State} (h : Answers op port p r s t)
    (act : FabReq → State → State) : arrive op port p (takeResponse port p act) s = settleUnmaps (act r t) := by
  obtain ⟨h1, h2, h3, h4⟩ := h
  rw [arrive_of_delivers h1]
  simp [takeResponse, h2, h3, h4]

/-- A supported frame acts on the state with it counted (R358). -/
theorem onFrame_of_frameOn {port : Nat} {f : Frame} {s t : State} (h : FrameOn port f s t) (k : State → State) : onFrame port f k s = k t := by
  obtain ⟨h1, h2, h3, h4⟩ := h
  subst h3
  simp [onFrame, h1, h2, h4]

/-- A RoCEv2 frame acts on the state with the partner heard (R358). -/
theorem onRoce_of_roceOn {port : Nat} {f : Frame} {qpn : Nat} {s t : State} (h : RoceOn port f qpn s t) (k : State → State) :
    onRoce port f qpn k s = k t := by
  obtain ⟨s1, h1, h2, h3, h4⟩ := h
  simp [onRoce, h2, onFrame_of_frameOn h1, h3, ← h4]

/-- What a ZJP request that was performed comes to: its answer, or nothing yet (R362). -/
def zjpOutcome (z : ZjpReq) (opcode : Nat) (r : ZjpResult × State) : State :=
  match r.1 with
  | some (status, sub, body) => zjpAnswer z.port z.reqId opcode z.ctx status sub body r.2
  | none => r.2

/-- An admitted request is performed and answered (R361 to R364). -/
theorem zjpRun_of_admits {z : ZjpReq} {opcode : Nat} {s t : State} (h : ZjpAdmits z opcode s t) (body : State → ZjpResult × State) :
    zjpRun z opcode body s = zjpOutcome z opcode (body t) := by
  obtain ⟨id, s1, ⟨s0, h1, h2, h3, h4, h5⟩, h6, h7, h8, h9, h10⟩ := h
  subst h10
  simp only [zjpRun, onFrame_of_frameOn h1, h2, h3, h4, zjpCached, ← h5, h6, h8, h9, zjpOutcome]
  rcases hb : body (zjpTake z opcode id s1) with ⟨_ | ⟨a, b, c⟩, u⟩ <;> cases hf : failedNow s1 <;> simp [hf] at h7 ⊢ <;> simp [h7]

/-- An admitted request on the live context that it names is performed there (R361). -/
theorem zjpCtx_of_acts {z : ZjpReq} {opcode c : Nat} {s t : State} (h : ZjpActs z opcode c s t) (body : Nat → State → ZjpResult × State) :
    zjpCtx z opcode body s = zjpOutcome z opcode (zjpCounted c (body c t)) := by
  obtain ⟨h1, h2, h3, h4⟩ := h
  subst h3
  simp [zjpCtx, zjpRun_of_admits h1, h2]

/-- The same for a request that needs the context active. -/
theorem zjpLive_of_acts {z : ZjpReq} {opcode c : Nat} {s t : State} (h : ZjpActs z opcode c s t) (body : Nat → State → ZjpResult × State) :
    zjpLive z opcode body s = zjpOutcome z opcode (zjpCounted c (body c t)) := by
  rw [zjpLive, zjpCtx_of_acts h, if_pos h.2.2.2]

/-- A result that is no invalid handle counts against nobody (R26). -/
theorem zjpCounted_of_ne {c : Nat} {r : ZjpResult × State} (h : ∀ st sub b, r.1 = some (st, sub, b) → st ≠ zsHandleInvalid) : zjpCounted c r = r := by
  obtain ⟨_ | ⟨st, sub, b⟩, u⟩ := r
  · rfl
  · simp [zjpCounted, h st sub b rfl]

end Sys2Proof.Machine
end

