-- ==== Sys2Proof/WellFormed.lean ====
section
/-! DEFINITION. Well-formed commands: every operand names a die, loom, port, slot, thread or comparator that the package has. -/

namespace Sys2Proof

open Machine

/-- A compute die (R12). -/
def dieOk (die : Nat) : Bool := die < 8
/-- A loom by its package number. -/
def loomOk (loom : Nat) : Bool := loom < 256
/-- A skein slot of a loom: four quadrants of sixteen (R41). -/
def skeinOk (skein : Nat) : Bool := skein < 64
/-- A thread of a skein. -/
def threadOk (thread : Nat) : Bool := thread < 32
/-- A thread that issues. -/
def Who.ok (w : Who) : Bool := loomOk w.loom && skeinOk w.skein && threadOk w.thread
/-- A link port (R12). -/
def linkOk (port : Nat) : Bool := port < 36
/-- A service port, 1 to 6, or a management port, 7 and 8. -/
def svcOk (port : Nat) : Bool := 1 ≤ port && port ≤ 8
/-- A management port. -/
def mgmtOk (port : Nat) : Bool := 7 ≤ port && port ≤ 8
/-- A bypass pair (R351). -/
def pairOk (pair : Nat) : Bool := pair < 18
/-- A slot of a queue on a die, the most that any type has (Table R23). -/
def slotOk (slot : Nat) : Bool := slot < 16384
/-- A context slot (Table R23). -/
def ctxOk (c : Nat) : Bool := c < 4096
/-- A slot of a Sillage group (Table R23). -/
def groupOk (gs : Nat) : Bool := gs < 1024
/-- A DRAM stack of a die (R245). -/
def stackOk (stack : Nat) : Bool := stack < 4
/-- A base-note comparator (R455). -/
def cmpOk (k : Nat) : Bool := k < 8
/-- A control core of a die (R409). -/
def coreOk (core : Nat) : Bool := core < 4
/-- A lane of a link port (R325). -/
def laneOk (lane : Nat) : Bool := lane < 8
/-- A 32-bit mask. -/
def maskOk (mask : Nat) : Bool := mask < 2 ^ 32
/-- An address of the physical space (R37). -/
def paOk (a : Nat) : Bool := a < 2 ^ 52
/-- A packet's fields fit their widths (R329): LEN is at most 4,144. -/
def packetOk (p : Packet) : Bool :=
  p.dest < 2 ^ 16 && p.src < 2 ^ 16 && p.op < 2 ^ 8 && p.vc < 8 && p.seq < 2 ^ 24 && p.epoch < 2 ^ 16 && p.roleEpoch < 2 ^ 16 && p.hops < 2 ^ 8 &&
  p.check < 2 ^ 32 && p.ctxGen < 2 ^ 24 && p.ctxTag < 2 ^ 8 && p.ctxSlot < 2 ^ 12 && p.epHome < 16 && p.epSlot < 2 ^ 14 && p.epGen < 2 ^ 24 &&
  p.epTag < 2 ^ 8 && p.reserved < 2 ^ 8 && p.body.length ≤ 4144
/-- Where a packet arrives: a link port, or, as 36, from the package itself (R341). -/
def arrivalOk (port : Nat) : Bool := port ≤ 36
/-- A VLAN ID has 12 bits (R358). -/
def frameFits (f : Frame) : Bool := f.vlan < 4096
/-- A RoCEv2 packet sequence number has 24 bits (R365). -/
def psnOk (psn : Nat) : Bool := psn < 2 ^ 24
/-- A RoCEv2 head: a frame that fits and a sequence number of 24 bits. -/
def roceFits (h : RoceHead) : Bool := frameFits h.frame && psnOk h.psn
/-- A header that stands apart from its body carries none itself. -/
def headOk (head : Packet) : Bool := head.body.isEmpty
/-- A request comes from a port (R362). -/
def reqOk (z : ZjpReq) : Bool := svcOk z.port && frameFits z.frame

/-- The command is well formed. -/
def WellFormed (i : Instr) : Bool :=
  match i with
  | .nop w => w.ok
  | .ialu w => w.ok
  | .ishf w => w.ok
  | .imul w => w.ok
  | .icmp w => w.ok
  | .ibit w => w.ok
  | .imov w => w.ok
  | .plop w => w.ok
  | .vote w => w.ok
  | .lxch w => w.ok
  | .fadd w => w.ok
  | .fmul w => w.ok
  | .ffma w => w.ok
  | .fmnmx w => w.ok
  | .fcmp w => w.ok
  | .fcvt w => w.ok
  | .amax w => w.ok
  | .sfu w => w.ok
  | .ld w => w.ok
  | .st w => w.ok
  | .atom w => w.ok
  | .red w => w.ok
  | .fence w => w.ok
  | .fenceI w => w.ok
  | .bra w => w.ok
  | .brx w => w.ok
  | .call w => w.ok
  | .ret w => w.ok
  | .join w => w.ok
  | .exit w => w.ok
  | .yield w => w.ok
  | .barInit w => w.ok
  | .barSync w => w.ok
  | .barArv w => w.ok
  | .skmMac w => w.ok
  | .skmXpose w => w.ok
  | .skmSum w => w.ok
  | .skmMax w => w.ok
  | .topk w => w.ok
  | .tileSub w => w.ok
  | .tileWait w => w.ok
  | .tileTest w => w.ok
  | .quePush w => w.ok
  | .quePop w => w.ok
  | .queWait w => w.ok
  | .queSend w => w.ok
  | .rngDraw w => w.ok
  | .rngAdv w => w.ok
  | .rngBase w => w.ok
  | .chkCrc w => w.ok
  | .chkCmb w => w.ok
  | .chkVer w => w.ok
  | .lcvCompletion loom skein _ => loomOk loom && skeinOk skein
  | .joinRelease loom skein _ => loomOk loom && skeinOk skein
  | .yieldExpiry loom skein thread => loomOk loom && skeinOk skein && threadOk thread
  | .barrierStall loom _ => loomOk loom
  | .requestWest loom => loomOk loom
  | .requestEast loom => loomOk loom
  | .preemptSaveComplete loom _ => loomOk loom
  | .loomCfgSplit loom _ => loomOk loom
  | .tileOpAccept loom _ _ => loomOk loom
  | .tbTimeout loom _ => loomOk loom
  | .preloadBegin loom _ => loomOk loom
  | .passStart loom _ => loomOk loom
  | .tileOpComplete loom _ => loomOk loom
  | .slotStoreStart loom _ => loomOk loom
  | .slotLoadStart loom _ => loomOk loom
  | .completionEntryPost => true
  | .freezeAbandon loom _ _ => loomOk loom
  | .twlRepairWrite loom _ => loomOk loom
  | .alignRewriteDone loom => loomOk loom
  | .inServiceWrite loom _ => loomOk loom
  | .retiredSet loom => loomOk loom
  | .go loom => loomOk loom
  | .portOpDone loom => loomOk loom
  | .fillDelivery die _ => dieOk die
  | .dirReadRequest die _ => dieOk die
  | .dirMRequest die _ => dieOk die
  | .reductionRegistration die _ => dieOk die
  | .registrationAck die _ => dieOk die
  | .mergeWriteback die _ => dieOk die
  | .pin die slot => dieOk die && slotOk slot
  | .unpin die slot => dieOk die && slotOk slot
  | .dramReadDecode die _ _ _ _ => dieOk die
  | .pcFailMark die stack _ => dieOk die && stackOk stack
  | .memcPcFailedWrite die stack _ => dieOk die && stackOk stack
  | .rebuildComplete die stack => dieOk die && stackOk stack
  | .patrolScrub die _ _ _ => dieOk die
  | .clearScrubDone c => ctxOk c
  | .memcSurvWrite die _ _ => dieOk die
  | .dramTempSample die stack _ => dieOk die && stackOk stack
  | .doorbellWrite slot _ _ _ => ctxOk slot
  | .dispatch die slot => dieOk die && slotOk slot
  | .dispatchComplete _ => true
  | .copy die slot => dieOk die && slotOk slot
  | .fill die slot => dieOk die && slotOk slot
  | .dmaEntryDone die slot => dieOk die && slotOk slot
  | .schedulerRound die _ => dieOk die
  | .schQuantum die => dieOk die
  | .handleHold c => ctxOk c
  | .handleHoldEnd c => ctxOk c
  | .roleEpochAdvance _ => true
  | .teardownWritesDone c => ctxOk c
  | .teardownQuietEnd c => ctxOk c
  | .teardownComplete c => ctxOk c
  | .contrib die slot => dieOk die && slotOk slot
  | .close die slot => dieOk die && slotOk slot
  | .openStep die slot => dieOk die && slotOk slot
  | .await die slot => dieOk die && slotOk slot
  | .awaitComplete gs _ => groupOk gs
  | .update die slot => dieOk die && slotOk slot
  | .commit die slot => dieOk die && slotOk slot
  | .commitComplete gs => groupOk gs
  | .retract die slot => dieOk die && slotOk slot
  | .digest die slot => dieOk die && slotOk slot
  | .silDeadline gs => groupOk gs
  | .silStallLimit gs _ => groupOk gs
  | .windowReduce gs _ => groupOk gs
  | .clipFactor gs _ => groupOk gs
  | .readySend gs => groupOk gs
  | .commitTimeout gs => groupOk gs
  | .linkFrameRx port _ _ _ _ => linkOk port
  | .frameCloseTimeout port => linkOk port
  | .keyRollover port => linkOk port
  | .controlFlitTimer port => linkOk port
  | .ack port _ => linkOk port
  | .nak port _ => linkOk port
  | .credit port _ => linkOk port
  | .tsync port _ _ _ _ _ => linkOk port
  | .idle port => linkOk port
  | .tsyncExchange port => linkOk port
  | .replayTimeout port => linkOk port
  | .put port p => arrivalOk port && packetOk p
  | .get port p => arrivalOk port && packetOk p
  | .atomPacket port p => arrivalOk port && packetOk p
  | .redPacket port p => arrivalOk port && packetOk p
  | .msg port p => arrivalOk port && packetOk p
  | .sil port p => arrivalOk port && packetOk p
  | .donePacket port p => arrivalOk port && packetOk p
  | .dataPacket port p => arrivalOk port && packetOk p
  | .nackPacket port p => arrivalOk port && packetOk p
  | .msgAck port p => arrivalOk port && packetOk p
  | .silAck port head body => arrivalOk port && headOk head && packetOk (carrying head body)
  | .fabricTimeout _ => true
  | .bringupPhaseComplete port _ => linkOk port
  | .trainLimitExpiry port => linkOk port
  | .trainRetry port => linkOk port
  | .lossOfSignal port lane => linkOk port && laneOk lane
  | .uncorrCodewordLimit port => linkOk port
  | .tagFailureLimit port => linkOk port
  | .rxSilence port => linkOk port
  | .retrain port => linkOk port
  | .openBypass pair => pairOk pair
  | .hold pair _ => pairOk pair
  | .bypassSwitchSettled pair => pairOk pair
  | .routeHoldEnd => true
  | .rvlRouteDataWrite die _ => dieOk die
  | .rvlPositionWrite die _ => dieOk die
  | .bindHello z _ => reqOk z
  | .bindFinish z _ _ => reqOk z
  | .unbind z => reqOk z
  | .ping z => reqOk z
  | .admitContext z => reqOk z
  | .contextDestroy z => reqOk z
  | .contextInfo z => reqOk z
  | .memGrant z _ => reqOk z
  | .memRelease z _ _ => reqOk z
  | .codeLoad z _ _ => reqOk z
  | .objCreate z _ => reqOk z
  | .roleAssign z _ => reqOk z
  | .shareEndpoint z _ _ => reqOk z
  | .qpConnect z _ _ _ => reqOk z
  | .qpClose z _ => reqOk z
  | .mrRegister z _ _ _ => reqOk z
  | .mrDeregister z _ => reqOk z
  | .serve z => reqOk z
  | .attest z => reqOk z
  | .testSuspect z => reqOk z
  | .mgmtStatus z => reqOk z
  | .drydownRead z => reqOk z
  | .policySet z _ => reqOk z
  | .configWrite z _ => reqOk z
  | .imageWrite z => reqOk z
  | .contextKill z => reqOk z
  | .fabricSet z _ => reqOk z
  | .recoveryReset z => reqOk z
  | .powerSet z => reqOk z
  | .reply die slot => dieOk die && slotOk slot
  | .rdmaWrite die slot => dieOk die && slotOk slot
  | .rdmaRead die slot => dieOk die && slotOk slot
  | .send die slot => dieOk die && slotOk slot
  | .serviceEntryAcked port h _ => svcOk port && roceFits h
  | .inboundRdmaWrite port h _ _ _ => svcOk port && roceFits h
  | .inboundRdmaRead port h _ _ _ => svcOk port && roceFits h
  | .qpRetryExhausted port _ => svcOk port
  | .serveTimeout port _ => svcOk port
  | .partnerTimeout port => svcOk port
  | .anomalyEvaluation die => dieOk die
  | .chkFtStart die mask => dieOk die && maskOk mask
  | .fieldTestBegin die => dieOk die
  | .ftDrainComplete loom => loomOk loom
  | .ftArrayScanComplete loom _ _ => loomOk loom
  | .ftSramMarchComplete loom _ => loomOk loom
  | .ftOutcome loom _ => loomOk loom
  | .secureSeal gs => groupOk gs
  | .secureNow => true
  | .cadEventIn => true
  | .claimWindowExpiry _ => true
  | .twinFail => true
  | .cadTwinTakeover => true
  | .joinSegment port p => arrivalOk port && packetOk p
  | .joinAck port head body => arrivalOk port && headOk head && packetOk (carrying head body)
  | .fillSegment port head ext payload => arrivalOk port && headOk head && packetOk (carrying head (ext ++ payload))
  | .rollback port p => arrivalOk port && packetOk p
  | .loomWdStage1 loom _ => loomOk loom
  | .loomWdStage2 loom _ => loomOk loom
  | .heartbeatTimeout die => dieOk die
  | .coreWdTimeout die core => dieOk die && coreOk core
  | .dryCoreKick mask => maskOk mask
  | .orrisWd _ => true
  | .linkTxStall port => linkOk port
  | .rstN => true
  | .resetReq => true
  | .recoveryPhaseComplete _ => true
  | .recoveryPhaseOverrun => true
  | .resetLimitExpiry => true
  | .dumpNoResponse _ _ => true
  | .dumpCut _ => true
  | .powerFail _ => true
  | .powerUp _ => true
  | .powerUpPhaseComplete _ => true
  | .pullFaultLimit => true
  | .auth _ => true
  | .debugDurationExpiry => true
  | .bypass => true
  | .idcode => true
  | .trstN _ => true
  | .pllLockLoss => true
  | .pllRelock => true
  | .ppsEdge => true
  | .slewEnd => true
  | .discSourceLoss => true
  | .bntDiscWrite _ => true
  | .thermalGateStep die _ => dieOk die
  | .powerLimitGate _ _ => true
  | .vinLowGate _ _ => true
  | .dieIdleEntry die => dieOk die
  | .dieIdleExit die => dieOk die
  | .powerStateReached => true
  | .wakeN _ => true
  | .comparatorFire k _ => cmpOk k
  | .bntCmpCfgWrite _ => true
  | .bntPpsWrite _ => true
  | .vinOvervoltage _ => true
  | .thermalTrip _ die stack _ => dieOk die && stackOk stack
  | .ptr _ => true
  | .smbData => true
  | .smbStatus => true
  | .alertResponseRead => true
  | .convert die slot => dieOk die && slotOk slot
  | .measure die slot => dieOk die && slotOk slot
  | .histRead die slot => dieOk die && slotOk slot
  | .stashPack die slot => dieOk die && slotOk slot
  | .stashUnpack die slot => dieOk die && slotOk slot
  | .enable _ a _ => paOk a
  | .quiesce _ a _ => paOk a
  | .softReset _ a _ => paOk a
  | .intPendClear _ a mask => paOk a && maskOk mask
  | .intTest _ a mask => paOk a && maskOk mask
  | .interruptQueueEntry _ => true
  | .errFirstRearm _ a => paOk a
  | .lock _ a => paOk a
  | .lowWordRead _ _ a => paOk a
  | .highWordRead _ a => paOk a
  | .lowWordWrite _ a _ => paOk a
  | .highWordWrite _ a _ => paOk a
  | .registerWrite _ _ a _ => paOk a
  | .objDestroy z _ => reqOk z
  | .rstNRelease => true
  | .illegalInstruction w => w.ok
  | .zjpUnsupported port f _ => svcOk port && frameFits f
  | .rebuildLine die stack _ _ _ => dieOk die && stackOk stack
  | .opticalLoopbackEnd pair => pairOk pair
  | .imageWriteComplete => true
  | .configWriteComplete => true
  | .serviceLinkDown port => svcOk port
  | .serviceLinkUp up => svcOk up.port
  | .roceRetryTimeout port _ _ => svcOk port
  | .neighbourDiscovery port f _ => svcOk port && frameFits f
  | .icmpEcho port f _ _ => svcOk port && frameFits f
  | .unsupportedFrame port _ => svcOk port
  | .discoverTimer => true
  | .offer port _ _ _ => mgmtOk port
  | .pullData port _ _ _ => mgmtOk port
  | .pullNak port _ => mgmtOk port
  | .readTimeout _ => true
  | .handleWindowEnd c => ctxOk c
  | .thrashWindowEnd die => dieOk die
  | .memberSilent gs _ => groupOk gs
  | .wvcConfigWrite die _ _ => dieOk die
  | .memcPatrolWrite die _ => dieOk die

end Sys2Proof
end

