-- ==== Sys2Proof/Tests/Slice0.lean ====
section
/-! SUPPORT. The model's own tests: for each statement a state and operands that meet its hypotheses, a few results computed by hand from the
spec, and an ill-formed command for each check of WellFormed. Closed witnesses of a verified image, and of what rests on one, are not given: the
key hashes in ROM (R429) are free values.Nor is one of an entry that the home directory
drops (R229): Config.dirVictim is a free value. -/

namespace Sys2Proof.Tests

open Sys2Proof.Machine

set_option Elab.async false

/-- Two live dies of a package that runs. -/
def up : State :=
  { State.reset with regs := [(dieMapAddr, 0x20003)], sys := { Sys.initial with power := .on, vinGood := true } }

/-- Page tables that map the first GiB at virtual address 0 to physical address 2^30, readable, writable and executable. -/
def mapped : State := { up with mem := memPut (memPut [] 0x1000 (toBytes 8 0x10001)) 0x10000 (toBytes 8 0x4000001F) }

/-- The handle of context slot 5. -/
def hCtx : Word := mkHandle up 1 15 5 0

/-- A context with every capability and generous limits. -/
def ctx5 : Ctx :=
  { handle := hCtx, xlatRoot := 0x1000, srKey := 0, step := 7, caps := 31, mode := 0, partition := 0, share := 1, secDomain := 0,
    topLimit := 64, halfLimit := 64, memtxLimit := 64, pinQuota := 64, memQuota := 2 ^ 31, queueQuota := 64, objQuota := 64,
    faultQ := 0, strayQ := 0, created := 0, state := .active, teardown := none,
    leaves := [⟨0, 0x40000000, 0x40000000, 0, 7, false, true⟩], tables := [(0x1000, 256), (0x10000, 65536)], tableNext := 0, tableEnd := 0, areas := [], faults := [], ticket := 0,
    tileErrs := [], invalid := 0, held := false, dies := [], cm := 0, identity := 99 }

/-- The package with context 5. -/
def tenant : State :=
  { mapped with slots := [(slotKey 1 15 5, ⟨0, hCtx, true, false, []⟩)], ctxs := [(5, ctx5)], ctxIdents := [(5, 99)] }

/-- A skein of context 5 whose threads of a mask are at address 0, with the words fetched there. -/
def skeinOf (mask : Nat) (words : List Nat) : Skein :=
  { ctx := 5, gran := 16, base := 0, dispatch := 0, groups := [⟨mask, 0, .none⟩], exited := 0, faulted := false, regs := [], uregs := [],
    preds := [], lcvs := [], nextLcv := 0, fetched := words.zipIdx.map (fun p => (p.2 * 8, p.1)), fabricOut := [], putFails := [] }

/-! ## Grelopor -/

/-- The thread whose group issues. -/
def who : Who := ⟨0, 3, 0⟩

/-- An instruction word of R70 and R71 whose guard is p7: MAJOR, DST, the three sources and their kinds, FUNC and MOD. -/
def word (maj dst a b c ka kb kc func mod : Nat) : Nat :=
  maj * 2 ^ 58 + dst * 2 ^ 50 + a * 2 ^ 42 + b * 2 ^ 34 + c * 2 ^ 26 + 7 * 2 ^ 23 + func * 2 ^ 13 + ka * 2 ^ 11 + kb * 2 ^ 9 + kc * 2 ^ 7 + mod

/-- A package whose loom 0 holds a skein in slot 3, with a kilobyte of scratch. -/
def onLoom (s : State) (k : Skein) : State :=
  { s with looms := [(0, { Loom.empty with skeins := [(3, k)], allocs := [⟨some 0, 0, 1024⟩] })] }

/-- The threads of a mask are about to issue the first word. -/
def about (mask : Nat) (words : List Nat) : State := onLoom tenant (skeinOf mask words)

/-- The group issues an instruction of a row, and a condition holds of what its operands are read from. -/
def issuesB (row : Nat) (s : State) (p : Env → Bool) : Bool :=
  match fetchFor who s with
  | .ready e => rowOf e.ins.w == row && (preludeFault e).isNone && p e
  | _ => false

theorem issues_of_issuesB {row : Nat} {s : State} {p : Env → Bool} (h : issuesB row s p = true) : ∃ e, Issues who row s e ∧ p e = true := by
  unfold issuesB at h
  split at h
  · rename_i e he
    simp only [Bool.and_eq_true, beq_iff_eq, Option.isNone_iff_eq_none] at h
    exact ⟨e, ⟨he, h.1.1, h.1.2⟩, h.2⟩
  · cases h

/-- The state after a command. -/
def after (c : Instr) (s : State) : State :=
  match exec c s with
  | .next t => t
  | _ => s

/-- The skein of loom 0. -/
def skein3 (s : State) : Skein := (tget? (loomOf s 0).skeins 3).getD (skeinOf 0 [])

/-- Every word of the list issues as its row with two threads. -/
def allIssue (l : List (Nat × Nat)) : Bool := l.all (fun x => issuesB (x.1 * 8) (about 3 [x.2]) (fun e => lanes e == [0, 1]))

theorem witness_IntegerInstructionsWriteTheirResults :
    allIssue [(1, word 1 0 0 0 0 0 0 0 0 0), (2, word 2 4 5 7 0 3 3 0 0 0), (3, word 3 4 3 4 0 3 3 0 0 0), (4, word 4 4 6 7 0 3 3 0 0 0),
      (4, word 4 4 6 7 8 3 3 0 3 0), (5, word 5 1 5 5 0 3 3 0 0 0), (6, word 6 4 7 0 0 3 0 0 0 0), (7, word 7 4 7 0 0 3 0 0 0 0),
      (7, word 7 4 1 2 0x87 3 3 1 1 0), (8, word 8 1 0x87 0x87 0x87 1 1 1 3 0x3F), (9, word 9 4 0x87 0 0 1 0 0 2 0),
      (9, word 9 1 0x87 0 0 1 0 0 0 0), (9, word 9 1 0x87 0 0 1 0 0 1 0), (10, word 10 4 0x40 0 0 1 0 0 2 0)] = true := by decide +kernel

/-- Table R81: 5 + 7, 3 shifted left by 4, 6 × 7; the equal comparison of R82 sets p1 in both threads. -/
theorem test_integer_results :
    rdG (skein3 (after (.ialu who) (about 3 [word 2 4 5 7 0 3 3 0 0 0]))) 1 4 = 12 ∧
    rdG (skein3 (after (.ishf who) (about 3 [word 3 4 3 4 0 3 3 0 0 0]))) 0 4 = 48 ∧
    rdG (skein3 (after (.imul who) (about 3 [word 4 4 6 7 0 3 3 0 0 0]))) 1 4 = 42 ∧
    rdP (skein3 (after (.icmp who) (about 3 [word 5 1 5 5 0 3 3 0 0 0]))) 1 1 = true ∧
    rdG (skein3 (after (.vote who) (about 3 [word 9 4 0x87 0 0 1 0 0 2 0]))) 0 4 = 3 := by decide +kernel

theorem witness_IntegerFunctionsFollowTheTable : ∀ ty, ty < 4 → 0 < 2 ^ intWidth ty ∧ 2 ^ intWidth ty - 1 < 2 ^ intWidth ty := by decide

/-- The wrap and the saturation of U32 and S32 addition. -/
theorem test_add_at_the_edge : ialuResult 0 0 false 0xFFFFFFFF 1 0 = 0 ∧ ialuResult 0 0 true 0xFFFFFFFF 1 0 = 0xFFFFFFFF ∧
    ialuResult 0 1 true 0x7FFFFFFF 1 0 = 0x7FFFFFFF ∧ ialuResult 1 0 true 0 1 0 = 0 := by decide +kernel

theorem witness_FloatInstructionsWriteTheirResults :
    allIssue [(0x10, word 0x10 4 1 2 0 3 3 0 0 0), (0x11, word 0x11 4 2 3 0 3 3 0 0 0), (0x12, word 0x12 4 2 3 4 3 3 3 0 0),
      (0x12, word 0x12 4 2 3 4 3 3 3 1 0), (0x12, word 0x12 4 2 3 4 3 3 3 2 0), (0x13, word 0x13 4 1 2 0 3 3 0 0 0),
      (0x13, word 0x13 4 1 2 0 3 3 0 1 0), (0x13, word 0x13 4 1 0 0 3 0 0 2 0), (0x14, word 0x14 1 1 2 0 3 3 0 0 0),
      (0x15, word 0x15 4 1 0 0 3 0 0 0 0), (0x16, word 0x16 4 1 0 0 3 0 3 0 0), (0x18, word 0x18 4 1 0 0 3 0 0 0 0)] = true ∧
    issuesB (0x15 * 8) (about 3 [word 0x15 4 1 0 0 3 0 0 0 1]) (fun e => bit (fMod e.ins.w) 0 && ctxCap e.s e.k.ctx 0) = true ∧
    issuesB (0x15 * 8) (modCtx 5 (fun x => { x with caps := 0 }) (about 3 [word 0x15 4 1 0 0 3 0 0 0 1]))
      (fun e => bit (fMod e.ins.w) 0 && !ctxCap e.s e.k.ctx 0 && lanes e == [0, 1]) = true := by decide +kernel

/-- 1 + 2 and 2 × 3 + 4 in FP32. -/
theorem test_float_results :
    rdG (skein3 (after (.fadd who) (about 3 [word 0x10 4 1 2 0 3 3 0 0 0]))) 1 4 = 0x40400000 ∧
    rdG (skein3 (after (.ffma who) (about 3 [word 0x12 4 2 3 4 3 3 3 0 0]))) 1 4 = 0x41200000 := by decide +kernel

theorem witness_MatrixAndCheckInstructionsWriteTheirResults :
    [(0x30 * 8, word 0x30 8 0 4 255 0 0 0 1 1), (0x30 * 8 + 1, word 0x30 8 0 0 0 0 0 0 17 0), (0x30 * 8 + 2, word 0x30 8 1 0 0 3 0 0 32 0),
      (0x30 * 8 + 3, word 0x30 8 1 0 0 3 0 0 48 0), (0x31 * 8, word 0x31 8 0 0 255 0 3 0 0 0)].all (fun x =>
        issuesB x.1 (about 0xFFFFFFFF [x.2]) (fun e => (lanes e).length == 32)) = true ∧
    [(0x35 * 8, word 0x35 4 1 2 0 3 3 0 0 0), (0x35 * 8 + 1, word 0x35 4 1 2 3 3 3 3 1 0)].all (fun x =>
      issuesB x.1 (about 3 [x.2]) (fun _ => true)) = true ∧
    [(0x30 * 8, word 0x30 8 0 4 255 0 0 0 1 1), (0x30 * 8 + 1, word 0x30 8 0 0 0 0 0 0 17 0), (0x30 * 8 + 2, word 0x30 8 1 0 0 3 0 0 32 0),
      (0x30 * 8 + 3, word 0x30 8 1 0 0 3 0 0 48 0), (0x31 * 8, word 0x31 8 0 0 255 0 3 0 0 0)].all (fun x =>
        issuesB x.1 (about 3 [x.2]) (fun e => (lanes e).length != 32 && !maskedZero e.s e.k.ctx)) = true := by
  decide +kernel

/-- The sum of 32 ones is 32. -/
theorem test_skm_sum : rdG (skein3 (after (.skmSum who) (about 0xFFFFFFFF [word 0x30 8 1 0 0 3 0 0 32 0]))) 31 8 = 0x42000000 := by
  decide +kernel

/-- What a memory instruction of a word meets: it may issue, no thread fails, nothing holds its release, and no line is poisoned. -/
def memoryGoes (kind : Kind) (e : Env) : Bool :=
  let ls := (lanes e).map (fun t => (t, locate e kind t))
  memMay kind e && (firstFail ls).isNone && (releaseFail e).isNone &&
    (poisonedThread (touchLines e (ls.map (fun p => p.2)) true (nextLcvId (countIssue e e.s) e.loom e.skein) (countIssue e e.s)).2 ls).isNone

/-- FUNC of a 32-bit access; addresses are immediates, one of each in memory and in scratch. -/
theorem witness_MemoryInstructionsComplete :
    [(0x20, Kind.read, word 0x20 4 64 0 0 3 3 0 32 0), (0x20, .read, word 0x20 4 64 0 0 3 3 0 32 32), (0x21, .write, word 0x21 255 64 0 9 3 3 3 32 0),
      (0x21, .write, word 0x21 255 64 0 9 3 3 3 32 32), (0x22, .atomic, word 0x22 4 64 0 9 3 3 3 0 0), (0x23, .atomic, word 0x23 255 64 0 9 3 3 3 0 0),
      (0x23, .atomic, word 0x23 255 64 0 9 3 3 3 3 0)].all (fun x =>
        issuesB (x.1 * 8) (about 3 [x.2.2]) (memoryGoes x.2.1)) = true ∧
    [(0x24 * 8, word 0x24 0 0 0 0 0 0 0 0 0x1D), (0x24 * 8, word 0x24 0 0 0 0 0 0 0 0 0x18), (0x24 * 8 + 1, word 0x24 0 0 0 0 0 0 0 1 0)].all (fun x =>
      issuesB x.1 (about 3 [x.2]) (fun e => lanes e == [0, 1]) && issuesB x.1 (about 3 [x.2 - 7 * 2 ^ 23]) (fun e => lanes e == [])) = true := by decide +kernel

/-- A release at fabric scope (MOD bits 0 to 3 as FENCE's) of a skein whose thread 1 has a put that failed. -/
def putFailed (w : Nat) : State := onLoom tenant { skeinOf 3 [w] with putFails := [⟨1, zsTimeout⟩] }
theorem witness_MemoryInstructionsComplete_failure :
    [(0x21, Kind.write, word 0x21 255 64 0 9 3 3 3 32 0x15), (0x22, .atomic, word 0x22 4 64 0 9 3 3 3 0 0x15), (0x23, .atomic, word 0x23 255 64 0 9 3 3 3 0 0x15)].all
      (fun x => issuesB (x.1 * 8) (putFailed x.2.2) (fun e => memMay x.2.1 e && (releaseFail e).isSome &&
        (firstFail ((lanes e).map (fun t => (t, locate e x.2.1 t)))).isNone)) = true := by decide +kernel

/-- A misaligned load, an unmapped store and an atomic outside the scratch allocation. -/
theorem witness_FailingAccessFaultsTheSkein :
    [(0x20, Kind.read, word 0x20 4 66 0 0 3 3 0 32 0, [0], (0, zsMisaligned, 0x01)),
      (0x21, .write, word 0x21 255 2 0 9 2 3 3 32 0, [0x40000000], (0, zsPageFault, 0x11)),
      (0x22, .atomic, word 0x22 4 0 0 9 2 3 3 0 32, [1024], (0, zsDenied, 0x32)),
      (0x23, .atomic, word 0x23 255 66 0 9 3 3 3 0 0, [0], (0, zsMisaligned, 0x01))].all (fun x =>
        issuesB (x.1 * 8) (about 3 (x.2.2.1 :: x.2.2.2.1)) (fun e =>
          firstFail ((lanes e).map (fun t => (t, locate e x.2.1 t))) == some x.2.2.2.2)) = true := by decide +kernel

/-- What stands in memory after a store, and what a load's completion writes. -/
theorem test_store_and_load :
    memNat (after (.st who) (about 3 [word 0x21 255 64 0 9 3 3 3 32 0])) 0x40000040 4 = 9 ∧
    (after (.st who) (about 3 [word 0x21 255 64 0 9 3 3 3 32 0])).mem.wf = true ∧
    memNat (after (.st who) (about 1 [word 0x21 255 64 0 0xF7 3 3 3 32 32])) 0x40000040 4 = 0 ∧
    ((skein3 (after (.ld who) { about 3 [word 0x20 4 64 0 0 3 3 0 32 0] with mem := memPut mapped.mem 0x40000040 (toBytes 4 77) })).lcvs.flatMap
      (fun l => l.writes.map (fun x => (x.thread, x.reg, x.val.toNat)))) = [(0, 4, 77), (1, 4, 77)] := by decide +kernel

theorem witness_ControlInstructionsComplete :
    [(0x28, word 0x28 0 0 0 0 0 0 0 0 3), (0x2A, word 0x2A 4 0 0 0 0 0 0 0 3), (0x29, word 0x29 0 64 0 0 3 0 0 0 0), (0x2B, word 0x2B 0 64 0 0 3 0 0 0 0),
      (0x2C, word 0x2C 0 0 0 0 1 0 0 0 0), (0x2D, word 0x2D 0 0 0 0 0 0 0 0 0), (0x2E, word 0x2E 0 0 0 0 0 0 0 0 0)].all (fun x =>
        issuesB (x.1 * 8) (about 3 [x.2]) (fun e => (lanes e).all (fun t => src e 0 2 t % 8 == 0))) = true := by decide +kernel

theorem witness_BranchesSplitTheGroup : let e : Env := ⟨tenant, 0, 3, skeinOf 7 [], 7, ⟨0, 0, 0⟩⟩
    e.mask < 2 ^ 32 ∧ ([(0, 64), (2, 128)].map (fun p : Nat × Nat => p.1)).Nodup ∧ ∀ p ∈ [((0 : Nat), (64 : Nat)), (2, 128)], bit e.mask p.1 = true := by
  decide

/-- BRA with offset 3 goes to the next word's address plus 24; a NOP goes on at 8. -/
theorem test_branch_target : (skein3 (after (.bra who) (about 3 [word 0x28 0 0 0 0 0 0 0 0 3]))).groups = [⟨3, 32, .none⟩] ∧
    (skein3 (after (.nop who) (about 3 [word 1 0 0 0 0 0 0 0 0 0]))).groups = [⟨3, 8, .none⟩] := by decide +kernel

/-- BAR.INIT of barrier 2 with count 3 and the pair u4, u5. -/
def barWord : Nat := word 0x2F 0 2 3 4 3 3 1 0 0

/-- A loom on which another skein waits at barrier 2. -/
def barBusy (s : State) : State :=
  modLoom 0 (fun l => { l with barriers := [(2, ⟨2, 2, 1, 0, [128]⟩)], skeins := l.skeins ++ [(4, { skeinOf 0 [] with groups := [⟨1, 8, .bar 2 0⟩] })] }) s

theorem witness_BarrierInstructionsComplete :
    issuesB (0x2F * 8) (about 3 [barWord]) (fun e => barNumber e == some 2 && decide (src e 1 1 (lowThread e) ≤ 2048) && !barWaiting (countIssue e e.s) 0 2)
      = true ∧
    issuesB (0x2F * 8) (barBusy (about 3 [barWord])) (fun e => barNumber e == some 2 && decide (src e 1 1 (lowThread e) ≤ 2048) && barWaiting (countIssue e e.s) 0 2)
      = true ∧
    issuesB (0x2F * 8 + 1) (about 3 [word 0x2F 0 2 0 0 3 0 0 1 0]) (fun e => barNumber e == some 2) = true ∧
    issuesB (0x2F * 8 + 2) (about 3 [word 0x2F 0 15 0 0 3 0 0 2 0]) (fun e => barNumber e == some 15) = true ∧
    tget? (loomOf (barBusy (about 3 [])) 0).barriers 2 = some ⟨2, 2, 1, 0, [128]⟩ ∧ (1 : Nat) ≠ 2 := by decide +kernel

/-- The last arrival releases who waits. -/
theorem test_barrier_release :
    ((loomOf (after (.barSync who) (barBusy (about 1 [word 0x2F 0 2 0 0 3 0 0 1 0]))) 0).skeins.flatMap (fun x => x.2.groups.map (fun g => g.wait)))
      = [.none, .none] := by decide +kernel

/-- A tenant with a COMPUTE queue in slot 1, a MSG queue with one message in slot 2 and an empty one in slot 3, an endpoint, a link window
and a stream. -/
def handleOf (typ home slot : Nat) : Word := mkHandle up typ home slot 0
def owned (l : List (Nat × Nat × Nat)) (s : State) : State :=
  { s with slots := l.foldl (fun t x => tset t (slotKey x.1 x.2.1 x.2.2) ⟨0, hCtx, true, false, []⟩) s.slots }
def queueAt (slot : Nat) (typ : QType) (prod cons : Nat) : Nat × Queue :=
  (slot, ⟨handleOf 2 0 slot, 5, 0, typ, 16, 0x100000 + slot * 0x10000, slot, 0, 0, .none, prod, cons, 0, 0, none, []⟩)
def rich : State :=
  { owned [(2, 0, 1), (2, 0, 2), (2, 0, 3), (4, 0, 1), (7, 15, 1), (9, 0, 1)] tenant with
    queues := [queueAt 1 .compute 1 0, queueAt 2 .msg 1 0, queueAt 3 .msg 0 0],
    endpoints := [(1, ⟨handleOf 9 0 1, 5, 0, handleOf 2 0 3, 0, 4, none⟩)],
    streams := [(1, ⟨handleOf 7 15 1, 5, 0x1234, 0, 0, 0, 10, 0⟩)] }
/-- Words that name a handle in the literal. -/
def naming (w : Nat) (h : Word) : State := onLoom rich (skeinOf 3 [w, h.toNat])

theorem witness_TileInstructionsComplete :
    issuesB (0x32 * 8) (about 3 [word 0x32 4 64 0 0 3 0 0 0 0]) (fun e => (scratch64 e (src e 0 1 (lowThread e))).isOk) = true ∧
    [0x32 * 8 + 1, 0x32 * 8 + 2].all (fun row =>
      issuesB row (modLoom 0 (fun l => { l with west := { l.west with subs := [⟨1, 5, [], 7, 3, 0⟩] } })
          (modCtx 5 (fun x => { x with ticket := 1 }) (about 3 [word 0x32 4 1 0 0 3 0 0 (row % 8) 0])))
        (fun e => src e 0 2 (lowThread e) == 1 && tilePending (countIssue e e.s) 0 (envEast e) 5 1) &&
      issuesB row (modCtx 5 (fun x => { x with ticket := 1 }) (about 3 [word 0x32 4 1 0 0 3 0 0 (row % 8) 0]))
        (fun e => src e 0 2 (lowThread e) == 1 && !tilePending (countIssue e e.s) 0 (envEast e) 5 1) &&
      issuesB row (about 3 [word 0x32 4 1 0 0 3 0 0 (row % 8) 0]) (fun e => src e 0 2 (lowThread e) == 1)) = true := by decide +kernel

/-- The ticket of a TILE.SUB is the context's next, and the half holds the descriptor. -/
theorem test_tile_sub : let t := after (.tileSub who) (about 3 [word 0x32 4 64 0 0 3 0 0 0 0])
    ((ctxAt t 5).elim 0 (fun x => x.ticket)) = 1 ∧ (halfOf t 0 false).subs.map (fun x => (x.ticket, x.desc.length)) = [(1, 64)] := by decide +kernel

/-- What a queue instruction meets: the status of its handle, its scratch in place, and the queue's occupancy. -/
def queueMeets (allowed : QType → Bool) (status occ : Nat) (e : Env) : Bool :=
  let h : Word := BitVec.ofNat 64 (src e 1 2 (lowThread e))
  (queHandle e h allowed (countIssue e e.s)).1 == status && (scratch64 e (src e 0 1 (lowThread e))).isOk &&
    (queueOf e.s h).any (fun q => occupancy q == occ)

theorem witness_QueueInstructionsComplete :
    issuesB (0x33 * 8) (naming (word 0x33 4 64 2 0 3 2 0 0 0) (handleOf 2 0 1)) (fun e => queueMeets (fun t => t != .msg) zsOk 1 e &&
      (vWrite 0 5 0x110040 (clean (zeros 64)) e.s).1.isNone) = true ∧
    issuesB (0x33 * 8) (modQueue (handleOf 2 0 1) (fun q => { q with prod := 16 }) (naming (word 0x33 4 64 2 0 3 2 0 0 0) (handleOf 2 0 1)))
      (queueMeets (fun t => t != .msg) zsOk 16) = true ∧
    [0x33 * 8 + 1, 0x33 * 8 + 2].all (fun row =>
      issuesB row (naming (word 0x33 4 64 2 0 3 2 0 (row % 8) 0) (handleOf 2 0 2)) (fun e => queueMeets (fun t => t == .msg) zsOk 1 e &&
        (popInto 0 5 (handleOf 2 0 2) 64 (countIssue e e.s)).1.isOk) &&
      issuesB row (naming (word 0x33 4 64 2 0 3 2 0 (row % 8) 0) (handleOf 2 0 3)) (queueMeets (fun t => t == .msg) zsOk 0) &&
      issuesB row (naming (word 0x33 4 64 2 0 3 2 0 (row % 8) 0) (handleOf 2 0 1)) (queueMeets (fun t => t == .msg) zsDenied 1)) = true ∧
    issuesB (0x33 * 8) (naming (word 0x33 4 64 2 0 3 2 0 0 0) (handleOf 2 0 2)) (queueMeets (fun t => t != .msg) zsDenied 1) = true ∧
    [handleOf 2 0 1, handleOf 4 0 2, handleOf 9 0 2].all (fun h => issuesB (0x33 * 8 + 3) (naming (word 0x33 4 64 2 4 3 2 3 3 0) h) (fun e =>
      if hType h == 4 then (presentHandle (rvlPage 0) 5 h 4 (countIssue e e.s)).1 != zsOk else (presentHandle (ctxPage 0) 5 h 9 (countIssue e e.s)).1 != zsOk)) = true ∧
    issuesB (0x33 * 8 + 3) { naming (word 0x33 4 64 2 4 3 2 3 3 0) (handleOf 9 0 1) with endpoints := [(1, ⟨handleOf 9 0 1, 5, 0, 0, 0, 4, none⟩)] } (fun e =>
      (presentHandle (ctxPage 0) 5 (handleOf 9 0 1) 9 (countIssue e e.s)).1 == zsOk && (endpointOf e.s (handleOf 9 0 1)).all (fun p => p.queue == 0)) = true ∧
    issuesB (0x33 * 8 + 3) (naming (word 0x33 4 64 2 4 3 2 3 3 0) (handleOf 9 0 1)) (fun e => let h := handleOf 9 0 1
      BitVec.ofNat 64 (src e 1 2 0) == h && (presentHandle (ctxPage 0) 5 h 9 (countIssue e e.s)).1 == zsOk && (endpointOf e.s h).any (fun p => p.queue != 0) &&
        (scratch64 e 64).isOk) = true ∧
    issuesB (0x33 * 8 + 3) (naming (word 0x33 4 64 2 4 3 2 3 3 0) (handleOf 4 0 1)) (fun e => let h := handleOf 4 0 1
      BitVec.ofNat 64 (src e 1 2 0) == h && hType h == 4 && (presentHandle (rvlPage 0) 5 h 4 (countIssue e e.s)).1 == zsOk) = true := by decide +kernel

/-- A message reaches the endpoint's queue: kind 0x03, the role epoch, the issuer's slot (R284). -/
theorem test_message_entry : let t := after (.queSend who) (naming (word 0x33 4 64 2 4 3 2 3 3 0) (handleOf 9 0 1))
    memNat t 0x40130000 8 = 0x0005000000040003 ∧ (queueOf t (handleOf 2 0 3)).map occupancy = some 1 := by decide +kernel

theorem witness_DrawAndVerifyInstructionsComplete :
    [(0x34 * 8, word 0x34 4 2 5 0 2 3 0 0 0), (0x34 * 8 + 1, word 0x34 0 2 5 0 2 3 0 1 0), (0x34 * 8 + 2, word 0x34 4 2 0 0 2 0 0 2 0)].all (fun x =>
      issuesB x.1 (naming x.2 (handleOf 7 15 1)) (fun e => (presentHandle (rngPage 0) 5 (BitVec.ofNat 64 (src e 0 2 0)) 7 (countIssue e e.s)).1 == zsOk &&
        (streamAt e.s (handleOf 7 15 1)).any (fun r => (lanes e).all (fun t => decide (r.base + src e 1 1 t ≤ 0xFFFFFFFF))))) = true ∧
    issuesB (0x34 * 8 + 1) (naming (word 0x34 0 2 0xFF 0 2 3 0 1 0) (handleOf 7 15 1)) (fun e =>
      (streamAt e.s (handleOf 7 15 1)).any (fun r => decide (0xFFFFFFFF < r.base + src e 1 1 0))) = true ∧
    [([] : List Nat), [0x4000]].all (fun l => issuesB (0x35 * 8 + 2) { about 3 [word 0x35 4 64 0 0 3 0 0 2 0] with checked := l } (fun e =>
      translate e.s 5 (src e 0 2 0) .read == .ok 0x40000040 0 false && resolve e.s 0x40000040 == .dram 0x40000040 &&
        isChecked e.s 0x40000040 == !l.isEmpty)) = true ∧
    (match fetchFor who (about 3 [0]) with | .ready e => rowOf e.ins.w == 0 | _ => false) = true := by decide +kernel
/-! ## Loom and array events -/

/-- An outstanding instruction of the skein with number 0. -/
def waiting (wait : LcvWait) : Skein := { skeinOf 3 [] with lcvs := [⟨0, 0, 3, [4], wait, 0, []⟩], nextLcv := 1 }
/-- The skein's threads wait at barrier 2, or another has reached the JOIN. -/
def stalled : State := modLoom 0 (fun l => { l with barriers := [(2, ⟨4, 4, 2, 8, []⟩)] }) (onLoom tenant { skeinOf 0 [] with groups := [⟨3, 8, .bar 2 0⟩] })
def joining : State := onLoom tenant { skeinOf 0 [] with groups := [⟨1, 8, .join 0 3 true⟩, ⟨2, 16, .yield⟩] }

theorem witness_LoomEventsComplete :
    [LcvWait.ready, .fence 3, .tile 1, .queue (handleOf 2 0 2) 64].all (fun x =>
      (tget? (loomOf (onLoom rich (waiting x)) 0).skeins 3).any (fun k => (k.lcvs.find? (fun l => l.id == 0)).any (fun l => l.wait == x) &&
        !k.fabricOut.any (fun t => bit 3 t) && (putFailure k 3).isNone && !tilePending (onLoom rich k) 0 (onEast (onLoom rich k) 0 3) k.ctx 1 &&
        (queueOf (onLoom rich k) (handleOf 2 0 2)).any (fun q => occupancy q != 0) &&
        (popInto 0 k.ctx (handleOf 2 0 2) 64 (onLoom rich k)).1.isOk)) = true ∧
    ((tget? (loomOf joining 0).skeins 3).any (fun k => k.groups.any (fun g => match g.wait with | .join a _ other => a == 0 && other | _ => false))) = true ∧
    ((tget? (loomOf (onLoom rich { waiting (.fence 3) with putFails := [⟨1, zsTimeout⟩] }) 0).skeins 3).any (fun k => (putFailure k 3).isSome)) = true ∧
    (popInto 0 5 (handleOf 2 0 2) 64 (modQueue (handleOf 2 0 2) (fun q => { q with ring := 0x40000000 }) rich)).1.isOk = false ∧
    barrierStall stalled 0 false = true ∧ ((domainSkeins stalled 0 false).filter (fun x => !x.2.groups.isEmpty)).length = 1 := by decide +kernel

/-- A JOIN that has waited releases who waits there alone; the yielding group is ready again; a stall halts the skein and names barrier 2. -/
theorem test_loom_events :
    (skein3 (after (.joinRelease 0 3 0) joining)).groups = [⟨2, 16, .yield⟩, ⟨1, 8, .none⟩] ∧
    (skein3 (after (.yieldExpiry 0 3 1) joining)).groups = [⟨1, 8, .join 0 3 true⟩, ⟨2, 16, .none⟩] ∧
    reg (after (.barrierStall 0 false) stalled) (loomPage 0 + Reg.LOOM_BAR_FAULT) = 0x12 := by decide +kernel

/-- Loom 0 quiesced and split. -/
def split0 : State := setReg (loomPage 0 + Reg.LOOM_CFG) 1 (setReg (loomPage 0 + hdrCtrl) 2 tenant)

theorem witness_PreemptionAndSplitComplete :
    loomSplit split0 0 = true ∧ loomSplit tenant 0 = false ∧ (loomOf (after (.requestWest 0) tenant) 0).preemptWest = .stopping ∧
    drained (after (.requestWest 0) tenant) 0 false = true ∧ (loomOf (after (.requestEast 0) split0) 0).preemptEast = .stopping ∧
    drained (after (.requestEast 0) split0) 0 true = true ∧ pageLocked split0 (loomPage 0) = false ∧ maySplit split0 0 = true ∧
    pageLocked tenant (loomPage 0) = false ∧ maySplit tenant 0 = false := by decide +kernel

/-- An MMA of one BF16 row by one column, K of 2 (R171); the bits of FLAGS are given. -/
def mma (flags : Nat) : List Byte :=
  toBytes 1 1 ++ toBytes 1 0x11 ++ zeros 2 ++ toBytes 2 flags ++ zeros 2 ++ toBytes 2 2 ++ zeros 6 ++ toBytes 8 0x1000 ++ toBytes 4 32 ++ zeros 4 ++
    toBytes 8 0x2000 ++ toBytes 4 32 ++ zeros 20
/-- A slot store or load of one FP32 element. -/
def move (op : Nat) : List Byte := toBytes 1 op ++ zeros 15 ++ toBytes 8 0x1000 ++ toBytes 4 64 ++ zeros 36
/-- Loom 0 in service, its queue enabled, with a lease of four slots, and the ops given in its whole array. -/
def array (subs : List TileSub) (ops : List TileOp) (batch : Option TokenBatch) : State :=
  modLoom 0 (fun l => { l with leaseWest := some ⟨5, 4, 0, 0⟩, west := { l.west with subs := subs, ops := ops, batch := batch } })
    (setReg (twlPage 0 0 + Reg.TWL_CFG) 0x10008 (setReg (twlPage 0 1 + Reg.TWL_REPAIR_STAT) 0x100 (setReg (twlPage 0 0 + hdrCtrl) 1 rich)))
def reqOf (d : List Byte) : TileReq := ⟨1, d, 7, [], []⟩
def opOf (d : List Byte) (batch : Bool) (st : TileStage) : TileOp := ⟨5, batch, [reqOf d], st⟩
def subOf (d : List Byte) : TileSub := ⟨1, 5, d, 7, 3, 0⟩
/-- One element. -/
def oneElem : Elem := ⟨.fin false 1 0, false, 0x3F80, 0⟩

theorem witness_ArrayQueueRunsItsOps :
    [(mma 0, none, false), (mma 0x20, none, true), (zeros 64, some (zsBadDescriptor, 0x01), false)].all (fun x =>
      let s := array [subOf x.1] [] none
      let h := halfOf s 0 false
      (h.subs[0]?).isSome && ((acceptChecks s 0 false 5 x.1).or (completionCheck s 5 x.1)) == x.2.1 && isRequest s 0 (keptDesc s 5 x.1) == x.2.2 &&
        ctxMayStart s 5 && topsRoom s 5 0 && inService s 0 && pageEnabled s (twlPage 0 0) && decide (queueUsed h < queueSize s 0) &&
        decide (stagingUsed h < 2) && txFits s 5 0 1) = true ∧
    (halfOf (array [] [] (some ⟨5, [reqOf (mma 0x20)]⟩)) 0 false).batch.isSome = true ∧
    (let s := array [] [opOf (mma 0) false .queued] none
     let h := halfOf s 0 false
     (nextPass h).any (fun x => x.2.stage == .queued && !keepsB h x.2 && txFits s 5 0 1 && (fetchB (tileReader 0 5) (opDesc x.2) ([], s)).1.isOk)) = true ∧
    [false, true].all (fun b =>
      let s := array [] [opOf (mma 0) b (.loaded [[oneElem, oneElem]] [])] none
      let h := halfOf s 0 false
      (nextPass h).any (fun x => x.2.stage == .loaded [[oneElem, oneElem]] [] && slotsFree h x.1 x.2 && x.2.batch == b &&
        (opRows 0 x.2 s).1.isOk)) = true ∧
    (let d := mma 0x100
     let s := modHalf 0 false (fun h => { h with weights := some ⟨5, dFmtB d, dModeB d, dBAddr d, dBStride d, dBScale d, dK d, dN d, dTransB d, [[oneElem, oneElem]]⟩ })
       (array [] [opOf d false .queued] none)
     (nextPass (halfOf s 0 false)).any (fun x => keepsB (halfOf s 0 false) x.2 && slotsFree (halfOf s 0 false) x.1 x.2)) = true ∧
    (let d := toBytes 1 1 ++ toBytes 1 0x11 ++ zeros 6 ++ toBytes 2 2 ++ zeros 6 ++ toBytes 8 0x1000 ++ toBytes 4 32 ++ zeros 4 ++ toBytes 8 0x60000000 ++ toBytes 4 32 ++ zeros 20
     let s := array [] [opOf d false .queued] none
     match (fetchB (tileReader 0 5) (opDesc (opOf d false .queued)) ([], s)).1 with | .error e => e.1 != zsPoison | .ok _ => false) = true ∧
    [TileStage.running [[(.fin false 1 0, false)]], .refused zsBadDescriptor 1, .done zsOk 0 9].all (fun st =>
      ((halfOf (array [] [opOf (mma 0) false st] none) 0 false).ops.head?).any (fun o => o.stage == st)) = true := by decide +kernel

/-- 1 × 2 + 3 × 4 accumulates to 14 in slot 0, and the pass is counted. -/
theorem test_pass_adds_to_its_slot :
    let s := { modLoom 0 (fun l => { l with skeins := [(3, skeinOf 3 [])] }) (array [] [opOf (mma 0) false .queued] none) with
      mem := memPut (memPut mapped.mem 0x40001000 (toBytes 2 0x3F80 ++ toBytes 2 0x4040)) 0x40002000 (toBytes 2 0x4000 ++ toBytes 2 0x4080) }
    let t := after (.tileOpComplete 0 false) (after (.passStart 0 false) (after (.preloadBegin 0 false) s))
    slotElem (slotAt t 0 0) 0 0 = 0x41600000 ∧ (halfOf t 0 false).ops = [] ∧ reg t (twlPage 0 0 + Reg.TWL_PASSES) = 1 := by decide +kernel

/-- A completion entry that waits for room in the MSG queue of slot 3. -/
def delayed3 : State := { rich with delayed := [⟨handleOf 2 0 3, zeros 64⟩] }

theorem witness_StorePortAndFreezeComplete :
    [2, 3].all (fun op =>
      let h := halfOf (array [] [opOf (move op) false .queued] none) 0 false
      (portOp h).any (fun x => dOp (opDesc x.2) == op && x.2.stage == .queued) && txFits (array [] [] none) 5 0 1) = true ∧
    (portOp (halfOf (array [] [opOf (move 2) false (.handing [] [] 4)] none) 0 false)).any (fun x => x.2.stage == .handing [] [] 4) = true ∧
    (delayed3.delayed.find? (fun d => hasRoom delayed3 d.queue || (queueOf delayed3 d.queue).isNone)).isSome = true ∧
    (msgWrite (handleOf 2 0 3) (zeros 64) { delayed3 with delayed := [] }).1 = zsOk ∧
    [none, some 0].all (fun late =>
      let h := halfOf (array [] [opOf (mma 0) false (.running [[(.fin false 1 0, false)]])] none) 0 false
      freezeOp h late == some 0) = true := by decide +kernel

/-- A slot store leaves the slot's FP32 bits in memory. -/
theorem test_slot_store :
    let s := putSlot 0 0 ⟨0, [(0, 0x40490FDB)], [], false⟩ (array [] [opOf (move 2) false .queued] none)
    memNat (after (.slotStoreStart 0 false) s) 0x40001000 4 = 0x40490FDB := by decide +kernel

theorem witness_ArrayRepairAndPortComplete :
    (let s := setReg (twlPage 0 0 + hdrCtrl) 2 up
     bit (reg s (twlPage 0 0 + hdrCtrl)) 1 = true ∧ arrayIdle (loomOf s 0) = true ∧ (loomOf s 0).port = none) ∧
    arrayIdle (loomOf up 0) = true ∧ (loomOf up 0).skeins = [] ∧ bit (reg up (twlPage 0 1 + Reg.TWL_REPAIR_STAT)) 4 = false ∧
    reg up (twlPage 0 1 + Reg.TWL_CMP_DESC) % 64 = 0 ∧ portRange up (reg up (twlPage 0 1 + Reg.TWL_CMP_DESC)) 64 = true ∧
    (let d := toBytes 1 0x7F ++ toBytes 1 0x11 ++ zeros 6 ++ toBytes 2 2 ++ zeros 6 ++ toBytes 8 0x1000 ++ toBytes 4 32 ++ zeros 4 ++ toBytes 8 0x2000 ++
       toBytes 4 32 ++ zeros 4 ++ toBytes 8 0x3000 ++ toBytes 4 64 ++ zeros 4
     let s := modLoom 0 (fun l => { l with port := some ⟨some d⟩ }) up
     (loomOf s 0).port = some ⟨some d⟩ ∧ (portRun 0 d s).1 = zsOk) := by decide +kernel

/-! ## The Weave cache and DRAM -/

/-- A line of die 0 in a state, with the fields of a reduction line that has been told or acknowledged. -/
def lineIn (la : Nat) (st : LineState) (registered acked : Bool) : State :=
  modSet 0 la (fun t => { t with ways := [⟨0, la, st, 0, none, none, 0, 0, 0, 0, 0, registered, acked, []⟩] }) up
/-- A miss register of line 5 on die 1. -/
def missing : State := modWeave 1 (fun w => { w with miss := [(laSlice 5, [⟨5, 0, false, none, true, [.lcv 0 3 0]⟩])] }) (lineIn 5 .m false false)

theorem witness_FillsAreDelivered :
    ((tgetD (weaveOf missing 1).miss (laSlice 5) []).find? (fun m => m.la == 5)).isSome = true ∧
    (chooseWay (dirM 1 5 (modWeave 1 (fun x => { x with miss := tupd x.miss (laSlice 5) (fun l => l.filter (fun m => m.la != 5)) }) missing)) 1 5 0 false
      false).isSome = true := by decide +kernel

/-- The holder of M loses the line, and the requester gets it. -/
theorem test_fill_for_m : lineState (after (.fillDelivery 1 5) missing) 1 5 = .m ∧ lineState (after (.fillDelivery 1 5) missing) 0 5 = .i := by
  decide +kernel

theorem witness_DirectoryKeepsOneWriter : (∀ d, d < 8 → isReduction (lineState missing d 5) = false) ∧ dieLive missing 0 = true ∧ missing.mem.wf = true ∧
    isChecked missing (5 * 128) = false := by decide +kernel

theorem witness_ReductionLinesComplete :
    [(false, false), (true, false), (true, true)].all (fun x => (lineAt (lineIn 5 .rd x.1 x.2) 0 5).any (fun l =>
      isReduction l.state && l.registered == x.1 && l.acked == x.2)) = true ∧ (lineIn 5 .rd true true).mem.wf = true ∧
    isChecked (lineIn 5 .rd true true) (5 * 128) = false := by decide +kernel

/-- Two reductions of 3 and 4 onto 10 give 17. -/
theorem test_reductions_merge :
    let s := modLine 0 5 (fun l => redApply 4 4 false (redApply 4 3 false l)) { lineIn 5 .rd true true with mem := memPut [] (5 * 128 + 4) (toBytes 4 10) }
    memNat (after (.mergeWriteback 0 5) s) (5 * 128 + 4) 4 = 17 := by decide +kernel

/-- A DMA queue of slot 4 on channel 1 whose head entry is given; the context may pin. -/
def dmaWorld (entry : List Byte) : State :=
  let s := owned [(2, 0, 4), (3, 0, 1), (6, 0, 1)] rich
  { setReg (cnvPage 0 + hdrCtrl) 1 (setReg (dmaPage 0 0 + hdrCtrl) 1 s) with
    mem := memPut s.mem 0x40140000 entry,
    queues := s.queues ++ [(4, { (queueAt 4 .dma 1 0).2 with channel := handleOf 3 0 1 })],
    channels := [(channelKey 0 1, ⟨handleOf 3 0 1, 5, 0, 0, false⟩)],
    conv := [(convKey (handleOf 6 0 1), ⟨handleOf 6 0 1, 5, 0x00000011, [], 0, 0, 0, 0⟩)] }

/-- DMA_TAKES holds: the job that the channel takes, and a condition on it and the state in which it runs. -/
def dmaTakesB (s : State) (p : DmaJob → State → Bool) : Bool :=
  match tget? s.channels (channelKey 0 1) with
  | none => false
  | some ch =>
    match nextQueue s 0 ch, freeEngine s 0 with
    | some q, some e =>
      match vRead (engAt 0 (e + 1)) ch.ctx (entryVa q q.cons) 64 s with
      | (.ok b, s') => !ch.running && ctxMayStart s ch.ctx && topsRoom s ch.ctx 0 && txFits s ch.ctx 0 1 &&
          p ⟨0, channelKey 0 1, ch.ctx, q.handle, q.cplQ, q.cons, e, bare b, headStep q⟩ (dmaTake 0 1 ch q e s')
      | _ => false
    | _, _ => false

theorem takes_of_dmaTakesB {s : State} {p : DmaJob → State → Bool} (h : dmaTakesB s p = true) :
    ∃ j t, DmaTakes 0 1 s j t ∧ p j t = true := by
  unfold dmaTakesB at h
  split at h
  · cases h
  · rename_i ch hc
    split at h
    · rename_i q e hq he
      split at h
      · rename_i b s' hv
        simp only [Bool.and_eq_true, Bool.not_eq_true'] at h
        exact ⟨_, _, ⟨ch, q, e, b, s', hc, hq, he, h.1.1.1.1, h.1.1.1.2, h.1.1.2, h.1.2, hv, rfl, rfl⟩, h.2⟩
      · cases h
    · cases h

/-- PIN or UNPIN of two lines. -/
def pinEntry (op : Nat) : List Byte := toBytes 1 op ++ zeros 7 ++ toBytes 8 0x1000 ++ toBytes 8 256 ++ zeros 40

theorem witness_PinsAndMemoryConfiguration :
    dmaTakesB (dmaWorld (pinEntry 0x30)) (fun j t => !pinMalformed j.entry && bytesAt j.entry 0 1 == 0x30 && ctxCap t j.ctx 1 &&
      (pinWalk 0 5 (pinLine 0 5) 2 0x1000 [0, 0, 0, 0] t).1.isNone) = true ∧
    dmaTakesB (dmaWorld (pinEntry 0x31)) (fun j t => !pinMalformed j.entry && bytesAt j.entry 0 1 == 0x31 &&
      (pinWalk 0 5 (unpinLine 0 5) 2 0x1000 [0, 0] t).1.isNone) = true ∧
    bits 12 3 0 ≤ 12 ∧ minWaysSum (weaveOf up 0) ≤ 16 - bits 12 3 0 ∧ 12 < bits 13 3 0 ∧
    [(0x18, true), (0x0, true)].all (fun x =>
      let w := weaveOf up 0
      decide (minWaysSum { w with partCfg := tset w.partCfg (bits (reg up (wvcPage 0 0 1 + Reg.WVC_PART_SEL)) 5 0) (bits x.1 4 0) } ≤ 16 - pinCap up 0) == x.2) = true ∧
    (let s := setReg (wvcPage 0 0 1 + Reg.WVC_DIE_CFG) 12 up
     let w := weaveOf s 0
     16 - pinCap s 0 < minWaysSum { w with partCfg := tset w.partCfg (bits (reg s (wvcPage 0 0 1 + Reg.WVC_PART_SEL)) 5 0) (bits 0x1F 4 0) }) ∧
    survivorOk up 0 0 0x200000 1 = true ∧ survivorOk up 0 0 0x1000 1 = false := by decide +kernel

/-- DRAM commands: a live die, a pseudo-channel at its limit, a rebuild that runs and one that is done, a patrol that runs. -/
theorem witness_DramCommandsComplete :
    dieLive up 1 = true ∧ dieDram / 128 - 1 < dieDram / 128 ∧ selfRefresh up = false ∧
    pcReached (modStack 0 0 (fun x => { x with uncorr := [(7, List.replicate 16 0)] }) up) 0 0 7 = true ∧
    rebuildOf (setReg (memcPage 0 0 + Reg.MEMC_REBUILD) (7 + 64) up) 0 0 = some (7, 0) ∧ 0 < 2 ^ 25 ∧
    rebuildOf (setReg (memcPage 0 0 + Reg.MEMC_REBUILD_PTR) (2 ^ 25) (setReg (memcPage 0 0 + Reg.MEMC_REBUILD) (7 + 64) up)) 0 0 = some (7, 2 ^ 25) ∧
    bit (reg (setReg (memcDiePage 0 + Reg.MEMC_PATROL) (2 ^ 31 + 24) up) (memcDiePage 0 + Reg.MEMC_PATROL)) 31 = true ∧
    0 + 128 < dieDram ∧ dieDram ≤ (dieDram - 128) + 128 ∧ (1 ≤ bits 24 4 0 ∧ bits 24 4 0 ≤ 24) ∧ 24 < bits 25 4 0 ∧ bits 0 4 0 = 0 := by decide +kernel
/-! ## Queues, scheduling, engines -/

/-- A DISPATCH entry of one skein of 16 granules on any loom, with a KiB granule of scratch and PC 0. -/
def dispatchEntry : List Byte := toBytes 1 1 ++ toBytes 1 0 ++ toBytes 1 1 ++ toBytes 1 16 ++ toBytes 2 1 ++ toBytes 1 2 ++ toBytes 1 0xFF ++ zeros 56
/-- The scheduler of die 0 at work, with that entry in memory or at the head of the COMPUTE queue. -/
def schedWorld (head : Option (List Byte)) : State :=
  modQueue (handleOf 2 0 1) (fun q => { q with head := head })
    (setReg (loomPage 0 + hdrCtrl) 1 (setReg (schPage 0 + hdrCtrl) 1 { array [] [] none with mem := memPut mapped.mem 0x40110000 dispatchEntry }))
/-- Two contexts compete for the one open loom: context 6 holds it with the greater virtual time. -/
def contested : State :=
  let s := schedWorld (some dispatchEntry)
  modLoom 0 (fun l => { l with leaseWest := some ⟨6, 4, 1, 0⟩ })
    { s with ctxs := (tset s.ctxs 6 { ctx5 with handle := mkHandle up 1 15 6 0, dies := [(0, { CtxDie.zero with vtime := 9 })] }) }

theorem witness_SchedulingCommandsComplete :
    (dbQueue rich 5 1).any (fun q => q.typ != .msg && decide ((3 + 2 ^ 32 - q.prod) % 2 ^ 32 ≤ q.depth - occupancy q)) = true ∧
    (dbQueue rich 5 2).any (fun q => q.typ == .msg && decide ((1 + 2 ^ 32 - q.cons) % 2 ^ 32 ≤ occupancy q)) = true ∧
    (ctxAt rich 5).any (fun x => x.state != .active) = false ∧
    (tget? (schedWorld none).queues 1).any (fun q => q.typ == .compute && q.head.isNone && occupancy q != 0 && ctxMayStart (schedWorld none) q.ctx &&
      (match vRead 0 q.ctx (entryVa q q.cons) 64 (schedWorld none) with
        | (.ok b, s1) => (dispatchBad s1 0 q.ctx (bare b)).isNone
        | _ => false)) = true ∧
    pageEnabled (schedWorld none) (schPage 0) = true ∧
    (tget? { rich with dispatches := [(3, ⟨3, 5, handleOf 2 0 1, 0, 0, 0, false, true, 1, 16, 0, 0, 0, 2, 1⟩)] }.dispatches 3).any (fun d => d.left == 0) = true ∧
    dieLive (schedWorld none) 0 = true ∧ (byV (advanceV 0 (setReg (schPage 0 + hdrCtrl) 1 up)) 0).head? = none ∧
    (let s1 := advanceV 0 contested
     (byV s1 0).head? = some 5 ∧ ((jobsOf s1 0 5).head?).any (fun j => (placeOf s1 5 j (List.range 32)).isNone && (bestVictim (victims s1 0 5 j)).isSome) = true) ∧
    (ctxAt (modCtx 5 (fun x => { x with invalid := 64 }) tenant) 5).any (fun x => decide (64 ≤ x.invalid) && !x.held) = true := by decide +kernel

/-- A DISPATCH entry that asks for no skein; a ring position that is not mapped; a doorbell beyond the ring's room, and one of a context in teardown. -/
theorem witness_SchedulingCommandsComplete_failures :
    (let s := { schedWorld none with mem := memPut mapped.mem 0x40110000 (toBytes 8 1 ++ zeros 56) }
     (match (vRead 0 5 0x110000 64 s).1 with | .ok b => (dispatchBad s 0 5 (bare b)).isSome | .error _ => false)) = true ∧
    (vRead 0 5 0x60000000 64 (schedWorld none)).1.isOk = false ∧
    (dbQueue rich 5 1).any (fun q => decide (q.depth - occupancy q < (40 + 2 ^ 32 - q.prod) % 2 ^ 32)) = true ∧
    (let s := modCtx 5 (fun x => { x with state := .draining }) rich
     (dbQueue s 5 1).isSome = true ∧ (ctxAt s 5).any (fun x => x.state != .active) = true) ∧
    (quantumVictim (advanceV 0 contested) 0 5).isSome = true := by decide +kernel

/-- A round places the dispatch: one skein of 32 threads at PC 0, and the producer index that a doorbell wrote. -/
theorem test_round_places : let t := after (.schedulerRound 0 [0]) (schedWorld (some dispatchEntry))
    (loomOf t 0).skeins.map (fun x => (x.1, x.2.groups)) = [(0, [⟨0xFFFFFFFF, 0, .none⟩])] ∧
    (queueOf t (handleOf 2 0 1)).map (fun q => q.cons) = some 1 := by decide +kernel

theorem test_doorbell : (queueOf (after (.doorbellWrite 5 1 false 3) rich) (handleOf 2 0 1)).map (fun q => q.prod) = some 3 := by decide +kernel

/-- COPY of 4 bytes from 0x1000 to 0x2000, and FILL. -/
def copyEntry (op : Nat) : List Byte :=
  toBytes 1 op ++ zeros 7 ++ toBytes 8 0x1000 ++ toBytes 8 0x2000 ++ toBytes 4 4 ++ toBytes 4 1 ++ zeros 32
/-- CONVERT of one BF16 element on the channel of the world, with FLAGS; and entries of the other conversion commands. -/
def convEntry (op flags rows cols : Nat) : List Byte :=
  toBytes 1 op ++ toBytes 1 flags ++ zeros 6 ++ toBytes 8 (handleOf 6 0 1).toNat ++ toBytes 8 0x1000 ++ toBytes 8 0x4000 ++ zeros 8 ++ toBytes 4 rows ++
    toBytes 4 cols ++ zeros 16
/-- STASH_PACK or STASH_UNPACK of one block of 16 E4M3 codes; the plain tensor at 0x1000 and its scales at 0x2000, the segment at 0x4000. -/
def stashEntry (op plain seg : Nat) : List Byte :=
  toBytes 1 op ++ zeros 1 ++ toBytes 1 0x13 ++ zeros 1 ++ toBytes 4 1 ++ toBytes 8 (handleOf 6 0 1).toNat ++ toBytes 8 plain ++ toBytes 8 seg ++
    toBytes 8 0x2000 ++ toBytes 4 1 ++ toBytes 4 16 ++ zeros 16

/-- CONV_TAKES, in the same way. -/
def convTakesB (s : State) (p : DmaJob → ConvChan → State → Bool) : Bool :=
  dmaTakesB s (fun j t => pageEnabled s (cnvPage 0) && (presentHandle (cnvPage 0) j.ctx (vChannel j.entry) 6 t).1 == zsOk &&
    let u := (presentHandle (cnvPage 0) j.ctx (vChannel j.entry) 6 t).2
    p j (convChan u (vChannel j.entry)) u)

theorem takes_of_convTakesB {s : State} {p : DmaJob → ConvChan → State → Bool} (h : convTakesB s p = true) :
    ∃ j ch t, ConvTakes 0 1 s j ch t ∧ p j ch t = true := by
  obtain ⟨j, t, hd, hp⟩ := takes_of_dmaTakesB h
  simp only [Bool.and_eq_true, beq_iff_eq] at hp
  exact ⟨j, _, _, ⟨hp.1.1, t, hd, Prod.ext hp.1.2 rfl, rfl⟩, hp.2⟩

/-- The first 4,096 bytes of a segment hold one frame of one literal block (R200, R201). -/
def segmentBytes : List Byte := toBytes 2 17 ++ toBytes 2 1 ++ toBytes 1 3 ++ toBytes 1 2 ++ zeros 10 ++ toBytes 1 127 ++ zeros 16

theorem witness_DmaAndConversionEntriesRun :
    [1, 2].all (fun op => dmaTakesB (dmaWorld (copyEntry op)) (fun j _ => !copyMalformed j.entry && bytesAt j.entry 0 1 == op) &&
      dmaTakesB (dmaWorld (toBytes 1 op ++ zeros 63)) (fun j _ => copyMalformed j.entry && bytesAt j.entry 0 1 == op)) = true ∧
    [0, 2].all (fun f => convTakesB (dmaWorld (convEntry 0x20 f 0 0)) (fun j ch _ => bytesAt j.entry 0 1 == 0x20 && (convertBad j.entry ch).isSome &&
      vFlags j.entry &&& 0x0A == f)) = true ∧
    (dmaRunOf { rich with dmaRuns := [⟨channelKey 0 1, handleOf 2 0 4, 0, 5, 0, [], [], 0, zsOk, 0, 4⟩] } (channelKey 0 1)).any (fun r =>
      r.tags.isEmpty && r.todo.isEmpty && r.status == zsOk) = true ∧
    [0, 2].all (fun f => convTakesB (dmaWorld (convEntry 0x20 f 1 1)) (fun j ch _ => bytesAt j.entry 0 1 == 0x20 && (convertBad j.entry ch).isNone &&
      vFlags j.entry &&& 0x0A == f)) = true ∧
    convTakesB (dmaWorld (convEntry 0x20 8 0 0)) (fun j ch t => vFlags j.entry == 8 && bytesAt j.entry 2 2 == 0 && (vWrite 0 j.ctx (bytesAt j.entry 0x18 8)
      (clean ((histList ch ++ List.replicate (16 - (histList ch).length) 0).flatMap (toBytes 4))) t).1.isNone) = true ∧
    (let s := dmaWorld (stashEntry 0x22 0x4000 0x1000)
     convTakesB { s with mem := memPut s.mem 0x40004000 segmentBytes } (fun j ch t => bytesAt j.entry 0 1 == 0x22 && (stashBad 0 0x10 j.entry ch).isNone &&
       (match readSegment j 0 (bytesAt j.entry 4 4) 0 t with
         | (.ok l, u) => l.length == tRows j.entry * tRowBlocks j.entry && (opWrite 0 5 [(0x1000, clean (zeros 16)), (0x2000, clean (zeros 1))] u).1.1.isNone
         | _ => false))) = true ∧
    convTakesB (dmaWorld (stashEntry 0x21 0x1000 0x4000)) (fun j ch t => bytesAt j.entry 0 1 == 0x21 && (stashBad 0x03 0x18 j.entry ch).isNone &&
      (match opRead 0 (cnvPage 0) 5 [(0x1000, 16), (0x2000, 1)] t with
        | (.ok bs, u) => !bs.any (fun b => b.any (fun x => x.2)) && (pieces u 5 .write 0x4000 4096).isOk
        | _ => false)) = true := by decide +kernel

/-- COPY moves its row, and the entry's end posts a completion and frees the channel. -/
theorem test_copy : let s := dmaWorld (copyEntry 1)
    let t := after (.dmaEntryDone 0 1) (after (.copy 0 1) { s with mem := memPut s.mem 0x40001000 (toBytes 4 0xC0FFEE) })
    memNat t 0x40002000 4 = 0xC0FFEE ∧ t.dmaRuns = [] ∧ (tget? t.channels (channelKey 0 1)).map (fun c => c.running) = some false := by decide +kernel

theorem witness_HistoryIsARingOfSixteen :
    let ch : ConvChan := ⟨0, 5, 0x11, List.replicate 16 1, 16, 3, 0, 0⟩
    let new : ConvChan := ⟨0, 5, 0x11, [1], 1, 1, 0, 0⟩
    [ch, new].all (fun c => (tget? { rich with conv := [(convKey 0, c)] }.conv (convKey 0)) == some c && decide (c.next < 16) && decide (c.count ≤ 16) &&
      (c.count == 16 || c.next == c.count)) = true ∧ amaxBits [.fin false 3 0] = some 0x40400000 := by decide +kernel

/-- A context in teardown. -/
def torn (st : CtxState) (done : Bool) : State :=
  modCtx 5 (fun x => { x with state := st, teardown := some ⟨[(1, 9)], 0, done⟩, leaves := [⟨0, 0x40000000, 64, 0, 7, false, true⟩], tables := [] }) tenant

theorem witness_TeardownRunsItsStages :
    (({ rich with heldRoles := [⟨handleOf 9 0 1, 1, 9, zeros 8⟩] } : State).heldRoles.find? (fun r => r.endpoint == handleOf 9 0 1)).isSome = true ∧
    (endpointOf rich (handleOf 9 0 1)).any (mayAdvance rich) = true ∧
    (tearingIn (torn .draining false) 5 .draining).any (fun t => !t.writesDone) = true ∧
    (tearingIn (torn .draining true) 5 .draining).any (fun t => t.writesDone) = true ∧ (∀ d ∈ liveDies (torn .draining true), inflightOf (torn .draining true) 5 d = 0) ∧
    (tearingIn (torn .scrubbing true) 5 .scrubbing).isSome = true ∧ (torn .scrubbing true).mem.wf = true ∧
    (∀ f ∈ ctxFrames (torn .scrubbing true) 5, f.1 % 64 = 0) ∧
    (∀ d ∈ liveDies (torn .scrubbing true), ((ctxAt (torn .scrubbing true) 5).elim 0 (fun x => (ctxDie x d).scrubLeft)) = 0) := by decide +kernel

/-- The end of a teardown frees the slot and advances its generation. -/
theorem test_teardown_end : let t := after (.teardownComplete 5) (torn .scrubbing true)
    ctxAt t 5 = none ∧ (slotOf t hCtx).gen = 1 ∧ judgeHandle t hCtx hCtx 1 = zsHandleStale := by decide +kernel

/-! ## Sillage and step state -/

/-- A group of this package alone with one slice of 16 BF16 positions and 64 parameter bytes; CLIP is given. -/
def silDesc (clip : Nat) : List Byte :=
  toBytes 8 7 ++ toBytes 1 (4 * clip) ++ zeros 1 ++ toBytes 1 1 ++ zeros 5 ++ toBytes 4 0x3F800000 ++ zeros 12 ++ zeros 32 ++ toBytes 8 0x300000 ++
    toBytes 8 0x380000 ++ toBytes 8 0x280000 ++ toBytes 8 0x3C0000 ++ toBytes 4 4 ++ zeros 28
def silOf (clip : Nat) (mode : SilMode) : SilGroup :=
  ⟨handleOf 5 15 1, 5, silDesc clip, [⟨0, 4, handleOf 9 0 1⟩], [⟨0, 16, 0, 1, 0, 0, 64, 0⟩], mode, 0, 0, false, [], [], [], [], false, [], [], [], [], [], [],
    false, false, false, [], false, [], 0, [], [], none, none, none, .none, 0, 0⟩
/-- An entry of a COLLECTIVE queue that names the group, and the package with it. -/
def silEntry (op : Nat) (rest : List Byte) : List Byte := toBytes 1 op ++ zeros 7 ++ toBytes 8 (handleOf 5 15 1).toNat ++ rest ++ zeros (48 - rest.length)
def silWorld (g : SilGroup) (entry : List Byte) : State :=
  let s := owned [(2, 0, 6), (5, 15, 1)] rich
  setReg (silPage 0 + hdrCtrl) 1 { s with mem := memPut s.mem 0x40160000 entry, queues := s.queues ++ [queueAt 6 .collective 1 0], groups := [(1, g)] }

def silTakesB (s : State) (p : SilJob → SilGroup → State → Bool) : Bool :=
  match tget? s.queues 6 with
  | none => false
  | some q =>
    match vRead (engAt 0 18) q.ctx (entryVa q q.cons) 64 s with
    | (.ok b, s') =>
      let t := consumeHead q.handle s'
      let h : Word := BitVec.ofNat 64 (bytesAt (bare b) 8 8)
      q.typ == .collective && occupancy q != 0 && ctxMayStart s q.ctx && txFits s q.ctx 0 1 && pageEnabled s (silPage 0) && !collectiveBad (bare b) &&
        judgeHandle t (ctxHandle t q.ctx) h 5 == zsOk && (match silAt t (hSlot h) with
          | some g => p ⟨0, q.ctx, q.handle, q.cplQ, q.cons, bare b, hSlot h⟩ g t
          | none => false)
    | _ => false

theorem takes_of_silTakesB {s : State} {p : SilJob → SilGroup → State → Bool} (h : silTakesB s p = true) :
    ∃ j g t, SilTakes 0 6 s j g t ∧ p j g t = true := by
  unfold silTakesB at h
  split at h
  · cases h
  · rename_i q hq
    split at h
    · rename_i b s' hv
      simp only [Bool.and_eq_true, Bool.not_eq_true', bne_iff_ne, ne_eq, beq_iff_eq] at h
      obtain ⟨⟨⟨⟨⟨⟨⟨h1, h2⟩, h3⟩, hx⟩, h4⟩, h5⟩, h6⟩, h7⟩ := h
      split at h7
      · rename_i g hg
        exact ⟨_, g, _, ⟨q, b, s', hq, h1, h2, h3, hx, h4, hv, rfl, h5, rfl, h6, hg⟩, h7⟩
      · cases h7
    · cases h

/-- A record of the group's parameters, sealed in the first frame of slot A at physical address 0x50000000; poison in each of its
blocks keeps them from being verified (R376). -/
def sealedRecord : State :=
  let s := { silWorld (silOf 0 .restoring) (silEntry 6 []) with stores := [⟨7, 0, 99, handleOf 5 15 1, 5, 0, [0x50000000], []⟩] }
  let h := recHeader s (silOf 0 .restoring) 7
  { s with mem := memPut s.mem 0x50000000 (h ++ toBytes 4 (crc32c h)), poison := [0x50000FC0 / 64, 0x50001000 / 64] }

theorem witness_SillageEntriesRun_1 :
    silTakesB (silWorld (silOf 0 .ordinary) (silEntry 1 (toBytes 8 0x1000 ++ toBytes 8 0 ++ toBytes 4 16 ++ toBytes 1 1))) (fun j g t => bytesAt j.entry 0 1 == 1 &&
      (match opRead 0 (silPage 0) j.ctx [(0x1000, 32)] t with
        | (.ok bs, u) => !bs.any (fun b => b.any (fun x => x.2)) &&
          (rowSegments u g 1 0 ⟨0, (List.range 16).map (rowCode (bare (bs.getD 0 [])) 16), []⟩).isSome
        | _ => false)) = true := by decide +kernel
theorem witness_SillageEntriesRun_2 :
    silTakesB (silWorld (silOf 0 .ordinary) (silEntry 2 (toBytes 8 5))) (fun j _ _ => bytesAt j.entry 0 1 == 2) = true := by decide +kernel
theorem witness_SillageEntriesRun_3 :
    silTakesB (silWorld (silOf 0 .ordinary) (silEntry 3 (toBytes 8 5))) (fun j _ _ => bytesAt j.entry 0 1 == 3) = true := by decide +kernel
theorem witness_SillageEntriesRun_4 :
    silTakesB (silWorld (silOf 0 .ordinary) (silEntry 4 [])) (fun j g _ => bytesAt j.entry 0 1 == 4 && decide (bytesAt j.entry 0x10 2 < g.slices.length) &&
      (sliceAt g 0).owner == gSelf g) = true := by decide +kernel
theorem witness_SillageEntriesRun_5 :
    silTakesB (silWorld (silOf 0 .ordinary) (silEntry 5 (toBytes 8 0x1000 ++ zeros 8 ++ toBytes 4 64))) (fun j g t => bytesAt j.entry 0 1 == 5 &&
      decide (bytesAt j.entry 0x1C 4 + bytesAt j.entry 0x20 4 ≤ (sliceAt g 0).paramBytes) && (opRead 0 (silPage 0) 5 [(0x1000, 64)] t).1.isOk) = true := by decide +kernel
theorem witness_SillageEntriesRun_6 :
    silTakesB (silWorld (silOf 0 .ordinary) (silEntry 6 [])) (fun j g _ => bytesAt j.entry 0 1 == 6 && g.mode == .ordinary) = true := by decide +kernel
theorem witness_SillageEntriesRun_6_restoring :
    silTakesB sealedRecord (fun j g t => bytesAt j.entry 0 1 == 6 && g.mode == .restoring && (restoreOrFill j.group t).1 == zsOk) = true := by decide +kernel
theorem witness_SillageEntriesRun_6_retracted :
    silTakesB (silWorld { silOf 0 .ordinary with retracted := true } (silEntry 6 [])) (fun j g _ => bytesAt j.entry 0 1 == 6 && g.mode == .ordinary && g.retracted) = true := by
  decide +kernel
theorem witness_SillageEntriesRun_8_none :
    silTakesB (silWorld (silOf 0 .ordinary) (silEntry 8 (toBytes 8 0x2000 ++ toBytes 8 6))) (fun j g t => bytesAt j.entry 0 1 == 8 && bytesAt j.entry 0x18 8 != gStep t g &&
      (tget? g.ring (bytesAt j.entry 0x18 8 % 64)).isNone) = true := by decide +kernel
theorem witness_SillageEntriesRun_7 :
    silTakesB (silWorld (silOf 0 .ordinary) (silEntry 7 [])) (fun j g _ => bytesAt j.entry 0 1 == 7 && !(ownedBy g (gSelf g)).isEmpty && !silMute g 6) = true := by decide +kernel
theorem witness_SillageEntriesRun_8 :
    silTakesB (silWorld (silOf 0 .ordinary) (silEntry 8 (toBytes 8 0x2000 ++ toBytes 8 7))) (fun j g t => bytesAt j.entry 0 1 == 8 && bytesAt j.entry 0x18 8 == gStep t g &&
      (vWrite 0 j.ctx 0x2000 (clean (zeros 48)) t).1.isNone) = true := by decide +kernel

/-- A member whose whole contribution has come. -/
def done0 (g : SilGroup) : SilGroup := { g with from_ := [(0, ⟨true, false, false, 1, some (5, 1), [⟨0, 0, 16, zeros 32⟩]⟩)] }
def runOf (op : Nat) : SilRun := ⟨0, handleOf 2 0 6, 0, 0, op, 0, 0, 0, [], [], zsOk, 0, 0, 7, 0⟩

theorem witness_SillageEventsComplete :
    (let g := silOf 0 .ordinary
     silActs (silWorld g []) g = true ∧ g.final = false ∧ g.deadline < ({ silWorld g [] with time := 1 } : State).time ∧ g.mode = .ordinary ∧
       ownedBy g (gSelf g) ≠ [] ∧ txFits (silWorld g []) g.ctx 0 1 = true) ∧
    (let g := { silOf 0 .ordinary with final := true }; g.deadline + gStall g ≤ ({ silWorld g [] with time := 2 ^ 40 } : State).time) ∧
    (({ silOf 0 .ordinary with runs := [runOf 7] } : SilGroup).runs.find? (fun r => r.op == 7)).isSome = true ∧
    (let g := { silOf 0 .ordinary with final := true, from_ := [(0, ⟨true, false, false, 0, none, []⟩)] }
     g.final = true ∧ g.mode = .ordinary ∧ (included g).all (contributionDone g) = false) ∧
    (let g := { silOf 0 .ordinary with desc := (silDesc 0).take 8 ++ toBytes 1 2 ++ (silDesc 0).drop 9 }
     gReduce (done0 g) = 2 ∧ windowReady (done0 g) 0 = true) ∧
    (let g := { silOf 0 .ordinary with desc := (silDesc 0).take 10 ++ toBytes 1 2 ++ (silDesc 0).drop 11 }; 1 ≠ gSelf g ∧ 1 < gMembers g) ∧
    (let g := done0 (silOf 0 .ordinary)
     windowReady g 0 = true ∧ windowPlace g (gSelf g) 0 = some (0, 0) ∧ gReduce g ≠ 2 ∧ normLaneFree (silWorld g []) g 0 = true ∧
       (vWrite 0 5 (gGrad g) (clean (zeros 64)) (silWorld g [])).1 = none) ∧
    [0, 2 ^ 170].all (fun n => let g := { silOf 1 .ordinary with reduced := [0], norm := [(0, ⟨n, false⟩)] }
      gClip g != 0 && g.clips.isEmpty && sliceReduced g 0 && (match normScope g 0 with | some x => (clipFactor (gClipMax g) x == 0x3F800000) == (n == 0) | none => false)
        && (vRead 0 5 (gGrad g) 64 (silWorld g [])).1.isOk) = true ∧
    (let g := { done0 (silOf 0 .ordinary) with reduced := [0], final := true, runs := [runOf 4] }
     (g.runs.find? (fun r => r.op == 4 && r.slice == 0)).isSome = true ∧ g.capture = none ∧ sliceWritten g 0 = true ∧ tget? g.gradFail 0 = none) ∧
    (let g := { silOf 0 .ordinary with updated := [(0, 64)] }
     g.readySent = false ∧ silMute g 5 = false ∧ g.runs.any (fun r => r.op == 5) = false ∧
       ∀ i ∈ ownedBy g (gSelf g), (sliceAt g i).paramBytes ≤ tgetD g.updated i 0) ∧
    (let g := { silOf 0 .ordinary with paramGot := [(0, 64)], ready := [0], runs := [runOf 6] }
     commitReady g = true ∧ g.runs.any (fun r => r.op == 6) = true ∧ commitReady (silOf 0 .ordinary) = false) := by decide +kernel

/-- A step of one member: 1.5 in every position is reduced, the gradient is 1.5, and the COMMIT advances STEP from 7 to 8. -/
theorem test_reduce_and_commit :
    let g := done0 (silOf 0 .ordinary)
    let s := silWorld { g with from_ := [(0, ⟨true, false, false, 1, some (5, 1), [⟨0, 0, 16, (List.replicate 16 (toBytes 2 0x3FC0)).flatten⟩]⟩)] } []
    let t := silWorld { g with paramGot := [(0, 64)], ready := [0], runs := [runOf 6] } []
    memNat (after (.windowReduce 1 0) s) (0x40000000 + 0x280000) 8 = 0x3FC000003FC00000 ∧ ctxStep (after (.commitComplete 1) t) 5 = 8 := by decide +kernel

/-- The group of context 5 in a mode, a capture or a store added. -/
def stepped (mode : SilMode) : State := silWorld (silOf 0 mode) []

theorem witness_StepStateEventsComplete :
    (let g := { silOf 0 .ordinary with capture := some ⟨0, 0, 0, 7⟩ }
     let s := { silWorld g [] with stores := sealedRecord.stores }
     silAt s 1 = some g ∧ (storeOf s g).isSome = true) ∧
    bit (reg up (cadPage up + Reg.CAD_STATUS)) 0 = false ∧
    [999999, 1000000].all (fun t => ({ up with cadence := ⟨0, some 0⟩, time := t } : State).cadence.lastEvent == some 0) = true ∧ up.cadence.lastEvent = none ∧
    (let s : State := { sealedRecord with stores := [⟨7, 0, 99, 0, 5, 0, [0x50000000], []⟩], time := 60000000001 }
     s.stores[0]?.any (fun r => r.group == 0 && claimOver s r && !claimOver { s with time := 60000000000 } r) = true) ∧
    (silAt (stepped .joining) 1).map (fun g => g.mode) = some .joining ∧
    (let g := silOf 0 .copying
     silAt (stepped .copying) 1 = some g ∧ 0 < g.slices.length ∧ 0 + (zeros 64).length ≤ (sliceAt g 0).paramBytes ∧
       (vWrite (gDie g) 5 (gParamBase g (gStep (stepped .copying) g) + (sliceAt g 0).paramOff + 0) (clean (zeros 64)) (stepped .copying)).1 = none) := by
  decide +kernel
/-! ## The fabric -/

/-- Ports of the package that are UP, one of them with a packet to acknowledge and credits to return. -/
def linked : State :=
  let s := forL [0, 1] (fun k s => setReg (linkPage k + Reg.RVL_PORT_STATE) 4 s) rich
  { s with ports := [(0, { LinkPort.fresh with openData := zeros 120, rxFlits := 4, frameTx := 2 ^ 32, replay := [mkPacket rich 0 opDone 0 0 false 0 false (zeros 16)] }),
                     (1, { LinkPort.fresh with owed := [(2, 7)] })] }

theorem witness_LinkFramesAndFlitsComplete :
    portUp linked 0 = true ∧ portUp linked 1 = true ∧ (portOf linked 0).openData ≠ [] ∧ 1 ≤ (portOf linked 0).rxFlits ∧ (portOf linked 1).rxFlits = 0 ∧ 2 ^ 32 ≤ (portOf linked 0).frameTx ∧ (portOf linked 0).replay ≠ [] ∧
    (portOf linked 0).txq = [] ∧ (portOf linked 0).owed = [] ∧ (portOf linked 1).owed ≠ [] ∧ creditOf (portOf linked 0) 1 = 512 ∧
    [0, 1, 2, 3].all (fun st => st % 16 == st) = true := by decide +kernel

/-- An acknowledged packet leaves the replay buffer; credits stop at 512. -/
theorem test_ack_and_credit : (portOf (after (.ack 0 0) linked) 0).replay = [] ∧
    creditOf (portOf (after (.credit 0 [9]) linked) 0) 0 = 512 := by decide +kernel

/-- Port 0 DOWN on an open pair, in a bring-up phase. -/
def training (phase : Nat) : State :=
  modPort 0 (fun l => { l with phase := phase, tsyncs := 16 }) (setReg (linkPage 0 + Reg.RVL_PORT_STATE) 0 (setReg (linkPage 0 + Reg.RVL_BYPASS) 0 up))

theorem witness_LinkBringUpRuns :
    [1, 2, 3, 4, 5, 6, 7].all (fun n => (portOf (training n) 0).phase == n) = true ∧ bits (reg (training 1) (linkPage 0 + Reg.RVL_BYPASS)) 3 2 = 0 ∧
    deviceDenied (training 5) (portOf (training 5) 0).met = false ∧
    deviceDenied (modSys (fun y => { y with cfgs := [some ⟨0x4643535A, 1, 0, 1, [], none, true, [.deny 0], []⟩], cfgUsed := some 0 }) (training 5)) 0 = true ∧ 16 ≤ (portOf (training 7) 0).tsyncs ∧ portState (training 0) 0 = 0 ∧
    portUp linked 0 = true := by decide +kernel

/-- The last phase brings the port UP; the loss of a lane's signal trains it again. -/
theorem test_port_up : portUp (after (.bringupPhaseComplete 0 ⟨0, 0, 0, 0⟩) (training 7)) 0 = true ∧
    portState (after (.lossOfSignal 0 3) linked) 0 = 2 := by decide +kernel

/-- A pair whose switch moves, toward either position. -/
def moving (b : Bool) : State := { up with switches := [(3, ⟨true, b, false⟩)] }

theorem witness_BypassAndRoutesComplete :
    [true, false].all (fun b => (switchOf (moving b) 3).moving && (switchOf (moving b) 3).toOpen == b) = true ∧ dieLive up 0 = true ∧
    bits (reg up (rvlPage 0 + Reg.RVL_ROUTE_SEL)) 15 0 ≠ 1 ∧ ({ up with routeHolds := [5, 6] } : State).routeHolds = 5 :: [6] := by decide +kernel

/-- RVL_ROUTE_DATA is written in the table that both dies read; the position on both dies. -/
theorem test_position : reg (after (.rvlPositionWrite 0 0x120034) up) (rvlPage 1 + Reg.RVL_POSITION) = 0x120034 := by decide +kernel

/-- Inbound windows of every kind at die 0, an endpoint that serves a MSG queue, and one that belongs to a Sillage group. -/
def remote : State :=
  let s := { silWorld (silOf 0 .ordinary) [] with windows := [(1, ⟨handleOf 4 0 1, 5, true, 0xF, 7, 0, 0, 0x1000, 0x10000, 0⟩)] }
  let s := setReg (linkPage 0 + Reg.RVL_PORT_STATE) 4 (owned [(9, 0, 2)] { s with ports := [(0, { LinkPort.fresh with rxFlits := 1000 })] })
  { s with endpoints := s.endpoints ++ [(2, ⟨handleOf 9 0 2, 5, 0, 0, handleOf 5 15 1, 4, none⟩)] }
/-- Packets for this package of context 5; `issuer` carries tag 77. -/
def packet (op : Nat) (ep : Word) (role : Nat) (body : List Byte) : Packet := mkPacket remote (position remote) op hCtx ep false role false body
def memPacket (op count atom : Nat) (payload : List Byte) : Packet :=
  packet op (handleOf 4 0 1) 0 (memExt 0x20 hCtx 77 count 0 atom 0 0 ++ payload)
/-- The state in which a packet that port 0 accepts acts. -/
def got (p : Packet) (s : State) : State := takeOff 0 p (linkAccept 0 p s).2
def deliversB (op : Nat) (p : Packet) (s : State) : Bool :=
  p.op == op && (linkAccept 0 p s).1 && p.reserved == 0 && p.dest == position (linkAccept 0 p s).2 && pktCheck p.body == p.check && !pktStale (got p s) p

theorem delivers_of_deliversB {op : Nat} {p : Packet} {s : State} (h : deliversB op p s = true) :
    Delivers op 0 p s (got p s) ∧ pktCheck p.body = p.check ∧ pktStale (got p s) p = false := by
  simp only [deliversB, Bool.and_eq_true, beq_iff_eq, Bool.not_eq_true'] at h
  exact ⟨⟨h.1.1.1.1.1, h.1.1.1.1.2, h.1.1.1.2, h.1.1.2, rfl⟩, h.1.2, h.2⟩

/-- A Sillage packet on port 0 reaches group 1, which a condition holds of. -/
def segmentB (p : Packet) (s : State) (c : SilGroup → Bool) : Bool :=
  let t := got p s
  deliversB opSil p s && judgeHandle t (ctxHandle t p.ctxSlot) (pktEp 9 p) 9 == zsOk &&
    !(endpointOf t (pktEp 9 p)).any (fun ep => ep.epoch != p.roleEpoch) &&
    (match silTarget t p with | some x => x.1 == 1 && (segOf p.body).gid == gId x.2 && c x.2 | none => false)

theorem segment_of_segmentB {p : Packet} {s : State} {c : SilGroup → Bool} (h : segmentB p s c = true) :
    ∃ g t, SegmentFor 0 p s 1 g t ∧ c g = true := by
  unfold segmentB at h
  simp only [Bool.and_eq_true, beq_iff_eq, Bool.not_eq_true'] at h
  obtain ⟨⟨⟨h1, h2⟩, h3⟩, h4⟩ := h
  split at h4
  · rename_i x hx
    rw [Bool.and_eq_true, Bool.and_eq_true, beq_iff_eq, beq_iff_eq] at h4
    obtain ⟨⟨h5, h6⟩, h7⟩ := h4
    obtain ⟨hd, hc, hs⟩ := delivers_of_deliversB h1
    refine ⟨x.2, _, ⟨got p s, hd, hc, hs, h2, h3, ?_, h6, rfl⟩, h7⟩
    rw [hx, ← h5]
  · cases h4

/-- A response on port 0 finds the request that a condition holds of. -/
def answersB (op : Nat) (p : Packet) (s : State) (c : FabReq → State → Bool) : Bool :=
  deliversB op p s && (match fabFind (got p s) (bytesAt p.body 0 4) with | some r => c r (got p s) | none => false)

theorem answers_of_answersB {op : Nat} {p : Packet} {s : State} {c : FabReq → State → Bool} (h : answersB op p s c = true) :
    ∃ r, Answers op 0 p r s (got p s) ∧ c r (got p s) = true := by
  unfold answersB at h
  rw [Bool.and_eq_true] at h
  split at h
  · rename_i r hr
    obtain ⟨hd, hc, hs⟩ := delivers_of_deliversB h.1
    exact ⟨r, ⟨hd, hc, hs, hr⟩, h.2⟩
  · exact absurd h.2 (by simp)

/-- The body of a segment of a kind from member 0. -/
def segBody (kind : Nat) : List Byte :=
  toBytes 8 7 ++ toBytes 8 7 ++ zeros 8 ++ toBytes 2 0 ++ toBytes 1 0 ++ toBytes 1 kind ++ zeros 20 ++ toBytes 8 9

theorem witness_ArrivingRequestsArePerformed :
    [memPacket opPut 0 0 (toBytes 8 0x1122334455667788), memPacket opGet 8 0 [], memPacket opAtom 0 0 (toBytes 8 5), memPacket opRed 0 0 (toBytes 8 5)].all
      (fun p => deliversB p.op p remote && (judgeMemReq (got p remote) p).isOk) = true ∧
    [opPut, opGet, opAtom, opRed].all (fun op => let p := packet op (handleOf 4 0 1) 0 (memExt 0x20000 hCtx 77 8 0 0 0 0 ++ toBytes 8 5)
      deliversB op p remote && !(judgeMemReq (got p remote) p).isOk) = true ∧
    (gRead (engAt 0 20) 5 0x1020 (memReqLen (memPacket opGet 8 0 [])) (got (memPacket opGet 8 0 []) remote)).1.isOk = true ∧
    (gRead (engAt 0 20) 5 0xFFFF0000 8 (got (memPacket opGet 8 0 []) remote)).1.isOk = false ∧
    (let p := packet opMsg (handleOf 9 0 1) 4 (toBytes 8 hCtx.toNat ++ toBytes 4 77 ++ zeros 4 ++ zeros 40)
     let t := got p remote
     deliversB opMsg p remote && judgeHandle t (ctxHandle t p.ctxSlot) (pktEp 9 p) 9 == zsOk &&
       (endpointOf t (pktEp 9 p)).any (fun e => e.queue != 0) &&
       (judgeMessage (pktEp 9 p) p.roleEpoch p.src (hSlot (pktIssuer p).1) p.ack (zeros 8 ++ p.body.drop 16) t).1 == zsOk) = true ∧
    [0, 1, 6, 7, 8, 10].all (fun k => let p := packet opSil (handleOf 9 0 2) 4 (segBody k)
      segmentB p remote (fun _ => (segOf p.body).kind == k)) = true := by decide +kernel

/-- A put writes its bytes at the window's base and its offset. -/
theorem test_put : memNat (after (.put 0 (memPacket opPut 0 0 (toBytes 8 0x1122334455667788))) remote) 0x40001020 8 = 0x1122334455667788 := by
  decide +kernel

/-- A package with one request in flight, and a response to it. -/
def asked (i : FabIssuer) : State :=
  { remote with fabric := [⟨77, .get, 0, 1, hCtx, 4, 0, 0x20, 0, 3, i⟩],
                dmaRuns := [⟨3, handleOf 2 0 1, 0, 5, 0, [], [77], 0, zsOk, 0, 0⟩] }
def response (op : Nat) : Packet := packet op 0 0 (respExt 77 zsOk 0 0 ++ toBytes 4 0xC0FFEE)

theorem witness_ResponsesEndTheirRequests :
    [(opDone, FabIssuer.put 0 3 0 0), (opDone, .dma 3 none), (opData, .thread 0 3 0 0 [4] 4), (opData, .dma 3 (some 0x2000)), (opNack, .put 0 3 0 0),
      (opMsgAck, .send 0 3 0), (opSilAck, .sil 1 0)].all (fun x =>
        answersB x.1 (response x.1) (asked x.2) (fun r _ => r.issuer == x.2)) = true ∧
    answersB opData (response opData) (asked (.dma 3 (some 0x2000))) (fun r s =>
      (dmaRunOf (dmaTagDone r.tag zsOk 0 (fabOk r s)) 3).any (fun run => run.status == zsOk)) = true ∧
    bytesAt (response opSilAck).body 5 1 ≠ 1 ∧ (fabFind (asked (.send 0 3 0)) 77).isSome = true := by decide +kernel

/-- A group that joins, with its JOIN in flight, and a SIL_ACK that answers it; one that is filled, and a FILL segment for it. -/
def joiningGroup (mode : SilMode) : State := modSil 1 (fun g => { g with mode := mode }) (asked (.join 1 2))
theorem witness_StepStateEventsComplete_join :
    [SilMode.joining, .copying].all (fun m => answersB opSilAck (response opSilAck) (joiningGroup m) (fun r u => r.issuer == .join 1 2 &&
      answersJoin (joiningGroup m) (response opSilAck) && (silAt (fabOk r u) 1).any (fun g => g.mode == m))) = true ∧
    [SilMode.ordinary, .copying].all (fun m => segmentB (packet opSil (handleOf 9 0 2) 4 (segBody 9)) (joiningGroup m) (fun g => g.mode == m &&
      (segOf (segBody 9)).kind == 9 && decide ((segOf (segBody 9)).slice < g.slices.length) &&
      decide ((segOf (segBody 9)).first + (segOf (segBody 9)).payload.length ≤ (sliceAt g 0).paramBytes) &&
      (vWrite (engAt 0 18) 5 (gParamBase g 7 + (sliceAt g 0).paramOff) (clean (zeros 8)) (joiningGroup m)).1.isNone)) = true := by decide +kernel

/-- What a DMA get read is written to its destination. -/
theorem test_data_is_written :
    memNat (after (.dataPacket 0 (response opData)) (asked (.dma 3 (some 0x2000)))) 0x40002000 4 = 0xC0FFEE := by decide +kernel
/-! ## Service and management ports -/

/-- Port 1 bound to the partner of context 5, and MP0 to a manager; queue 1 of die 1 is a SERVICE queue with one entry, and a SERVE, a queue
pair and a region are at hand on port 1. -/
def served : State :=
  let s := { owned [(2, 1, 1)] rich with
    svc := [(1, { SvcPort.empty with bound := some 99, serves := [⟨8, hCtx, 5, 100⟩], qps := [⟨3, 9, hCtx, 0, 0, false, 0, 0⟩], mrs := [⟨1, hCtx, 0, 4096, 3⟩] }),
            (7, { SvcPort.empty with bound := some 50 })],
    queues := rich.queues ++ [(16385, ⟨handleOf 2 1 1, 5, 1, .service, 16, 0x200000, 1, 0, 0, .none, 1, 0, 0, 0, none, []⟩)] }
  setReg (svcPage 1 + Reg.SVP_CFG) 0x03E81000 (setReg (svcPage 7 + Reg.MGP_CFG) 0x03E80001 (setReg (svcPage 1 + hdrCtrl) 1
    (setReg (svcPage 1 + Reg.SVP_STATE) 3 (setReg (svcPage 7 + Reg.SVP_STATE) 3 s))))
/-- An untagged IPv4 frame. -/
def plain : Frame := ⟨0, false, false⟩
/-- A request on a port. -/
def ask (port : Nat) (ctx : Word) (body : List Byte) : ZjpReq := ⟨port, 40, ctx, body, plain⟩
def frameB (port : Nat) (f : Frame) (s : State) : Bool :=
  portExists s port && svcState s port != 0 && frameOk (countRx port 1 s) port f

theorem frame_of_frameB {port : Nat} {f : Frame} {s : State} (h : frameB port f s = true) : FrameOn port f s (countRx port 1 s) := by
  simp only [frameB, Bool.and_eq_true, bne_iff_ne] at h
  exact ⟨h.1.1, h.1.2, rfl, h.2⟩

/-- The partner's request is heard. -/
def heardB (z : ZjpReq) (s : State) (p : Nat → State → Bool) : Bool :=
  let s1 := countRx z.port 1 s
  frameB z.port z.frame s && zjpServed s1 z.port && svcState s1 z.port == 3 && (match boundTo? s1 z.port with
      | some i => p i (zjpHeard z.port s1)
      | none => false)

theorem heard_of_heardB {z : ZjpReq} {s : State} {p : Nat → State → Bool} (h : heardB z s p = true) : ∃ i t, ZjpHeard z i s t ∧ p i t = true := by
  unfold heardB at h
  simp only [Bool.and_eq_true, beq_iff_eq] at h
  obtain ⟨⟨⟨h1, h2⟩, h3⟩, h4⟩ := h
  split at h4
  · rename_i i hi
    exact ⟨i, _, ⟨_, frame_of_frameB h1, h2, h3, hi, rfl⟩, h4⟩
  · cases h4

def admitsB (z : ZjpReq) (op : Nat) (s : State) (p : State → Bool) : Bool :=
  heardB z s (fun i t => cacheView (cacheOf t z.port) z.reqId == .fresh && !failedNow t && mgmtClass op == isMgmt z.port && bodyFits z op &&
    p (zjpTake z op i t))

theorem admits_of_admitsB {z : ZjpReq} {op : Nat} {s : State} {p : State → Bool} (h : admitsB z op s p = true) :
    ∃ t, ZjpAdmits z op s t ∧ p t = true := by
  obtain ⟨i, u, hu, hp⟩ := heard_of_heardB h
  simp only [Bool.and_eq_true, Bool.not_eq_true', beq_iff_eq] at hp
  obtain ⟨⟨⟨⟨h1, h2⟩, h3⟩, h4⟩, h5⟩ := hp
  exact ⟨_, ⟨i, u, hu, h1, fun hf => (by simp [h2] at hf), h3, h4, rfl⟩, h5⟩

/-- The request names context 5, which is active. -/
def actsB (z : ZjpReq) (op : Nat) (s : State) (p : State → Bool) : Bool :=
  admitsB z op s (fun t => judgeCtx t ((boundTo? t z.port).getD 0) z.ctx == zsOk && hSlot z.ctx == 5 && (ctxAt t 5).any (fun x => x.state == .active) && p t)

theorem acts_of_actsB {z : ZjpReq} {op : Nat} {s : State} {p : State → Bool} (h : actsB z op s p = true) :
    ∃ t, ZjpActs z op 5 s t ∧ p t = true := by
  obtain ⟨t, ha, hp⟩ := admits_of_admitsB h
  simp only [Bool.and_eq_true, beq_iff_eq] at hp
  exact ⟨t, ⟨ha, hp.1.1.1, hp.1.1.2.symm, hp.1.2⟩, hp.2⟩

/-- A partner: its certificate's key, what its BIND_HELLO carries, and its identity. -/
def partner : BindCert := ⟨[1], 0x77, [2], [3], true, true⟩
def pid : Nat := sha512Nat partner.key
/-- The package with a partner root configured and port 1 up and unbound, or with a binding under way. -/
def unbound (state : Nat) : State :=
  let c : CfgRec := ⟨0x4643535A, 1, 0, 1, [], none, true, [.partnerRoot 0x77], []⟩
  setReg (svcPage 1 + Reg.SVP_CFG) 0x03E81000 (setReg (svcPage 1 + Reg.SVP_STATE) state (modSys (fun y => { y with cfgs := [some c], cfgUsed := some 0 })
    { up with svc := [(1, { SvcPort.empty with hellos := [⟨pid, [2], [3], 0⟩] })] }))

theorem witness_ServicePortsBindAndAnswer :
    [1, 2].all (fun n => let t := countRx 1 1 (unbound n)
      frameB 1 plain (unbound n) && zjpServed t 1 && !failedNow t && boundTo? t 1 == none && (rivals t 1 pid).isEmpty &&
        ((svcOf t 1).hellos.find? (fun h => h.identity == pid)).isSome && (certFails t 1 partner).isNone && !bindRefused t 1 pid) = true ∧
    [{ partner with root := 1 }, { partner with sigOk := false }].all (fun b => (certFails (unbound 1) 1 b).isSome) = true ∧
    bindRefused served 1 pid = true ∧ frameB 1 plain served = true ∧ boundTo? served 1 = some 99 ∧
    cacheView (cacheOf (zjpHeard 1 (countRx 1 1 served)) 1) 40 = .fresh ∧
    headerRefusal (zeros 32) = some (zsUnsupported, 0) ∧ headerRefusal (toBytes 1 1 ++ zeros 1 ++ toBytes 2 4 ++ zeros 28) = none ∧
    bit (bytesAt (zeros 32) 1 1) 0 = false ∧
    svcState (unbound 0) 1 = 0 ∧ downTooLong (modSvc 1 (fun p => { p with downSince := some 0 }) { unbound 0 with time := 1000000001 }) 1 = true ∧
    [1, 7].all (linkMayRise (unbound 0)) = true ∧
    ownAddress (setReg (svcPage 1 + Reg.SVP_IPV4) 0x0A000001 (unbound 1)) 1 false 0x0A000001 = true ∧ ownAddress (unbound 1) 1 false 1 = false ∧
    frameOk (countRx 1 1 (unbound 1)) 1 ⟨9, false, false⟩ = false := by
  decide +kernel

theorem test_bind : let t := after (.bindFinish (ask 1 0 []) pid true) (unbound 2)
    svcState t 1 = 3 ∧ boundTo? t 1 = some pid ∧ reg t (svcPage 1 + Reg.SVP_PARTNER) = pid % 2 ^ 64 := by decide +kernel

/-- Request 41 was answered on port 1, and request 42 is being performed. -/
def answered : State := { served with zjp := [(1, ⟨[42], [⟨41, 0x12, hCtx, zsOk, 0, 1, [7]⟩]⟩)] }

theorem witness_AnsweredRequestsAreNotPerformedAgain :
    [(41, CacheView.again ⟨41, 0x12, hCtx, zsOk, 0, 1, [7]⟩), (42, .busy)].all (fun x =>
      heardB ⟨1, x.1, hCtx, [], plain⟩ answered (fun _ t => cacheView (cacheOf t 1) x.1 == x.2)) = true ∧
    heardB ⟨1, 3, hCtx, [], plain⟩ { served with zjp := [(1, ⟨[], List.replicate 1024 ⟨41, 0x12, hCtx, zsOk, 0, 1, []⟩⟩)] } (fun _ t =>
      cacheView (cacheOf t 1) 3 == .old) = true := by decide +kernel

theorem test_answered_again :
    (after (.contextDestroy ⟨1, 41, hCtx, [], plain⟩) answered).outbox = [.zjp 1 (zjpBytes ⟨41, 0x12, hCtx, zsOk, 0, 1, [7]⟩)] ∧
    (ctxAt (after (.contextDestroy ⟨1, 41, hCtx, [], plain⟩) answered) 5).map (fun x => x.state) = some .active := by decide +kernel

/-- An ADMIT body with ROOT_LOG2 0 and limits of 1. -/
def admitBody : List Byte :=
  toBytes 8 1 ++ zeros 46 ++ toBytes 2 1 ++ zeros 4 ++ toBytes 2 1 ++ toBytes 2 1 ++ toBytes 4 1 ++ toBytes 4 1 ++ toBytes 8 (2 ^ 30) ++ toBytes 4 1 ++
    toBytes 4 1 ++ zeros 48
/-- One page of code of the context, at 1 GiB. -/
def granted : State :=
  modCtx 5 (fun x => { x with leaves := x.leaves ++ [⟨0x40000000, 0x90000000, 65536, 0, 3, false, true⟩] }) served

theorem witness_ContextRequestsArePerformed :
    actsB (ask 1 hCtx []) 0x11 served (fun _ => true) = true ∧ actsB (ask 1 hCtx []) 0x12 served (fun t => (ctxAt t 5).isSome) = true ∧
    admitsB (ask 7 0 (toBytes 2 5)) 0x105 served (fun t => (ctxAt t (ofBytes (toBytes 2 5))).isSome) = true ∧
    actsB (ask 1 hCtx []) 0x20 served (fun t => (memGrant 5 ⟨0x40000000, 65536, 65536, 0, 3, false⟩ t).1 == some (zsOk, 0, [])) = true ∧
    actsB (ask 1 hCtx []) 0x21 granted (fun t => (memRelease 5 0x40000000 65536 t).1 == some (zsOk, 0, [])) = true ∧
    actsB (ask 1 hCtx []) 0x22 granted (fun t => vaHeld t 5 (fun l => l.granted && l.mt == 0) 0x40000000 3) = true ∧
    actsB (ask 1 hCtx []) 0x30 served (fun t => (createObject 5 (.channel 0) t).1.any (fun r => r.1 == zsOk)) = true ∧
    actsB (ask 1 hCtx []) 0x31 served (fun t => judgeHandle t (ctxHandle t 5) (handleOf 7 15 1) 7 == zsOk && (slotOf t (handleOf 7 15 1)).owner == ctxHandle t 5)
      = true ∧ hType (handleOf 7 15 1) = 7 ∧
    actsB (ask 1 hCtx []) 0x32 served (fun t => judgeHandle t (ctxHandle t 5) (handleOf 9 0 1) 9 == zsOk &&
      (endpointOf t (handleOf 9 0 1)).any (fun e => mayAdvance t e && !t.heldRoles.any (fun r => r.endpoint == handleOf 9 0 1))) = true ∧
    actsB (ask 1 hCtx []) 0x32 { served with endpoints := [(1, ⟨handleOf 9 0 1, 5, 0, handleOf 2 0 3, 0, 4, some 1⟩)] }
      (fun t => (endpointOf t (handleOf 9 0 1)).any (fun e => !mayAdvance t e)) = true ∧
    actsB (ask 1 hCtx []) 0x33 served (fun t => t.ctxs.any (fun x => x.2.handle == hCtx) && (slotOf t (handleOf 9 0 1)).owner == ctxHandle t 5) = true ∧
    hCtx ≠ 0 := by decide +kernel

theorem witness_ContextRequestsArePerformed_admit :
    admitsB (ask 1 0 admitBody) 0x10 served (fun t => (admitCtx ((boundTo? t 1).getD 0) admitBody t).1.any (fun r => r.1 == zsOk)) = true := by decide +kernel

/-- A request whose context handle is not the partner's, and one on a context in teardown. -/
theorem witness_ContextRequestsArePerformed_refused :
    [0x20, 0x21, 0x22, 0x30, 0x31, 0x32, 0x33].all (fun op =>
      admitsB (ask 1 0 []) op served (fun t => judgeCtx t ((boundTo? t 1).getD 0) 0 != zsOk) &&
      admitsB (ask 1 hCtx []) op (modCtx 5 (fun x => { x with state := .draining }) served) (fun t => judgeCtx t ((boundTo? t 1).getD 0) hCtx == zsOk &&
        !(ctxAt t 5).any (fun x => x.state == .active))) = true ∧
    admitsB (ask 7 0 (toBytes 2 6)) 0x105 served (fun t => (ctxAt t 6).isNone) = true ∧
    (let s := { remote with svc := served.svc, regs := served.regs, windows := [(windowKey 0 1, ⟨handleOf 4 0 1, 5, false, 0xF, 7, 0, 0, 0x1000, 0x10000, 0⟩)],
                            fabric := [⟨77, .get, 0, 1, hCtx, 4, 0, 0x20, 0, 3, .nobody⟩] }
     windowTags s (handleOf 4 0 1)) = [77] := by decide +kernel

/-- ROLE_ASSIGN answers the new epoch, 5; OBJ_DESTROY leaves a stale handle. -/
theorem test_role_and_destroy :
    (endpointOf (after (.roleAssign (ask 1 hCtx []) (handleOf 9 0 1)) served) (handleOf 9 0 1)).map (fun e => e.epoch) = some 5 ∧
    judgeHandle (after (.objDestroy (ask 1 hCtx []) (handleOf 7 15 1)) served) hCtx (handleOf 7 15 1) 7 = zsHandleStale := by decide +kernel

/-- A SERVICE entry, and the package with it at the head of the queue. -/
def svcEntry (op len req loc : Nat) (qpn : Nat) : List Byte :=
  toBytes 1 op ++ zeros 1 ++ toBytes 2 qpn ++ toBytes 4 len ++ toBytes 8 req ++ toBytes 8 loc ++ zeros 40
def svcWorld (e : List Byte) : State := { served with mem := memPut served.mem 0x40200000 e }
def svcTakesB (s : State) (p : SvcJob → State → Bool) : Bool :=
  match tget? s.queues 16385 with
  | none => false
  | some q =>
    match vRead (engAt 1 21) q.ctx (entryVa q q.cons) 64 s with
    | (.ok b, s') =>
      let t := consumeHead q.handle s'
      q.typ == .service && occupancy q != 0 && ctxMayStart s q.ctx && txFits s q.ctx 1 1 && pageEnabled s (svcPage 1) && !serviceBad (bare b) &&
        (svOp (bare b) == 1 || ((boundTo? t 1).isSome && svcState t 1 == 3)) &&
        p ⟨1, ⟨q.handle, q.cons, q.ctx, q.cplQ, svOp (bare b), svQpn (bare b), svLen (bare b), svLocal (bare b)⟩, bare b⟩ t
    | _ => false

theorem takes_of_svcTakesB {s : State} {p : SvcJob → State → Bool} (h : svcTakesB s p = true) : ∃ j t, SvcTakes 1 1 s j t ∧ p j t = true := by
  unfold svcTakesB at h
  split at h
  · cases h
  · rename_i q hq
    split at h
    · rename_i b s' hv
      simp only [Bool.and_eq_true, Bool.or_eq_true, Bool.not_eq_true', bne_iff_ne, ne_eq, beq_iff_eq] at h
      obtain ⟨⟨⟨⟨⟨⟨⟨h1, h2⟩, h3⟩, hx⟩, h4⟩, h5⟩, h6⟩, h7⟩ := h
      exact ⟨_, _, ⟨q, b, s', hq, h1, h2, h3, hx, h4, hv, rfl, h5, h6, rfl⟩, h7⟩
    · cases h

/-- A RoCEv2 frame of the partner for a queue pair. -/
def roceB (port : Nat) (f : Frame) (qpn : Nat) (s : State) (p : State → Bool) : Bool :=
  let s1 := countRx port 1 s
  frameB port f s && !isMgmt port && svcState s1 port == 3 &&
    p (if f.ce then emit (.frame port 9 [(qpOf (zjpHeard port s1) port qpn).elim 0 (fun q => q.peer)] []) (countTx port 1 (zjpHeard port s1))
      else zjpHeard port s1)

theorem roce_of_roceB {port : Nat} {f : Frame} {qpn : Nat} {s : State} {p : State → Bool} (h : roceB port f qpn s p = true) :
    ∃ t, RoceOn port f qpn s t ∧ p t = true := by
  simp only [roceB, Bool.and_eq_true, beq_iff_eq, Bool.not_eq_true'] at h
  exact ⟨_, ⟨_, frame_of_frameB h.1.1.1, h.1.1.2, h.1.2, rfl⟩, h.2⟩

/-- A transfer through queue pair 3 that waits for its acknowledgement. -/
def inFlight (op retries : Nat) : State :=
  modSvc 1 (fun p => { p with runs := [⟨handleOf 2 1 1, 0, 5, 0, op, 3, 4, 0x1000⟩], qps := [⟨3, 9, hCtx, 0, 0, false, retries, 0⟩] }) served

theorem witness_ServiceTrafficCompletes :
    actsB (ask 1 hCtx []) 0x40 served (fun t => decide ((svcOf t 1).qps.length < 1024) && (qpOf t 1 4).isNone) = true ∧
    actsB (ask 1 hCtx []) 0x41 served (fun t => (qpOf t 1 3).any (fun q => q.ctx == hCtx)) = true ∧ actsB (ask 1 hCtx []) 0x42 served (fun _ => true) = true ∧
    actsB (ask 1 hCtx []) 0x43 served (fun t => (svcOf t 1).mrs.any (fun m => m.rkey == 1 && m.ctx == hCtx)) = true ∧
    (let b := toBytes 8 (handleOf 9 0 1).toNat ++ toBytes 2 4 ++ toBytes 2 100 ++ zeros 4 ++ toBytes 8 0xAA
     actsB (ask 1 hCtx b) 0x50 served (fun t => decide ((svcOf t 1).serves.length < 4096) && judgeHandle t (ctxHandle t 5) (handleOf 9 0 1) 9 == zsOk &&
       (judgeEntry (handleOf 9 0 1) 4 (serveEntry t 5 1 40 (b.drop 16)) (serveEntry t 4 1 40 (b.drop 16)) t).1 == zsOk) && b.length == 24) = true ∧
    (svcOf served 1).serves.find? (fun v => v.reqId == 8) = some ⟨8, hCtx, 5, 100⟩ ∧
    [0, 4].all (fun n => svcTakesB (svcWorld (svcEntry 1 n 8 0x1000 0)) (fun j t => svOp j.entry == 1 && svLen j.entry == n &&
      ((svcOf t 1).serves.find? (fun v => v.reqId == svReq j.entry && v.owner == j.run.ctx)).isSome && (svcRead 1 5 0x1000 4 t).1.isOk)) = true ∧
    [2, 3, 4].all (fun op => svcTakesB (svcWorld (svcEntry op 4 0 0x1000 3)) (fun j t => svOp j.entry == op &&
      (qpOf t 1 (svQpn j.entry)).any (fun q => q.ctx == ctxHandle t j.run.ctx && !q.error) && (svcRead 1 5 0x1000 4 t).1.isOk)) = true ∧
    [2, 3].all (fun op => ((svcOf (inFlight op 0) 1).runs.find? (fun r => r.qpn == 3)).any (fun r => r.op == op) &&
      svcState (inFlight op 0) 1 == 3 && (vWrite 1 5 0x1000 (clean (zeros 4)) (inFlight op 0)).1.isNone) = true ∧
    [6, 7].all (fun n => (qpOf (inFlight 2 n) 1 3).any (fun q => q.retries == n && !q.error)) = true ∧
    [false, true].all (fun ce => roceB 1 ⟨0, false, ce⟩ 3 served (fun t => (qpOf t 1 3).any (fun q => q.peerPsn == 0 && serialCmp 0 q.peerPsn 24 == .equal &&
      serialCmp 1 q.peerPsn 24 == .newer && serialCmp 0xFFFFFF q.peerPsn 24 == .older) &&
      inboundCtx t 1 3 1 0x20 8 1 == some 5 && inboundCtx t 1 3 1 0x20 8 0 == some 5 && inboundCtx t 1 3 1 4096 8 0 == none &&
      (inboundWrite 1 5 0x20 (clean (zeros 8)) t).1.isNone && (svcRead 1 5 0x20 8 t).1.isOk)) = true := by decide +kernel

/-- A REPLY answers the SERVE; an inbound write lands in the context's memory. -/
theorem test_reply_and_inbound :
    (after (.reply 1 1) (svcWorld (svcEntry 1 0 8 0 0))).outbox.length = 1 ∧
    memNat (after (.inboundRdmaWrite 1 ⟨plain, 3, 0⟩ 1 0x20 (toBytes 4 0xABCD)) served) 0x40000020 4 = 0xABCD := by decide +kernel

theorem witness_ManagementRequestsArePerformed :
    [0x100, 0x102, 0x106, 0x107].all (fun op => admitsB (ask 7 0 []) op served (fun t => !failedNow t)) = true ∧
    admitsB (ask 7 0 (toBytes 4 0 ++ toBytes 2 16)) 0x101 served (fun _ => true) = true ∧
    [1, 2, 3].all (fun n => admitsB (ask 7 0 (toBytes 1 n)) 0x108 { served with ctxs := [] } (fun t => t.sys.entering.isNone && resetPhase t == 0 && t.sys.power == .on &&
      t.ctxs.isEmpty && decide (twinState t < 2))) = true ∧
    admitsB (ask 7 0 (toBytes 1 3)) 0x108 (modSys (fun y => { y with power := .dormant }) served) (fun t => t.sys.entering.isNone && resetPhase t == 0 &&
      t.sys.power == .dormant) = true ∧
    admitsB (ask 7 0 []) 0x103 served (fun t => t.sys.cfgWrite.isNone) = true ∧
    (modSys (fun y => { y with imageWrite := some (7, 40) }) served).sys.imageWrite = some (7, 40) ∧
    admitsB (ask 1 0 (zeros 64)) 0x60 served (fun _ => true) = true ∧ actsB (ask 1 hCtx (zeros 64)) 0x60 served (fun _ => true) = true ∧
    [0, 3].all (fun m => actsB (ask 1 hCtx (toBytes 1 m ++ toBytes 1 1 ++ zeros 6)) 0x61 served (fun t => !t.suspects.any (fun r => r.ctx == hCtx) &&
      !(tget? t.suspectAt 5).any (fun x => decide (t.time < x + suspectHoldoff t)) && ((liveDies t).filter (fun d => bit m d)).isEmpty == (m == 0))) = true := by
  decide +kernel

/-- A configuration record that the owner's key signs verifies. -/
theorem witness_ManagementRequestsArePerformed_config (key : List Byte) :
    let r : CfgRec := ⟨0x4643535A, 1, Config.deviceId.toNat, 1, key, none, true, [], []⟩
    let s := modSys (fun y => { y with cfgWrite := some (7, 40), cfgs := [some r, none], owner := some (sha512Nat key) }) served
    s.sys.cfgWrite = some (7, 40) ∧ cfgOf s (spareCfg s) = some r ∧ cfgFails s r = none := by
  refine ⟨rfl, rfl, ?_⟩
  simp [cfgFails, modSys, served, setReg]
  decide +kernel
/-! ## Field test, recovery, power, clocks, lands -/

/-- Die 0 tests its loom 2, in a phase and with an outcome. -/
def testing (p : TestPhase) (o : TestOutcome) : State :=
  modChk 0 (fun k => { k with queued := [⟨4, 1⟩, ⟨9, 1⟩], running := [⟨2, 1, p, 0, some 5, o, false⟩] }) up

theorem witness_FieldTestRunsItsPhases :
    dieLive up 0 = true ∧ (leastQueued (chkOf (testing .drain .pass) 0).queued).map (fun q => q.loom) = some 4 ∧
    (chkOf (modChk 0 (fun k => { k with running := [] }) (testing .drain .pass)) 0).running.length < max 1 (bits (reg up (chkPage 0 + Reg.CHK_FT_CFG)) 3 0) ∧
    inReset up = false ∧ [TestPhase.drain, .scan, .march].all (fun p => (testIn (testing p .pass) 2 p).isSome) = true ∧
    drained (testing .drain .pass) 2 false = true ∧ loomSplit up 2 = false ∧
    (testIn (testing .march .repaired) 2 .march).any (fun r => r.outcome == .repaired && r.defect == some 5) = true ∧
    [TestPhase.outcome, .repair].all (fun p => (((chkOf (testing p .repaired) 0).running.find? (fun r => r.loom == 2 % 32 && (r.phase == .outcome ||
      r.phase == .repair))).isSome)) = true := by decide +kernel

/-- A repair that does not verify retires the loom. -/
theorem test_retire : bit (reg (after (.ftOutcome 2 false) (testing .repair .repaired)) (twlPage 2 1 + Reg.TWL_REPAIR_STAT)) 9 = true := by decide +kernel

/-- The package in a phase of a reset; one that has failed; one whose detectors all run. -/
def resetting (phase : Nat) : State := modSys (fun y => { y with startKind := 1 }) (setPhase phase up)
def failedPkg : State := modSys (fun y => { y with failed := true }) up
def watched : State :=
  setReg (dryPage + Reg.DRY_WD_EN) 0xF (modLoom 0 (fun l => { l with leaseWest := some ⟨5, 4, 1, 0⟩ }) (setReg (linkPage 0 + Reg.RVL_PORT_STATE) 4 (about 3 [])))

theorem witness_TriggersStartOneReset :
    up.sys.power = .on ∧ up.sys.entering = none ∧ resetPhase (resetting 4) = 4 ∧ resetPhase failedPkg = 0 ∧ failedPkg.sys.failed = true ∧
    up.sys.clocksOff = false ∧ up.sys.failed = false ∧ stormCount up + 1 < stormLimit up ∧
    (let s := modSys (fun y => { y with resets := [0, 0, 0, 0, 0, 0, 0, 0, 0, 0, 0, 0, 0, 0, 0, 0] }) up; stormLimit s ≤ stormCount s + 1) ∧ failedNow up = false ∧
    [0, 1, 2, 3].all (detectorOn watched) = true ∧ dieLive watched 0 = true ∧
    reg up (dryPage + Reg.DRY_WD_CORE) ≤ ({ watched with time := 2 ^ 40 } : State).time - tgetD watched.sys.kicks 0 0 ∧ portUp watched 0 = true ∧
    (loomOf watched 0).stopped = false ∧ (leaseOf watched 0 false).isSome = true ∧ (halfSkeins watched 0 false).map (fun x => x.1) = [3] ∧
    (loomOf watched 0).preemptWest = .none ∧ inReset watched = false ∧
    (let s := modLoom 0 (fun l => { l with wdWest := true, west := { l.west with subs := [⟨1, 5, [], 7, 3, 0⟩] } }) watched
     (loomOf s 0).wdWest = true ∧ drained s 0 false = false) ∧
    (let s := modSys (fun y => { y with clocksOff := true }) up; s.sys.clocksOff = true ∧ resetPhase s = 0 ∧ s.sys.failed = false) := by decide +kernel

/-- RST_N starts phase 1 with trigger 6 and raises INCARNATION. -/
theorem test_rst_n : let t := after .rstN up
    resetPhase t = 1 ∧ bits (reg t (dryPage + Reg.DRY_STATUS)) 15 8 = 6 ∧ incarnation t = 1 := by decide +kernel

theorem witness_ResetPhasesRunInOrder :
    [1, 2, 3, 4, 5, 6, 7, 8].all (fun n => resetPhase (resetting n) == n && !(resetting n).sys.clocksOff && !(resetting n).sys.rstLow &&
      (resetting n).sys.pull.isNone && (resetting n).sys.startKind == 1) = true ∧
    (pageOf (dryPage + 0x40)).any (fun p => (tget? (resetting 2).sys.noResp p.addr).isNone) = true ∧ (resetting 2).sys.cut = none := by decide +kernel

theorem test_phases : resetPhase (after (.recoveryPhaseComplete []) (resetting 1)) = 2 ∧ resetPhase (after (.recoveryPhaseComplete []) (resetting 8)) = 0 := by
  decide +kernel

theorem witness_ResetKeepsSurvivorsAndDiscardsObjects :
    inSurvivor { up with survivors := [(0, (0, 1, true))] } (100 / 128 * 128) = true ∧
    (tget? tenant.slots (slotKey 1 15 5)).any (fun sl => sl.live && !sl.retired && decide (sl.gen + 1 < 0xFFFFFF)) = true := by decide +kernel

/-- The package in a power phase. -/
def powered (p : PowerPhase) : State := modSys (fun y => { y with power := p }) up
def entering (n : Nat) : State := modSys (fun y => { y with entering := some ⟨n, 7, 40, false⟩ }) up

theorem witness_PowerCommandsComplete :
    up.sys.power ≠ .off ∧ State.reset.sys.power = .off ∧ (powered (.seq 3)).sys.rstLow = false ∧ (powered (.seq 3)).sys.startKind = 0 ∧
    bootPhase (powered (.boot 2)) = none ∧ [1, 2].all (fun n => (entering n).sys.entering == some ⟨n, 7, 40, false⟩) = true ∧
    (powered .dormant).sys.power = .dormant ∧ (powered .dormant).sys.entering = none ∧ dieIdle up 0 = true ∧ failedNow up = false ∧
    (115 : Nat) ≤ 115 ∧ (39999 : Nat) < 40000 := by decide +kernel

/-- At the throttle temperature the gate takes one step; low input voltage gates at least half. -/
theorem test_gates :
    (gateOf (after (.thermalGateStep 0 (bits (reg up (pwrPage + Reg.PWR_THROT_TEMP)) 7 0)) up) 0).thermal = 1 ∧
    gateLevel (gateOf (after (.vinLowGate 39999 0) up) 1) = 32 ∧ gateLevel (gateOf (after (.vinLowGate 40000 40) up) 1) = 0 := by decide +kernel

/-- A comparator with a mode, a sensor and a value. -/
def compared (mode sensor value period : Nat) (armed : Bool) : State :=
  modCmp 2 (fun _ => ⟨mode, sensor, 0, 0, 3, false, value, period, armed⟩) { up with time := 1000 }

theorem witness_ClockCommandsComplete :
    (let c := cmpOf (compared 1 0 1000 0 true) 2; c.mode = 1 ∧ c.armed = true ∧ c.value ≤ 1000 ∧ c.owner ≠ 2 ∧ bit c.actions 0 = false ∧ c.period = 0) ∧
    (cmpOf (compared 1 0 1000 7 true) 2).period ≠ 0 ∧
    (let s := compared 2 9 38000 0 true; sensorLive s (cmpOf s 2) = true ∧ cmpMet s (cmpOf s 2) 38000 = true) ∧
    (let s := compared 2 9 38000 0 false; (cmpOf s 2).armed = false ∧ cmpRearms (cmpOf s 2) 37999 = true) ∧
    (cmpOf up (bits (reg up (bntPage + Reg.BNT_CMP_SEL)) 2 0)).owner < 2 ∧ ppsOn up = false ∧
    ppsOn (setReg (bntPage + Reg.BNT_PPS) 0x80000000 up) = true ∧ up.sys.ppsLast = none ∧
    bits (reg (setReg (bntPage + Reg.BNT_DISC) 2 up) (bntPage + Reg.BNT_DISC)) 1 0 ≠ 0 := by decide +kernel

/-- A periodic comparator re-arms past now: 1,000 + 7; one without a period goes OFF. -/
theorem test_comparator : (cmpOf (after (.comparatorFire 2 0) (compared 1 0 1000 7 true)) 2).value = 1007 ∧
    (cmpOf (after (.comparatorFire 2 0) (compared 1 0 1000 0 true)) 2).mode = 0 := by decide +kernel

/-- A pull with a read of offset 0 outstanding. -/
def pulling (h : Option (List Byte)) (n : Nat) : State := modSys (fun y => { y with pull := some ⟨7, 1, h, [], [(0, n)]⟩ }) (powered (.boot 3))

theorem witness_LandsAndPullComplete :
    serialOn up = true ∧ smbReadable 0x1000040 = true ∧ (pageOf (ctlBase 15 + 0x1000040)).isSome = true ∧ smbReadable 0x2000000 = false ∧
    smbAlert (setPend bntPage 1 (setReg (bntPage + hdrMask) 0 up)) = true ∧ tapOn up = true ∧ up.sys.dbgEnds ≤ up.time ∧
    twinRole (setReg (twinPage up + Reg.CAD_TWIN_CFG) 1 up) ≠ 0 ∧ twinState (setReg (twinPage up + Reg.CAD_TWIN_STATE) 2 up) = 2 ∧
    (pulling none 0).sys.pull.any (fun p => p.header.isNone) = true ∧
    [19, 20].all (fun n => (pulling (some []) n).sys.pull.any (fun p => p.header == some [] && tget? p.reads (4096 - 4096) == some n)) = true ∧
    ([] : List Byte).length = min 1024 (hLength [] - 0) := by decide +kernel

/-- An authorisation of this device with the nonce shown is accepted. -/
theorem witness_LandsAndPullComplete_auth :
    authJudged up ⟨Config.deviceId.toNat, reg up (orsPage + Reg.ORS_DBG_NONCE), 1, 100, 0, true⟩ = (zsOk, 0) := by
  simp [authJudged]
  decide +kernel

theorem test_idcode : (after .idcode up).outbox = [.serial 0x18820B4F] ∧ (after (.ptr 0x1000043) up).sys.smbPtr = 0x1000040 := by decide +kernel

/-! ## Register pages -/

def pwrRef : PageRef := (pageOf pwrPage).getD ⟨.pwr, 15, 0, 0⟩

theorem witness_PageAccessesComplete :
    pageOf pwrPage = some pwrRef ∧ pageServed up pwrRef = true ∧
    ownerIs (setReg (loomPage 0 + hdrOwner) (2 ^ 31 + 5) up) ((pageOf (loomPage 0)).getD pwrRef) 5 = true ∧ 5 < firmwareFrom ∧
    (rowCovering pwrRef Reg.PWR_LIMIT).any (fun r => r.off == Reg.PWR_LIMIT && !r.w64) = true ∧
    ((pageOf (bntPage)).bind (fun p => rowCovering p Reg.BNT_TIME)).any (fun r => r.off == Reg.BNT_TIME && r.w64) = true ∧
    (after (.lowWordWrite 4096 (bntPage + Reg.BNT_TIME) 5) up).heldLow.any (fun h => h.val == 5) = true ∧
    (setPend pwrPage 1 (setReg (pwrPage + hdrMask) 0 up)).intRaised.contains pwrPage = true := by decide +kernel

/-- LOW then HIGH word of one value: BNT_TIME is 2^32 + 7. -/
theorem test_low_high : (after (.highWordRead 4096 (bntPage + Reg.BNT_TIME + 4)) (after (.lowWordRead 4096 4 (bntPage + Reg.BNT_TIME)) { up with time := 2 ^ 32 + 7 })).outbox
    = [.read 7, .read 1] := by decide +kernel

theorem witness_RegisterBitsFollowTheirAccessTypes :
    (rowCovering pwrRef Reg.PWR_THROT_TEMP).any (fun r => (ownWrite pwrRef r 5 up).isNone && decide (0x40 ≤ r.off)) = true := by decide +kernel

/-! ## The machine, memory, handles -/

theorem witness_StepRunsTheFrontCommand : ({ up with pending := [.rstNRelease, .idcode] } : State).pending = .rstNRelease :: [.idcode] := rfl

theorem witness_EmptyQueuePassesOneReferenceCycle :
    State.reset.pending = [] ∧ refRuns State.reset = false ∧ up.pending = [] ∧ refRuns (setReg (clkPage + Reg.CLK_STATUS) 1 up) = true := by decide +kernel

theorem witness_EveryStepKeepsMemoryCanonical : mapped.mem.wf = true ∧ State.reset.mem.wf = true := by decide +kernel

theorem witness_EveryStepKeepsOrder :
    ∃ t, step { up with pending := [.idcode] } = .next t := ⟨after .idcode { up with pending := [] }, rfl⟩

theorem witness_LineWritesStoreTheirBytes :
    isChecked mapped 0x90000000 = false ∧ 0xFFFF < 256 ^ 2 ∧ isChecked { mapped with checked := [0x9000] } 0x90000000 = true := by decide +kernel

/-- A two-byte store is least significant byte first, and leaves the byte after it. -/
theorem test_line_write : let t := lineWrite 0x90000000 (toBytes 2 0xABCD) mapped
    memNat t 0x90000000 1 = 0xCD ∧ memNat t 0x90000001 1 = 0xAB ∧ memByte t.mem 0x90000002 = memByte mapped.mem 0x90000002 := by decide +kernel

theorem witness_HandlesNameOneCreation :
    typeRange 9 = some (16384, false) ∧ dieLive up 1 = true ∧ hCtx ≠ 0 ∧ (tgetD up.slots (slotKey 9 1 4095) .fresh).retired = false ∧
    (tgetD up.slots (slotKey 9 1 4095) .fresh).gen + 1 < 2 ^ 24 ∧ typeRange 1 = some (4096, true) := by decide +kernel

/-- Half the circle apart is stale; one less is newer. -/
theorem test_serial : serialCmp 0x8000 0 16 = .stale ∧ serialCmp 0x7FFF 0 16 = .newer ∧ serialCmp 0 1 32 = .older ∧ serialCmp 1 1 1 = .equal := by decide

/-- Lines 4 to 7 lie in the second group; line 256 lies on stack 1. -/
theorem test_line_places : lineGroup 4 = 1 ∧ lineStack 256 = 1 ∧ lineInGroup 24 = 1 ∧ lineOf 1 0 0 = 1 := by decide

theorem witness_LoadsAndStoresTouchTheirBytes :
    [word 0x20 4 64 0 0 3 3 0 32 0, word 0x20 4 64 0 0 3 3 0 32 32].all (fun w => issuesB (0x20 * 8) (about 3 [w]) (memoryGoes .read)) = true ∧
    [word 0x21 255 64 0 9 3 3 3 32 0, word 0x21 255 64 0 9 3 3 3 32 32].all (fun w => issuesB (0x21 * 8) (about 3 [w]) (memoryGoes .write)) = true := by
  decide +kernel

/-! ## Ill-formed commands are refused, one for each check of WellFormed -/

theorem test_refused_die : WellFormed (.schQuantum 8) = false ∧ WellFormed (.schQuantum 7) = true := by decide
theorem test_refused_loom : WellFormed (.go 256) = false ∧ WellFormed (.go 255) = true := by decide
theorem test_refused_skein : WellFormed (.lcvCompletion 0 64 0) = false ∧ WellFormed (.lcvCompletion 0 63 0) = true := by decide
theorem test_refused_thread : WellFormed (.yieldExpiry 0 0 32) = false ∧ WellFormed (.yieldExpiry 0 0 31) = true := by decide
theorem test_refused_who : WellFormed (.ialu ⟨0, 64, 0⟩) = false ∧ WellFormed (.ialu who) = true := by decide
theorem test_refused_link : WellFormed (.idle 36) = false ∧ WellFormed (.idle 35) = true := by decide
theorem test_refused_service_port : WellFormed (.partnerTimeout 0) = false ∧ WellFormed (.partnerTimeout 9) = false ∧
    WellFormed (.partnerTimeout 8) = true := by decide
theorem test_refused_management_port : WellFormed (.pullNak 6 0) = false ∧ WellFormed (.pullNak 7 0) = true := by decide
theorem test_refused_pair : WellFormed (.openBypass 18) = false ∧ WellFormed (.openBypass 17) = true := by decide
theorem test_refused_slot : WellFormed (.copy 0 16384) = false ∧ WellFormed (.copy 0 16383) = true := by decide
theorem test_refused_context : WellFormed (.teardownComplete 4096) = false ∧ WellFormed (.teardownComplete 4095) = true := by decide
theorem test_refused_group : WellFormed (.readySend 1024) = false ∧ WellFormed (.readySend 1023) = true := by decide
theorem test_refused_stack : WellFormed (.rebuildComplete 0 4) = false ∧ WellFormed (.rebuildComplete 0 3) = true := by decide
theorem test_refused_comparator : WellFormed (.comparatorFire 8 0) = false ∧ WellFormed (.comparatorFire 7 0) = true := by decide
theorem test_refused_core : WellFormed (.coreWdTimeout 0 4) = false ∧ WellFormed (.coreWdTimeout 0 3) = true := by decide
theorem test_refused_lane : WellFormed (.lossOfSignal 0 8) = false ∧ WellFormed (.lossOfSignal 0 7) = true := by decide
theorem test_refused_mask : WellFormed (.dryCoreKick (2 ^ 32)) = false ∧ WellFormed (.dryCoreKick (2 ^ 32 - 1)) = true := by decide
theorem test_refused_address : WellFormed (.lock 4096 (2 ^ 52)) = false ∧ WellFormed (.lock 4096 pwrPage) = true := by decide +kernel
theorem test_refused_packet : WellFormed (.put 0 { memPacket opPut 0 0 [] with body := zeros 4145 }) = false ∧
    WellFormed (.put 0 (memPacket opPut 0 0 [])) = true := by decide +kernel
theorem test_refused_request : WellFormed (.ping (ask 9 0 [])) = false ∧ WellFormed (.ping (ask 8 0 [])) = true := by decide
theorem test_refused_arrival : WellFormed (.put 37 (memPacket opPut 0 0 [])) = false ∧ WellFormed (.put 36 (memPacket opPut 0 0 [])) = true := by decide +kernel
theorem test_refused_frame : WellFormed (.neighbourDiscovery 1 ⟨4096, false, false⟩ 0) = false ∧ WellFormed (.neighbourDiscovery 1 ⟨4095, false, false⟩ 0) = true := by decide
theorem test_refused_head : WellFormed (.silAck 0 (memPacket opSilAck 0 0 [1]) []) = false ∧
    WellFormed (.silAck 0 { memPacket opSilAck 0 0 [] with body := [] } [1]) = true := by decide +kernel
theorem test_refused_psn : WellFormed (.inboundRdmaRead 1 ⟨plain, 3, 2 ^ 24⟩ 1 0 8) = false ∧ WellFormed (.inboundRdmaRead 1 ⟨plain, 3, 2 ^ 24 - 1⟩ 1 0 8) = true := by decide

/-- A packet with every header field in use, as bytes and back; W0 of it written out from Table R329. -/
theorem test_packet_bytes :
    let p : Packet := ⟨0x1234, 0x5678, 2, 5, true, false, 0xABCDEF, 0x9876, 0x1357, 0x20, 0xCAFEF00D, 0x123456, 0x5A, 0xABC, 7, 0x2FFF, 0x654321,
      0xA5, 0, toBytes 8 0x1122334455667788⟩
    pktOf (pktBytes p) = some p ∧ (pktBytes p).length = 64 ∧ bytesAt (pktBytes p) 0 8 = 0x00010D0256781234 := by decide +kernel

/-- One reference cycle is one tick of base-note time where RATE is 0. -/
theorem test_tick : (match step (setReg (clkPage + Reg.CLK_STATUS) 1 up) with | .next t => (t.time, t.refCount) | _ => (0, 0)) = (1, 1) := by decide +kernel

end Sys2Proof.Tests
end

section
/-! PROOF. Serial comparison of wrapping counters (R30): the distance on which the model branches is the integer difference modulo `2^w`,
and each outcome belongs to one range of it. -/

namespace Sys2Proof.Machine

/-- The distance `(a - b) mod 2^w` on which serial comparison branches (R30), as the model computes it. -/
def serialDistance (a b w : Nat) : Nat := (a + 2 ^ w - b % 2 ^ w) % 2 ^ w

/-- Every outcome of serial comparison with the range of distances that gives it: the branches of R30's pseudocode. -/
theorem serialCmp_cases (a b w : Nat) :
    (serialDistance a b w = 0 ∧ serialCmp a b w = .equal) ∨
    (0 < serialDistance a b w ∧ serialDistance a b w < 2 ^ (w - 1) ∧ serialCmp a b w = .newer) ∨
    (serialDistance a b w = 2 ^ (w - 1) ∧ serialCmp a b w = .stale) ∨
    (2 ^ (w - 1) < serialDistance a b w ∧ serialCmp a b w = .older) := by
  have hcmp : serialCmp a b w = if serialDistance a b w == 0 then .equal else if serialDistance a b w < 2 ^ (w - 1) then .newer
      else if serialDistance a b w == 2 ^ (w - 1) then .stale else .older := rfl
  rcases Nat.eq_zero_or_pos (serialDistance a b w) with h0 | hpos
  · exact .inl ⟨h0, by simp [hcmp, h0]⟩
  rcases Nat.lt_trichotomy (serialDistance a b w) (2 ^ (w - 1)) with hlt | heq | hgt
  · exact .inr (.inl ⟨hpos, hlt, by simp [hcmp, hpos.ne', hlt]⟩)
  · exact .inr (.inr (.inl ⟨heq, by simp [hcmp, heq]⟩))
  · exact .inr (.inr (.inr ⟨hgt, by simp [hcmp, hpos.ne', hgt.ne', hgt.not_gt]⟩))

/-- Each outcome of serial comparison belongs to exactly one range of distances: the four ranges exclude each other. -/
theorem serialCmp_eq_iff (a b w : Nat) :
    (serialCmp a b w = .equal ↔ serialDistance a b w = 0) ∧
    (serialCmp a b w = .newer ↔ 0 < serialDistance a b w ∧ serialDistance a b w < 2 ^ (w - 1)) ∧
    (serialCmp a b w = .stale ↔ serialDistance a b w = 2 ^ (w - 1)) ∧
    (serialCmp a b w = .older ↔ 2 ^ (w - 1) < serialDistance a b w) := by
  have hhalf : 0 < 2 ^ (w - 1) := Nat.two_pow_pos (w - 1)
  rcases serialCmp_cases a b w with ⟨h0, hc⟩ | ⟨hpos, hlt, hc⟩ | ⟨heq, hc⟩ | ⟨hgt, hc⟩
  · simp [hc, h0, hhalf.ne]
  · simp [hc, hpos, hpos.ne', hlt, hlt.ne, hlt.le]
  · simp [hc, heq]
  · simp [hc, hgt, hgt.ne', hgt.le, (hhalf.trans hgt).ne']

/-- The model's truncated subtraction never borrows, so its distance is the integer difference modulo `2^w`. -/
theorem cast_serialDistance (a b w : Nat) : (serialDistance a b w : Int) = ((a : Int) - b) % 2 ^ w := by
  have hb : b % 2 ^ w ≤ a + 2 ^ w := (Nat.mod_lt b (Nat.two_pow_pos w)).le.trans (Nat.le_add_left _ a)
  calc (serialDistance a b w : Int)
      = ((a : Int) + 2 ^ w - (b : Int) % 2 ^ w) % 2 ^ w := by simp [serialDistance, Nat.cast_sub hb]
    _ = ((a : Int) - b + 2 ^ w) % 2 ^ w := by rw [Int.sub_emod_emod, sub_add_eq_add_sub]
    _ = ((a : Int) - b) % 2 ^ w := Int.add_emod_right _ _

/-- Distance 0 is congruence modulo `2^w`, which is equality for values of `w` bits. -/
theorem serialDistance_eq_zero_iff {a b w : Nat} (ha : a < 2 ^ w) (hb : b < 2 ^ w) : serialDistance a b w = 0 ↔ a = b := by
  calc serialDistance a b w = 0
      ↔ ((a : Int) - b) % (2 ^ w : Nat) = 0 := by rw [← Int.natCast_eq_zero, cast_serialDistance]; push_cast; rfl
    _ ↔ a ≡ b [MOD 2 ^ w] := by rw [← Int.emod_eq_emod_iff_emod_sub_eq_zero, ← Int.natCast_modEq_iff]; rfl
    _ ↔ a = b := ⟨fun h => h.eq_of_lt_of_lt ha hb, fun h => h ▸ rfl⟩

/-- Settles O10: the four ranges of the model's distance give the four outcomes, and that distance is the statement's
integer one. -/
theorem serialComparisonFollowsDistance : Obligations.SerialComparisonFollowsDistance := by
  intro a b w _ _ ha hb
  obtain ⟨hequal, hnewer, hstale, holder⟩ := serialCmp_eq_iff a b w
  rw [← cast_serialDistance a b w]
  exact ⟨hequal.trans (serialDistance_eq_zero_iff ha hb), by exact_mod_cast hnewer, by exact_mod_cast hstale,
    by exact_mod_cast holder⟩

end Sys2Proof.Machine
end

section
/-! PROOF. The amax history (R151, R153): what a push does to a conversion channel, and the history a channel then reads back. -/

namespace Sys2Proof.Machine

/-- Reading a padded list after a write at one index: where the list was too short, the padding reads as the default. -/
theorem getD_lset {α : Type} (l : List α) (i j : Nat) (d v : α) : (lset l i d v).getD j d = if j = i then v else l.getD j d := by
  induction l, i using lset.induct generalizing j with
  | case1 => cases j <;> simp [lset]
  | case2 i ih =>
    cases j with
    | zero => simp [lset]
    | succ j => simpa [lset] using ih j
  | case3 => cases j <;> simp [lset]
  | case4 x r i ih =>
    cases j with
    | zero => simp [lset]
    | succ j => simpa [lset] using ih j

/-! ## The channel after a push -/

/-- A channel whose ring has taken an entry (R153). -/
def ConvChan.pushed (ch : ConvChan) (a : Nat) : ConvChan :=
  { ch with hist := lset ch.hist ch.next 0 a, next := (ch.next + 1) % 16, count := min 16 (ch.count + 1) }

/-- A channel that has counted a non-finite amax (R151). -/
def ConvChan.nonfinCounted (ch : ConvChan) : ConvChan := { ch with nonfin := sat32 (ch.nonfin + 1) }

theorem tget?_modConv (h : Word) (f : ConvChan → ConvChan) (s : State) :
    tget? (modConv h f s).conv (convKey h) = (tget? s.conv (convKey h)).map f := tget?_tupd_self s.conv (convKey h) f

theorem amaxJump_conv (die c : Nat) (s : State) : (amaxJump die c s).conv = s.conv := by simp [amaxJump]

/-- A finite amax enters the ring, whether or not it also counts as a jump. -/
theorem tget?_pushAmax_some (die c a : Nat) (h : Word) (s : State) :
    tget? (pushAmax die c h (some a) s).conv (convKey h) = (tget? s.conv (convKey h)).map (·.pushed a) := by
  simp only [pushAmax, tget?_modConv]
  split
  · rw [amaxJump_conv]; rfl
  · rfl

/-- A non-finite amax only counts. -/
theorem tget?_pushAmax_none (die c : Nat) (h : Word) (s : State) :
    tget? (pushAmax die c h none s).conv (convKey h) = (tget? s.conv (convKey h)).map ConvChan.nonfinCounted := by
  simp only [pushAmax, amaxJump_conv, tget?_modConv]
  rfl

/-! ## The ring read oldest first -/

theorem getD_pushed_hist_self (ch : ConvChan) (a : Nat) : (ch.pushed a).hist.getD ch.next 0 = a :=
  (getD_lset ch.hist ch.next ch.next 0 a).trans (if_pos rfl)

theorem getD_pushed_hist_ne (ch : ConvChan) (a : Nat) {i : Nat} (h : i ≠ ch.next) : (ch.pushed a).hist.getD i 0 = ch.hist.getD i 0 :=
  (getD_lset ch.hist ch.next i 0 a).trans (if_neg h)

/-- A full ring read from its next entry on. -/
theorem histList_of_full {ch : ConvChan} (hfull : ch.count = 16) :
    histList ch = (List.range 16).map (fun i => ch.hist.getD ((ch.next + i) % 16) 0) := by
  simp [histList, hfull]

/-- A ring that has not wrapped past its start lies in index order, also when it has just become full. -/
theorem histList_of_next_eq_count_mod {ch : ConvChan} (hcount : ch.count ≤ 16) (hnext : ch.next = ch.count % 16) :
    histList ch = (List.range ch.count).map (fun i => ch.hist.getD i 0) := by
  rcases hcount.lt_or_eq with hlt | hfull
  · simp [histList, hlt]
  · rw [histList_of_full hfull, hfull]
    refine List.map_congr_left fun i hi => ?_
    have hi : i < 16 := List.mem_range.mp hi
    rw [show (ch.next + i) % 16 = i by omega]

/-- A ring with room keeps its entries and gains the new one. -/
theorem histList_pushed_of_not_full {ch : ConvChan} (a : Nat) (hlt : ch.count < 16) (hnext : ch.next = ch.count) :
    histList (ch.pushed a) = histList ch ++ [a] := by
  have hcount : (ch.pushed a).count = ch.count + 1 := Nat.min_eq_right hlt
  have hwrap : (ch.pushed a).next = (ch.pushed a).count % 16 := by rw [hcount, ← hnext]; rfl
  rw [histList_of_next_eq_count_mod (hcount.trans_le hlt) hwrap, hcount,
    histList_of_next_eq_count_mod hlt.le (by omega), List.range_succ, List.map_append]
  congr 1
  · refine List.map_congr_left fun i hi => ?_
    have hi : i < ch.count := List.mem_range.mp hi
    exact getD_pushed_hist_ne ch a (by omega)
  · rw [List.map_singleton, ← hnext, getD_pushed_hist_self]

/-- A full ring gives its oldest entry, the one at HIST_NEXT, for the new one. -/
theorem histList_pushed_of_full {ch : ConvChan} (a : Nat) (hfull : ch.count = 16) (hnext : ch.next < 16) :
    histList (ch.pushed a) = (histList ch).drop 1 ++ [a] := by
  have hcount : (ch.pushed a).count = 16 := by simp [ConvChan.pushed, hfull]
  have hadv : (ch.pushed a).next = (ch.next + 1) % 16 := rfl
  have hold : (histList ch).drop 1 = (List.range 15).map (fun i => ch.hist.getD ((ch.next + (i + 1)) % 16) 0) := by
    rw [histList_of_full hfull, List.range_succ_eq_map, List.map_cons, List.drop_one, List.tail_cons, List.map_map]
    rfl
  rw [histList_of_full hcount, List.range_succ, List.map_append, hold, hadv]
  congr 1
  · refine List.map_congr_left fun i hi => ?_
    have hi : i < 15 := List.mem_range.mp hi
    rw [getD_pushed_hist_ne ch a (by omega), show ((ch.next + 1) % 16 + i) % 16 = (ch.next + (i + 1)) % 16 by omega]
  · have hlast : ((ch.next + 1) % 16 + 15) % 16 = ch.next := by omega
    rw [List.map_singleton, hlast, getD_pushed_hist_self]

/-- What a push makes of the history: a full ring loses its oldest entry, and the new entry is the youngest. -/
theorem histList_pushed {ch : ConvChan} (a : Nat) (hnext : ch.next < 16) (hcount : ch.count ≤ 16) (hroom : ch.count < 16 → ch.next = ch.count) :
    histList (ch.pushed a) = (if ch.count = 16 then (histList ch).drop 1 else histList ch) ++ [a] := by
  split
  · next hfull => exact histList_pushed_of_full a hfull hnext
  · next hne =>
    have hlt : ch.count < 16 := hcount.lt_of_ne hne
    exact histList_pushed_of_not_full a hlt (hroom hlt)

/-- Until the ring is full its next entry stays the one after its last. -/
theorem pushed_next_eq_count {ch : ConvChan} (a : Nat) (hroom : ch.count < 16 → ch.next = ch.count) (hlt : (ch.pushed a).count < 16) :
    (ch.pushed a).next = (ch.pushed a).count := by
  simp only [ConvChan.pushed] at hlt ⊢
  have hnext : ch.next = ch.count := hroom (by omega)
  omega

/-- An amax that is pushed is finite: `amaxBits` gives none for every other code (R151, R153). -/
theorem finite_of_amaxBits {l : List Val} {a : Nat} (h : amaxBits l = some a) : (fp32 a).isNan = false ∧ (fp32 a).isInf = false := by
  simp only [amaxBits] at h
  split at h
  · cases h
  · split at h
    · cases h
    · next hfinite =>
      cases h
      simpa using hfinite

/-- Settles O37: a push makes `ConvChan.pushed` of the channel, whose ring reads as the statement says. -/
theorem historyIsARingOfSixteen : Obligations.HistoryIsARingOfSixteen := by
  intro s die c h ch hch hnext hcount hroom
  refine ⟨fun a => ⟨ch.pushed a, ?_, getD_pushed_hist_self ch a, fun i hi => getD_pushed_hist_ne ch a hi, rfl, rfl,
    pushed_next_eq_count a hroom, histList_pushed a hnext hcount hroom⟩,
    ⟨ch.nonfinCounted, ?_, rfl, rfl, rfl⟩, fun _ _ => finite_of_amaxBits⟩
  · simp [tget?_pushAmax_some, hch]
  · simp [tget?_pushAmax_none, hch]

end Sys2Proof.Machine
end

section
/-! PROOF. The machine: every command goes on and keeps memory's form, the queue's rest and what has left; so every step and every run do. -/

namespace Sys2Proof.Machine

/-! ## One step -/

/-- No command's meaning ends in a fault or a refusal: each is `.next` of a state. -/
theorem exec_goes (c : Instr) (s : State) : ∃ t, exec c s = .next t := by
  cases c <;> exact ⟨_, rfl⟩

theorem step_of_pending {s : State} {c : Instr} {r : List Instr} (h : s.pending = c :: r) : step s = exec c { s with pending := r } := by
  simp only [step, h]

theorem step_of_idle {s : State} (h : s.pending = []) : step s = .next (tick s) := by simp only [step, h]

/-- Settles O1: the arm of `step` for a command that waits. -/
theorem stepRunsTheFrontCommand : Obligations.StepRunsTheFrontCommand := fun _ _ _ => step_of_pending

/-- Settles O3, by the arms of `exec`. -/
theorem everyCommandGoesOn : Obligations.EveryCommandGoesOn := exec_goes

theorem tget?_tmapv {α : Type} (t : Tab α) (f : Nat → α → α) (k : Nat) : tget? (tmapv t f) k = (tget? t k).map (f k) := by
  induction t with
  | nil => rfl
  | cons p r ih =>
    obtain ⟨j, v⟩ := p
    have ih : tget? (r.map fun p => (p.1, f p.1 p.2)) k = (tget? r k).map (f k) := ih
    simp only [tmapv, List.map_cons, tget?, ih]
    split
    · next h => subst h; rfl
    · split <;> rfl

theorem addTime_total (n : Int) (s : State) :
    ((addTime n s).time * 2 ^ 32 + (addTime n s).frac : Int) = max 0 ((s.time * 2 ^ 32 + s.frac : Int) + n) := by
  simp only [addTime]
  omega

/-- Settles O2: the reference cycle that an empty queue passes, part by part. -/
theorem emptyQueuePassesOneReferenceCycle : Obligations.EmptyQueuePassesOneReferenceCycle := by
  intro s hs
  refine ⟨fun hstop => by simp [step_of_idle hs, tick, hstop], fun hrun => ⟨_, step_of_idle hs, ?_⟩⟩
  simp only [tick, hrun, Bool.not_true, Bool.false_eq_true, if_false]
  refine ⟨rfl, rfl, ?_, Nat.mod_lt _ (Nat.two_pow_pos 32), fun d g hg => ?_⟩
  · rw [Int.add_assoc]
    exact addTime_total _ { s with refCount := (s.refCount + 1) % 2 ^ 64 }
  · exact (tget?_tmapv s.sys.gates (fun d g => if dieLive s d then { g with cycles := (g.cycles + 21 * gateLevel g) % 2 ^ 70 } else g) d).trans
      (congrArg _ hg)

/-! ## What every command keeps -/

/-- What every command keeps, by the lemma on its own meaning (the arms are in the order of the opcode table). -/
theorem keeps_exec {c : Instr} {z s t : State} (hz : Keeps z s) (he : exec c s = .next t) : Keeps z t := by
  cases c with
  | nop _ => exact keeps_execNop hz he
  | ialu _ => exact keeps_execIalu hz he
  | ishf _ => exact keeps_execIshf hz he
  | imul _ => exact keeps_execImul hz he
  | icmp _ => exact keeps_execIcmp hz he
  | ibit _ => exact keeps_execIbit hz he
  | imov _ => exact keeps_execImov hz he
  | plop _ => exact keeps_execPlop hz he
  | vote _ => exact keeps_execVote hz he
  | lxch _ => exact keeps_execLxch hz he
  | fadd _ => exact keeps_execFadd hz he
  | fmul _ => exact keeps_execFmul hz he
  | ffma _ => exact keeps_execFfma hz he
  | fmnmx _ => exact keeps_execFmnmx hz he
  | fcmp _ => exact keeps_execFcmp hz he
  | fcvt _ => exact keeps_execFcvt hz he
  | amax _ => exact keeps_execAmax hz he
  | sfu _ => exact keeps_execSfu hz he
  | ld _ => exact keeps_execLd hz he
  | st _ => exact keeps_execSt hz he
  | atom _ => exact keeps_execAtom hz he
  | red _ => exact keeps_execRed hz he
  | fence _ => exact keeps_execFence hz he
  | fenceI _ => exact keeps_execFenceI hz he
  | bra _ => exact keeps_execBra hz he
  | brx _ => exact keeps_execBrx hz he
  | call _ => exact keeps_execCall hz he
  | ret _ => exact keeps_execRet hz he
  | join _ => exact keeps_execJoin hz he
  | exit _ => exact keeps_execExit hz he
  | yield _ => exact keeps_execYield hz he
  | barInit _ => exact keeps_execBarInit hz he
  | barSync _ => exact keeps_execBarSync hz he
  | barArv _ => exact keeps_execBarArv hz he
  | skmMac _ => exact keeps_execSkmMac hz he
  | skmXpose _ => exact keeps_execSkmXpose hz he
  | skmSum _ => exact keeps_execSkmSum hz he
  | skmMax _ => exact keeps_execSkmMax hz he
  | topk _ => exact keeps_execTopk hz he
  | tileSub _ => exact keeps_execTileSub hz he
  | tileWait _ => exact keeps_execTileWait hz he
  | tileTest _ => exact keeps_execTileTest hz he
  | quePush _ => exact keeps_execQuePush hz he
  | quePop _ => exact keeps_execQuePop hz he
  | queWait _ => exact keeps_execQueWait hz he
  | queSend _ => exact keeps_execQueSend hz he
  | rngDraw _ => exact keeps_execRngDraw hz he
  | rngAdv _ => exact keeps_execRngAdv hz he
  | rngBase _ => exact keeps_execRngBase hz he
  | chkCrc _ => exact keeps_execChkCrc hz he
  | chkCmb _ => exact keeps_execChkCmb hz he
  | chkVer _ => exact keeps_execChkVer hz he
  | lcvCompletion _ _ _ => exact keeps_execLcvCompletion hz he
  | joinRelease _ _ _ => exact keeps_execJoinRelease hz he
  | yieldExpiry _ _ _ => exact keeps_execYieldExpiry hz he
  | barrierStall _ _ => exact keeps_execBarrierStall hz he
  | requestWest _ => exact keeps_execRequestWest hz he
  | requestEast _ => exact keeps_execRequestEast hz he
  | preemptSaveComplete _ _ => exact keeps_execPreemptSaveComplete hz he
  | loomCfgSplit _ _ => exact keeps_execLoomCfgSplit hz he
  | tileOpAccept _ _ _ => exact keeps_execTileOpAccept hz he
  | tbTimeout _ _ => exact keeps_execTbTimeout hz he
  | preloadBegin _ _ => exact keeps_execPreloadBegin hz he
  | passStart _ _ => exact keeps_execPassStart hz he
  | tileOpComplete _ _ => exact keeps_execTileOpComplete hz he
  | slotStoreStart _ _ => exact keeps_execSlotStoreStart hz he
  | slotLoadStart _ _ => exact keeps_execSlotLoadStart hz he
  | completionEntryPost => exact keeps_execCompletionEntryPost hz he
  | freezeAbandon _ _ _ => exact keeps_execFreezeAbandon hz he
  | twlRepairWrite _ _ => exact keeps_execTwlRepairWrite hz he
  | alignRewriteDone _ => exact keeps_execAlignRewriteDone hz he
  | inServiceWrite _ _ => exact keeps_execInServiceWrite hz he
  | retiredSet _ => exact keeps_execRetiredSet hz he
  | go _ => exact keeps_execGo hz he
  | portOpDone _ => exact keeps_execPortOpDone hz he
  | fillDelivery _ _ => exact keeps_execFillDelivery hz he
  | dirReadRequest _ _ => exact keeps_execDirReadRequest hz he
  | dirMRequest _ _ => exact keeps_execDirMRequest hz he
  | reductionRegistration _ _ => exact keeps_execReductionRegistration hz he
  | registrationAck _ _ => exact keeps_execRegistrationAck hz he
  | mergeWriteback _ _ => exact keeps_execMergeWriteback hz he
  | pin _ _ => exact keeps_execPin hz he
  | unpin _ _ => exact keeps_execUnpin hz he
  | dramReadDecode _ _ _ _ _ => exact keeps_execDramReadDecode hz he
  | pcFailMark _ _ _ => exact keeps_execPcFailMark hz he
  | memcPcFailedWrite _ _ _ => exact keeps_execMemcPcFailedWrite hz he
  | rebuildComplete _ _ => exact keeps_execRebuildComplete hz he
  | patrolScrub _ _ _ _ => exact keeps_execPatrolScrub hz he
  | clearScrubDone _ => exact keeps_execClearScrubDone hz he
  | memcSurvWrite _ _ _ => exact keeps_execMemcSurvWrite hz he
  | dramTempSample _ _ _ => exact keeps_execDramTempSample hz he
  | doorbellWrite _ _ _ _ => exact keeps_execDoorbellWrite hz he
  | dispatch _ _ => exact keeps_execDispatch hz he
  | dispatchComplete _ => exact keeps_execDispatchComplete hz he
  | copy _ _ => exact keeps_execCopy hz he
  | fill _ _ => exact keeps_execFill hz he
  | dmaEntryDone _ _ => exact keeps_execDmaEntryDone hz he
  | schedulerRound _ _ => exact keeps_execSchedulerRound hz he
  | schQuantum _ => exact keeps_execSchQuantum hz he
  | handleHold _ => exact keeps_execHandleHold hz he
  | handleHoldEnd _ => exact keeps_execHandleHoldEnd hz he
  | roleEpochAdvance _ => exact keeps_execRoleEpochAdvance hz he
  | teardownWritesDone _ => exact keeps_execTeardownWritesDone hz he
  | teardownQuietEnd _ => exact keeps_execTeardownQuietEnd hz he
  | teardownComplete _ => exact keeps_execTeardownComplete hz he
  | contrib _ _ => exact keeps_execContrib hz he
  | close _ _ => exact keeps_execClose hz he
  | openStep _ _ => exact keeps_execOpen hz he
  | await _ _ => exact keeps_execAwait hz he
  | awaitComplete _ _ => exact keeps_execAwaitComplete hz he
  | update _ _ => exact keeps_execUpdate hz he
  | commit _ _ => exact keeps_execCommit hz he
  | commitComplete _ => exact keeps_execCommitComplete hz he
  | retract _ _ => exact keeps_execRetract hz he
  | digest _ _ => exact keeps_execDigest hz he
  | silDeadline _ => exact keeps_execSilDeadline hz he
  | silStallLimit _ _ => exact keeps_execSilStallLimit hz he
  | windowReduce _ _ => exact keeps_execWindowReduce hz he
  | clipFactor _ _ => exact keeps_execClipFactor hz he
  | readySend _ => exact keeps_execReadySend hz he
  | commitTimeout _ => exact keeps_execCommitTimeout hz he
  | linkFrameRx _ _ _ _ _ => exact keeps_execLinkFrameRx hz he
  | frameCloseTimeout _ => exact keeps_execFrameCloseTimeout hz he
  | keyRollover _ => exact keeps_execKeyRollover hz he
  | controlFlitTimer _ => exact keeps_execControlFlitTimer hz he
  | ack _ _ => exact keeps_execAck hz he
  | nak _ _ => exact keeps_execNak hz he
  | credit _ _ => exact keeps_execCredit hz he
  | tsync _ _ _ _ _ _ => exact keeps_execTsync hz he
  | idle _ => exact keeps_execIdle hz he
  | tsyncExchange _ => exact keeps_execTsyncExchange hz he
  | replayTimeout _ => exact keeps_execReplayTimeout hz he
  | put _ _ => exact keeps_execPut hz he
  | get _ _ => exact keeps_execGet hz he
  | atomPacket _ _ => exact keeps_execAtomPacket hz he
  | redPacket _ _ => exact keeps_execRedPacket hz he
  | msg _ _ => exact keeps_execMsg hz he
  | sil _ _ => exact keeps_execSil hz he
  | donePacket _ _ => exact keeps_execDone hz he
  | dataPacket _ _ => exact keeps_execData hz he
  | nackPacket _ _ => exact keeps_execNack hz he
  | msgAck _ _ => exact keeps_execMsgAck hz he
  | silAck _ _ _ => exact keeps_execSilAck hz he
  | fabricTimeout _ => exact keeps_execFabricTimeout hz he
  | bringupPhaseComplete _ _ => exact keeps_execBringupPhaseComplete hz he
  | trainLimitExpiry _ => exact keeps_execTrainLimitExpiry hz he
  | trainRetry _ => exact keeps_execTrainRetry hz he
  | lossOfSignal _ _ => exact keeps_execLossOfSignal hz he
  | uncorrCodewordLimit _ => exact keeps_execUncorrCodewordLimit hz he
  | tagFailureLimit _ => exact keeps_execTagFailureLimit hz he
  | rxSilence _ => exact keeps_execRxSilence hz he
  | retrain _ => exact keeps_execRetrain hz he
  | openBypass _ => exact keeps_execOpenBypass hz he
  | hold _ _ => exact keeps_execHold hz he
  | bypassSwitchSettled _ => exact keeps_execBypassSwitchSettled hz he
  | routeHoldEnd => exact keeps_execRouteHoldEnd hz he
  | rvlRouteDataWrite _ _ => exact keeps_execRvlRouteDataWrite hz he
  | rvlPositionWrite _ _ => exact keeps_execRvlPositionWrite hz he
  | bindHello _ _ => exact keeps_execBindHello hz he
  | bindFinish _ _ _ => exact keeps_execBindFinish hz he
  | unbind _ => exact keeps_execUnbind hz he
  | ping _ => exact keeps_execPing hz he
  | admitContext _ => exact keeps_execAdmit hz he
  | contextDestroy _ => exact keeps_execContextDestroy hz he
  | contextInfo _ => exact keeps_execContextInfo hz he
  | memGrant _ _ => exact keeps_execMemGrant hz he
  | memRelease _ _ _ => exact keeps_execMemRelease hz he
  | codeLoad _ _ _ => exact keeps_execCodeLoad hz he
  | objCreate _ _ => exact keeps_execObjCreate hz he
  | roleAssign _ _ => exact keeps_execRoleAssign hz he
  | shareEndpoint _ _ _ => exact keeps_execShareEndpoint hz he
  | qpConnect _ _ _ _ => exact keeps_execQpConnect hz he
  | qpClose _ _ => exact keeps_execQpClose hz he
  | mrRegister _ _ _ _ => exact keeps_execMrRegister hz he
  | mrDeregister _ _ => exact keeps_execMrDeregister hz he
  | serve _ => exact keeps_execServe hz he
  | attest _ => exact keeps_execAttest hz he
  | testSuspect _ => exact keeps_execTestSuspect hz he
  | mgmtStatus _ => exact keeps_execMgmtStatus hz he
  | drydownRead _ => exact keeps_execDrydownRead hz he
  | policySet _ _ => exact keeps_execPolicySet hz he
  | configWrite _ _ => exact keeps_execConfigWrite hz he
  | imageWrite _ => exact keeps_execImageWrite hz he
  | contextKill _ => exact keeps_execContextKill hz he
  | fabricSet _ _ => exact keeps_execFabricSet hz he
  | recoveryReset _ => exact keeps_execRecoveryReset hz he
  | powerSet _ => exact keeps_execPowerSet hz he
  | reply _ _ => exact keeps_execReply hz he
  | rdmaWrite _ _ => exact keeps_execRdmaWrite hz he
  | rdmaRead _ _ => exact keeps_execRdmaRead hz he
  | send _ _ => exact keeps_execSend hz he
  | serviceEntryAcked _ _ _ => exact keeps_execServiceEntryAcked hz he
  | inboundRdmaWrite _ _ _ _ _ => exact keeps_execInboundRdmaWrite hz he
  | inboundRdmaRead _ _ _ _ _ => exact keeps_execInboundRdmaRead hz he
  | qpRetryExhausted _ _ => exact keeps_execQpRetryExhausted hz he
  | serveTimeout _ _ => exact keeps_execServeTimeout hz he
  | partnerTimeout _ => exact keeps_execPartnerTimeout hz he
  | anomalyEvaluation _ => exact keeps_execAnomalyEvaluation hz he
  | chkFtStart _ _ => exact keeps_execChkFtStart hz he
  | fieldTestBegin _ => exact keeps_execFieldTestBegin hz he
  | ftDrainComplete _ => exact keeps_execFtDrainComplete hz he
  | ftArrayScanComplete _ _ _ => exact keeps_execFtArrayScanComplete hz he
  | ftSramMarchComplete _ _ => exact keeps_execFtSramMarchComplete hz he
  | ftOutcome _ _ => exact keeps_execFtOutcome hz he
  | secureSeal _ => exact keeps_execSecureSeal hz he
  | secureNow => exact keeps_execSecureNow hz he
  | cadEventIn => exact keeps_execCadEventIn hz he
  | claimWindowExpiry _ => exact keeps_execClaimWindowExpiry hz he
  | twinFail => exact keeps_execTwinFail hz he
  | cadTwinTakeover => exact keeps_execCadTwinTakeover hz he
  | joinSegment _ _ => exact keeps_execJoinSegment hz he
  | joinAck _ _ _ => exact keeps_execJoinAck hz he
  | fillSegment _ _ _ _ => exact keeps_execFillSegment hz he
  | rollback _ _ => exact keeps_execRollback hz he
  | loomWdStage1 _ _ => exact keeps_execLoomWdStage1 hz he
  | loomWdStage2 _ _ => exact keeps_execLoomWdStage2 hz he
  | heartbeatTimeout _ => exact keeps_execHeartbeatTimeout hz he
  | coreWdTimeout _ _ => exact keeps_execCoreWdTimeout hz he
  | dryCoreKick _ => exact keeps_execDryCoreKick hz he
  | orrisWd _ => exact keeps_execOrrisWd hz he
  | linkTxStall _ => exact keeps_execLinkTxStall hz he
  | rstN => exact keeps_execRstN hz he
  | resetReq => exact keeps_execResetReq hz he
  | recoveryPhaseComplete _ => exact keeps_execRecoveryPhaseComplete hz he
  | recoveryPhaseOverrun => exact keeps_execRecoveryPhaseOverrun hz he
  | resetLimitExpiry => exact keeps_execResetLimitExpiry hz he
  | dumpNoResponse _ _ => exact keeps_execDumpNoResponse hz he
  | dumpCut _ => exact keeps_execDumpCut hz he
  | powerFail _ => exact keeps_execPowerFail hz he
  | powerUp _ => exact keeps_execPowerUp hz he
  | powerUpPhaseComplete _ => exact keeps_execPowerUpPhaseComplete hz he
  | pullFaultLimit => exact keeps_execPullFaultLimit hz he
  | auth _ => exact keeps_execAuth hz he
  | debugDurationExpiry => exact keeps_execDebugDurationExpiry hz he
  | bypass => exact keeps_execBypass hz he
  | idcode => exact keeps_execIdcode hz he
  | trstN _ => exact keeps_execTrstN hz he
  | pllLockLoss => exact keeps_execPllLockLoss hz he
  | pllRelock => exact keeps_execPllRelock hz he
  | ppsEdge => exact keeps_execPpsEdge hz he
  | slewEnd => exact keeps_execSlewEnd hz he
  | discSourceLoss => exact keeps_execDiscSourceLoss hz he
  | bntDiscWrite _ => exact keeps_execBntDiscWrite hz he
  | thermalGateStep _ _ => exact keeps_execThermalGateStep hz he
  | powerLimitGate _ _ => exact keeps_execPowerLimitGate hz he
  | vinLowGate _ _ => exact keeps_execVinLowGate hz he
  | dieIdleEntry _ => exact keeps_execDieIdleEntry hz he
  | dieIdleExit _ => exact keeps_execDieIdleExit hz he
  | powerStateReached => exact keeps_execPowerStateReached hz he
  | wakeN _ => exact keeps_execWakeN hz he
  | comparatorFire _ _ => exact keeps_execComparatorFire hz he
  | bntCmpCfgWrite _ => exact keeps_execBntCmpCfgWrite hz he
  | bntPpsWrite _ => exact keeps_execBntPpsWrite hz he
  | vinOvervoltage _ => exact keeps_execVinOvervoltage hz he
  | thermalTrip _ _ _ _ => exact keeps_execThermalTrip hz he
  | ptr _ => exact keeps_execPtr hz he
  | smbData => exact keeps_execSmbData hz he
  | smbStatus => exact keeps_execSmbStatus hz he
  | alertResponseRead => exact keeps_execAlertResponseRead hz he
  | convert _ _ => exact keeps_execConvert hz he
  | measure _ _ => exact keeps_execMeasure hz he
  | histRead _ _ => exact keeps_execHistRead hz he
  | stashPack _ _ => exact keeps_execStashPack hz he
  | stashUnpack _ _ => exact keeps_execStashUnpack hz he
  | enable _ _ _ => exact keeps_execEnable hz he
  | quiesce _ _ _ => exact keeps_execQuiesce hz he
  | softReset _ _ _ => exact keeps_execSoftReset hz he
  | intPendClear _ _ _ => exact keeps_execIntPendClear hz he
  | intTest _ _ _ => exact keeps_execIntTest hz he
  | interruptQueueEntry _ => exact keeps_execInterruptQueueEntry hz he
  | errFirstRearm _ _ => exact keeps_execErrFirstRearm hz he
  | lock _ _ => exact keeps_execLock hz he
  | lowWordRead _ _ _ => exact keeps_execLowWordRead hz he
  | highWordRead _ _ => exact keeps_execHighWordRead hz he
  | lowWordWrite _ _ _ => exact keeps_execLowWordWrite hz he
  | highWordWrite _ _ _ => exact keeps_execHighWordWrite hz he
  | registerWrite _ _ _ _ => exact keeps_execRegisterWrite hz he
  | objDestroy _ _ => exact keeps_execObjDestroy hz he
  | rstNRelease => exact keeps_execRstNRelease hz he
  | illegalInstruction _ => exact keeps_execIllegalInstruction hz he
  | zjpUnsupported _ _ _ => exact keeps_execZjpUnsupported hz he
  | rebuildLine _ _ _ _ _ => exact keeps_execRebuildLine hz he
  | opticalLoopbackEnd _ => exact keeps_execOpticalLoopbackEnd hz he
  | imageWriteComplete => exact keeps_execImageWriteComplete hz he
  | configWriteComplete => exact keeps_execConfigWriteComplete hz he
  | serviceLinkDown _ => exact keeps_execServiceLinkDown hz he
  | serviceLinkUp _ => exact keeps_execServiceLinkUp hz he
  | roceRetryTimeout _ _ _ => exact keeps_execRoceRetryTimeout hz he
  | neighbourDiscovery _ _ _ => exact keeps_execNeighbourDiscovery hz he
  | icmpEcho _ _ _ _ => exact keeps_execIcmpEcho hz he
  | unsupportedFrame _ _ => exact keeps_execUnsupportedFrame hz he
  | discoverTimer => exact keeps_execDiscoverTimer hz he
  | offer _ _ _ _ => exact keeps_execOffer hz he
  | pullData _ _ _ _ => exact keeps_execPullData hz he
  | pullNak _ _ => exact keeps_execPullNak hz he
  | readTimeout _ => exact keeps_execReadTimeout hz he
  | handleWindowEnd _ => exact keeps_execHandleWindowEnd hz he
  | thrashWindowEnd _ => exact keeps_execThrashWindowEnd hz he
  | memberSilent _ _ => exact keeps_execMemberSilent hz he
  | wvcConfigWrite _ _ _ => exact keeps_execWvcConfigWrite hz he
  | memcPatrolWrite _ _ => exact keeps_execMemcPatrolWrite hz he

/-- Taking the front command off the queue, or letting a reference cycle pass where none waits, keeps all but the queue. -/
theorem keeps_step {s t : State} (h : step s = .next t) : Keeps { s with pending := s.pending.tail } t := by
  cases hp : s.pending with
  | nil =>
    rw [step_of_idle hp] at h
    injection h with h
    subst h
    have hs : { s with pending := [] } = s := by rw [← hp]
    rw [List.tail_nil, hs]
    exact keeps_tick (Keeps.refl s)
  | cons c r =>
    rw [step_of_pending hp] at h
    exact keeps_exec (Keeps.refl _) h

/-- Settles O4: each command's meaning keeps the canonical form, and so does a reference cycle. -/
theorem everyStepKeepsMemoryCanonical : Obligations.EveryStepKeepsMemoryCanonical := fun _ _ hwf h => (keeps_step h).mem hwf

/-- Settles O5: what a step keeps of the state without its front command. -/
theorem everyStepKeepsOrder : Obligations.EveryStepKeepsOrder := fun _ _ h =>
  have hk := keeps_step h
  ⟨hk.pending, hk.outbox, hk.draws⟩

/-! ## Runs -/

theorem step_goes (s : State) : ∃ t, step s = .next t := by
  cases hp : s.pending with
  | nil => exact ⟨_, step_of_idle hp⟩
  | cons c r => rw [step_of_pending hp]; exact exec_goes c _

theorem run_succ (m : Host.Core) (n : Nat) {s t : m.State} (h : m.step s = .next t) : m.run (n + 1) s = m.run n t := by
  rw [Host.Core.run, h]

/-- As many steps as commands wait leave none, and keep memory's form and what has left the package. -/
theorem core_run_pending (n : Nat) : ∀ s : State, s.pending.length = n →
    ∃ t : State, Sys2Proof.core.run n s = .next t ∧ t.pending = [] ∧ s.outbox <+: t.outbox ∧ (s.mem.wf = true → t.mem.wf = true) := by
  induction n with
  | zero => exact fun s hs => ⟨s, rfl, List.eq_nil_of_length_eq_zero hs, List.prefix_refl _, id⟩
  | succ n ih =>
    intro s hs
    obtain ⟨u, hu⟩ := step_goes s
    have hk := keeps_step hu
    obtain ⟨t, hrun, hnone, hout, hmem⟩ := ih u (by rw [hk.pending, List.length_tail, hs, Nat.add_sub_cancel])
    exact ⟨t, (run_succ Sys2Proof.core n hu).trans hrun, hnone, hk.outbox.trans hout, fun hwf => hmem (hk.mem hwf)⟩

/-- Settles O6, by induction on the number of waiting commands. -/
theorem everyQueueRunsToItsEnd : Obligations.EveryQueueRunsToItsEnd := fun s => core_run_pending _ s rfl

/-! ## The state before power-up -/

theorem reg_reset (a : Nat) : reg State.reset a = regReset a := rfl

/-- Of PCD_DIE_MAP only the package's fixed fields are set before power-up: no die is live. -/
theorem dieLive_reset (d : Nat) : dieLive State.reset d = false := by
  have hreset : reg State.reset dieMapAddr = 0xF00000 := by rw [reg_reset]; decide +kernel
  rw [dieLive, hreset, Bool.and_eq_false_imp]
  intro hd
  have hd : d < 8 := of_decide_eq_true hd
  interval_cases d <;> rfl

theorem portUp_reset {p : Nat} (h : p < 36) : portUp State.reset p = false := by
  interval_cases p <;> decide +kernel

/-- Settles O7: the reset state lists no register, so each reads its reset value, and the die map and the ports' states follow. -/
theorem resetIsBeforePowerUp : Obligations.ResetIsBeforePowerUp :=
  ⟨rfl, rfl, rfl, rfl, dieLive_reset, rfl, fun _ => rfl, reg_reset, fun _ => rfl, fun _ => portUp_reset⟩

end Sys2Proof.Machine
end

section
/-! PROOF. Handles (R22 to R27). -/

namespace Sys2Proof.Machine

theorem handleTag_lt (key body : Nat) : handleTag key body < 256 := Nat.mod_lt _ (by decide)

section
variable {typ home slot gen : Nat} (ht : typ < 64) (hh : home < 16) (hs : slot < 2 ^ 22) (hg : gen < 2 ^ 24) (s : State)
include ht hh hs hg

/-- The body of an issued handle fits its 56 bits, so the word holds the body and its tag apart. -/
theorem toNat_mkHandle : (mkHandle s typ home slot gen).toNat =
    (typ * 2 ^ 50 + home * 2 ^ 46 + slot * 2 ^ 24 + gen) * 256 + handleTag s.hkey (typ * 2 ^ 50 + home * 2 ^ 46 + slot * 2 ^ 24 + gen) := by
  have htag := handleTag_lt s.hkey (typ * 2 ^ 50 + home * 2 ^ 46 + slot * 2 ^ 24 + gen)
  simp only [mkHandle, BitVec.toNat_ofNat]
  exact Nat.mod_eq_of_lt (by omega)

/-- An issued handle holds its type, home, slot and generation (R22), and its tag is that of its body. -/
theorem mkHandle_fields : hType (mkHandle s typ home slot gen) = typ ∧ hHome (mkHandle s typ home slot gen) = home ∧
    hSlot (mkHandle s typ home slot gen) = slot ∧ hGen (mkHandle s typ home slot gen) = gen ∧
    handleTag s.hkey ((mkHandle s typ home slot gen).toNat / 256) = hTag (mkHandle s typ home slot gen) := by
  have htag := handleTag_lt s.hkey (typ * 2 ^ 50 + home * 2 ^ 46 + slot * 2 ^ 24 + gen)
  have hbody : (mkHandle s typ home slot gen).toNat / 256 = typ * 2 ^ 50 + home * 2 ^ 46 + slot * 2 ^ 24 + gen := by
    rw [toNat_mkHandle ht hh hs hg]; omega
  rw [hbody]
  simp only [hType, hHome, hSlot, hGen, hTag, bits, Nat.shiftRight_eq_div_pow, toNat_mkHandle ht hh hs hg]
  refine ⟨?_, ?_, ?_, ?_, ?_⟩ <;> omega

end

/-- Every type of object has its number in six bits and its slots in 22 (Table R23). -/
theorem typeRange_bounds {typ n : Nat} {pkg : Bool} (h : typeRange typ = some (n, pkg)) : typ < 64 ∧ n ≤ 2 ^ 22 := by
  unfold typeRange at h
  split at h <;> cases h <;> decide

theorem home_lt {home : Nat} {pkg : Bool} {s : State} (h : if pkg then home = 15 else dieLive s home = true) : home < 16 := by
  cases pkg with
  | false => simp only [dieLive, Bool.false_eq_true, if_false, Bool.and_eq_true, decide_eq_true_eq] at h; omega
  | true => simp only [if_true] at h; omega

/-- The judgement of a handle that names a place of the package, past the checks on its bits (R24, R25): the slot decides. -/
theorem judgeHandle_mkHandle {typ home slot gen n : Nat} {pkg : Bool} {s t : State} (hr : typeRange typ = some (n, pkg)) (hslot : slot < n)
    (hhome : if pkg then home = 15 else dieLive s home = true) (hgen : gen < 2 ^ 24) (hkey : t.hkey = s.hkey) (hregs : t.regs = s.regs)
    (who : Word) :
    judgeHandle t who (mkHandle s typ home slot gen) typ =
      (let sl := tgetD t.slots (slotKey typ home slot) .fresh
       if !(sl.owner != 0 && (sl.owner == who || (sl.live && sl.shared.contains who))) then zsHandleInvalid else
       if !sl.live || sl.retired || sl.gen != gen then zsHandleStale else zsOk) := by
  obtain ⟨htyp, hn⟩ := typeRange_bounds hr
  have hlive : dieLive t home = dieLive s home := by simp only [dieLive, reg_congr hregs]
  have hsmall : home < 16 := home_lt hhome
  obtain ⟨hT, hH, hS, hG, htag⟩ := mkHandle_fields htyp hsmall (Nat.lt_of_lt_of_le hslot hn) hgen s
  have hplace : (if pkg then home == 15 else dieLive t home) = true := by
    cases pkg <;> simpa [hlive] using hhome
  simp only [judgeHandle, slotOf, hkey, htag, hT, hH, hS, hG, hr, hplace, bne_self_eq_false, Bool.false_eq_true, if_false, Bool.not_true,
    ge_iff_le, Nat.not_le.mpr hslot]

theorem tgetD_slotCreate (typ home slot : Nat) (owner : Word) (s : State) :
    tgetD (slotCreate typ home slot owner s).slots (slotKey typ home slot) .fresh =
      { tgetD s.slots (slotKey typ home slot) .fresh with live := true, owner := owner, shared := [] } := by
  simp [slotCreate]

/-- What the slot of a destroyed object holds: it is no longer live, and at the last generation it is retired (R27). -/
theorem tgetD_slotDestroy (typ home slot : Nat) (s : State) :
    tgetD (slotDestroy typ home slot s).slots (slotKey typ home slot) .fresh =
      (let sl := tgetD s.slots (slotKey typ home slot) .fresh
       if sl.gen + 1 = 0xFFFFFF then { sl with live := false, retired := true, shared := [] }
       else { sl with live := false, gen := sl.gen + 1, shared := [] }) := by
  simp [slotDestroy]

/-- The handle of a new object is its owner's alone (R25). -/
theorem judgeHandle_slotCreate {typ home slot n : Nat} {pkg : Bool} {owner : Word} {s : State} (hr : typeRange typ = some (n, pkg))
    (hslot : slot < n) (hhome : if pkg then home = 15 else dieLive s home = true) (ho : owner ≠ 0)
    (hret : (tgetD s.slots (slotKey typ home slot) .fresh).retired = false) (hgen : (tgetD s.slots (slotKey typ home slot) .fresh).gen < 2 ^ 24)
    (who : Word) :
    judgeHandle (slotCreate typ home slot owner s) who (mkHandle s typ home slot (tgetD s.slots (slotKey typ home slot) .fresh).gen) typ =
      if who = owner then zsOk else zsHandleInvalid := by
  rw [judgeHandle_mkHandle hr hslot hhome hgen (by simp) (by simp), tgetD_slotCreate]
  have ho : owner ≠ 0#64 := ho
  by_cases h : who = owner
  · simp [h, ho, hret]
  · simp [h, Ne.symm h]

/-- Once its object is destroyed, every handle that the slot issued is stale to its owner (R25, R27). -/
theorem judgeHandle_slotDestroy {typ home slot gen n : Nat} {pkg : Bool} {owner : Word} {s : State} (hr : typeRange typ = some (n, pkg))
    (hslot : slot < n) (hhome : if pkg then home = 15 else dieLive s home = true) (ho : owner ≠ 0) (hgen : gen < 2 ^ 24) :
    judgeHandle (slotDestroy typ home slot (slotCreate typ home slot owner s)) owner (mkHandle s typ home slot gen) typ = zsHandleStale := by
  rw [judgeHandle_mkHandle hr hslot hhome hgen (by simp) (by simp), tgetD_slotDestroy, tgetD_slotCreate]
  have ho : owner ≠ 0#64 := ho
  dsimp only
  split <;> simp [ho]

/-- Settles O9: an issued handle passes the checks on its bits, and then its slot decides. -/
theorem handlesNameOneCreation : Obligations.HandlesNameOneCreation := by
  refine ⟨fun s typ home slot n pkg owner hr hslot hhome ho hret hgen => ?_, fun s typ home slot n pkg owner hr hslot hhome ho hgen => ?_⟩
  · have hjudge := judgeHandle_slotCreate hr hslot hhome ho hret hgen
    obtain ⟨htyp, hn⟩ := typeRange_bounds hr
    have hsmall : home < 16 := home_lt hhome
    obtain ⟨hT, hH, hS, -⟩ := mkHandle_fields htyp hsmall (Nat.lt_of_lt_of_le hslot hn) hgen s
    exact ⟨hT, hH, hS, (hjudge owner).trans (if_pos rfl), fun other hne => (hjudge other).trans (if_neg hne)⟩
  · refine ⟨fun gen hle => judgeHandle_slotDestroy hr hslot hhome ho (by omega), ?_⟩
    rw [tgetD_slotDestroy, tgetD_slotCreate]
    dsimp only
    split
    · next hlast => simp [hlast]
    · next hlast => simp [hlast]

end Sys2Proof.Machine
end

section
/-! PROOF. Where the lines of a die lie (R246). -/

namespace Sys2Proof.Machine

theorem xor_lt_four {a b : Nat} (ha : a < 4) (hb : b < 4) : a ^^^ b < 4 := Nat.xor_lt_two_pow (n := 2) ha hb

theorem lineStack_eq (l : Nat) : lineStack l = (l % 4) ^^^ (l / 256 % 4) := by
  simp only [lineStack, bits, Nat.shiftRight_eq_div_pow]
  norm_num

/-- A line from its place: the stack's bits are undone by the bits that scatter them. -/
theorem lineOf_eq (st g k : Nat) : lineOf st g k = (k * 6 + g) * 4 + (st ^^^ ((k * 6 + g) / 64 % 4)) := by
  simp only [lineOf, bits, Nat.shiftRight_eq_div_pow]
  norm_num

theorem lineOf_place (l : Nat) : lineOf (lineStack l) (lineGroup l) (lineInGroup l) = l := by
  have hq : lineInGroup l * 6 + lineGroup l = l / 4 := by simp only [lineInGroup, lineGroup]; omega
  rw [lineOf_eq, hq, lineStack_eq, show l / 4 / 64 = l / 256 by omega, Nat.xor_xor_cancel_right]
  omega

theorem place_lineOf {st g : Nat} (k : Nat) (hst : st < 4) (hg : g < 6) :
    lineStack (lineOf st g k) = st ∧ lineGroup (lineOf st g k) = g ∧ lineInGroup (lineOf st g k) = k := by
  have hx : st ^^^ ((k * 6 + g) / 64 % 4) < 4 := xor_lt_four hst (Nat.mod_lt _ (by decide))
  have hlow : lineOf st g k % 4 = st ^^^ ((k * 6 + g) / 64 % 4) := by rw [lineOf_eq]; omega
  have hquarter : lineOf st g k / 4 = k * 6 + g := by rw [lineOf_eq]; omega
  have hhigh : lineOf st g k / 256 = (k * 6 + g) / 64 := by omega
  refine ⟨?_, ?_, ?_⟩
  · rw [lineStack_eq, hlow, hhigh, Nat.xor_xor_cancel_right]
  · simp only [lineGroup, hquarter]; omega
  · simp only [lineInGroup, hquarter]; omega

/-- Settles O11: a line and its place determine each other, the scattering of the stacks being an exclusive or. -/
theorem dramLinesArePlaced : Obligations.DramLinesArePlaced :=
  ⟨fun l => ⟨lineStack_eq l, by rw [lineStack_eq]; exact xor_lt_four (Nat.mod_lt _ (by decide)) (Nat.mod_lt _ (by decide)), rfl, rfl,
    lineOf_place l⟩, fun _ _ k hst hg => place_lineOf k hst hg⟩

end Sys2Proof.Machine
end

section
/-! PROOF. What the integer functions compute (Table R81), through their values modulo the width. -/

namespace Sys2Proof.Machine

theorem intWidth_pos (ty : Nat) : 0 < intWidth ty := by unfold intWidth; split <;> decide

/-- Wrapping depends on the value modulo the width alone. -/
theorem wrap_of_modEq {w n : Nat} {v : Int} (h : v ≡ n [ZMOD (2 ^ w : Nat)]) : wrap w v = n % 2 ^ w := by
  rw [wrap, h, ← Int.natCast_mod, Int.toNat_natCast]

theorem wrap_of_nonneg {w : Nat} {v : Int} (h0 : 0 ≤ v) (h : v < 2 ^ w) : (wrap w v : Int) = v := by
  rw [wrap, Int.emod_eq_of_lt h0 (by exact_mod_cast h), Int.toNat_of_nonneg h0]

theorem wrap_of_neg {w : Nat} {v : Int} (h0 : v < 0) (h : -(2 ^ w) ≤ v) : (wrap w v : Int) = v + 2 ^ w := by
  rw [wrap, ← Int.add_emod_right, Int.emod_eq_of_lt (by push_cast; omega) (by push_cast; omega)]
  push_cast
  omega

theorem wrap_lt (w : Nat) (v : Int) : wrap w v < 2 ^ w := by
  have := Int.emod_lt_of_pos v (b := ((2 ^ w : Nat) : Int)) (by positivity)
  have := Int.emod_nonneg v (b := ((2 ^ w : Nat) : Int)) (by positivity)
  rw [wrap]
  omega

theorem sext_modEq (w a : Nat) : sext w a ≡ a [ZMOD (2 ^ w : Nat)] := by
  have h : ((a % 2 ^ w : Nat) : Int) ≡ a [ZMOD (2 ^ w : Nat)] := by rw [Int.natCast_mod]; exact Int.mod_modEq _ _
  rw [sext]
  split
  · exact h
  · exact (Int.modEq_sub_modulus_iff.mpr rfl).symm.trans h

/-- An operand's value is the operand modulo the width, whatever its type. -/
theorem intVal_modEq (ty a : Nat) : intVal ty a ≡ a [ZMOD (2 ^ intWidth ty : Nat)] := by
  rw [intVal]
  split
  · exact sext_modEq _ a
  · rw [Int.natCast_mod]; exact Int.mod_modEq _ _

/-- A width's power is twice that of its sign bit. -/
theorem two_pow_eq_double {w : Nat} (hw : 0 < w) : (2 : Int) ^ w = 2 * 2 ^ (w - 1) := by
  rw [← pow_succ', Nat.sub_add_cancel hw]

theorem sext_bounds {w : Nat} (hw : 0 < w) (a : Nat) : -(2 ^ (w - 1)) ≤ sext w a ∧ sext w a < 2 ^ (w - 1) := by
  have hd := two_pow_eq_double hw
  have hlt : ((a % 2 ^ w : Nat) : Int) < 2 ^ w := by exact_mod_cast Nat.mod_lt a (Nat.two_pow_pos w)
  have hpos : (0 : Int) < 2 ^ (w - 1) := by positivity
  rw [sext]
  split
  · next h => exact ⟨by omega, by exact_mod_cast h⟩
  · next h =>
    have h : (2 : Int) ^ (w - 1) ≤ ((a % 2 ^ w : Nat) : Int) := by exact_mod_cast Nat.not_lt.mp h
    push_cast at hlt h ⊢
    omega

/-- A value of the signed range reads back after it is wrapped. -/
theorem sext_wrap {w : Nat} (hw : 0 < w) {v : Int} (hlo : -(2 ^ (w - 1)) ≤ v) (hhi : v < 2 ^ (w - 1)) : sext w (wrap w v) = v := by
  have hd := two_pow_eq_double hw
  have hpow : ((2 ^ (w - 1) : Nat) : Int) = 2 ^ (w - 1) := by push_cast; rfl
  rw [sext, Nat.mod_eq_of_lt (wrap_lt w v)]
  rcases lt_or_ge v 0 with hneg | hnonneg
  · have hwrap := wrap_of_neg hneg (show -(2 ^ w) ≤ v by omega)
    rw [if_neg (by omega), hwrap]
    push_cast
    omega
  · have hwrap := wrap_of_nonneg hnonneg (show v < 2 ^ w by omega)
    rw [if_pos (by omega), hwrap]

theorem intMin_le_intVal (ty a : Nat) : intMin ty ≤ intVal ty a := by
  simp only [intMin, intVal]
  split
  · exact_mod_cast (sext_bounds (intWidth_pos ty) a).1
  · exact Int.natCast_nonneg _

theorem intVal_le_intMax (ty a : Nat) : intVal ty a ≤ intMax ty := by
  simp only [intMax, intVal]
  split
  · exact Int.le_sub_one_of_lt (by exact_mod_cast (sext_bounds (intWidth_pos ty) a).2)
  · exact Int.le_sub_one_of_lt (by exact_mod_cast Nat.mod_lt a (Nat.two_pow_pos _))

/-- A value of a type's range reads back after it is wrapped to the type's width. -/
theorem intVal_wrap {ty : Nat} {v : Int} (hlo : intMin ty ≤ v) (hhi : v ≤ intMax ty) : intVal ty (wrap (intWidth ty) v) = v := by
  simp only [intMin, intMax, intVal] at *
  split
  · next hs =>
    simp only [hs, if_true] at hlo hhi
    push_cast at hlo hhi
    exact sext_wrap (intWidth_pos ty) hlo (Int.lt_of_le_sub_one hhi)
  · next hs =>
    simp only [hs, Bool.false_eq_true, if_false] at hlo hhi
    push_cast at hhi
    rw [Nat.mod_eq_of_lt (wrap_lt _ _), wrap_of_nonneg hlo (Int.lt_of_le_sub_one hhi)]

theorem clampInt_eq {lo hi : Int} (h : lo ≤ hi) (v : Int) : clampInt lo hi v = max lo (min hi v) := by
  rw [clampInt]
  split
  · omega
  · split <;> omega

/-- A saturated result is the value brought into the type's range (R81). -/
theorem intVal_intResult_sat (ty : Nat) (v : Int) : intVal ty (intResult ty true v) = max (intMin ty) (min (intMax ty) v) := by
  have hrange : intMin ty ≤ intMax ty := (intMin_le_intVal ty 0).trans (intVal_le_intMax ty 0)
  rw [intResult, if_pos rfl, clampInt_eq hrange]
  exact intVal_wrap (by omega) (by omega)

/-- An unsaturated result is its value modulo the width. -/
theorem intResult_of_modEq {ty n : Nat} {v : Int} (h : v ≡ n [ZMOD (2 ^ intWidth ty : Nat)]) :
    intResult ty false v = n % 2 ^ intWidth ty := by
  rw [intResult, if_neg Bool.false_ne_true, wrap_of_modEq h]

section
variable (ty a b c : Nat)

theorem ialuResult_sub (hb : b < 2 ^ intWidth ty) : ialuResult 1 ty false a b c = (a + 2 ^ intWidth ty - b) % 2 ^ intWidth ty := by
  refine intResult_of_modEq (((intVal_modEq ty a).sub (intVal_modEq ty b)).trans ?_)
  rw [Nat.cast_sub (hb.le.trans (Nat.le_add_left _ _)), Nat.cast_add, add_sub_right_comm]
  exact (Int.add_modEq_right).symm

theorem intVal_ialuResult_min : intVal ty (ialuResult 3 ty false a b c) = min (intVal ty a) (intVal ty b) := by
  simp only [ialuResult]
  split <;> omega

theorem intVal_ialuResult_max : intVal ty (ialuResult 4 ty false a b c) = max (intVal ty a) (intVal ty b) := by
  simp only [ialuResult]
  split <;> omega

/-- Bit by bit, the complement within a width. -/
theorem testBit_complement {w i : Nat} (h : i < w) : (2 ^ w - 1 - a % 2 ^ w).testBit i = !a.testBit i := by
  rw [show 2 ^ w - 1 - a % 2 ^ w = 2 ^ w - (a % 2 ^ w + 1) by omega,
    Nat.testBit_two_pow_sub_succ (Nat.mod_lt _ (Nat.two_pow_pos w)), Nat.testBit_mod_two_pow]
  simp [h]

theorem testBit_ialuResult {i : Nat} (h : i < intWidth ty) : (ialuResult 8 ty false a b c).testBit i = (a.testBit i && b.testBit i) ∧
    (ialuResult 9 ty false a b c).testBit i = (a.testBit i || b.testBit i) ∧
    (ialuResult 10 ty false a b c).testBit i = (a.testBit i != b.testBit i) ∧
    (ialuResult 11 ty false a b c).testBit i = (a.testBit i && !b.testBit i) ∧
    (ialuResult 12 ty false a b c).testBit i = !a.testBit i := by
  refine ⟨Nat.testBit_and .., Nat.testBit_or .., Nat.testBit_xor .., ?_, testBit_complement a h⟩
  rw [← testBit_complement b h]
  exact Nat.testBit_and ..

/-- An arithmetic shift right divides the value, rounding down. -/
theorem sext_ishfResult_shiftRight : sext (intWidth ty) (ishfResult 2 ty a b c) = sext (intWidth ty) a / 2 ^ (b % intWidth ty) := by
  obtain ⟨hlo, hhi⟩ := sext_bounds (intWidth_pos ty) a
  have hpow : (1 : Int) ≤ 2 ^ (b % intWidth ty) := one_le_pow₀ (by decide)
  have hsign : (0 : Int) < 2 ^ (intWidth ty - 1) := by positivity
  have hcast : ((2 ^ (b % intWidth ty) : Nat) : Int) = 2 ^ (b % intWidth ty) := by push_cast; rfl
  simp only [ishfResult, hcast]
  exact sext_wrap (intWidth_pos ty) (Int.le_ediv_of_mul_le (by omega) (by nlinarith only [hlo, hpow, hsign]))
    (Int.ediv_lt_of_lt_mul (by omega) (by nlinarith only [hhi, hpow, hsign]))

end

/-- Settles O13: sums, differences and products through congruence modulo the width, the logic operations through their bits, saturation and
the arithmetic shift through the ranges of the types. -/
theorem integerFunctionsFollowTheTable : Obligations.IntegerFunctionsFollowTheTable := by
  intro ty a b c _ _ hb _
  have ha' := intVal_modEq ty a
  have hb' := intVal_modEq ty b
  have hc' := intVal_modEq ty c
  exact ⟨intResult_of_modEq (ha'.add hb'), ialuResult_sub ty a b c hb, intResult_of_modEq ((ha'.add hb').add hc'),
    intVal_intResult_sat ty _, intVal_intResult_sat ty _, intVal_ialuResult_min ty a b c, intVal_ialuResult_max ty a b c,
    fun i hi => testBit_ialuResult ty a b c hi, wrap_of_modEq (ha'.mul hb'), wrap_of_modEq ((ha'.mul hb').add hc'),
    by simp only [ishfResult, Nat.shiftLeft_eq], by simp only [ishfResult, Nat.shiftRight_eq_div_pow], sext_ishfResult_shiftRight ty a b c⟩

end Sys2Proof.Machine
end

section
/-! PROOF. The issue of a Grelopor instruction that only reads operands and writes its results (R44 to R48, R69, R76): what `countIssue`, `operandRead` and
`finish` leave as it was. -/

namespace Sys2Proof.Machine

/-! ## The issuing group -/

/-- What a thread's group that may issue comes from: the skein in its slot, and a group of it that does not wait. -/
theorem fetchFor_eq_ready {w : Who} {s : State} {e : Env} (h : fetchFor w s = .ready e) :
    e.s = s ∧ e.loom = w.loom ∧ e.skein = w.skein ∧ ∃ k g, tget? (loomOf s e.loom).skeins e.skein = some k ∧
      groupOf k w.thread = some g ∧ g.mask = e.mask ∧ g.wait = .none ∧ e.k = keepFetched e.ins k := by
  unfold fetchFor at h
  split at h
  · cases h
  · next k hk =>
    split at h
    · cases h
    · split at h
      · cases h
      · next g hg =>
        split at h
        · cases h
        · next hwait =>
          split at h
          · cases h
          · split at h
            · cases h
            · cases h
              exact ⟨rfl, rfl, rfl, k, g, hk, hg, rfl, not_not.mp hwait, rfl⟩

/-! ## Looms and skeins after an update -/

@[simp] theorem loomOf_modLoom_self (l : Nat) (f : Loom → Loom) (s : State) : loomOf (modLoom l f s) l = f (loomOf s l) := by
  simp [loomOf, modLoom]

theorem loomOf_modLoom_ne {l l' : Nat} (f : Loom → Loom) (s : State) (h : l' ≠ l) : loomOf (modLoom l f s) l' = loomOf s l' := by
  simp [loomOf, modLoom, tgetD_tmod_ne _ _ _ _ h]

theorem loomOf_congr {s t : State} (h : t.looms = s.looms) (l : Nat) : loomOf t l = loomOf s l := by rw [loomOf, h, loomOf]

@[simp] theorem loomOf_bump (a n : Nat) (s : State) (l : Nat) : loomOf (bump a n s) l = loomOf s l := loomOf_congr (by simp) l

theorem loomOf_modSkein_self (l x : Nat) (f : Skein → Skein) (s : State) :
    loomOf (modSkein l x f s) l = { loomOf s l with skeins := tupd (loomOf s l).skeins x f } := loomOf_modLoom_self ..

theorem loomOf_modSkein_ne {l l' x : Nat} (f : Skein → Skein) (s : State) (h : l' ≠ l) : loomOf (modSkein l x f s) l' = loomOf s l' :=
  loomOf_modLoom_ne _ s h

/-! ## Operand reads -/

/-- From `s` to `t` only what an issuing instruction's operand reads touch has changed: the reuse cache of its loom and two counters. -/
structure OperandsRead (e : Env) (s t : State) : Prop where
  rest : ∃ r l, t = { s with regs := r, looms := l }
  regs : ∀ a, a ≠ loomPage e.loom + Reg.LOOM_REUSE_HIT → a ≠ loomPage e.loom + Reg.LOOM_BANK_STALL → reg t a = reg s a
  others : ∀ l, l ≠ e.loom → loomOf t l = loomOf s l
  own : loomOf t e.loom = { loomOf s e.loom with reuse := (loomOf t e.loom).reuse }

theorem OperandsRead.refl (e : Env) (s : State) : OperandsRead e s s := ⟨⟨_, _, rfl⟩, fun _ _ _ => rfl, fun _ _ => rfl, rfl⟩

theorem OperandsRead.trans {e : Env} {s t u : State} (h : OperandsRead e s t) (h' : OperandsRead e t u) : OperandsRead e s u where
  rest := by
    obtain ⟨r, l, rfl⟩ := h.rest
    exact h'.rest
  regs a h1 h2 := (h'.regs a h1 h2).trans (h.regs a h1 h2)
  others l hl := (h'.others l hl).trans (h.others l hl)
  own := by rw [h'.own, h.own]

theorem OperandsRead.bump {e : Env} {a : Nat} (n : Nat) (s : State)
    (ha : a = loomPage e.loom + Reg.LOOM_REUSE_HIT ∨ a = loomPage e.loom + Reg.LOOM_BANK_STALL) : OperandsRead e s (bump a n s) where
  rest := ⟨_, _, rfl⟩
  regs b h1 h2 := reg_bump_ne n s (ha.elim (fun h => h ▸ h1) (fun h => h ▸ h2))
  others l _ := loomOf_bump a n s l
  own := by rw [loomOf_bump]

theorem OperandsRead.modReuse {e : Env} (s : State) (f : Loom → Tab (List ReuseEntry)) :
    OperandsRead e s (modLoom e.loom (fun l => { l with reuse := f l }) s) where
  rest := ⟨_, _, rfl⟩
  regs _ _ _ := rfl
  others _ hl := loomOf_modLoom_ne _ s hl
  own := by rw [loomOf_modLoom_self]

theorem OperandsRead.ite {e : Env} {s t u : State} {c : Prop} [Decidable c] (ht : c → OperandsRead e s t) (hu : ¬c → OperandsRead e s u) :
    OperandsRead e s (if c then t else u) := by
  split
  · exact ht ‹_›
  · exact hu ‹_›

theorem operandsRead_operandRead (e : Env) (s : State) : OperandsRead e s (operandRead e s) := by
  simp only [operandRead, reuseWrite]
  refine .ite (fun _ => ?_) (fun _ => .trans ?_ (.modReuse _ _)) <;>
  · refine forL_keeps (p := OperandsRead e s) _ (fun _ _ ht => ht.trans (.modReuse _ _)) ?_
    refine .ite (fun _ => .trans ?_ (.bump _ _ (.inr rfl))) (fun _ => ?_) <;>
    exact .ite (fun _ => .refl e s) (fun _ => .bump _ _ (.inl rfl))

/-! ## The issuing skein -/

/-- The skein of an issuing group once its issue is counted: what was fetched is kept, and the JOIN waits of other groups have seen the
issue (R56). -/
def issuingSkein (e : Env) (k : Skein) : Skein :=
  keepFetched e.ins { k with groups := k.groups.map (fun g =>
    match g.wait with
    | .join a x _ => { g with wait := .join a x true }
    | _ => g) }

/-- The mask of a group does not change where its JOIN wait sees an issue. -/
theorem mask_joinSeen (g : Group) : (match g.wait with | .join a x _ => { g with wait := .join a x true } | _ => g).mask = g.mask := by
  cases g with
  | mk m p w => cases w <;> rfl

/-- The issuing group is found by its mask once more. -/
theorem find?_map_mask {l : List Group} {f : Group → Group} (hf : ∀ g, (f g).mask = g.mask) (m : Nat) :
    (l.map f).find? (fun g => g.mask == m) = (l.find? (fun g => g.mask == m)).map f := by
  rw [List.find?_map]
  congr 2
  funext g
  simp [hf]

theorem find?_modGroup {k : Skein} {m pc : Nat} (h : (k.groups.find? (fun g => g.mask == m)).isSome = true) :
    ((modGroup m (fun g => { g with pc := pc }) k).groups.find? (fun g => g.mask == m)).map (fun g => g.pc) = some pc := by
  simp only [modGroup]
  generalize k.groups = l at h
  induction l with
  | nil => simp at h
  | cons x r ih =>
    simp only [updateFirst]
    split
    · next hx => simp [hx]
    · next hx => simpa [List.find?_cons, hx] using ih (by simpa [List.find?_cons, hx] using h)

/-- Register writes touch nothing of a skein but its registers and predicates. -/
def WritesRegs (f : Skein → Skein) : Prop := ∀ k, f k = { k with regs := (f k).regs, uregs := (f k).uregs, preds := (f k).preds }

theorem loomOf_countIssue_self (e : Env) (s : State) : loomOf (countIssue e s) e.loom =
    { loomOf s e.loom with skeins := tupd (loomOf s e.loom).skeins e.skein (issuingSkein e) } := by
  rw [countIssue, loomOf_bump]
  exact loomOf_modSkein_self ..

theorem loomOf_countIssue_ne {e : Env} {l : Nat} (s : State) (h : l ≠ e.loom) : loomOf (countIssue e s) l = loomOf s l := by
  rw [countIssue, loomOf_bump]
  exact loomOf_modSkein_ne _ s h

/-- The looms after an instruction that only writes its own skein. -/
theorem loomOf_finish_self (e : Env) (f : Skein → Skein) (s : State) : ∃ r, loomOf (finish e f (countIssue e s)) e.loom =
    { loomOf s e.loom with
      reuse := r
      skeins := tupd (tupd (loomOf s e.loom).skeins e.skein (issuingSkein e)) e.skein fun k =>
        modGroup e.mask (fun g => { g with pc := nextPc e }) (f k) } := by
  refine ⟨(loomOf (operandRead e (countIssue e s)) e.loom).reuse, ?_⟩
  rw [finish, loomOf_modSkein_self, (operandsRead_operandRead e (countIssue e s)).own, loomOf_countIssue_self]

theorem issueCounter_ne (l : Nat) : loomPage l + Reg.LOOM_ISSUE_CNT ≠ loomPage l + Reg.LOOM_REUSE_HIT ∧
    loomPage l + Reg.LOOM_ISSUE_CNT ≠ loomPage l + Reg.LOOM_BANK_STALL := by
  constructor <;> exact fun h => absurd (Nat.add_left_cancel h) (by decide)

/-- An instruction that issues and only writes registers and predicates of its skein: what it leaves is `IssuedFor`, with the registers and
predicates that its writes leave. -/
theorem issuedFor_finish {w : Who} {row : Nat} {s : State} {e : Env} (h : Issues w row s e) {f : Skein → Skein} (hf : WritesRegs f) :
    ∃ k j, IssuedFor e s (finish e f (countIssue e s)) k ∧ j.regs = e.k.regs ∧ j.uregs = e.k.uregs ∧ j.preds = e.k.preds ∧
      k.regs = (f j).regs ∧ k.uregs = (f j).uregs ∧ k.preds = (f j).preds := by
  obtain ⟨-, -, -, k0, g, hk0, hg, hmask, -, hk⟩ := fetchFor_eq_ready h.1
  have hread := operandsRead_operandRead e (countIssue e s)
  have hrest : finish e f (countIssue e s) =
      { s with regs := (finish e f (countIssue e s)).regs, looms := (finish e f (countIssue e s)).looms } := by
    obtain ⟨r, l, hrl⟩ := hread.rest
    rw [finish, hrl]
    rfl
  obtain ⟨u, hown⟩ := loomOf_finish_self e f s
  have hf' := hf (issuingSkein e k0)
  have hreg (a : Nat) : reg (finish e f (countIssue e s)) a = reg (operandRead e (countIssue e s)) a := rfl
  refine ⟨modGroup e.mask (fun g => { g with pc := nextPc e }) (f (issuingSkein e k0)), issuingSkein e k0,
    ⟨hrest, fun a ha => ?_, ?_, fun l hl => ?_, ?_, fun x hx => ?_, ?_, ?_, ?_, fun a => ?_⟩,
    by rw [hk]; rfl, by rw [hk]; rfl, by rw [hk]; rfl, rfl, rfl, rfl⟩
  · simp only [issueCounters, List.mem_cons, List.not_mem_nil, or_false, not_or] at ha
    obtain ⟨h1, h2, h3⟩ := ha
    rw [hreg, hread.regs a h2 h3, countIssue, reg_bump_ne _ _ h1]
    rfl
  · rw [hreg, hread.regs _ (issueCounter_ne _).1 (issueCounter_ne _).2, countIssue, reg_bump_self]
    rfl
  · rw [finish, loomOf_modSkein_ne _ _ hl, hread.others l hl, loomOf_countIssue_ne s hl]
  · rw [hown]
  · rw [hown]; simp only [tget?_tupd_ne _ _ hx]
  · rw [hown]; simp only [tget?_tupd_self, hk0, Option.map_some]
  · rw [hk, modGroup, hf']; rfl
  · refine find?_modGroup ?_
    have hin : g ∈ k0.groups := List.mem_of_find?_eq_some hg
    have hsome : (k0.groups.find? (fun x => x.mask == e.mask)).isSome = true :=
      List.find?_isSome.mpr ⟨g, hin, beq_iff_eq.mpr hmask⟩
    rw [hf']
    exact (congrArg Option.isSome (find?_map_mask mask_joinSeen e.mask)).trans (by rw [Option.isSome_map, hsome])
  · rw [hrest]

end Sys2Proof.Machine
end

section
/-! PROOF. Register and predicate writes of an instruction, and the destinations that the forms of the instructions allow (R74, R75, R111). -/

namespace Sys2Proof.Machine

/-! ## Thread registers -/

theorem rdG_wrG {t b t' r : Nat} (v : Nat) (k : Skein) (hb : b < 256) (hr : r < 256) :
    rdG (wrG t b v k) t' r = if t' = t ∧ r = b ∧ r ≠ 255 then v % 2 ^ 32 else rdG k t' r := by
  by_cases h255 : r = 255
  · simp [rdG, h255]
  by_cases hbb : b = 255
  · rw [wrG, if_pos hbb, if_neg (by omega)]
  simp only [rdG, wrG, h255, hbb, if_false, tgetD, tget?_tset]
  by_cases h : t' = t ∧ r = b
  · obtain ⟨rfl, rfl⟩ := h
    simp [h255]
  · rw [if_neg (by omega), if_neg (by tauto)]

/-- Consecutive registers of one thread after a write of them. -/
theorem rdG_wrGs {t b t' r n : Nat} (v : Nat) (k : Skein) (hb : b + n ≤ 256) (hr : r < 256) :
    rdG (wrGs t b n v k) t' r = if t' = t ∧ b ≤ r ∧ r < b + n ∧ r ≠ 255 then v / 2 ^ (32 * (r - b)) % 2 ^ 32 else rdG k t' r := by
  induction n generalizing b v k with
  | zero => rw [wrGs, if_neg (by omega)]
  | succ n ih =>
    rw [wrGs, ih _ _ (by omega), rdG_wrG _ _ (by omega) hr]
    by_cases hrb : r = b
    · subst hrb
      simp
    · by_cases h : t' = t ∧ b ≤ r ∧ r < b + (n + 1) ∧ r ≠ 255
      · rw [if_pos (by omega), if_pos h, Nat.div_div_eq_div_mul, ← pow_add, show 32 + 32 * (r - (b + 1)) = 32 * (r - b) by omega]
      · rw [if_neg (by omega), if_neg (by omega), if_neg h]

/-- The registers of all threads after each thread of a list has written its own. -/
theorem rdG_foldl_wrGs (ts : List Nat) (f : Nat → Nat) {b n t' r : Nat} (k : Skein) (hb : b + n ≤ 256) (hr : r < 256) :
    rdG ((ts.map (fun t => (t, f t))).foldl (fun k p => wrGs p.1 b n p.2 k) k) t' r =
      if t' ∈ ts ∧ b ≤ r ∧ r < b + n ∧ r ≠ 255 then f t' / 2 ^ (32 * (r - b)) % 2 ^ 32 else rdG k t' r := by
  induction ts generalizing k with
  | nil => simp
  | cons t ts ih =>
    rw [List.map_cons, List.foldl_cons, ih, rdG_wrGs _ _ hb hr]
    by_cases hmem : t' ∈ ts
    · simp only [hmem, true_and, List.mem_cons, or_true]
      split
      · rfl
      · rw [if_neg (by tauto)]
    · by_cases ht : t' = t
      · subst ht
        simp [hmem]
      · simp [hmem, ht]

/-! ## Uniform registers and predicates -/

theorem rdU_wrUs {b n r : Nat} (v : Nat) (k : Skein) :
    rdU (wrUs b n v k) r = if b ≤ r ∧ r < b + n then v / 2 ^ (32 * (r - b)) % 2 ^ 32 else rdU k r := by
  induction n generalizing b v k with
  | zero => rw [wrUs, if_neg (by omega)]
  | succ n ih =>
    rw [wrUs, ih]
    by_cases hrb : r = b
    · subst hrb
      simp [rdU, tgetD]
    · have hset (w : W32) : rdU { k with uregs := tset k.uregs b w } r = rdU k r := by simp [rdU, tgetD_tset_ne _ _ _ hrb]
      by_cases h : b ≤ r ∧ r < b + (n + 1)
      · rw [if_pos (by omega), if_pos h, Nat.div_div_eq_div_mul, ← pow_add, show 32 + 32 * (r - (b + 1)) = 32 * (r - b) by omega]
      · rw [if_neg (by omega), if_neg h, hset]

theorem mem_sinsert (l : List Nat) (k j : Nat) : j ∈ sinsert l k ↔ j = k ∨ j ∈ l := by
  induction l with
  | nil => simp [sinsert]
  | cons x r ih =>
    simp only [sinsert]
    split
    · simp only [List.mem_cons, ih]; tauto
    · split
      · next h => subst h; simp only [List.mem_cons]; tauto
      · simp only [List.mem_cons]

theorem mem_sdel (l : List Nat) (k j : Nat) : j ∈ sdel l k ↔ j ∈ l ∧ j ≠ k := by simp [sdel]

theorem rdP_wrP {t b t' p : Nat} (v : Bool) (k : Skein) (hb : b < 8) (hp : p < 8) :
    rdP (wrP t b v k) t' p = if t' = t ∧ p = b ∧ p ≠ 7 then v else rdP k t' p := by
  by_cases h7 : p = 7
  · simp [rdP, h7]
  by_cases hb7 : b = 7
  · rw [wrP, if_pos hb7, if_neg (by omega)]
  have hkey : t' * 8 + p = t * 8 + b ↔ t' = t ∧ p = b := by omega
  simp only [rdP, wrP, hb7, if_false, ne_eq, h7, not_false_eq_true, and_true, beq_eq_false_iff_ne.mpr h7, Bool.false_or]
  rw [Bool.eq_iff_iff]
  cases v with
  | true => by_cases h : t' = t ∧ p = b <;> simp [mem_sinsert, hkey, h]
  | false => by_cases h : t' = t ∧ p = b <;> simp [mem_sdel, hkey, h]

theorem rdP_foldl_wrP (ts : List Nat) (f : Nat → Bool) {b t' p : Nat} (k : Skein) (hb : b < 8) (hp : p < 8) :
    rdP (ts.foldl (fun k t => wrP t b (f t) k) k) t' p = if t' ∈ ts ∧ p = b ∧ p ≠ 7 then f t' else rdP k t' p := by
  induction ts generalizing k with
  | nil => simp
  | cons t ts ih =>
    rw [List.foldl_cons, ih, rdP_wrP _ _ hb hp]
    by_cases hmem : t' ∈ ts
    · simp only [hmem, true_and, List.mem_cons, or_true]
      split
      · rfl
      · rw [if_neg (by tauto)]
    · by_cases ht : t' = t
      · subst ht
        simp [hmem]
      · simp [hmem, ht]

/-! ## What the writes leave alone -/

/-- The parts of a skein that writes of thread registers leave alone. -/
theorem wrGs_rest (t b n v : Nat) (k : Skein) : wrGs t b n v k = { k with regs := (wrGs t b n v k).regs } := by
  induction n generalizing b v k with
  | zero => rfl
  | succ n ih =>
    have hone : wrG t b (v % 2 ^ 32) k = { k with regs := (wrG t b (v % 2 ^ 32) k).regs } := by unfold wrG; split <;> rfl
    rw [wrGs, ih, hone]

theorem foldl_wrGs_rest (l : List (Nat × Nat)) (b n : Nat) (k : Skein) :
    l.foldl (fun k p => wrGs p.1 b n p.2 k) k = { k with regs := (l.foldl (fun k p => wrGs p.1 b n p.2 k) k).regs } := by
  induction l generalizing k with
  | nil => rfl
  | cons p l ih => rw [List.foldl_cons, ih, wrGs_rest]

theorem wrUs_rest (b n v : Nat) (k : Skein) : wrUs b n v k = { k with uregs := (wrUs b n v k).uregs } := by
  induction n generalizing b v k with
  | zero => rfl
  | succ n ih => rw [wrUs, ih]

theorem foldl_wrP_rest (l : List Nat) (b : Nat) (f : Nat → Bool) (k : Skein) :
    l.foldl (fun k t => wrP t b (f t) k) k = { k with preds := (l.foldl (fun k t => wrP t b (f t) k) k).preds } := by
  induction l generalizing k with
  | nil => rfl
  | cons t l ih =>
    have hone : wrP t b (f t) k = { k with preds := (wrP t b (f t) k).preds } := by unfold wrP; split <;> rfl
    rw [List.foldl_cons, ih, hone]

/-! ## Forms and destinations -/

/-- The MAJOR of a word that belongs to a row (R70). -/
theorem fMajor_of_rowOf {w r : Nat} (h : rowOf w = r) (hr : r ≠ 0) : fMajor w = r / 8 := by
  have hf : fFunc w < 64 := bits_lt _ _ _
  unfold rowOf at h
  dsimp only at h
  split at h
  case h_8 => split at h <;> omega
  case h_3 => omega
  all_goals split at h <;> omega

/-- An instruction that issues has a form that is not reserved and a legal destination, in range and aligned (R111, R112). -/
theorem form_of_issues {w : Who} {row : Nat} {s : State} {e : Env} (h : Issues w row s e) :
    (formOf e.ins.w).bad = false ∧ dstOk (formOf e.ins.w).d (fDst e.ins.w) = true ∧
      ∀ n, (formOf e.ins.w).d = .g n → fDst e.ins.w + n ≤ 256 := by
  have hnone := h.2.2
  unfold preludeFault at hnone
  split at hnone
  · cases hnone
  · next henc =>
    split at hnone
    · cases hnone
    · next halign =>
      have hbad : ((formOf e.ins.w).bad || !dstOk (formOf e.ins.w).d (fDst e.ins.w)) = false := by
        by_contra hc
        rw [encodingFault, if_pos (by simpa only [Bool.not_eq_false] using hc)] at henc
        cases henc
      simp only [Bool.or_eq_false_iff, Bool.not_eq_false'] at hbad
      refine ⟨hbad.1, hbad.2, fun n hd => ?_⟩
      have hgroup : dstGroup e.ins.w = some ⟨false, fDst e.ins.w, n, n⟩ := by simp only [dstGroup, hd]
      simp only [alignFault, allGroups, hgroup, Option.toList_some, List.any_append, List.any_cons, Bool.or_eq_true, not_or,
        Bool.not_eq_true, Bool.not_eq_false', groupAligned, Bool.and_eq_true, decide_eq_true_eq] at halign
      exact halign.2.2.1.2

/-! ## Results -/

theorem writesRegs_wrDst (w n : Nat) (res : List (Nat × Nat)) : WritesRegs (wrDst w n res) := by
  intro k
  unfold wrDst
  split
  · split
    · rw [wrUs_rest]
    · rfl
  · rw [foldl_wrGs_rest]

theorem writesRegs_wrUs (b n v : Nat) : WritesRegs (wrUs b n v) := fun k => by rw [wrUs_rest]

theorem writesRegs_id : WritesRegs id := fun _ => rfl

theorem writesRegs_foldl_wrP (l : List Nat) (b : Nat) (f : Nat → Bool) : WritesRegs (fun k => l.foldl (fun k t => wrP t b (f t) k) k) :=
  fun k => by dsimp only; rw [foldl_wrP_rest]

/-- The written results of an instruction that issues are what `ResultIs` asks for. -/
theorem resultIs_wrDst {w : Who} {row : Nat} {s : State} {e : Env} (h : Issues w row s e) {n : Nat} (f : Nat → Nat)
    (hd : (formOf e.ins.w).d = .g n ∨ (formOf e.ins.w).d = .u n) {j k : Skein} (hjr : j.regs = e.k.regs) (hju : j.uregs = e.k.uregs)
    (hjp : j.preds = e.k.preds) (hkr : k.regs = (wrDst e.ins.w n ((lanes e).map (fun t => (t, f t))) j).regs)
    (hku : k.uregs = (wrDst e.ins.w n ((lanes e).map (fun t => (t, f t))) j).uregs)
    (hkp : k.preds = (wrDst e.ins.w n ((lanes e).map (fun t => (t, f t))) j).preds) : ResultIs e n f k := by
  rcases hd with hd | hd
  · simp only [wrDst, hd] at hkr hku hkp
    rw [foldl_wrGs_rest] at hku hkp
    simp only [ResultIs, hd]
    refine ⟨hkp.trans hjp, hku.trans hju, fun t r hr => ?_⟩
    have hbound := (form_of_issues h).2.2 n hd
    have hwritten := rdG_foldl_wrGs (lanes e) f (t' := t) j hbound hr
    have hk : rdG k t r = rdG ((lanes e |>.map (fun t => (t, f t))).foldl (fun k p => wrGs p.1 (fDst e.ins.w) n p.2 k) j) t r := by
      simp only [rdG, hkr]
    have hj : rdG j t r = rdG e.k t r := by simp only [rdG, hjr]
    rw [hk, hwritten, hj]
  · simp only [wrDst, hd] at hkr hku hkp
    simp only [ResultIs, hd]
    have hj (r : Nat) : rdU j r = rdU e.k r := by simp only [rdU, hju]
    cases hl : lanes e with
    | nil =>
      simp only [hl, List.map_nil] at hkr hku hkp
      exact ⟨hkp.trans hjp, hkr.trans hjr, fun r => by rw [← hj r]; simp only [rdU, hku]⟩
    | cons t l =>
      simp only [hl, List.map_cons] at hkr hku hkp
      rw [wrUs_rest] at hkr hkp
      refine ⟨hkp.trans hjp, hkr.trans hjr, fun r => ?_⟩
      have hk : rdU k r = rdU (wrUs (fDst e.ins.w) n (f t) j) r := by simp only [rdU, hku]
      rw [hk, rdU_wrUs, hj r]

/-- An instruction that writes a result in each thread completes with it. -/
theorem completes_perThread {w : Who} {row : Nat} {s : State} {e : Env} (h : Issues w row s e) {may : Env → Bool} (hm : may e = true)
    {body : Env → State → State} {n : Nat} {f : Nat → Nat} (hbody : body e (countIssue e s) = perThread e n f (countIssue e s))
    (hd : (formOf e.ins.w).d = .g n ∨ (formOf e.ins.w).d = .u n) :
    ∃ t k, (.next (issueRow w row may body s) : Host.Outcome State Fault Refusal) = .next t ∧ IssuedFor e s t k ∧ ResultIs e n f k := by
  obtain ⟨k, j, hk, hjr, hju, hjp, hkr, hku, hkp⟩ := issuedFor_finish h (writesRegs_wrDst e.ins.w n ((lanes e).map (fun t => (t, f t))))
  refine ⟨_, k, rfl, ?_, resultIs_wrDst h f hd hjr hju hjp hkr hku hkp⟩
  rw [issueRow_of_issues h may hm, hbody]
  exact hk

/-- An instruction that writes a predicate in each thread completes with it. -/
theorem completes_perThreadP {w : Who} {row : Nat} {s : State} {e : Env} (h : Issues w row s e) {may : Env → Bool} (hm : may e = true)
    {body : Env → State → State} {f : Nat → Bool} (hbody : body e (countIssue e s) = perThreadP e f (countIssue e s))
    (hd : (formOf e.ins.w).d = .p) :
    ∃ t k, (.next (issueRow w row may body s) : Host.Outcome State Fault Refusal) = .next t ∧ IssuedFor e s t k ∧ PredicateIs e f k := by
  obtain ⟨k, j, hk, hjr, hju, hjp, hkr, hku, hkp⟩ := issuedFor_finish h (writesRegs_foldl_wrP (lanes e) (fDst e.ins.w) f)
  rw [foldl_wrP_rest] at hkr hku
  refine ⟨_, k, rfl, ?_, hkr.trans hjr, hku.trans hju, fun t p hp => ?_⟩
  · rw [issueRow_of_issues h may hm, hbody]
    exact hk
  · have hdst : fDst e.ins.w < 8 := by simpa [hd, dstOk] using (form_of_issues h).2.1
    have hrd : rdP k t p = rdP ((lanes e).foldl (fun k t => wrP t (fDst e.ins.w) (f t) k) j) t p := by simp only [rdP, hkp]
    have hj : rdP j t p = rdP e.k t p := by simp only [rdP, hjp]
    rw [hrd, rdP_foldl_wrP _ _ _ hdst hp, hj]

end Sys2Proof.Machine
end

section
/-! PROOF. The integer instructions (R79 to R83). -/

namespace Sys2Proof.Machine

/-- The form of an instruction of the integer MAJORs (R80 to R83). -/
theorem formOf_int {w r : Nat} (h : rowOf w = r) (h1 : 8 ≤ r) (h2 : r < 0x58) : formOf w = intForm (r / 8) (fFunc w) (fMod w) := by
  have hm := fMajor_of_rowOf h (by omega)
  have hr : ¬ rowOf w = 0 := by omega
  simp only [formOf, hr, if_false, hm]
  rw [if_pos (by omega)]

/-- A form whose word is not reserved has the destination `d`. -/
def DstIs (d : DstUse) (fm : Form) : Prop := fm.bad = false → fm.d = d

theorem dstIs_mkForm (a b c : Use) (d : DstUse) (bad : Bool) : DstIs d (mkForm a b c d bad) := fun _ => rfl

theorem dstIs_badForm (d : DstUse) : DstIs d badForm := fun h => absurd h (by decide)

theorem dstIs_ite {d : DstUse} {c : Prop} [Decidable c] {x y : Form} (hx : DstIs d x) (hy : DstIs d y) : DstIs d (if c then x else y) := by
  split
  · exact hx
  · exact hy

/-- DST of a result of `n` words: uniform where bit 6 of MOD is set (R75, R80). -/
def dstOf (md n : Nat) : DstUse := if bit md 6 then .u n else .g n

theorem dstOf_cases {md n : Nat} {d : DstUse} (h : d = dstOf md n) : d = .g n ∨ d = .u n := by
  rw [h, dstOf]
  split
  · exact .inr rfl
  · exact .inl rfl

/-- The words of an integer type, from MOD (R80). -/
def typeWords (md : Nat) : Nat := if bit md 1 then 2 else 1

/-- An integer type takes two words where bit 1 of its code is set (R80). -/
theorem intWords_eq (w : Nat) : intWords w = typeWords (fMod w) := by
  have : bits (fMod w) 1 0 < 4 := bits_lt _ _ _
  have hbit : bit (fMod w) 1 = decide (2 ≤ bits (fMod w) 1 0) := by
    simp only [bit, bits, Nat.shiftRight_eq_div_pow, beq_eq_decide]
    congr 1
    simp only [eq_iff_iff]
    omega
  have hty : intType w = bits (fMod w) 1 0 := rfl
  rw [intWords, typeWords, hbit, hty]
  rcases Nat.lt_or_ge (bits (fMod w) 1 0) 2 with h | h <;> simp [h, Nat.not_le.mpr, Nat.not_lt.mpr]

/-- The MAJORs that write a result of the type's words. -/
theorem dstIs_intForm {m : Nat} (hm : m ∈ [2, 3, 6, 7, 10]) (f md : Nat) : DstIs (dstOf md (typeWords md)) (intForm m f md) := by
  simp only [List.mem_cons, List.not_mem_nil, or_false] at hm
  unfold intForm
  extract_lets wide t n d ok
  rcases hm with rfl | rfl | rfl | rfl | rfl
  · simp only
    split
    case h_13 => exact dstIs_badForm _
    all_goals exact dstIs_mkForm _ _ _ _ _
  · exact dstIs_ite (dstIs_mkForm _ _ _ _ _) (dstIs_ite (dstIs_mkForm _ _ _ _ _) (dstIs_badForm _))
  · simp only
    split
    case h_7 => exact dstIs_badForm _
    all_goals exact dstIs_mkForm _ _ _ _ _
  · exact dstIs_ite (dstIs_mkForm _ _ _ _ _) (dstIs_ite (dstIs_mkForm _ _ _ _ _) (dstIs_badForm _))
  · exact dstIs_ite (dstIs_mkForm _ _ _ _ _) (dstIs_ite (dstIs_mkForm _ _ _ _ _) (dstIs_badForm _))

/-- IMUL: MAD64 writes a pair (R81). -/
theorem dstIs_imul (f md : Nat) : DstIs (dstOf md (if f = 3 then 2 else typeWords md)) (intForm 4 f md) := by
  match f with
  | 0 | 1 | 2 => exact dstIs_mkForm _ _ _ _ _
  | 3 => exact dstIs_mkForm _ _ _ _ _
  | _ + 4 => exact dstIs_badForm _

/-- ICMP and PLOP write a predicate (R82). -/
theorem dstIs_predicate {m : Nat} (hm : m = 5 ∨ m = 8) (f md : Nat) : DstIs .p (intForm m f md) := by
  rcases hm with rfl | rfl
  · exact dstIs_ite (dstIs_mkForm _ _ _ _ _) (dstIs_badForm _)
  · exact dstIs_mkForm _ _ _ _ _

/-- VOTE writes a predicate, but BALLOT its mask (R82); no other function is assigned. -/
theorem dstIs_vote (f md : Nat) : DstIs (if f = 2 then dstOf md 1 else .p) (intForm 9 f md) ∧ ((intForm 9 f md).bad = false → f ≤ 2) := by
  by_cases h2 : f = 2
  · subst h2
    exact ⟨dstIs_mkForm _ _ _ _ _, fun _ => le_rfl⟩
  · by_cases h : f < 2
    · exact ⟨by rw [if_neg h2]; simp only [intForm, h, if_true]; exact dstIs_mkForm _ _ _ _ _, fun _ => h.le⟩
    · have hbad : intForm 9 f md = badForm := by simp only [intForm, h, h2, if_false]
      rw [hbad]
      exact ⟨dstIs_badForm _, fun hb => absurd hb (by decide)⟩

section
variable {w : Who} {row : Nat} {s : State} {e : Env}

/-- The destination of an integer instruction that issues. -/
theorem int_dst {d : DstUse} (h : Issues w row s e) (h1 : 8 ≤ row) (h2 : row < 0x58)
    (hd : DstIs d (intForm (row / 8) (fFunc e.ins.w) (fMod e.ins.w))) : (formOf e.ins.w).d = d := by
  have hbad := (form_of_issues h).1
  rw [formOf_int h.2.1 h1 h2] at hbad ⊢
  exact hd hbad

theorem words_dst (h : Issues w row s e) (h1 : 8 ≤ row) (h2 : row < 0x58) (hm : row / 8 ∈ [2, 3, 6, 7, 10]) :
    (formOf e.ins.w).d = .g (intWords e.ins.w) ∨ (formOf e.ins.w).d = .u (intWords e.ins.w) := by
  refine dstOf_cases (md := fMod e.ins.w) ?_
  rw [intWords_eq]
  exact int_dst h h1 h2 (dstIs_intForm hm _ _)

theorem mul_dst (h : Issues w (4 * 8) s e) : (formOf e.ins.w).d = .g (if fFunc e.ins.w = 3 then 2 else intWords e.ins.w) ∨
    (formOf e.ins.w).d = .u (if fFunc e.ins.w = 3 then 2 else intWords e.ins.w) := by
  refine dstOf_cases (md := fMod e.ins.w) ?_
  rw [intWords_eq]
  exact int_dst h (by decide) (by decide) (dstIs_imul _ _)

theorem nop_completes (h : Issues w (0x01 * 8) s e) : ∃ t k, exec (.nop w) s = .next t ∧ IssuedFor e s t k ∧
    k.regs = e.k.regs ∧ k.uregs = e.k.uregs ∧ k.preds = e.k.preds := by
  obtain ⟨k, j, hk, hjr, hju, hjp, hkr, hku, hkp⟩ := issuedFor_finish h writesRegs_id
  refine ⟨_, k, rfl, ?_, hkr.trans hjr, hku.trans hju, hkp.trans hjp⟩
  rw [issueRow_of_issues h _ rfl]
  exact hk

/-- VOTE: BALLOT gives the mask of the threads whose operand is true, ANY and ALL a predicate (R82). -/
theorem vote_completes (h : Issues w (0x09 * 8) s e) : ∃ t k, exec (.vote w) s = .next t ∧ IssuedFor e s t k ∧
    (fFunc e.ins.w = 2 → ResultIs e 1 (fun _ => listMask ((lanes e).filter (srcP e 0))) k) ∧
    (fFunc e.ins.w = 0 → PredicateIs e (fun _ => (lanes e).any (srcP e 0)) k) ∧
    (fFunc e.ins.w = 1 → PredicateIs e (fun _ => (lanes e).all (srcP e 0)) k) := by
  have hdst := int_dst h (by decide) (by decide) (dstIs_vote _ _).1
  by_cases h2 : fFunc e.ins.w = 2
  · rw [if_pos h2] at hdst
    obtain ⟨t, k, ht, hk, hres⟩ := completes_perThread h (may := fun _ => true) rfl (body := fun e s =>
      let f := fFunc e.ins.w
      if f = 2 then perThread e 1 (fun _ => listMask ((lanes e).filter (srcP e 0))) s
      else perThreadP e (fun _ => voteResult f ((lanes e).map (srcP e 0))) s) (if_pos h2) (dstOf_cases hdst)
    exact ⟨t, k, ht, hk, fun _ => hres, fun h0 => by omega, fun h1 => by omega⟩
  · rw [if_neg h2] at hdst
    obtain ⟨t, k, ht, hk, hres⟩ := completes_perThreadP h (may := fun _ => true) rfl (body := fun e s =>
      let f := fFunc e.ins.w
      if f = 2 then perThread e 1 (fun _ => listMask ((lanes e).filter (srcP e 0))) s
      else perThreadP e (fun _ => voteResult f ((lanes e).map (srcP e 0))) s) (if_neg h2) hdst
    refine ⟨t, k, ht, hk, fun h => absurd h h2, fun h0 => ?_, fun h1 => ?_⟩
    · simpa [h0, voteResult, Function.comp_def] using hres
    · simpa [h1, voteResult, Function.comp_def] using hres

end

/-- Settles O12: each integer instruction is one write of results or of a predicate, and its form names a destination of the result's size. -/
theorem integerInstructionsWriteTheirResults : Obligations.IntegerInstructionsWriteTheirResults := by
  intro w s e x
  refine ⟨nop_completes, fun h => ?_, fun h => ?_, fun h => ?_, fun h => ?_, fun h => ?_, fun h => ?_, fun h => ?_, vote_completes,
    fun h => ?_⟩
  · exact completes_perThread h rfl rfl (words_dst h (by decide) (by decide) (by decide))
  · exact completes_perThread h rfl rfl (words_dst h (by decide) (by decide) (by decide))
  · exact completes_perThread h rfl rfl (mul_dst h)
  · exact completes_perThreadP h rfl rfl (int_dst h (by decide) (by decide) (dstIs_predicate (.inl rfl) _ _))
  · exact completes_perThread h rfl rfl (words_dst h (by decide) (by decide) (by decide))
  · exact completes_perThread h rfl (by simp only [Bool.or_eq_true, decide_eq_true_eq]; rfl) (words_dst h (by decide) (by decide) (by decide))
  · exact completes_perThreadP h rfl rfl (int_dst h (by decide) (by decide) (dstIs_predicate (.inr rfl) _ _))
  · exact completes_perThread h rfl (by simp only [List.contains_iff_mem]; rfl) (words_dst h (by decide) (by decide) (by decide))

end Sys2Proof.Machine
end

section
/-! PROOF. The floating-point and conversion instructions (R84 to R92). -/

namespace Sys2Proof.Machine

theorem formOf_fp {w r : Nat} (h : rowOf w = r) (h1 : 0x58 ≤ r) (h2 : r < 0xC8) : formOf w = fpForm (r / 8) (fFunc w) (fMod w) := by
  have hm := fMajor_of_rowOf h (by omega)
  have hr : ¬ rowOf w = 0 := by omega
  simp only [formOf, hr, if_false, hm]
  rw [if_neg (by omega), if_pos (by omega)]

/-- The destination of a floating-point instruction, by its MAJOR (R84 to R92). -/
def fpDst (m : Nat) : DstUse := if m = 0x14 then .p else if m = 0x16 then .u 1 else .g 1

theorem dstIs_fpForm {m : Nat} (hm : m ∈ [0x10, 0x11, 0x12, 0x13, 0x14, 0x15, 0x16, 0x18]) (f md : Nat) :
    DstIs (fpDst m) (fpForm m f md) := by
  simp only [List.mem_cons, List.not_mem_nil, or_false] at hm
  unfold fpForm
  extract_lets bad noRnd rnd
  rcases hm with rfl | rfl | rfl | rfl | rfl | rfl | rfl | rfl
  · exact dstIs_ite (dstIs_mkForm _ _ _ _ _) (dstIs_badForm _)
  · exact dstIs_ite (dstIs_mkForm _ _ _ _ _) (dstIs_badForm _)
  · exact dstIs_ite (dstIs_mkForm _ _ _ _ _) (dstIs_badForm _)
  · exact dstIs_ite (dstIs_mkForm _ _ _ _ _) (dstIs_ite (dstIs_mkForm _ _ _ _ _) (dstIs_badForm _))
  · exact dstIs_ite (dstIs_mkForm _ _ _ _ _) (dstIs_badForm _)
  · exact dstIs_mkForm _ _ _ _ _
  · exact dstIs_mkForm _ _ _ _ _
  · exact dstIs_mkForm _ _ _ _ _

section
variable {w : Who} {row : Nat} {s : State} {e : Env}

theorem fp_dst (h : Issues w row s e) (h1 : 0x58 ≤ row) (h2 : row < 0xC8)
    (hm : row / 8 ∈ [0x10, 0x11, 0x12, 0x13, 0x14, 0x15, 0x16, 0x18]) : (formOf e.ins.w).d = fpDst (row / 8) := by
  have hbad := (form_of_issues h).1
  rw [formOf_fp h.2.1 h1 h2] at hbad ⊢
  exact dstIs_fpForm hm _ _ hbad

/-- A rounded arithmetic instruction over its threads completes (R84, R85). -/
theorem completes_fpArith (h : Issues w row s e) {body : Env → State → State} {op : Rnd → Val → Val → Val → Val}
    (hbody : body e (countIssue e s) = fpArith e op (countIssue e s)) (hd : (formOf e.ins.w).d = .g 1) :
    ∃ t k, (.next (issueRow w row (fun _ => true) body s) : Host.Outcome State Fault Refusal) = .next t ∧ IssuedFor e s t k ∧
      ResultIs e 1 (fun th => fpAll (fpFmt e.ins.w) (fpOne (fpFmt e.ins.w) (fpRnd (bits (fMod e.ins.w) 4 2)) (bit (fMod e.ins.w) 5)
        (op (fpRnd (bits (fMod e.ins.w) 4 2)))) (srcF e 0 (fpFmt e.ins.w) th) (srcF e 1 (fpFmt e.ins.w) th) (srcF e 2 (fpFmt e.ins.w) th)) k :=
  completes_perThread h rfl hbody (.inl hd)

/-- What FFMA computes before it rounds: FMA, FMS and NFMA (R85). -/
def ffmaOp (f : Nat) (r : Rnd) (a b c : Val) : Val :=
  match f with
  | 0 => valAdd r (valMul a b) c
  | 1 => valAdd r (valMul a b) c.neg
  | _ => valAdd r (valMul a b).neg c

/-- FCVT faults where SATF is asked of a context without the capability and a thread takes part (R89, R112). -/
theorem fcvt_faults (h : Issues w (0x15 * 8) s e) (hsat : bit (fMod e.ins.w) 0 = true) (hcap : ctxCap s e.k.ctx 0 = false) {th : Nat}
    {l : List Nat} (hl : lanes e = th :: l) : exec (.fcvt w) s = .next (insFault e zsDenied 0x33 0 th (countIssue e s)) := by
  have hc : ctxCap (countIssue e s) e.k.ctx 0 = false := hcap
  refine congrArg Host.Outcome.next ?_
  rw [issueRow_of_issues h _ rfl]
  simp only [hsat, hc, hl, Bool.not_false, List.isEmpty_cons, Bool.and_self, if_true, List.headD_cons]

theorem fcvt_completes (h : Issues w (0x15 * 8) s e) (hsat : bit (fMod e.ins.w) 0 = true → ctxCap s e.k.ctx 0 = true ∨ lanes e = []) :
    ∃ t k, exec (.fcvt w) s = .next t ∧ IssuedFor e s t k ∧ ResultIs e 1 (fun th =>
      fcvtResult (bits (fFunc e.ins.w) 5 2) (bits (fFunc e.ins.w) 1 0 * 4 + bits (fMod e.ins.w) 6 5)
        (fcvtRnd (bits (fMod e.ins.w) 4 2) (src e 2 1 th)) (bit (fMod e.ins.w) 0) (src e 0 1 th) (src e 1 1 th)) k := by
  have hok : (bit (fMod e.ins.w) 0 && !ctxCap (countIssue e s) e.k.ctx 0 && !(lanes e).isEmpty) = false := by
    have hc : ctxCap (countIssue e s) e.k.ctx 0 = ctxCap s e.k.ctx 0 := rfl
    rw [hc]
    by_cases hb : bit (fMod e.ins.w) 0 = true
    · rcases hsat hb with h1 | h1 <;> simp [h1]
    · simp [hb]
  refine completes_perThread h rfl ?_ (.inl (fp_dst h (by decide) (by decide) (by decide)))
  exact if_neg (Bool.eq_false_iff.mp hok)

theorem amax_completes (h : Issues w (0x16 * 8) s e) : ∃ t k, exec (.amax w) s = .next t ∧ IssuedFor e s t k ∧ k.preds = e.k.preds ∧
    k.regs = e.k.regs ∧ ∀ r, rdU k r = if r = fDst e.ins.w ∧ neverGuard e.ins.w = false
      then amaxResult (fpFmt e.ins.w) (srcF e 2 0 ((lanes e).headD (lowThread e))) ((lanes e).map (srcF e 0 (fpFmt e.ins.w))) % 2 ^ 32
      else rdU e.k r := by
  have hnext (f : Skein → Skein) (hf : f = if neverGuard e.ins.w then id else wrUs (fDst e.ins.w) 1 (amaxResult (fpFmt e.ins.w)
      (srcF e 2 0 ((lanes e).headD (lowThread e))) ((lanes e).map (srcF e 0 (fpFmt e.ins.w))))) :
      exec (.amax w) s = .next (finish e f (countIssue e s)) := by
    rw [hf]
    exact congrArg Host.Outcome.next (issueRow_of_issues h _ rfl _)
  by_cases hn : neverGuard e.ins.w = true
  · obtain ⟨k, j, hk, hjr, hju, hjp, hkr, hku, hkp⟩ := issuedFor_finish h writesRegs_id
    refine ⟨_, k, hnext id (by rw [hn]; rfl), hk, hkp.trans hjp, hkr.trans hjr, fun r => ?_⟩
    rw [if_neg (by simp [hn])]
    simp only [rdU, hku, id, hju]
  · have hn : neverGuard e.ins.w = false := by simpa using hn
    obtain ⟨k, j, hk, hjr, hju, hjp, hkr, hku, hkp⟩ := issuedFor_finish h (writesRegs_wrUs (fDst e.ins.w) 1 (amaxResult (fpFmt e.ins.w)
      (srcF e 2 0 ((lanes e).headD (lowThread e))) ((lanes e).map (srcF e 0 (fpFmt e.ins.w)))))
    rw [wrUs_rest] at hkr hkp
    refine ⟨_, k, hnext _ (by rw [hn]; rfl), hk, hkp.trans hjp, hkr.trans hjr, fun r => ?_⟩
    have hrd : rdU k r = rdU (wrUs (fDst e.ins.w) 1 (amaxResult (fpFmt e.ins.w)
      (srcF e 2 0 ((lanes e).headD (lowThread e))) ((lanes e).map (srcF e 0 (fpFmt e.ins.w)))) j) r := by simp only [rdU, hku]
    have hj : rdU j r = rdU e.k r := by simp only [rdU, hju]
    rw [hrd, rdU_wrUs, hj]
    by_cases hr : r = fDst e.ins.w
    · simp [hr, hn]
    · rw [if_neg (by omega), if_neg (by tauto)]

/-- FMNMX: the lesser, the greater, or a bit operation on the sign (R85). -/
theorem fmnmx_completes (h : Issues w (0x13 * 8) s e) (hd : (formOf e.ins.w).d = .g 1) : let fmt := fpFmt e.ins.w
    let one (op : Val → Val → Val → Val) (th : Nat) : Nat := fpAll fmt
      (fpOne fmt (fpRnd (bits (fMod e.ins.w) 4 2)) (bit (fMod e.ins.w) 5) op) (srcF e 0 fmt th) (srcF e 1 fmt th) (srcF e 2 fmt th)
    ∃ t k, exec (.fmnmx w) s = .next t ∧ IssuedFor e s t k ∧
      (fFunc e.ins.w = 0 → ResultIs e 1 (one (fun a b _ => valMin a b)) k) ∧
      (fFunc e.ins.w = 1 → ResultIs e 1 (one (fun a b _ => valMax a b)) k) ∧
      (2 ≤ fFunc e.ins.w → ResultIs e 1 (fun th => fpAll fmt (fun a _ _ => fpSignOp (fFunc e.ins.w) fmt a) (srcF e 0 fmt th) 0 0) k) := by
  intro fmt one
  by_cases hf : fFunc e.ins.w < 2
  · obtain ⟨t, k, ht, hk, hres⟩ := completes_fpArith h (op := fun _ a b _ => if fFunc e.ins.w = 0 then valMin a b else valMax a b) (body := fun e s =>
      let fmt := fpFmt e.ins.w
      let f := fFunc e.ins.w
      if f < 2 then fpArith e (fun _ a b _ => if f = 0 then valMin a b else valMax a b) s
      else perThread e 1 (fun t => fpAll fmt (fun a _ _ => fpSignOp f fmt a) (srcF e 0 fmt t) 0 0) s) (if_pos hf) hd
    refine ⟨t, k, ht, hk, fun h0 => ?_, fun h1 => ?_, fun h2 => absurd hf (Nat.not_lt.mpr h2)⟩
    · simpa only [h0, if_true] using hres
    · simpa only [h1, Nat.one_ne_zero, if_false] using hres
  · obtain ⟨t, k, ht, hk, hres⟩ := completes_perThread h (may := fun _ => true) rfl (body := fun e s =>
      let fmt := fpFmt e.ins.w
      let f := fFunc e.ins.w
      if f < 2 then fpArith e (fun _ a b _ => if f = 0 then valMin a b else valMax a b) s
      else perThread e 1 (fun t => fpAll fmt (fun a _ _ => fpSignOp f fmt a) (srcF e 0 fmt t) 0 0) s) (if_neg hf) (.inl hd)
    exact ⟨t, k, ht, hk, fun h0 => absurd h0 (by omega), fun h1 => absurd h1 (by omega), fun _ => hres⟩

end

/-- Settles O14: each instruction is one rounded operation over its threads, a predicate, a conversion behind its check, or AMAX's uniform
register. -/
theorem floatInstructionsWriteTheirResults : Obligations.FloatInstructionsWriteTheirResults := by
  intro w s e x fmt one
  refine ⟨fun h => ?_, fun h => ?_, fun h => ?_, fun h => ?_, fun h => ?_, fcvt_completes, fun h hsat hcap _ _ hl => fcvt_faults h hsat hcap hl,
    amax_completes, fun h => ?_⟩
  · exact completes_fpArith (op := fun r a b _ => valAdd r a (if fFunc e.ins.w = 0 then b else b.neg)) h rfl
      (fp_dst h (by decide) (by decide) (by decide))
  · exact completes_fpArith (op := fun _ a b _ => valMul a b) h rfl (fp_dst h (by decide) (by decide) (by decide))
  · obtain ⟨t, k, ht, hk, hres⟩ := completes_fpArith h (body := fun e s => fpArith e (ffmaOp (fFunc e.ins.w)) s) rfl
      (fp_dst h (by decide) (by decide) (by decide))
    refine ⟨t, k, ht, hk, fun hf => ?_, fun hf => ?_, fun hf => ?_⟩ <;>
    · change fFunc e.ins.w = _ at hf
      rw [hf] at hres
      exact hres
  · exact fmnmx_completes h (fp_dst h (by decide) (by decide) (by decide))
  · exact completes_perThreadP h rfl rfl (fp_dst h (by decide) (by decide) (by decide))
  · exact completes_perThread h rfl rfl (.inl (fp_dst h (by decide) (by decide) (by decide)))

end Sys2Proof.Machine
end

section
/-! PROOF. The skein matrix instructions, TOPK and the register forms of CHK (R58, R59, R102 to R106, R110). -/

namespace Sys2Proof.Machine

section
variable {w : Who} {row : Nat} {s : State} {e : Env}

theorem formOf_skm {w r : Nat} (h : rowOf w = r) (h1 : 0x180 ≤ r) (h2 : r < 0x190) : formOf w = skmForm (r / 8) (fFunc w) (fMod w) := by
  have hm := fMajor_of_rowOf h (by omega)
  have hr : ¬ rowOf w = 0 := by omega
  simp only [formOf, hr, if_false, hm]
  rw [if_neg (by omega), if_neg (by omega), if_neg (by omega), if_neg (by omega), if_pos (by omega)]

theorem formOf_tq {w r : Nat} (h : rowOf w = r) (h1 : 0x190 ≤ r) : formOf w = tqForm (r / 8) (fFunc w) (fMod w) := by
  have hm := fMajor_of_rowOf h (by omega)
  have hr : ¬ rowOf w = 0 := by omega
  simp only [formOf, hr, if_false, hm]
  rw [if_neg (by omega), if_neg (by omega), if_neg (by omega), if_neg (by omega), if_neg (by omega)]

/-- The function that tells the rows of SKM apart (R102, R105). -/
theorem fFunc_of_rowOf_skm {w k : Nat} (h : rowOf w = 0x30 * 8 + k) (hk : k < 8) : fFunc w / 16 = k := by
  have hm : fMajor w = 0x30 := (fMajor_of_rowOf h (by omega)).trans (by omega)
  simp only [rowOf, hm] at h
  omega

/-- The function that tells the rows of CHK apart (R110). -/
theorem fFunc_of_rowOf_chk {w k : Nat} (h : rowOf w = 0x35 * 8 + k) (hk : k < 3) : fFunc w = k := by
  have hm : fMajor w = 0x35 := (fMajor_of_rowOf h (by omega)).trans (by omega)
  simp only [rowOf, hm] at h
  split at h <;> omega

/-- The destination of the rows of SKM: a fragment of eight or four registers, or one register. -/
theorem skm_dst {k : Nat} (h : Issues w (0x30 * 8 + k) s e) (hk : k < 4) :
    (formOf e.ins.w).d = .g (match k with | 0 => 8 | 1 => 4 | _ => 1) := by
  have hbad := (form_of_issues h).1
  have hform := formOf_skm h.2.1 (by omega) (by omega)
  have hm : (0x30 * 8 + k) / 8 = 0x30 := by omega
  rw [hm] at hform
  have hf := fFunc_of_rowOf_skm h.2.1 (by omega)
  rw [hform]
  simp only [skmForm, hf]
  interval_cases k <;> rfl

theorem topk_dst (h : Issues w (0x31 * 8) s e) : (formOf e.ins.w).d = .g 8 := by
  rw [formOf_skm h.2.1 (by decide) (by decide)]
  rfl

/-- The destination of the register forms of CHK. -/
theorem chk_dst {k : Nat} (h : Issues w (0x35 * 8 + k) s e) (hk : k < 2) : (formOf e.ins.w).d = .g 1 := by
  have hform := formOf_tq h.2.1 (by omega)
  have hm : (0x35 * 8 + k) / 8 = 0x35 := by omega
  rw [hm] at hform
  have hf := fFunc_of_rowOf_chk h.2.1 (by omega)
  rw [hform]
  simp only [tqForm, hf]
  interval_cases k <;> rfl

/-- The convergence rule is met: the body runs (R58). -/
theorem skmRun_of_full (h : (lanes e).length = 32 ∨ maskedZero s e.k.ctx = true) (body : State → State) :
    skmRun e body (countIssue e s) = body (countIssue e s) := by
  have hm : maskedZero (countIssue e s) e.k.ctx = maskedZero s e.k.ctx := rfl
  rcases h with h | h <;> simp [skmRun, hm, h]

/-- No group has more threads than a skein. -/
theorem length_lanes_le (e : Env) : (lanes e).length ≤ 32 := by
  have h1 := List.length_filter_le (guardOf e.k e.ins.w) (maskList 32 e.mask)
  have h2 := List.length_filter_le (fun i => bit e.mask i) (List.range 32)
  rw [List.length_range] at h2
  exact h1.trans h2

/-- Under a partial mask that no mode allows, the convergence rule faults the skein with ZS_DIVERGENT (R58). -/
theorem skmRun_of_partial (h : ¬((lanes e).length = 32 ∨ maskedZero s e.k.ctx = true)) (body : State → State) :
    skmRun e body (countIssue e s) =
      loomFault e.loom e.skein [e.skein] zsDivergent 0x01 2 e.ins.pc 0 e.mask (lowThread e) (countIssue e s) := by
  have hm : maskedZero (countIssue e s) e.k.ctx = maskedZero s e.k.ctx := rfl
  have hlt : (lanes e).length < 32 := (length_lanes_le e).lt_of_ne (fun hl => h (.inl hl))
  have hz : maskedZero s e.k.ctx = false := Bool.eq_false_iff.mpr (fun hz => h (.inr hz))
  simp [skmRun, hm, hlt, hz]

/-- An instruction under the convergence rule whose rule is not met faults its skein. -/
theorem skm_faults (h : Issues w row s e) (hp : ¬((lanes e).length = 32 ∨ maskedZero s e.k.ctx = true)) (body : Env → State → State) :
    (.next (issueRow w row (fun _ => true) (fun e s => skmRun e (body e) s) s) : Host.Outcome State Fault Refusal) =
      .next (loomFault e.loom e.skein [e.skein] zsDivergent 0x01 2 e.ins.pc 0 e.mask (lowThread e) (countIssue e s)) := by
  rw [issueRow_of_issues h _ rfl, skmRun_of_partial hp]

end

/-- Settles O15: the convergence rule decides for the five instructions under it, and each is then one write of results. -/
theorem matrixAndCheckInstructionsWriteTheirResults : Obligations.MatrixAndCheckInstructionsWriteTheirResults := by
  intro w s e x full
  refine ⟨fun h hf => ?_, fun h hf => ?_, fun h hf => ?_, fun h hf => ?_, fun h hf => ?_, fun h => ?_, fun h => ?_, fun hp p hmem h => ?_⟩
  · exact completes_perThread h rfl (skmRun_of_full hf _) (.inl (skm_dst (k := 0) h (by decide)))
  · exact completes_perThread h rfl (skmRun_of_full hf _) (.inl (skm_dst (k := 1) h (by decide)))
  · exact completes_perThread h rfl (skmRun_of_full hf _) (.inl (skm_dst (k := 2) h (by decide)))
  · exact completes_perThread h rfl (skmRun_of_full hf _) (.inl (skm_dst (k := 3) h (by decide)))
  · exact completes_perThread h rfl (skmRun_of_full hf _) (.inl (topk_dst h))
  · exact completes_perThread h rfl rfl (.inl (chk_dst (k := 0) h (by decide)))
  · exact completes_perThread h rfl rfl (.inl (chk_dst (k := 1) h (by decide)))
  · simp only [List.mem_cons, List.not_mem_nil, or_false] at hmem
    rcases hmem with rfl | rfl | rfl | rfl | rfl <;> exact skm_faults h hp _

end Sys2Proof.Machine
end

section
/-! PROOF. Loads and stores of loom scratch and DRAM (R65, R94, R374): which bytes a store writes, and that a load writes none. -/

namespace Sys2Proof.Machine

/-! ## Bytes -/

@[simp] theorem length_toBytes (n v : Nat) : (toBytes n v).length = n := by
  induction n generalizing v with
  | zero => rfl
  | succ n ih => simp [toBytes, ih]

/-- Reading back the bytes that were just written. -/
theorem memGet_memPut {m : Memory} (a : Nat) (l : List Byte) (hm : m.wf = true) : memGet (memPut m a l) a l.length = l := by
  refine List.ext_getElem (by simp [memGet]) fun i h1 h2 => ?_
  simp only [memGet, List.getElem_map, List.getElem_range, memByte_memPut _ _ _ hm]
  rw [if_pos (by omega), Nat.add_sub_cancel_left, List.getD_eq_getElem?_getD, List.getElem?_eq_getElem h2, Option.getD_some]

/-! ## Register pages -/

/-- Register pages are aligned, so an address tells its offset. -/
theorem pageAddr_mod (b : Blk) (die inst page : Nat) : pageAddr b die inst page % 4096 = 0 := by
  simp only [pageAddr, ctlBase]
  omega

theorem chkPage_mod (d : Nat) : chkPage d % 4096 = 0 := pageAddr_mod _ _ _ _

/-- The base of a die's check words is no counter. -/
theorem chkBase_ne_chkUpdated (d d' : Nat) : chkPage d + Reg.CHK_BASE ≠ chkPage d' + Reg.CHK_UPDATED := by
  have h := chkPage_mod d
  have h' := chkPage_mod d'
  simp only [Reg.CHK_BASE, Reg.CHK_UPDATED]
  omega

/-! ## Writes of a line's bytes -/

theorem lineData_rest (pa : Nat) (l : List Byte) (s : State) : lineData pa l s = { s with mem := (lineData pa l s).mem } := by
  unfold lineData
  dsimp only
  split <;> rfl

theorem wf_lineData (pa : Nat) (l : List Byte) {s : State} (hm : s.mem.wf = true) : (lineData pa l s).mem.wf = true := by
  unfold lineData
  dsimp only
  split
  · exact wf_memPut _ _ hm
  · exact wf_memPut _ _ (wf_memPut _ _ hm)

/-- A write of a line's bytes changes those bytes and, in a checked block, its check word. -/
theorem memByte_lineData {pa a : Nat} {l : List Byte} {s : State} (hm : s.mem.wf = true) (ha : a < pa ∨ pa + l.length ≤ a)
    (hc : isChecked s pa = true → a < chkWordAddr s pa ∨ chkWordAddr s pa + 4 ≤ a) :
    memByte (lineData pa l s).mem a = memByte s.mem a := by
  unfold lineData
  dsimp only
  split
  · rw [memByte_memPut _ _ _ hm, if_neg (by omega)]
  · next h =>
    have hc := hc (by simpa using h)
    rw [memByte_memPut _ _ _ (wf_memPut _ _ hm), length_toBytes, if_neg (by omega), memByte_memPut _ _ _ hm, if_neg (by omega)]

theorem memGet_lineData {pa : Nat} {l : List Byte} {s : State} (hm : s.mem.wf = true) (hc : isChecked s pa = false) :
    memGet (lineData pa l s).mem pa l.length = l := by
  rw [lineData, hc]
  exact memGet_memPut pa l hm

/-- A write through the cache writes the line's bytes, and counts a check word that it updates at most (R374). -/
theorem cachedWrite_cases (die pa : Nat) (l : List Byte) (s : State) :
    cachedWrite die pa l s = lineData pa l s ∨
      cachedWrite die pa l s = bump (chkPage (homeDie pa) + Reg.CHK_UPDATED) 1 (lineData pa l s) := by
  unfold cachedWrite lineWrite countUpdate
  dsimp only
  split
  · exact .inl rfl
  · split
    · exact .inr rfl
    · exact .inl rfl

theorem mem_cachedWrite (die pa : Nat) (l : List Byte) (s : State) : (cachedWrite die pa l s).mem = (lineData pa l s).mem := by
  rcases cachedWrite_cases die pa l s with h | h <;> rw [h]
  simp

/-! ## Scratch -/

/-- Scratch after a list of bytes was written. -/
theorem tgetD_scratch_foldl (l : List Byte) (t : Tab Byte) (off a : Nat) :
    tgetD (l.foldl (fun (x : Nat × Tab Byte) b => (x.1 + 1, tset x.2 x.1 b)) (off, t)).2 a 0 =
      if off ≤ a ∧ a < off + l.length then l.getD (a - off) 0 else tgetD t a 0 := by
  induction l generalizing t off with
  | nil => rw [if_neg (by simp)]; rfl
  | cons b l ih =>
    rw [List.foldl_cons, ih, List.length_cons]
    by_cases h : a = off
    · subst h
      rw [if_neg (by omega), if_pos (by omega), tgetD_tset_self]
      simp
    · rw [tgetD_tset_ne _ _ _ h]
      by_cases hin : off + 1 ≤ a ∧ a < off + 1 + l.length
      · rw [if_pos hin, if_pos (by omega), show a - off = (a - (off + 1)) + 1 by omega, List.getD_cons_succ]
      · rw [if_neg hin, if_neg (by omega)]

theorem tgetD_scratchPut (loom off a : Nat) (l : List Byte) (s : State) : tgetD (loomOf (scratchPut loom off l s) loom).scratch a 0 =
    if off ≤ a ∧ a < off + l.length then l.getD (a - off) 0 else tgetD (loomOf s loom).scratch a 0 := by
  rw [scratchPut, loomOf_modLoom_self]
  exact tgetD_scratch_foldl ..

theorem scratchGet_scratchPut (loom off : Nat) (l : List Byte) (s : State) : scratchGet (scratchPut loom off l s) loom off l.length = l := by
  refine List.ext_getElem (by simp [scratchGet]) fun i h1 h2 => ?_
  simp only [scratchGet, List.getElem_map, List.getElem_range, tgetD_scratchPut]
  rw [if_pos (by omega), Nat.add_sub_cancel_left, List.getD_eq_getElem?_getD, List.getElem?_eq_getElem h2, Option.getD_some]

/-! ## Stores -/

/-- From `s` to `t` stores of a loom's threads have been performed: memory, the loom's scratch and the counts of check words alone have
changed. -/
structure Stored (e : Env) (s t : State) : Prop where
  rest : ∃ m l r, t = { s with mem := m, looms := l, regs := r }
  wf : s.mem.wf = true → t.mem.wf = true
  base : ∀ d, reg t (chkPage d + Reg.CHK_BASE) = reg s (chkPage d + Reg.CHK_BASE)
  others : ∀ l, l ≠ e.loom → loomOf t l = loomOf s l

theorem Stored.refl (e : Env) (s : State) : Stored e s s := ⟨⟨_, _, _, rfl⟩, id, fun _ => rfl, fun _ _ => rfl⟩

theorem Stored.trans {e : Env} {s t u : State} (h : Stored e s t) (h' : Stored e t u) : Stored e s u where
  rest := by
    obtain ⟨m, l, r, rfl⟩ := h.rest
    exact h'.rest
  wf hm := h'.wf (h.wf hm)
  base d := (h'.base d).trans (h.base d)
  others l hl := (h'.others l hl).trans (h.others l hl)

theorem Stored.isChecked {e : Env} {s t : State} (h : Stored e s t) (pa : Nat) : isChecked t pa = isChecked s pa := by
  obtain ⟨m, l, r, rfl⟩ := h.rest
  rfl

theorem Stored.chkWordAddr {e : Env} {s t : State} (h : Stored e s t) (pa : Nat) : chkWordAddr t pa = chkWordAddr s pa := by
  simp only [Machine.chkWordAddr, h.base]

theorem Stored.scratchPut (e : Env) (off : Nat) (l : List Byte) (s : State) : Stored e s (scratchPut e.loom off l s) :=
  ⟨⟨_, _, _, rfl⟩, id, fun _ => rfl, fun _ hl => loomOf_modLoom_ne _ s hl⟩

theorem Stored.cachedWrite (e : Env) (die pa : Nat) (l : List Byte) (s : State) : Stored e s (cachedWrite die pa l s) where
  rest := by
    rcases cachedWrite_cases die pa l s with h | h <;> rw [h, lineData_rest]
    · exact ⟨_, _, _, rfl⟩
    · exact ⟨_, _, _, rfl⟩
  wf hm := by rw [mem_cachedWrite]; exact wf_lineData pa l hm
  base d := by
    rcases cachedWrite_cases die pa l s with h | h <;> rw [h]
    · rw [lineData_rest]; rfl
    · rw [reg_bump_ne _ _ (chkBase_ne_chkUpdated _ _), lineData_rest]; rfl
  others l' _ := by
    refine loomOf_congr ?_ l'
    rcases cachedWrite_cases die pa l s with h | h <;> rw [h, lineData_rest]
    rfl

section
variable {e : Env} {ls : List (Nat × Loc)} {p : Nat × Loc} {s : State}

theorem storeLanes_append (e : Env) (ls ls' : List (Nat × Loc)) (s : State) : storeLanes e (ls ++ ls') s = storeLanes e ls' (storeLanes e ls s) :=
  List.foldl_append ..

theorem storeLanes_cons (e : Env) (p : Nat × Loc) (ls : List (Nat × Loc)) (s : State) :
    storeLanes e (p :: ls) s = storeLanes e ls (storeLanes e [p] s) := rfl

theorem storeLanes_scratch {o : Nat} (h : p.2 = .scratch o) : storeLanes e [p] s = scratchPut e.loom o (storeData e p.1) s := by
  simp only [storeLanes, forL_cons, forL_nil, h]

theorem storeLanes_dram {pa : Nat} {st : Bool} (h : p.2 = .dram pa st) :
    storeLanes e [p] s = cachedWrite (e.loom / 32) pa (storeData e p.1) s := by
  simp only [storeLanes, forL_cons, forL_nil, h]

theorem length_storeData (e : Env) (t : Nat) : (storeData e t).length = ldBytes (fFunc e.ins.w / 8) := length_toBytes _ _

/-- Every lane of a store to scratch or DRAM, and so the whole. -/
theorem stored_storeLanes (hl : ∀ p ∈ ls, (∃ o, p.2 = .scratch o) ∨ ∃ pa st, p.2 = .dram pa st) : Stored e s (storeLanes e ls s) := by
  induction ls generalizing s with
  | nil => exact .refl e s
  | cons p ls ih =>
    rw [storeLanes_cons]
    refine .trans ?_ (ih fun q hq => hl q (List.mem_cons_of_mem _ hq))
    rcases hl p List.mem_cons_self with ⟨o, h⟩ | ⟨pa, st, h⟩
    · rw [storeLanes_scratch h]; exact .scratchPut ..
    · rw [storeLanes_dram h]; exact .cachedWrite ..

/-- A byte of memory outside every lane's bytes and check word stays. -/
theorem memByte_storeLanes {a : Nat} (hm : s.mem.wf = true) (hl : ∀ p ∈ ls, (∃ o, p.2 = .scratch o) ∨ ∃ pa st, p.2 = .dram pa st)
    (ha : ∀ p ∈ ls, ∀ pa st, p.2 = .dram pa st → (a < pa ∨ pa + ldBytes (fFunc e.ins.w / 8) ≤ a) ∧
      (isChecked s pa = true → a < chkWordAddr s pa ∨ chkWordAddr s pa + 4 ≤ a)) :
    memByte (storeLanes e ls s).mem a = memByte s.mem a := by
  induction ls generalizing s with
  | nil => rfl
  | cons p ls ih =>
    have hone : Stored e s (storeLanes e [p] s) := stored_storeLanes fun q hq => hl q (List.mem_cons.mpr (.inl (List.mem_singleton.mp hq)))
    rw [storeLanes_cons, ih (hone.wf hm) fun q hq => hl q (List.mem_cons_of_mem _ hq)]
    · rcases hl p List.mem_cons_self with ⟨o, h⟩ | ⟨pa, st, h⟩
      · rw [storeLanes_scratch h]; rfl
      · obtain ⟨hout, hchk⟩ := ha p List.mem_cons_self pa st h
        rw [storeLanes_dram h, mem_cachedWrite, memByte_lineData hm (by rw [length_storeData]; exact hout) hchk]
    · intro q hq pa st h
      rw [hone.isChecked, hone.chkWordAddr]
      exact ha q (List.mem_cons_of_mem _ hq) pa st h

/-- A byte of the loom's scratch outside every lane's bytes stays. -/
theorem scratch_storeLanes {a : Nat} (hl : ∀ p ∈ ls, (∃ o, p.2 = .scratch o) ∨ ∃ pa st, p.2 = .dram pa st)
    (ha : ∀ p ∈ ls, ∀ o, p.2 = .scratch o → a < o ∨ o + ldBytes (fFunc e.ins.w / 8) ≤ a) :
    tgetD (loomOf (storeLanes e ls s) e.loom).scratch a 0 = tgetD (loomOf s e.loom).scratch a 0 := by
  induction ls generalizing s with
  | nil => rfl
  | cons p ls ih =>
    rw [storeLanes_cons, ih (fun q hq => hl q (List.mem_cons_of_mem _ hq)) fun q hq => ha q (List.mem_cons_of_mem _ hq)]
    rcases hl p List.mem_cons_self with ⟨o, h⟩ | ⟨pa, st, h⟩
    · have hout := ha p List.mem_cons_self o h
      rw [storeLanes_scratch h, tgetD_scratchPut, length_storeData, if_neg (by omega)]
    · have hlooms : (cachedWrite (e.loom / 32) pa (storeData e p.1) s).looms = s.looms := by
        rcases cachedWrite_cases (e.loom / 32) pa (storeData e p.1) s with hw | hw <;> rw [hw, lineData_rest]
        rfl
      rw [storeLanes_dram h, loomOf_congr hlooms]

/-! ## Loads -/

/-- What a load reads in each lane of scratch and DRAM; it changes nothing. -/
theorem loadLanes_eq (hl : ∀ p ∈ ls, (∃ o, p.2 = .scratch o) ∨ ∃ pa st, p.2 = .dram pa st) (acc : List (Nat × Nat)) :
    ls.foldl (fun (acc : List (Nat × Nat) × State) p =>
      match p.2 with
      | .scratch o => (acc.1 ++ [(p.1, loadExtend (fFunc e.ins.w / 8) (scratchNat acc.2 e.loom o (ldBytes (fFunc e.ins.w / 8))))], acc.2)
      | .dram pa _ => (acc.1 ++ [(p.1, loadExtend (fFunc e.ins.w / 8) (memNat acc.2 pa (ldBytes (fFunc e.ins.w / 8))))], acc.2)
      | .device _ d =>
        let (v, s) := devRead (loomPage e.loom) e.k.ctx (ldBytes (fFunc e.ins.w / 8)) d acc.2
        (acc.1 ++ [(p.1, loadExtend (fFunc e.ins.w / 8) v)], s)
      | _ => acc) (acc, s) =
    (acc ++ ls.map (fun p => (p.1, loadExtend (fFunc e.ins.w / 8) (match p.2 with
      | .scratch o => scratchNat s e.loom o (ldBytes (fFunc e.ins.w / 8))
      | .dram pa _ => memNat s pa (ldBytes (fFunc e.ins.w / 8))
      | _ => 0))), s) := by
  induction ls generalizing acc with
  | nil => simp
  | cons p ls ih =>
    rw [List.foldl_cons, List.map_cons]
    rcases hl p List.mem_cons_self with ⟨o, h⟩ | ⟨pa, st, h⟩ <;>
    · simp only [h]
      rw [ih fun q hq => hl q (List.mem_cons_of_mem _ hq), List.append_assoc]
      rfl

end

/-- Settles O18: lane by lane, a store to scratch writes there and one to DRAM its line's bytes, and a load only reads. -/
theorem loadsAndStoresTouchTheirBytes : Obligations.LoadsAndStoresTouchTheirBytes := by
  refine ⟨fun e s1 ls hm hl => ?_, fun e s1 ls hl => ?_⟩
  · intro n t
    have hst : Stored e s1 t := stored_storeLanes hl
    refine ⟨fun a ha => memByte_storeLanes hm hl ha, fun a ha => scratch_storeLanes hl ha, hst.others, ?_, ?_, ?_⟩
    · rintro p ls' rfl o h
      have ht : t = scratchPut e.loom o (storeData e p.1) (storeLanes e ls' s1) := (storeLanes_append ..).trans (storeLanes_scratch h)
      rw [ht, show n = (storeData e p.1).length from (length_storeData e p.1).symm, scratchGet_scratchPut]
    · rintro p ls' rfl pa st h hc
      have ht : t = cachedWrite (e.loom / 32) pa (storeData e p.1) (storeLanes e ls' s1) := (storeLanes_append ..).trans (storeLanes_dram h)
      have hst' : Stored e s1 (storeLanes e ls' s1) := stored_storeLanes fun q hq => hl q (List.mem_append_left _ hq)
      rw [ht, mem_cachedWrite, show n = (storeData e p.1).length from (length_storeData e p.1).symm,
        memGet_lineData (hst'.wf hm) ((hst'.isChecked pa).trans hc)]
    · obtain ⟨m, l, r, hrest⟩ := hst.rest
      rw [hrest]
  · have h := loadLanes_eq (e := e) (s := s1) hl []
    exact ⟨congrArg Prod.snd h, congrArg Prod.fst h⟩

end Sys2Proof.Machine
end

section
/-! PROOF. Branches (R54, R99) and named barriers (R60 to R64, R101). -/

namespace Sys2Proof.Machine

/-! ## Masks -/

theorem testBit_foldl_or (l : List Nat) (m i : Nat) : (l.foldl (fun m j => m ||| 2 ^ j) m).testBit i = (m.testBit i || decide (i ∈ l)) := by
  induction l generalizing m with
  | nil => simp
  | cons j l ih =>
    rw [List.foldl_cons, ih, Nat.testBit_or, Nat.testBit_two_pow, Bool.or_assoc]
    congr 1
    simp [eq_comm]

/-- The bits of a mask are the members of its list. -/
theorem bit_listMask (l : List Nat) (i : Nat) : bit (listMask l) i = decide (i ∈ l) := by
  rw [bit_eq_testBit, listMask, testBit_foldl_or, Nat.zero_testBit, Bool.false_or]

/-- A number is what it shares with another and what it does not. -/
theorem land_add_ldiff (a b : Nat) : (a &&& b) + Nat.ldiff a b = a := by
  induction a using Nat.binaryRec generalizing b with
  | zero => rw [Nat.zero_and, Nat.zero_add]; exact Nat.zero_of_testBit_eq_false fun i => by simp [Nat.testBit_ldiff]
  | bit x n ih =>
    obtain ⟨y, m, rfl⟩ : ∃ y m, b = Nat.bit y m := ⟨b.bodd, b.div2, (Nat.bit_bodd_div2 b).symm⟩
    rw [Nat.land_bit, Nat.ldiff_bit]
    have := ih m
    simp only [Nat.bit_val]
    cases x <;> cases y <;> simp <;> omega

theorem bit_sub_and (a b i : Nat) : bit (a - (a &&& b)) i = (bit a i && !bit b i) := by
  have h : a - (a &&& b) = Nat.ldiff a b := by have := land_add_ldiff a b; omega
  simp only [bit_eq_testBit, h, Nat.testBit_ldiff]

/-! ## Branches -/

/-- Settles O20: the new groups are those of the distinct targets and of the threads that are not taken. -/
theorem branchesSplitTheGroup : Obligations.BranchesSplitTheGroup := by
  intro e k targets _ _ _ k'
  have hmem (g : Group) : g ∈ k'.groups ↔ (g ∈ k.groups ∧ g.mask ≠ e.mask) ∨
      (∃ d ∈ targets.map (fun p => p.2), g = ⟨listMask ((targets.filter (fun p => p.2 == d)).map (fun p => p.1)), d, .none⟩) ∨
      (e.mask - (e.mask &&& listMask (targets.map (fun p => p.1))) ≠ 0 ∧
        g = ⟨e.mask - (e.mask &&& listMask (targets.map (fun p => p.1))), nextPc e, .none⟩) := by
    simp only [k', branchTo, List.mem_append, List.mem_filter, List.mem_map, List.mem_eraseDups, bne_iff_ne, or_assoc]
    refine or_congr Iff.rfl (or_congr ⟨fun ⟨d, hd, hg⟩ => ⟨d, hd, hg.symm⟩, fun ⟨d, hd, hg⟩ => ⟨d, hd, hg.symm⟩⟩ ?_)
    split
    · next h => simp [h]
    · next h => simp [h]
  refine ⟨fun g hg => ?_, fun p hp => ?_, fun th _ hbit hnot => ?_, fun g hg hne => (hmem g).mpr (.inl ⟨hg, hne⟩), rfl⟩
  · rcases (hmem g).mp hg with h | ⟨d, -, rfl⟩ | ⟨-, rfl⟩
    · exact .inl h
    · exact .inr rfl
    · exact .inr rfl
  · refine ⟨_, (hmem _).mpr (.inr (.inl ⟨p.2, List.mem_map_of_mem hp, rfl⟩)), ?_, rfl, rfl⟩
    rw [bit_listMask, decide_eq_true_eq]
    exact List.mem_map_of_mem (List.mem_filter.mpr ⟨hp, beq_self_eq_true _⟩)
  · have hrest : bit (e.mask - (e.mask &&& listMask (targets.map (fun p => p.1)))) th = true := by
      rw [bit_sub_and, hbit, bit_listMask, Bool.true_and, Bool.not_eq_true', decide_eq_false_iff_not]
      simpa using fun b hb => hnot (th, b) hb rfl
    refine ⟨_, (hmem _).mpr (.inr (.inr ⟨fun h0 => ?_, rfl⟩)), hrest, rfl, rfl⟩
    rw [h0, bit_eq_testBit, Nat.zero_testBit] at hrest
    exact Bool.false_ne_true hrest

/-! ## Barriers -/

/-- A BAR.INIT within its limit starts its barrier, or finds threads waiting and halts the domain (R60, R64). -/
theorem barInit_eq {w : Who} {s : State} {e : Env} {b : Nat} (h : Issues w (0x2F * 8) s e) (hb : barNumber e = some b)
    (hn : src e 1 1 (lowThread e) ≤ (if loomSplit s e.loom then 1024 else 2048)) : exec (.barInit w) s = .next
      (if barWaiting (countIssue e s) e.loom b then
        barrierSplit e.loom e.skein (onEast e.s e.loom e.skein) 0x03 e.ins.pc e.mask (lowThread e) (countIssue e s)
      else finish e id (modLoom e.loom (fun l => { l with
        barriers := tset l.barriers b ⟨src e 1 1 (lowThread e), src e 1 1 (lowThread e), 0, src e 2 2 (lowThread e) &&& enrolMask e, []⟩ })
          (countIssue e s))) := by
  have hs : e.s = s := (fetchFor_eq_ready h.1).1
  refine congrArg Host.Outcome.next ((issueRow_of_issues h _ rfl _).trans ?_)
  simp only [hb, hs, gt_iff_lt, Nat.not_lt.mpr hn, if_false]

/-- Where the arrivals have reached the expected count, the phase ends: the barrier starts again, and its waiters go on (R61). -/
theorem barCheck_of_complete {s : State} {loom b : Nat} {r : Barrier} (hr : tget? (loomOf s loom).barriers b = some r) (ha : r.a = r.e) :
    barCheck loom b s = barRelease loom b
      (modLoom loom (fun l => { l with barriers := tset l.barriers b { r with a := 0, e := r.n, arrived := [] } }) s) := by
  simp only [barCheck, hr, ha, if_true]

theorem release_eq (b : Nat) (g : Group) : (if waitsAt b g then { g with wait := .none } else g) =
    (match g.wait with | .bar y _ => if y = b then { g with wait := .none } else g | _ => g) := by
  unfold waitsAt
  cases g.wait <;> simp

/-- Settles O21: the barrier instructions as `exec` performs them, and the end of a phase as one change of the loom. -/
theorem barrierInstructionsComplete : Obligations.BarrierInstructionsComplete := by
  refine ⟨fun w s e b hb => ⟨fun h hn hwait => ?_, fun h hn hwait => ?_, fun h => ?_, fun h => ?_⟩, fun s loom b r hr => ⟨fun hne => ?_, fun heq => ?_⟩⟩
  · rw [barInit_eq h hb hn, if_neg (Bool.eq_false_iff.mp hwait)]
  · rw [barInit_eq h hb hn, if_pos hwait]
    rfl
  · refine congrArg Host.Outcome.next ((issueRow_of_issues h _ rfl _).trans ?_)
    simp only [hb]
  · refine congrArg Host.Outcome.next ((issueRow_of_issues h _ rfl _).trans ?_)
    simp only [hb]
  · simp only [barCheck, hr, hne, if_false]
  · have hself : loomOf (barCheck loom b s) loom = { loomOf s loom with
        barriers := tset (loomOf s loom).barriers b { r with a := 0, e := r.n, arrived := [] }
        skeins := tmapv (loomOf s loom).skeins fun _ k =>
          { k with groups := k.groups.map (fun g => if waitsAt b g then { g with wait := .none } else g) } } := by
      rw [barCheck_of_complete hr heq, barRelease, loomOf_modLoom_self, loomOf_modLoom_self]
    refine ⟨by rw [hself, tget?_tset_self], fun x hx => by rw [hself, tget?_tset_ne _ _ hx], fun x k hk => ?_, ?_, fun l hl => ?_⟩
    · rw [hself, tget?_tmapv, hk]
      exact ⟨_, rfl, rfl, List.map_congr_left fun g _ => release_eq b g⟩
    · rw [barCheck_of_complete hr heq]; rfl
    · rw [barCheck_of_complete hr heq, barRelease, loomOf_modLoom_ne _ _ hl, loomOf_modLoom_ne _ _ hl]

end Sys2Proof.Machine
end

section
/-! PROOF. Frames of register writes (R33), and the words of register pages (R32, R34). -/

namespace Sys2Proof.Machine

/-! ## Frames -/

theorem onlyRegs_setReg (a v : Nat) (s : State) : OnlyRegs [a] s (setReg a v s) :=
  ⟨rfl, fun _ hb => reg_setReg_ne v s (fun h => hb (List.mem_singleton.mpr h)), fun _ => rfl⟩

theorem onlyRegs_setField (a hi lo v : Nat) (s : State) : OnlyRegs [a] s (setField a hi lo v s) := onlyRegs_setReg a _ s

/-- A bit of a register after a field of it was written. -/
theorem bit_reg_setField (a v : Nat) {hi lo i : Nat} (s : State) (h : lo ≤ hi) (hi64 : i < 64) :
    bit (reg (setField a hi lo v s) a) i = if lo ≤ i ∧ i ≤ hi then bit v (i - lo) else bit (reg s a) i := by
  simp only [setField, reg_setReg_self, bit_eq_testBit, Nat.testBit_mod_two_pow, hi64, decide_true, Bool.true_and, testBit_setBits _ _ _ h]

/-- A written field holds its value, and nothing else changes. -/
theorem fieldIs_setField {a hi lo v : Nat} (s : State) (h : lo ≤ hi) (h64 : hi < 64) (hv : v < 2 ^ (hi + 1 - lo)) :
    FieldIs a hi lo v s (setField a hi lo v s) := by
  refine ⟨onlyRegs_setField a hi lo v s, ?_, fun i hi64 hout => ?_⟩
  · rw [bits_reg_setField a v s h h64, Nat.mod_eq_of_lt hv]
  · rw [bit_reg_setField a v s h hi64, if_neg (by omega)]

/-! ## Access types -/

/-- A bit of a register's new value under its access types (R33). -/
theorem testBit_plainVal (locked : Bool) (r : RegRow) (old v i : Nat) : bit (plainVal locked r old v) i =
    if bit r.w1s i && bit v i then true else if bit r.w1c i && bit v i then false
    else if bit r.rw i || (bit r.rwl i && !locked) then bit v i else bit old i := by
  have hor (a b : Nat) : bit (a ||| b) i = (bit a i || bit b i) := by simp only [bit_eq_testBit, Nat.testBit_or]
  have hand (a b : Nat) : bit (a &&& b) i = (bit a i && bit b i) := by simp only [bit_eq_testBit, Nat.testBit_and]
  have hrwl : bit (if locked then 0 else r.rwl) i = (bit r.rwl i && !locked) := by
    cases locked <;> simp [bit_eq_testBit]
  simp only [plainVal, hor, hand, bit_sub_and, hrwl]
  generalize bit r.w1s i = s1
  generalize bit r.w1c i = c1
  generalize bit r.rw i = w1
  generalize (bit r.rwl i && !locked) = l1
  generalize bit v i = b
  generalize bit old i = o
  revert s1 c1 w1 l1 b o
  decide

/-- Settles O60: a plain write is one write of `plainVal`, whose bits follow the access types. -/
theorem registerBitsFollowTheirAccessTypes : Obligations.RegisterBitsFollowTheirAccessTypes := by
  intro p r v s hown hoff
  have hw : regWrite p r v s = plainWrite p r v s := by rw [regWrite, if_neg (Nat.not_lt.mpr hoff), hown]; rfl
  rw [hw]
  refine ⟨onlyRegs_setReg _ _ s, fun i hi => ?_⟩
  rw [← testBit_plainVal, plainWrite, reg_setReg_self, bit_eq_testBit, Nat.testBit_mod_two_pow, bit_eq_testBit]
  simp [hi]

end Sys2Proof.Machine
end

section
/-! PROOF. Accesses of register pages (R32 to R36, R489). -/

namespace Sys2Proof.Machine

/-! ## Addresses of one page -/

theorem inControl_eq_of_page {a b : Nat} (h : b / 4096 = a / 4096) : inControl b = inControl a := by
  have hlo : 0x0F0000000000 ≤ b ↔ 0x0F0000000000 ≤ a := by omega
  have hhi : b < 0x0F0100000000 ↔ a < 0x0F0100000000 := by omega
  have hw : (b - 0x0F0000000000) / 0x10000000 = (a - 0x0F0000000000) / 0x10000000 := by omega
  simp only [inControl, hlo, hhi, hw]

/-- Addresses of one 4 KiB page belong to one register page. -/
theorem pageOf_eq_of_page {a b : Nat} (h : b / 4096 = a / 4096) : pageOf b = pageOf a := by
  have hdie : (b - 0x0F0000000000) / 0x10000000 = (a - 0x0F0000000000) / 0x10000000 := by omega
  have hregion : bits (b - 0x0F0000000000) 27 24 = bits (a - 0x0F0000000000) 27 24 := by
    simp only [bits, Nat.shiftRight_eq_div_pow]; omega
  have hinst : bits (b - 0x0F0000000000) 23 16 = bits (a - 0x0F0000000000) 23 16 := by
    simp only [bits, Nat.shiftRight_eq_div_pow]; omega
  have hpage : bits (b - 0x0F0000000000) 15 12 = bits (a - 0x0F0000000000) 15 12 := by
    simp only [bits, Nat.shiftRight_eq_div_pow]; omega
  simp only [pageOf, inControl_eq_of_page h, hdie, hregion, hinst, hpage]

theorem hdrAddr_page {a off : Nat} (h : off < 4096) : hdrAddr a off / 4096 = a / 4096 ∧ hdrAddr a off % 4096 = off := by
  simp only [hdrAddr, alignDown]
  omega

section
variable {s : State} {who a : Nat} {p : PageRef}

/-! ## Accesses of a firmware agent -/

/-- A firmware agent's write of an aligned word of a register acts (R34). -/
theorem pageWrite_of_firmware {r : RegRow} (hp : pageOf a = some p) (hs : pageServed s p = true) (hw : firmwareFrom ≤ who) (ha : a % 4 = 0)
    (hr : rowCovering p (a % 4096) = some r) (k : PageRef → RegRow → State → State) : pageWrite who 4 a k s = k p r s := by
  have ha' : a % 4096 % 4 = 0 := by omega
  simp only [pageWrite, hp, hs, hr, ha', Bool.not_true, Bool.false_eq_true, if_false, Nat.not_lt.mpr hw, ne_eq, not_true_eq_false, Bool.or_self,
    decide_false]

/-- The registers of the header stand on every page (R32). -/
theorem pageWrite_header {off : Nat} (hp : pageOf a = some p) (hs : pageServed s p = true) (hw : firmwareFrom ≤ who)
    (hoff : off ∈ [hdrCtrl, hdrPend, hdrTest, hdrErrFirst, hdrLock]) (k : PageRef → State → State) :
    pageWrite who 4 (hdrAddr a off) (fun p _ s => k p s) s = k p s := by
  have hlt : off < 0x40 ∧ off % 4 = 0 ∧ (headerRows.find? (fun r => r.off == off || (r.w64 && r.off + 4 == off))).isSome = true := by
    simp only [List.mem_cons, List.not_mem_nil, or_false] at hoff
    rcases hoff with rfl | rfl | rfl | rfl | rfl <;> decide
  obtain ⟨hlow, hal, hsome⟩ := hlt
  obtain ⟨hpage, hmod⟩ := hdrAddr_page (a := a) (off := off) (by omega)
  obtain ⟨r, hr⟩ := Option.isSome_iff_exists.mp hsome
  exact pageWrite_of_firmware (r := r) ((pageOf_eq_of_page hpage).trans hp) hs hw (by omega)
    (by rw [hmod, rowCovering, if_pos hlow, hr]) (fun p _ s => k p s)

theorem isHighWord_eq {r : RegRow} (hp : pageOf a = some p) (hr : rowCovering p (a % 4096) = some r) : isHighWord a = (r.off != a % 4096) := by
  simp only [isHighWord, hp, hr, Option.any_some]

/-- A firmware agent's read of an aligned word of a register (R34). -/
theorem pageRead_of_firmware {r : RegRow} (hp : pageOf a = some p) (hs : pageServed s p = true) (hw : firmwareFrom ≤ who) (ha : a % 4 = 0)
    (hr : rowCovering p (a % 4096) = some r) :
    pageRead who 4 a s = emit (.read (readWord who p (a % 4096) s).1) (readWord who p (a % 4096) s).2 := by
  have ha' : a % 4096 % 4 = 0 := by omega
  simp only [pageRead, hp, hs, hr, ha', Bool.not_true, Bool.false_eq_true, if_false, Nat.not_lt.mpr hw, ne_eq, not_true_eq_false, Bool.or_self,
    Option.isNone_some, decide_false]

/-! ## Both halves of a 64-bit register -/

/-- The captured halves that are not of one agent's register (R35). -/
def othersOf (who key : Nat) (l : List Half64) : List Half64 := l.filter (fun h => !(h.who == who && h.addr == key))

theorem find?_othersOf_append (who key v : Nat) (l : List Half64) :
    (othersOf who key l ++ [(⟨who, key, v⟩ : Half64)]).find? (fun h => h.who == who && h.addr == key) = some ⟨who, key, v⟩ := by
  have hnone : (othersOf who key l).find? (fun h => h.who == who && h.addr == key) = none := by
    simp only [othersOf, List.find?_eq_none, List.mem_filter]
    rintro h ⟨-, hne⟩
    exact Bool.eq_false_iff.mp ((Bool.not_eq_true' _).mp hne)
  rw [List.find?_append, hnone]
  simp

theorem removeFirst_othersOf_append (who key v : Nat) (l : List Half64) :
    removeFirst (othersOf who key l ++ [(⟨who, key, v⟩ : Half64)]) (fun h => h.who == who && h.addr == key) = othersOf who key l := by
  have hno : ∀ h ∈ othersOf who key l, (h.who == who && h.addr == key) = false := by
    simp only [othersOf, List.mem_filter, Bool.not_eq_true']
    exact fun h hh => hh.2
  generalize othersOf who key l = r at hno
  induction r with
  | nil => simp [removeFirst]
  | cons x r ih =>
    rw [List.cons_append, removeFirst, if_neg (Bool.eq_false_iff.mp (hno x List.mem_cons_self)),
      ih fun h hh => hno h (List.mem_cons_of_mem _ hh)]

/-- A read of the low word of a 64-bit register captures its high half for the agent (R35). -/
theorem readWord_low {r : RegRow} (hr : rowCovering p r.off = some r) (h64 : r.w64 = true) : readWord who p r.off s =
    (regValue s p r.off % 2 ^ 32,
      { s with captures := othersOf who (p.addr + r.off) s.captures ++ [⟨who, p.addr + r.off, regValue s p r.off / 2 ^ 32⟩] }) := by
  simp only [readWord, hr, h64, Bool.not_true, Bool.false_eq_true, if_false, if_true, othersOf]

/-- The agent's next read of the high word takes the captured half (R35). -/
theorem readWord_high {r : RegRow} {v : Nat} {l : List Half64} (hr : rowCovering p (r.off + 4) = some r) (h64 : r.w64 = true)
    (hc : s.captures = othersOf who (p.addr + r.off) l ++ [⟨who, p.addr + r.off, v⟩]) :
    readWord who p (r.off + 4) s = (v, { s with captures := othersOf who (p.addr + r.off) l }) := by
  have hne : ¬ r.off + 4 = r.off := by omega
  simp only [readWord, hr, h64, Bool.not_true, Bool.false_eq_true, if_false, hne, hc, find?_othersOf_append, removeFirst_othersOf_append]

theorem highWordRead_captured {r : RegRow} {v : Nat} {l : List Half64} (hp : pageOf a = some p) (hs : pageServed s p = true)
    (hw : firmwareFrom ≤ who) (ha : a % 4 = 0) (hmod : a % 4096 = r.off + 4) (hr : rowCovering p (r.off + 4) = some r) (h64 : r.w64 = true)
    (hc : s.captures = othersOf who (p.addr + r.off) l ++ [⟨who, p.addr + r.off, v⟩]) : exec (.highWordRead who a) s =
      .next { s with captures := othersOf who (p.addr + r.off) l, outbox := s.outbox ++ [.read v] } := by
  have hhigh : isHighWord a = true := (isHighWord_eq hp (hmod ▸ hr)).trans (by simp [hmod])
  refine congrArg Host.Outcome.next ((if_pos hhigh).trans ?_)
  rw [pageRead_of_firmware hp hs hw ha (hmod ▸ hr), hmod, readWord_high hr h64 hc]
  rfl

/-! ## The header's controls -/

/-- Clearing INT_PEND takes the page's entry out of its agent's queue, and touches no other agent's (R36). -/
theorem pendClear_queue (page mask : Nat) (s : State) :
    pendClear page mask s = { s with
      regs := (pendClear page mask s).regs, intRaised := (pendClear page mask s).intRaised
      intQueue := tmod s.intQueue (intAgent page) [] (fun l => l.filter (fun x => x != page)), sys := (pendClear page mask s).sys } := by
  have hrise (t : State) : intRise page t = { t with intRaised := (intRise page t).intRaised } := by unfold intRise; split <;> rfl
  unfold pendClear alertsLeft
  dsimp only
  rw [hrise]
  split <;> split <;> rfl

end

/-- Settles O59: each access is that of an aligned word of a page that answers, and then the register's own. -/
theorem pageAccessesComplete : Obligations.PageAccessesComplete := by
  intro s who a p hp hs
  refine ⟨fun hw ho v => ?_, fun hw => ⟨fun r ha hr => ?_, fun q => ⟨?_, ?_⟩, fun v => ?_, fun mask => ⟨?_, ?_⟩, ?_, ?_⟩, fun page hr => ?_⟩
  · refine congrArg Host.Outcome.next ?_
    simp only [pageWrite, hp, hs, Bool.not_true, Bool.false_eq_true, if_false, hw, if_true, ho]
  · intro v key others
    refine ⟨fun hoff h64 => ?_, fun hoff h64 => ?_, fun hoff h64 x low hlow => ?_, fun h64 x => ?_⟩
    · have hlow : isHighWord a = false := (isHighWord_eq hp hr).trans (by simp [hoff])
      refine congrArg Host.Outcome.next ((if_neg (Bool.eq_false_iff.mp hlow)).trans ?_)
      rw [pageRead_of_firmware hp hs hw ha hr]
      simp only [readWord, hr, h64, Bool.not_false, if_true, v]
    · have hlow : isHighWord a = false := (isHighWord_eq hp hr).trans (by simp [hoff])
      have hoff' : rowCovering p r.off = some r := hoff ▸ hr
      refine ⟨_, congrArg Host.Outcome.next ((if_neg (Bool.eq_false_iff.mp hlow)).trans ?_), rfl, fun b hb hmod hrb => ?_, fun x => ?_⟩
      · rw [pageRead_of_firmware hp hs hw ha hr, ← hoff, readWord_low hoff' h64]
        rfl
      · exact highWordRead_captured hb hs hw (by omega) hmod hrb h64 rfl
      · refine congrArg Host.Outcome.next ((pageWrite_of_firmware hp hs hw ha hr _).trans ?_)
        simp only [h64, ← hoff, Bool.not_true, Bool.false_or, ne_eq, not_true_eq_false, decide_false, Bool.false_eq_true, if_false]
        rfl
    · refine congrArg Host.Outcome.next ((pageWrite_of_firmware hp hs hw ha hr _).trans ?_)
      have hlow' : s.heldLow.find? (fun h => h.who == who && h.addr == p.addr + r.off) = some low := hlow
      simp only [h64, hoff, hlow', Bool.not_true, Bool.false_or, decide_false, Bool.false_eq_true, if_false, Option.map_some, Option.getD_some]
      rfl
    · refine congrArg Host.Outcome.next ((pageWrite_of_firmware hp hs hw ha hr _).trans ?_)
      simp only [h64, Bool.false_eq_true, if_false]
  · exact congrArg Host.Outcome.next (pageWrite_header hp hs hw (by simp) (fun p => ctrlWrite p _))
  · exact congrArg Host.Outcome.next (pageWrite_header hp hs hw (by simp) (fun p => ctrlWrite p _))
  · exact congrArg Host.Outcome.next (pageWrite_header hp hs hw (by simp) (fun p => ctrlWrite p _))
  · exact congrArg Host.Outcome.next (pageWrite_header hp hs hw (by simp) (fun p => setPend p.addr _))
  · refine ⟨_, congrArg Host.Outcome.next (pageWrite_header hp hs hw (by simp) (fun p => pendClear p.addr mask)), ?_, ?_, fun g hg => ?_⟩
    · rw [pendClear_queue]
    · rw [pendClear_queue]
      simp
    · rw [pendClear_queue]
      exact tget?_tmod_ne _ _ _ hg
  · refine ⟨_, congrArg Host.Outcome.next (pageWrite_header hp hs hw (by simp) (fun p => setReg (p.addr + hdrErrFirst) 0x0FFF0000)), onlyRegs_setReg _ _ s, ?_⟩
    exact reg_setReg_self _ _ s
  · exact ⟨_, congrArg Host.Outcome.next (pageWrite_header hp hs hw (by simp) (fun p => setField (p.addr + hdrLock) 0 0 1)),
      fieldIs_setField s le_rfl (by decide) (by decide)⟩
  · refine ⟨_, congrArg Host.Outcome.next (if_neg (by simp only [hr, Bool.not_true, Bool.false_eq_true, not_false_eq_true])), rfl, ?_, fun g hg => ?_⟩
    · simp only [tgetD_tmod_self]
      split
      · next h => simpa using h
      · simp
    · exact tgetD_tmod_ne s.intQueue [] [] (fun l => if l.contains page = true then l else l ++ [page]) hg

end Sys2Proof.Machine
end

section
/-! PROOF. The Weave caches' lines under the directory's actions (R229), and reduction lines (R240, R241). -/

namespace Sys2Proof.Machine

/-! ## Lists of lines -/

theorem find?_updateFirst_ne {la l : Nat} {f : WLine → WLine} (hf : ∀ x, (f x).la = x.la) (h : l ≠ la) (L : List WLine) :
    (updateFirst L (fun x => x.la == la) f).find? (fun x => x.la == l) = L.find? (fun x => x.la == l) := by
  induction L with
  | nil => rfl
  | cons x L ih =>
    by_cases hx : x.la = la
    · simp [updateFirst, hx, hf, Ne.symm h]
    · by_cases hl : x.la = l <;> simp [updateFirst, hx, hl, ih, h]

theorem find?_updateFirst_self {la : Nat} {f : WLine → WLine} (hf : ∀ x, (f x).la = x.la) (L : List WLine) :
    (updateFirst L (fun x => x.la == la) f).find? (fun x => x.la == la) = (L.find? (fun x => x.la == la)).map f := by
  induction L with
  | nil => rfl
  | cons x L ih => by_cases hx : x.la = la <;> simp [updateFirst, hx, hf, ih]

/-- A line that loses its data stays under its pin, in I, if at all (R239). -/
theorem dropData_some {x y : WLine} (h : dropData x = some y) : y.la = x.la ∧ y.state = .i := by
  unfold dropData at h
  split at h
  · cases h; exact ⟨rfl, rfl⟩
  · cases h

theorem find?_dropped_ne {la l : Nat} (h : l ≠ la) (L : List WLine) :
    (L.filterMap (fun x => if x.la == la then dropData x else some x)).find? (fun x => x.la == l) = L.find? (fun x => x.la == l) := by
  simp only [beq_iff_eq]
  induction L with
  | nil => rfl
  | cons x L ih =>
    by_cases hx : x.la = la
    · have hxl : x.la ≠ l := hx ▸ Ne.symm h
      cases hd : dropData x with
      | none => simp [hx, hd, ih, Ne.symm h, -List.find?_filterMap]
      | some y => simp [hx, hd, ih, Ne.symm h, (dropData_some hd).1, -List.find?_filterMap]
    · by_cases hl : x.la = l <;> simp [hx, hl, ih, h, -List.find?_filterMap]

theorem find?_dropped_self (la : Nat) (L : List WLine) :
    ((L.filterMap (fun x => if x.la == la then dropData x else some x)).find? (fun x => x.la == la)).elim LineState.i (fun x => x.state) = .i := by
  cases hf : (L.filterMap (fun x => if x.la == la then dropData x else some x)).find? (fun x => x.la == la) with
  | none => rfl
  | some y =>
    have hla : y.la = la := by simpa using List.find?_some hf
    obtain ⟨x, _, hx⟩ := List.mem_filterMap.mp (List.mem_of_find?_eq_some hf)
    split at hx
    · exact (dropData_some hx).2
    · next hne => cases hx; exact absurd (by simpa using hla) hne

/-! ## Changes of a set -/

theorem setAt_modSet_self (die la : Nat) (f : WSet → WSet) (s : State) : setAt (modSet die la f s) die la = f (setAt s die la) := by
  simp [setAt, modSet, modWeave, weaveOf]

theorem weaveOf_modWeave (die d : Nat) (f : Weave → Weave) (s : State) :
    weaveOf (modWeave die f s) d = if d = die then f (weaveOf s d) else weaveOf s d := by
  by_cases h : d = die
  · subst h; simp [weaveOf, modWeave]
  · simp [weaveOf, modWeave, h, tgetD_tmod_ne]

theorem lineAt_congr {s t : State} (h : t.weaves = s.weaves) (d l : Nat) : lineAt t d l = lineAt s d l := by
  simp only [lineAt, setAt, weaveOf, h]

theorem lineState_of_lineAt {s t : State} {d l : Nat} (h : lineAt t d l = lineAt s d l) : lineState t d l = lineState s d l := by
  rw [lineState, h, lineState]

/-- A change of a set's lines leaves every line whose place in the set it keeps. -/
theorem lineAt_modSet {die la d l : Nat} {f : WSet → WSet} (s : State)
    (hf : d = die → ∀ t, (f t).ways.find? (fun x => x.la == l) = t.ways.find? (fun x => x.la == l)) :
    lineAt (modSet die la f s) d l = lineAt s d l := by
  simp only [lineAt, setAt, modSet, weaveOf_modWeave]
  by_cases hd : d = die
  · by_cases hk : laKey l = laKey la
    · simp [hd, hk, hf hd]
    · simp [hd, tgetD_tmod_ne _ _ _ _ hk]
  · simp [hd]

theorem lineAt_modLine_ne {die la d l : Nat} {f : WLine → WLine} (hf : ∀ x, (f x).la = x.la) (s : State) (h : d ≠ die ∨ l ≠ la) :
    lineAt (modLine die la f s) d l = lineAt s d l :=
  lineAt_modSet s fun hd t => find?_updateFirst_ne hf (h.resolve_left (fun hne => hne hd)) t.ways

theorem lineAt_modLine_self {die la : Nat} {f : WLine → WLine} (hf : ∀ x, (f x).la = x.la) (s : State) :
    lineAt (modLine die la f s) die la = (lineAt s die la).map f := by
  simp only [lineAt, modLine, setAt_modSet_self, find?_updateFirst_self hf]

theorem lineAt_invalidate_ne {die la d l : Nat} (s : State) (h : d ≠ die ∨ l ≠ la) : lineAt (invalidate die la s) d l = lineAt s d l :=
  lineAt_modSet s fun hd t => find?_dropped_ne (h.resolve_left (fun hne => hne hd)) t.ways

theorem lineState_invalidate_self (die la : Nat) (s : State) : lineState (invalidate die la s) die la = .i := by
  simp only [lineState, lineAt, invalidate, setAt_modSet_self, find?_dropped_self]

/-! ## What the directory's actions on a line may touch -/

/-- From `s` to `t` the caches changed in their sets alone, and there in the line `la` alone; of memory, where the line's block has no
check word, the line alone; beyond them registers, but not the map of dies, poison and the waits of looms (R229). -/
structure TouchesLine (la : Nat) (s t : State) : Prop where
  rest : ∃ w m r p l, t = { s with weaves := w, mem := m, regs := r, poison := p, looms := l }
  lines : ∀ d l, l ≠ la → lineAt t d l = lineAt s d l
  sets : ∀ d, weaveOf t d = { weaveOf s d with sets := (weaveOf t d).sets }
  map : reg t dieMapAddr = reg s dieMapAddr
  bytes : s.mem.wf = true → t.mem.wf = true ∧
    (isChecked s (la * 128) = false → ∀ a, a < la * 128 ∨ la * 128 + 128 ≤ a → memByte t.mem a = memByte s.mem a)

namespace TouchesLine

variable {la : Nat} {s t u : State}

theorem refl (la : Nat) (s : State) : TouchesLine la s s := ⟨⟨_, _, _, _, _, rfl⟩, fun _ _ _ => rfl, fun _ => rfl, rfl, fun h => ⟨h, fun _ _ _ => rfl⟩⟩

theorem checked (h : TouchesLine la s t) (pa : Nat) : isChecked t pa = isChecked s pa := by
  obtain ⟨_, _, _, _, _, rfl⟩ := h.rest
  rfl

theorem live (h : TouchesLine la s t) (d : Nat) : dieLive t d = dieLive s d := by rw [dieLive, h.map, dieLive]

theorem liveDies (h : TouchesLine la s t) : Machine.liveDies t = Machine.liveDies s := by
  simp only [Machine.liveDies, funext h.live]

theorem trans (h : TouchesLine la s t) (h' : TouchesLine la t u) : TouchesLine la s u where
  rest := by
    obtain ⟨_, _, _, _, _, rfl⟩ := h.rest
    obtain ⟨_, _, _, _, _, rfl⟩ := h'.rest
    exact ⟨_, _, _, _, _, rfl⟩
  lines d l hl := (h'.lines d l hl).trans (h.lines d l hl)
  sets d := by rw [h'.sets d, h.sets d]
  map := h'.map.trans h.map
  bytes hm := by
    obtain ⟨ht, hb⟩ := h.bytes hm
    obtain ⟨hu, hb'⟩ := h'.bytes ht
    exact ⟨hu, fun hc a ha => (hb' ((h.checked _).trans hc) a ha).trans (hb hc a ha)⟩

/-- What every pass of a loop touches, the loop touches. -/
theorem loop {α : Type} {f : α → State → State} (L : List α) (hf : ∀ x t, TouchesLine la t (f x t)) (h : TouchesLine la s t) :
    TouchesLine la s (forL L f t) :=
  forL_keeps (p := TouchesLine la s) L (fun x _ ht => ht.trans (hf x _)) h

end TouchesLine

theorem touchesLine_modSet {die la : Nat} {f : WSet → WSet} (s : State)
    (hf : ∀ l, l ≠ la → ∀ t, (f t).ways.find? (fun x => x.la == l) = t.ways.find? (fun x => x.la == l)) :
    TouchesLine la s (modSet die la f s) where
  rest := ⟨_, _, _, _, _, rfl⟩
  lines _ l hl := lineAt_modSet s fun _ t => hf l hl t
  sets d := by
    rw [modSet, weaveOf_modWeave]
    split <;> rfl
  map := rfl
  bytes hm := ⟨hm, fun _ _ _ => rfl⟩

theorem touchesLine_modLine {die la : Nat} {f : WLine → WLine} (s : State) (hf : ∀ x, (f x).la = x.la) :
    TouchesLine la s (modLine die la f s) :=
  touchesLine_modSet s fun _ hl t => find?_updateFirst_ne hf hl t.ways

theorem touchesLine_invalidate (die la : Nat) (s : State) : TouchesLine la s (invalidate die la s) :=
  touchesLine_modSet s fun _ hl t => find?_dropped_ne hl t.ways

/-- A counter of a page, at an offset that is not that of the map of dies. -/
theorem touchesLine_bump (la n : Nat) {page off : Nat} (s : State) (hp : page % 4096 = 0) (h : off % 4096 ≠ Reg.PCD_DIE_MAP) :
    TouchesLine la s (bump (page + off) n s) where
  rest := ⟨_, _, _, _, _, rfl⟩
  lines _ _ _ := rfl
  sets _ := rfl
  map := reg_bump_ne n s fun he => by
    have hmap := pageAddr_mod .pcd 15 0 0
    simp only [dieMapAddr, Reg.PCD_DIE_MAP] at he h
    omega
  bytes hm := ⟨hm, fun _ _ _ => rfl⟩

theorem wvcPage_mod (die slice page : Nat) : wvcPage die slice page % 4096 = 0 := pageAddr_mod _ _ _ _

theorem touchesLine_countUpdate (la pa : Nat) (s : State) : TouchesLine la s (countUpdate pa s) := by
  unfold countUpdate
  split
  · exact touchesLine_bump la 1 s (chkPage_mod _) (by decide)
  · exact .refl la s

theorem touchesLine_setPoison (la g : Nat) (p : Bool) (s : State) : TouchesLine la s (setPoison g p s) :=
  ⟨⟨_, _, _, _, _, rfl⟩, fun _ _ _ => rfl, fun _ => rfl, rfl, fun h => ⟨h, fun _ _ _ => rfl⟩⟩

theorem touchesLine_lcvRelease (la a b c : Nat) (s : State) : TouchesLine la s (lcvRelease a b c s) :=
  ⟨⟨_, _, _, _, _, rfl⟩, fun _ _ _ => rfl, fun _ => rfl, rfl, fun h => ⟨h, fun _ _ _ => rfl⟩⟩

theorem touchesLine_lineData {la : Nat} {L : List Byte} (s : State) (hL : L.length = 128) : TouchesLine la s (lineData (la * 128) L s) where
  rest := ⟨_, _, _, _, _, lineData_rest _ _ _⟩
  lines _ _ _ := by rw [lineData_rest]; rfl
  sets _ := by rw [lineData_rest]; rfl
  map := by rw [lineData_rest]; rfl
  bytes hm := ⟨wf_lineData _ _ hm, fun hc a ha => memByte_lineData hm (by omega) (fun h => by rw [hc] at h; cases h)⟩

/-! ## Reduction lines (R240, R241) -/

theorem length_mergeBytes (l : WLine) (old : List Byte) : (mergeBytes l old).length = 128 := by
  have hn : 128 / atomBytes l.ty * atomBytes l.ty = 128 := by
    unfold atomBytes
    split <;> rfl
  simp [mergeBytes, List.length_flatMap, hn]

theorem la_foldl_redApply (L : List RedWait) (l : WLine) :
    (L.foldl (fun l w => redApply w.off w.operand w.poisoned l) l).la = l.la ∧
      (L.foldl (fun l w => redApply w.off w.operand w.poisoned l) l).state = l.state := by
  induction L generalizing l with
  | nil => exact ⟨rfl, rfl⟩
  | cons w L ih => exact ih _

theorem touchesLine_writeBack (die la : Nat) (s : State) : TouchesLine la s (writeBack die la s) := by
  unfold writeBack
  split
  · exact touchesLine_countUpdate la _ s
  · exact .refl la s

theorem touchesLine_registerLine (die la : Nat) (s : State) : TouchesLine la s (registerLine die la s) := by
  refine (TouchesLine.loop _ (fun d t => ?_) (.refl la s)).trans (touchesLine_modLine _ fun x => ?_)
  · split
    · exact touchesLine_invalidate d la t
    · exact touchesLine_invalidate d la t
    · exact (touchesLine_writeBack d la t).trans (touchesLine_invalidate d la _)
    · exact .refl la t
  · split <;> rfl

/-- The line after its registration is acknowledged: the waiting REDs have been applied in order (R240). -/
def ackedLine (l : WLine) : WLine :=
  { (l.waiting.foldl (fun l w => redApply w.off w.operand w.poisoned l) l) with acked := true, waiting := [] }

theorem la_ackedLine (l : WLine) : (ackedLine l).la = l.la := (la_foldl_redApply l.waiting l).1

/-- The waiters of a line let go. -/
def releaseReds (L : List RedWait) (s : State) : State :=
  forL L (fun w s => match w.waiter with | some (a, b, c) => lcvRelease a b c s | none => s) s

theorem releaseReds_rest (L : List RedWait) (s : State) : ∃ l, releaseReds L s = { s with looms := l } := by
  refine forL_keeps (p := fun t => ∃ l, t = { s with looms := l }) L (fun w t ht => ?_) ⟨s.looms, rfl⟩
  obtain ⟨l, rfl⟩ := ht
  split <;> exact ⟨_, rfl⟩

theorem touchesLine_releaseReds (la : Nat) (L : List RedWait) (s : State) : TouchesLine la s (releaseReds L s) := by
  refine TouchesLine.loop L (fun w t => ?_) (.refl la s)
  split
  · exact touchesLine_lcvRelease la _ _ _ t
  · exact .refl la t

theorem ackLine_eq {die la : Nat} {l : WLine} {s : State} (hl : lineAt s die la = some l) : ackLine die la s =
    if (isReduction l.state && l.registered) = true then releaseReds l.waiting (modLine die la ackedLine s) else s := by
  cases h : (isReduction l.state && l.registered) <;> simp only [ackLine, hl, h] <;> rfl

theorem touchesLine_ackLine (die la : Nat) (s : State) : TouchesLine la s (ackLine die la s) := by
  cases hl : lineAt s die la with
  | none => simpa only [ackLine, hl] using .refl la s
  | some l =>
    rw [ackLine_eq hl]
    split
    · exact (touchesLine_modLine s la_ackedLine).trans (touchesLine_releaseReds la _ _)
    · exact .refl la s

theorem settleLine_cases (die la : Nat) (s : State) :
    settleLine die la s = s ∨ settleLine die la s = ackLine die la (registerLine die la s) := by
  unfold settleLine
  split
  · split
    · exact .inr rfl
    · exact .inl rfl
  · exact .inl rfl

theorem touchesLine_settleLine (die la : Nat) (s : State) : TouchesLine la s (settleLine die la s) := by
  rcases settleLine_cases die la s with h | h <;> rw [h]
  · exact .refl la s
  · exact (touchesLine_registerLine die la s).trans (touchesLine_ackLine die la _)

/-- The bytes and poison that a reduction line brings to its home (R241, R254). -/
def mergeData (la : Nat) (l : WLine) (s : State) : State :=
  let s := if l.touched = 0 then s else lineWrite (la * 128) (mergeBytes l (memGet s.mem (la * 128) 128)) s
  let s := if bit l.redPoison 0 then setPoison (la * 2) true s else s
  if bit l.redPoison 1 then setPoison (la * 2 + 1) true s else s

theorem mergeOut_eq {die la : Nat} {l : WLine} {s : State} (hl : lineAt s die la = some l) : mergeOut die la s =
    if isReduction l.state = true then invalidate die la (bump (wvcPage die (laSlice la) 0 + Reg.WVC_MERGES) 1 (mergeData la l s)) else s := by
  cases h : isReduction l.state <;> simp only [mergeOut, hl, h] <;> rfl

theorem touchesLine_mergeData (la : Nat) (l : WLine) (s : State) : TouchesLine la s (mergeData la l s) := by
  have hpoison (b : Bool) (g : Nat) (t : State) : TouchesLine la t (if b then setPoison g true t else t) := by
    split
    · exact touchesLine_setPoison la g true t
    · exact .refl la t
  refine (TouchesLine.trans ?_ (hpoison _ _ _)).trans (hpoison _ _ _)
  split
  · exact .refl la s
  · exact (touchesLine_lineData s (length_mergeBytes l _)).trans (touchesLine_countUpdate la _ _)

theorem touchesLine_mergeOut (die la : Nat) (s : State) : TouchesLine la s (mergeOut die la s) := by
  cases hl : lineAt s die la with
  | none => simpa only [mergeOut, hl] using .refl la s
  | some l =>
    rw [mergeOut_eq hl]
    split
    · exact ((touchesLine_mergeData la l s).trans (touchesLine_bump la 1 _ (wvcPage_mod _ _ _) (by decide))).trans
        (touchesLine_invalidate die la _)
    · exact .refl la s

/-- One reduction line of an address is recalled and counted. -/
def recallOne (la d : Nat) (s : State) : State :=
  bump (wvcPage d (laSlice la) 0 + Reg.WVC_RECALLS) 1 (mergeOut d la (settleLine d la s))

theorem touchesLine_recallOne (la d : Nat) (s : State) : TouchesLine la s (recallOne la d s) :=
  ((touchesLine_settleLine d la s).trans (touchesLine_mergeOut d la _)).trans (touchesLine_bump la 1 _ (wvcPage_mod _ _ _) (by decide))

theorem touchesLine_recallReductions (la : Nat) (s : State) : TouchesLine la s (recallReductions la s) :=
  TouchesLine.loop _ (touchesLine_recallOne la) (.refl la s)

/-! ## The directory's requests (R229) -/

/-- A copy that a read has made a shared one. -/
def shared (l : WLine) : WLine := { l with state := .s }

theorem la_shared (l : WLine) : (shared l).la = l.la := rfl

/-- What a read by another die leaves of a die's copy (R229). -/
def shareCopy (la d : Nat) (s : State) : State :=
  match lineState s d la with
  | .e => modLine d la shared s
  | .m => modLine d la shared (writeBack d la s)
  | _ => s

/-- A request for M by another die takes a die's copy (R229). -/
def takeCopy (la d : Nat) (s : State) : State := if lineState s d la == .i then s else invalidate d la s

theorem touchesLine_shareCopy (la d : Nat) (s : State) : TouchesLine la s (shareCopy la d s) := by
  unfold shareCopy
  split
  · exact touchesLine_modLine s la_shared
  · exact (touchesLine_writeBack d la s).trans (touchesLine_modLine _ la_shared)
  · exact .refl la s

theorem touchesLine_takeCopy (la d : Nat) (s : State) : TouchesLine la s (takeCopy la d s) := by
  unfold takeCopy
  split
  · exact .refl la s
  · exact touchesLine_invalidate d la s

theorem dirRead_eq (die la : Nat) (s : State) :
    dirRead die la s = forL ((liveDies s).filter (fun d => d != die)) (shareCopy la) (recallReductions la s) := rfl

theorem dirM_eq (die la : Nat) (s : State) :
    dirM die la s = forL ((liveDies s).filter (fun d => d != die)) (takeCopy la) (recallReductions la s) := rfl

theorem touchesLine_dirRead (die la : Nat) (s : State) : TouchesLine la s (dirRead die la s) :=
  TouchesLine.loop _ (touchesLine_shareCopy la) (touchesLine_recallReductions la s)

theorem touchesLine_dirM (die la : Nat) (s : State) : TouchesLine la s (dirM die la s) :=
  TouchesLine.loop _ (touchesLine_takeCopy la) (touchesLine_recallReductions la s)

theorem touchesLine_memM (la : Nat) (s : State) : TouchesLine la s (memM la s) := by
  refine TouchesLine.loop _ (fun d t => ?_) (touchesLine_recallReductions la s)
  split
  · exact .refl la t
  · exact (touchesLine_writeBack d la t).trans (touchesLine_invalidate d la _)

/-! ## The states of a line's copies -/

/-- What the pass of a die settles for it, and no pass unsettles, holds of every die after the loop. -/
theorem forL_each {f : Nat → State → State} {p : Nat → State → Prop} (hset : ∀ d s, p d (f d s)) (hkeep : ∀ d d' s, p d s → p d (f d' s))
    (L : List Nat) (s : State) : ∀ d ∈ L, p d (forL L f s) := by
  induction L generalizing s with
  | nil => simp
  | cons x L ih =>
    intro d hd
    rcases List.mem_cons.mp hd with rfl | hd
    · exact forL_keeps L (fun x t ht => hkeep d x t ht) (hset d s)
    · exact ih (f x s) d hd

/-- Every copy of the line has kept its state, or lost its data. -/
def Demotes (la : Nat) (s t : State) : Prop := ∀ d, lineState t d la = lineState s d la ∨ lineState t d la = .i

theorem Demotes.refl (la : Nat) (s : State) : Demotes la s s := fun _ => .inl rfl

theorem Demotes.trans {la : Nat} {s t u : State} (h : Demotes la s t) (h' : Demotes la t u) : Demotes la s u := by
  intro d
  rcases h' d with hu | hu
  · rw [hu]; exact h d
  · exact .inr hu

theorem Demotes.loop {la : Nat} {s t : State} {α : Type} {f : α → State → State} (L : List α) (hf : ∀ x t, Demotes la t (f x t))
    (h : Demotes la s t) : Demotes la s (forL L f t) :=
  forL_keeps (p := Demotes la s) L (fun x _ ht => ht.trans (hf x _)) h

theorem demotes_of_weaves {la : Nat} {s t : State} (h : t.weaves = s.weaves) : Demotes la s t :=
  fun d => .inl (lineState_of_lineAt (lineAt_congr h d la))

theorem demotes_invalidate (die la : Nat) (s : State) : Demotes la s (invalidate die la s) := by
  intro d
  by_cases hd : d = die
  · subst hd; exact .inr (lineState_invalidate_self d la s)
  · exact .inl (lineState_of_lineAt (lineAt_invalidate_ne s (.inl hd)))

theorem lineState_modLine_self {die la : Nat} {f : WLine → WLine} (hf : ∀ x, (f x).la = x.la) (hs : ∀ x, (f x).state = x.state) (s : State) :
    lineState (modLine die la f s) die la = lineState s die la := by
  simp only [lineState, lineAt_modLine_self hf]
  cases lineAt s die la <;> simp [hs]

theorem demotes_modLine {die la : Nat} {f : WLine → WLine} (hf : ∀ x, (f x).la = x.la) (hs : ∀ x, (f x).state = x.state) (s : State) :
    Demotes la s (modLine die la f s) := by
  intro d
  by_cases hd : d = die
  · subst hd; exact .inl (lineState_modLine_self hf hs s)
  · exact .inl (lineState_of_lineAt (lineAt_modLine_ne hf s (.inl hd)))

theorem weaves_countUpdate (pa : Nat) (s : State) : (countUpdate pa s).weaves = s.weaves := by
  unfold countUpdate
  split <;> rfl

theorem weaves_writeBack (die la : Nat) (s : State) : (writeBack die la s).weaves = s.weaves := by
  unfold writeBack
  split
  · exact weaves_countUpdate _ s
  · rfl

theorem weaves_mergeData (la : Nat) (l : WLine) (s : State) : (mergeData la l s).weaves = s.weaves := by
  have hpoison (b : Bool) (g : Nat) (t : State) : (if b then setPoison g true t else t).weaves = t.weaves := by
    split <;> rfl
  refine (hpoison _ _ _).trans ((hpoison _ _ _).trans ?_)
  split
  · rfl
  · rw [lineWrite, weaves_countUpdate, lineData_rest]

/-- What a registration at the home does to a die's copy: the plain ones go (R229). -/
def yieldCopy (la d : Nat) (s : State) : State :=
  match lineState s d la with
  | .s => invalidate d la s
  | .e => invalidate d la s
  | .m => invalidate d la (writeBack d la s)
  | _ => s

theorem registerLine_eq (die la : Nat) (s : State) : registerLine die la s =
    modLine die la (fun l => if isReduction l.state then { l with registered := true } else l) (forL (liveDies s) (yieldCopy la) s) := rfl

theorem demotes_yieldCopy (la d : Nat) (s : State) : Demotes la s (yieldCopy la d s) := by
  unfold yieldCopy
  split
  · exact demotes_invalidate d la s
  · exact demotes_invalidate d la s
  · exact (demotes_of_weaves (weaves_writeBack d la s)).trans (demotes_invalidate d la _)
  · exact .refl la s

theorem demotes_registerLine (die la : Nat) (s : State) : Demotes la s (registerLine die la s) :=
  (Demotes.loop _ (demotes_yieldCopy la) (.refl la s)).trans
    (demotes_modLine (fun x => by split <;> rfl) (fun x => by split <;> rfl) _)

theorem demotes_settleLine (die la : Nat) (s : State) : Demotes la s (settleLine die la s) := by
  have hack (t : State) : Demotes la t (ackLine die la t) := by
    cases hl : lineAt t die la with
    | none => simpa only [ackLine, hl] using .refl la t
    | some l =>
      rw [ackLine_eq hl]
      split
      · refine (demotes_modLine (die := die) la_ackedLine (fun x => (la_foldl_redApply x.waiting x).2) t).trans (demotes_of_weaves ?_)
        obtain ⟨_, h⟩ := releaseReds_rest l.waiting (modLine die la ackedLine t)
        rw [h]
      · exact .refl la t
  rcases settleLine_cases die la s with h | h <;> rw [h]
  · exact .refl la s
  · exact (demotes_registerLine die la s).trans (hack _)

theorem demotes_mergeOut (die la : Nat) (s : State) : Demotes la s (mergeOut die la s) := by
  cases hl : lineAt s die la with
  | none => simpa only [mergeOut, hl] using .refl la s
  | some l =>
    rw [mergeOut_eq hl]
    split
    · exact (demotes_of_weaves (weaves_mergeData la l s)).trans (demotes_invalidate die la _)
    · exact .refl la s

theorem isReduction_mergeOut (die la : Nat) (s : State) : isReduction (lineState (mergeOut die la s) die la) = false := by
  cases hl : lineAt s die la with
  | none => simp only [mergeOut, hl, lineState, Option.elim]; rfl
  | some l =>
    rw [mergeOut_eq hl]
    split
    · rw [lineState_invalidate_self]; rfl
    · next h => simpa only [lineState, hl, Option.elim, Bool.not_eq_true] using h

theorem demotes_recallOne (la d : Nat) (s : State) : Demotes la s (recallOne la d s) :=
  ((demotes_settleLine d la s).trans (demotes_mergeOut d la _)).trans (demotes_of_weaves rfl)

theorem Demotes.isReduction {la d : Nat} {s t : State} (h : Demotes la s t) (hd : Machine.isReduction (lineState s d la) = false) :
    Machine.isReduction (lineState t d la) = false := by
  rcases h d with h | h <;> rw [h]
  · exact hd
  · rfl

theorem mem_insertByKey (la d x : Nat) (L : List Nat) : x ∈ insertByKey la d L ↔ x = d ∨ x ∈ L := by
  induction L with
  | nil => simp [insertByKey]
  | cons y L ih =>
    unfold insertByKey
    split
    · simp
    · simp only [List.mem_cons, ih]; tauto

theorem mem_foldl_insertByKey (la x : Nat) (L acc : List Nat) :
    x ∈ L.foldl (fun acc d => insertByKey la d acc) acc ↔ x ∈ L ∨ x ∈ acc := by
  induction L generalizing acc with
  | nil => simp
  | cons y L ih => simp only [List.foldl_cons, ih, mem_insertByKey, List.mem_cons]; tauto

/-- The dies whose reduction lines of an address are recalled, in the order of their merges. -/
def recallOrder (la : Nat) (s : State) : List Nat :=
  let ds := (liveDies s).filter (fun d => isReduction (lineState s d la))
  if ds.length ≤ 1 then ds else ds.foldl (fun acc d => insertByKey la d acc) []

theorem recallReductions_eq (la : Nat) (s : State) : recallReductions la s = forL (recallOrder la s) (recallOne la) s := rfl

theorem mem_recallOrder {la d : Nat} {s : State} : d ∈ recallOrder la s ↔ d ∈ liveDies s ∧ isReduction (lineState s d la) = true := by
  simp only [recallOrder]
  split <;> simp [mem_foldl_insertByKey]

theorem mem_liveDies {d : Nat} {s : State} : d ∈ liveDies s ↔ dieLive s d = true := by
  simp only [liveDies, List.mem_filter, List.mem_range, and_iff_right_iff_imp]
  intro h
  simp only [dieLive, Bool.and_eq_true, decide_eq_true_eq] at h
  exact h.1

/-- After a recall no live die holds the line as a reduction line (R229, R241). -/
theorem isReduction_recallReductions {la d : Nat} {s : State} (hd : dieLive s d = true) :
    isReduction (lineState (recallReductions la s) d la) = false := by
  rw [recallReductions_eq]
  by_cases hr : isReduction (lineState s d la) = true
  · refine forL_each (p := fun d t => isReduction (lineState t d la) = false) (fun d t => ?_) (fun d d' t h => ?_) _ s d
      (mem_recallOrder.mpr ⟨mem_liveDies.mpr hd, hr⟩)
    · exact (demotes_of_weaves (la := la) rfl).isReduction (isReduction_mergeOut d la _)
    · exact (demotes_recallOne la d' t).isReduction h
  · exact (Demotes.loop _ (demotes_recallOne la) (.refl la s)).isReduction (by simpa using hr)

/-- With no reduction line nothing is recalled. -/
theorem recallReductions_of_none {la : Nat} {s : State} (h : ∀ d, isReduction (lineState s d la) = false) : recallReductions la s = s := by
  have hnil : recallOrder la s = [] := List.eq_nil_iff_forall_not_mem.mpr fun d hd => by simpa [h d] using (mem_recallOrder.mp hd).2
  rw [recallReductions_eq, hnil, forL_nil]

theorem demotes_takeCopy (la d : Nat) (s : State) : Demotes la s (takeCopy la d s) := by
  unfold takeCopy
  split
  · exact .refl la s
  · exact demotes_invalidate d la s

theorem lineState_takeCopy (la d : Nat) (s : State) : lineState (takeCopy la d s) d la = .i := by
  unfold takeCopy
  split
  · next h => exact eq_of_beq h
  · exact lineState_invalidate_self d la s

theorem Demotes.stays {la d : Nat} {s t : State} (h : Demotes la s t) (hd : lineState s d la = .i) : lineState t d la = .i :=
  (h d).elim (fun h => h.trans hd) id

/-- After a request for M no other live die holds the line (R229). -/
theorem lineState_dirM {die la d : Nat} {s : State} (hne : d ≠ die) (hd : dieLive s d = true) : lineState (dirM die la s) d la = .i :=
  forL_each (p := fun d t => lineState t d la = .i) (lineState_takeCopy la) (fun _ d' t h => (demotes_takeCopy la d' t).stays h) _ _ d
    (by simp [mem_liveDies, hd, hne])

/-- A read leaves of a copy the state it had, or a shared one (R229). -/
theorem lineState_shareCopy (la d d' : Nat) (s : State) : lineState (shareCopy la d' s) d la = lineState s d la ∨
    lineState (shareCopy la d' s) d la = .s := by
  have hmod (t : State) (ht : t.weaves = s.weaves) (he : lineState s d' la ≠ .i) :
      lineState (modLine d' la shared t) d la = lineState s d la ∨
        lineState (modLine d' la shared t) d la = .s := by
    by_cases h : d = d'
    · subst h
      right
      simp only [lineState, lineAt_modLine_self la_shared, lineAt_congr ht] at he ⊢
      cases hl : lineAt s d la with
      | none => simp [hl] at he
      | some l => rfl
    · exact .inl (lineState_of_lineAt ((lineAt_modLine_ne la_shared t (.inl h)).trans (lineAt_congr ht d la)))
  unfold shareCopy
  split
  · next h => exact hmod s rfl (by simp [h])
  · next h => exact hmod _ (weaves_writeBack d' la s) (by simp [h])
  · exact .inl rfl

theorem lineState_shareCopy_self (la d : Nat) (s : State) : lineState (shareCopy la d s) d la ≠ .e ∧ lineState (shareCopy la d s) d la ≠ .m := by
  have hmod (t : State) : lineState (modLine d la shared t) d la ≠ .e ∧
      lineState (modLine d la shared t) d la ≠ .m := by
    simp only [lineState, lineAt_modLine_self la_shared]
    cases lineAt t d la <;> simp [shared]
  unfold shareCopy
  split
  · exact hmod _
  · exact hmod _
  · next he hm => exact ⟨he, hm⟩

/-- After a read no other live die holds the line in E or M (R229). -/
theorem lineState_dirRead {die la d : Nat} {s : State} (hne : d ≠ die) (hd : dieLive s d = true) :
    lineState (dirRead die la s) d la ≠ .e ∧ lineState (dirRead die la s) d la ≠ .m := by
  refine forL_each (p := fun d t => lineState t d la ≠ .e ∧ lineState t d la ≠ .m) (lineState_shareCopy_self la) (fun d d' t h => ?_) _ _ d
    (by simp [mem_liveDies, hd, hne])
  rcases lineState_shareCopy la d d' t with h' | h' <;> rw [h']
  · exact h
  · simp

theorem isReduction_dirM {die la d : Nat} {s : State} (hd : dieLive s d = true) : isReduction (lineState (dirM die la s) d la) = false :=
  (Demotes.loop _ (demotes_takeCopy la) (.refl la _)).isReduction (isReduction_recallReductions hd)

theorem isReduction_dirRead {die la d : Nat} {s : State} (hd : dieLive s d = true) : isReduction (lineState (dirRead die la s) d la) = false := by
  rw [dirRead_eq]
  refine forL_keeps (p := fun t => isReduction (lineState t d la) = false) _ (fun d' t h => ?_) (isReduction_recallReductions hd)
  rcases lineState_shareCopy la d d' t with h' | h' <;> rw [h']
  · exact h
  · rfl

theorem mem_dirM {die la : Nat} {s : State} (h : ∀ d, isReduction (lineState s d la) = false) : (dirM die la s).mem = s.mem := by
  rw [dirM_eq, recallReductions_of_none h]
  refine forL_same _ (fun d t => ?_) s
  unfold takeCopy
  split <;> rfl

theorem mem_dirRead {die la : Nat} {s : State} (h : ∀ d, isReduction (lineState s d la) = false) : (dirRead die la s).mem = s.mem := by
  rw [dirRead_eq, recallReductions_of_none h]
  have hback (d : Nat) (t : State) : (writeBack d la t).mem = t.mem := by
    unfold writeBack countUpdate
    split
    · split <;> rfl
    · rfl
  refine forL_same _ (fun d t => ?_) s
  unfold shareCopy
  split
  · rfl
  · exact hback d t
  · rfl

/-! ## Room in the directory (R229) -/

/-- To make room the directory drops nothing, or the entry of another line of the home that a live die holds. -/
theorem dirRoom_cases (la : Nat) (s : State) : dirRoom la s = { s with draws := s.draws + 1 } ∨
    ∃ v, Config.dirVictim (homeDie (la * 128)) s.draws = some v ∧ v ≠ la ∧ dirRoom la s = dirEvict v { s with draws := s.draws + 1 } := by
  unfold dirRoom draw
  dsimp only
  split
  · exact .inl rfl
  · next v hv =>
    split
    · next h =>
      simp only [Bool.and_eq_true, bne_iff_ne, ne_eq] at h
      exact .inr ⟨v, hv, h.1.1, rfl⟩
    · exact .inl rfl

theorem weaves_dirEvict (v : Nat) (s : State) : (dirEvict v s).weaves = (memM v s).weaves := by simp [dirEvict]

theorem lineAt_dirRoom (la d : Nat) (s : State) : lineAt (dirRoom la s) d la = lineAt s d la := by
  rcases dirRoom_cases la s with h | ⟨v, _, hv, h⟩
  · rw [h]; rfl
  · rw [h, lineAt_congr (weaves_dirEvict v _), (touchesLine_memM v _).lines d la (Ne.symm hv)]; rfl

/-- A write by the memory side takes every live die's copy (R229). -/
theorem lineState_memM {v d : Nat} {s : State} (hd : dieLive s d = true) : lineState (memM v s) d v = .i := by
  refine forL_each (p := fun d t => lineState t d v = .i) (fun d t => ?_) (fun d d' t h => ?_) _ _ d (mem_liveDies.mpr hd)
  · split
    · next h => exact eq_of_beq h
    · exact lineState_invalidate_self d v _
  · split
    · exact h
    · exact ((demotes_of_weaves (weaves_writeBack d' v t)).trans (demotes_invalidate d' v _)).stays h

theorem reg_setPend_dieMap {page m : Nat} (s : State) (hp : page % 4096 = 0) : reg (setPend page m s) dieMapAddr = reg s dieMapAddr :=
  reg_setPend_ne m s fun he => by
    have hmap := pageAddr_mod .pcd 15 0 0
    simp only [dieMapAddr, Reg.PCD_DIE_MAP, hdrPend] at he
    omega

theorem dieLive_dirRoom (la d : Nat) (s : State) : dieLive (dirRoom la s) d = dieLive s d := by
  rcases dirRoom_cases la s with h | ⟨v, _, _, h⟩ <;> rw [h]
  · rfl
  · have hbump := touchesLine_bump v 1 (memM v { s with draws := s.draws + 1 }) (wvcPage_mod (homeDie (v * 128)) 0 1) (off := Reg.WVC_DIR_EVICT) (by decide)
    simp only [dieLive, dirEvict, reg_setPend_dieMap _ (wvcPage_mod _ _ _)]
    rw [hbump.map, (touchesLine_memM v _).map]
    rfl

theorem dirRoom_victim {la v d : Nat} {s : State} (hv : Config.dirVictim (homeDie (la * 128)) s.draws = some v) (hne : v ≠ la)
    (hh : homeDie (v * 128) = homeDie (la * 128)) (hd : dieLive s d = true) : lineState (dirRoom la s) d v = .i := by
  simp only [dirRoom, draw, hv, bne_iff_ne, ne_eq, hne, not_false_eq_true, hh, beq_self_eq_true, Bool.and_true, Bool.and_eq_true, true_and]
  split
  · rw [lineState_of_lineAt (lineAt_congr (weaves_dirEvict v _) d v)]
    exact lineState_memM hd
  · next h =>
    by_contra hc
    exact h (List.any_eq_true.mpr ⟨d, mem_liveDies.mpr hd, by simpa [bne_iff_ne] using hc⟩)

/-- Settles O30: each request recalls the reduction lines and then takes or shares the other dies' copies one by one. -/
theorem directoryKeepsOneWriter : Obligations.DirectoryKeepsOneWriter := by
  intro s die la s0
  refine ⟨fun hn => ?_, fun v hv hne hh d hd => ?_, fun d => lineAt_dirRoom la d s, ⟨_, rfl, fun d => lineState_dirM⟩, ⟨_, rfl, fun d => lineState_dirRead⟩, ?_⟩
  · simp only [s0, dirRoom, draw, hn]
  · exact dirRoom_victim hv hne hh hd
  · have hframe {t : State} (ht : TouchesLine la s0 t) :
        t = { s0 with weaves := t.weaves, mem := t.mem, regs := t.regs, poison := t.poison, looms := t.looms } := by
      obtain ⟨_, _, _, _, _, rfl⟩ := ht.rest
      rfl
    rintro t (ht | ht) <;> cases ht
    · have ht := touchesLine_dirM die la s0
      exact ⟨fun d => isReduction_dirM, ht.lines, fun hm hc => (ht.bytes hm).2 hc, mem_dirM, hframe ht⟩
    · have ht := touchesLine_dirRead die la s0
      exact ⟨fun d => isReduction_dirRead, ht.lines, fun hm hc => (ht.bytes hm).2 hc, mem_dirRead, hframe ht⟩

end Sys2Proof.Machine
end

section
/-! PROOF. Reduction lines register, merge and write back (R229, R240, R241). -/

namespace Sys2Proof.Machine

/-! ## Registration -/

theorem countUpdate_rest (pa : Nat) (s : State) : countUpdate pa s = { s with regs := (countUpdate pa s).regs } := by
  unfold countUpdate
  split <;> rfl

theorem writeBack_rest (die la : Nat) (s : State) : writeBack die la s = { s with regs := (writeBack die la s).regs } := by
  unfold writeBack
  split
  · exact countUpdate_rest _ s
  · rfl

theorem yieldCopy_rest (la d : Nat) (s : State) : ∃ w r, yieldCopy la d s = { s with weaves := w, regs := r } := by
  unfold yieldCopy
  split
  · exact ⟨_, s.regs, rfl⟩
  · exact ⟨_, s.regs, rfl⟩
  · rw [writeBack_rest]; exact ⟨_, _, rfl⟩
  · exact ⟨s.weaves, s.regs, rfl⟩

theorem registerLine_rest (die la : Nat) (s : State) : ∃ w r, registerLine die la s = { s with weaves := w, regs := r } := by
  have hloop : ∃ w r, forL (liveDies s) (yieldCopy la) s = { s with weaves := w, regs := r } := by
    refine forL_keeps (p := fun t => ∃ w r, t = { s with weaves := w, regs := r }) _ (fun d t ht => ?_) ⟨s.weaves, s.regs, rfl⟩
    obtain ⟨_, _, rfl⟩ := ht
    exact yieldCopy_rest la d _
  obtain ⟨w, r, h⟩ := hloop
  rw [registerLine_eq, h]
  exact ⟨_, _, rfl⟩

/-- A registration leaves the reduction lines of an address where they are (R229). -/
theorem lineAt_yieldCopy {la die d : Nat} {l : WLine} {s : State} (hl : lineAt s die la = some l) (hr : isReduction l.state = true) :
    lineAt (yieldCopy la d s) die la = some l := by
  by_cases h : die = d
  · subst h
    have hs : lineState s die la = l.state := by simp only [lineState, hl, Option.elim]
    unfold yieldCopy
    rw [hs]
    split <;> simp_all [isReduction]
  · have hinv (t : State) (ht : t.weaves = s.weaves) : lineAt (invalidate d la t) die la = some l := by
      rw [lineAt_invalidate_ne t (.inl h), lineAt_congr ht, hl]
    unfold yieldCopy
    split
    · exact hinv s rfl
    · exact hinv s rfl
    · exact hinv _ (weaves_writeBack d la s)
    · exact hl

theorem lineAt_registerLine {die la : Nat} {l : WLine} {s : State} (hl : lineAt s die la = some l) (hr : isReduction l.state = true) :
    lineAt (registerLine die la s) die la = some { l with registered := true } := by
  rw [registerLine_eq, lineAt_modLine_self (fun x => by split <;> rfl),
    forL_keeps (p := fun t => lineAt t die la = some l) _ (fun d t ht => lineAt_yieldCopy ht hr) hl, Option.map_some, if_pos hr]

/-- A registration leaves no plain copy on a live die (R229). -/
theorem lineState_registerLine {die la d : Nat} {s : State} (hd : dieLive s d = true) :
    lineState (registerLine die la s) d la = .i ∨ isReduction (lineState (registerLine die la s) d la) = true := by
  have hkeep {d : Nat} {t u : State} (hdem : Demotes la t u) (h : lineState t d la = .i ∨ isReduction (lineState t d la) = true) :
      lineState u d la = .i ∨ isReduction (lineState u d la) = true := by
    rcases hdem d with hu | hu <;> rw [hu]
    · exact h
    · exact .inl rfl
  refine hkeep (demotes_modLine (fun x => by split <;> rfl) (fun x => by split <;> rfl) _) ?_
  refine forL_each (p := fun d t => lineState t d la = .i ∨ isReduction (lineState t d la) = true) (fun d t => ?_)
    (fun d d' t h => hkeep (demotes_yieldCopy la d' t) h) _ s d (mem_liveDies.mpr hd)
  unfold yieldCopy
  split
  · exact .inl (lineState_invalidate_self d la _)
  · exact .inl (lineState_invalidate_self d la _)
  · exact .inl (lineState_invalidate_self d la _)
  · next hs he hm =>
    cases h : lineState t d la with
    | i => exact .inl rfl
    | s => exact absurd h hs
    | e => exact absurd h he
    | m => exact absurd h hm
    | rd => exact .inr rfl
    | ro => exact .inr rfl

/-! ## Merges -/

theorem countUpdate_of_unchecked {pa : Nat} {s : State} (h : isChecked s pa = false) : countUpdate pa s = s := by
  rw [countUpdate, h]
  rfl

theorem lineWrite_of_unchecked {pa : Nat} (l : List Byte) {s : State} (h : isChecked s pa = false) :
    lineWrite pa l s = { s with mem := memPut s.mem pa l } := by
  have hd : lineData pa l s = { s with mem := memPut s.mem pa l } := by rw [lineData, h]; rfl
  rw [lineWrite, hd]
  exact countUpdate_of_unchecked h

/-- The bytes that a merge leaves at the line (R241). -/
def mergedMem (la : Nat) (l : WLine) (s : State) : Memory :=
  if l.touched = 0 then s.mem else memPut s.mem (la * 128) (mergeBytes l (memGet s.mem (la * 128) 128))

/-- The poison that a merge leaves (R254). -/
def mergedPoison (la : Nat) (l : WLine) (s : State) : List Nat :=
  let p := if bit l.redPoison 0 then sinsert s.poison (la * 2) else s.poison
  if bit l.redPoison 1 then sinsert p (la * 2 + 1) else p

theorem mergeData_of_unchecked {la : Nat} (l : WLine) {s : State} (h : isChecked s (la * 128) = false) :
    mergeData la l s = { s with mem := mergedMem la l s, poison := mergedPoison la l s } := by
  simp only [mergeData, mergedMem, mergedPoison, lineWrite_of_unchecked _ h]
  split <;> split <;> split <;> rfl

theorem memGet_mergedMem (la : Nat) (l : WLine) {s : State} (hm : s.mem.wf = true) : memGet (mergedMem la l s) (la * 128) 128 =
    if l.touched = 0 then memGet s.mem (la * 128) 128 else mergeBytes l (memGet s.mem (la * 128) 128) := by
  unfold mergedMem
  split
  · rfl
  · have h := memGet_memPut (la * 128) (mergeBytes l (memGet s.mem (la * 128) 128)) hm
    rwa [length_mergeBytes] at h

theorem memByte_mergedMem {la a : Nat} (l : WLine) {s : State} (hm : s.mem.wf = true) (ha : a < la * 128 ∨ la * 128 + 128 ≤ a) :
    memByte (mergedMem la l s) a = memByte s.mem a := by
  unfold mergedMem
  split
  · rfl
  · rw [memByte_memPut _ _ _ hm, length_mergeBytes, if_neg (by omega)]

theorem contains_mergedPoison (la a : Nat) (l : WLine) (s : State) : (mergedPoison la l s).contains (a / 64) =
    (poisonedAt s a || (bit l.redPoison 0 && a / 64 == la * 2) || (bit l.redPoison 1 && a / 64 == la * 2 + 1)) := by
  have hins (b : Bool) (g : Nat) (p : List Nat) : (if b then sinsert p g else p).contains (a / 64) = (p.contains (a / 64) || (b && a / 64 == g)) := by
    cases b
    · simp
    · rw [Bool.eq_iff_iff]
      simp [mem_sinsert, or_comm]
  simp only [mergedPoison, hins, poisonedAt]

/-- Settles O32, by the frames and the line of each of the three commands. -/
theorem reductionLinesComplete : Obligations.ReductionLinesComplete := by
  intro s die la l hl hr
  refine ⟨fun hreg => ?_, fun hreg hack => ?_, fun hack hm hc => ?_⟩
  · intro s0
    refine ⟨_, congrArg Host.Outcome.next (if_pos ?_), ?_, lineAt_registerLine ((lineAt_dirRoom la die s).trans hl) hr,
      fun d hd => lineState_registerLine ((dieLive_dirRoom la d s).trans hd)⟩
    · simp [hl, hr, hreg]
    · obtain ⟨_, _, h⟩ := registerLine_rest die la (dirRoom la s)
      rw [h]
  · have hgo : (isReduction l.state && l.registered) = true := by simp [hr, hreg]
    refine ⟨_, congrArg Host.Outcome.next ((if_pos ?_).trans ((ackLine_eq hl).trans (if_pos hgo))), ?_, ?_⟩
    · simp [hl, hr, hreg, hack]
    · obtain ⟨_, h⟩ := releaseReds_rest l.waiting (modLine die la ackedLine s)
      rw [h]
      rfl
    · obtain ⟨_, h⟩ := releaseReds_rest l.waiting (modLine die la ackedLine s)
      rw [h]
      exact (lineAt_modLine_self la_ackedLine s).trans (congrArg (Option.map ackedLine) hl)
  · have hsettled : settleLine die la s = s := by simp [settleLine, hl, hack]
    have ht : mergeOut die la (settleLine die la s) = invalidate die la (bump (wvcPage die (laSlice la) 0 + Reg.WVC_MERGES) 1
        { s with mem := mergedMem la l s, poison := mergedPoison la l s }) := by
      rw [hsettled, mergeOut_eq hl, if_pos hr, mergeData_of_unchecked l hc]
    refine ⟨_, congrArg Host.Outcome.next ht, rfl, lineState_invalidate_self die la _, memGet_mergedMem la l hm, fun a ha => memByte_mergedMem l hm ha,
      fun a => contains_mergedPoison la a l s, fun a ha => ?_, ?_⟩
    · exact reg_bump_ne 1 _ (by simpa using ha)
    · exact reg_bump_self _ 1 _

/-! ## Fills (R232, R233, R236) -/

/-- From `s` to `t` of the caches only the sets changed. -/
def OnlySets (s t : State) : Prop := ∀ d, weaveOf t d = { weaveOf s d with sets := (weaveOf t d).sets }

theorem OnlySets.trans {s t u : State} (h : OnlySets s t) (h' : OnlySets t u) : OnlySets s u := fun d => by rw [h' d, h d]

theorem onlySets_of_weaves {s t : State} (h : t.weaves = s.weaves) : OnlySets s t := fun d => by simp only [weaveOf, h]

theorem onlySets_modSet (die la : Nat) (f : WSet → WSet) (s : State) : OnlySets s (modSet die la f s) := fun d => by
  rw [modSet, weaveOf_modWeave]
  split <;> rfl

theorem OnlySets.missOpen {s t : State} (h : OnlySets s t) (d l : Nat) : missOpen t d l = Machine.missOpen s d l := by
  rw [Machine.missOpen, h d, Machine.missOpen]

theorem onlySets_evictWay (die la way : Nat) (s : State) : OnlySets s (evictWay die la way s) := by
  unfold evictWay
  split
  · exact onlySets_of_weaves rfl
  · next l _ =>
    have hdata := (touchesLine_settleLine die l.la s).trans ((touchesLine_mergeOut die l.la _).trans (touchesLine_writeBack die l.la _))
    exact (OnlySets.trans hdata.sets (onlySets_modSet die la _ _))

theorem onlySets_allocLine (die la part : Nat) (sw : Bool) (by' : Option Nat) (st : LineState) (s : State) :
    OnlySets s (allocLine die la part sw by' st s) := by
  unfold allocLine
  dsimp only
  split
  · split
    · exact onlySets_of_weaves rfl
    · exact onlySets_of_weaves (by simp)
  · next way _ =>
    have hcount : OnlySets (evictWay die la way s)
        (if sw then bump (wvcPage die (laSlice la) 0 + Reg.WVC_STREAM_ALLOC) 1 (evictWay die la way s) else evictWay die la way s) := by
      split <;> exact onlySets_of_weaves rfl
    exact ((onlySets_evictWay die la way s).trans hcount).trans (onlySets_modSet die la _ _)

/-- A line that is placed takes the state it is placed in. -/
theorem lineState_allocLine {die la part way : Nat} {sw : Bool} {by' : Option Nat} {st : LineState} {s : State}
    (h : chooseWay s die la part sw false = some way) : lineState (allocLine die la part sw by' st s) die la = st := by
  have hnone (L : List WLine) : (L.filter (fun l => l.la != la)).find? (fun l => l.la == la) = none := by
    simp
  simp only [allocLine, h, lineState, lineAt, setAt_modSet_self, List.find?_append, hnone]
  simp

/-- A fill closes its miss register. -/
theorem missOpen_closed (die la : Nat) (s : State) :
    missOpen (modWeave die (fun x => { x with miss := tupd x.miss (laSlice la) (fun l => l.filter (fun m => m.la != la)) }) s) die la = false := by
  simp only [missOpen, weaveOf_modWeave, if_true, tgetD, tget?_tupd_self]
  cases tget? (weaveOf s die).miss (laSlice la) <;> simp

theorem releaseWaiter_rest (w : Waiter) (s : State) : ∃ l, releaseWaiter w s = { s with looms := l } := by
  unfold releaseWaiter
  split
  · exact ⟨_, rfl⟩
  · exact ⟨s.looms, rfl⟩

theorem loomOf_releaseWaiter {w : Waiter} {l : Nat} (s : State) (h : w.lcv?.all (fun x => x.1 != l) = true) :
    loomOf (releaseWaiter w s) l = loomOf s l := by
  unfold releaseWaiter
  split
  · next a b c hw =>
    simp only [hw, Option.all_some, bne_iff_ne, ne_eq] at h
    exact loomOf_modSkein_ne _ s (Ne.symm h)
  · rfl

/-- What the delivery of a fill does for a waiter (R232, R240). -/
def serveFilled (die la : Nat) (w : Waiter) (s : State) : State :=
  match w with
  | .red _ part strm _ => serveWaiter die ⟨la, part, strm, true, w⟩ s
  | w => releaseWaiter w s

theorem serveFilled_of_held {die la : Nat} {w : Waiter} (h : waitingReds [w] = []) (s : State) : serveFilled die la w s = releaseWaiter w s := by
  cases w with
  | red _ _ _ _ => cases h
  | _ => rfl

/-- Waiters whose accesses are held let go, and change nothing but their looms. -/
theorem forL_serveFilled {die la : Nat} {L : List Waiter} (h : ∀ w ∈ L, waitingReds [w] = []) (s : State) :
    (∃ l, forL L (serveFilled die la) s = { s with looms := l }) ∧
      ∀ l, (∀ w ∈ L, w.lcv?.all (fun x => x.1 != l) = true) → loomOf (forL L (serveFilled die la) s) l = loomOf s l := by
  induction L generalizing s with
  | nil => exact ⟨⟨s.looms, rfl⟩, fun _ _ => rfl⟩
  | cons w L ih =>
    have hw := serveFilled_of_held (die := die) (la := la) (h w (.head L)) s
    obtain ⟨l1, h1⟩ := releaseWaiter_rest w s
    obtain ⟨⟨l2, h2⟩, hkeep⟩ := ih (fun w hw => h w (.tail _ hw)) (releaseWaiter w s)
    rw [forL_cons, hw]
    refine ⟨⟨l2, h2.trans (by rw [h1])⟩, fun l hl => ?_⟩
    exact (hkeep l fun w hw => hl w (.tail _ hw)).trans (loomOf_releaseWaiter s (hl w (.head L)))

/-- An input queue in which nothing waits. -/
theorem drainInput_of_none {die sl : Nat} {s : State} (h : tget? (weaveOf s die).inputq sl = none) :
    drainInput die sl s = modWeave die (fun w => { w with inputq := tdel w.inputq sl }) s := by
  simp only [drainInput, tgetD, h, Option.getD_none, forL_nil]

/-- Settles O31: the line is placed by `allocLine`, and each waiter is then served in order. -/
theorem fillsAreDelivered : Obligations.FillsAreDelivered := by
  intro s die la m hm s0 s1 s2 s3 s4
  have hexec : exec (.fillDelivery die la) s = .next (drainInput die (laSlice la) (forL m.waiters (serveFilled die la) s4)) := by
    have hm' : missReg s die la = some m := hm
    have hs3 : (if (m.forM && lineState s2 die la != .m && m.waiters.length != (waitingReds m.waiters).length) = true then
        countUpdate (la * 128) s2 else s2) = s3 := if_congr (by simp [and_assoc]) rfl rfl
    refine congrArg Host.Outcome.next ?_
    unfold deliverFill
    rw [hm']
    exact congrArg (fun t => drainInput die (laSlice la) (forL m.waiters (serveFilled die la)
      (if 4 < ((m.waiters.map Waiter.source).eraseDups).length then bump (wvcPage die (laSlice la) 0 + Reg.WVC_MCAST) 1 t else t))) hs3
  have hclosed : missOpen s2 die la = false := by
    have hreq : OnlySets s0 s1 := by
      simp only [s1]
      split
      · exact (touchesLine_dirM die la s0).sets
      · exact (touchesLine_dirRead die la s0).sets
    exact ((hreq.trans (onlySets_allocLine _ _ _ _ _ _ _)).missOpen die la).trans (missOpen_closed die la s)
  have hclosed4 : missOpen s4 die la = false := by
    have hw3 : s3.weaves = s2.weaves := by
      simp only [s3]
      split
      · exact weaves_countUpdate _ s2
      · rfl
    have hw4 : s4.weaves = s3.weaves := by
      simp only [s4]
      split <;> rfl
    exact ((onlySets_of_weaves (hw4.trans hw3)).missOpen die la).trans hclosed
  refine ⟨hclosed, fun way hway => lineState_allocLine hway, hexec, fun hheld hq => ?_⟩
  obtain ⟨⟨l, hl⟩, hskein⟩ := forL_serveFilled (die := die) (la := la) hheld s4
  have hdrain := drainInput_of_none (s := forL m.waiters (serveFilled die la) s4) (die := die) (sl := laSlice la) (by rw [hl]; exact hq)
  refine ⟨_, hexec.trans (congrArg Host.Outcome.next hdrain), ?_, ?_, fun d x => ?_, fun x i hx => ?_⟩
  · rw [hl]; rfl
  · rw [hl]
    simp only [missOpen, weaveOf_modWeave, if_true]
    exact hclosed4
  · rw [hl]
    simp only [lineAt, setAt, weaveOf_modWeave]
    split <;> rfl
  · exact congrArg (fun y => tget? y.skeins i) (hskein x hx)

end Sys2Proof.Machine
end

section
/-! PROOF. Pins, the cache configuration and survivor regions (R236 to R239, R243, R260). -/

namespace Sys2Proof.Machine

/-! ## Pins (R237, R239) -/

/-- A PIN entry that is taken and allowed walks its lines, and ends with their counts or the first failure. -/
theorem execPin_of_takes {die slot : Nat} {s : State} {j : DmaJob} {t : State} (h : DmaTakes die slot s j t) (hop : bytesAt j.entry 0 1 = 0x30)
    (hw : pinMalformed j.entry = false) (hcap : ctxCap t j.ctx 1 = true) {r : Option (Nat × Nat) × List Nat × State}
    (hr : pinWalk die j.ctx (pinLine die j.ctx) (pLength j.entry / 128) (pAddr j.entry) [0, 0, 0, 0] t = r) :
    exec (.pin die slot) s = .next (r.1.elim (dmaFinish j (if r.2.1.drop 1 = [0, 0, 0] then zsOk else zsPinDenied) 0 r.2.1 r.2.2)
      (fun x => dmaFail j.page j x.1 x.2 r.2.1 r.2.2)) := by
  refine congrArg Host.Outcome.next ((dmaStart_of_takes h _ (by simp [hop]) _).trans ?_)
  obtain ⟨_ | ⟨c, u⟩, n, s'⟩ := r
  · simp only [hw, hcap, hr, Bool.not_true, Bool.false_eq_true, if_false, Option.elim]
    by_cases hn : n.drop 1 = [0, 0, 0]
    · simp only [hn, beq_self_eq_true, if_true]
    · simp only [hn, beq_eq_false_iff_ne.mpr hn, Bool.false_eq_true, if_false]
  · simp only [hw, hcap, hr, Bool.not_true, Bool.false_eq_true, if_false, Option.elim]

theorem execUnpin_of_takes {die slot : Nat} {s : State} {j : DmaJob} {t : State} (h : DmaTakes die slot s j t) (hop : bytesAt j.entry 0 1 = 0x31)
    (hw : pinMalformed j.entry = false) {r : Option (Nat × Nat) × List Nat × State}
    (hr : pinWalk die j.ctx (unpinLine die j.ctx) (pLength j.entry / 128) (pAddr j.entry) [0, 0] t = r) :
    exec (.unpin die slot) s = .next (r.1.elim (dmaFinish j zsOk 0 (r.2.1.drop 1) r.2.2)
      (fun x => dmaFail j.page j x.1 x.2 (r.2.1.drop 1) r.2.2)) := by
  refine congrArg Host.Outcome.next ((dmaStart_of_takes h _ (by simp [hop]) _).trans ?_)
  obtain ⟨_ | ⟨c, u⟩, n, s'⟩ := r <;> simp only [hw, hr, Bool.false_eq_true, if_false, Option.elim]

/-! ## The cache's configuration (R236, R243) -/

theorem wvcDieCfg_of_fits {die v : Nat} {s : State} (hv : bits v 3 0 ≤ 12) (hsum : minWaysSum (weaveOf s die) ≤ 16 - bits v 3 0) :
    wvcDieCfg die v s = setReg (wvcPage die 0 1 + Reg.WVC_DIE_CFG) (bits v 3 0) s :=
  (if_neg (by omega)).trans (if_neg (by omega))

theorem pinCap_setReg (die v : Nat) (s : State) : pinCap (setReg (wvcPage die 0 1 + Reg.WVC_DIE_CFG) (bits v 3 0) s) die = bits v 3 0 := by
  simp only [pinCap, reg_setReg_self, bits]
  omega

/-! ## Survivor regions (R260) -/

/-- What a valid survivor region keeps to: alignment, the die, and its distance from every other valid one (R260). -/
theorem survivorOk_iff {s : State} {die k base size : Nat} : survivorOk s die k base size = true ↔
    base % 2 ^ 21 = 0 ∧ 0 < size ∧ base + size * 2 ^ 21 ≤ dieDram ∧
      ∀ e ∈ s.survivors, e.1 / 16 = die → e.1 % 16 ≠ k → e.2.2.2 = true → base + size * 2 ^ 21 ≤ e.2.1 ∨ e.2.1 + e.2.2.1 * 2 ^ 21 ≤ base := by
  simp only [survivorOk, Bool.and_eq_true, beq_iff_eq, decide_eq_true_eq, List.all_eq_true, List.mem_filter, bne_iff_ne, Bool.or_eq_true, and_assoc,
    and_imp]

/-- Settles O33, each clause by the branch of its command. -/
theorem pinsAndMemoryConfiguration : Obligations.PinsAndMemoryConfiguration := by
  refine ⟨fun s die slot => ⟨fun j t hj hw => ⟨fun hop hcap => ?_, fun hop => ?_⟩, ⟨_, rfl, rfl, fun d hd => ?_, ?_⟩, fun v hv hsum => ?_, fun v hv => ?_, fun v => ?_⟩,
    fun s die size v => ?_⟩
  · intro r
    have h := execPin_of_takes hj hop hw hcap (r := r) rfl
    exact ⟨fun hr => by rw [h, hr]; rfl, fun c u hr => by rw [h, hr]; rfl⟩
  · intro r
    have h := execUnpin_of_takes hj hop hw (r := r) rfl
    exact ⟨fun hr => by rw [h, hr]; rfl, fun c u hr => by rw [h, hr]; rfl⟩
  · rw [weaveOf_modWeave, if_neg hd]
  · rw [weaveOf_modWeave, if_pos rfl]
  · exact ⟨_, congrArg Host.Outcome.next (wvcDieCfg_of_fits hv hsum), onlyRegs_setReg _ _ s, pinCap_setReg die v s⟩
  · exact congrArg Host.Outcome.next (if_pos hv)
  · intro w w'
    refine ⟨fun hsum => ⟨_, congrArg Host.Outcome.next (if_neg (Nat.not_lt.mpr hsum)), rfl, ?_, fun d hd => ?_⟩, fun hsum => congrArg Host.Outcome.next (if_pos hsum)⟩
    · exact (weaveOf_modWeave die die _ s).trans (if_pos rfl)
    · exact (weaveOf_modWeave die d _ s).trans (if_neg hd)
  · intro q k old new
    refine ⟨fun hvalid hbad => ?_, fun hok => ?_⟩
    · exact congrArg Host.Outcome.next (if_pos (Bool.and_eq_true_iff.mpr ⟨hvalid, (congrArg not hbad :)⟩))
    · have hgo : ¬ (new.2.2 && !survivorOk s die k new.1 new.2.1) = true := by
        cases h : new.2.2
        · simp
        · simp [hok h]
      refine ⟨_, congrArg Host.Outcome.next (if_neg hgo), rfl, tget?_tset_self _ _ _, fun i hi => tget?_tset_ne _ _ hi, fun hvalid => ?_⟩
      obtain ⟨halign, _, hin, hapart⟩ := survivorOk_iff.mp (hok hvalid)
      exact ⟨halign, hin, hapart⟩

end Sys2Proof.Machine
end

section
/-! PROOF. Role epochs and the stages of a teardown (R31, R291 to R295). -/

namespace Sys2Proof.Machine

/-! ## Endpoints and contexts under their updates -/

theorem find?_map_handle {f : Endpoint → Endpoint} (hf : ∀ e, (f e).handle = e.handle) (h : Word) (L : List (Nat × Endpoint)) :
    (L.map (fun p => (p.1, if p.2.handle == h then f p.2 else p.2))).find? (fun x => x.2.handle == h && h != 0) =
      (L.find? (fun x => x.2.handle == h && h != 0)).map (fun p => (p.1, f p.2)) := by
  induction L with
  | nil => rfl
  | cons p L ih =>
    by_cases hp : p.2.handle = h
    · by_cases h0 : h = 0 <;> simp_all
    · simpa [hp] using ih

/-- The endpoint that a change of it leaves under its handle. -/
theorem endpointOf_modEndpoint {f : Endpoint → Endpoint} (hf : ∀ e, (f e).handle = e.handle) (h : Word) (s : State) :
    endpointOf (modEndpoint h f s) h = (endpointOf s h).map f := by
  simp only [endpointOf, modEndpoint, tmapv, find?_map_handle hf, Option.map_map]
  rfl

theorem ctxAt_modCtx_self (c : Nat) (f : Ctx → Ctx) (s : State) : ctxAt (modCtx c f s) c = (ctxAt s c).map f := tget?_tupd_self _ _ _

theorem ctxAt_modCtx_ne {c x : Nat} (f : Ctx → Ctx) (s : State) (h : x ≠ c) : ctxAt (modCtx c f s) x = ctxAt s x := tget?_tupd_ne _ _ h

/-- Bytes that are still to be scrubbed, set die by die in a context's shares (R294). -/
def setScrubLeft (c : Nat) (v : Nat → Nat) (L : List Nat) (s : State) : State :=
  forL L (fun d s => modCtxDie c d (fun y => { y with scrubLeft := v d }) s) s

theorem setScrubLeft_rest (c : Nat) (v : Nat → Nat) (L : List Nat) (s : State) : ∃ x, setScrubLeft c v L s = { s with ctxs := x } := by
  refine forL_keeps (p := fun t => ∃ x, t = { s with ctxs := x }) L (fun d t ht => ?_) ⟨s.ctxs, rfl⟩
  obtain ⟨x, rfl⟩ := ht
  exact ⟨_, rfl⟩

theorem ctxAt_setScrubLeft_ne {c x : Nat} (v : Nat → Nat) (L : List Nat) (s : State) (h : x ≠ c) :
    ctxAt (setScrubLeft c v L s) x = ctxAt s x :=
  forL_same (g := fun t => ctxAt t x) L (fun _ t => ctxAt_modCtx_ne _ t h) s

/-- The context's own record differs in its shares alone. -/
theorem ctxAt_setScrubLeft_self {c : Nat} {x : Ctx} (v : Nat → Nat) (L : List Nat) {s : State} (hx : ctxAt s c = some x) :
    ∃ y, ctxAt (setScrubLeft c v L s) c = some { x with dies := y } := by
  refine forL_keeps (p := fun t => ∃ y, ctxAt t c = some { x with dies := y }) L (fun d t ht => ?_) ⟨x.dies, hx⟩
  obtain ⟨y, ht⟩ := ht
  rw [modCtxDie, ctxAt_modCtx_self, ht]
  exact ⟨_, rfl⟩

theorem ctxDie_setScrubLeft {c d : Nat} {x : Ctx} (v : Nat → Nat) {L : List Nat} {s : State} (hd : d ∈ L)
    (hx : ctxAt (setScrubLeft c v L s) c = some x) : (ctxDie x d).scrubLeft = v d := by
  refine forL_each (p := fun d t => ∀ x, ctxAt t c = some x → (ctxDie x d).scrubLeft = v d) (fun d t x hx => ?_) (fun d d' t h x hx => ?_) L s d hd x hx
  all_goals
    rw [modCtxDie, ctxAt_modCtx_self, Option.map_eq_some_iff] at hx
    obtain ⟨y, hy, rfl⟩ := hx
  · simp only [ctxDie, tgetD_tmod_self]
  · by_cases hdd : d = d'
    · subst hdd; simp only [ctxDie, tgetD_tmod_self]
    · simpa only [ctxDie, tgetD_tmod_ne _ _ _ _ hdd] using h y hy

/-! ## Scrubs (R259, R294) -/

/-- The scrubs of a list of byte ranges. -/
def scrubFrames (L : List (Nat × Nat)) (s : State) : State := forL L (fun f s => scrubRange f.1 f.2 s) s

theorem scrubFrames_cons (f : Nat × Nat) (L : List (Nat × Nat)) (s : State) : scrubFrames (f :: L) s = scrubFrames L (scrubRange f.1 f.2 s) := rfl

theorem ctxs_scrubFrames (L : List (Nat × Nat)) (s : State) : (scrubFrames L s).ctxs = s.ctxs :=
  forL_same (g := fun t => t.ctxs) (f := fun f s => scrubRange f.1 f.2 s) L (fun _ _ => rfl) s

theorem wf_scrubRange (pa n : Nat) {s : State} (hm : s.mem.wf = true) : (scrubRange pa n s).mem.wf = true := wf_memClear _ _ hm

theorem memByte_scrubRange {pa n : Nat} {s : State} (hm : s.mem.wf = true) (a : Nat) :
    memByte (scrubRange pa n s).mem a = if pa ≤ a ∧ a < pa + n then 0 else memByte s.mem a := memByte_memClear _ _ a hm

/-- No scrub poisons a granule. -/
theorem poisonedAt_scrubRange_of_clean {pa n a : Nat} {s : State} (h : poisonedAt s a = false) : poisonedAt (scrubRange pa n s) a = false := by
  simp only [poisonedAt, scrubRange, bump, setReg, List.contains_eq_mem, List.mem_filter, decide_eq_false_iff_not] at h ⊢
  exact fun hc => h hc.1

theorem poisonedAt_scrubRange {pa n a : Nat} (s : State) (hpa : pa % 64 = 0) (h1 : pa ≤ a) (h2 : a < pa + n) :
    poisonedAt (scrubRange pa n s) a = false := by
  have hin : pa ≤ a / 64 * 64 ∧ a / 64 * 64 < pa + n := by omega
  simp [poisonedAt, scrubRange, bump, setReg, hin]

theorem memByte_scrubFrames_out {L : List (Nat × Nat)} {s : State} (hm : s.mem.wf = true) {a : Nat} (ha : ∀ f ∈ L, a < f.1 ∨ f.1 + f.2 ≤ a) :
    memByte (scrubFrames L s).mem a = memByte s.mem a := by
  induction L generalizing s with
  | nil => rfl
  | cons f L ih =>
    have hf := ha f (.head L)
    rw [scrubFrames_cons, ih (wf_scrubRange _ _ hm) (fun g hg => ha g (.tail _ hg)), memByte_scrubRange hm, if_neg (by omega)]

/-- What is zero and clean stays so. -/
theorem scrubFrames_keeps_clean {L : List (Nat × Nat)} {s : State} (hm : s.mem.wf = true) {a : Nat} (h : memByte s.mem a = 0 ∧ poisonedAt s a = false) :
    memByte (scrubFrames L s).mem a = 0 ∧ poisonedAt (scrubFrames L s) a = false := by
  induction L generalizing s with
  | nil => exact h
  | cons f L ih =>
    rw [scrubFrames_cons]
    refine ih (wf_scrubRange _ _ hm) ⟨?_, poisonedAt_scrubRange_of_clean h.2⟩
    rw [memByte_scrubRange hm, h.1, ite_self]

theorem scrubFrames_clean {L : List (Nat × Nat)} {s : State} (hm : s.mem.wf = true) (hL : ∀ f ∈ L, f.1 % 64 = 0) {f : Nat × Nat} (hf : f ∈ L)
    {a : Nat} (h1 : f.1 ≤ a) (h2 : a < f.1 + f.2) : memByte (scrubFrames L s).mem a = 0 ∧ poisonedAt (scrubFrames L s) a = false := by
  induction L generalizing s with
  | nil => cases hf
  | cons g L ih =>
    rw [scrubFrames_cons]
    rcases List.mem_cons.mp hf with rfl | hf
    · refine scrubFrames_keeps_clean (wf_scrubRange _ _ hm) ⟨?_, poisonedAt_scrubRange s (hL f (.head L)) h1 h2⟩
      rw [memByte_scrubRange hm, if_pos ⟨h1, h2⟩]
    · exact ih (wf_scrubRange _ _ hm) (fun x hx => hL x (.tail _ hx)) hf

/-! ## Teardown (R291 to R295) -/

/-- A context in a stage of its teardown. -/
theorem tearingIn_eq_some {s : State} {c : Nat} {st : CtxState} {t : Teardown} :
    tearingIn s c st = some t ↔ ∃ x, ctxAt s c = some x ∧ x.state = st ∧ x.teardown = some t := by
  unfold tearingIn
  cases ctxAt s c with
  | none => simp
  | some x => by_cases h : x.state = st <;> simp [h]

/-- Settles O38: each stage by the loop that it is, over the dies or over the frames. -/
theorem teardownRunsItsStages : Obligations.TeardownRunsItsStages := by
  intro s c
  refine ⟨fun h r e hr he hmay => ?_, fun t ht hw => ?_, fun t ht hw hq => ?_, fun t ht hm hal => ?_, fun t ht hdone => ?_⟩
  · intro s1
    have hres : roleResult s1 h = toBytes 2 ((e.epoch + 1) % 65536) := by
      have he' : endpointOf s1 h = some { e with epoch := (e.epoch + 1) % 65536, advancedAt := some s.time } :=
        (endpointOf_modEndpoint (f := fun e => { e with epoch := (e.epoch + 1) % 65536, advancedAt := some s.time }) (fun _ => rfl) h _).trans
          (congrArg (Option.map _) he)
      simp only [roleResult, he', Option.elim]
    refine congrArg Host.Outcome.next ?_
    simp only [hr, he, hmay, Bool.not_true, Bool.false_eq_true, if_false]
    rw [← hres]
  · refine congrArg Host.Outcome.next ?_
    simp only [ht, hw, Bool.false_eq_true, if_false]
  · obtain ⟨x, hx, hst, htd⟩ := tearingIn_eq_some.mp ht
    have hquiet : ¬ (!t.writesDone || (liveDies s).any (fun d => inflightOf s c d != 0)) = true := by
      simpa [hw] using hq
    have hx1 : ctxAt (modCtx c (fun x => { x with state := .scrubbing }) s) c = some { x with state := .scrubbing } := by
      rw [ctxAt_modCtx_self, hx, Option.map_some]
    obtain ⟨y, hy⟩ := ctxAt_setScrubLeft_self (heldBytes s c) (liveDies s) hx1
    refine ⟨setScrubLeft c (heldBytes s c) (liveDies s) (modCtx c (fun x => { x with state := .scrubbing }) s), congrArg Host.Outcome.next ?_, ?_,
      tearingIn_eq_some.mpr ⟨_, hy, rfl, htd⟩, fun d hd => ?_, fun x hx => ?_⟩
    · simp only [ht]
      exact if_neg hquiet
    · obtain ⟨_, h⟩ := setScrubLeft_rest c (heldBytes s c) (liveDies s) (modCtx c (fun x => { x with state := .scrubbing }) s)
      rw [h]
      rfl
    · rw [hy]
      exact ctxDie_setScrubLeft (heldBytes s c) hd hy
    · exact (ctxAt_setScrubLeft_ne _ _ _ hx).trans (ctxAt_modCtx_ne _ s hx)
  · obtain ⟨x, hx, hst, htd⟩ := tearingIn_eq_some.mp ht
    have hx1 : ctxAt (releasePins c (scrubFrames (ctxFrames s c) s)) c = some x := by
      simp only [ctxAt, releasePins, ctxs_scrubFrames]
      exact hx
    obtain ⟨y, hy⟩ := ctxAt_setScrubLeft_self (fun _ => 0) (liveDies s) hx1
    obtain ⟨z, hrest⟩ := setScrubLeft_rest c (fun _ => 0) (liveDies s) (releasePins c (scrubFrames (ctxFrames s c) s))
    refine ⟨setScrubLeft c (fun _ => 0) (liveDies s) (releasePins c (scrubFrames (ctxFrames s c) s)), congrArg Host.Outcome.next ?_,
      tearingIn_eq_some.mpr ⟨_, hy, hst, htd⟩, fun d hd => ?_, fun f hf a h1 h2 => ?_, fun a ha => ?_⟩
    · simp only [ht]
      rfl
    · rw [hy]
      exact ctxDie_setScrubLeft (fun _ => 0) hd hy
    · rw [hrest]
      exact scrubFrames_clean hm hal hf h1 h2
    · rw [hrest]
      exact memByte_scrubFrames_out hm ha
  · intro s1 h
    have hquiet : ¬ (liveDies s).any (fun d => ((ctxAt s c).elim 0 (fun x => (ctxDie x d).scrubLeft)) != 0) = true := by
      simpa using hdone
    refine congrArg Host.Outcome.next ?_
    simp only [ht]
    exact if_neg hquiet

end Sys2Proof.Machine
end

section
/-! PROOF. Triggers of the device recovery reset (R409 to R412, R417, R418). -/

namespace Sys2Proof.Machine

/-- What each pass of a loop over a list's members keeps, the loop keeps. -/
theorem forL_keeps_mem {α σ : Type} {p : σ → Prop} {f : α → σ → σ} (l : List α) (h : ∀ x ∈ l, ∀ s, p s → p (f x s)) {s : σ} (hs : p s) :
    p (forL l f s) := by
  induction l generalizing s with
  | nil => exact hs
  | cons x l ih => exact ih (fun y hy => h y (.tail _ hy)) (h x (.head l) s hs)

/-! ## What a reset shows of itself -/

/-- What the start of a reset leaves alone once it has shown it: memory, time, the list of resets, and the recorder's two registers. -/
def resetView (s : State) : Memory × Nat × List Nat × Nat × Nat :=
  (s.mem, s.time, s.sys.resets, reg s (dryPage + Reg.DRY_STATUS), reg s (dryPage + Reg.DRY_INCARNATION))

theorem resetView_of_regs {s t : State} (ht : ∃ r, t = { s with regs := r }) (h1 : reg t (dryPage + Reg.DRY_STATUS) = reg s (dryPage + Reg.DRY_STATUS))
    (h2 : reg t (dryPage + Reg.DRY_INCARNATION) = reg s (dryPage + Reg.DRY_INCARNATION)) : resetView t = resetView s := by
  obtain ⟨r, rfl⟩ := ht
  simp only [resetView, h1, h2]

/-- Ports' pages lie below those of the recorder. -/
theorem linkPage_lt {k : Nat} (hk : k < 36) : linkPage k + 4096 ≤ dryPage := by
  interval_cases k <;> decide

theorem resetView_setField_link {k off : Nat} (hi lo v : Nat) (s : State) (hk : k < 36) (ho : off < 4096) :
    resetView (setField (linkPage k + off) hi lo v s) = resetView s := by
  have hlt := linkPage_lt hk
  exact resetView_of_regs ⟨_, rfl⟩ (reg_setField_ne _ _ _ s (by omega)) (reg_setField_ne _ _ _ s (by omega))

theorem dryPage_mod : dryPage % 4096 = 0 := pageAddr_mod _ _ _ _

theorem resetView_setPend {page m : Nat} (s : State) (hp : page % 4096 = 0) : resetView (setPend page m s) = resetView s := by
  have hd := dryPage_mod
  have h (off : Nat) (ho : off % 4096 ≠ hdrPend) : reg (setPend page m s) (dryPage + off) = reg s (dryPage + off) :=
    reg_setPend_ne m s (by simp only [hdrPend] at ho ⊢; omega)
  simp only [resetView, h _ (show Reg.DRY_STATUS % 4096 ≠ hdrPend by decide), h _ (show Reg.DRY_INCARNATION % 4096 ≠ hdrPend by decide), setPend_frame]

theorem resetView_logDry (die cls code : Nat) (args : List Nat) (s : State) : resetView (logDry die cls code args s) = resetView s := by
  have h (off : Nat) (ho : off ≠ Reg.DRY_NEXT_SEQ) : reg (logDry die cls code args s) (dryPage + off) = reg s (dryPage + off) :=
    reg_logDry_ne die cls code args s (by omega)
  simp only [resetView, h _ (show Reg.DRY_STATUS ≠ _ by decide), h _ (show Reg.DRY_INCARNATION ≠ _ by decide), logDry_frame]

theorem resetView_reStratum (s : State) : resetView (reStratum s) = resetView s := by
  unfold reStratum
  dsimp only
  refine forL_same (g := resetView) (liveDies s) (fun d t => ?_) s
  have hd := dryPage_mod
  have hr : rvlPage d % 4096 = 0 := pageAddr_mod _ _ _ _
  exact resetView_of_regs ⟨_, rfl⟩ (reg_setReg_ne _ t (by simp only [Reg.DRY_STATUS, Reg.RVL_TIME]; omega))
    (reg_setReg_ne _ t (by simp only [Reg.DRY_INCARNATION, Reg.RVL_TIME]; omega))

theorem resetView_setPortState {k : Nat} (st : Nat) (s : State) (hk : k < 36) : resetView (setPortState k st s) = resetView s := by
  have hshow : resetView (setPend (linkPage k) 4 (setField (linkPage k + Reg.RVL_PORT_STATE) 2 0 st s)) = resetView s :=
    (resetView_setPend _ (pageAddr_mod _ _ _ _)).trans (resetView_setField_link 2 0 st s hk (by decide))
  unfold setPortState
  dsimp only
  split
  · rfl
  · split
    · exact hshow
    · exact (resetView_reStratum _).trans hshow

theorem resetView_showSwitch {pair : Nat} (a b c : Bool) (s : State) (hp : pair < 18) : resetView (showSwitch pair a b c s) = resetView s := by
  have h0 : 2 * pair < 36 := by omega
  have h1 : 2 * pair + 1 < 36 := by omega
  have ho : Reg.RVL_BYPASS < 4096 := by decide
  exact (resetView_setField_link _ _ _ _ h1 ho).trans ((resetView_setField_link _ _ _ _ h0 ho).trans (resetView_setField_link _ _ _ s h0 ho))

theorem resetView_toBypass {pair : Nat} (s : State) (hp : pair < 18) : resetView (toBypass pair s) = resetView s := by
  unfold toBypass
  split
  · rfl
  · refine forL_keeps_mem (p := fun t => resetView t = resetView s) _ (fun k hk t ht => ?_) (resetView_showSwitch _ _ _ _ hp)
    have hk36 : k < 36 := by
      simp only [List.mem_cons, List.not_mem_nil, or_false] at hk
      omega
    exact (resetView_setPortState 0 _ hk36).trans ht

theorem resetView_allBypass (s : State) : resetView (allBypass s) = resetView s :=
  forL_keeps_mem (p := fun t => resetView t = resetView s) (List.range 18)
    (fun _ hp t ht => (resetView_toBypass t (List.mem_range.mp hp)).trans ht) rfl

theorem resetView_abandonTests (die cause : Nat) (s : State) : resetView (abandonTests die cause s) = resetView s :=
  forL_same (g := resetView) _ (fun _ t => resetView_logDry _ _ _ _ (modLoom _ _ t)) s

/-- Phase 1 begins: what the reset has shown of itself stays, and the phase is shown. -/
theorem resetView_phaseOne (s : State) : resetView (phaseOne s) = resetView (setPhase 1 s) :=
  (resetView_allBypass _).trans (forL_same (g := resetView) _ (fun d t => resetView_abandonTests d 1 t) _)

/-! ## The start of a reset (R412) -/

theorem resetView_closeGate (s : State) : resetView (closeGate s) = resetView s := by
  have hd := dryPage_mod
  have ho : orsPage % 4096 = 0 := pageAddr_mod _ _ _ _
  exact resetView_of_regs ⟨_, rfl⟩ (reg_setField_ne _ _ _ s (by simp only [Reg.DRY_STATUS, Reg.ORS_DBG_STATE]; omega))
    (reg_setField_ne _ _ _ s (by simp only [Reg.DRY_INCARNATION, Reg.ORS_DBG_STATE]; omega))

theorem status_ne_incarnation : dryPage + Reg.DRY_STATUS ≠ dryPage + Reg.DRY_INCARNATION := fun h =>
  absurd (Nat.add_left_cancel h) (by decide)

theorem resetView_modSys {f : Sys → Sys} (hf : ∀ y, (f y).resets = y.resets) (s : State) : resetView (modSys f s) = resetView s :=
  congrArg (fun r => (s.mem, s.time, r, reg s (dryPage + Reg.DRY_STATUS), reg s (dryPage + Reg.DRY_INCARNATION))) (hf s.sys)

/-- A reset that begins shows its trigger, and counts the incarnation (R412). -/
theorem resetView_beginReset (trigger detail : Nat) (s : State) : resetView (beginReset trigger detail s) =
    resetView (setField (dryPage + Reg.DRY_STATUS) 15 8 trigger (bumpSat (dryPage + Reg.DRY_INCARNATION) 1 s)) := by
  unfold beginReset
  dsimp only
  refine (resetView_closeGate _).trans ((resetView_modSys ?_ _).trans (resetView_logDry _ _ _ _ _))
  exact fun _ => rfl

theorem incarnation_begun (trigger : Nat) (s : State) :
    incarnation (setField (dryPage + Reg.DRY_STATUS) 15 8 trigger (bumpSat (dryPage + Reg.DRY_INCARNATION) 1 s)) = sat32 (incarnation s + 1) :=
  (reg_setField_ne _ _ _ _ status_ne_incarnation.symm).trans (reg_bumpSat_self _ 1 s)

/-- What a started reset shows, whatever else it records of itself in the PCD (R411, R412). -/
theorem startedReset {trigger detail : Nat} {s : State} {f : Sys → Sys} (ht : trigger < 256)
    (hf : ∀ y, (f y).resets = s.time :: y.resets) : let t := phaseOne (modSys f (beginReset trigger detail s))
    resetPhase t = 1 ∧ bits (reg t (dryPage + Reg.DRY_STATUS)) 15 8 = trigger ∧ incarnation t = sat32 (incarnation s + 1) ∧
      t.sys.resets = s.time :: s.sys.resets ∧ t.mem = s.mem ∧ t.time = s.time := by
  intro t
  have hview := resetView_phaseOne (modSys f (beginReset trigger detail s))
  have hbegin := resetView_beginReset trigger detail s
  simp only [resetView, Prod.mk.injEq] at hview hbegin
  obtain ⟨hmem, htime, hresets, hstatus, hinc⟩ := hview
  obtain ⟨hmem', htime', hresets', hstatus', hinc'⟩ := hbegin
  refine ⟨?_, ?_, ?_, ?_, hmem.trans hmem', htime.trans htime'⟩
  · rw [resetPhase, hstatus, setPhase]
    exact bits_reg_setField (dryPage + Reg.DRY_STATUS) 1 _ (by decide) (by decide)
  · rw [hstatus, setPhase]
    refine (bits_reg_setField_other (dryPage + Reg.DRY_STATUS) 1 _ (by decide) (by decide) (by decide) (by decide)).trans ?_
    rw [show reg (modSys f (beginReset trigger detail s)) (dryPage + Reg.DRY_STATUS) = _ from hstatus', bits_reg_setField _ _ _ (by decide) (by decide)]
    exact Nat.mod_eq_of_lt ht
  · exact hinc.trans ((reg_setField_ne _ _ _ _ status_ne_incarnation.symm).trans (hinc'.trans (incarnation_begun trigger s)))
  · exact hresets.trans ((hf _).trans (congrArg _ hresets'))

theorem mem_maskList {n m k : Nat} (hk : k < n) : k ∈ maskList n m ↔ bit m k = true := by simp [maskList, hk]

/-- The times of the kicks that a mask gives. -/
theorem tgetD_foldl_tset (L : List Nat) (v k : Nat) (t : Tab Nat) :
    tgetD (L.foldl (fun t k => tset t k v) t) k 0 = if k ∈ L then v else tgetD t k 0 := by
  induction L generalizing t with
  | nil => simp
  | cons x L ih =>
    rw [List.foldl_cons, ih]
    by_cases hx : k = x
    · subst hx; simp
    · simp [hx, tgetD_tset_ne _ _ _ hx]

/-- Settles O53: each branch of `startRecovery` and of the commands that call it. -/
theorem triggersStartOneReset : Obligations.TriggersStartOneReset := by
  intro s hon hent
  have hstart (trigger detail : Nat) : startRecovery trigger detail s =
      if resetPhase s ≠ 0 || (s.sys.clocksOff && !s.sys.failed) then logDry 15 0 0x0008 [trigger, detail] s
      else if s.sys.failed && !(trigger = 6 || trigger = 7) then s
      else if !s.sys.failed && stormCount s + 1 ≥ stormLimit s then declareFailed 3 s
      else
        let u := modSys (fun y => { y with startKind := 1, resets := s.time :: y.resets, noResp := [], cut := none }) (beginReset trigger detail s)
        if trigger = 9 then modSys (fun y => { y with clocksOff := true }) u else phaseOne u := by
    simp only [startRecovery, hon, hent, Option.isSome_none, Bool.false_eq_true, if_false]
  have hreg (a hi lo v : Nat) (ha : a ≠ dryPage + Reg.DRY_STATUS) (t : State) : resetPhase (setField a hi lo v t) = resetPhase t := by
    rw [resetPhase, reg_setField_ne _ _ _ _ ha.symm, resetPhase]
  have horsne : orsPage + Reg.ORS_DBG_STATE ≠ dryPage + Reg.DRY_STATUS := by decide
  have hclkne : clkPage + Reg.CLK_STATUS ≠ dryPage + Reg.DRY_STATUS := by decide
  refine ⟨fun trigger detail h9 h256 => ⟨fun hp => ?_, fun hp hf h6 h7 => ?_, fun hp hc hf hst => ?_, fun hp hc hf hst => ?_⟩, fun hf => ?_,
    ⟨_, rfl, ⟨rfl, fun _ _ => rfl, fun _ => rfl⟩, rfl⟩, rfl, fun die hd hl => ?_, fun die core hd hl hk => ?_, fun mask => ?_, ?_, ?_,
    fun port hd hu => ?_, fun loom east hd hs => ⟨fun x slot k rest hx hk hw he hr => ?_, fun hw hdr => ?_⟩, fun hc => ?_, fun hc hp hf => ?_⟩
  · rw [hstart, if_pos (by simp [hp])]
  · rw [hstart, if_neg (by simp [hp, hf]), if_pos (by simp [hf, h6, h7])]
  · rw [hstart, if_neg (by simp [hp, hc]), if_neg (by simp [hf]), if_pos (by simp [hf, hst])]
  · have ht : startRecovery trigger detail s = phaseOne (modSys
        (fun y => { y with startKind := 1, resets := s.time :: y.resets, noResp := [], cut := none }) (beginReset trigger detail s)) := by
      rw [hstart, if_neg (by simp [hp, hc]), if_neg (by simp [hf]), if_neg (by simp only [hf]; simp; omega)]
      exact if_neg h9
    rw [ht]
    exact startedReset h256 (fun _ => rfl)
  · refine congrArg Host.Outcome.next (if_neg ?_)
    have hnot : failedNow (closeGate (modSys (fun y => { y with rstLow := true }) s)) = failedNow s := by
      simp only [failedNow, closeGate, hreg _ _ _ _ horsne]
      rfl
    simp [hnot, hf]
  · exact congrArg Host.Outcome.next (if_pos (by rw [hd, hl]; rfl))
  · exact congrArg Host.Outcome.next (if_pos (by simp [hd, hl, hk]))
  · refine ⟨_, rfl, ⟨rfl, fun _ _ => rfl, fun _ => rfl⟩, fun k hk => ?_⟩
    simp only [modSys, tgetD_foldl_tset, mem_maskList hk]
  · exact congrArg Host.Outcome.next (if_pos hon)
  · refine congrArg Host.Outcome.next (if_pos ?_)
    simpa using hon
  · exact congrArg Host.Outcome.next (if_pos (by rw [hd, hu]; rfl))
  · refine congrArg Host.Outcome.next ?_
    simp only [hx, hk, List.head?_cons]
    exact if_neg (by simp [hd, hs, hw, he, hr])
  · refine congrArg Host.Outcome.next (if_pos ?_)
    simp only [hd, hw, hs, hdr]
    rfl
  · refine congrArg Host.Outcome.next (if_neg (by simp [hon, hc]))
  · refine congrArg Host.Outcome.next ((if_neg (by simp [hc])).trans (if_pos ?_))
    have hphase := hreg (clkPage + Reg.CLK_STATUS) 1 1 1 hclkne (modSys (fun y => { y with clocksOff := false }) s)
    have hphase' : resetPhase (modSys (fun y => { y with clocksOff := false }) s) = resetPhase s := rfl
    show (decide (resetPhase _ = 0) && !s.sys.failed) = true
    rw [hphase, hphase', hp, hf]
    rfl

end Sys2Proof.Machine
end

section
/-! PROOF. What a recovery reset keeps of a state whose tables are not in their canonical form (R414). -/

namespace Sys2Proof.Machine

/-- A state whose register table is not in rising order: an entry that no reset keeps stands before that of PCD_DIE_MAP, so that a read of
PCD_DIE_MAP stops at it and finds nothing. -/
def unsortedRegs : State := { State.reset with regs := [(2 ^ 60, 0), (dieMapAddr, 1)] }

/-- The entry is not read before the reset; PCD_DIE_MAP reads its reset value. -/
theorem reg_unsortedRegs : reg unsortedRegs dieMapAddr = 0xF00000 := by decide +kernel

/-- The reset drops the entry before it, and PCD_DIE_MAP reads what stands in the table. -/
theorem reg_resetLogic_unsortedRegs : reg (resetLogic unsortedRegs) dieMapAddr = 1 := by decide +kernel

/-- Refutes O55: the statement takes every state, and in one whose register table is not in rising order the reset drops an entry that hid
that of PCD_DIE_MAP, whose value changes. -/
theorem not_resetKeepsSurvivorsAndDiscardsObjects : ¬ Obligations.ResetKeepsSurvivorsAndDiscardsObjects := by
  intro h
  obtain ⟨_, _, _, _, _, _, _, _, _, _, _, _, _, _, _, _, _, hmap, _⟩ := h unsortedRegs
  rw [reg_resetLogic_unsortedRegs, reg_unsortedRegs] at hmap
  exact absurd hmap (by decide)

end Sys2Proof.Machine
end

section
/-! PROOF. Power, sleep and issue gating (R423, R449 to R454, R474, R478). -/

namespace Sys2Proof.Machine

/-! ## Frames -/

theorem intRise_rest (p : Nat) (s : State) : ∃ i, intRise p s = { s with intRaised := i } := by
  unfold intRise
  split
  · exact ⟨_, rfl⟩
  · exact ⟨s.intRaised, rfl⟩

theorem setPend_rest (p m : Nat) (s : State) : ∃ r i, setPend p m s = { s with regs := r, intRaised := i } := by
  unfold setPend
  dsimp only
  split
  · exact ⟨_, s.intRaised, rfl⟩
  · obtain ⟨i, h⟩ := intRise_rest p (setReg (p + hdrPend) (reg s (p + hdrPend) ||| m) s)
    rw [h]
    exact ⟨_, _, rfl⟩

theorem logDry_rest (d c n : Nat) (l : List Nat) (s : State) : ∃ r y, logDry d c n l s = { s with regs := r, dryRing := y } := ⟨_, _, rfl⟩

/-! ## Issue gates (R474, R478) -/

theorem modGate_rest (die : Nat) (f : Gate → Gate) (s : State) : ∃ r i d, modGate die f s =
    { s with regs := r, intRaised := i, sys := { s.sys with gates := tmod s.sys.gates die .open f }, dryRing := d } := by
  unfold modGate
  dsimp only
  split
  · exact ⟨s.regs, s.intRaised, s.dryRing, rfl⟩
  · obtain ⟨_, _, h⟩ := setPend_rest pwrPage 4 (logDry 15 13 0x0063
      [die, gateCause (gateOf (modSys (fun y => { y with gates := tmod y.gates die .open f }) s) die),
        gateLevel (gateOf (modSys (fun y => { y with gates := tmod y.gates die .open f }) s) die)]
      (modSys (fun y => { y with gates := tmod y.gates die .open f }) s))
    rw [h]
    exact ⟨_, _, _, rfl⟩

theorem gateOf_modGate (die d : Nat) (f : Gate → Gate) (s : State) : gateOf (modGate die f s) d = if d = die then f (gateOf s d) else gateOf s d := by
  obtain ⟨_, _, _, h⟩ := modGate_rest die f s
  rw [h]
  by_cases hd : d = die
  · subst hd; simp [gateOf]
  · simp [gateOf, hd, tgetD_tmod_ne]

/-- A register of the power page that is no header word keeps its value while gates change. -/
theorem reg_modGate {a : Nat} (die : Nat) (f : Gate → Gate) (s : State) (h1 : a ≠ pwrPage + hdrPend) (h2 : a ≠ dryPage + Reg.DRY_NEXT_SEQ) :
    reg (modGate die f s) a = reg s a := by
  unfold modGate
  dsimp only
  split
  · rfl
  · rw [reg_setPend_ne _ _ h1, reg_logDry_ne _ _ _ _ _ h2]
    rfl

/-- A gate with its cause from input power, or from low input voltage, set anew (R474). -/
def powerGated (n : Nat) (g : Gate) : Gate := { g with power := n }

def vinGated (n : Nat) (g : Gate) : Gate := { g with vin := n }

theorem powerGated_again (n : Nat) (g : Gate) : powerGated n (powerGated n g) = powerGated n g := rfl

theorem vinGated_again (n : Nat) (g : Gate) : vinGated n (vinGated n g) = vinGated n g := rfl

/-- The gates of a list of dies, changed alike. -/
def modGates (L : List Nat) (f : Gate → Gate) (s : State) : State := forL L (fun d s => modGate d f s) s

theorem modGates_rest (L : List Nat) (f : Gate → Gate) (s : State) : ∃ r i g d, modGates L f s =
    { s with regs := r, intRaised := i, sys := { s.sys with gates := g }, dryRing := d } := by
  refine forL_keeps (p := fun t => ∃ r i g d, t = { s with regs := r, intRaised := i, sys := { s.sys with gates := g }, dryRing := d }) L
    (fun die t ht => ?_) ⟨s.regs, s.intRaised, s.sys.gates, s.dryRing, rfl⟩
  obtain ⟨r, i, g, d, rfl⟩ := ht
  obtain ⟨_, _, _, h⟩ := modGate_rest die f { s with regs := r, intRaised := i, sys := { s.sys with gates := g }, dryRing := d }
  rw [h]
  exact ⟨_, _, _, _, rfl⟩

theorem reg_modGates {a : Nat} (L : List Nat) (f : Gate → Gate) (s : State) (h1 : a ≠ pwrPage + hdrPend) (h2 : a ≠ dryPage + Reg.DRY_NEXT_SEQ) :
    reg (modGates L f s) a = reg s a :=
  forL_same (g := fun t => reg t a) L (fun d t => reg_modGate d f t h1 h2) s

/-- A change that repeats to no effect is seen once, at each die of the list. -/
theorem gateOf_modGates {f : Gate → Gate} (hf : ∀ g, f (f g) = f g) (L : List Nat) (s : State) (d : Nat) :
    gateOf (modGates L f s) d = if d ∈ L then f (gateOf s d) else gateOf s d := by
  induction L generalizing s with
  | nil => simp [modGates]
  | cons x L ih =>
    have h : modGates (x :: L) f s = modGates L f (modGate x f s) := rfl
    rw [h, ih, gateOf_modGate]
    by_cases hx : d = x <;> by_cases hL : d ∈ L <;> simp [hx, hL, hf]

/-! ## Power failure (R423) -/

theorem sys_restoreRing (s : State) : ∃ f, (restoreRing s).sys = { s.sys with flushes := f } := by
  unfold restoreRing
  dsimp only
  split
  · exact ⟨_, rfl⟩
  · exact ⟨_, by simp [modSys]; rfl⟩

/-- What a power failure leaves: flash, and the commands that wait (R423). -/
theorem powerFails_keeps (mv : Nat) (s : State) : let t := powerFails mv s
    t.mem = [] ∧ t.ctxs = [] ∧ t.dryRing = [] ∧ t.sys.power = .off ∧ t.sys.banks = s.sys.banks ∧ t.sys.cfgs = s.sys.cfgs ∧
      t.sys.imageFloor = s.sys.imageFloor ∧ t.sys.revoked = s.sys.revoked ∧ t.pending = s.pending := by
  unfold powerFails
  split <;> exact ⟨rfl, rfl, rfl, rfl, rfl, rfl, rfl, rfl, rfl⟩

/-- The gate level is at least each of its causes, at most 63 (R474). -/
theorem le_gateLevel_vin (g : Gate) : min 63 g.vin ≤ gateLevel g := by
  simp only [gateLevel]
  omega

theorem liveDies_setReg {a : Nat} (v : Nat) (s : State) (h : a ≠ dieMapAddr) : liveDies (setReg a v s) = liveDies s := by
  have hd (d : Nat) : dieLive (setReg a v s) d = dieLive s d := by rw [dieLive, reg_setReg_ne v s h.symm, dieLive]
  simp only [liveDies, funext hd]

/-- A sample of a live die's heat moves its gate one step, or leaves it (R474). -/
theorem thermalGateStep_moves {die : Nat} {s : State} (hdie : die < 8) (hl : dieLive s die = true) (temp : Nat) :
    ∃ t, exec (.thermalGateStep die temp) s = .next t ∧
      t = { s with regs := t.regs, intRaised := t.intRaised, sys := t.sys, dryRing := t.dryRing } ∧ tgetD t.sys.junction die 0 = temp ∧
      (∀ d, d ≠ die → gateOf t d = gateOf s d) ∧ let x := bits (reg s (pwrPage + Reg.PWR_THROT_TEMP)) 7 0; let g := gateOf s die
      gateOf t die = { g with thermal := if x ≤ temp then min 63 (g.thermal + 1) else if temp + 2 ≤ x then g.thermal - 1 else g.thermal } := by
  have hgo (t : State) (ht : (if bits (reg s (pwrPage + Reg.PWR_THROT_TEMP)) 7 0 ≤ temp then
        modGate die (fun g => { g with thermal := min 63 (g.thermal + 1) }) (modSys (fun y => { y with junction := tset y.junction die temp }) s)
      else if temp + 2 ≤ bits (reg s (pwrPage + Reg.PWR_THROT_TEMP)) 7 0 then
        modGate die (fun g => { g with thermal := g.thermal - 1 }) (modSys (fun y => { y with junction := tset y.junction die temp }) s)
      else modSys (fun y => { y with junction := tset y.junction die temp }) s) = t) : exec (.thermalGateStep die temp) s = .next t := by
    refine congrArg Host.Outcome.next ((if_neg (by omega)).trans ((if_neg ?_).trans ht))
    have hl' : dieLive (modSys (fun y => { y with junction := tset y.junction die temp }) s) die = true := hl
    rw [hl']
    decide
  have hmoved (f : Gate → Gate) : let t := modGate die f (modSys (fun y => { y with junction := tset y.junction die temp }) s)
      t = { s with regs := t.regs, intRaised := t.intRaised, sys := t.sys, dryRing := t.dryRing } ∧ tgetD t.sys.junction die 0 = temp ∧
        (∀ d, d ≠ die → gateOf t d = gateOf s d) ∧ gateOf t die = f (gateOf s die) := by
    intro t
    obtain ⟨_, _, _, h⟩ := modGate_rest die f (modSys (fun y => { y with junction := tset y.junction die temp }) s)
    have ht : t = _ := h
    refine ⟨by rw [ht]; rfl, by rw [ht]; exact tgetD_tset_self _ _ _ _, fun d hd => ?_, ?_⟩
    · exact (gateOf_modGate die d f _).trans (if_neg hd)
    · exact (gateOf_modGate die die f _).trans (if_pos rfl)
  by_cases h1 : bits (reg s (pwrPage + Reg.PWR_THROT_TEMP)) 7 0 ≤ temp
  · obtain ⟨hrest, hj, hother, hown⟩ := hmoved (fun g => { g with thermal := min 63 (g.thermal + 1) })
    exact ⟨_, hgo _ (if_pos h1), hrest, hj, hother, by simp only [h1, if_true]; exact hown⟩
  · by_cases h2 : temp + 2 ≤ bits (reg s (pwrPage + Reg.PWR_THROT_TEMP)) 7 0
    · obtain ⟨hrest, hj, hother, hown⟩ := hmoved (fun g => { g with thermal := g.thermal - 1 })
      exact ⟨_, hgo _ ((if_neg h1).trans (if_pos h2)), hrest, hj, hother, by simp only [h1, h2, if_false, if_true]; exact hown⟩
    · exact ⟨_, hgo _ ((if_neg h1).trans (if_neg h2)), rfl, tgetD_tset_self _ _ _ _, fun _ _ => rfl, by simp only [h1, h2, if_false]; rfl⟩

/-- A sample of the input voltage shows in PWR_VIN (R478). -/
def vinSample (mv : Nat) (s : State) : State :=
  modSys (fun y => { y with vinGood := 38000 ≤ mv && mv ≤ 62000 }) (setReg (pwrPage + Reg.PWR_VIN) (mv % 2 ^ 32) s)

/-- Settles O56: each phase and each cause of a gate by its own branch. -/
theorem powerCommandsComplete : Obligations.PowerCommandsComplete := by
  intro s
  refine ⟨fun mv hp => ⟨congrArg Host.Outcome.next (if_neg hp), congrArg Host.Outcome.next (if_neg hp), powerFails_keeps mv s⟩,
    fun mv hp => ⟨_, congrArg Host.Outcome.next (if_neg (by simpa using hp)), ?_, reg_setReg_self _ _ _, rfl⟩, fun bad => ?_, fun e he => ?_,
    ⟨_, rfl, ⟨rfl, fun _ _ => rfl, fun _ => rfl⟩, rfl⟩, fun hp he => ?_, fun die hdie => ⟨fun hp hl hi => ?_, ?_, fun hp hf hl stack temp => ⟨fun ht => ?_, fun ht => ?_⟩,
    fun hl temp => ?_⟩, fun level => ⟨fun watts => ?_, fun mv => ?_⟩⟩
  · exact ⟨rfl, fun a ha => reg_setReg_ne _ _ (by simpa using ha), fun _ => rfl⟩
  · intro go
    refine ⟨fun h => ?_, fun h => ?_, fun h hr hk => ?_, fun h => ?_, fun h u hu => ?_, fun h hu => ?_, fun h hpull u hu => ?_, fun h => ?_, fun h hk => ?_⟩
    · refine congrArg Host.Outcome.next ?_
      rw [h]
      rfl
    · refine congrArg Host.Outcome.next ?_
      rw [h]
      rfl
    · refine congrArg Host.Outcome.next ?_
      rw [h]
      refine (if_neg (c := s.sys.rstLow = true) (by simp [hr])).trans ?_
      obtain ⟨f, hf⟩ := sys_restoreRing (setReg (pageAddr .pcd 15 0 0 + Reg.PCD_LANDS) (s.sys.straps % 4 * 16) (setField (clkPage + Reg.CLK_STATUS) 1 1 1 s))
      have hk2 : (restoreRing (setReg (pageAddr .pcd 15 0 0 + Reg.PCD_LANDS) (s.sys.straps % 4 * 16)
          (setField (clkPage + Reg.CLK_STATUS) 1 1 1 s))).sys.startKind ≠ 2 := by
        rw [hf]
        exact fun h2 => absurd (hk.symm.trans h2) (by decide)
      exact congrArg (go (.boot 1)) (if_neg hk2)
    · refine congrArg Host.Outcome.next ?_
      rw [h]
      rfl
    · refine congrArg Host.Outcome.next ?_
      simp only [h, hu]
      rfl
    · refine congrArg Host.Outcome.next ?_
      simp only [h, hu]
      rfl
    · refine congrArg Host.Outcome.next ?_
      simp only [h, hpull, hu]
      rfl
    · refine congrArg Host.Outcome.next ?_
      rw [h]
      rfl
    · refine congrArg Host.Outcome.next ?_
      rw [h]
      exact if_pos (Bool.or_eq_true_iff.mpr (.inl (decide_eq_true hk)))
  · intro u v shown goes
    have hexec (n : Nat) (p : PowerPhase) (w : State)
        (hw : (if e.target = 1 then shown n p else setField (clkPage + Reg.CLK_STATUS) 1 1 0 (pcdOff (shown n p))) = w)
        (hp : (if e.target = 1 then PowerPhase.dormant else .standby) = p) (hn : e.target = n) : exec .powerStateReached s = goes w := by
      refine congrArg Host.Outcome.next ?_
      subst hw hp hn
      simp only [he]
      rfl
    refine ⟨fun h => hexec 1 .dormant _ (if_pos h) (if_pos h) h, fun h => ?_⟩
    have h1 : ¬ e.target = 1 := by omega
    exact hexec 2 .standby _ (if_neg h1) (if_neg h1) h
  · refine congrArg Host.Outcome.next ((if_pos rfl).trans (if_neg ?_))
    simp [modSys, he]
  · exact ⟨_, congrArg Host.Outcome.next (if_pos (by simp [hp, hl, hi])), fieldIs_setField s le_rfl (by omega) (by simp)⟩
  · exact ⟨_, congrArg Host.Outcome.next (if_pos hdie), fieldIs_setField s le_rfl (by omega) (by simp)⟩
  · refine congrArg Host.Outcome.next ((if_neg (by simp [hp, hf, hl])).trans ((if_neg (by simp)).trans (if_neg (by omega))))
  · refine congrArg Host.Outcome.next ((if_neg (by simp [hp, hf, hl])).trans ((if_pos rfl).trans (if_neg (by omega))))
  · exact thermalGateStep_moves hdie hl temp
  · have hne : pwrPage + Reg.PWR_PIN ≠ dieMapAddr := by decide
    obtain ⟨_, _, _, _, hrest⟩ := modGates_rest (liveDies (setReg (pwrPage + Reg.PWR_PIN) (watts % 2 ^ 32) s))
      (powerGated (if reg s (pwrPage + Reg.PWR_LIMIT) < watts then min 63 level else 0)) (setReg (pwrPage + Reg.PWR_PIN) (watts % 2 ^ 32) s)
    have hlimit : reg (setReg (pwrPage + Reg.PWR_PIN) (watts % 2 ^ 32) s) (pwrPage + Reg.PWR_LIMIT) = reg s (pwrPage + Reg.PWR_LIMIT) :=
      reg_setReg_ne _ s (by decide)
    refine ⟨modGates _ _ _, congrArg Host.Outcome.next (congrArg (fun n => modGates _ (powerGated (if n < watts then min 63 level else 0)) _) hlimit),
      ?_, ?_, fun d hd => ?_⟩
    · rw [hrest]; rfl
    · rw [reg_modGates _ _ _ (by decide) (by decide), reg_setReg_self]
      omega
    · rw [liveDies_setReg _ s hne, gateOf_modGates (powerGated_again _), if_pos hd]
      rfl
  · have hne : pwrPage + Reg.PWR_VIN ≠ dieMapAddr := by decide
    obtain ⟨_, _, _, _, hrest⟩ := modGates_rest (liveDies (vinSample mv s))
      (vinGated (if mv < 40000 then min 63 (max 32 level) else 0))
      (vinSample mv s)
    have hgate (d : Nat) (hd : d ∈ liveDies s) : gateOf (modGates (liveDies (vinSample mv s))
        (vinGated (if mv < 40000 then min 63 (max 32 level) else 0))
        (vinSample mv s)) d =
        { gateOf s d with vin := if mv < 40000 then min 63 (max 32 level) else 0 } := by
      rw [show liveDies (vinSample mv s) = _ from liveDies_setReg _ s hne, gateOf_modGates (vinGated_again _), if_pos hd]
      rfl
    refine ⟨modGates (liveDies (vinSample mv s)) (vinGated (if mv < 40000 then min 63 (max 32 level) else 0)) (vinSample mv s), rfl, ?_, ?_, ?_, fun d hd => ⟨hgate d hd, fun hlow => ?_⟩⟩
    · rw [hrest]; rfl
    · rw [reg_modGates _ _ _ (by decide) (by decide)]
      refine (reg_setReg_self _ _ s).trans ?_
      omega
    · rw [hrest]
      exact (Bool.decide_and ..).symm
    · have hle := le_gateLevel_vin { gateOf s d with vin := if mv < 40000 then min 63 (max 32 level) else 0 }
      rw [hgate d hd]
      simp only [hlow, if_true] at hle ⊢
      omega

end Sys2Proof.Machine
end

section
/-! PROOF. Base-note time and its comparators (R445 to R448, R455, R456, R480 to R482). -/

namespace Sys2Proof.Machine

/-! ## Comparators (R455, R456) -/

theorem cmpOf_modCmp (k i : Nat) (f : Cmp → Cmp) (s : State) : cmpOf (modCmp k f s) i = if i = k then f (cmpOf s i) else cmpOf s i := by
  by_cases h : i = k
  · subst h; simp [cmpOf, modCmp, modSys]
  · simp [cmpOf, modCmp, modSys, h, tgetD_tmod_ne]

/-- What a TIME comparator becomes when it fires: OFF, or re-armed by whole periods to the first time after now (R455). -/
def timeFired (now : Nat) (c : Cmp) : Cmp :=
  if c.period = 0 then { c with mode := 0, fired := true } else
    { c with fired := true, value := c.value + c.period * ((now - c.value) / c.period + 1) }

/-- A TIME comparator that firmware owns and that wakes nothing fires: it re-arms, and beyond it the recorder and INT_PEND alone change. -/
theorem cmpFire_of_time {k v : Nat} {s : State} (hm : (cmpOf s k).mode = 1) (ho : (cmpOf s k).owner ≠ 2) (ha : bit (cmpOf s k).actions 0 = false) :
    ∃ r i d, cmpFire k v s = { modCmp k (fun _ => timeFired s.time (cmpOf s k)) s with regs := r, intRaised := i, dryRing := d } := by
  have hlog (b : Bool) (n : Nat) (t : State) : ∃ r d, (if b then logDry 15 13 0x0061 [k, n] t else t) = { t with regs := r, dryRing := d } := by
    split
    · exact logDry_rest _ _ _ _ t
    · exact ⟨t.regs, t.dryRing, rfl⟩
  have hpend (b : Bool) (t : State) : ∃ r i, (if b then setPend bntPage 4 t else t) = { t with regs := r, intRaised := i } := by
    split
    · exact setPend_rest _ _ t
    · exact ⟨t.regs, t.intRaised, rfl⟩
  obtain ⟨_, _, h1⟩ := hlog (bit (cmpOf s k).actions 2) (s.time % 2 ^ 32) (modCmp k (fun _ => timeFired s.time (cmpOf s k)) s)
  obtain ⟨_, _, h2⟩ := hpend (bit (cmpOf s k).actions 1) (if bit (cmpOf s k).actions 2 then
    logDry 15 13 0x0061 [k, s.time % 2 ^ 32] (modCmp k (fun _ => timeFired s.time (cmpOf s k)) s) else modCmp k (fun _ => timeFired s.time (cmpOf s k)) s)
  have hfire : cmpFire k v s = if bit (cmpOf s k).actions 1 then setPend bntPage 4 (if bit (cmpOf s k).actions 2 then
      logDry 15 13 0x0061 [k, s.time % 2 ^ 32] (modCmp k (fun _ => timeFired s.time (cmpOf s k)) s) else modCmp k (fun _ => timeFired s.time (cmpOf s k)) s)
      else if bit (cmpOf s k).actions 2 then
      logDry 15 13 0x0061 [k, s.time % 2 ^ 32] (modCmp k (fun _ => timeFired s.time (cmpOf s k)) s) else modCmp k (fun _ => timeFired s.time (cmpOf s k)) s := by
    simp only [cmpFire, timeFired, hm, ho, ha, if_false, if_true, Bool.false_eq_true]
    rfl
  rw [hfire, h2, h1]
  exact ⟨_, _, _, rfl⟩

/-- The next time of a TIME comparator is the first one of its period after now. -/
theorem timeFired_value {now : Nat} {c : Cmp} (hp : c.period ≠ 0) (hv : c.value ≤ now) : (timeFired now c).fired = true ∧
    now < (timeFired now c).value ∧ (timeFired now c).value ≤ now + c.period ∧ ((timeFired now c).value - c.value) % c.period = 0 := by
  have hdiv := Nat.div_add_mod (now - c.value) c.period
  have hmod := Nat.mod_lt (now - c.value) (Nat.pos_of_ne_zero hp)
  simp only [timeFired, hp, if_false, Nat.add_sub_cancel_left]
  refine ⟨trivial, ?_, ?_, Nat.mul_mod_right _ _⟩
  all_goals
    rw [Nat.mul_add, Nat.mul_one]
    omega

/-! ## The clock's registers (R446 to R448) -/

theorem onlySys_showServo {locked : Bool} {f : Sys → Sys} (s : State) :
    OnlySys [bntPage + Reg.BNT_RATE, bntPage + Reg.BNT_DISC] s (showServo locked (modSys f s)) := by
  refine ⟨rfl, fun a ha => ?_, fun _ => rfl⟩
  simp only [List.mem_cons, List.not_mem_nil, or_false, not_or] at ha
  exact (reg_setReg_ne _ _ ha.1).trans (reg_setReg_ne _ _ ha.2)

theorem reg_rate_showServo (locked : Bool) (s : State) : reg (showServo locked s) (bntPage + Reg.BNT_RATE) = wrap 32 (rateOf s.sys.servo) := by
  refine (reg_setReg_self _ _ _).trans (Nat.mod_eq_of_lt ((wrap_lt 32 _).trans ?_))
  decide

theorem timeLocked_showServo (locked : Bool) (s : State) : timeLocked (showServo locked s) = locked := by
  have hne : bntPage + Reg.BNT_DISC ≠ bntPage + Reg.BNT_RATE := fun h => absurd (Nat.add_left_cancel h) (by decide)
  rw [timeLocked, showServo, reg_setReg_ne _ _ hne, bit_reg_setField _ _ _ (by decide) (by decide), if_pos (by decide)]
  cases locked <;> cases s.sys.servo.slew != 0 <;> rfl

/-- Settles O57, each clause by the branch of its command. -/
theorem clockCommandsComplete : Obligations.ClockCommandsComplete := by
  intro s
  refine ⟨fun k v hk => ?_, fun v => ?_, fun v hv hcl => ?_, fun hon hok => ?_, ?_, fun hsrc => ?_, fun v hv => ?_⟩
  · intro c
    refine ⟨fun hm harm hdue ho ha => ?_, fun hm hlive => ?_⟩
    · have hsensor : ¬ (2 ≤ (cmpOf s k).mode ∧ 16 ≤ (cmpOf s k).sensor ∧ (cmpOf s k).sensor ≤ 23) := by
        have hm : (cmpOf s k).mode = 1 := hm
        omega
      have hexec : exec (.comparatorFire k v) s = .next (cmpFire k v s) := by
        refine congrArg Host.Outcome.next ?_
        simp only [if_neg hsensor]
        have hlive : sensorLive s (cmpOf s k) = true := by simp [sensorLive, show (cmpOf s k).mode = 1 from hm]
        have hmet : cmpMet s (cmpOf s k) v = true := by simpa [cmpMet, show (cmpOf s k).mode = 1 from hm] using hdue
        simp only [hlive, hmet, show (cmpOf s k).armed = true from harm, show (cmpOf s k).mode = 1 from hm, Nat.not_le.mpr hk]
        simp
      obtain ⟨_, _, _, hfire⟩ := cmpFire_of_time (v := v) hm ho ha
      have hown : cmpOf (modCmp k (fun _ => timeFired s.time (cmpOf s k)) s) k = timeFired s.time (cmpOf s k) :=
        (cmpOf_modCmp k k _ s).trans (if_pos rfl)
      refine ⟨_, hexec.trans (congrArg Host.Outcome.next hfire), rfl, fun i hi => ?_, fun hp => ?_, fun hp => ?_⟩
      · exact (cmpOf_modCmp k i _ s).trans (if_neg hi)
      · exact hown.trans (if_pos hp)
      · have hval := timeFired_value hp hdue
        rw [← hown] at hval
        exact hval
    · intro w u
      have hm0 : (cmpOf s k).mode ≠ 0 := by
        have hm : 2 ≤ (cmpOf s k).mode := hm
        omega
      have hu : (if 2 ≤ (cmpOf s k).mode ∧ 16 ≤ (cmpOf s k).sensor ∧ (cmpOf s k).sensor ≤ 23 then w else s) = u :=
        if_congr (and_iff_right hm) rfl rfl
      have hlive' : sensorLive u (cmpOf s k) = true := by
        simp only [u]
        split
        · exact hlive
        · exact hlive
      have hmet' : cmpMet u (cmpOf s k) v = cmpMet s (cmpOf s k) v := by
        simp only [u]
        split <;> rfl
      have hexec : exec (.comparatorFire k v) s = .next (if !(cmpOf s k).armed then
          (if cmpRearms (cmpOf s k) v then modCmp k (fun c => { c with armed := true }) u else u)
          else if cmpMet u (cmpOf s k) v then cmpFire k v u else u) := by
        refine congrArg Host.Outcome.next ((congrArg (fun u => if k ≥ 8 || (cmpOf s k).mode = 0 || !sensorLive u (cmpOf s k) then u
          else if !(cmpOf s k).armed then (if cmpRearms (cmpOf s k) v then modCmp k (fun c => { c with armed := true }) u else u)
          else if cmpMet u (cmpOf s k) v then cmpFire k v u else u) hu).trans (if_neg ?_))
        simp [hlive', hm0, hk]
      refine ⟨fun harm hmet => ?_, fun harm hre => ?_⟩
      · have harm : (cmpOf s k).armed = true := harm
        rw [hexec, harm, hmet', show cmpMet s (cmpOf s k) v = true from hmet]
        rfl
      · have harm : (cmpOf s k).armed = false := harm
        rw [hexec, harm, show cmpRearms (cmpOf s k) v = true from hre]
        rfl
  · intro k ho hp
    have h2 : ¬ 2 ≤ (cmpOf s k).owner := by omega
    have hne : (cmpOf s k).owner ≠ 2 := by omega
    refine ⟨_, congrArg Host.Outcome.next ((if_neg (by simp [h2, k])).trans ((if_neg ?_).trans (if_neg hne))), ⟨rfl, fun _ _ => rfl, fun _ => rfl⟩, ?_, fun i hi => ?_⟩
    · simpa using hp
    · exact (cmpOf_modCmp k k _ s).trans (if_pos rfl)
    · exact (cmpOf_modCmp k i _ s).trans (if_neg hi)
  · have hval : v &&& 0x87FFFFFF < 2 ^ 64 := Nat.lt_of_le_of_lt Nat.and_le_right (by decide)
    have hsys (b : Bool) : ∃ y, (if b then modSys (fun y => { y with ppsLast := none }) s else s) = { s with sys := y } := by
      cases b <;> exact ⟨_, rfl⟩
    obtain ⟨y, hy⟩ := hsys (bit v 31 && !ppsOn s)
    refine ⟨setReg (bntPage + Reg.BNT_PPS) (v &&& 0x87FFFFFF) { s with sys := y },
      congrArg Host.Outcome.next ((if_neg (by omega)).trans ((if_neg ?_).trans (congrArg (setReg _ _) hy))), ⟨rfl, fun a ha => ?_, fun _ => rfl⟩,
      (reg_setReg_self _ _ _).trans (Nat.mod_eq_of_lt hval)⟩
    · simpa only [Bool.and_eq_true, Bool.not_eq_true', not_and, Bool.not_eq_true, and_imp] using hcl
    · exact reg_setReg_ne _ _ (by simpa using ha)
  · refine congrArg Host.Outcome.next ((if_neg (by simp [hon])).trans ((if_neg (by simpa only [Bool.not_eq_true', Bool.not_eq_false] using hok)).trans ?_))
    exact ite_not ..
  · refine ⟨_, rfl, onlySys_showServo s, rfl, ?_⟩
    exact (reg_rate_showServo _ _).trans (congrArg (wrap 32) (by simp [rateOf, modSys]))
  · exact ⟨_, congrArg Host.Outcome.next (if_neg hsrc), onlySys_showServo s, rfl, timeLocked_showServo _ _⟩
  · intro same u w
    exact congrArg Host.Outcome.next (if_neg (by omega))

end Sys2Proof.Machine
end

section
/-! PROOF. Field test (R379 to R385). -/

namespace Sys2Proof.Machine

/-! ## Queued tests (R379) -/

theorem chkOf_modChk (die d : Nat) (f : CheckBlk → CheckBlk) (s : State) : chkOf (modChk die f s) d = if d = die then f (chkOf s d) else chkOf s d := by
  by_cases h : d = die
  · subst h; simp [chkOf, modChk]
  · simp [chkOf, modChk, h, tgetD_tmod_ne]

/-- A loom's test in the queue of its die, behind the others, unless it is queued or runs. -/
def queued (i trigger : Nat) (k : CheckBlk) : CheckBlk := if testKnown k i then k else { k with queued := k.queued ++ [⟨i, trigger⟩] }

theorem queued_rest (i trigger : Nat) (k : CheckBlk) : queued i trigger k = { k with queued := (queued i trigger k).queued } := by
  unfold queued
  split <;> rfl

theorem testKnown_queued (i trigger j : Nat) (k : CheckBlk) : testKnown (queued i trigger k) j = (j == i || testKnown k j) := by
  unfold queued
  split
  · next h =>
    by_cases hj : j = i
    · subst hj; simp [h]
    · simp [hj]
  · by_cases hj : j = i
    · subst hj; simp [testKnown]
    · have hne : (i == j) = false := beq_eq_false_iff_ne.mpr (Ne.symm hj)
      simp [testKnown, hj, hne]

/-- A list of looms queued for their tests, in order. -/
def queueTests (die : Nat) (L : List Nat) (s : State) : State := forL L (fun i s => queueTest die i 6 s) s

theorem queueTests_cons (die i : Nat) (L : List Nat) (s : State) : queueTests die (i :: L) s = queueTests die L (modChk die (queued i 6) s) := rfl

theorem queueTests_rest (die : Nat) (L : List Nat) (s : State) : ∃ k, queueTests die L s = { s with chk := k } := by
  refine forL_keeps (p := fun t => ∃ k, t = { s with chk := k }) L (fun i t ht => ?_) ⟨s.chk, rfl⟩
  obtain ⟨k, rfl⟩ := ht
  exact ⟨_, rfl⟩

theorem chkOf_queueTests_ne {die d : Nat} (L : List Nat) (s : State) (h : d ≠ die) : chkOf (queueTests die L s) d = chkOf s d :=
  forL_same (g := fun t => chkOf t d) L (fun i t => (chkOf_modChk die d (queued i 6) t).trans (if_neg h)) s

theorem chkOf_queueTests_self (die : Nat) (L : List Nat) (s : State) :
    chkOf (queueTests die L s) die = { chkOf s die with queued := (chkOf (queueTests die L s) die).queued } ∧
      ∀ j, testKnown (chkOf (queueTests die L s) die) j = (L.contains j || testKnown (chkOf s die) j) := by
  induction L generalizing s with
  | nil => exact ⟨rfl, fun j => by simp [queueTests]⟩
  | cons i L ih =>
    have hown : chkOf (modChk die (queued i 6) s) die = queued i 6 (chkOf s die) := (chkOf_modChk die die _ s).trans (if_pos rfl)
    obtain ⟨hrest, hknown⟩ := ih (modChk die (queued i 6) s)
    rw [queueTests_cons]
    refine ⟨?_, fun j => ?_⟩
    · rw [hrest, hown, queued_rest]
    · rw [hknown, hown, testKnown_queued]
      rw [List.contains_cons, Bool.or_left_comm, Bool.or_assoc]

/-! ## The start of a test (R380) -/

/-- The test of lesser loom index, or the only one. -/
def lesserTest (b : Option QueuedTest) (q : QueuedTest) : Option QueuedTest :=
  match b with
  | none => some q
  | some x => if q.loom < x.loom then some q else some x

theorem foldl_lesserTest (L : List QueuedTest) (x : QueuedTest) :
    ∃ q, L.foldl lesserTest (some x) = some q ∧ q.loom ≤ x.loom ∧ ∀ y ∈ L, q.loom ≤ y.loom := by
  induction L generalizing x with
  | nil => exact ⟨x, rfl, le_rfl, by simp⟩
  | cons y L ih =>
    obtain ⟨z, hz, hx, hy⟩ : ∃ z, lesserTest (some x) y = some z ∧ z.loom ≤ x.loom ∧ z.loom ≤ y.loom := by
      by_cases h : y.loom < x.loom
      · exact ⟨y, if_pos h, h.le, le_rfl⟩
      · exact ⟨x, if_neg h, le_rfl, Nat.not_lt.mp h⟩
    obtain ⟨q, hq, hqz, hL⟩ := ih z
    refine ⟨q, by rw [List.foldl_cons, hz, hq], hqz.trans hx, fun w hw => ?_⟩
    rcases List.mem_cons.mp hw with rfl | hw
    · exact hqz.trans hy
    · exact hL w hw

theorem leastQueued_le {L : List QueuedTest} {q : QueuedTest} (h : leastQueued L = some q) : ∀ y ∈ L, q.loom ≤ y.loom := by
  cases L with
  | nil => cases h
  | cons x L =>
    obtain ⟨q', hq', hx, hL⟩ := foldl_lesserTest L x
    obtain rfl : q' = q := Option.some.inj (hq'.symm.trans h)
    exact fun y hy => (List.mem_cons.mp hy).elim (fun h => h ▸ hx) (hL y)

theorem startLoopbacks_rest (die : Nat) (s : State) : ∃ w, startLoopbacks die s = { s with switches := w } := by
  refine forL_keeps (p := fun t => ∃ w, t = { s with switches := w }) _ (fun p t ht => ?_) ⟨s.switches, rfl⟩
  obtain ⟨w, rfl⟩ := ht
  exact ⟨_, rfl⟩

/-- The open batch of a half is issued: of the looms it changes that one alone, and there the half alone (R69). -/
theorem issueBatch_rest (loom : Nat) (east : Bool) (s : State) : ∃ r l, issueBatch loom east s = { s with regs := r, looms := l } := by
  unfold issueBatch
  split
  · exact ⟨s.regs, s.looms, rfl⟩
  · exact ⟨_, _, rfl⟩

theorem loomOf_issueBatch_ne {loom l : Nat} (east : Bool) (s : State) (h : l ≠ loom) : loomOf (issueBatch loom east s) l = loomOf s l := by
  unfold issueBatch
  split
  · rfl
  · rw [loomOf_bump]
    exact loomOf_modLoom_ne _ s h

theorem stopped_issueBatch (loom : Nat) (east : Bool) (s : State) : (loomOf (issueBatch loom east s) loom).stopped = (loomOf s loom).stopped := by
  unfold issueBatch
  split
  · rfl
  · rw [loomOf_bump, modHalf, loomOf_modLoom_self]
    split <;> rfl

/-- A queued test that begins leaves the queue and drains its loom (R380). -/
def testBegun (q : QueuedTest) (now : Nat) (k : CheckBlk) : CheckBlk :=
  { k with queued := k.queued.filter (fun x => x.loom != q.loom), running := k.running ++ [⟨q.loom, q.trigger, .drain, now, none, .pass, false⟩] }

/-- A die takes its queued loom of least index, and its issue stops (R380). -/
theorem fieldTestBegin_takes {die : Nat} {q : QueuedTest} {s : State} (hl : dieLive s die = true)
    (hq : leastQueued (chkOf s die).queued = some q) (hr : inReset s = false)
    (hroom : (chkOf s die).running.length < max 1 (bits (reg s (chkPage die + Reg.CHK_FT_CFG)) 3 0)) : ∃ t,
    exec (.fieldTestBegin die) s = .next t ∧ t = { s with regs := t.regs, looms := t.looms, chk := t.chk, switches := t.switches } ∧
      (∀ x ∈ (chkOf s die).queued, q.loom ≤ x.loom) ∧ (loomOf t (die * 32 + q.loom)).stopped = true ∧
      (∀ l, l ≠ die * 32 + q.loom → loomOf t l = loomOf s l) ∧
      let left := (chkOf s die).queued.filter (fun x => x.loom != q.loom)
      let run := (chkOf s die).running ++ [⟨q.loom, q.trigger, .drain, s.time, none, .pass, false⟩]
      chkOf t die = { chkOf s die with queued := left, running := run } := by
  let u := modChk die (testBegun q s.time) s
  have hloop : ∃ w, (if (chkOf s die).running.isEmpty then startLoopbacks die u else u) = { u with switches := w } := by
    split
    · exact startLoopbacks_rest die u
    · exact ⟨u.switches, rfl⟩
  obtain ⟨w, hw⟩ := hloop
  let v : State := modLoom (die * 32 + q.loom) (fun l => { l with stopped := true }) { u with switches := w }
  have hexec : exec (.fieldTestBegin die) s = .next (issueBatch (die * 32 + q.loom) true (issueBatch (die * 32 + q.loom) false v)) := by
    refine congrArg Host.Outcome.next ?_
    simp only [hq]
    refine (if_neg (by simp [hl, hr]; omega)).trans ?_
    exact congrArg (fun t => issueBatch (die * 32 + q.loom) true (issueBatch (die * 32 + q.loom) false
      (modLoom (die * 32 + q.loom) (fun l => { l with stopped := true }) t))) hw
  obtain ⟨_, _, h1⟩ := issueBatch_rest (die * 32 + q.loom) false v
  obtain ⟨_, _, h2⟩ := issueBatch_rest (die * 32 + q.loom) true (issueBatch (die * 32 + q.loom) false v)
  refine ⟨_, hexec, by rw [h2, h1]; rfl, leastQueued_le hq, ?_, fun l hne => ?_, ?_⟩
  · rw [stopped_issueBatch, stopped_issueBatch, loomOf_modLoom_self]
  · rw [loomOf_issueBatch_ne true _ hne, loomOf_issueBatch_ne false _ hne]
    exact loomOf_modLoom_ne _ _ hne
  · rw [h2, h1]
    exact (chkOf_modChk die die (testBegun q s.time) s).trans (if_pos rfl)

theorem find?_updateFirst_phase {L : List RunningTest} {i : Nat} {r : RunningTest} (h : L.find? (fun r => r.loom == i && r.phase == .march) = some r) :
    ((updateFirst L (fun r => r.loom == i) (fun r => { r with phase := .repair })).find? (fun r => r.loom == i && r.phase == .repair)).isSome = true := by
  induction L with
  | nil => cases h
  | cons x L ih =>
    by_cases hx : x.loom = i
    · simp [updateFirst, hx]
    · have hxb : (x.loom == i) = false := beq_eq_false_iff_ne.mpr hx
      simp only [updateFirst, hxb, List.find?_cons, Bool.false_and, Bool.false_eq_true, if_false] at h ⊢
      exact ih h

/-- A loom whose march passes and whose defect has a map takes the repair (R382). -/
theorem ftSramMarchComplete_repairs {loom v : Nat} {r : RunningTest} {s : State} (ht : testIn s loom .march = some r) (ho : r.outcome = .repaired)
    (hd : r.defect = some v) : ∃ t, exec (.ftSramMarchComplete loom true) s = .next t ∧
      t = { s with regs := t.regs, chk := t.chk, sys := t.sys } ∧ reg t (twlPage loom 1 + Reg.TWL_REPAIR) = v &&& 0x7F7FFFFF ∧
      RegsOnly [twlPage loom 1 + Reg.TWL_REPAIR, twlPage loom 1 + Reg.TWL_REPAIR_STAT, twlPage loom 1 + Reg.TWL_REPAIRS] s t ∧
      (testIn t loom .repair).isSome = true := by
  have hval : v &&& 0x7F7FFFFF < 2 ^ 64 := Nat.lt_of_le_of_lt Nat.and_le_right (by decide)
  have hexec : ∃ st, exec (.ftSramMarchComplete loom true) s = .next (modTest loom (fun r => { r with phase := .repair })
      (bumpSat (twlPage loom 1 + Reg.TWL_REPAIRS) 1 (setReg (twlPage loom 1 + Reg.TWL_REPAIR_STAT) st
        (setReg (twlPage loom 1 + Reg.TWL_REPAIR) (v &&& 0x7F7FFFFF) (recordRepair loom (v &&& 0x7F7FFFFF) s))))) := by
    let w := v &&& 0x7F7FFFFF
    refine ⟨setBits (setBits (reg s (twlPage loom 1 + Reg.TWL_REPAIR_STAT)) 8 8 0) 4 0
      (rowDelay w + 4 * colDelay (bits w 22 16) + 8 * colDelay (bits w 30 24) + 16), congrArg Host.Outcome.next ?_⟩
    simp only [ht, ho, hd]
    exact if_neg (by simp)
  obtain ⟨st, hexec⟩ := hexec
  have hne1 : twlPage loom 1 + Reg.TWL_REPAIR ≠ twlPage loom 1 + Reg.TWL_REPAIRS := fun h => absurd (Nat.add_left_cancel h) (by decide)
  have hne2 : twlPage loom 1 + Reg.TWL_REPAIR ≠ twlPage loom 1 + Reg.TWL_REPAIR_STAT := fun h => absurd (Nat.add_left_cancel h) (by decide)
  refine ⟨_, hexec, rfl, ?_, fun a ha => ?_, ?_⟩
  · refine (reg_bumpSat_ne _ _ hne1).trans ((reg_setReg_ne _ _ hne2).trans ((reg_setReg_self _ _ _).trans (Nat.mod_eq_of_lt hval)))
  · simp only [List.mem_cons, List.not_mem_nil, or_false, not_or] at ha
    obtain ⟨ha1, ha2, ha3⟩ := ha
    exact (reg_bumpSat_ne _ _ ha3).trans ((reg_setReg_ne _ _ ha2).trans (reg_setReg_ne _ _ ha1))
  · simp only [testIn, modTest, chkOf_modChk, if_true]
    exact find?_updateFirst_phase ht

/-- Settles O52, each phase by the branch of its command. -/
theorem fieldTestRunsItsPhases : Obligations.FieldTestRunsItsPhases := by
  intro s
  refine ⟨fun die hl => ⟨?_, fun mask => ?_, fun q hq hr hroom => ?_⟩, fun loom r => ⟨fun ht hw he => ?_, fun ht found map => ?_, fun ht => ⟨?_, fun ho => ?_, fun v ho hd => ?_⟩,
    fun hf verified => ?_⟩, fun pair => ⟨_, rfl, rfl, ?_, fun p hp => ?_⟩⟩
  · exact congrArg Host.Outcome.next (if_neg (by simp [hl]))
  · obtain ⟨k, hk⟩ := queueTests_rest die (maskList 32 mask) s
    obtain ⟨hrest, hknown⟩ := chkOf_queueTests_self die (maskList 32 mask) s
    refine ⟨queueTests die (maskList 32 mask) s, congrArg Host.Outcome.next (if_neg (by simp [hl])), by rw [hk],
      fun d hd => chkOf_queueTests_ne _ s hd, fun i hi => ?_, hrest⟩
    have hmask : (maskList 32 mask).contains i = bit mask i := by rw [Bool.eq_iff_iff, List.contains_iff_mem, mem_maskList hi]
    rw [hknown, hmask]
  · exact fieldTestBegin_takes hl hq hr hroom
  · refine congrArg Host.Outcome.next ?_
    simp only [ht]
    exact if_neg (by cases h : loomSplit s loom <;> simp [hw, he, h])
  · refine congrArg Host.Outcome.next ?_
    simp only [ht]
  · refine congrArg Host.Outcome.next ?_
    simp only [ht]
    rfl
  · refine congrArg Host.Outcome.next ?_
    simp only [ht]
    refine (if_neg (by simp)).trans ?_
    split
    · next h _ => exact absurd h ho
    · rfl
  · exact ftSramMarchComplete_repairs ht ho hd
  · refine congrArg Host.Outcome.next ?_
    simp only [hf] <;> rfl
  · simp [switchOf, modSwitch]
  · simp [switchOf, modSwitch, tgetD_tmod_ne _ _ _ _ hp]

end Sys2Proof.Machine
end

section
/-! PROOF. Requests of a bound partner that the cache answers or drops (R364). -/

namespace Sys2Proof.Machine

/-! ## Ports -/

theorem svcOf_modSvc (port p : Nat) (f : SvcPort → SvcPort) (s : State) : svcOf (modSvc port f s) p = if p = port then f (svcOf s p) else svcOf s p := by
  by_cases h : p = port
  · subst h; simp [svcOf, modSvc]
  · simp [svcOf, modSvc, h, tgetD_tmod_ne]

theorem countDup_rest (port : Nat) (s : State) : countDup port s = { s with regs := (countDup port s).regs } := by
  unfold countDup
  split <;> rfl

theorem reg_countDup_ne {port a : Nat} (s : State) (h : a ≠ svcPage port + Reg.SVP_ZJP_DUP) : reg (countDup port s) a = reg s a := by
  unfold countDup
  split
  · rfl
  · exact reg_bumpSat_ne _ _ h

/-! ## The cache's answers (R364) -/

/-- What a request that is not new comes to: its kept response once more, nothing, or a refusal. -/
def cachedReply (z : ZjpReq) (opcode : Nat) (u : State) : State :=
  match cacheView (cacheOf u z.port) z.reqId with
  | .again r => zjpSend z.port r (countDup z.port u)
  | .busy => countDup z.port u
  | .old => zjpPlain z.port z.reqId opcode z.ctx zsDenied 0xB4 [] (countDup z.port u)
  | .fresh => u

theorem zjpCached_of_known {z : ZjpReq} {opcode : Nat} {s : State} (k : State → State)
    (h : cacheView (cacheOf (zjpHeard z.port s) z.port) z.reqId ≠ .fresh) : zjpCached z opcode k s = cachedReply z opcode (zjpHeard z.port s) := by
  cases hv : cacheView (cacheOf (zjpHeard z.port s) z.port) z.reqId with
  | fresh => exact absurd hv h
  | _ => simp only [zjpCached, cachedReply, hv]

theorem zjp_zjpError (port : Nat) (ctx : Word) (status sub : Nat) (s : State) : (zjpError port ctx status sub s).zjp = s.zjp := by
  unfold zjpError
  dsimp only
  split
  · rfl
  · split <;> simp

/-- None of these answers changes the cache. -/
theorem zjp_cachedReply (z : ZjpReq) (opcode : Nat) (u : State) : (cachedReply z opcode u).zjp = u.zjp := by
  have hdup : (countDup z.port u).zjp = u.zjp := by rw [countDup_rest]
  unfold cachedReply
  split
  · exact hdup
  · exact hdup
  · exact (zjp_zjpError _ _ _ _ _).trans hdup
  · rfl

theorem zjpRun_of_known {z : ZjpReq} {id opcode : Nat} {s u : State} (h : ZjpHeard z id s u) (hv : cacheView (cacheOf u z.port) z.reqId ≠ .fresh)
    (body : State → ZjpResult × State) : zjpRun z opcode body s = cachedReply z opcode u := by
  obtain ⟨s1, hframe, hserved, hbound, hid, rfl⟩ := h
  simp only [zjpRun, onFrame_of_frameOn hframe, hserved, hbound, hid]
  exact (if_neg (by simp)).trans (zjpCached_of_known _ hv)

theorem zjpCtx_of_known {z : ZjpReq} {id opcode : Nat} {s u : State} (h : ZjpHeard z id s u) (hv : cacheView (cacheOf u z.port) z.reqId ≠ .fresh)
    (body : Nat → State → ZjpResult × State) : zjpCtx z opcode body s = cachedReply z opcode u := zjpRun_of_known h hv _

theorem zjpLive_of_known {z : ZjpReq} {id opcode : Nat} {s u : State} (h : ZjpHeard z id s u) (hv : cacheView (cacheOf u z.port) z.reqId ≠ .fresh)
    (body : Nat → State → ZjpResult × State) : zjpLive z opcode body s = cachedReply z opcode u := zjpCtx_of_known h hv _

/-- A command that no cache change follows is no answer that succeeds. -/
theorem answered_of_zjp {z : ZjpReq} {s t : State} (h : t.zjp = s.zjp) : answered z s t = false := by
  have hc : cacheOf t z.port = cacheOf s z.port := by rw [cacheOf, h, cacheOf]
  rw [answered, hc, Bool.and_eq_false_imp]
  intro ha
  obtain ⟨r, hr, hrz⟩ := List.any_eq_true.mp ha
  simp only [Bool.not_eq_false', List.any_eq_true]
  exact ⟨r, hr, (Bool.and_eq_true_iff.mp hrz).1⟩

/-- The requests of a bound partner: each comes to the cache's answer where it is not new (R364). -/
def MeetsCache (z : ZjpReq) (c : Instr) : Prop :=
  ∀ {s u : State} {id : Nat}, ZjpHeard z id s u → cacheView (cacheOf u z.port) z.reqId ≠ .fresh → ∃ op, exec c s = .next (cachedReply z op u)

theorem meetsCache_of_zjpRun {z : ZjpReq} {c : Instr} {op : Nat} {body : State → ZjpResult × State}
    (h : ∀ s, exec c s = .next (zjpRun z op body s)) : MeetsCache z c :=
  fun hu hv => ⟨op, (h _).trans (congrArg Host.Outcome.next (zjpRun_of_known hu hv body))⟩

theorem meetsCache_of_zjpCtx {z : ZjpReq} {c : Instr} {op : Nat} {body : Nat → State → ZjpResult × State}
    (h : ∀ s, exec c s = .next (zjpCtx z op body s)) : MeetsCache z c :=
  fun hu hv => ⟨op, (h _).trans (congrArg Host.Outcome.next (zjpCtx_of_known hu hv body))⟩

theorem meetsCache_of_zjpLive {z : ZjpReq} {c : Instr} {op : Nat} {body : Nat → State → ZjpResult × State}
    (h : ∀ s, exec c s = .next (zjpLive z op body s)) : MeetsCache z c :=
  fun hu hv => ⟨op, (h _).trans (congrArg Host.Outcome.next (zjpLive_of_known hu hv body))⟩

theorem zjp_of_heard {z : ZjpReq} {id : Nat} {s u : State} (h : ZjpHeard z id s u) : u.zjp = s.zjp := by
  obtain ⟨s1, ⟨_, _, rfl, _⟩, _, _, _, rfl⟩ := h
  rfl

theorem meetsCache_recoveryReset (z : ZjpReq) : MeetsCache z (.recoveryReset z) := fun {s u id} hu hv => by
  refine ⟨0x0107, congrArg Host.Outcome.next ?_⟩
  dsimp only
  rw [zjpRun_of_known hu hv, answered_of_zjp ((zjp_cachedReply z _ u).trans (zjp_of_heard hu))]
  rfl

theorem meetsCache_powerSet (z : ZjpReq) : MeetsCache z (.powerSet z) := fun {s u id} hu hv => by
  refine ⟨0x0108, congrArg Host.Outcome.next ?_⟩
  dsimp only
  rw [zjpRun_of_known hu hv, answered_of_zjp ((zjp_cachedReply z _ u).trans (zjp_of_heard hu))]
  rfl

theorem meetsCache_attest (z : ZjpReq) : MeetsCache z (.attest z) := fun {s u id} hu hv => by
  refine ⟨0x0060, congrArg Host.Outcome.next ?_⟩
  split
  · exact zjpRun_of_known hu hv _
  · exact zjpLive_of_known hu hv _

theorem meetsCache_ping (z : ZjpReq) : MeetsCache z (.ping z) := fun {s u id} hu hv => by
  obtain ⟨s1, hframe, hserved, hbound, hid, rfl⟩ := hu
  refine ⟨0x0004, congrArg Host.Outcome.next ((onFrame_of_frameOn hframe _).trans ?_)⟩
  simp only [hserved, hid, Bool.not_true, Bool.false_eq_true, if_false]
  exact zjpCached_of_known _ hv

theorem meetsCache_unbind (z : ZjpReq) : MeetsCache z (.unbind z) := fun {s u id} hu hv => by
  obtain ⟨s1, hframe, hserved, hbound, hid, rfl⟩ := hu
  refine ⟨0x0003, congrArg Host.Outcome.next ((onFrame_of_frameOn hframe _).trans ?_)⟩
  simp only [hserved, hbound, hid]
  exact (if_neg (by simp)).trans (zjpCached_of_known _ hv)

/-- What the hearing of the partner leaves of the state: a frame is counted, and the port remembers the time (R358, R360). -/
theorem heard_rest {z : ZjpReq} {id : Nat} {s u : State} (h : ZjpHeard z id s u) : u = { s with regs := u.regs, svc := u.svc } ∧
    svcOf u z.port = { svcOf s z.port with lastHeard := s.time } ∧ (∀ p, p ≠ z.port → svcOf u p = svcOf s p) ∧
    RegsOnly [svcPage z.port + Reg.SVP_RX_FRAMES] s u := by
  obtain ⟨s1, ⟨_, _, rfl, _⟩, _, _, _, rfl⟩ := h
  refine ⟨rfl, (svcOf_modSvc _ _ _ _).trans (if_pos rfl), fun p hp => (svcOf_modSvc _ _ _ _).trans (if_neg hp), fun a ha => ?_⟩
  exact reg_bump_ne 1 s (by simpa using ha)

/-- Settles O48: each request meets the cache, whose answers are a kept response, nothing, or a refusal. -/
theorem answeredRequestsAreNotPerformedAgain : Obligations.AnsweredRequestsAreNotPerformedAgain := by
  intro s u z id c hc hu
  have hmeets : MeetsCache z c := by
    rcases hc with ⟨_, _, rfl⟩ | ⟨_, rfl⟩ | ⟨_, rfl⟩ | ⟨_, rfl⟩ | rfl | rfl | rfl | ⟨_, _, rfl⟩ | ⟨_, rfl⟩ | ⟨_, _, rfl⟩ | ⟨_, _, _, rfl⟩ |
      ⟨_, rfl⟩ | ⟨_, _, _, rfl⟩ | ⟨_, rfl⟩ | rfl | rfl | rfl | ⟨_, rfl⟩ | ⟨_, rfl⟩ | rfl | ⟨_, rfl⟩ | rfl | rfl | rfl | rfl | rfl | rfl | rfl
    · exact meetsCache_of_zjpLive fun _ => rfl
    · exact meetsCache_of_zjpLive fun _ => rfl
    · exact meetsCache_of_zjpLive fun _ => rfl
    · exact meetsCache_of_zjpLive fun _ => rfl
    · exact meetsCache_of_zjpRun fun _ => rfl
    · exact meetsCache_of_zjpCtx fun _ => rfl
    · exact meetsCache_of_zjpCtx fun _ => rfl
    · exact meetsCache_of_zjpLive fun _ => rfl
    · exact meetsCache_of_zjpLive fun _ => rfl
    · exact meetsCache_of_zjpLive fun _ => rfl
    · exact meetsCache_of_zjpLive fun _ => rfl
    · exact meetsCache_of_zjpLive fun _ => rfl
    · exact meetsCache_of_zjpLive fun _ => rfl
    · exact meetsCache_of_zjpLive fun _ => rfl
    · exact meetsCache_of_zjpCtx fun _ => rfl
    · exact meetsCache_of_zjpRun fun _ => rfl
    · exact meetsCache_of_zjpRun fun _ => rfl
    · exact meetsCache_of_zjpRun fun _ => rfl
    · exact meetsCache_of_zjpRun fun _ => rfl
    · exact meetsCache_of_zjpRun fun _ => rfl
    · exact meetsCache_of_zjpRun fun _ => rfl
    · exact meetsCache_recoveryReset z
    · exact meetsCache_powerSet z
    · exact meetsCache_attest z
    · exact meetsCache_of_zjpLive fun _ => rfl
    · exact meetsCache_of_zjpRun fun _ => rfl
    · exact meetsCache_ping z
    · exact meetsCache_unbind z
  obtain ⟨hrest, hown, hother, hregs⟩ := heard_rest hu
  have hdup (p : Nat) : svcOf (countDup z.port u) p = svcOf u p := by rw [countDup_rest]; rfl
  refine ⟨fun r hv => ?_, fun hv => ?_, fun hv => ?_⟩
  all_goals
    obtain ⟨op, hexec⟩ := hmeets hu (by rw [hv]; nofun)
    simp only [cachedReply, hv] at hexec
  · refine ⟨_, hexec, ?_, (hdup z.port).trans hown, fun p hp => (hdup p).trans (hother p hp), fun a ha => ?_⟩
    · rw [countDup_rest, hrest]
      rfl
    · simp only [List.mem_cons, List.not_mem_nil, or_false, not_or] at ha
      obtain ⟨hrx, htx, hd⟩ := ha
      exact (reg_bump_ne 1 _ htx).trans ((reg_countDup_ne u hd).trans (hregs a (by simpa using hrx)))
  · refine ⟨_, hexec, ?_, (hdup z.port).trans hown, fun p hp => (hdup p).trans (hother p hp), fun a ha => ?_⟩
    · rw [countDup_rest, hrest]
    · simp only [List.mem_cons, List.not_mem_nil, or_false, not_or] at ha
      obtain ⟨hrx, hd⟩ := ha
      exact (reg_countDup_ne u hd).trans (hregs a (by simpa using hrx))
  · exact ⟨op, hexec⟩

end Sys2Proof.Machine
end

section
/-! PROOF. Service and management ports bind, answer and drop (R358 to R364, R368 to R371). -/

namespace Sys2Proof.Machine

/-! ## The state of a port -/

theorem setSvcState_rest (port v : Nat) (s : State) : ∃ r i, setSvcState port v s = { s with regs := r, intRaised := i } := by
  unfold setSvcState
  split
  · exact ⟨s.regs, s.intRaised, rfl⟩
  · obtain ⟨_, _, h⟩ := setPend_rest (svcPage port) 4 (setField (svcPage port + Reg.SVP_STATE) 1 0 v s)
    rw [h]
    exact ⟨_, _, rfl⟩

theorem svcOf_setSvcState (port v p : Nat) (s : State) : svcOf (setSvcState port v s) p = svcOf s p := by
  obtain ⟨_, _, h⟩ := setSvcState_rest port v s
  rw [h]
  rfl

/-- A bit of a port's STATE register, which the interrupt word does not touch. -/
theorem reg_state_setPend (port m : Nat) (s : State) :
    reg (setPend (svcPage port) m s) (svcPage port + Reg.SVP_STATE) = reg s (svcPage port + Reg.SVP_STATE) :=
  reg_setPend_ne m s fun h => absurd (Nat.add_left_cancel h) (by decide)

theorem svcState_setSvcState (port : Nat) {v : Nat} (s : State) (hv : v < 4) : svcState (setSvcState port v s) port = v := by
  unfold setSvcState
  split
  · assumption
  · rw [svcState, reg_state_setPend, bits_reg_setField _ _ _ (by decide) (by decide)]
    exact Nat.mod_eq_of_lt hv

/-- The bits of the STATE register above the state stay. -/
theorem bit_setSvcState (port v : Nat) {i : Nat} (s : State) (h1 : 1 < i) (h2 : i < 64) :
    bit (reg (setSvcState port v s) (svcPage port + Reg.SVP_STATE)) i = bit (reg s (svcPage port + Reg.SVP_STATE)) i := by
  unfold setSvcState
  split
  · rfl
  · rw [reg_state_setPend, bit_reg_setField _ _ _ (by decide) h2, if_neg (by omega)]

/-- A port that changes, and its state with it: beyond the port itself only registers and interrupts do. -/
theorem portMoved (port : Nat) {v : Nat} (f : SvcPort → SvcPort) (w : State) (hv : v < 4) : let t := setSvcState port v (modSvc port f w)
    t = { w with regs := t.regs, intRaised := t.intRaised, svc := t.svc } ∧ svcState t port = v ∧ (∀ p, p ≠ port → svcOf t p = svcOf w p) ∧
      svcOf t port = f (svcOf w port) := by
  intro t
  obtain ⟨_, _, hrest⟩ := setSvcState_rest port v (modSvc port f w)
  have ht : t = setSvcState port v (modSvc port f w) := rfl
  refine ⟨by rw [ht, hrest]; rfl, svcState_setSvcState port _ hv, fun p hp => ?_, ?_⟩
  · exact (svcOf_setSvcState port v p _).trans ((svcOf_modSvc _ _ _ _).trans (if_neg hp))
  · exact (svcOf_setSvcState port v port _).trans ((svcOf_modSvc _ _ _ _).trans (if_pos rfl))

/-! ## Binding (R359, R360) -/

/-- A new binding message, of the bound identity or another, is noted and performed (R359, R364). -/
theorem onBind_of_fresh {z : ZjpReq} {op id : Nat} {s t0 : State} (hf : FrameOn z.port z.frame s t0) (hs : zjpServed t0 z.port = true)
    (hnf : failedNow t0 = false)
    (hfresh : boundTo? t0 z.port = some id → cacheView (cacheOf (zjpHeard z.port t0) z.port) z.reqId = .fresh) (k : Bool → State → State) :
    onBind z op id k s = k (decide (boundTo? t0 z.port = some id))
      (zjpNote z.port op id (if decide (boundTo? t0 z.port = some id) then zjpHeard z.port t0 else t0)) := by
  rw [onBind, onFrame_of_frameOn hf]
  by_cases hown : boundTo? t0 z.port = some id
  · have hnf' : failedNow (zjpHeard z.port t0) = false := hnf
    simp only [hs, hown, zjpCached, hfresh hown, bindRun, hnf', Bool.not_true, Bool.false_eq_true, if_false, if_true, decide_true]
  · simp only [hs, hown, bindRun, hnf, Bool.not_true, Bool.false_eq_true, if_false, decide_false]

/-- A hello of a port, noted in place of an earlier one of the identity (R359). -/
def helloNoted (id : Nat) (h : Hello) (p : SvcPort) : SvcPort := { p with hellos := p.hellos.filter (fun h => h.identity != id) ++ [h] }

/-- A BIND_HELLO that is verified and not refused is noted, and the port is binding (R359, R360). -/
theorem helloTaken (port id : Nat) (h : Hello) (u : State) : let t := (if svcState (modSvc port (helloNoted id h) { u with draws := u.draws + 1 }) port = 1 then
      setSvcState port 2 (modSvc port (helloNoted id h) { u with draws := u.draws + 1 }) else modSvc port (helloNoted id h) { u with draws := u.draws + 1 })
    t = { u with regs := t.regs, intRaised := t.intRaised, svc := t.svc, draws := u.draws + 1 } ∧ svcOf t port = helloNoted id h (svcOf u port) ∧
      (∀ p, p ≠ port → svcOf t p = svcOf u p) ∧ svcState t port = if svcState u port = 1 then 2 else svcState u port := by
  intro t
  by_cases h1 : svcState u port = 1
  · have ht : t = setSvcState port 2 (modSvc port (helloNoted id h) { u with draws := u.draws + 1 }) := if_pos h1
    obtain ⟨hrest, hstate, hother, hown⟩ := portMoved port (v := 2) (helloNoted id h) { u with draws := u.draws + 1 } (by decide)
    rw [ht, if_pos h1]
    exact ⟨hrest, hown, hother, hstate⟩
  · have ht : t = modSvc port (helloNoted id h) { u with draws := u.draws + 1 } := if_neg h1
    rw [ht, if_neg h1]
    exact ⟨rfl, (svcOf_modSvc _ _ _ _).trans (if_pos rfl), fun p hp => (svcOf_modSvc _ _ _ _).trans (if_neg hp), rfl⟩

/-- The port that a BIND_FINISH binds (R359). -/
def boundPort (id : Nat) (keys : List Byte) (now : Nat) (p : SvcPort) : SvcPort := { p with bound := some id, keys := keys, lastHeard := now }

/-- A port that is bound shows its partner and state 3. -/
theorem boundShown (port id : Nat) (f : SvcPort → SvcPort) (w : State) :
    let t := setReg (svcPage port + Reg.SVP_PARTNER) (id % 2 ^ 64) (setSvcState port 3 (modSvc port f w))
    t = { w with regs := t.regs, intRaised := t.intRaised, svc := t.svc } ∧ svcOf t port = f (svcOf w port) ∧ (∀ p, p ≠ port → svcOf t p = svcOf w p) ∧
      svcState t port = 3 ∧ reg t (svcPage port + Reg.SVP_PARTNER) = id % 2 ^ 64 := by
  intro t
  obtain ⟨hrest, hstate, hother, hown⟩ := portMoved port (v := 3) f w (by decide)
  have hne : svcPage port + Reg.SVP_STATE ≠ svcPage port + Reg.SVP_PARTNER := fun h => absurd (Nat.add_left_cancel h) (by decide)
  refine ⟨?_, hown, hother, ?_, (reg_setReg_self _ _ _).trans (Nat.mod_mod _ _)⟩
  · simp only [t]
    rw [hrest]
    rfl
  · exact (congrArg (fun x => bits x 1 0) (reg_setReg_ne _ _ hne)).trans hstate

/-- A port whose link goes down (R369). -/
def linkFallen (now : Nat) (p : SvcPort) : SvcPort := { p with downSince := some now, hellos := [] }

/-- A port whose link comes up (R369). -/
def linkRisen (p : SvcPort) : SvcPort := { p with downSince := none }

theorem zjpCached_of_fresh {z : ZjpReq} {opcode : Nat} {s : State} (k : State → State)
    (h : cacheView (cacheOf (zjpHeard z.port s) z.port) z.reqId = .fresh) : zjpCached z opcode k s = k (zjpHeard z.port s) := by
  simp only [zjpCached, h]

/-- Settles O47, each clause by the branch of its command. -/
theorem servicePortsBindAndAnswer : Obligations.ServicePortsBindAndAnswer := by
  intro s t0 z page
  refine ⟨fun hf hs => ⟨fun hnf => ⟨fun id => ?_, fun id hid hfresh => ?_, fun hid => ?_⟩, fun d hb hid hlen hbit => ⟨fun hd => ?_, fun st sub hd => ?_⟩⟩,
    fun hd => congrArg Host.Outcome.next (if_pos hd), fun hp h0 => ?_, fun hl h0 baser => ?_, fun addr data => ?_⟩
  · intro own heard hfresh
    have hbind (op : Nat) (k : Bool → State → State) : onBind z op id k s = k own (zjpNote z.port op id heard) := onBind_of_fresh hf hs hnf (by
      intro hown
      have := hfresh hown
      simpa [heard, own, hown] using this) k
    refine ⟨?_, ?_⟩
    · intro u b hb
      subst hb
      refine ⟨fun sub hc => ?_, fun hc hr => ?_, fun hc hr => ?_⟩
      · have hc : certFails (zjpNote z.port 1 (sha512Nat b.key) heard) z.port b = some sub := hc
        refine congrArg Host.Outcome.next ((hbind 1 _).trans ?_)
        simp only [hc]
        rfl
      · have hc : certFails (zjpNote z.port 1 (sha512Nat b.key) heard) z.port b = none := hc
        refine congrArg Host.Outcome.next ((hbind 1 _).trans ?_)
        simp only [hc]
        exact if_pos hr
      · have hc : certFails (zjpNote z.port 1 (sha512Nat b.key) heard) z.port b = none := hc
        refine ⟨_, congrArg Host.Outcome.next ((hbind 1 _).trans ?_), helloTaken z.port (sha512Nat b.key) ⟨sha512Nat b.key, b.ecdh, b.nonce, u.draws⟩ u⟩
        simp only [hc]
        exact if_neg (by rw [show bindRefused (zjpNote z.port 1 (sha512Nat b.key) heard) z.port (sha512Nat b.key) = false from hr]; decide)
    · intro u v
      refine ⟨fun hn sig => ?_, fun h hh => ⟨?_, fun hr => ?_, fun hr => ?_⟩⟩
      · have hn : (svcOf (zjpNote z.port 2 id heard) z.port).hellos.find? (fun h => h.identity == id) = none := hn
        refine congrArg Host.Outcome.next ((hbind 2 _).trans ?_)
        simp only [hn]
        rfl
      all_goals have hh : (svcOf (zjpNote z.port 2 id heard) z.port).hellos.find? (fun h => h.identity == id) = some h := hh
      · refine congrArg Host.Outcome.next ((hbind 2 _).trans ?_)
        simp only [hh]
        rfl
      · refine congrArg Host.Outcome.next ((hbind 2 _).trans ?_)
        simp only [hh]
        exact if_pos hr
      · intro w
        refine ⟨_, congrArg Host.Outcome.next ((hbind 2 _).trans ?_), boundShown z.port id (boundPort id (Config.bindKeys h.draw h.ecdh h.nonce) w.time) w⟩
        simp only [hh]
        exact (if_neg (by decide)).trans (if_neg (Bool.eq_false_iff.mp hr))
  · intro u
    refine ⟨?_, fun h3 => ?_⟩
    · refine congrArg Host.Outcome.next ((onFrame_of_frameOn hf _).trans ?_)
      simp only [hs, hid, zjpCached, hfresh, hnf]
      rfl
    · refine congrArg Host.Outcome.next ((onFrame_of_frameOn hf _).trans ?_)
      have hnf' : failedNow (zjpHeard z.port t0) = false := hnf
      simp only [hs, h3, hid, zjpCached, hfresh, hnf']
      rfl
  · refine congrArg Host.Outcome.next ((onFrame_of_frameOn hf _).trans ?_)
    simp only [hs, hid, hnf]
    rfl
  · refine congrArg Host.Outcome.next ((onFrame_of_frameOn hf _).trans ?_)
    simp only [hd, ite_self]
  · intro z' u hfresh
    refine congrArg Host.Outcome.next ((onFrame_of_frameOn hf _).trans ((if_neg ?_).trans ?_))
    · simp [hs, hb, hlen, hbit, Option.isSome_iff_ne_none.mp hid]
    · simp only [hd]
      exact zjpCached_of_fresh _ hfresh
  · exact ⟨_, congrArg Host.Outcome.next (if_neg (by simp [hp, h0])), portMoved z.port (linkFallen s.time) s (by decide)⟩
  · have hrise : (!linkMayRise s z.port || decide (svcState s z.port ≠ 0)) ≠ true := by simp [hl, h0]
    have hv : (if (boundTo? s z.port).isSome then 3 else 1) < 4 := by split <;> decide
    cases hm : isMgmt z.port with
    | false =>
      obtain ⟨hrest, hstate, hother, hown⟩ := portMoved z.port linkRisen s hv
      refine ⟨_, congrArg Host.Outcome.next ((if_neg hrise).trans ?_), hrest, hstate, hother, nofun, hown⟩
      simp only [hm]
      rfl
    | true =>
      obtain ⟨hrest, hstate, hother, hown⟩ := portMoved z.port linkRisen (setField (page + Reg.MGP_STATE) 2 2 (b2n baser) s) hv
      refine ⟨_, congrArg Host.Outcome.next ((if_neg hrise).trans ?_), ?_, hstate, hother, fun _ => ?_, hown⟩
      · simp only [hm]
        rfl
      · exact hrest
      · refine (bit_setSvcState z.port _ _ (by decide) (by decide)).trans ((bit_reg_setField (page + Reg.MGP_STATE) _ s (by decide) (by decide)).trans ?_)
        cases baser <;> rfl
  · intro f
    refine ⟨fun hf => ⟨fun ha => ⟨?_, ?_⟩, fun ha => ⟨?_, ?_⟩⟩, fun hp h0 => ?_⟩
    · exact congrArg Host.Outcome.next ((onFrame_of_frameOn hf _).trans (if_pos ha))
    · exact congrArg Host.Outcome.next ((onFrame_of_frameOn hf _).trans (if_pos ha))
    · exact congrArg Host.Outcome.next ((onFrame_of_frameOn hf _).trans (if_neg (Bool.eq_false_iff.mp ha)))
    · exact congrArg Host.Outcome.next ((onFrame_of_frameOn hf _).trans (if_neg (Bool.eq_false_iff.mp ha)))
    · intro rx
      have hup : ¬ (!portExists s z.port || decide (svcState s z.port = 0)) = true := by simp [hp, h0]
      refine ⟨fun hbad c hc => ?_, congrArg Host.Outcome.next (if_neg hup), fun h3 hm => ?_⟩
      · have hdrop (k : State → State) : onFrame z.port f k s = countDrop z.port 1 rx := (if_neg hup).trans (if_neg (Bool.eq_false_iff.mp hbad))
        simp only [List.mem_cons, List.not_mem_nil, or_false] at hc
        rcases hc with rfl | rfl | rfl | rfl
        · exact congrArg Host.Outcome.next (hdrop _)
        · exact congrArg Host.Outcome.next (hdrop _)
        · exact congrArg Host.Outcome.next (hdrop _)
        · exact congrArg Host.Outcome.next (hdrop _)
      · refine congrArg Host.Outcome.next ((if_neg hup).trans ((if_neg (by decide)).trans (if_neg ?_)))
        rw [show svcState _ z.port = 3 from h3, hm]
        decide

end Sys2Proof.Machine
end

section
/-! PROOF. Control and memory instructions (R54 to R57, R93 to R100, R112). -/

namespace Sys2Proof.Machine

/-! ## Branches through a register (R99) -/

theorem indirect_of_aligned {e : Env} (s : State) (h : ∀ th ∈ lanes e, src e 0 2 th % 8 = 0) :
    indirect e s = modSkein e.loom e.skein (branchTo e ((lanes e).map (fun th => (th, src e 0 2 th)))) (operandRead e s) := by
  have hnone : ((lanes e).map (fun t => (t, src e 0 2 t))).find? (fun p => p.2 % 8 != 0) = none := by
    simpa using h
  simp only [indirect, hnone]

/-- Settles O19: an instruction that issues is performed by its own body. -/
theorem controlInstructionsComplete : Obligations.ControlInstructionsComplete := by
  intro w s e c back byA
  have hgo {row : Nat} (h : Issues w row s e) (body : Env → State → State) : issueRow w row (fun _ => true) body s = body e c :=
    issueRow_of_issues h _ rfl body
  exact ⟨fun h => congrArg Host.Outcome.next (hgo h _), fun h => congrArg Host.Outcome.next (hgo h _),
    fun h ha => congrArg Host.Outcome.next ((hgo h _).trans (indirect_of_aligned c ha)),
    fun h ha => congrArg Host.Outcome.next ((hgo h _).trans (indirect_of_aligned c ha)), fun h => congrArg Host.Outcome.next (hgo h _),
    fun h => congrArg Host.Outcome.next (hgo h _), fun h => congrArg Host.Outcome.next (hgo h _)⟩

/-! ## Failing accesses (R112) -/

theorem memMay_of_fails {kind : Kind} {e : Env} {f : Nat × Nat × Nat} (h : firstFail ((lanes e).map (fun t => (t, locate e kind t))) = some f) :
    memMay kind e = true := by
  simp only [memMay, h, Option.isSome_some, if_true]

/-- Settles O17: each memory instruction looks for the first failing thread before it does anything. -/
theorem failingAccessFaultsTheSkein : Obligations.FailingAccessFaultsTheSkein := by
  intro w s e th c u
  refine ⟨fun h hf => ?_, fun h hf => ?_, fun h hf => ?_, fun h hf => ?_⟩
  all_goals
    refine congrArg Host.Outcome.next ((issueRow_of_issues h _ (memMay_of_fails hf) _).trans ?_)
    simp only [hf]

/-- Settles O16, by the branch of each body in which nothing fails, or a recorded failure is raised. -/
theorem memoryInstructionsComplete : Obligations.MemoryInstructionsComplete := by
  intro w s e x at' locs c lcv read write atomic reds
  refine ⟨fun h hm hf hp => ?_, fun h hm hf hr => ?_, fun h hm hf hr hp => ?_, fun h hm hf hr => ?_, fun f hr => ?_, fun hl => ⟨fun h hs => ?_, fun h hs => ?_, fun h => ?_⟩,
    fun hl => ⟨fun h => ?_, fun h => ?_⟩⟩
  · refine congrArg Host.Outcome.next ((issueRow_of_issues h _ hm _).trans ?_)
    have hp : poisonedThread (touchLines e (((lanes e).map (fun t => (t, locate e .read t))).map (fun p => p.2)) false
        (nextLcvId (countIssue e s) e.loom e.skein) (countIssue e s)).2 ((lanes e).map (fun t => (t, locate e .read t))) = none := hp
    simp only [show firstFail ((lanes e).map (fun t => (t, locate e .read t))) = none from hf, hp]
    rfl
  · refine congrArg Host.Outcome.next ((issueRow_of_issues h _ hm _).trans ?_)
    simp only [show firstFail ((lanes e).map (fun t => (t, locate e .write t))) = none from hf, hr]
    rfl
  · refine congrArg Host.Outcome.next ((issueRow_of_issues h _ hm _).trans ?_)
    have hp : poisonedThread (touchLines e (((lanes e).map (fun t => (t, locate e .atomic t))).map (fun p => p.2)) true
        (nextLcvId (countIssue e s) e.loom e.skein) (releaseEarlier e (countIssue e s))).2 ((lanes e).map (fun t => (t, locate e .atomic t))) = none := hp
    simp only [show firstFail ((lanes e).map (fun t => (t, locate e .atomic t))) = none from hf, hr, hp]
    rfl
  · refine congrArg Host.Outcome.next ((issueRow_of_issues h _ hm _).trans ?_)
    simp only [show firstFail ((lanes e).map (fun t => (t, locate e .atomic t))) = none from hf, hr]
    split
    · rfl
    · rfl
  · intro raised
    refine ⟨fun h hm hf => ?_, fun h hm hf => ?_, fun h hm hf => ?_⟩
    · refine congrArg Host.Outcome.next ((issueRow_of_issues h _ hm _).trans ?_)
      simp only [show firstFail ((lanes e).map (fun t => (t, locate e .write t))) = none from hf, hr]
      rfl
    all_goals
      refine congrArg Host.Outcome.next ((issueRow_of_issues h _ hm _).trans ?_)
      simp only [show firstFail ((lanes e).map (fun t => (t, locate e .atomic t))) = none from hf, hr]
      rfl
  · refine congrArg Host.Outcome.next ((issueRow_of_issues h _ rfl _).trans ((if_neg (by simpa using hl)).trans ?_))
    have hs : mScope e.ins.w = 5 := hs
    simp only [hs, decide_true, Bool.true_or, if_true]
    rfl
  · refine congrArg Host.Outcome.next ((issueRow_of_issues h _ rfl _).trans ((if_neg (by simpa using hl)).trans ?_))
    have hs : ¬ mScope e.ins.w = 5 := hs
    simp only [hs, decide_false, Bool.false_or, if_false]
    rfl
  · exact congrArg Host.Outcome.next ((issueRow_of_issues h _ rfl _).trans (if_neg (by simpa using hl)))
  · exact congrArg Host.Outcome.next ((issueRow_of_issues h _ rfl _).trans (if_pos (by simpa using hl)))
  · exact congrArg Host.Outcome.next ((issueRow_of_issues h _ rfl _).trans (if_pos (by simpa using hl)))

end Sys2Proof.Machine
end

section
/-! PROOF. Tile, queue, draw and verify instructions, the sequencer's events, preemption and the split (R52 to R69, R107 to R111). -/

namespace Sys2Proof.Machine

/-! ## TILE instructions (R107, R175) -/

/-- Settles O22: what a TILE instruction answers turns on the ticket's order and on what is pending. -/
theorem tileInstructionsComplete : Obligations.TileInstructionsComplete := by
  intro w s e c issued tk east taken
  have hgo {row : Nat} (h : Issues w row s e) (body : Env → State → State) : issueRow w row (fun _ => true) body s = body e c :=
    issueRow_of_issues h _ rfl body
  refine ⟨fun h a ha => congrArg Host.Outcome.next ((hgo h _).trans ?_), fun h hle hp => ?_, fun h hle hp => ?_, fun h hle hp => ?_, fun h hle hp => ?_,
    fun hlt => ⟨fun h => ?_, fun h => ?_⟩⟩
  · simp only [ha]
    rfl
  · exact congrArg Host.Outcome.next ((hgo h _).trans ((if_neg (Nat.not_lt.mpr hle)).trans (if_pos hp)))
  · exact congrArg Host.Outcome.next ((hgo h _).trans ((if_neg (Nat.not_lt.mpr hle)).trans (if_neg (ne_true_of_eq_false hp))))
  · exact congrArg Host.Outcome.next ((hgo h _).trans ((if_neg (Nat.not_lt.mpr hle)).trans (if_pos hp)))
  · exact congrArg Host.Outcome.next ((hgo h _).trans ((if_neg (Nat.not_lt.mpr hle)).trans (if_neg (ne_true_of_eq_false hp))))
  · exact congrArg Host.Outcome.next ((hgo h _).trans (if_pos hlt))
  · exact congrArg Host.Outcome.next ((hgo h _).trans (if_pos hlt))

/-! ## QUE instructions (R108, R276, R284, R290) -/

section
variable {e : Env} {wait : Bool} {s s1 : State} {a : Nat}

/-- What QUE.POP and QUE.WAIT do once the handle is judged. -/
theorem queTake_of_refused {st : Nat} (h : queHandle e (BitVec.ofNat 64 (src e 1 2 (lowThread e))) (fun t => t == .msg) s = (st, s1)) (hr : st ≠ zsOk) :
    queTake e wait s = uniStart e .ready false 1 st s1 := by
  simp only [queTake, h, if_pos hr]

theorem queTake_of_empty (h : queHandle e (BitVec.ofNat 64 (src e 1 2 (lowThread e))) (fun t => t == .msg) s = (zsOk, s1))
    (ha : scratch64 e (src e 0 1 (lowThread e)) = .ok a)
    (he : (queueOf s1 (BitVec.ofNat 64 (src e 1 2 (lowThread e)))).all (fun q => occupancy q == 0) = true) :
    queTake e wait s = if wait then uniStart e (.queue (BitVec.ofNat 64 (src e 1 2 (lowThread e))) a) true 1 zsOk s1
      else uniStart e .ready false 1 zsQueueEmpty s1 := by
  simp only [queTake, h, ne_eq, not_true_eq_false, if_false, ha, if_pos he]

theorem queTake_of_message (h : queHandle e (BitVec.ofNat 64 (src e 1 2 (lowThread e))) (fun t => t == .msg) s = (zsOk, s1))
    (ha : scratch64 e (src e 0 1 (lowThread e)) = .ok a)
    (he : (queueOf s1 (BitVec.ofNat 64 (src e 1 2 (lowThread e)))).all (fun q => occupancy q == 0) = false)
    (hg : (popInto e.loom e.k.ctx (BitVec.ofNat 64 (src e 1 2 (lowThread e))) a s1).1 = .ok ()) :
    queTake e wait s = uniStart e .ready false 1 zsOk (popInto e.loom e.k.ctx (BitVec.ofNat 64 (src e 1 2 (lowThread e))) a s1).2 := by
  simp only [queTake, h, ne_eq, not_true_eq_false, if_false, ha, if_neg (ne_true_of_eq_false he)]
  split
  next hp => simp [hp] at hg
  next hp => simp [hp]

end

/-- Settles O23: each instruction follows the judging of its handle, then what stands in the queue. -/
theorem queueInstructionsComplete : Obligations.QueueInstructionsComplete := by
  intro w s e c c' h off x push take here away
  have hgo {row : Nat} (h : Issues w row s e) (body : Env → State → State) : issueRow w row (fun _ => true) body s = body e c :=
    issueRow_of_issues h _ rfl body
  have hpush {st : Nat} (hj : push.1 = st) : queHandle e (BitVec.ofNat 64 (src e 1 2 (lowThread e))) (fun t => t != .msg) (settleSkein (e.loom / 32) e.loom e.skein c) = (st, push.2) := Prod.ext hj rfl
  have htake {st : Nat} (hj : take.1 = st) : queHandle e (BitVec.ofNat 64 (src e 1 2 (lowThread e))) (fun t => t == .msg) c = (st, take.2) := Prod.ext hj rfl
  have hhere {st : Nat} (hj : here.1 = st) : presentHandle (ctxPage (e.loom / 32)) e.k.ctx (BitVec.ofNat 64 (src e 1 2 (lowThread e))) 9 (settleSkein (e.loom / 32) e.loom e.skein c) = (st, here.2) := Prod.ext hj rfl
  have haway {st : Nat} (hj : away.1 = st) : presentHandle (rvlPage (e.loom / 32)) e.k.ctx (BitVec.ofNat 64 (src e 1 2 (lowThread e))) 4 (settleSkein (e.loom / 32) e.loom e.skein c) = (st, away.2) := Prod.ext hj rfl
  refine ⟨fun a ha => ?_, fun hi hr => ?_, fun hr => ⟨fun hi => ?_, fun hi => ?_⟩, fun hi => ⟨fun ht hr => ?_, fun ht hr => ?_⟩⟩
  · have ha : scratch64 e (src e 0 1 (lowThread e)) = .ok a := ha
    refine ⟨fun hi hok q hq => ?_, fun hok he => ⟨fun hi => ?_, fun hi => ?_⟩, fun hok he => ?_, fun hi ht hok => ?_, fun hi ht hok => ?_⟩
    · have hq : queueOf push.2 (BitVec.ofNat 64 (src e 1 2 (lowThread e))) = some q := hq
      refine ⟨fun hfull => ?_, ?_⟩
      · refine congrArg Host.Outcome.next ((hgo hi _).trans ?_)
        simp only [hpush hok, ne_eq, not_true_eq_false, if_false, ha, hq, ge_iff_le, if_pos hfull]
      · intro hroom wr hw
        have hw : vWrite (e.loom / 32) e.k.ctx (entryVa q q.prod) (clean (scratchGet push.2 e.loom a 64)) push.2 = (none, wr.2) := Prod.ext hw rfl
        refine congrArg Host.Outcome.next ((hgo hi _).trans ?_)
        simp only [hpush hok, ne_eq, not_true_eq_false, if_false, ha, hq, ge_iff_le, if_neg (Nat.not_le.mpr hroom), hw]
        rfl
    · exact congrArg Host.Outcome.next ((hgo hi _).trans (queTake_of_empty (htake hok) ha he))
    · exact congrArg Host.Outcome.next ((hgo hi _).trans (queTake_of_empty (htake hok) ha he))
    · intro got hg
      exact ⟨fun hi => congrArg Host.Outcome.next ((hgo hi _).trans (queTake_of_message (htake hok) ha he hg)),
        fun hi => congrArg Host.Outcome.next ((hgo hi _).trans (queTake_of_message (htake hok) ha he hg))⟩
    · have ht : ¬ hType (BitVec.ofNat 64 (src e 1 2 (lowThread e))) = 4 := ht
      refine ⟨fun hq => ?_, ?_⟩
      · refine congrArg Host.Outcome.next ((hgo hi _).trans ?_)
        have hq : (endpointOf here.2 (BitVec.ofNat 64 (src e 1 2 (lowThread e)))).all (fun ep => ep.queue == 0) = true := hq
        simp only [if_neg ht, hhere hok, ne_eq, not_true_eq_false, if_false, ha, if_pos hq]
      · intro hq j
        refine congrArg Host.Outcome.next ((hgo hi _).trans ?_)
        have hq : ¬ (endpointOf here.2 (BitVec.ofNat 64 (src e 1 2 (lowThread e)))).all (fun ep => ep.queue == 0) = true := ne_true_of_eq_false hq
        simp only [if_neg ht, hhere hok, ne_eq, not_true_eq_false, if_false, ha, if_neg hq]
        rfl
    · have ht : hType (BitVec.ofNat 64 (src e 1 2 (lowThread e))) = 4 := ht
      refine congrArg Host.Outcome.next ((hgo hi _).trans ?_)
      simp only [if_pos ht, haway hok, ne_eq, not_true_eq_false, if_false, ha]
      rfl
  · refine congrArg Host.Outcome.next ((hgo hi _).trans ?_)
    simp only [hpush rfl, if_pos hr]
  · exact congrArg Host.Outcome.next ((hgo hi _).trans (queTake_of_refused (htake rfl) hr))
  · exact congrArg Host.Outcome.next ((hgo hi _).trans (queTake_of_refused (htake rfl) hr))
  · have ht : ¬ hType (BitVec.ofNat 64 (src e 1 2 (lowThread e))) = 4 := ht
    refine congrArg Host.Outcome.next ((hgo hi _).trans ?_)
    simp only [if_neg ht, hhere rfl, if_pos hr]
  · have ht : hType (BitVec.ofNat 64 (src e 1 2 (lowThread e))) = 4 := ht
    refine congrArg Host.Outcome.next ((hgo hi _).trans ?_)
    simp only [if_pos ht, haway rfl, if_pos hr]

/-! ## RNG, CHK.VER and unassigned opcodes (R109 to R112) -/

theorem withStream_of_judged {e : Env} {s s1 : State} {r : RngStream} (body : Word → RngStream → State → State)
    (hj : presentHandle (rngPage (e.loom / 32)) e.k.ctx (BitVec.ofNat 64 (src e 0 2 ((lanes e).headD (lowThread e)))) 7 s = (zsOk, s1))
    (hr : streamAt s1 (BitVec.ofNat 64 (src e 0 2 ((lanes e).headD (lowThread e)))) = some r) :
    withStream e body s = body (BitVec.ofNat 64 (src e 0 2 ((lanes e).headD (lowThread e)))) r s1 := by
  simp only [withStream, hj, ne_eq, not_true_eq_false, if_false, hr]

/-- A word whose opcode has no row breaks the encoding rules before anything else is looked at (R112). -/
theorem preludeFault_of_no_row {e : Env} (h : rowOf e.ins.w = 0) : preludeFault e = some (zsIllegal, 0x01) := by
  have hbad : (formOf e.ins.w).bad = true := by simp only [formOf, if_pos h]; rfl
  have henc : encodingFault e.ins.w = some 0x01 := by simp only [encodingFault, hbad, Bool.true_or, if_true]
  simp only [preludeFault, henc]

/-- Settles O24: the draws follow the judging of the stream's handle, and CHK.VER the block that the address lies in. -/
theorem drawAndVerifyInstructionsComplete : Obligations.DrawAndVerifyInstructionsComplete := by
  intro w s e c low h judged s1
  have hgo {row : Nat} (h : Issues w row s e) (body : Env → State → State) : issueRow w row (fun _ => true) body s = body e c :=
    issueRow_of_issues h _ rfl body
  refine ⟨fun hok r hr => ?_, fun hi pa mt ck a ht hmt hd => ?_, fun hf hrow => ?_⟩
  · have hstream (body : Word → RngStream → State → State) : withStream e body c = body h r s1 := withStream_of_judged body (Prod.ext hok rfl) hr
    refine ⟨fun hi hl hin => ?_, fun hi hin => ?_, fun hi => ?_, fun hi hout => ?_⟩
    · refine congrArg Host.Outcome.next ((hgo hi _).trans ((if_neg (by simpa using hl)).trans ((hstream _).trans ?_)))
      have hnone : (lanes e).find? (fun t => decide (r.base + src e 1 1 t > 0xFFFFFFFF)) = none := by
        simpa using hin
      simp only [hnone]
    · exact congrArg Host.Outcome.next ((hgo hi _).trans ((hstream _).trans (if_neg (Nat.not_lt.mpr hin))))
    · exact congrArg Host.Outcome.next ((hgo hi _).trans (hstream _))
    · exact congrArg Host.Outcome.next ((hgo hi _).trans ((hstream _).trans (if_pos hout)))
  · have ht : translate c e.k.ctx (src e 0 2 (lowThread e)) .read = .ok pa mt ck := ht
    refine ⟨?_, fun hc => ?_⟩
    · intro hc
      dsimp only
      refine congrArg Host.Outcome.next ((hgo hi _).trans ?_)
      simp only [ht, if_pos hmt, hd, hc, Bool.not_true, Bool.false_eq_true, if_false]
      rcases verifyBlock (e.loom / 32) (loomPage e.loom) e.k.ctx a c with ⟨ok, t⟩
      cases ok <;> rfl
    · refine congrArg Host.Outcome.next ((hgo hi _).trans ?_)
      simp only [ht, if_pos hmt, hd, hc, Bool.not_false, if_true]
  · simp only [exec, execIllegalInstruction, issueRow, hf, hrow, preludeFault_of_no_row hrow]
    rfl

/-! ## The sequencer's events (R52 to R64) -/

/-- Settles O25: each event has the effect of the branch that its wait selects. -/
theorem loomEventsComplete : Obligations.LoomEventsComplete := by
  refine ⟨fun s loom skein k hk => ⟨fun id l hl => ⟨fun hw => ?_, fun ts hw hf => ⟨fun hp => ?_, fun f hp => ?_⟩, fun t hw hp => ?_, fun h a hw q hq ho => ?_⟩,
    fun addr hj => ?_, fun thread => ?_⟩, fun s loom east k r g gs b pc hst hd hg hw => ?_⟩
  · simp only [exec, execLcvCompletion, hk, hl, hw]
  · simp only [exec, execLcvCompletion, hk, hl, hw, hf, Bool.false_eq_true, if_false, hp]
  · simp only [exec, execLcvCompletion, hk, hl, hw, hf, Bool.false_eq_true, if_false, hp]
  · simp only [exec, execLcvCompletion, hk, hl, hw, hp, Bool.false_eq_true, if_false]
  · intro r
    refine ⟨fun hr => ?_, fun c u va hr => ?_⟩
    · have hr : popInto loom k.ctx h a s = (.ok (), r.2) := Prod.ext hr rfl
      simp only [exec, execLcvCompletion, hk, hl, hw, hq, if_neg ho, hr]
    · have hr : popInto loom k.ctx h a s = (.error (c, u, va), r.2) := Prod.ext hr rfl
      simp only [exec, execLcvCompletion, hk, hl, hw, hq, if_neg ho, hr]
  · simp only [exec, execJoinRelease, hk]
    exact congrArg Host.Outcome.next (if_pos hj)
  · refine congrArg (fun f => Host.Outcome.next (modSkein loom skein (fun k => { k with groups := k.groups.map f }) s)) (funext fun g => ?_)
    rcases hw : g.wait with _ | _ | _ | _ | _ <;> simp
  · intro bars
    simp only [exec, execBarrierStall, hst, Bool.not_true, Bool.false_eq_true, if_false, hd, hg, hw, barrierSplit, gt_iff_lt]
    rfl

/-! ## Preemption and the split (R66, R69, R210) -/

theorem bit_clearTenant (page : Nat) {a : Nat} {s : State} (h : a = page + hdrOwner ∨ bit (reg s a) 31 = false) :
    bit (reg (clearTenant page s) a) 31 = false := by
  by_cases ha : a = page + hdrOwner
  · subst ha
    simp only [clearTenant, bit_reg_setField _ 0 s (Nat.le_refl 31) (by decide : 31 < 64), Nat.le_refl, and_self, if_true]
    rfl
  · rw [clearTenant, reg_setField_ne _ _ _ _ ha]
    exact h.resolve_left ha

theorem reg_clearTenant_ne {page a : Nat} (s : State) (h : a ≠ page + hdrOwner) : reg (clearTenant page s) a = reg s a :=
  reg_setField_ne _ _ _ _ h

theorem clearTenant_rest (page : Nat) (s : State) : ∃ r, clearTenant page s = { s with regs := r } := ⟨_, rfl⟩

/-- The split itself, before a tenant loses the pages (R210). -/
def splitWritten (loom : Nat) (v : Bool) (s : State) : State :=
  setField (loomPage loom + Reg.LOOM_CFG) 0 0 (b2n v) (modLoom loom dropWeights s)

theorem loomSplit_splitWritten (loom : Nat) (v : Bool) (s : State) : loomSplit (splitWritten loom v s) loom = v := by
  rw [loomSplit, splitWritten, bit_reg_setField _ _ _ (Nat.le_refl 0) (by decide)]
  cases v <;> rfl

theorem execLoomCfgSplit_of_may {s : State} {loom : Nat} (hl : pageLocked s (loomPage loom) = false) (hm : maySplit s loom = true) (v : Bool) :
    exec (.loomCfgSplit loom v) s = .next (if v then clearTenant (acsPage loom) (clearTenant (twlPage loom 0) (splitWritten loom v s)) else splitWritten loom v s) :=
  congrArg Host.Outcome.next ((if_neg (ne_true_of_eq_false hl)).trans (if_neg (by simp [hm])))

/-- Settles O26: each event is one branch of its command; the split's write touches three registers and the loom's weights. -/
theorem preemptionAndSplitComplete : Obligations.PreemptionAndSplitComplete := by
  intro s loom p
  refine ⟨rfl, fun hs => ?_, fun hs => ?_, fun hst hd => ?_, fun hst hd => ?_, fun hl v => ?_, fun hl hm v => ?_, fun hl hm v => ?_⟩
  · exact congrArg Host.Outcome.next (if_neg (by simp [hs]))
  · exact congrArg Host.Outcome.next (if_pos (by simp [hs]))
  · exact congrArg Host.Outcome.next (if_neg (by simp [hst, hd]))
  · exact congrArg Host.Outcome.next (if_neg (by simp [hst, hd]))
  · exact congrArg Host.Outcome.next (if_pos hl)
  · have hweights (east : Bool) : (halfOf (splitWritten loom v s) loom east).weights = none := by
      have hl : loomOf (splitWritten loom v s) loom = dropWeights (loomOf s loom) := (loomOf_congr rfl loom).trans (loomOf_modLoom_self loom _ s)
      cases east <;> simp [halfOf, hl, dropWeights]
    have hcfg {page : Nat} (hp : page % 4096 = 0) : loomPage loom + Reg.LOOM_CFG ≠ page + hdrOwner := by
      have := pageAddr_mod .loom (loom / 32) (loom % 32) 0
      simp only [loomPage, Reg.LOOM_CFG, hdrOwner]
      omega
    have hrest {a : Nat} (ha : a ≠ p + Reg.LOOM_CFG) : reg (splitWritten loom v s) a = reg s a :=
      (reg_setField_ne _ _ _ _ ha).trans (reg_congr rfl a)
    cases v with
    | false =>
      refine ⟨_, execLoomCfgSplit_of_may hl hm false, rfl, loomSplit_splitWritten loom false s, hweights false, hweights true, fun h => absurd h (by decide), fun a ha _ _ => hrest ha⟩
    | true =>
      have htwl : bit (reg (clearTenant (twlPage loom 0) (splitWritten loom true s)) (twlPage loom 0 + hdrOwner)) 31 = false := bit_clearTenant _ (.inl rfl)
      obtain ⟨r, hr⟩ := clearTenant_rest (twlPage loom 0) (splitWritten loom true s)
      obtain ⟨r', hr'⟩ := clearTenant_rest (acsPage loom) (clearTenant (twlPage loom 0) (splitWritten loom true s))
      have hsplit : clearTenant (acsPage loom) (clearTenant (twlPage loom 0) (splitWritten loom true s)) = { splitWritten loom true s with regs := r' } := by
        rw [hr', hr]
      refine ⟨clearTenant (acsPage loom) (clearTenant (twlPage loom 0) (splitWritten loom true s)), execLoomCfgSplit_of_may hl hm true, ?_, ?_,
        ?_, ?_, fun _ => ⟨bit_clearTenant _ (.inl rfl), bit_clearTenant _ (.inr htwl)⟩, fun a ha hacs htwl => ?_⟩
      · rw [hsplit]
        rfl
      · have hreg : reg (clearTenant (acsPage loom) (clearTenant (twlPage loom 0) (splitWritten loom true s))) (loomPage loom + Reg.LOOM_CFG)
            = reg (splitWritten loom true s) (loomPage loom + Reg.LOOM_CFG) :=
          (reg_clearTenant_ne _ (hcfg (pageAddr_mod _ _ _ _))).trans (reg_clearTenant_ne _ (hcfg (pageAddr_mod _ _ _ _)))
        exact (congrArg (bit · 0) hreg).trans (loomSplit_splitWritten loom true s)
      · rw [hsplit]
        exact hweights false
      · rw [hsplit]
        exact hweights true
      · exact (reg_clearTenant_ne _ hacs).trans ((reg_clearTenant_ne _ htwl).trans (hrest ha))
  · exact congrArg Host.Outcome.next ((if_neg (ne_true_of_eq_false hl)).trans (if_pos (by simp [hm])))

end Sys2Proof.Machine
end

section
/-! PROOF. Array queue, store port, repair and the firmware port of an array (R160 to R225). -/

namespace Sys2Proof.Machine

/-! ## The array queue (R160, R168, R169, R173 to R182) -/

/-- A failed read that met no poison leaves the state as it is (R256). -/
theorem tileWalkPoison_of_ne {code : Nat} (h : code ≠ zsPoison) (loom : Nat) (east : Bool) (ctx : Nat) (reqs : List TileReq) (s : State) :
    tileWalkPoison loom east ctx reqs code s = s := if_pos h

/-- Settles O27: each event is the branch that its guard selects. -/
theorem arrayQueueRunsItsOps : Obligations.ArrayQueueRunsItsOps := by
  intro s loom east h
  refine ⟨fun pick x hx => ?_, fun hb => ?_, fun i o hn => ?_, fun o rest ho => ?_⟩
  · intro d fail r s1 hstart htops hserv hpage hq
    have hq : queueUsed (halfOf s loom east) < queueSize s loom := hq
    refine ⟨fun c u hf => ?_, fun hf hr => ?_, fun hf hr hst htx => ?_⟩
    · have hf : (acceptChecks s loom east x.ctx x.desc).or (completionCheck s x.ctx x.desc) = some (c, u) := hf
      simp only [exec, execTileOpAccept, show (halfOf s loom east).subs[pick]? = some x from hx, hf, hstart, htops, hserv, hpage, hq, Option.isNone_some,
        Bool.and_false, Bool.not_false, Bool.true_or, decide_true, Bool.and_self, Bool.not_true, Bool.false_eq_true, if_false]
      rfl
    · have hf : (acceptChecks s loom east x.ctx x.desc).or (completionCheck s x.ctx x.desc) = none := hf
      have hr : isRequest s loom (keptDesc s x.ctx x.desc) = false := hr
      simp only [exec, execTileOpAccept, show (halfOf s loom east).subs[pick]? = some x from hx, hf, hstart, htops, hserv, hpage, hq, hr,
        Bool.false_and, Bool.not_false, Bool.true_or, decide_true, Bool.and_self, Bool.not_true, Bool.false_eq_true, if_false]
      rfl
    · have hf : (acceptChecks s loom east x.ctx x.desc).or (completionCheck s x.ctx x.desc) = none := hf
      have hr : isRequest s loom (keptDesc s x.ctx x.desc) = true := hr
      have hst : stagingUsed (halfOf s loom east) < 2 := hst
      simp only [exec, execTileOpAccept, show (halfOf s loom east).subs[pick]? = some x from hx, hf, hstart, htops, hserv, hpage, hq, hr, hst, htx, Option.isNone_none,
        Bool.not_true, Bool.false_or, decide_true, Bool.and_self, Bool.false_eq_true, if_false, if_true]
      rfl
  · exact congrArg Host.Outcome.next (if_neg (by simpa using hb))
  · intro d
    have hn : nextPass (halfOf s loom east) = some (i, o) := hn
    refine ⟨fun hst hk htx => ?_, ?_⟩
    · have hk : keepsB (halfOf s loom east) o = false := hk
      intro f
      refine ⟨?_, fun c u hf hc => ?_⟩
      · intro b hb w
        have hb : fetchB (tileReader loom o.ctx) (opDesc o) (o.reqs.flatMap (fun r => r.seen), s) = (.ok b, f.2) := Prod.ext hb rfl
        simp only [exec, execPreloadBegin, hn, hst, hk, htx, ne_eq, not_true_eq_false, decide_false, Bool.not_true, Bool.or_self, Bool.false_eq_true, if_false, hb]
        rfl
      · have hf : fetchB (tileReader loom o.ctx) (opDesc o) (o.reqs.flatMap (fun r => r.seen), s) = (.error (c, u), f.2) := Prod.ext hf rfl
        simp only [exec, execPreloadBegin, hn, hst, hk, htx, ne_eq, not_true_eq_false, decide_false, Bool.not_true, Bool.or_self, Bool.false_eq_true, if_false, hf,
          tileWalkPoison_of_ne hc]
    · intro b kept hb hsl htx s1 f a ha
      have hsl : slotsFree (halfOf s loom east) i o = true := hsl
      have hbusy : (!slotsFree (halfOf s loom east) i o || (!o.batch && !txFits s o.ctx (loom / 32) 1)) = false := by
        cases hob : o.batch <;> simp_all
      have ha : opRows loom o s1 = (.ok a, f.2) := Prod.ext ha rfl
      cases kept with
      | true =>
        obtain ⟨hst, hk, hw⟩ := hb
        have hk : keepsB (halfOf s loom east) o = true := hk
        have hw : (halfOf s loom east).weights.map (fun w => w.b) = some b := hw
        have ha : opRows loom o (bumpSat (twlPage loom 0 + Reg.TWL_B_KEPT) 1 s) = (.ok a, f.2) := ha
        simp only [exec, execPassStart, hn, hst, hk, hbusy, beq_self_eq_true, Bool.and_self, if_true, hw, Bool.false_eq_true, if_false, ha]
        rfl
      | false =>
        obtain ⟨seen, hst⟩ := hb
        have ha : opRows loom o s = (.ok a, f.2) := ha
        have hq : (TileStage.loaded b seen == TileStage.queued) = false := rfl
        simp only [exec, execPassStart, hn, hst, hbusy, hq, Bool.false_and, Bool.false_eq_true, if_false, ha]
        rfl
  · intro pop
    refine ⟨fun rows hst => ?_, fun c u hst => ?_, fun st sub res hst => ?_⟩
    · simp only [exec, execTileOpComplete, show (halfOf s loom east).ops = o :: rest from ho, hst]
      rfl
    · simp only [exec, execTileOpComplete, show (halfOf s loom east).ops = o :: rest from ho, hst]
      rfl
    · simp only [exec, execTileOpComplete, show (halfOf s loom east).ops = o :: rest from ho, hst]
      simp only [Bool.and_eq_true, decide_eq_true_eq]
      rfl

/-! ## The store port and freezes (R195 to R202, R213) -/

/-- Settles O28: the port's op, the delayed entry and the op responsible are what the model's searches find. -/
theorem storePortAndFreezeComplete : Obligations.StorePortAndFreezeComplete := by
  intro s loom east h
  refine ⟨fun i o hp htx => ⟨fun hop hst => ?_, fun hop => ?_, fun l handed since hop hst => ?_⟩, fun d hd => ?_, fun late i hf => ?_⟩
  · simp only [exec, execSlotStoreStart, show portOp (halfOf s loom east) = some (i, o) from hp, hop, htx, hst, ne_eq, not_true_eq_false, decide_false,
      Bool.not_true, Bool.or_self, Bool.false_eq_true, if_false]
  · simp only [exec, execSlotLoadStart, show portOp (halfOf s loom east) = some (i, o) from hp, hop, htx, decide_true, Bool.and_self, if_true]
  · simp only [exec, execSlotStoreStart, show portOp (halfOf s loom east) = some (i, o) from hp, hop, htx, hst, ne_eq, not_true_eq_false, decide_false,
      Bool.not_true, Bool.or_self, Bool.false_eq_true, if_false]
  · intro s1
    refine ⟨fun hq => ?_, fun q hq hm => ?_⟩
    · have hq : queueOf s1 d.queue = none := hq
      simp only [exec, execCompletionEntryPost, postDelayed, hd]
      simp only [s1] at hq
      simp only [hq]
      rfl
    · have hq : queueOf { s with delayed := removeFirst s.delayed (fun x => x.queue == d.queue) } d.queue = some q := hq
      rcases hr : msgWrite d.queue d.entry s1 with ⟨st, sub, t⟩
      rw [hr] at hm
      simp only [exec, execCompletionEntryPost, postDelayed, hd, hq, show msgWrite d.queue d.entry { s with
        delayed := removeFirst s.delayed (fun x => x.queue == d.queue) } = (st, sub, t) from hr, if_pos (show st = zsOk from hm)]
  · intro n
    simp only [exec, execFreezeAbandon, show freezeOp (halfOf s loom east) late = some i from hf]
    cases late <;> rfl

/-! ## Repair, service state and the firmware port (R216 to R225) -/

theorem length_eraseDups_le : (l : List Nat) → l.eraseDups.length ≤ l.length
  | [] => by simp
  | a :: l => by
    have hrest := length_eraseDups_le (l.filter (fun b => !b == a))
    have hfilter := List.length_filter_le (fun b => !b == a) l
    simp only [List.eraseDups_cons, List.length_cons]
    omega
termination_by l => l.length
decreasing_by exact Nat.lt_succ_of_le (List.length_filter_le _ _)

theorem length_rowsOut_le (v : Nat) : (rowsOut v).length ≤ 2 :=
  (length_eraseDups_le _).trans (List.length_filter_le _ _)

theorem rowDelay_le (v : Nat) : rowDelay v ≤ 2 := (List.countP_le_length).trans (length_rowsOut_le v)

/-- What TWL_REPAIR_STAT holds after a repair: in service no more, and misaligned by the delay of the rows and columns taken out (R216, R217). -/
theorem bits_repairStat (st v i : Nat) (hi : 4 ≤ i) :
    bit (setBits (setBits st 8 8 0) 4 0 (rowDelay v + 4 * colDelay (bits v 22 16) + 8 * colDelay (bits v 30 24) + 16)) i =
      if i = 4 then true else if i = 8 then false else bit st i := by
  have hrow := rowDelay_le v
  have hcol (c : Nat) : colDelay c ≤ 1 := by
    unfold colDelay b2n
    split <;> decide
  have hw := hcol (bits v 22 16)
  have he := hcol (bits v 30 24)
  simp only [bit_eq_testBit]
  rw [testBit_setBits _ _ _ (by decide), testBit_setBits _ _ _ (by decide)]
  by_cases h4 : i = 4
  · subst h4
    rw [if_pos (by decide), if_pos rfl, Nat.testBit_eq_decide_div_mod_eq, decide_eq_true_eq]
    omega
  · rw [if_neg (by omega), if_neg h4]
    by_cases h8 : i = 8
    · subst h8
      rw [if_pos (by decide), if_pos rfl, Nat.zero_testBit]
    · rw [if_neg (by omega), if_neg h8]

/-- The repair map is recorded and shown, and the loaded weights go (R216, R217). -/
def repairWritten (loom v : Nat) (s : State) : State :=
  setReg (twlPage loom 1 + Reg.TWL_REPAIR_STAT) (setBits (setBits (reg s (twlPage loom 1 + Reg.TWL_REPAIR_STAT)) 8 8 0) 4 0
    (rowDelay (v &&& 0x7F7FFFFF) + 4 * colDelay (bits (v &&& 0x7F7FFFFF) 22 16) + 8 * colDelay (bits (v &&& 0x7F7FFFFF) 30 24) + 16))
    (setReg (twlPage loom 1 + Reg.TWL_REPAIR) (v &&& 0x7F7FFFFF) (recordRepair loom (v &&& 0x7F7FFFFF) (modLoom loom dropWeights s)))

/-- The firmware port takes an op, and the loaded weights go (R222). -/
def portTaken (d : Option (List Byte)) (l : Loom) : Loom :=
  { l with port := some ⟨d⟩, west := { l.west with weights := none }, east := { l.east with weights := none } }

/-- Settles O29: each command writes the fields of one register, or the loom's port, and nothing else. -/
theorem arrayRepairAndPortComplete : Obligations.ArrayRepairAndPortComplete := by
  intro s loom v p stat ctrl
  refine ⟨fun hc hidle hport => ?_, ⟨_, rfl, fieldIs_setField s (by decide) (by decide) (by decide)⟩, fun b => ⟨_, rfl, fieldIs_setField s (by decide) (by decide) ?_⟩,
    ⟨_, rfl, fieldIs_setField s (by decide) (by decide) (by decide)⟩, fun hidle hsk hst hport => ?_, fun o hport => ?_⟩
  · have hne {a b : Nat} (h : a ≠ b) : p + a ≠ p + b := fun e => h (Nat.add_left_cancel e)
    have hstat {i : Nat} (h4 : 4 ≤ i) (h64 : i < 64) : bit (reg (bumpSat (p + Reg.TWL_REPAIRS) 1 (repairWritten loom v s)) stat) i =
        if i = 4 then true else if i = 8 then false else bit (reg s stat) i := by
      rw [reg_bumpSat_ne _ _ (hne (by decide)), repairWritten, reg_setReg_self, bit_eq_testBit, Nat.testBit_mod_two_pow, decide_eq_true h64, Bool.true_and,
        ← bit_eq_testBit, bits_repairStat _ _ _ h4]
    have hweights (east : Bool) : (halfOf (bumpSat (p + Reg.TWL_REPAIRS) 1 (repairWritten loom v s)) loom east).weights = none := by
      have hl : loomOf (bumpSat (p + Reg.TWL_REPAIRS) 1 (repairWritten loom v s)) loom = dropWeights (loomOf s loom) :=
        (loomOf_congr rfl loom).trans (loomOf_modLoom_self loom dropWeights s)
      cases east <;> simp [halfOf, hl, dropWeights]
    refine ⟨bumpSat (p + Reg.TWL_REPAIRS) 1 (repairWritten loom v s), congrArg Host.Outcome.next (if_neg (by simp [hc, hidle, hport])), rfl, fun a ha => ?_,
      ?_, ?_, hstat (by decide) (by decide), hstat (by decide) (by decide), hstat (by decide) (by decide), hweights false, hweights true, tget?_tset_self _ _ _⟩
    · simp only [List.mem_cons, List.not_mem_nil, or_false, not_or] at ha
      obtain ⟨hs, hr, hn⟩ := ha
      exact (reg_bumpSat_ne _ _ hn).trans ((reg_setReg_ne _ _ hs).trans ((reg_setReg_ne _ _ hr).trans (reg_congr rfl a)))
    · rw [reg_bumpSat_ne _ _ (hne (by decide)), repairWritten, reg_setReg_ne _ _ (hne (by decide)), reg_setReg_self]
      exact Nat.mod_eq_of_lt (Nat.lt_of_le_of_lt Nat.and_le_right (by decide))
    · rw [reg_bumpSat_self]
      exact congrArg (fun x => sat32 (x + 1)) ((reg_setReg_ne _ _ (hne (by decide))).trans ((reg_setReg_ne _ _ (hne (by decide))).trans (reg_congr rfl _)))
  · cases b <;> decide
  · have hst : bit (reg s (twlPage loom 1 + Reg.TWL_REPAIR_STAT)) 4 = false := hst
    refine ⟨setField ctrl 1 1 0 (modLoom loom (portTaken (if reg s (p + Reg.TWL_CMP_DESC) % 64 = 0 && portRange s (reg s (p + Reg.TWL_CMP_DESC)) 64 then
        some (memGet s.mem (reg s (p + Reg.TWL_CMP_DESC)) 64) else none)) s),
      if reg s (p + Reg.TWL_CMP_DESC) % 64 = 0 && portRange s (reg s (p + Reg.TWL_CMP_DESC)) 64 then
        some (memGet s.mem (reg s (p + Reg.TWL_CMP_DESC)) 64) else none, congrArg Host.Outcome.next (if_neg (by simp [hidle, hsk, hst, hport])), rfl, fun a ha => ?_, ?_, ?_, fun ha hr => ?_⟩
    · exact (reg_setField_ne _ _ _ _ (fun h => ha (List.mem_singleton.mpr h))).trans (reg_congr rfl a)
    · rw [bit_reg_setField _ _ _ (Nat.le_refl 1) (by decide)]
      rfl
    · exact (congrArg Loom.port ((loomOf_congr rfl loom).trans (loomOf_modLoom_self loom _ s)))
    · simp only [ha, hr, decide_true, Bool.and_self, if_true]
  · intro r s1
    cases hd : o.desc with
    | none =>
      simp only [exec, execPortOpDone, show (loomOf s loom).port = some o from hport, r, s1, hd]
      rfl
    | some d =>
      simp only [exec, execPortOpDone, show (loomOf s loom).port = some o from hport, r, s1, hd]
      rcases portRun loom d s with ⟨st, sub, res, s2⟩
      cases res <;> rfl

end Sys2Proof.Machine
end

section
/-! PROOF. Memory controllers, doorbells, DMA and conversion entries (R26, R250 to R264, R273 to R287). -/

namespace Sys2Proof.Machine

/-! ## Memory controllers (R250 to R264) -/

/-- What a temperature sample shows: the temperature, whether it is warm, and the level beyond (R264). -/
def tempWord (temp h : Nat) : Nat := temp % 256 + b2n (h ≥ 1) * 2 ^ 8 + (h - 1) * 2 ^ 10

theorem heatLevel_le (was t : Nat) : heatLevel was t ≤ 3 := by
  unfold heatLevel
  split
  · exact Nat.le_refl 3
  · split
    · decide
    · split <;> decide

theorem tempWord_fields {temp h : Nat} (hh : h ≤ 3) : tempWord temp h < 2 ^ 64 ∧ bits (tempWord temp h) 7 0 = temp % 256 ∧
    bits (tempWord temp h) 9 8 = b2n (h ≥ 1) ∧ bits (tempWord temp h) 11 10 = h - 1 := by
  have hb : b2n (h ≥ 1) ≤ 1 := by unfold b2n; split <;> decide
  simp only [tempWord, bits, Nat.shiftRight_eq_div_pow]
  omega

/-- What MEMC_PATROL holds after an accepted write: the period and the enable (R262). -/
theorem patrolWord_fields {x y : Nat} (hx : x ≤ 24) (hy : y ≤ 1) :
    bits ((x + y * 2 ^ 31) % 2 ^ 64) 4 0 = x ∧ bit ((x + y * 2 ^ 31) % 2 ^ 64) 31 = (y == 1) := by
  have hhigh : (x + y * 2 ^ 31) % 2 ^ 64 / 2 ^ 31 % 2 = y := by omega
  simp only [bits, bit, Nat.shiftRight_eq_div_pow, hhigh]
  exact ⟨by omega, trivial⟩

/-- The level that a sample reaches (R264). -/
theorem heatLevel_of_warm {was t : Nat} (h : 85 ≤ t) : 1 ≤ heatLevel was t := by
  unfold heatLevel
  split
  · decide
  · split
    · decide
    · rw [if_pos (by simp [h])]

theorem heatLevel_of_hot {was t : Nat} (h : 95 ≤ t) : heatLevel was t - 1 = if 100 ≤ t then 2 else if 3 ≤ was ∧ 98 ≤ t then 2 else 1 := by
  simp only [heatLevel, ge_iff_le, h, decide_true, Bool.true_or, if_true, Bool.or_eq_true, Bool.and_eq_true, decide_eq_true_eq]
  by_cases h100 : 100 ≤ t
  · simp [h100]
  · by_cases hw : 3 ≤ was ∧ 98 ≤ t
    · simp [hw]
    · simp [h100, hw]

/-- Settles O34, command by command. -/
theorem dramCommandsComplete : Obligations.DramCommandsComplete := by
  intro s die stack p q
  refine ⟨fun line inner e0 e1 hd hl hs => ?_, fun pc hr => congrArg Host.Outcome.next (if_pos hr), fun v => rfl, fun n ptr inner e0 e1 hr => ⟨fun hp => ?_, fun hp => ?_⟩, ?_,
    fun v h1 h24 => ⟨_, congrArg Host.Outcome.next (if_pos (by simp [h1, h24])), onlyRegs_setReg _ _ s, ?_⟩, fun v hv => congrArg Host.Outcome.next (if_neg ?_),
    fun temp ht => ⟨_, rfl, onlyRegs_setReg _ _ s, ?_⟩⟩
  · exact congrArg Host.Outcome.next (if_pos (by simp [hd, hl, hs]))
  · simp only [exec, execRebuildLine, hr, ge_iff_le, if_neg (Nat.not_le.mpr hp)]
    rfl
  · simp only [exec, execRebuildComplete, hr, if_neg (Nat.not_lt.mpr hp)]
    rfl
  · intro inner e0 e1 hd hs hen off pa
    dsimp only
    have hgo : exec (.patrolScrub die inner e0 e1) s = .next (
        let r := lineRead die (off / 128) [] inner e0 e1 s
        let s2 := if r.1 then lineWrite pa (memGet (memM (pa / 128) r.2).mem pa 128) (memM (pa / 128) r.2) else r.2
        if off + 128 < dieDram then setReg (q + Reg.MEMC_PATROL_POS) (off + 128) s2
        else forN 4 (fun k s => modStack die k (fun x => { x with sym := [] }) s)
          (bumpSat (q + Reg.MEMC_PATROL_PASSES) 1 (setReg (q + Reg.MEMC_PATROL_POS) 0 s2))) := by
      refine congrArg Host.Outcome.next (if_neg ?_)
      have hen : bit (reg s (memcDiePage die + Reg.MEMC_PATROL)) 31 = true := hen
      simp [hd, hs, hen]
    refine ⟨fun hlt => ?_, fun hge => ?_⟩
    · exact hgo.trans (congrArg Host.Outcome.next (if_pos hlt))
    · exact hgo.trans (congrArg Host.Outcome.next (if_neg (Nat.not_lt.mpr hge)))
  · have hbit : bits v 31 31 ≤ 1 := Nat.le_of_lt_succ (Nat.mod_lt _ (by decide))
    obtain ⟨hper, hon⟩ := patrolWord_fields h24 hbit
    rw [reg_setReg_self]
    exact ⟨hper, hon⟩
  · rcases hv with h | h
    · simp [h]
    · simp [Nat.not_le.mpr h]
  · obtain ⟨h64, ht7, ht8, ht10⟩ := tempWord_fields (temp := temp) (heatLevel_le (heatShown (reg s (p + Reg.MEMC_TEMP))) temp)
    have hreg : reg (setReg (p + Reg.MEMC_TEMP) (tempWord temp (heatLevel (heatShown (reg s (p + Reg.MEMC_TEMP))) temp)) s) (p + Reg.MEMC_TEMP)
        = tempWord temp (heatLevel (heatShown (reg s (p + Reg.MEMC_TEMP))) temp) := by
      rw [reg_setReg_self, Nat.mod_eq_of_lt h64]
    refine ⟨(congrArg (bits · 7 0) hreg).trans (ht7.trans (Nat.mod_eq_of_lt ht)), fun h85 => (congrArg (bits · 9 8) hreg).trans (ht8.trans ?_),
      fun h95 => (congrArg (bits · 11 10) hreg).trans (ht10.trans (heatLevel_of_hot h95))⟩
    rw [b2n, if_pos (decide_eq_true (heatLevel_of_warm h85))]

/-! ## A doorbell of a queue that stands under another's key (R273) -/

/-- A MSG queue without entries, of the context in a slot, that has consumed up to an index. Its handle has the table key 0. -/
def idleQueue (ctx cons : Nat) : Queue :=
  ⟨0, ctx, 0, .msg, 64, 0, 0, 0, 0, .none, cons, cons, 0, 0, none, []⟩

/-- A state whose queue table holds, under the key of the handle that a queue of context 0 carries, a queue of context 1. -/
def misfiledQueue : State := { State.reset with queues := [(0, idleQueue 1 1), (1, idleQueue 0 0)] }

/-- The entries that the queue under key 0 has given, after a command. -/
def entriesTaken (o : Host.Outcome State Fault Refusal) : Nat :=
  match o with
  | .next t => (tget? t.queues 0).elim 0 (fun q => q.entries)
  | _ => 0

/-- The doorbell counts what the queue under the handle's key moved over. -/
theorem entriesTaken_doorbell : entriesTaken (exec (.doorbellWrite 0 0 true 0) misfiledQueue) = 2 ^ 32 - 1 := by decide +kernel

/-- Refutes O35: the statement takes every state, and counts what the queue that the doorbell names moved over; in one whose queue table
holds another queue under that queue's key, the command counts what the other one moved over. -/
theorem not_schedulingCommandsComplete : ¬ Obligations.SchedulingCommandsComplete := by
  intro h
  obtain ⟨hdb, _⟩ := h misfiledQueue 0 0 0 0
  obtain ⟨-, hcons, -⟩ := (hdb (idleQueue 0 0) rfl).2 rfl
  have hzero := congrArg entriesTaken (hcons rfl (by decide))
  rw [entriesTaken_doorbell] at hzero
  exact absurd hzero (by decide +kernel)

/-! ## DMA and conversion entries (R150, R151, R200 to R204, R281) -/

section
variable {die slot : Nat} {s t : State} {j : DmaJob} {ch : ConvChan} {mine : List Byte → Bool} {bad : List Byte → ConvChan → Option Nat}
  {body : DmaJob → ConvChan → State → State}

theorem convStart_of_good (h : ConvTakes die slot s j ch t) (hm : mine j.entry = true) (hb : bad j.entry ch = none) :
    convStart die slot mine bad body s = body j ch t := by
  rw [convStart_of_takes h mine hm, hb]

theorem convStart_of_bad (h : ConvTakes die slot s j ch t) (hm : mine j.entry = true) {u : Nat} (hb : bad j.entry ch = some u) :
    convStart die slot mine bad body s = convDone j zsBadFormat u [] t := by
  rw [convStart_of_takes h mine hm, hb]

end

/-- Settles O36: an entry that is taken is run by its command's body. -/
theorem dmaAndConversionEntriesRun : Obligations.DmaAndConversionEntriesRun := by
  intro die slot s
  refine ⟨fun j t ht => ?_, fun r hr htags htodo => ?_, fun j ch t ht => ?_⟩
  · intro e n src dst apart one
    have hdma {mine : List Byte → Bool} (hm : mine j.entry = true) (body : DmaJob → State → State) : dmaStart die slot mine body s = body j t :=
      dmaStart_of_takes ht mine hm body
    refine ⟨fun hop hok => ?_, fun hop hbad => ?_, fun hop hok => ?_, fun hop hbad => ?_⟩
    · have hop : bytesAt j.entry 0 1 = 1 := hop
      refine congrArg Host.Outcome.next ((hdma (by simp [hop]) _).trans ((if_neg (by simp [hop, show copyMalformed j.entry = false from hok])).trans ?_))
      by_cases ho : one = true
      · exact (if_pos ho).trans (by simp only [ho, if_true]; rfl)
      · exact (if_neg ho).trans (by simp only [ho]; rfl)
    · have hop : bytesAt j.entry 0 1 = 1 := hop
      exact congrArg Host.Outcome.next ((hdma (by simp [hop]) _).trans (if_pos (by simp [show copyMalformed j.entry = true from hbad])))
    · have hop : bytesAt j.entry 0 1 = 2 := hop
      exact congrArg Host.Outcome.next ((hdma (by simp [hop]) _).trans (if_neg (ne_true_of_eq_false hok)))
    · have hop : bytesAt j.entry 0 1 = 2 := hop
      exact congrArg Host.Outcome.next ((hdma (by simp [hop]) _).trans (if_pos hbad))
  · intro j s1 n
    simp only [exec, execDmaEntryDone, hr, htags, htodo, List.isEmpty_nil, Bool.not_true, Bool.or_self, Bool.false_eq_true, if_false]
    rfl
  · intro e eng
    have hdie : j.die = die := by
      obtain ⟨-, s1, ⟨_, _, _, _, _, _, _, _, _, _, _, _, _, hj, _⟩, _⟩ := ht
      rw [hj]
    refine ⟨fun hop hb => ⟨fun hf => ?_, fun hf => ?_⟩, fun hop u hb => ⟨fun hf => ?_, fun hf => ?_⟩, fun hop hf hz => ?_, fun hop hb => ?_, fun hop hb => ?_⟩
    · exact congrArg Host.Outcome.next (convStart_of_good ht (by simp [show bytesAt j.entry 0 1 = 0x20 from hop, show vFlags j.entry &&& 0x0A = 0 from hf]) hb)
    · exact congrArg Host.Outcome.next (convStart_of_good ht (by simp [show bytesAt j.entry 0 1 = 0x20 from hop, show vFlags j.entry &&& 0x0A = 2 from hf]) hb)
    · exact congrArg Host.Outcome.next (convStart_of_bad ht (by simp [show bytesAt j.entry 0 1 = 0x20 from hop, show vFlags j.entry &&& 0x0A = 0 from hf]) hb)
    · exact congrArg Host.Outcome.next (convStart_of_bad ht (by simp [show bytesAt j.entry 0 1 = 0x20 from hop, show vFlags j.entry &&& 0x0A = 2 from hf]) hb)
    · intro w hw
      have hf : vFlags j.entry = 8 := hf
      have hw : vWrite (engAt j.die 17) j.ctx (bytesAt j.entry 0x18 8) (clean
          ((histList ch ++ List.replicate (16 - (histList ch).length) 0).flatMap (toBytes 4))) t = (none, w.2) := by
        rw [hdie]
        exact Prod.ext hw rfl
      refine congrArg Host.Outcome.next ((convStart_of_good ht (by simp [show bytesAt j.entry 0 1 = 0x20 from hop, hf]; decide) ?_).trans ?_)
      · simp [hf, show bytesAt j.entry 2 2 = 0 from hz]
      · simp only [hw]
    · intro r blocks hr hlen rows w hw
      refine congrArg Host.Outcome.next ((convStart_of_good ht (by simp [show bytesAt j.entry 0 1 = 0x22 from hop]) hb).trans ?_)
      have hr : readSegment j 0 (bytesAt j.entry 4 4) 0 t = (.ok blocks, r.2) := Prod.ext hr rfl
      simp only [hr]
      refine (if_neg (not_not.mpr hlen)).trans ?_
      split
      next hx => exact absurd ((congrArg (fun x => x.1.1) hx).symm.trans hw) (by simp)
      next hx => rw [show w.2 = _ from congrArg Prod.snd hx]
    · intro r bs hr hp blocks amax frames w u1 hw
      refine congrArg Host.Outcome.next ((convStart_of_good ht (by simp [show bytesAt j.entry 0 1 = 0x21 from hop]) hb).trans ?_)
      have hr : opRead (engAt die 17) (cnvPage die) j.ctx ((List.range (tRows j.entry)).flatMap (fun i =>
          [((bytesAt j.entry 0x10 8 + i * bytesAt j.entry 0x30 4) % 2 ^ 64, tRowBytes j.entry),
           ((bytesAt j.entry 0x20 8 + i * tRowBlocks j.entry) % 2 ^ 64, tRowBlocks j.entry)])) t = (.ok bs, r.2) := Prod.ext hr rfl
      simp only [hr]
      refine (if_neg (ne_true_of_eq_false hp)).trans ?_
      split
      next hx => exact absurd ((congrArg (fun x => x.1.1) hx).symm.trans hw) (by simp)
      next hx =>
        simp only [u1, show w.2 = _ from congrArg Prod.snd hx]
        rfl

end Sys2Proof.Machine
end

section
/-! PROOF. Sillage entries, the events of a step, and step state (R305 to R322, R391 to R404). -/

namespace Sys2Proof.Machine

/-! ## Entries of a COLLECTIVE queue (R305, R306, R317, R319, R322, R398) -/

/-- Settles O39: an entry that its queue gives is run by its command's body. -/
theorem sillageEntriesRun : Obligations.SillageEntriesRun := by
  intro die slot s j g t ht e
  have hgo {mine : Nat → Bool} {op : Nat} (hop : bytesAt e 0 1 = op) (hm : mine op = true) (body : SilJob → SilGroup → State → State) :
      silStart die slot mine body s = body j g t := silStart_of_takes ht mine ((congrArg mine hop).trans hm) body
  refine ⟨?_, fun hop => congrArg Host.Outcome.next (hgo hop rfl _), fun hop => congrArg Host.Outcome.next (hgo hop rfl _), ?_, ?_, ?_, fun hop hown hmute => ?_, ?_⟩
  · intro hop n fmt mode r bs hr hp ws
    refine congrArg Host.Outcome.next ((hgo hop rfl _).trans ?_)
    have hr : opRead (engAt die 18) (silPage die) j.ctx ((bytesAt j.entry 0x10 8, divUp (bytesAt j.entry 0x20 4 * fmtWidth (bytesAt j.entry 0x24 1 % 16)) 8) ::
          (if bytesAt j.entry 0x24 1 / 16 = 0 then [] else [(bytesAt j.entry 0x28 8, divUp (bytesAt j.entry 0x20 4) (blockSize (bytesAt j.entry 0x24 1 / 16)))])) t
          = (.ok bs, r.2) := Prod.ext hr rfl
    simp only [hr]
    refine (if_neg (ne_true_of_eq_false hp)).trans ?_
    split
    next hw => simp only [show ws = none from hw]
    next l hw => simp only [show ws = some l from hw]
  · intro hop i
    refine congrArg Host.Outcome.next ((hgo hop rfl _).trans ?_)
    by_cases hi : i < g.slices.length ∧ (sliceAt g i).owner = gSelf g
    · rw [if_pos hi]
      obtain ⟨hlt, hown⟩ := hi
      have hown : (sliceAt g (bytesAt j.entry 0x10 2)).owner = gSelf g := hown
      exact if_neg (by simpa [hown] using hlt)
    · rw [if_neg hi]
      refine if_pos ?_
      have hi : ¬ (bytesAt j.entry 0x10 2 < g.slices.length ∧ (sliceAt g (bytesAt j.entry 0x10 2)).owner = gSelf g) := hi
      simpa [Nat.not_lt, imp_iff_not_or] using hi
  · intro hop i off n hi hown hfit r bs hr hp
    refine congrArg Host.Outcome.next ((hgo hop rfl _).trans ?_)
    have hown : (sliceAt g (bytesAt j.entry 0x18 2)).owner = gSelf g := hown
    have hr : opRead (engAt die 18) (silPage die) j.ctx [(bytesAt j.entry 0x10 8, bytesAt j.entry 0x20 4)] t = (.ok bs, r.2) := Prod.ext hr rfl
    refine (if_neg (by simpa [hown] using hi)).trans ((if_neg (Nat.not_lt.mpr hfit)).trans ?_)
    simp only [hr]
    exact if_neg (ne_true_of_eq_false hp)
  · intro hop u
    refine ⟨fun hr hi ht => ?_, fun hr hi ht => ?_, ?_⟩
    · refine congrArg Host.Outcome.next ((hgo hop rfl _).trans ((if_neg (by simp [hr, hi])).trans (if_neg (by simp [ht]))))
    · refine congrArg Host.Outcome.next ((hgo hop rfl _).trans ((if_neg (by simp [hr, hi])).trans (if_pos ht)))
    · intro hm r
      refine congrArg Host.Outcome.next ((hgo hop rfl _).trans ((if_pos (by simpa using hm)).trans ?_))
      rfl
  · exact congrArg Host.Outcome.next ((hgo hop rfl _).trans ((if_neg (by simpa using hown)).trans (if_neg (by simp [hmute]))))
  · intro hop d
    refine ⟨fun hd => ?_, ?_⟩
    · refine congrArg Host.Outcome.next ((hgo hop rfl _).trans ?_)
      dsimp only
      split
      next => rfl
      next x hx => exact absurd (hx.symm.trans hd) (by simp)
    · intro x hd w
      have hgot : exec (.digest die slot) s = .next (match w with
          | (some (c, u, _), s) => silDone j c u [] s
          | (none, s) => silDone j zsOk 0 [] s) := by
        refine congrArg Host.Outcome.next ((hgo hop rfl _).trans ?_)
        dsimp only
        split
        next hx => exact absurd (hx.symm.trans hd) (by simp)
        next y hx =>
          obtain rfl : y = x := Option.some.inj (hx.symm.trans hd)
          rfl
      rcases hw : w with ⟨w1, w2⟩
      rw [hw] at hgot
      refine ⟨fun h => ?_, fun c u va h => ?_⟩
      · subst h
        exact hgot
      · subst h
        exact hgot

end Sys2Proof.Machine
end

section
/-! PROOF. The events of a Sillage step (R308 to R319, R404). -/

namespace Sys2Proof.Machine

/-- Settles O40: each event is the branch that its guard selects. -/
theorem sillageEventsComplete : Obligations.SillageEventsComplete := by
  intro s gs g hg hacts
  refine ⟨?_, fun r hr => ?_, fun hf hd hm ho hc => ?_, ?_, ?_, fun i r hr hm hcap hf hw hc => ?_, ?_, fun hc hr => ?_, fun hc => ?_, fun m hne hlt => ?_⟩
  · intro hf hd hm ho u
    simp only [exec, execSilDeadline, hg]
    exact congrArg Host.Outcome.next (if_neg (by simpa [hf, hacts, hm, ho] using hd))
  · simp only [exec, execSilStallLimit, hg, if_true, hr]
  · simp only [exec, execSilStallLimit, hg, Bool.false_eq_true, if_false]
    refine congrArg Host.Outcome.next ((if_neg (by simpa [hf, hacts, hm, ho] using hd)).trans (if_pos (by simp only [hc, Bool.not_false])))
  · intro w i k hready hplace htx hlane sl first n die page done
    refine ⟨fun hred => ?_, ?_⟩
    · simp only [exec, execWindowReduce, hg, hready, hacts, htx, Bool.not_true, Bool.or_self, Bool.false_eq_true, if_false, hplace, hlane]
      exact congrArg (fun x => Host.Outcome.next (done x)) (if_pos hred)
    · intro hred out e left q s1 s2 r was hr
      simp only [exec, execWindowReduce, hg, hready, hacts, htx, Bool.not_true, Bool.or_self, Bool.false_eq_true, if_false, hplace, hlane]
      refine congrArg (fun x => Host.Outcome.next (done x)) ((if_neg hred).trans ?_)
      split
      next =>
        simp only [Bool.and_eq_true, decide_eq_true_eq]
        rfl
      next hx => exact absurd (hx.symm.trans hr) (by simp)
  · intro i n hclip htx hi hown hm hnot hred hscope f shown s1
    have hgo : exec (.clipFactor gs i) s = .next (if f = 0x3F800000 then s1 else
        match vRead (engAt (gDie g) 18) g.ctx (gGrad g + 4 * (sliceAt g i).off) (4 * (sliceAt g i).elems) s1 with
        | (.error (c, u, _), s) => modSil gs (fun g => { g with gradFail := tset g.gradFail i (c, u) }) (recErr (silPage (gDie g)) g.ctx u c s)
        | (.ok l, s) =>
          match vWrite (engAt (gDie g) 18) g.ctx (gGrad g + 4 * (sliceAt g i).off) (clean ((chunks 4 (sliceAt g i).elems (bare l)).flatMap (fun b =>
              toBytes 4 (toFp32 (valMul (fp32 (ofBytes b)) (fp32 f)))))) s with
          | (some (c, u, _), s) => modSil gs (fun g => { g with gradFail := tset g.gradFail i (c, u) }) (recErr (silPage (gDie g)) g.ctx u c s)
          | (none, s) => s) := by
      simp only [exec, execClipFactor, hg]
      refine congrArg Host.Outcome.next ((if_neg (by simp [hclip, hacts, htx, hi, hown, hm, hnot, hred])).trans ?_)
      simp only [hscope]
      rfl
    refine ⟨fun h1 => hgo.trans (congrArg Host.Outcome.next (if_pos h1)), ?_⟩
    intro h1 eng r l hl w hw
    refine hgo.trans (congrArg Host.Outcome.next ((if_neg h1).trans ?_))
    split
    next hx => exact absurd ((congrArg Prod.fst hx).symm.trans hl) (by simp)
    next l' s' hx =>
      obtain rfl : l' = l := by simpa using (congrArg Prod.fst hx).symm.trans hl
      obtain rfl : s' = r.2 := (congrArg Prod.snd hx).symm
      split
      next hy => exact absurd ((congrArg Prod.fst hy).symm.trans hw) (by simp)
      next hy => exact (congrArg Prod.snd hy).symm
  · simp only [exec, execAwaitComplete, hg, hr]
    refine congrArg Host.Outcome.next ((if_neg (by simpa [hm, hacts, hcap, hf, hw] using fun m hmem => Option.isSome_iff_ne_none.mp (hc m hmem))).trans ?_)
    rcases tget? g.gradFail i with _ | ⟨c, u⟩
    · rfl
    · rfl
  · intro ho hsent hbad hmute hrun hup secure
    simp only [exec, execReadySend, hg]
    exact congrArg Host.Outcome.next (if_neg (by simpa [ho, hsent, hbad, hacts, hmute, hrun] using hup))
  · simp only [exec, execCommitComplete, hg, hr, hc, hacts, Bool.and_self, if_true]
  · simp only [exec, execCommitTimeout, hg, hc, hacts, Bool.not_true, Bool.or_self, Bool.false_eq_true, if_false]
  · simp only [exec, execMemberSilent, hg]
    exact congrArg Host.Outcome.next (if_neg (by simp [hne, hlt]))

end Sys2Proof.Machine
end

section
/-! PROOF. Step state and restore (R391 to R404). -/

namespace Sys2Proof.Machine

/-! ## The cadence of secures (R394, R395) -/

theorem armCadence_rest (page t : Nat) (s : State) : ∃ r y, armCadence page t s = { s with regs := r, sys := y } := by
  unfold armCadence
  dsimp only
  split
  · exact ⟨_, _, rfl⟩
  · exact ⟨_, _, rfl⟩

theorem cadRetime_rest (s : State) : ∃ r y, cadRetime s = { s with regs := r, sys := y } := by
  obtain ⟨r, y, h⟩ := armCadence_rest (cadPage s) (reg s (cadPage s + Reg.CAD_LAST_SEAL) + cadInterval s) (setReg (cadPage s + Reg.CAD_T) (cadInterval s) s)
  exact ⟨r, y, h⟩

theorem silAt_modSil_self (gs : Nat) (f : SilGroup → SilGroup) (s : State) : silAt (modSil gs f s) gs = (silAt s gs).map f := tget?_tupd_self _ _ _

/-- An acknowledgement of a JOIN reaches the group that asked (R403). -/
theorem takeSilAck_of_join {port : Nat} {p : Packet} {r : FabReq} {s t : State} {gs member : Nat} (ha : Answers opSilAck port p r s t)
    (hk : bytesAt p.body 5 1 ≠ 1) (hr : r.issuer = .join gs member) :
    takeSilAck port p s = settleUnmaps (joinAcked gs member (bytesAt p.body 8 8) (fabOk r t)) := by
  obtain ⟨hdel, hcheck, hstale, hfind⟩ := ha
  rw [takeSilAck, arrive_of_delivers hdel, if_neg hk]
  simp only [takeResponse, hfind, hcheck, ne_eq, not_true_eq_false, if_false, hstale, Bool.false_eq_true, hr]

/-- Settles O41, event by event. -/
theorem stepStateEventsComplete : Obligations.StepStateEventsComplete := by
  intro s
  refine ⟨?_, fun hs => congrArg Host.Outcome.next (if_neg (ne_true_of_eq_false hs)), fun last hl => ⟨fun h => ?_, fun h => ?_⟩, fun hl => ?_, fun i r hi hg hc => ?_, ?_, ?_⟩
  · intro gs g cap r hg hcap hr fs a b h c
    refine ⟨?_, fun g' hg' => ?_⟩
    · simp only [exec, execSecureSeal, sealRecord, hg, hcap, hr, c, h, b, a, fs]
    · obtain ⟨x, -, hx⟩ := Option.map_eq_some_iff.mp ((silAt_modSil_self gs _ _).symm.trans hg')
      rw [← hx]
  · simp only [exec, execCadEventIn, cadEvent, hl, if_pos h]
  · intro m
    have hgo : exec .cadEventIn s = .next (cadRetime (bumpSat (cadPage s + Reg.CAD_EVENTS) 1 (setReg (cadPage s + Reg.CAD_M)
            (wrap 64 (m + Int.tdiv (((s.time - last : Nat) : Int) - m) 8)) { s with cadence := { s.cadence with lastEvent := some s.time } }))) := by
      simp only [exec, execCadEventIn, cadEvent, hl, if_neg (Nat.not_lt.mpr h)]
      rfl
    obtain ⟨r, y, hr⟩ := cadRetime_rest (bumpSat (cadPage s + Reg.CAD_EVENTS) 1 (setReg (cadPage s + Reg.CAD_M)
            (wrap 64 (m + Int.tdiv (((s.time - last : Nat) : Int) - m) 8)) { s with cadence := { s.cadence with lastEvent := some s.time } }))
    refine ⟨_, hgo, ?_, ?_, rfl⟩
    · rw [hr]
      rfl
    · rw [hr]
      rfl
  · simp only [exec, execCadEventIn, cadEvent, hl]
  · simp only [exec, execClaimWindowExpiry, hi]
    exact congrArg Host.Outcome.next (if_neg (by simp [hg, hc]))
  · intro port head body r t gs member g p hj hk ha hiss u hg
    have hgo : exec (.joinAck port head body) s = .next (settleUnmaps (joinAcked gs member (bytesAt p.body 8 8) u)) := by
      refine congrArg Host.Outcome.next ((if_pos hj).trans ?_)
      exact takeSilAck_of_join ha hk hiss
    refine ⟨fun hm => ?_, fun hm => ?_⟩
    · rw [hgo]
      simp only [joinAcked, show silAt u gs = some g from hg, hm]
    · rw [hgo]
      simp only [joinAcked, show silAt u gs = some g from hg, hm]
  · intro port head ext payload gs g t p hseg hk hg x
    have hgo : exec (.fillSegment port head ext payload) s = .next (
        silAnswer gs p (takeFill gs x.slice x.first x.payload t).1 (takeFill gs x.slice x.first x.payload t).2.1 (takeFill gs x.slice x.first x.payload t).2.2) :=
      congrArg Host.Outcome.next ((if_neg (ne_true_of_eq_false (congrArg not (beq_iff_eq.mpr hk)))).trans (silSegment_of_segmentFor hseg _))
    refine ⟨fun hm => ?_, ?_⟩
    · rw [hgo]
      simp only [takeFill, show silAt t gs = some g from hg, if_pos hm]
    · intro hm hslice hfit w u hw
      rw [hgo]
      have htake : takeFill gs x.slice x.first x.payload t = (zsOk, 0, if paramTotal g ≤ g.fill.bytes + x.payload.length
          then fillChanged (modSil gs (fun g => { g with mode := .image }) u) else u) := by
        simp only [takeFill, show silAt t gs = some g from hg]
        refine (if_neg (by simp [hm])).trans ((if_neg (by simp [Nat.not_le.mpr hslice, Nat.not_lt.mpr hfit])).trans ?_)
        have hw : vWrite (engAt (gDie g) 18) g.ctx (gParamBase g (gStep t g) + (sliceAt g x.slice).paramOff + x.first) (clean x.payload) t = (none, w.2) :=
          Prod.ext hw rfl
        simp only [hw]
        rfl
      simp only [htake]

end Sys2Proof.Machine
end

section
/-! PROOF. Link frames, control flits, bring-up and the routing table (R326 to R353). -/

namespace Sys2Proof.Machine

/-! ## A routing table that lists an entry twice (R341) -/

/-- A state with die 0 live whose routing table lists destination 0 twice: what removes the first entry leaves the second to be read. -/
def routedTwice : State := { State.reset with regs := [(dieMapAddr, 1)], routes := [(0, 1), (0, 1)] }

/-- The route to destination 0 after a command. -/
def routeOfZero (o : Host.Outcome State Fault Refusal) : Nat :=
  match o with
  | .next t => tgetD t.routes 0 0
  | _ => 0

theorem routeOfZero_write : routeOfZero (exec (.rvlRouteDataWrite 0 0) routedTwice) = 1 := by decide +kernel

theorem dieLive_routedTwice : dieLive routedTwice 0 = true := by decide +kernel

theorem routeSel_routedTwice : bits (reg routedTwice (rvlPage 0 + Reg.RVL_ROUTE_SEL)) 15 0 = 0 := by decide +kernel

/-- Refutes O44: the statement takes every state, and in one whose routing table lists an entry twice a write of 0 leaves the second. -/
theorem not_bypassAndRoutesComplete : ¬ Obligations.BypassAndRoutesComplete := by
  intro h
  obtain ⟨_, _, _, hroute, _⟩ := h routedTwice
  obtain ⟨t, ht, -, hread, -⟩ := hroute 0 0 dieLive_routedTwice
  rw [routeSel_routedTwice] at hread
  have hone := routeOfZero_write
  rw [ht] at hone
  exact absurd (hone.symm.trans hread) (by decide)

end Sys2Proof.Machine
end

section
/-! PROOF. Link frames, control flits and bring-up (R326 to R350). -/

namespace Sys2Proof.Machine

/-! ## Ports -/

theorem portOf_modPort_self (k : Nat) (f : LinkPort → LinkPort) (s : State) : portOf (modPort k f s) k = f (portOf s k) := tgetD_tmod_self _ _ _ _

theorem portOf_modPort_ne {k p : Nat} (f : LinkPort → LinkPort) (s : State) (h : p ≠ k) : portOf (modPort k f s) p = portOf s p := tgetD_tmod_ne _ _ _ _ h

/-- A change of one port's record. -/
theorem onlyPort_modPort (k : Nat) (f : LinkPort → LinkPort) (s : State) : OnlyPort k [] s (modPort k f s) :=
  ⟨rfl, fun _ h => portOf_modPort_ne f s h, fun _ _ => rfl, fun _ => rfl⟩

/-- Codewords leave the package, and nothing else changes (R327). -/
theorem sendCodewords_rest (fuel k : Nat) (flits : List Byte) (s : State) : ∃ o, sendCodewords fuel k flits s = { s with outbox := s.outbox ++ o } := by
  induction fuel generalizing flits s with
  | zero => exact ⟨[], by rw [sendCodewords, List.append_nil]⟩
  | succ f ih =>
    rw [sendCodewords]
    by_cases h : flits.isEmpty = true
    · exact ⟨[], by rw [if_pos h, List.append_nil]⟩
    · rw [if_neg h]
      obtain ⟨o, ho⟩ := ih (flits.drop 640) (emit (.codeword k (2 ^ 10 - 2 ^ (min 10 (flits.length / 64))) (flits.take 640 ++ zeros (64 * (10 - (min 10 (flits.length / 64)))))) s)
      exact ⟨_ :: o, by rw [ho, emit, List.append_assoc, List.singleton_append]⟩

/-! ## Control flits (R328, R336, R350) -/

theorem onControl_of_flit {s : State} {port : Nat} (hup : portUp s port = true) (h : 1 ≤ (portOf s port).rxFlits) (act : State → State) :
    onControl port act s = act (modPort port (fun l => { l with rxFlits := l.rxFlits - 1 }) s) :=
  if_neg (by simp [hup, Nat.one_le_iff_ne_zero.mp h])

theorem onControl_of_none {s : State} {port : Nat} (h : (portOf s port).rxFlits = 0) (act : State → State) : onControl port act s = s :=
  if_pos (by simp [h])

/-- The credits that a port keeps: those of a channel with less than 512. -/
def creditTable (c : Nat → Nat) : Tab Nat := (List.range 8).filterMap (fun v => if c v = 512 then none else some (v, c v))

theorem tgetD_credits (c : Nat → Nat) (v : Nat) (l : List Nat) (hl : l.Pairwise (· < ·)) :
    tgetD (l.filterMap (fun v => if c v = 512 then none else some (v, c v))) v 512 = if v ∈ l then c v else 512 := by
  induction l with
  | nil => rfl
  | cons x l ih =>
    obtain ⟨hx, hl⟩ := List.pairwise_cons.mp hl
    have ih := ih hl
    by_cases hc : c x = 512
    · rw [List.filterMap_cons_none (by simp [hc]), ih]
      by_cases hv : v = x
      · subst hv
        simp [hc]
      · simp [hv]
    · rw [List.filterMap_cons_some (b := (x, c x)) (by simp only [if_neg hc]), tgetD, tget?]
      by_cases hv : v = x
      · subst hv
        simp
      · rw [if_neg (Ne.symm hv)]
        by_cases hlt : v < x
        · have hnot : v ∉ l := fun h => absurd (hx v h) (Nat.not_lt.mpr hlt.le)
          simp [hlt, hv, hnot]
        · rw [if_neg hlt, ← tgetD, ih]
          simp [hv]

theorem tgetD_creditTable (c : Nat → Nat) {v : Nat} (h : v < 8) : tgetD (creditTable c) v 512 = c v := by
  rw [creditTable, tgetD_credits c v _ List.pairwise_lt_range, if_pos (List.mem_range.mpr h)]

/-- A port after a frame whose tag is good (R327). -/
def frameTaken (flits : Nat) (l : LinkPort) : LinkPort := { l with frameRx := l.frameRx + 1, rxFlits := l.rxFlits + flits }

/-- A port after its key pair has changed (R339). -/
def keysRolled (l : LinkPort) : LinkPort := { l with keyPhase := (l.keyPhase + 1) % 256, frameTx := 0, frameRx := 0 }

/-- A port after a CREDIT flit was taken (R336). -/
def credited (counts : List Nat) (l : LinkPort) : LinkPort := { l with credits := creditTable (fun v => min 512 (creditOf l v + counts.getD v 0)) }

/-- The codewords of a frame are counted (R326). -/
def codewordsCounted (port corr uncorr : Nat) (s : State) : State :=
  bump (linkPage port + Reg.RVL_FEC_UNCORR) uncorr (bump (linkPage port + Reg.RVL_FEC_CORR) corr s)

theorem execLinkFrameRx_of_up {s : State} {port : Nat} (hup : portUp s port = true) (flits corr uncorr : Nat) (ok : Bool) :
    exec (.linkFrameRx port flits corr uncorr ok) s = .next (
      if uncorr ≠ 0 then codewordsCounted port corr uncorr s
      else if !ok then bumpSat (linkPage port + Reg.RVL_AUTH_FAIL) 1 (codewordsCounted port corr uncorr s)
      else modPort port (frameTaken flits) (bump (linkPage port + Reg.RVL_RX_FLITS) flits (codewordsCounted port corr uncorr s))) :=
  congrArg Host.Outcome.next (if_neg (by simp [hup]))

/-- Settles O42, frame by frame and flit by flit. -/
theorem linkFramesAndFlitsComplete : Obligations.LinkFramesAndFlitsComplete := by
  intro s port hup l a
  have hne {x y : Nat} (h : x ≠ y) : a + x ≠ a + y := fun e => h (Nat.add_left_cancel e)
  refine ⟨fun flits corr => ?_, fun flits corr => ?_, fun flits corr n ok hn => ?_, ?_, fun h => ?_, ?_, fun h0 => ?_, fun p r hr => ?_, ?_, ?_⟩
  · refine ⟨_, execLinkFrameRx_of_up hup flits corr 0 true, ⟨rfl, fun p hp => ?_, fun r hr => ?_, fun _ => rfl⟩, ?_, ?_, ?_⟩
    · exact portOf_modPort_ne _ _ hp
    · simp only [List.mem_cons, List.not_mem_nil, or_false, not_or] at hr
      obtain ⟨hc, hu, hx⟩ := hr
      exact (reg_bump_ne _ _ hx).trans ((reg_bump_ne _ _ hu).trans (reg_bump_ne _ _ hc))
    · exact portOf_modPort_self _ _ _
    · exact (reg_bump_ne _ _ (hne (by decide))).trans ((reg_bump_ne _ _ (hne (by decide))).trans (reg_bump_self _ _ _))
    · refine (reg_bump_self _ _ _).trans (congrArg (fun x => (x + flits) % 2 ^ 64) ?_)
      exact (reg_bump_ne _ _ (hne (by decide))).trans (reg_bump_ne _ _ (hne (by decide)))
  · refine ⟨_, execLinkFrameRx_of_up hup flits corr 0 false, ⟨rfl, fun r hr => ?_, fun _ => rfl⟩, ?_⟩
    · simp only [List.mem_cons, List.not_mem_nil, or_false, not_or] at hr
      obtain ⟨hc, hu, hx⟩ := hr
      exact (reg_bumpSat_ne _ _ hx).trans ((reg_bump_ne _ _ hu).trans (reg_bump_ne _ _ hc))
    · refine (reg_bumpSat_self _ _ _).trans (congrArg (fun x => sat32 (x + 1)) ?_)
      exact (reg_bump_ne _ _ (hne (by decide))).trans (reg_bump_ne _ _ (hne (by decide)))
  · refine ⟨_, (execLinkFrameRx_of_up hup flits corr n ok).trans (congrArg Host.Outcome.next (if_pos hn)), ⟨rfl, fun r hr => ?_, fun _ => rfl⟩, ?_⟩
    · simp only [List.mem_cons, List.not_mem_nil, or_false, not_or] at hr
      obtain ⟨hc, hu⟩ := hr
      exact (reg_bump_ne _ _ hu).trans (reg_bump_ne _ _ hc)
    · exact (reg_bump_self _ _ _).trans (congrArg (fun x => (x + n) % 2 ^ 64) (reg_bump_ne _ _ (hne (by decide))))
  · intro hd t
    obtain ⟨o, ho⟩ := sendCodewords_rest 8 port (frameFlits s port l.openData) s
    have hs : sendFrame port l.openData s = modPort port (fun l => { l with frameTx := l.frameTx + 1 }) { s with outbox := s.outbox ++ o } := by
      rw [sendFrame, ho]
    refine ⟨congrArg Host.Outcome.next (if_neg (by simpa using hd)), ?_, fun p hp => ?_, ?_⟩
    · simp only [t, hs]
      rfl
    · simp only [t, hs]
      exact (portOf_modPort_ne _ _ hp).trans (portOf_modPort_ne _ _ hp)
    · simp only [t, hs, portOf_modPort_self]
      rfl
  · refine ⟨modPort port keysRolled s, congrArg Host.Outcome.next (if_neg ?_), onlyPort_modPort _ _ _, portOf_modPort_self _ _ _⟩
    have h : 2 ^ 32 ≤ (portOf s port).frameTx ∨ 2 ^ 32 ≤ (portOf s port).frameRx := h
    simp only [Bool.and_eq_true, decide_eq_true_eq]
    omega
  · intro hf s1
    refine ⟨?_, fun seq => congrArg Host.Outcome.next (onControl_of_flit hup hf _), fun counts hq => ?_, congrArg Host.Outcome.next (onControl_of_flit hup hf _), ?_⟩
    · intro seq r
      exact congrArg Host.Outcome.next ((onControl_of_flit hup hf _).trans (by simp only [portOf_modPort_self]; rfl))
    · refine ⟨modPort port (credited counts) s1, congrArg Host.Outcome.next ((onControl_of_flit hup hf _).trans ?_), ?_, fun v hv => ?_, ?_⟩
      · have htx : (portOf (modPort port (credited counts) s1) port).txq = [] := by
          simp only [s1, portOf_modPort_self]
          exact hq
        exact congrArg (fun n => pump n port (modPort port (credited counts) s1)) (congrArg List.length htx)
      · exact ⟨rfl, fun p hp => (portOf_modPort_ne _ _ hp).trans (portOf_modPort_ne _ _ hp), fun _ _ => rfl, fun _ => rfl⟩
      · simp only [s1, portOf_modPort_self]
        exact tgetD_creditTable (fun v => min 512 (creditOf l v + counts.getD v 0)) hv
      · simp only [s1, portOf_modPort_self]
        rfl
    · intro t1 st s2
      have hgo (t2 t3 : Option Nat) (t4 : Nat) : exec (.tsync port t1 t2 t3 t4 st) s = .next (match t2, t3 with
          | some t2, some t3 =>
            if bits (reg (reStratum (enterFlight port (tsyncFlight t1 t2 t3 t4) s2)) (bntPage + Reg.BNT_DISC)) 1 0 = 1 &&
                bits (reg (reStratum (enterFlight port (tsyncFlight t1 t2 t3 t4) s2)) (rvlDie (reStratum (enterFlight port (tsyncFlight t1 t2 t3 t4) s2)) + Reg.RVL_TIME)) 9 4 = port then
              servoMeasure (tsyncOffset t1 t2 t3 t4) (reStratum (enterFlight port (tsyncFlight t1 t2 t3 t4) s2))
            else reStratum (enterFlight port (tsyncFlight t1 t2 t3 t4) s2)
          | _, _ => sendTsync port [t1, stamp s2, stamp s2] (reStratum s2)) :=
        congrArg Host.Outcome.next (if_neg (by simpa [tsyncs, hup] using Nat.one_le_iff_ne_zero.mp hf))
      refine ⟨fun t2 t3 t4 h => ?_, ?_⟩
      · rw [hgo]
        rcases h with rfl | rfl
        · rfl
        · cases t2 <;> rfl
      · intro t2 t3 t4 u
        rw [hgo]
        simp only [Bool.and_eq_true, decide_eq_true_eq]
        rfl
  · refine ⟨fun seq => ⟨congrArg Host.Outcome.next (onControl_of_none h0 _), congrArg Host.Outcome.next (onControl_of_none h0 _)⟩,
      fun counts => congrArg Host.Outcome.next (onControl_of_none h0 _), congrArg Host.Outcome.next (onControl_of_none h0 _), fun t1 t2 t3 t4 st => ?_⟩
    exact congrArg Host.Outcome.next (if_pos (by simp [show (portOf s port).rxFlits = 0 from h0]))
  · simp only [exec, execReplayTimeout, show (portOf s port).replay = p :: r from hr, hup, if_true]
  · exact congrArg Host.Outcome.next (if_pos (by simp [tsyncs, hup]))
  · intro u
    refine ⟨fun h => ?_, fun h => ?_⟩
    · exact congrArg Host.Outcome.next ((if_neg (by simp [hup])).trans (if_pos (by simpa using h)))
    · exact congrArg Host.Outcome.next ((if_neg (by simp [hup])).trans (if_neg (by simpa using h)))

/-! ## Bring-up (R337, R348, R349) -/

/-- What leaves the package in the handshake is one message (R348). -/
theorem sendShake_rest (k identity n : Nat) (s : State) : ∃ o, sendShake k identity n s = { s with outbox := s.outbox ++ [o] } := by
  unfold sendShake
  dsimp only
  split
  · exact ⟨_, rfl⟩
  · exact ⟨_, rfl⟩

/-- A port whose handshake has begun with a draw (R348). -/
def shaken (h : PeerHello) (n : Nat) (l : LinkPort) : LinkPort :=
  { l with phase := 5, met := h.identity, metPosition := h.position, metEpoch := h.epoch, metSeq := h.seq, shake := some n }

/-- A port that has recorded its peer and the peer's secret (R348). -/
def peerRecorded (m : LinkPort) (l : LinkPort) : LinkPort :=
  { l with phase := 6, same := m.peer == some m.met, peer := some m.met, resume := m.shake, shake := none,
           frameTx := 0, frameRx := 0, keyPhase := 0, openData := [], rxFlits := 0 }

/-- A port in a phase of its bring-up. -/
def inPhase (n : Nat) (l : LinkPort) : LinkPort := { l with phase := n }

/-- Settles O43, phase by phase. -/
theorem linkBringUpRuns : Obligations.LinkBringUpRuns := by
  intro s port l
  refine ⟨fun h => ⟨fun hp hb => ?_, fun hp => ⟨modPort port (inPhase 3) s, ?_, onlyPort_modPort _ _ _, portOf_modPort_self _ _ _⟩, fun hp => ?_, fun hp => ?_,
    fun hp hd => ?_, fun hp hd => ?_, fun hp => ?_, fun hp ht => ?_⟩, fun hp => ?_, fun hd hb => congrArg Host.Outcome.next (if_pos (by simp [hd, hb])), fun hup => ?_⟩
  · simp only [exec, execBringupPhaseComplete, show (portOf s port).phase = 1 from hp]
    exact congrArg Host.Outcome.next (if_pos hb)
  · simp only [exec, execBringupPhaseComplete, show (portOf s port).phase = 2 from hp]
    rfl
  · simp only [exec, execBringupPhaseComplete, show (portOf s port).phase = 3 from hp]
  · obtain ⟨o, ho⟩ := sendShake_rest port h.identity s.draws (modPort port (shaken h s.draws) { s with draws := s.draws + 1 })
    refine ⟨{ modPort port (shaken h s.draws) { s with draws := s.draws + 1 } with outbox := s.outbox ++ [o] }, ?_, rfl, fun p hne => portOf_modPort_ne _ _ hne,
      portOf_modPort_self _ _ _, List.length_append⟩
    simp only [exec, execBringupPhaseComplete, show (portOf s port).phase = 4 from hp]
    exact congrArg Host.Outcome.next ho
  · simp only [exec, execBringupPhaseComplete, show (portOf s port).phase = 5 from hp]
    exact congrArg Host.Outcome.next (if_pos hd)
  · refine ⟨sendEpoch port (modPort port (peerRecorded l) (setReg (linkPage port + Reg.RVL_PEER) (l.metPosition % 2 ^ 16 + 2 ^ 16) s)), ?_, rfl,
      fun a ha => reg_setReg_ne _ s (fun h => ha (List.mem_singleton.mpr h)), ?_, fun p hne => portOf_modPort_ne _ _ hne, portOf_modPort_self _ _ _⟩
    · simp only [exec, execBringupPhaseComplete, show (portOf s port).phase = 5 from hp]
      exact congrArg Host.Outcome.next (if_neg (ne_true_of_eq_false hd))
    · exact (reg_setReg_self _ _ s).trans (Nat.mod_eq_of_lt (by omega))
  · simp only [exec, execBringupPhaseComplete, show (portOf s port).phase = 6 from hp]
  · simp only [exec, execBringupPhaseComplete, show (portOf s port).phase = 7 from hp]
    exact congrArg Host.Outcome.next (if_pos ht)
  · refine congrArg Host.Outcome.next ((if_neg (Nat.not_lt.mpr hp)).trans ?_)
    simp only [Bool.and_eq_true, Bool.or_eq_true, decide_eq_true_eq, beq_iff_eq, and_assoc]
    rfl
  · intro u
    have hre (cause : Nat) : Sys2Proof.Machine.retrain port cause s = u cause := if_pos hup
    exact ⟨fun lane hl => congrArg Host.Outcome.next ((if_pos hl).trans (hre 1)), congrArg Host.Outcome.next (hre 2), congrArg Host.Outcome.next (hre 3),
      congrArg Host.Outcome.next (hre 5), congrArg Host.Outcome.next (hre 6)⟩

end Sys2Proof.Machine
end

section
/-! PROOF. Requests that arrive over links, and the responses to the package's own (R25, R126, R290, R321, R332, R347). -/

namespace Sys2Proof.Machine

/-! ## Requests (R25, R347) -/

section
variable {s t : State} {port : Nat} {p : Packet}

/-- A request on memory whose check word is good is judged, then refused or performed. -/
theorem memRequest_of_error {c u : Nat} (hc : pktCheck p.body = p.check) (hj : judgeMemReq t p = .error (c, u)) (act : Window → Nat → State → State) :
    memRequest port p act t = memNack (arrDie t port) p c u (recInbound (arrDie t port) p c t) := by
  simp only [memRequest, hc, ne_eq, not_true_eq_false, if_false, hj]

theorem memRequest_of_ok {w : Window} (hc : pktCheck p.body = p.check) (hj : judgeMemReq t p = .ok w) (act : Window → Nat → State → State) :
    memRequest port p act t = act w ((w.base + bytesAt p.body 0 8) % 2 ^ 64) t := by
  simp only [memRequest, hc, ne_eq, not_true_eq_false, if_false, hj]

end

/-- Settles O45: what arrives and passes the checks is performed by its kind's action. -/
theorem arrivingRequestsArePerformed : Obligations.ArrivingRequestsArePerformed := by
  intro s port p t
  refine ⟨?_, ?_, ?_, ?_⟩
  · intro c u hc hj no
    exact ⟨fun hd => congrArg Host.Outcome.next ((arrive_of_delivers hd _).trans (memRequest_of_error hc hj _)),
      fun hd => congrArg Host.Outcome.next ((arrive_of_delivers hd _).trans (memRequest_of_error hc hj _)),
      fun hd => congrArg Host.Outcome.next ((arrive_of_delivers hd _).trans (memRequest_of_error hc hj _)),
      fun hd => congrArg Host.Outcome.next ((arrive_of_delivers hd _).trans (memRequest_of_error hc hj _))⟩
  · intro w hc hj va
    refine ⟨fun hd => congrArg Host.Outcome.next ((arrive_of_delivers hd _).trans (memRequest_of_ok hc hj _)), ?_,
      fun hd => congrArg Host.Outcome.next ((arrive_of_delivers hd _).trans (memRequest_of_ok hc hj _)),
      fun hd => congrArg Host.Outcome.next ((arrive_of_delivers hd _).trans (memRequest_of_ok hc hj _))⟩
    intro hd r
    refine ⟨fun l hl => ?_, fun c u a he => ?_⟩
    · have hr : gRead (engAt p.epHome 20) w.ctx ((w.base + bytesAt p.body 0 8) % 2 ^ 64) (memReqLen p) t = (.ok l, r.2) := Prod.ext hl rfl
      exact congrArg Host.Outcome.next ((arrive_of_delivers hd _).trans ((memRequest_of_ok hc hj _).trans (by simp only [takeGet, hr])))
    · have hr : gRead (engAt p.epHome 20) w.ctx ((w.base + bytesAt p.body 0 8) % 2 ^ 64) (memReqLen p) t = (.error (c, u, a), r.2) := Prod.ext he rfl
      exact congrArg Host.Outcome.next ((arrive_of_delivers hd _).trans ((memRequest_of_ok hc hj _).trans (by simp only [takeGet, hr])))
  · intro hd hc hst h hj ep hep hq r
    refine congrArg Host.Outcome.next ((arrive_of_delivers hd _).trans ?_)
    have hall : (endpointOf t (pktEp 9 p)).all (fun ep => ep.queue == 0) = false := by
      simpa [show endpointOf t (pktEp 9 p) = some ep from hep] using hq
    simp only [takeMsg, hc, hst, show judgeHandle t (ctxHandle t p.ctxSlot) (pktEp 9 p) 9 = zsOk from hj, hall, ne_eq, not_true_eq_false, Bool.false_eq_true, if_false]
    rfl
  · intro gs g hseg x
    have hsil {ok : Nat → Bool} (hok : ok x.kind = true) (act : Nat → SilGroup → SilSeg → State → State) :
        (if !silKind p ok then s else arrive opSil port p (silSegment port p act) s) = act gs g x t :=
      (if_neg (ne_true_of_eq_false (congrArg not hok))).trans (silSegment_of_segmentFor hseg act)
    refine ⟨fun h1 h6 => ?_, fun hk => ?_, fun hk => congrArg Host.Outcome.next (hsil (ok := fun k => k == 7) (beq_iff_eq.mpr hk) _),
      fun hk => congrArg Host.Outcome.next (hsil (ok := fun k => k == 8) (beq_iff_eq.mpr hk) _)⟩
    · exact congrArg Host.Outcome.next ((hsil (ok := fun k => k < 7 || k > 9) (by simp; omega) _).trans (if_pos (by simp [h1, h6])))
    · exact congrArg Host.Outcome.next ((hsil (ok := fun k => k < 7 || k > 9) (by simp; omega) _).trans (if_neg (by simp; omega)))

/-! ## Responses (R126, R290, R308, R332) -/

/-- An acknowledgement of a segment reaches the entry that sent it, and returns credit (R308). -/
theorem takeSilAck_of_sil {port : Nat} {p : Packet} {r : FabReq} {s t : State} {gs i : Nat} (ha : Answers opSilAck port p r s t)
    (hk : bytesAt p.body 5 1 ≠ 1) (hr : r.issuer = .sil gs i) :
    takeSilAck port p s = settleUnmaps (silAnswered gs i r.tag zsOk 0 (takeCredit p (fabOk r t)).2) := by
  obtain ⟨hdel, hcheck, hstale, hfind⟩ := ha
  rw [takeSilAck, arrive_of_delivers hdel, if_neg hk]
  simp only [takeResponse, hfind, hcheck, ne_eq, not_true_eq_false, if_false, hstale, Bool.false_eq_true, hr]

/-- Settles O46: a response that answers a request ends it by its issuer's action. -/
theorem responsesEndTheirRequests : Obligations.ResponsesEndTheirRequests := by
  intro s port p t r
  refine ⟨fun ha => ⟨fun loom skein lcv th hi => ?_, fun ch hi => ?_⟩, ?_, fun ha => congrArg Host.Outcome.next (takeResponse_of_answers ha _),
    fun ha loom skein lcv hi => ?_, fun ha hk gs i hi head body hp => ?_, fun tag q hq => ⟨rfl, fun hsil hjoin hdma => ?_⟩⟩
  · exact congrArg Host.Outcome.next ((takeResponse_of_answers ha _).trans (by simp only [hi]))
  · exact congrArg Host.Outcome.next ((takeResponse_of_answers ha _).trans (by simp only [hi]))
  · intro ha mask data
    refine ⟨fun loom skein lcv th regs width hi => ?_, ?_⟩
    · exact congrArg Host.Outcome.next ((takeResponse_of_answers ha _).trans (by simp only [hi]; rfl))
    · intro ch dst run hi u hrun hst
      refine congrArg Host.Outcome.next ((takeResponse_of_answers ha _).trans ?_)
      simp only [hi, show dmaRunOf (dmaTagDone r.tag zsOk 0 (fabOk r t)) ch = some run from hrun, if_pos hst]
      rfl
  · exact congrArg Host.Outcome.next ((takeResponse_of_answers ha _).trans (by simp only [hi]))
  · subst hp
    exact congrArg Host.Outcome.next (takeSilAck_of_sil ha hk hi)
  · simp only [fabFailed, hq]

end Sys2Proof.Machine
end

section
/-! PROOF. Requests on contexts and objects (R31, R131, R266 to R270, R289, R291, R361). -/

namespace Sys2Proof.Machine

section
variable {z : ZjpReq} {opcode c : Nat} {s t u : State} {st sub : Nat} {r : List Byte}

/-- A request that is performed at once is answered with what its body gives (R361). -/
theorem zjpRun_of_result (h : ZjpAdmits z opcode s t) {body : State → ZjpResult × State} (hb : body t = (some (st, sub, r), u)) :
    zjpRun z opcode body s = zjpAnswer z.port z.reqId opcode z.ctx st sub r u := by
  rw [zjpRun_of_admits h, hb, zjpOutcome]

theorem zjpRun_of_none (h : ZjpAdmits z opcode s t) {body : State → ZjpResult × State} (hb : body t = (none, u)) : zjpRun z opcode body s = u := by
  rw [zjpRun_of_admits h, hb, zjpOutcome]

theorem zjpCounted_of_result (h : st ≠ zsHandleInvalid) : zjpCounted c (some (st, sub, r), u) = (some (st, sub, r), u) := by
  simp only [zjpCounted, if_neg h]

/-- A request on a live context is answered with what its body gives (R268). -/
theorem zjpLive_of_result (h : ZjpActs z opcode c s t) {body : Nat → State → ZjpResult × State} (hb : body c t = (some (st, sub, r), u))
    (hst : st ≠ zsHandleInvalid) : zjpLive z opcode body s = zjpAnswer z.port z.reqId opcode z.ctx st sub r u := by
  rw [zjpLive_of_acts h, hb, zjpCounted_of_result hst, zjpOutcome]

theorem zjpLive_of_none (h : ZjpActs z opcode c s t) {body : Nat → State → ZjpResult × State} (hb : body c t = (none, u)) : zjpLive z opcode body s = u := by
  rw [zjpLive_of_acts h, hb]
  rfl

/-- A handle that names no context of the port's identity refuses the request (R25, R268). -/
theorem zjpCtx_of_refused (h : ZjpAdmits z opcode s t) (hj : judgeCtx t ((boundTo? t z.port).getD 0) z.ctx ≠ zsOk)
    (body : Nat → State → ZjpResult × State) :
    zjpCtx z opcode body s = zjpAnswer z.port z.reqId opcode z.ctx (judgeCtx t ((boundTo? t z.port).getD 0) z.ctx) 0 [] t :=
  zjpRun_of_result h (if_pos hj)

/-- A context that is torn down refuses the request (R291). -/
theorem zjpLive_of_inactive (h : ZjpAdmits z opcode s t) (hj : judgeCtx t ((boundTo? t z.port).getD 0) z.ctx = zsOk)
    (hx : (ctxAt t (hSlot z.ctx)).any (fun x => x.state == .active) = false) (body : Nat → State → ZjpResult × State) :
    zjpLive z opcode body s = zjpAnswer z.port z.reqId opcode z.ctx zsStaleContext 0 [] t := by
  rw [zjpLive, zjpCtx]
  refine zjpRun_of_result h ((if_neg (not_not.mpr hj)).trans ?_)
  rw [if_neg (ne_true_of_eq_false hx)]
  exact zjpCounted_of_result (by decide)

end

/-- Settles O49: each admitted request is performed on the context that its handle names. -/
theorem contextRequestsArePerformed : Obligations.ContextRequestsArePerformed := by
  intro s t z done ok ident
  refine ⟨?_, fun c h => ?_, fun c x h hx => ?_, fun h => ⟨fun hc => ?_, fun hc => ?_⟩, ?_, ?_, fun c h va code => ⟨fun hl => ?_, fun hl hv => ?_, fun hl hv => ?_⟩, ?_,
    fun c h o h2 h9 hj ho => ⟨fun ht => ?_, ?_⟩, ?_, fun c h o peer hj ho hp hany => ?_, ?_⟩
  · intro h x st sub r hx
    exact congrArg Host.Outcome.next (zjpRun_of_result h (Prod.ext hx rfl))
  · refine congrArg Host.Outcome.next ((zjpCtx_of_acts h _).trans rfl)
  · refine congrArg Host.Outcome.next ((zjpCtx_of_acts h _).trans ?_)
    rw [hx]
    rfl
  · exact congrArg Host.Outcome.next (zjpRun_of_result h (if_neg (by simpa [Option.isSome_iff_ne_none] using hc)))
  · exact congrArg Host.Outcome.next (zjpRun_of_result h (if_pos (by simp [hc])))
  · intro c h g x st sub r hx hst
    exact congrArg Host.Outcome.next (zjpLive_of_result h (Prod.ext hx rfl) hst)
  · intro c h va n x st sub r hx hst
    exact congrArg Host.Outcome.next (zjpLive_of_result h (Prod.ext hx rfl) hst)
  · exact congrArg Host.Outcome.next (zjpLive_of_result h (if_pos hl) (by decide))
  · exact congrArg Host.Outcome.next (zjpLive_of_result h ((if_neg (Nat.not_lt.mpr hl)).trans (if_pos (by simp [hv]))) (by decide))
  · exact ⟨_, congrArg Host.Outcome.next (zjpLive_of_result h ((if_neg (Nat.not_lt.mpr hl)).trans (if_neg (by simp [hv]))) (by decide)), rfl⟩
  · intro c h d x st sub r hx hst
    exact congrArg Host.Outcome.next (zjpLive_of_result h (Prod.ext hx rfl) hst)
  · refine congrArg Host.Outcome.next (zjpLive_of_result h ?_ (by decide))
    simp only [h2, h9, decide_true, Bool.and_self, if_true, hj, ho, ht, ne_eq, not_true_eq_false, bne_self_eq_false, Bool.false_eq_true, if_false, List.isEmpty_nil]
    rfl
  · intro ht u
    refine congrArg Host.Outcome.next (zjpLive_of_none h ?_)
    have hne : (windowTags t o).isEmpty = false := by simpa using ht
    simp only [h2, h9, decide_true, Bool.and_self, if_true, hj, ho, hne, ne_eq, not_true_eq_false, bne_self_eq_false, Bool.false_eq_true, if_false]
    rfl
  · intro c h o e hj he waits
    refine ⟨fun hm hw => ?_, fun hw => ?_⟩
    · refine congrArg Host.Outcome.next (zjpLive_of_result h ?_ (by decide))
      have hw : t.heldRoles.any (fun r => r.endpoint == o) = false := hw
      simp only [hj, he, hm, hw, ne_eq, not_true_eq_false, if_false, Bool.not_false, Bool.and_self, if_true]
      rfl
    · refine congrArg Host.Outcome.next (zjpLive_of_none h ?_)
      have hwait : (mayAdvance t e && !t.heldRoles.any (fun r => r.endpoint == o)) = false := by
        rcases hw with hm | hw
        · simp [hm]
        · simp [show t.heldRoles.any (fun r => r.endpoint == o) = true from hw]
      simp only [hj, he, hwait, ne_eq, not_true_eq_false, if_false, Bool.false_eq_true]
  · refine congrArg Host.Outcome.next (zjpLive_of_result h ?_ (by decide))
    simp only [hj, ho, hp, hany, ne_eq, not_true_eq_false, if_false, bne_self_eq_false, Bool.false_eq_true, decide_false, Bool.not_true, Bool.or_self]
    rfl
  · intro g va n code d o peer p hp h
    have hone (op : Nat) (body : Nat → State → ZjpResult × State) (h : ZjpAdmits z op s t) :
        (∀ st, judgeCtx t ident z.ctx = st → st ≠ zsOk → Host.Outcome.next (zjpLive z op body s) = done op st 0 [] t) ∧
        (judgeCtx t ident z.ctx = zsOk → (ctxAt t (hSlot z.ctx)).any (fun x => x.state == .active) = false →
          Host.Outcome.next (zjpLive z op body s) = done op zsStaleContext 0 [] t) := by
      refine ⟨fun st hst hne => ?_, fun hj hx => congrArg Host.Outcome.next (zjpLive_of_inactive h hj hx body)⟩
      subst hst
      exact congrArg Host.Outcome.next (zjpCtx_of_refused h hne _)
    simp only [List.mem_cons, List.not_mem_nil, or_false] at hp
    rcases hp with rfl | rfl | rfl | rfl | rfl | rfl | rfl
    all_goals exact hone _ _ h

end Sys2Proof.Machine
end

section
/-! PROOF. Serving, SERVICE entries and RDMA (R358, R365 to R367). -/

namespace Sys2Proof.Machine

/-! ## Entries that need a queue pair (R366) -/

theorem port_of_takes {die slot : Nat} {s t : State} {j : SvcJob} (h : SvcTakes die slot s j t) : j.port = die := by
  obtain ⟨_, _, _, _, _, _, _, _, _, _, _, _, _, hj⟩ := h
  rw [hj]

section
variable {j : SvcJob} {t : State} {q : QueuePair}

theorem svcQp_of_error (hq : qpOf t j.port (svQpn j.entry) = some q) (hc : q.ctx = ctxHandle t j.run.ctx) (he : q.error = true)
    (body : QueuePair → State → State) : svcQp j body t = svcDone j zsTimeout 0xB0 t := by
  simp only [svcQp, hq, hc, bne_self_eq_false, Bool.false_eq_true, if_false, he, if_true]

theorem svcQp_of_open (hq : qpOf t j.port (svQpn j.entry) = some q) (hc : q.ctx = ctxHandle t j.run.ctx) (he : q.error = false)
    (body : QueuePair → State → State) : svcQp j body t = body q t := by
  simp only [svcQp, hq, hc, bne_self_eq_false, Bool.false_eq_true, if_false, he]

/-- What RDMA_WRITE and SEND do with a pair that is open: the bytes are read, then launched (R366). -/
theorem svcTransmit_of_ok (hq : qpOf t j.port (svQpn j.entry) = some q) (hc : q.ctx = ctxHandle t j.run.ctx) (he : q.error = false) {b : List Byte} {u : State}
    (hr : svcRead j.port j.run.ctx (svLocal j.entry) (svLen j.entry) t = (.ok b, u)) : svcTransmit j t = svcLaunch j q (rocePkts (svLen j.entry)) b u := by
  rw [svcTransmit, svcQp_of_open hq hc he, hr]

theorem svcTransmit_of_failed (hq : qpOf t j.port (svQpn j.entry) = some q) (hc : q.ctx = ctxHandle t j.run.ctx) (he : q.error = false) {c v : Nat} {u : State}
    (hr : svcRead j.port j.run.ctx (svLocal j.entry) (svLen j.entry) t = (.error (c, v), u)) : svcTransmit j t = svcDone j c v u := by
  rw [svcTransmit, svcQp_of_open hq hc he, hr]

end

section
variable {z : ZjpReq} {opcode c : Nat} {s t u : State}

theorem zjpCtx_of_none (h : ZjpActs z opcode c s t) {body : Nat → State → ZjpResult × State} (hb : body c t = (none, u)) : zjpCtx z opcode body s = u := by
  rw [zjpCtx_of_acts h, hb]
  rfl

theorem zjpCtx_of_result (h : ZjpActs z opcode c s t) {body : Nat → State → ZjpResult × State} {st sub : Nat} {r : List Byte}
    (hb : body c t = (some (st, sub, r), u)) (hst : st ≠ zsHandleInvalid) : zjpCtx z opcode body s = zjpAnswer z.port z.reqId opcode z.ctx st sub r u := by
  rw [zjpCtx_of_acts h, hb, zjpCounted_of_result hst, zjpOutcome]

end

/-! ## Inbound accesses (R367) -/

section
variable {port qpn psn pkts : Nat} {t : State} {q : QueuePair} {again k : State → State}

theorem inPsn_of_equal (hq : qpOf t port qpn = some q) (h : serialCmp psn q.peerPsn 24 = .equal) :
    inPsn port qpn psn pkts again k t = k (modQp port qpn (fun q => { q with peerPsn := (q.peerPsn + pkts) % 2 ^ 24 }) t) := by
  simp only [inPsn, hq, if_pos h]

theorem inPsn_of_newer (hq : qpOf t port qpn = some q) (h : serialCmp psn q.peerPsn 24 = .newer) : inPsn port qpn psn pkts again k t = roceReply port qpn 7 t := by
  have hne : ¬ serialCmp psn q.peerPsn 24 = .equal := by rw [h]; decide
  simp only [inPsn, hq, if_neg hne, if_pos h]

theorem inPsn_of_repeated (hq : qpOf t port qpn = some q) (he : serialCmp psn q.peerPsn 24 ≠ .equal) (hn : serialCmp psn q.peerPsn 24 ≠ .newer) :
    inPsn port qpn psn pkts again k t = again t := by
  simp only [inPsn, hq, if_neg he, if_neg hn]

end

/-- Settles O50: each request, entry, packet and time-out takes the branch that its checks select. -/
theorem serviceTrafficCompletes : Obligations.ServiceTrafficCompletes := by
  intro s t
  refine ⟨?_, fun port id v hv => ?_, fun die slot j ht => ⟨fun hop => ⟨fun hn => ?_, fun v hv => ⟨fun hl => ?_, ?_⟩⟩, fun q hq hc => ⟨fun he c hcm hop => ?_, fun he => ⟨fun hop => ?_, ?_⟩⟩⟩,
    fun port f qpn psn hr => ⟨?_, fun q rkey va hq => ⟨?_, ?_⟩⟩, fun port qpn q hq he => ⟨?_, fun h7 => ?_⟩⟩
  · intro z ok
    refine ⟨?_, fun c h qpn hany => ?_, ?_, fun c h k hany => ?_, ?_⟩
    · intro c h peer psn qpn hp hs hq hl hn own
      refine congrArg Host.Outcome.next (zjpLive_of_result h ((if_neg ?_).trans ((if_neg (Nat.not_le.mpr hl)).trans (if_neg ?_))) (by decide))
      · simp only [Bool.or_eq_true, decide_eq_true_eq]
        omega
      · simp [hn]
    · exact congrArg Host.Outcome.next (zjpLive_of_result h (if_neg (by simp only [hany]; decide)) (by decide))
    · intro c h va len perm hva hlen hmod hend h1 h3 k
      refine congrArg Host.Outcome.next (zjpLive_of_result h (if_neg ?_) (by decide))
      simp only [Bool.or_eq_true, decide_eq_true_eq]
      omega
    · exact congrArg Host.Outcome.next (zjpLive_of_result h (if_neg (by simp only [hany]; decide)) (by decide))
    · intro c h o inline h16 h56 hto hz hroom hj x
      have hj : judgeHandle t (ctxHandle t c) (BitVec.ofNat 64 (bytesAt z.body 0 8)) 9 = zsOk := hj
      have hform : ¬ (decide (z.body.length < 16) || decide (z.body.length > 56) || decide (bytesAt z.body 10 2 = 0) || decide (bytesAt z.body 12 4 ≠ 0)) = true := by
        simp only [Bool.or_eq_true, decide_eq_true_eq]
        omega
      refine ⟨fun hx => ?_, fun hx hi => ?_⟩
      · have hx : judgeEntry (BitVec.ofNat 64 (bytesAt z.body 0 8)) (bytesAt z.body 8 2) (serveEntry t 5 z.port z.reqId (z.body.drop 16))
            (serveEntry t 4 z.port z.reqId (z.body.drop 16)) t = (zsOk, x.2) := Prod.ext hx rfl
        refine congrArg Host.Outcome.next (zjpCtx_of_none h ((if_neg hform).trans ((if_neg (Nat.not_le.mpr hroom)).trans ((if_neg (not_not.mpr hj)).trans ?_))))
        simp only [hx, ne_eq, not_true_eq_false, if_false]
        rfl
      · refine congrArg Host.Outcome.next (zjpCtx_of_result h ((if_neg hform).trans ((if_neg (Nat.not_le.mpr hroom)).trans ((if_neg (not_not.mpr hj)).trans ?_))) hi)
        exact if_pos hx
  · simp only [exec, execServeTimeout, hv]
  · refine congrArg Host.Outcome.next ((svcStart_of_takes ht _ (by simp [hop]) _).trans ?_)
    simp only [hn]
  · refine congrArg Host.Outcome.next ((svcStart_of_takes ht _ (by simp [hop]) _).trans ?_)
    simp only [hv, if_pos hl]
  · intro hl x
    refine ⟨fun b hb => ?_, fun e he => ?_⟩
    · refine congrArg Host.Outcome.next ((svcStart_of_takes ht _ (by simp [hop]) _).trans ?_)
      have hx : svcRead die j.run.ctx (svLocal j.entry) (svLen j.entry) t = (.ok b, x.2) := Prod.ext hb rfl
      simp only [hv, if_neg hl, hx]
    · refine congrArg Host.Outcome.next ((svcStart_of_takes ht _ (by simp [hop]) _).trans ?_)
      have hx : svcRead die j.run.ctx (svLocal j.entry) (svLen j.entry) t = (.error e, x.2) := Prod.ext he rfl
      simp only [hv, if_neg hl, hx]
  · rw [← port_of_takes ht] at hq
    simp only [List.mem_cons, List.not_mem_nil, or_false] at hcm
    rcases hcm with rfl | rfl | rfl
    · exact congrArg Host.Outcome.next ((svcStart_of_takes ht _ (by simp [hop]) _).trans (svcQp_of_error hq hc he _))
    · exact congrArg Host.Outcome.next ((svcStart_of_takes ht _ (by simp [hop]) _).trans (svcQp_of_error hq hc he _))
    · exact congrArg Host.Outcome.next ((svcStart_of_takes ht _ (by simp [hop]) _).trans (svcQp_of_error hq hc he _))
  · rw [← port_of_takes ht] at hq
    exact congrArg Host.Outcome.next ((svcStart_of_takes ht _ (by simp [hop]) _).trans (svcQp_of_open hq hc he _))
  · intro c hcm hop x
    have hport := port_of_takes ht
    rw [← hport] at hq
    have hexec : exec c.2 s = .next (svcTransmit j t) := by
      simp only [List.mem_cons, List.not_mem_nil, or_false] at hcm
      rcases hcm with rfl | rfl
      · exact congrArg Host.Outcome.next (svcStart_of_takes ht _ (by simp [hop]) _)
      · exact congrArg Host.Outcome.next (svcStart_of_takes ht _ (by simp [hop]) _)
    have hread {r : Except (Nat × Nat) (List Byte)} (h : x.1 = r) : svcRead j.port j.run.ctx (svLocal j.entry) (svLen j.entry) t = (r, x.2) := by
      rw [hport]
      exact Prod.ext h rfl
    exact ⟨fun b hb => hexec.trans (congrArg Host.Outcome.next (svcTransmit_of_ok hq hc he (hread hb))),
      fun e h => hexec.trans (congrArg Host.Outcome.next (svcTransmit_of_failed hq hc he (hread h)))⟩
  · intro r data hrun u
    have hexec : exec (.serviceEntryAcked port ⟨f, qpn, psn⟩ data) s = .next (
        if r.op ≠ 3 then svcComplete port r zsOk 0 [] u
        else if (ctxAt u r.ctx).all (fun x => x.state != .active) then svcComplete port r zsStaleContext 0 [] u
        else
          match gWriteC (engAt port 21) r.ctx r.loc (clean ((data ++ zeros (r.len - data.length)).take r.len)) [] u with
          | (some (c, u, _), s) => svcComplete port r c u [] s
          | (none, s) => svcComplete port r zsOk 0 [] s) := by
      refine congrArg Host.Outcome.next ((onRoce_of_roceOn hr _).trans ?_)
      simp only [hrun]
      rfl
    refine ⟨fun hop => hexec.trans (congrArg Host.Outcome.next (if_pos hop)), ?_⟩
    intro hop hact x
    have hlive : (ctxAt u r.ctx).all (fun x => x.state != .active) = false := by
      cases hx : ctxAt u r.ctx with
      | none => simp [hx] at hact
      | some y => simpa [hx] using hact
    have hexec := hexec.trans (congrArg Host.Outcome.next ((if_neg (not_not.mpr hop)).trans (if_neg (ne_true_of_eq_false hlive))))
    refine ⟨fun h => hexec.trans ?_, fun e h => hexec.trans ?_⟩
    · have hx : gWriteC (engAt port 21) r.ctx r.loc (clean ((data ++ zeros (r.len - data.length)).take r.len)) [] u = (none, x.2) := Prod.ext h rfl
      simp only [hx]
    · have hx : gWriteC (engAt port 21) r.ctx r.loc (clean ((data ++ zeros (r.len - data.length)).take r.len)) [] u = (some e, x.2) := Prod.ext h rfl
      simp only [hx]
  · intro data w
    refine ⟨fun hp => ⟨?_, fun hn => ?_⟩, fun hp => congrArg Host.Outcome.next ((onRoce_of_roceOn hr _).trans (inPsn_of_newer hq hp)),
      fun he hn => congrArg Host.Outcome.next ((onRoce_of_roceOn hr _).trans (inPsn_of_repeated hq he hn))⟩
    · intro c hcx x hx
      refine congrArg Host.Outcome.next ((onRoce_of_roceOn hr _).trans ((inPsn_of_equal hq hp).trans ?_))
      have hx : inboundWrite port c va (clean data) w = (none, x.2) := Prod.ext hx rfl
      simp only [w] at hcx hx
      simp only [hcx, hx]
    · refine congrArg Host.Outcome.next ((onRoce_of_roceOn hr _).trans ((inPsn_of_equal hq hp).trans ?_))
      simp only [w] at hn
      simp only [hn]
      rfl
  · intro len w
    refine ⟨fun hp => ⟨?_, fun hn => ?_⟩, fun hp => congrArg Host.Outcome.next ((onRoce_of_roceOn hr _).trans (inPsn_of_newer hq hp)),
      fun he hn => congrArg Host.Outcome.next ((onRoce_of_roceOn hr _).trans (inPsn_of_repeated hq he hn))⟩
    · intro c hcx x b hb
      refine congrArg Host.Outcome.next ((onRoce_of_roceOn hr _).trans ((inPsn_of_equal hq hp).trans ?_))
      have hb : svcRead port c va len w = (.ok b, x.2) := Prod.ext hb rfl
      simp only [w] at hcx hb
      simp only [inboundRead, hcx, hb]
    · refine congrArg Host.Outcome.next ((onRoce_of_roceOn hr _).trans ((inPsn_of_equal hq hp).trans ?_))
      simp only [w] at hn
      simp only [inboundRead, hn]
      rfl
  · intro r acked hst hrun a tries n ht
    simp only [exec, execRoceRetryTimeout, hq, hrun]
    refine congrArg Host.Outcome.next (if_neg ?_)
    simp only [he, hst, Bool.false_or, ne_eq, not_true_eq_false, decide_false, Bool.or_false, decide_eq_true_eq, ge_iff_le, Nat.not_le]
    exact ht
  · simp only [exec, execQpRetryExhausted, hq]
    exact congrArg Host.Outcome.next (if_neg (by simp [he, h7]))

end Sys2Proof.Machine
end

section
/-! PROOF. Management, ATTEST and TEST_SUSPECT requests (R341, R363, R387, R412, R424, R430 to R438, R453). -/

namespace Sys2Proof.Machine

/-! ## An admitted request and its answer (R364) -/

theorem zjpNote_rest (port opcode ident : Nat) (s : State) : ∃ r y, zjpNote port opcode ident s = { s with regs := r, dryRing := y } := by
  unfold zjpNote
  dsimp only
  split
  · exact ⟨_, _, rfl⟩
  · exact ⟨_, _, rfl⟩

/-- An admitted request leaves the package's power state as it was. -/
theorem sys_of_admits {z : ZjpReq} {opcode : Nat} {s t : State} (h : ZjpAdmits z opcode s t) : t.sys = s.sys := by
  obtain ⟨ident, s1, hh, -, -, -, -, rfl⟩ := h
  obtain ⟨r, y, hn⟩ := zjpNote_rest z.port opcode ident s1
  rw [zjpTake, hn, (heard_rest hh).1]
  rfl

theorem bound_of_admits {z : ZjpReq} {opcode : Nat} {s t : State} (h : ZjpAdmits z opcode s t) : (boundTo? t z.port).isSome = true := by
  obtain ⟨ident, s1, ⟨s0, hf, hs, hst, hb, rfl⟩, -, -, -, -, rfl⟩ := h
  obtain ⟨r, y, hn⟩ := zjpNote_rest z.port opcode ident (zjpHeard z.port s0)
  have hsvc : boundTo? (zjpTake z opcode ident (zjpHeard z.port s0)) z.port = boundTo? s0 z.port := by
    have hheard : (svcOf (zjpHeard z.port s0) z.port).bound = (svcOf s0 z.port).bound := by rw [zjpHeard, svcOf_modSvc, if_pos rfl]
    rw [zjpTake, hn]
    exact hheard
  rw [hsvc, hb]
  rfl

/-- A fresh request has not been answered. -/
theorem unanswered_of_admits {z : ZjpReq} {opcode : Nat} {s t : State} (h : ZjpAdmits z opcode s t) :
    (cacheOf s z.port).answered.any (fun r => r.reqId == z.reqId) = false := by
  obtain ⟨ident, s1, hh, hv, -⟩ := h
  have hc : cacheOf s1 z.port = cacheOf s z.port := by rw [cacheOf, zjp_of_heard hh, cacheOf]
  rw [hc, cacheView] at hv
  split at hv
  next => exact absurd hv (by simp)
  next hn =>
    rw [List.any_eq_false]
    exact List.find?_eq_none.mp hn

/-- Success is reported on no page. -/
theorem zjpError_ok (port : Nat) (ctx : Word) (s : State) : zjpError port ctx zsOk 0 s = s :=
  if_pos (by rw [show portReports zsOk 0 = false by decide]; simp)

/-- The response that is kept last is among those kept. -/
theorem any_of_kept (l : List ZjpResp) {r : ZjpResp} {p : ZjpResp → Bool} (h : p r = true) :
    (if (l ++ [r]).length > 1024 then (l ++ [r]).drop 1 else l ++ [r]).any p = true := by
  split
  next hlen =>
    cases l with
    | nil => exact absurd hlen (by simp)
    | cons x l => simp [h]
  next => simp [h]

theorem answered_zjpKeep (port : Nat) (r : ZjpResp) (s : State) : (cacheOf (zjpKeep port r s) port).answered =
    if ((cacheOf s port).answered ++ [r]).length > 1024 then ((cacheOf s port).answered ++ [r]).drop 1 else (cacheOf s port).answered ++ [r] := by
  rw [zjpKeep, cacheOf, modCache, tgetD_tmod_self]
  rfl

/-- An answer to a bound partner is kept (R364). -/
theorem answered_of_admits {z : ZjpReq} {opcode : Nat} {s t : State} (h : ZjpAdmits z opcode s t) (b : List Byte) :
    answered z s (zjpAnswer z.port z.reqId opcode z.ctx zsOk 0 b t) = true := by
  have hkept : (cacheOf (zjpAnswer z.port z.reqId opcode z.ctx zsOk 0 b t) z.port).answered.any (fun r => r.reqId == z.reqId && r.status == zsOk) = true := by
    rw [zjpAnswer, zjpError_ok, zjpDeliver, if_pos (bound_of_admits h)]
    have hany := any_of_kept (cacheOf t z.port).answered (r := ⟨z.reqId, opcode, z.ctx, zsOk, 0, incarnation t, b⟩)
      (p := fun r => r.reqId == z.reqId && r.status == zsOk) (by simp)
    rw [← answered_zjpKeep] at hany
    exact hany
  simp only [answered, hkept, unanswered_of_admits h, Bool.not_false, Bool.and_self]

/-! ## Bodies of requests -/

theorem powerSet_active {z : ZjpReq} {t : State} (hl : z.body.length = 1) (he : t.sys.entering = none) (hr : resetPhase t = 0) (h3 : bytesAt z.body 0 1 = 3) :
    powerSet z t = (some (zsOk, 0, []), t) := by
  simp [powerSet, hl, he, hr, h3, zjpOk]

/-- The spare bank after an image was taken: it holds the image, and no pulled one stands there (R434). -/
def imageTaken (z : ZjpReq) (t : State) : State :=
  modSys (fun y => { y with imageWrite := some (z.port, z.reqId) }) (modSys (fun y => { y with
    pulledBank := if y.pulledBank = some (spareBank t) then none else y.pulledBank }) (setBank (spareBank t) ⟨z.body.take 4096, z.body.drop 4096, none⟩ t))

/-- A quote with its signature and certificates (R438). -/
def signedQuote (c : Option Nat) (z : ZjpReq) (t : State) : List Byte :=
  quoteBody t c z.body ++ toBytes 132 (Config.quoteSig t.draws).toNat ++ Config.akCert (mFw t) ++ Config.deviceCerts

theorem attest_of_nonce {z : ZjpReq} (c : Option Nat) (t : State) (hl : z.body.length = 64) :
    attest c z t = (some (zsOk, 0, signedQuote c z t), { t with draws := t.draws + 1 }) := by
  rw [attest, if_neg (not_not.mpr hl)]
  rfl

theorem take_quote (c : Option Nat) (z : ZjpReq) (t : State) : (signedQuote c z t).take 4 = toBytes 4 0x4F55515A := by
  simp only [signedQuote, quoteBody, List.append_assoc]
  exact List.take_left' (length_toBytes 4 _)

/-- Settles O51: each admitted request is performed by its body and answered. -/
theorem managementRequestsArePerformed : Obligations.ManagementRequestsArePerformed := by
  intro s t z ok
  refine ⟨fun h => congrArg Host.Outcome.next (zjpRun_of_result h rfl), fun h hl hn => ?_, fun h p => congrArg Host.Outcome.next (zjpRun_of_result h rfl),
    fun h f => congrArg Host.Outcome.next (zjpRun_of_result h rfl), fun h hf => ?_, fun h hl he hr => ⟨fun h3 hp => ?_, fun h3 hp => ?_, fun h1 h2 hp hc ht => ?_⟩,
    fun h hi hf => ?_, ?_, fun h hc r => ?_, fun port id r hw hr hf => ?_, fun hl => ⟨fun hz h => ?_, fun hz c h => ?_⟩, ?_⟩
  · exact congrArg Host.Outcome.next (zjpRun_of_result h (if_neg (by simp [hl, hn])))
  · have ht : zjpRun z 0x0107 (fun s => if failedNow s && tooHot s then recErr pwrPage 0xFFF 0xE3 zsDenied s |> zjpFail zsDenied 0xE3 else zjpOk [] s) s
        = zjpAnswer z.port z.reqId 0x0107 z.ctx zsOk 0 [] t := zjpRun_of_result h (if_neg (by simp [hf]))
    simp only [exec, execRecoveryReset, ht, answered_of_admits h, if_true]
  · have ht : zjpRun z 0x0108 (powerSet z) s = zjpAnswer z.port z.reqId 0x0108 z.ctx zsOk 0 [] t := zjpRun_of_result h (powerSet_active hl he hr h3)
    have hon : ¬ s.sys.power = .dormant := by
      rw [← sys_of_admits h, hp]
      decide
    simp only [exec, execPowerSet, ht, answered_of_admits h, hon, decide_false, Bool.and_false, Bool.false_and, Bool.false_eq_true, if_false]
    rfl
  · have ht : zjpRun z 0x0108 (powerSet z) s = zjpAnswer z.port z.reqId 0x0108 z.ctx zsOk 0 [] t := zjpRun_of_result h (powerSet_active hl he hr h3)
    have hdormant : s.sys.power = .dormant := by rw [← sys_of_admits h, hp]
    simp only [exec, execPowerSet, ht, answered_of_admits h, hdormant, h3, decide_true, Bool.and_self, if_true]
  · have hgo : powerSet z t = (none, modSys (fun y => { y with entering := some ⟨bytesAt z.body 0 1, z.port, z.reqId, false⟩ }) t) := by
      have h0 : ¬ bytesAt z.body 0 1 = 0 := by omega
      have h3 : ¬ bytesAt z.body 0 1 = 3 := by omega
      have hle : ¬ bytesAt z.body 0 1 > 3 := by omega
      have ht : ¬ 2 ≤ twinState t := by omega
      simp [powerSet, hl, he, hr, h0, h3, hle, hp, hc, ht]
    have ht : zjpRun z 0x0108 (powerSet z) s = modSys (fun y => { y with entering := some ⟨bytesAt z.body 0 1, z.port, z.reqId, false⟩ }) t := zjpRun_of_none h hgo
    have hon : ¬ s.sys.power = .dormant := by
      rw [← sys_of_admits h, hp]
      decide
    simp only [exec, execPowerSet, ht, hon, decide_false, Bool.and_false, Bool.false_and, Bool.false_eq_true, if_false]
  · refine ⟨imageTaken z t, congrArg Host.Outcome.next (zjpRun_of_none h ?_), rfl, rfl, ?_, fun i hne => ?_⟩
    · simp only [imageWrite, hi, Option.isSome_none, Bool.false_eq_true, if_false, hf]
      rfl
    · exact (getD_lset _ _ _ _ _).trans (if_pos rfl)
    · exact (getD_lset _ _ _ _ _).trans (if_neg hne)
  · intro port id hw i
    simp only [exec, execImageWriteComplete, hw]
    rfl
  · exact congrArg Host.Outcome.next (zjpRun_of_none h (if_neg (by simp [hc])))
  · simp only [exec, execConfigWriteComplete, hw]
    have hnone : (cfgOf (modSys (fun y => { y with cfgWrite := none }) s) (spareCfg (modSys (fun y => { y with cfgWrite := none }) s))).bind
        (cfgFails (modSys (fun y => { y with cfgWrite := none }) s)) = none := (congrArg (fun o => Option.bind o (cfgFails s)) hr).trans hf
    simp only [hnone]
  · have ha := attest_of_nonce none t hl
    exact ⟨_, _, ha, congrArg Host.Outcome.next ((if_pos hz).trans (zjpRun_of_result h ha)), rfl, take_quote none z t⟩
  · have ha := attest_of_nonce (some c) t hl
    exact ⟨_, _, ha, congrArg Host.Outcome.next ((if_neg hz).trans (zjpLive_of_result h ha (by decide))), rfl, take_quote (some c) z t⟩
  · intro c h hl hreason hz hsus hat dies u
    have hform : ¬ (decide (z.body.length ≠ 8) || !(bytesAt z.body 1 1 == 1 || bytesAt z.body 1 1 == 2) || decide (bytesAt z.body 2 6 ≠ 0)) = true := by
      rcases hreason with h1 | h2
      · simp [hl, h1, hz]
      · simp [hl, h2, hz]
    have hfree : ¬ (t.suspects.any (fun r => r.ctx == z.ctx) || (tget? t.suspectAt c).any (fun x => t.time < x + suspectHoldoff t)) = true := by
      rw [hsus, hat]
      decide
    refine ⟨fun hd => ?_, ?_⟩
    · refine congrArg Host.Outcome.next (zjpLive_of_result h ((if_neg hform).trans ((if_neg hfree).trans (if_pos ?_))) (by decide))
      exact List.isEmpty_iff.mpr hd
    · intro hd w
      refine congrArg Host.Outcome.next (zjpLive_of_none h ((if_neg hform).trans ((if_neg hfree).trans ((if_neg ?_).trans rfl))))
      exact fun he => hd (List.isEmpty_iff.mp he)

end Sys2Proof.Machine
end

section
/-! PROOF. The phases of a recovery reset (R413, R418, R419). -/

namespace Sys2Proof.Machine

/-- A page that does not answer is noted once, with the words that it gave, and logged (R413). -/
theorem dumpNoResponse_notes {s : State} (hphase : resetPhase s = 2) (page off : Nat) {p : PageRef} (hp : pageOf page = some p)
    (hnew : tget? s.sys.noResp p.addr = none) : ∃ t, exec (.dumpNoResponse page off) s = .next t ∧
      t = { s with sys := t.sys, regs := t.regs, dryRing := t.dryRing, intRaised := t.intRaised } ∧
      tget? t.sys.noResp p.addr = some (min 124 (off % 4096 / 4)) := by
  have hexec : exec (.dumpNoResponse page off) s = .next (logDry 15 14 0x0007 [p.addr % 2 ^ 32, p.addr / 2 ^ 32, off % 4096]
      (modSys (fun y => { y with noResp := tset y.noResp p.addr (min 124 (off % 4096 / 4)) }) s)) := by
    simp only [exec, execDumpNoResponse, hphase, hp, hnew, ne_eq, not_true_eq_false, if_false, Option.isSome_none, Bool.false_eq_true]
  exact ⟨_, hexec, rfl, tget?_tset_self s.sys.noResp p.addr _⟩

/-- The cut of the dump is noted once and logged (R413). -/
theorem dumpCut_notes {s : State} (hphase : resetPhase s = 2) (pages : Nat) (hnew : s.sys.cut = none) :
    ∃ t, exec (.dumpCut pages) s = .next t ∧
      t = { s with sys := t.sys, regs := t.regs, dryRing := t.dryRing, intRaised := t.intRaised } ∧ t.sys.cut = some pages :=
  ⟨logDry 15 14 0x0009 [pages] (modSys (fun y => { y with cut := some pages }) s),
    congrArg Host.Outcome.next (if_neg (by simp [hphase, hnew])), rfl, rfl⟩

/-- Settles O54: every phase's end is its row of `execRecoveryPhaseComplete`; an overrun and the limit act while a reset runs. -/
theorem resetPhasesRunInOrder : Obligations.ResetPhasesRunInOrder := by
  unfold Obligations.ResetPhasesRunInOrder
  intro s bad
  refine ⟨fun hon => ?_, fun hrun hkind => congrArg Host.Outcome.next (if_neg (by simp [hrun, hkind])), fun hphase =>
    ⟨fun page off p hp hnew => dumpNoResponse_notes hphase page off hp hnew, fun pages hnew => dumpCut_notes hphase pages hnew⟩⟩
  have hexec : exec (.recoveryPhaseComplete bad) s = execRecoveryPhaseComplete bad s := rfl
  simp only [hexec, execRecoveryPhaseComplete, hon, Bool.false_eq_true, if_false]
  refine ⟨fun h => ?_, fun h hrst => ?_, fun h hpull => ⟨fun u hboot => ?_, fun hboot => ?_⟩, fun h => ?_, fun h => ?_, fun h => ?_, fun h => ?_,
    fun h => ?_, fun hrun => congrArg Host.Outcome.next (if_neg (by simp [hrun, hon]))⟩
  · simp only [h]
  · simp only [h, hrst, Bool.false_eq_true, if_false]
  · simp only [h, hpull, hboot, Option.isSome_none, Bool.false_eq_true, if_false]
  · simp only [h, hpull, hboot, Option.isSome_none, Bool.false_eq_true, if_false]
  · simp only [h]
  · simp only [h]
  · simp only [h]
  · simp only [h]
  · simp only [h]

end Sys2Proof.Machine
end

section
/-! PROOF. SMBus, JTAG, the twin slot and the image pull (R402, R433, R434, R439, R441, R464, R468, R469). -/

namespace Sys2Proof.Machine

/-! ## SMBus (R464) -/

/-- A read of DATA outside what SMBus may read gives 0 and is noted as refused (R464). -/
theorem smbData_refused {s : State} (hon : serialOn s = true) (hbad : smbReadable s.sys.smbPtr = false) :
    exec .smbData s = .next (emit (.serial 0) (modSys (fun y => { y with smbPtr := (s.sys.smbPtr + 4) % 2 ^ 28, smbRefused := true }) s)) := by
  simp only [exec, execSmbData, hon, hbad, Bool.not_true, Bool.not_false, Bool.false_eq_true, if_false]
  split
  · rfl
  · rfl

/-- A read of DATA at a page that SMBus may read gives the word that the pointer names (R464). -/
theorem smbData_reads {s : State} (hon : serialOn s = true) (hok : smbReadable s.sys.smbPtr = true) {r : PageRef}
    (hr : pageOf (ctlBase 15 + s.sys.smbPtr) = some r) :
    exec .smbData s = .next (emit (.serial (dumpWord s r (s.sys.smbPtr % 4096)))
      (modSys (fun y => { y with smbPtr := (s.sys.smbPtr + 4) % 2 ^ 28, smbRefused := false }) s)) := by
  simp only [exec, execSmbData, hon, hok, hr, Bool.not_true, Bool.false_eq_true, if_false, if_true]

/-- The acknowledged sources no longer hold the alert (R464). -/
theorem smbAlert_of_acked {s : State} (h : s.sys.smbAcked = bntPending s) : smbAlert s = false := by
  simp [smbAlert, h, Nat.and_self]

theorem alertResponseRead_releases {s : State} (halert : smbAlert s = true) : ∃ t, exec .alertResponseRead s = .next t ∧
    t = { s with sys := { s.sys with smbAcked := bntPending s }, outbox := t.outbox } ∧
    t.outbox = s.outbox ++ [.serial (0x58 + bits (reg s (pageAddr .pcd 15 0 0 + Reg.PCD_LANDS)) 5 4)] ∧ smbAlert t = false :=
  ⟨_, congrArg Host.Outcome.next (if_pos halert), rfl, rfl, smbAlert_of_acked rfl⟩

/-! ## JTAG (R439, R468) -/

/-- An authorisation is judged good only for a scope that there is (R439). -/
theorem scope_of_authJudged {s : State} {a : DbgAuth} (h : authJudged s a = (zsOk, 0)) : a.scope = 1 ∨ a.scope = 2 := by
  by_contra hscope
  have hform : (a.scope == 1 || a.scope == 2) = false := by simpa using hscope
  unfold authJudged at h
  simp only [hform, Bool.not_false, if_true] at h
  split at h
  · exact absurd h (by decide)
  · split at h
    · exact absurd h (by decide)
    · split at h
      · exact absurd h (by decide)
      · split at h
        · exact absurd h (by decide)
        · exact absurd h (by decide)

/-- The debug state register after a good authorisation: its status, and then the scope with the gate open (R439). -/
def gateOpened (scope : Nat) (s : State) : State :=
  setField (orsPage + Reg.ORS_DBG_STATE) 2 0 (scope + 4) (setPend orsPage 8 (setField (orsPage + Reg.ORS_DBG_STATE) 15 8 zsOk s))

theorem gateOpened_rest (scope : Nat) (s : State) : ∃ r i, gateOpened scope s = { s with regs := r, intRaised := i } := by
  obtain ⟨r, i, h⟩ := setPend_rest orsPage 8 (setField (orsPage + Reg.ORS_DBG_STATE) 15 8 zsOk s)
  rw [gateOpened, h]
  exact ⟨_, _, rfl⟩

theorem dbgScope_gateOpened {scope : Nat} (hscope : scope = 1 ∨ scope = 2) (s : State) :
    bits (reg (gateOpened scope s) (orsPage + Reg.ORS_DBG_STATE)) 2 0 = scope + 4 := by
  rw [gateOpened, bits_reg_setField _ _ _ (by decide) (by decide)]
  omega

theorem dbgStatus_gateOpened (scope : Nat) (s : State) : bits (reg (gateOpened scope s) (orsPage + Reg.ORS_DBG_STATE)) 15 8 = zsOk := by
  rw [gateOpened, bits_reg_setField_other _ _ _ (by decide) (by decide) (by decide) (by decide), reg_setPend_ne _ _ (by decide),
    bits_reg_setField _ _ _ (by decide) (by decide)]
  rfl

/-- The package after a good authorisation: the gate is open for its duration, and the nonce is a new one (R439). -/
def authorised (a : DbgAuth) (s : State) : State :=
  newNonce (modSys (fun y => { y with dbgEnds := s.time + a.duration }) (gateOpened a.scope (modSys (fun y => { y with tapIr := 2 }) s)))

theorem exec_auth {s : State} {a : DbgAuth} (hon : tapOn s = true) (hok : authJudged s a = (zsOk, 0)) :
    exec (.auth a) s = .next (authorised a s) := by
  simp only [exec, execAuth, hon, hok, Bool.not_true, Bool.false_eq_true, if_false, if_true, setPend_frame]
  rfl

theorem authorised_rest (a : DbgAuth) (s : State) : ∃ r i, authorised a s =
    { s with regs := r, intRaised := i, sys := { s.sys with tapIr := 2, dbgEnds := s.time + a.duration }, draws := s.draws + 1 } := by
  obtain ⟨r, i, h⟩ := gateOpened_rest a.scope (modSys (fun y => { y with tapIr := 2 }) s)
  rw [authorised, h]
  exact ⟨_, _, rfl⟩

theorem dbgState_authorised (a : DbgAuth) (s : State) : reg (authorised a s) (orsPage + Reg.ORS_DBG_STATE) =
    reg (gateOpened a.scope (modSys (fun y => { y with tapIr := 2 }) s)) (orsPage + Reg.ORS_DBG_STATE) :=
  reg_setReg_ne _ _ (by decide)

/-- Bit 2 of the debug state shows the gate, bits 1 and 0 the scope (R439). -/
theorem gate_scope_of_bits {w scope : Nat} (hscope : scope = 1 ∨ scope = 2) (h : bits w 2 0 = scope + 4) :
    bits w 1 0 = scope % 4 ∧ bit w 2 = true := by
  simp only [bits, bit, Nat.shiftRight_eq_div_pow, beq_iff_eq] at h ⊢
  obtain rfl | rfl := hscope <;> omega

theorem auth_opens {s : State} {a : DbgAuth} (hon : tapOn s = true) (hok : authJudged s a = (zsOk, 0)) : ∃ t, exec (.auth a) s = .next t ∧
    t = { s with regs := t.regs, intRaised := t.intRaised, sys := { s.sys with tapIr := 2, dbgEnds := s.time + a.duration }, draws := s.draws + 1 } ∧
    bits (reg t (orsPage + Reg.ORS_DBG_STATE)) 1 0 = a.scope % 4 ∧ bit (reg t (orsPage + Reg.ORS_DBG_STATE)) 2 = true ∧
    bits (reg t (orsPage + Reg.ORS_DBG_STATE)) 15 8 = zsOk ∧
    reg t (orsPage + Reg.ORS_DBG_NONCE) = (Config.random s.draws).toNat % 2 ^ 64 := by
  obtain ⟨r, i, hrest⟩ := authorised_rest a s
  obtain ⟨r', i', hgate⟩ := gateOpened_rest a.scope (modSys (fun y => { y with tapIr := 2 }) s)
  have hscope := scope_of_authJudged hok
  obtain ⟨hbits, hopen⟩ := gate_scope_of_bits hscope (dbgScope_gateOpened hscope (modSys (fun y => { y with tapIr := 2 }) s))
  refine ⟨authorised a s, exec_auth hon hok, ?_, ?_, ?_, ?_, ?_⟩
  · rw [hrest]
  · rw [dbgState_authorised, hbits]
  · rw [dbgState_authorised, hopen]
  · rw [dbgState_authorised, dbgStatus_gateOpened]
  · rw [authorised, hgate]
    exact (reg_setReg_self _ _ _).trans (Nat.mod_mod _ _)

/-! ## The image pull (R433, R434) -/

section
variable {s : State} {p : Pull} (hpull : s.sys.pull = some p)
include hpull

theorem discoverTimer_asks (hnone : p.header = none) : exec .discoverTimer s = .next (sendPull p 1 0 4 (toBytes 4 s.sys.imageFloor) s) := by
  simp only [exec, execDiscoverTimer, hpull, hnone, Option.isSome_none, Bool.false_eq_true, if_false]

/-- An offer that answers the pull and verifies is taken into the spare bank (R434). -/
theorem offer_accepted (hnone : p.header = none) {h : List Byte} (hok : headerFails s h = none) :
    exec (.offer p.port p.session device8 h) s =
      .next (issueReads (modSys (fun y => { y with pull := y.pull.map (fun p => { p with header := some h }) })
        (setBank (spareBank s) { bankOf s (spareBank s) with header := h, gen := none } s))) := by
  simp only [exec, execOffer, hpull, hnone, hok, Option.isSome_none, ne_eq, not_true_eq_false, decide_false, Bool.or_self, Bool.false_eq_true, if_false]

/-- A late read is sent again, counted once more (R434). -/
theorem readTimeout_resends {h : List Byte} {off n : Nat} (hhead : p.header = some h) (hread : tget? p.reads (off - 4096) = some n) (hn : n < 20) :
    exec (.readTimeout off) s = .next (sendPull p 3 off (min 1024 (hLength h - (off - 4096))) []
      (modSys (fun y => { y with pull := some { p with reads := tset p.reads (off - 4096) (n + 1) } }) s)) := by
  simp only [exec, execReadTimeout, hpull, hread, ge_iff_le, Nat.not_le.mpr hn, if_false, hhead, Option.elim_some]

theorem readTimeout_rediscovers {off n : Nat} (hread : tget? p.reads (off - 4096) = some n) (hn : 20 ≤ n) :
    exec (.readTimeout off) s = .next (rediscover s) := by
  simp only [exec, execReadTimeout, hpull, hread, ge_iff_le, hn, if_true]

/-- The data of a read that is out goes into the spare bank, and the pull goes on or ends (R434). -/
theorem pullData_taken {h : List Byte} {off n : Nat} {data : List Byte} (hhead : p.header = some h) (hoff : 4096 ≤ off)
    (hread : tget? p.reads (off - 4096) = some n) (hlen : data.length = min 1024 (hLength h - (off - 4096))) :
    exec (.pullData p.port p.session off data) s = .next (
      let p' := { p with got := sinsert p.got (off - 4096), reads := tdel p.reads (off - 4096) }
      let u := modSys (fun y => { y with pull := some p' })
        (setBank (spareBank s) { bankOf s (spareBank s) with body := bodyPut (bankOf s (spareBank s)).body (off - 4096) data } s)
      if (unasked p').isEmpty && p'.reads.isEmpty then pullEnds h u else issueReads u) := by
  simp only [exec, execPullData, hpull, hhead, hread, hlen, Nat.not_lt.mpr hoff, Option.isNone_some, ne_eq, not_true_eq_false, decide_false,
    Bool.or_self, Bool.false_eq_true, if_false]

/-- A NAK on the pull's port and session makes it ask again (R434). -/
theorem pullNak_rediscovers : exec (.pullNak p.port p.session) s = .next (rediscover s) :=
  congrArg Host.Outcome.next (if_pos (by simp [hpull]))

theorem pullFaultLimit_notes : ∃ t, exec .pullFaultLimit s = .next t ∧ OnlySys [] s t ∧ t.sys = { s.sys with pullFault := true } :=
  ⟨modSys (fun y => { y with pullFault := true }) s, congrArg Host.Outcome.next (if_neg (by simp [hpull])), ⟨rfl, fun _ _ => rfl, fun _ => rfl⟩, rfl⟩

end

/-- Settles O58: SMBus, the TAP, the twin and the pull, each command by what it does where it applies. -/
theorem landsAndPullComplete : Obligations.LandsAndPullComplete := by
  unfold Obligations.LandsAndPullComplete
  intro s
  refine ⟨fun hon => ⟨fun v => congrArg Host.Outcome.next (if_pos hon), ⟨fun r hok hr => smbData_reads hon hok hr, fun hbad => smbData_refused hon hbad⟩,
      congrArg Host.Outcome.next (if_pos hon)⟩, alertResponseRead_releases,
    fun hon => ⟨congrArg Host.Outcome.next (if_pos hon), congrArg Host.Outcome.next (if_pos hon), fun a hok => auth_opens hon hok⟩,
    fun low => ⟨_, rfl, ⟨rfl, fun _ _ => rfl, fun _ => rfl⟩, rfl⟩,
    fun hend => ⟨closeGate s, congrArg Host.Outcome.next (if_neg (Nat.not_lt.mpr hend)), fieldIs_setField s (by decide) (by decide) (by decide)⟩,
    fun hrole => congrArg Host.Outcome.next (if_neg hrole),
    fun htwin => congrArg Host.Outcome.next (if_neg (not_not.mpr htwin)), fun p hpull =>
    ⟨fun hnone => ⟨discoverTimer_asks hpull hnone, fun h hok => offer_accepted hpull hnone hok⟩,
      fun h off n data hhead hoff hread => ⟨fun hn => readTimeout_resends hpull hhead hread hn, fun hn => readTimeout_rediscovers hpull hread hn,
        fun hlen => pullData_taken hpull hhead hoff hread hlen⟩,
      pullNak_rediscovers hpull, pullFaultLimit_notes hpull⟩⟩

end Sys2Proof.Machine
end
